-- ==== Sys2Proof/Word.lean ====
section
/-! DEFINITION. The word types of the machine and their plainest arithmetic. -/

namespace Sys2Proof

abbrev Byte := BitVec 8
abbrev Word := BitVec 64
/-- A vector register, latch, load-data-queue entry or scale register: 2,048 bits (R16, R64). -/
abbrev Vec := BitVec 2048
/-- A mask register: one bit per byte of a vector (R64). -/
abbrev Mask := BitVec 256
/-- A physical address (R22). -/
abbrev Pa := BitVec 52
/-- A core's hardware number: die * 64 + quad * 4 + core (R7). -/
abbrev CoreId := BitVec 11
/-- A quad's module-wide number: die * 16 + quad (R7). -/
abbrev QuadId := BitVec 9
abbrev DieId := BitVec 5

end Sys2Proof
end

