-- ==== Sys2Proof/Machine/Types.lean ====
section
/-! DEFINITION. Element types and the bit-field helpers every other file uses (R31, R32, R35, R40, R50). -/

namespace Sys2Proof.Machine

/-- bits(x, lo + n - 1, lo) of a natural number. -/
def bitsN (x lo n : Nat) : Nat := x / 2 ^ lo % 2 ^ n

/-- The field [lo + n - 1 : lo] of a bit vector, as a natural number. -/
def field {w : Nat} (x : BitVec w) (lo n : Nat) : Nat := bitsN x.toNat lo n

/-- sext(x, n) as an integer: the low n bits of x read as two's complement. -/
def sextN (x n : Nat) : Int :=
  let y := x % 2 ^ n
  if n ≠ 0 ∧ 2 ^ (n - 1) ≤ y then (y : Int) - (2 ^ n : Nat) else y

/-- y mod 2^n of an integer, as a natural number. -/
def wrapN (y : Int) (n : Nat) : Nat := (y % (2 ^ n : Nat)).toNat

/-- sext of an n-bit immediate to 64 bits (R56). -/
def imm64 {n : Nat} (i : BitVec n) : BitVec 64 := i.signExtend 64

/-- A floating-point format (R35): fraction bits, bias, container width, greatest exponent field of a finite number. -/
structure FpFmt where
  width : Nat
  ebits : Nat
  fbits : Nat
  bias  : Nat
  /-- false for e4m3, whose top exponent holds ordinary numbers and one NaN per sign (R35) -/
  ieee  : Bool
  /-- true for e4m3 and e5m2: a finite result out of range saturates (R42) -/
  sat   : Bool
  /-- the canonical NaN of the type (R37) -/
  nan   : Nat
  deriving DecidableEq, Repr

def f32  : FpFmt := ⟨32, 8, 23, 127, true, false, 0x7FC00000⟩
def bf16 : FpFmt := ⟨16, 8, 7, 127, true, false, 0x7FC0⟩
def f16  : FpFmt := ⟨16, 5, 10, 15, true, false, 0x7E00⟩
def e4m3 : FpFmt := ⟨8, 4, 3, 7, false, true, 0x7F⟩
def e5m2 : FpFmt := ⟨8, 5, 2, 15, true, true, 0x7E⟩
/-- The f32 values whose fraction bits [11:0] are zero, on which R121 rounds without full. -/
def f32short : FpFmt := ⟨32, 8, 11, 127, true, false, 0x7FC00⟩
/-- The MX element formats as numbers without infinities or NaNs (R45). -/
def mxe2m1 : FpFmt := ⟨4, 2, 1, 1, false, true, 0⟩
def mxe2m3 : FpFmt := ⟨6, 2, 3, 1, false, true, 0⟩
def mxe3m2 : FpFmt := ⟨6, 3, 2, 3, false, true, 0⟩

/-- The element types of R31. -/
inductive ElemType where
  | int (signed : Bool) (n : Nat)
  | fp (f : FpFmt)
  | block (w c : Nat)
  | mx (f : FpFmt)
  deriving DecidableEq, Repr

/-- The type of a code of R31; none for the reserved codes 13 to 15, 30 and 31. -/
def typeOf (t : Nat) : Option ElemType :=
  match t with
  | 0 => some (.int true 8) | 1 => some (.int true 16) | 2 => some (.int true 32) | 3 => some (.int true 64)
  | 4 => some (.int false 8) | 5 => some (.int false 16) | 6 => some (.int false 32) | 7 => some (.int false 64)
  | 8 => some (.fp f32) | 9 => some (.fp bf16) | 10 => some (.fp f16) | 11 => some (.fp e4m3) | 12 => some (.fp e5m2)
  | 16 => some (.block 2 2) | 17 => some (.block 3 4) | 18 => some (.block 4 4)
  | 19 => some (.block 5 8) | 20 => some (.block 6 8) | 21 => some (.block 7 8) | 22 => some (.block 8 8)
  | 23 => some (.block 12 16) | 24 => some (.block 16 16)
  | 25 => some (.mx mxe2m1) | 26 => some (.mx mxe2m3) | 27 => some (.mx mxe3m2)
  | 28 => some (.mx e4m3) | 29 => some (.mx e5m2)
  | _ => none

/-- The container width of a type (R31). -/
def ElemType.width : ElemType → Nat
  | .int _ n => n
  | .fp f => f.width
  | .block _ c => c
  | .mx f => f.width

def ElemType.isInt : ElemType → Bool
  | .int _ _ => true
  | _ => false

def ElemType.isSigned : ElemType → Bool
  | .int s _ => s
  | _ => false

/-- Container width of a type code; 8 for a reserved code, which no legal instruction names. -/
def tyWidth (t : Nat) : Nat := match typeOf t with | some e => e.width | none => 8

def tySigned (t : Nat) : Bool := match typeOf t with | some e => e.isSigned | none => false

/-- Class I of R106: codes 0 to 7. -/
def classI (t : Nat) : Bool := t ≤ 7
/-- Class F of R106: codes 8 to 10. -/
def classF (t : Nat) : Bool := 8 ≤ t ∧ t ≤ 10
/-- Class X of R106: codes 0 to 12. -/
def classX (t : Nat) : Bool := t ≤ 12
/-- The block-integer codes 16 to 24. -/
def classB (t : Nat) : Bool := 16 ≤ t ∧ t ≤ 24

/-- lo(T) and hi(T), the range of an integer type (R34). -/
def loT (s : Bool) (n : Nat) : Int := if s then -((2 ^ (n - 1) : Nat) : Int) else 0
def hiT (s : Bool) (n : Nat) : Int := if s then ((2 ^ (n - 1) : Nat) : Int) - 1 else ((2 ^ n : Nat) : Int) - 1

def clampI (x lo hi : Int) : Int := if x < lo then lo else if hi < x then hi else x

/-- The A and B block widths a fold step accepts (R50). -/
def foldPairs : List (Nat × Nat) :=
  [(2, 2), (3, 3), (3, 2), (4, 4), (4, 2), (5, 5), (5, 4), (6, 6), (6, 4), (7, 7), (8, 8), (8, 4), (8, 2),
   (12, 12), (12, 8), (16, 16), (16, 8)]

/-- The width w of a block-integer type code; 0 for any other code. -/
def blockW (t : Nat) : Nat := match typeOf t with | some (.block w _) => w | _ => 0

/-- Sub-lanes of the multiplier port for a B width (R157). -/
def foldE (wb : Nat) : Nat :=
  match wb with
  | 2 => 12 | 3 => 6 | 4 => 6 | 5 => 4 | 6 => 4 | 7 => 3 | 8 => 3 | _ => 1

/-- The type code of an atomic's type field (R143): width and signedness; f32 is code 4. -/
def amoWidth (t : Nat) : Nat := if t = 2 ∨ t = 3 then 64 else 32

end Sys2Proof.Machine
end

