-- ==== Sys2Proof/Machine/Num.lean ====
section
/-! DEFINITION. Exact numbers and the one rounding of the floating formats (R34 to R46, R121, R122). -/

namespace Sys2Proof.Machine

/-- The value of a floating encoding: (-1)^neg * m * 2^e when finite; a zero keeps its sign (R35). -/
inductive FVal where
  | nan
  | inf (neg : Bool)
  | fin (neg : Bool) (m : Nat) (e : Int)
  deriving DecidableEq, Repr

/-- The value of a bit pattern in a format (R35, R45). -/
def fpVal (f : FpFmt) (x : Nat) : FVal :=
  let neg := bitsN x (f.ebits + f.fbits) 1 = 1
  let ex := bitsN x f.fbits f.ebits
  let fr := bitsN x 0 f.fbits
  if f.ieee ∧ ex = 2 ^ f.ebits - 1 then (if fr = 0 then .inf neg else .nan)
  else if ¬ f.ieee ∧ f.nan ≠ 0 ∧ ex = 2 ^ f.ebits - 1 ∧ fr = 2 ^ f.fbits - 1 then .nan
  else if ex = 0 then .fin neg fr (1 - (f.bias : Int) - f.fbits)
  else .fin neg (2 ^ f.fbits + fr) ((ex : Int) - f.bias - f.fbits)

/-- Round m / 2^sh to an integer in a mode of R40; sticky says that the true value lies a little above m. -/
def roundSig (mode : Nat) (neg : Bool) (m sh : Nat) (sticky : Bool) : Nat :=
  let q := m / 2 ^ sh
  let r := m % 2 ^ sh
  let inexact := r ≠ 0 ∨ sticky
  let up : Bool :=
    match mode with
    | 0 => 2 ^ sh < 2 * r ∨ (2 * r = 2 ^ sh ∧ (sticky ∨ q % 2 = 1))
    | 1 => false
    | 2 => neg ∧ inexact
    | 3 => ¬ neg ∧ inexact
    | _ => 2 ^ sh ≤ 2 * r
  if up then q + 1 else q

/-- The sign bit of a format. -/
def signBit (f : FpFmt) (neg : Bool) : Nat := if neg then 2 ^ (f.ebits + f.fbits) else 0

/-- The infinity and the largest finite magnitude of a format. -/
def infBits (f : FpFmt) : Nat := (2 ^ f.ebits - 1) * 2 ^ f.fbits
def maxBits (f : FpFmt) : Nat := if f.ieee then infBits f - 1 else if f.nan = 0 then 2 ^ (f.ebits + f.fbits) - 1 else 2 ^ (f.ebits + f.fbits) - 2

/-- A finite result beyond the range (R42). -/
def overflowBits (f : FpFmt) (mode : Nat) (neg : Bool) : Nat :=
  if f.sat then maxBits f
  else
    match mode with
    | 1 => maxBits f
    | 2 => if neg then infBits f else maxBits f
    | 3 => if neg then maxBits f else infBits f
    | _ => infBits f

/-- Round (-1)^neg * m * 2^e once to a format (R40 to R42). -/
def roundFp (f : FpFmt) (mode : Nat) (neg : Bool) (m : Nat) (e : Int) (sticky : Bool) : Nat :=
  if m = 0 then signBit f neg
  else
    let top : Int := (Nat.log2 m : Int) + e
    let emin : Int := 1 - (f.bias : Int)
    let q : Int := (if top < emin then emin else top) - f.fbits
    let sig := if q ≤ e then m * 2 ^ (e - q).toNat else roundSig mode neg m (q - e).toNat sticky
    let mag : Nat :=
      if sig < 2 ^ f.fbits then sig
      else ((q + f.fbits + f.bias).toNat - 1) * 2 ^ f.fbits + sig
    signBit f neg + (if maxBits f < mag then overflowBits f mode neg else mag)

/-- The bits of a value in a format (R37, R42); e4m3 has no infinity and saturates. -/
def toFp (f : FpFmt) (mode : Nat) (v : FVal) : Nat :=
  match v with
  | .nan => f.nan
  | .inf neg => signBit f neg + (if f.ieee then infBits f else maxBits f)
  | .fin neg m e => roundFp f mode neg m e false

/-- A finite value as an integer multiple of 2^e. -/
def finInt (neg : Bool) (m : Nat) : Int := if neg then -(m : Int) else m

/-- m * 2^e brought down to the exponent e0, which is at most e. -/
def alignTo (neg : Bool) (m : Nat) (e e0 : Int) : Int := finInt neg m * ((2 ^ (e - e0).toNat : Nat) : Int)

/-- An integer times 2^e as a value; an exact zero is +0 (R39). -/
def ofInt (z : Int) (e : Int) : FVal := .fin (z < 0) z.natAbs e

def minI (a b : Int) : Int := if a ≤ b then a else b

/-- Exact sum (R39, rounding mode not RDN). -/
def fAdd (a b : FVal) : FVal :=
  match a, b with
  | .nan, _ => .nan
  | _, .nan => .nan
  | .inf x, .inf y => if x = y then .inf x else .nan
  | .inf x, _ => .inf x
  | _, .inf y => .inf y
  | .fin x m e, .fin y n g =>
    if m = 0 ∧ n = 0 then .fin (x && y) 0 0
    else
      let e0 := minI e g
      ofInt (alignTo x m e e0 + alignTo y n g e0) e0

def fNeg (a : FVal) : FVal :=
  match a with
  | .nan => .nan
  | .inf x => .inf (!x)
  | .fin x m e => .fin (!x) m e

/-- Exact product (R39). -/
def fMul (a b : FVal) : FVal :=
  match a, b with
  | .nan, _ => .nan
  | _, .nan => .nan
  | .inf x, .inf y => .inf (x != y)
  | .inf x, .fin y m _ => if m = 0 then .nan else .inf (x != y)
  | .fin x m _, .inf y => if m = 0 then .nan else .inf (x != y)
  | .fin x m e, .fin y n g => .fin (x != y) (m * n) (e + g)

/-- a < b on values that are not NaN; the two zeros are equal (R39). -/
def fLt (a b : FVal) : Bool :=
  match a, b with
  | .nan, _ => false
  | _, .nan => false
  | .inf x, .inf y => x && !y
  | .inf x, _ => x
  | _, .inf y => !y
  | .fin x m e, .fin y n g =>
    let e0 := minI e g
    alignTo x m e e0 < alignTo y n g e0

def fEq (a b : FVal) : Bool :=
  match a, b with
  | .nan, _ => false
  | _, .nan => false
  | _, _ => !(fLt a b) && !(fLt b a)

def isNaN (a : FVal) : Bool := a = .nan

def isNegV (a : FVal) : Bool :=
  match a with
  | .nan => false
  | .inf x => x
  | .fin x _ _ => x

/-- min and max of R39: -0 lies below +0, one NaN yields the other operand. -/
def fMin (a b : FVal) : FVal :=
  if isNaN a then b else if isNaN b then a
  else if fLt a b then a else if fLt b a then b else if isNegV a then a else b

def fMax (a b : FVal) : FVal :=
  if isNaN a then b else if isNaN b then a
  else if fLt a b then b else if fLt b a then a else if isNegV a then b else a

def fAbs (a : FVal) : FVal :=
  match a with
  | .nan => .nan
  | .inf _ => .inf false
  | .fin _ m e => .fin false m e

/-- An integer as an exact value. -/
def fOfInt (z : Int) : FVal := ofInt z 0

/-- Round a finite value to an integer in a mode of R40. -/
def roundInt (mode : Nat) (neg : Bool) (m : Nat) (e : Int) : Int :=
  finInt neg (if 0 ≤ e then m * 2 ^ e.toNat else roundSig mode neg m (-e).toNat false)

/-- Conversion to an integer type (R42): NaN gives 0, everything else is clamped. A value whose exponent exceeds 128 lies far
beyond every integer type and is clamped at once. -/
def toIntT (signed : Bool) (n : Nat) (mode : Nat) (v : FVal) : Nat :=
  match v with
  | .nan => 0
  | .inf neg => wrapN (if neg then loT signed n else hiT signed n) n
  | .fin neg m e =>
    let z : Int := roundInt mode neg m (if 128 < e then 128 else e)
    wrapN (clampI z (loT signed n) (hiT signed n)) n

/-- The value of an element of a type: an integer, a float, a block mantissa (R32, R33, R114). -/
def elemVal (ty : ElemType) (x : Nat) : FVal :=
  match ty with
  | .int true n => fOfInt (sextN x n)
  | .int false n => fOfInt (x % 2 ^ n : Nat)
  | .fp f => fpVal f x
  | .block w _ => fOfInt (sextN x w)
  | .mx f => fpVal f x

/-- A value written as an element of a type of class X (R42). -/
def valElem (ty : ElemType) (mode : Nat) (v : FVal) : Nat :=
  match ty with
  | .int s n => toIntT s n mode v
  | .fp f => toFp f mode v
  | .block _ _ => 0
  | .mx _ => 0

/-! Block quantisation (R43, R44). -/

/-- floor(log2 |x|) of a finite non-zero value. -/
def ilog2 (v : FVal) : Option Int :=
  match v with
  | .fin _ m e => if m = 0 then none else some ((Nat.log2 m : Int) + e)
  | _ => none

def maxLog (l : List FVal) : Option Int :=
  l.foldl (fun acc v =>
    match ilog2 v, acc with
    | none, a => a
    | some x, none => some x
    | some x, some y => some (if y < x then x else y)) none

def isFin (v : FVal) : Bool :=
  match v with
  | .fin _ _ _ => true
  | _ => false

/-- A value times 2^k. -/
def fScale (v : FVal) (k : Int) : FVal :=
  match v with
  | .fin x m e => .fin x m (e + k)
  | v => v

/-- The scale word from its fields (R43). -/
def scaleWord (e f : Nat) (zero nan : Bool) : Nat :=
  e + f * 2 ^ 8 + (if zero then 2 ^ 24 else 0) + (if nan then 2 ^ 25 else 0)

/-- Quantise a block of values to w-bit mantissas and one scale word (R44). -/
def quantBlock (w mode : Nat) (xs : List FVal) : List Int × Nat :=
  if xs.any (fun v => !isFin v) then (xs.map (fun _ => 0), scaleWord 0 0 false true)
  else
    match maxLog xs with
    | none => (xs.map (fun _ => 0), scaleWord 0 0 true false)
    | some t =>
      let e : Int := clampI (t - ((w : Int) - 2) + 127) 0 255
      let hi : Int := ((2 ^ (w - 1) : Nat) : Int) - 1
      let ms := xs.map (fun v =>
        match fScale v (127 - e) with
        | .fin neg m g => clampI (roundInt mode neg m g) (-hi) hi
        | _ => 0)
      (ms, scaleWord e.toNat 0x8000 (ms.all (fun m => m = 0)) false)

/-- The value of a block-integer mantissa under its scale word (R43). -/
def blockVal (m : Int) (sw : Nat) : FVal :=
  if bitsN sw 25 1 = 1 then .nan
  else if bitsN sw 24 1 = 1 then .fin false 0 0
  else ofInt (m * (bitsN sw 8 16 : Nat)) ((bitsN sw 0 8 : Nat) - 127 - 15)

/-! The approximations of R121 and R122, on exact numbers. -/

/-- A result to be rounded: exact, or a magnitude with the true value a little above it. -/
inductive Near where
  | exact (v : FVal)
  | above (neg : Bool) (m : Nat) (e : Int)
  deriving DecidableEq, Repr

/-- Round a result to a format, to nearest even. -/
def nearFp (f : FpFmt) (r : Near) : Nat :=
  match r with
  | .exact v => toFp f 0 v
  | .above neg m e => roundFp f 0 neg m e true

/-- floor(sqrt n) by its binary digits, from bit k - 1 down. -/
def isqrtGo (n : Nat) : Nat → Nat → Nat
  | 0, r => r
  | k + 1, r => isqrtGo n k (if (r + 2 ^ k) * (r + 2 ^ k) ≤ n then r + 2 ^ k else r)

def isqrt (n : Nat) : Nat := isqrtGo n (Nat.log2 n / 2 + 1) 0

/-- 320 fraction bits of ln 2. -/
def ln2Fix : Nat := 0xb17217f7d1cf79abc9e3b39803f2f6af40f343267298b62d8a0d175b8baafa2be7b876206debac98

def fixP : Nat := 320

/-- The terms of e^t, t a fixed-point number: each from the one before. -/
def expTerms (t : Nat) : Nat → Nat → Nat → Nat → Nat
  | 0, _, _, acc => acc
  | fuel + 1, k, term, acc =>
    let term' := term * t / 2 ^ fixP / k
    expTerms t fuel (k + 1) term' (acc + term')

/-- 2^fr for a fixed-point fr in [0, 1], as a fixed-point number in [1, 2]. -/
def exp2Fix (fr : Nat) : Nat := expTerms (fr * ln2Fix / 2 ^ fixP) 90 1 (2 ^ fixP) (2 ^ fixP)

/-- The terms of atanh z, z a fixed-point number. -/
def atanhTerms (zz : Nat) : Nat → Nat → Nat → Nat → Nat
  | 0, _, _, acc => acc
  | fuel + 1, k, pw, acc =>
    let pw' := pw * zz / 2 ^ fixP
    atanhTerms zz fuel (k + 2) pw' (acc + pw' / k)

/-- log2 of a number in [1, 2) given as a / b, as a fixed-point number. -/
def log2Fix (a b : Nat) : Nat :=
  let z := (a - b) * 2 ^ fixP / (a + b)
  let zz := z * z / 2 ^ fixP
  2 * atanhTerms zz 110 3 z z * 2 ^ fixP / ln2Fix

/-- m * 2^e as a fixed-point number. -/
def toFix (m : Nat) (e : Int) : Nat :=
  let sh := e + fixP
  if 0 ≤ sh then m * 2 ^ sh.toNat else m / 2 ^ (-sh).toNat

def rcpV (v : FVal) : Near :=
  match v with
  | .nan => .exact .nan
  | .inf neg => .exact (.fin neg 0 0)
  | .fin neg m e =>
    if m = 0 then .exact (.inf neg)
    else
      let k := Nat.log2 m + 80
      let q := 2 ^ k / m
      if q * m = 2 ^ k then .exact (.fin neg q (-(k : Int) - e)) else .above neg q (-(k : Int) - e)

def rsqV (v : FVal) : Near :=
  match v with
  | .nan => .exact .nan
  | .inf neg => .exact (if neg then .nan else .fin false 0 0)
  | .fin neg m e =>
    if m = 0 then .exact (.inf neg)
    else if neg then .exact .nan
    else
      let odd := e % 2 = 1
      let m2 := if odd then 2 * m else m
      let e2 := if odd then e - 1 else e
      let k := Nat.log2 m2 + 100
      let r := isqrt (2 ^ (2 * k) / m2)
      if r * r * m2 = 2 ^ (2 * k) then .exact (.fin false r (-(k : Int) - e2 / 2))
      else .above false r (-(k : Int) - e2 / 2)

def exp2V (v : FVal) : Near :=
  match v with
  | .nan => .exact .nan
  | .inf neg => .exact (if neg then .fin false 0 0 else .inf false)
  | .fin neg m e =>
    if m = 0 then .exact (.fin false 1 0)
    else if 11 ≤ (Nat.log2 m : Int) + e then
      (if neg then .above false 1 (-2000) else .above false (2 ^ 100) 1900)
    else
      let x := toFix m e
      let ip := x / 2 ^ fixP
      let fr := x % 2 ^ fixP
      if fr = 0 then .exact (.fin false 1 (if neg then -(ip : Int) else ip))
      else if neg then .above false (exp2Fix (2 ^ fixP - fr)) (-(ip : Int) - 1 - fixP)
      else .above false (exp2Fix fr) ((ip : Int) - fixP)

def log2V (v : FVal) : Near :=
  match v with
  | .nan => .exact .nan
  | .inf neg => .exact (if neg then .nan else .inf false)
  | .fin neg m e =>
    if m = 0 then .exact (.inf true)
    else if neg then .exact .nan
    else
      let k := Nat.log2 m
      let ex : Int := e + k
      if m = 2 ^ k then .exact (fOfInt ex)
      else
        let t : Int := ex * (2 ^ fixP : Nat) + log2Fix m (2 ^ k)
        .above (t < 0) t.natAbs (-(fixP : Int))

def sigmV (v : FVal) : Near :=
  match v with
  | .nan => .exact .nan
  | .inf neg => .exact (if neg then .fin false 0 0 else .fin false 1 0)
  | .fin neg m e =>
    if m = 0 then .exact (.fin false 1 (-1))
    else if 9 ≤ (Nat.log2 m : Int) + e then
      (if neg then .above false 1 (-500) else .above false (2 ^ 400 - 1) (-400))
    else
      let w := toFix m e * 2 ^ fixP / ln2Fix
      let n := w / 2 ^ fixP
      let y := exp2Fix (2 ^ fixP - w % 2 ^ fixP)
      let one := 2 ^ (fixP + n + 1)
      .above false ((if neg then y else one) * 2 ^ 1200 / (one + y)) (-1200)

end Sys2Proof.Machine
end

