-- ==== Sys2Proof/Config.lean ====
section
/-! DEFINITION. What an implementation fixes and the values the spec leaves open: opaque constants, of which nothing can be
proved but that they are constants (log entry 6). -/

namespace Sys2Proof

/-- A free value for each count of the State's counter `fresh` (log entry 6). -/
opaque Config.freeVec : Nat → BitVec 2048

/-- A free choice for each count of `fresh` (log entry 6). -/
opaque Config.freeBit : Nat → Bool

/-- Which of the held lines or entries a full cache or TLB gives up, for each count of `fresh` (R243, R3; log entry 9). -/
opaque Config.victim : Nat → Nat

/-- Whether an array of so many units, of so many columns each, counts its columns as for TAPS before a step has fixed the family
(R157, R183; log entry 11). -/
opaque Config.openFamily : Nat → Nat → Bool

/-- AES-256-XTS of a 4,096-byte unit under the key pair of a handle, which no register holds: encryption or decryption, the
handle, the unit's number VA[59:12], the data (R200, R376; log entry 15). -/
opaque Config.xts : Bool → Nat → Nat → BitVec 32768 → BitVec 32768

/-- The implementation-defined payload of a flit (R359): which bytes of the line at its address a write request writes, the
values of the line's bytes in a write request or a reply, and what an atomic request makes of the 8 bytes there (log entry 20). -/
opaque Config.flitMask : BitVec 2048 → BitVec 128
opaque Config.flitData : BitVec 2048 → BitVec 1024
opaque Config.flitAtomic : BitVec 2048 → BitVec 64 → BitVec 64

/-- The credits that a port has at first for each class and hop, and those that a credit flit grants, 16 bits for each (R26, R364;
log entry 108). -/
opaque Config.linkCredits : Nat → Nat
opaque Config.flitCredits : BitVec 2048 → BitVec 96

/-- What a reply says: the request was refused at the home, or the bytes of the line there (R359, R368; log entry 20). -/
opaque Config.flitAnswer : Bool → BitVec 1024 → BitVec 2048

/-- Whether a reply says that its request was refused at the home (R359, R368; log entry 20). -/
opaque Config.flitRefused : BitVec 2048 → Bool

/-- What a completion flit says (R359; log entry 35): [1:0] an arrival was taken (0), a phase has completed (1), the barrier has
failed or is off (2), an arrival was refused (3); [33:2] the phase; [37:34] the reason; [39:38] whose arrival it answers: a core's
(0), a queue's (1), a port's (2), none (3); [54:40] the core and arrival entry, the queue or the port; [127:64] the entry's serial. -/
opaque Config.flitNews : BitVec 2048 → BitVec 128

/-- What an arrival flit says (R359; log entry 35): [1:0] an arrival (0), a withdrawal (1), the end of a node's last task (2), a
question for the phase (3); [2] of a task; [3] its group is a gang; [40:4] the node's handle; [88:41] T − g; [91:89] src;
[102:92] the core; [118:103] its REGTOP.top; [191:128] CYCLE or module time. -/
opaque Config.flitArrival : BitVec 2048 → BitVec 192

/-- Whether a transaction number names a transaction of a copy engine at its source (R370; log entry 20). -/
opaque Config.copyTid : BitVec 8 → Bool

/-- The RSASSA-PSS signature of a measurement report under the identity key, which never leaves the controller (R381, R382;
log entry 15). -/
opaque Config.sign : Vector (BitVec 512) 8 → BitVec 4096

/-- The SHA-512 digest of an image (R382; log entry 15). -/
opaque Config.sha512 : List (BitVec 8) → BitVec 512

/-- Which 256 MiB of HBM the module controller reserves at boot (R380; log entry 144). -/
opaque Config.golden : Nat

end Sys2Proof
end

