-- ==== Sys2Proof/Syntax.lean ====
section
/-! DEFINITION. The instructions and events of the Poreus M32: one constructor per row of the opcode table, in the
table's order but for the rows without operands, which follow the other syllables. An encoded row carries its encoding
fields, raw and under the table's names; a V row also carries which of the two vector slots issues it. The SYNC bit of a C
syllable is bit 63 of the bundle (R54) and stands with the bundle, not with the C instruction. An event row has no bits: its operands name the occurrence. -/

namespace Sys2Proof

/-- The two vector slots, which share the V map (R73). -/
inductive VSlot where
  | va | vb
  deriving DecidableEq, Repr

/-- Who makes an access that is translated (R239, R242): a core fetching code, a core's L or W slot, a copy-engine
channel of a die, or the dispatcher of a die. -/
inductive Walker where
  | fetch (n : CoreId)
  | slotL (n : CoreId)
  | slotW (n : CoreId)
  | engine (d : DieId) (ch : BitVec 4)
  | disp (d : DieId)
  deriving DecidableEq, Repr

/-- Where a command stands that a channel is to accept (R189, R310): an entry of a core's store queue, or the dispatcher of a
die. -/
inductive CmdSource where
  | core (n : CoreId) (i : BitVec 6)
  | disp (d : DieId)
  deriving DecidableEq, Repr

/-- The structure in which an uncorrectable error is detected (R372). -/
inductive Site where
  /-- a line of HBM or the second tier, found by a scrubber or an access -/
  | line (pa : Pa)
  /-- a line held in its home L2 slice -/
  | slice (pa : Pa)
  /-- a clean line of a core's L1 or instruction cache, or an entry of its TLBs -/
  | cache (n : CoreId)
  /-- an entry of a quad's L2 TLB or walk cache -/
  | quadTlb (q : QuadId)
  | pad (pa : Pa)
  | acc (n : CoreId)
  /-- fold-array state of a quad -/
  | fold (q : QuadId)
  /-- registers, latches, queues or replay buffer of a core -/
  | regs (n : CoreId)
  | channel (c : BitVec 9)
  | barrier (b : BitVec 16)
  | link (p : BitVec 6)
  /-- the queue-table line of a dispatcher that holds its slots 4k to 4k + 3 -/
  | qtable (d : DieId) (k : BitVec 2)
  | imem (d : DieId)
  /-- the row-remap or swap table of a pseudo-channel -/
  | remap (k : BitVec 10)
  deriving DecidableEq, Repr

/-- One constructor per row of the opcode table (R71 to R78 and the events of the chapters). -/
inductive Instr where
  | sAdd (w : BitVec 1) (d a b : BitVec 6)
  | sSub (w : BitVec 1) (d a b : BitVec 6)
  | sAddi (w : BitVec 1) (d : BitVec 6) (i : BitVec 12) (a : BitVec 6)
  | sMul (w : BitVec 1) (d a b : BitVec 6)
  | sMulh (w : BitVec 1) (d a b : BitVec 6) (t : BitVec 5)
  | sMin (w : BitVec 1) (d a b : BitVec 6) (t : BitVec 5)
  | sMax (w : BitVec 1) (d a b : BitVec 6) (t : BitVec 5)
  | sAnd (w : BitVec 1) (d a b : BitVec 6)
  | sOr (w : BitVec 1) (d a b : BitVec 6)
  | sXor (w : BitVec 1) (d a b : BitVec 6)
  | sAndn (w : BitVec 1) (d a b : BitVec 6)
  | sAndi (w : BitVec 1) (d : BitVec 6) (i : BitVec 12) (a : BitVec 6)
  | sOri (w : BitVec 1) (d : BitVec 6) (i : BitVec 12) (a : BitVec 6)
  | sXori (w : BitVec 1) (d : BitVec 6) (i : BitVec 12) (a : BitVec 6)
  | sShl (w : BitVec 1) (d a b : BitVec 6)
  | sShr (w : BitVec 1) (d a b : BitVec 6)
  | sSar (w : BitVec 1) (d a b : BitVec 6)
  | sShli (w : BitVec 1) (d k a : BitVec 6)
  | sShri (w : BitVec 1) (d k a : BitVec 6)
  | sSari (w : BitVec 1) (d k a : BitVec 6)
  | sFsh (w : BitVec 1) (d a b k : BitVec 6)
  | sFshi (w : BitVec 1) (d k a : BitVec 6)
  | sBfx (w : BitVec 1) (d a b : BitVec 6) (x : BitVec 1)
  | sBfxi (w : BitVec 1) (d l p a : BitVec 6)
  | sBfi (w : BitVec 1) (d a b : BitVec 6) (x : BitVec 1)
  | sBfii (w : BitVec 1) (d l p a : BitVec 6)
  | sPcnt (w : BitVec 1) (d a : BitVec 6) (t : BitVec 5)
  | sClz (w : BitVec 1) (d a : BitVec 6) (t : BitVec 5)
  | sCtz (w : BitVec 1) (d a : BitVec 6) (t : BitVec 5)
  | sBrev (w : BitVec 1) (d a : BitVec 6) (t : BitVec 5)
  | sBitrev (w : BitVec 1) (d a : BitVec 6) (t : BitVec 5)
  | sSel (w : BitVec 1) (d a b : BitVec 6) (m : BitVec 4)
  | sCmp (m : BitVec 4) (a b : BitVec 6) (c : BitVec 3)
  | sCmpi (c : BitVec 2) (m : BitVec 4) (i : BitVec 12) (a : BitVec 6)
  | sLi (w : BitVec 1) (d : BitVec 6) (i : BitVec 18)
  | sLih (w : BitVec 1) (d : BitVec 6) (i : BitVec 18)
  | sLea (w : BitVec 1) (d a b : BitVec 6) (k : BitVec 3)
  | sLeai (w : BitVec 1) (d : BitVec 6) (i : BitVec 12) (a : BitVec 6)
  | sAbs (w : BitVec 1) (d a : BitVec 6) (t : BitVec 5)
  | sAdds (w : BitVec 1) (d a b : BitVec 6) (t : BitVec 5)
  | sSubs (w : BitVec 1) (d a b : BitVec 6) (t : BitVec 5)
  | sSrd (w : BitVec 1) (d : BitVec 6) (i : BitVec 12)
  | sSwr (i : BitVec 12) (a : BitVec 6)
  | sCptr (w : BitVec 1) (d : BitVec 6) (i : BitVec 12) (a : BitVec 6)
  | sExt (w : BitVec 1) (d a : BitVec 6) (t : BitVec 5)
  | cBr (m : BitVec 4) (p : BitVec 15) (l : BitVec 5)
  | cBrn (m : BitVec 4) (p : BitVec 15) (l : BitVec 5)
  | cBrany (m : BitVec 4) (p : BitVec 15) (l : BitVec 5)
  | cBrall (m : BitVec 4) (p : BitVec 15) (l : BitVec 5)
  | cJmp (p : BitVec 15) (l : BitVec 5)
  | cJmpi (a : BitVec 6)
  | cCall (x : BitVec 5) (p : BitVec 15) (l : BitVec 5)
  | cCalli (x : BitVec 5) (a : BitVec 6)
  | cRet (a : BitVec 6)
  | cLoop (l : BitVec 5)
  | cLoopi (e : BitVec 3) (n : BitVec 16)
  | cLend (k o : BitVec 2)
  | cEnter (i : BitVec 16)
  | cLeave (i : BitVec 16)
  | cTrap (c : BitVec 12)
  | cBrk (c : BitVec 12)
  | cTkwait (l : BitVec 16) (t : BitVec 6)
  | cTkall (l : BitVec 16) (a : BitVec 6)
  | cTkclr (a : BitVec 6)
  | cBwait (l : BitVec 16) (j : BitVec 4)
  | cBtest (j : BitVec 4) (p : BitVec 15) (l : BitVec 5)
  | cIfence (a : BitVec 6)
  | cMwait (m : BitVec 2) (l : BitVec 16)
  | cRot (n : BitVec 1)
  | cQset (e : BitVec 3) (a : BitVec 6)
  | cBset (j : BitVec 3) (c : BitVec 12) (a : BitVec 6)
  | cGap (n : BitVec 6)
  | vAdd (vs : VSlot) (w : BitVec 1) (d a b : BitVec 6) (t : BitVec 5)
  | vSub (vs : VSlot) (w : BitVec 1) (d a b : BitVec 6) (t : BitVec 5)
  | vMul (vs : VSlot) (w : BitVec 1) (d a b : BitVec 6) (t : BitVec 5)
  | vMulh (vs : VSlot) (w : BitVec 1) (d a b : BitVec 6) (t : BitVec 5)
  | vFma (vs : VSlot) (w : BitVec 1) (d a b : BitVec 6) (t : BitVec 5)
  | vFms (vs : VSlot) (w : BitVec 1) (d a b : BitVec 6) (t : BitVec 5)
  | vFnma (vs : VSlot) (w : BitVec 1) (d a b : BitVec 6) (t : BitVec 5)
  | vMin (vs : VSlot) (w : BitVec 1) (d a b : BitVec 6) (t : BitVec 5)
  | vMax (vs : VSlot) (w : BitVec 1) (d a b : BitVec 6) (t : BitVec 5)
  | vAbs (vs : VSlot) (w : BitVec 1) (d a : BitVec 6) (t : BitVec 5)
  | vNeg (vs : VSlot) (w : BitVec 1) (d a : BitVec 6) (t : BitVec 5)
  | vAdds (vs : VSlot) (w : BitVec 1) (d a b : BitVec 6) (t : BitVec 5)
  | vSubs (vs : VSlot) (w : BitVec 1) (d a b : BitVec 6) (t : BitVec 5)
  | vAvg (vs : VSlot) (w : BitVec 1) (d a b : BitVec 6) (t : BitVec 5)
  | vMac (vs : VSlot) (w : BitVec 1) (d a b : BitVec 6) (t : BitVec 5)
  | vCmp (vs : VSlot) (c : BitVec 2) (m : BitVec 4) (a b : BitVec 6) (h : BitVec 1) (t : BitVec 5)
  | vCmpi (vs : VSlot) (c : BitVec 2) (m : BitVec 4) (t : BitVec 3) (v : BitVec 9) (a : BitVec 6)
  | vAnd (vs : VSlot) (w : BitVec 1) (d a b : BitVec 6)
  | vOr (vs : VSlot) (w : BitVec 1) (d a b : BitVec 6)
  | vXor (vs : VSlot) (w : BitVec 1) (d a b : BitVec 6)
  | vAndn (vs : VSlot) (w : BitVec 1) (d a b : BitVec 6)
  | vNot (vs : VSlot) (w : BitVec 1) (d a : BitVec 6)
  | vShl (vs : VSlot) (w : BitVec 1) (d a b : BitVec 6) (t : BitVec 5)
  | vShr (vs : VSlot) (w : BitVec 1) (d a b : BitVec 6) (t : BitVec 5)
  | vSar (vs : VSlot) (w : BitVec 1) (d a b : BitVec 6) (t : BitVec 5)
  | vShli (vs : VSlot) (w : BitVec 1) (d : BitVec 6) (t : BitVec 3) (k a : BitVec 6)
  | vShri (vs : VSlot) (w : BitVec 1) (d : BitVec 6) (t : BitVec 3) (k a : BitVec 6)
  | vSari (vs : VSlot) (w : BitVec 1) (d : BitVec 6) (t : BitVec 3) (k a : BitVec 6)
  | vRotl (vs : VSlot) (w : BitVec 1) (d a b : BitVec 6) (t : BitVec 5)
  | vFsh (vs : VSlot) (w : BitVec 1) (d a b : BitVec 6) (t : BitVec 5)
  | vBfx (vs : VSlot) (w : BitVec 1) (d a b : BitVec 6) (x : BitVec 1) (t : BitVec 5)
  | vBfi (vs : VSlot) (w : BitVec 1) (d a b : BitVec 6) (t : BitVec 5)
  | vPcnt (vs : VSlot) (w : BitVec 1) (d a : BitVec 6) (t : BitVec 5)
  | vClz (vs : VSlot) (w : BitVec 1) (d a : BitVec 6) (t : BitVec 5)
  | vCvt (vs : VSlot) (w : BitVec 1) (d a : BitVec 6) (r : BitVec 1) (s : BitVec 5) (q : BitVec 1) (t : BitVec 5)
  | vCvtn (vs : VSlot) (w : BitVec 1) (d a : BitVec 6) (s : BitVec 5) (h : BitVec 1) (t : BitVec 5)
  | vCvtw (vs : VSlot) (w : BitVec 1) (d a : BitVec 6) (r : BitVec 1) (s : BitVec 5) (q : BitVec 1) (t : BitVec 5)
  | vCvth (vs : VSlot) (w : BitVec 1) (d a : BitVec 6) (r : BitVec 1) (s : BitVec 5) (q : BitVec 1) (t : BitVec 5)
  | vQblk (vs : VSlot) (w : BitVec 1) (d a : BitVec 6) (r : BitVec 1) (s : BitVec 5) (c : BitVec 1) (t : BitVec 5)
  | vPack (vs : VSlot) (w : BitVec 1) (d a b : BitVec 6) (t : BitVec 5)
  | vPackw (vs : VSlot) (d a b : BitVec 6) (t : BitVec 5)
  | vXtr (vs : VSlot) (w : BitVec 1) (d a b : BitVec 6) (t : BitVec 5)
  | vXtrw (vs : VSlot) (w : BitVec 1) (d a b : BitVec 6) (t : BitVec 5)
  | vBcast (vs : VSlot) (w : BitVec 1) (d a b : BitVec 6) (t : BitVec 5)
  | vBcasti (vs : VSlot) (w : BitVec 1) (d : BitVec 6) (z : BitVec 2) (i : BitVec 8) (a : BitVec 6)
  | vLane (vs : VSlot) (w : BitVec 1) (d a b : BitVec 6) (t : BitVec 5)
  | vPerm (vs : VSlot) (w : BitVec 1) (d a b : BitVec 6) (t : BitVec 5)
  | vZip (vs : VSlot) (w : BitVec 1) (d a b : BitVec 6) (h : BitVec 1) (t : BitVec 5)
  | vUnzip (vs : VSlot) (w : BitVec 1) (d a b : BitVec 6) (c : BitVec 1) (t : BitVec 5)
  | vLrot (vs : VSlot) (w : BitVec 1) (d a b : BitVec 6) (t : BitVec 5)
  | vSlide (vs : VSlot) (w : BitVec 1) (d a b : BitVec 6) (n : BitVec 1) (t : BitVec 5)
  | vCmpr (vs : VSlot) (w : BitVec 1) (d a : BitVec 6) (m : BitVec 4) (t : BitVec 5)
  | vExpd (vs : VSlot) (w : BitVec 1) (d a : BitVec 6) (m : BitVec 4) (t : BitVec 5)
  | vRadd (vs : VSlot) (w : BitVec 1) (d a : BitVec 6) (t : BitVec 5)
  | vRmax (vs : VSlot) (w : BitVec 1) (d a : BitVec 6) (t : BitVec 5)
  | vRmin (vs : VSlot) (w : BitVec 1) (d a : BitVec 6) (t : BitVec 5)
  | vRbor (vs : VSlot) (w : BitVec 1) (d a : BitVec 6) (t : BitVec 5)
  | vScan (vs : VSlot) (w : BitVec 1) (d a : BitVec 6) (x : BitVec 1) (t : BitVec 5)
  | vLut (vs : VSlot) (w : BitVec 1) (d a b : BitVec 6) (t : BitVec 5)
  | vLuti (vs : VSlot) (w : BitVec 1) (d a b : BitVec 6) (t : BitVec 5)
  | vRcp (vs : VSlot) (w : BitVec 1) (d a : BitVec 6) (f : BitVec 1) (t : BitVec 5)
  | vRsq (vs : VSlot) (w : BitVec 1) (d a : BitVec 6) (f : BitVec 1) (t : BitVec 5)
  | vExp2 (vs : VSlot) (w : BitVec 1) (d a : BitVec 6) (f : BitVec 1) (t : BitVec 5)
  | vLog2 (vs : VSlot) (w : BitVec 1) (d a : BitVec 6) (f : BitVec 1) (t : BitVec 5)
  | vSigm (vs : VSlot) (w : BitVec 1) (d a : BitVec 6) (f : BitVec 1) (t : BitVec 5)
  | vSel (vs : VSlot) (w : BitVec 1) (d a b : BitVec 6) (m : BitVec 4)
  | vMand (vs : VSlot) (d a b : BitVec 4)
  | vMor (vs : VSlot) (d a b : BitVec 4)
  | vMxor (vs : VSlot) (d a b : BitVec 4)
  | vMnot (vs : VSlot) (d a : BitVec 4)
  | vMpop (vs : VSlot) (w : BitVec 1) (d : BitVec 6) (m : BitVec 4) (t : BitVec 5)
  | vMfirst (vs : VSlot) (w : BitVec 1) (d : BitVec 6) (m : BitVec 4) (t : BitVec 5)
  | vClamp (vs : VSlot) (w : BitVec 1) (d a b : BitVec 6) (t : BitVec 5)
  | vIota (vs : VSlot) (w : BitVec 1) (d a : BitVec 6) (t : BitVec 5)
  | vMovi (vs : VSlot) (w : BitVec 1) (d : BitVec 6) (m : BitVec 2) (v : BitVec 16)
  | vFcls (vs : VSlot) (w : BitVec 1) (d a : BitVec 6) (t : BitVec 5)
  | vDot (vs : VSlot) (w : BitVec 1) (d a b : BitVec 6) (t : BitVec 5)
  | lLd (a b : BitVec 6) (t : BitVec 5)
  | lLdi (j : BitVec 3) (p : BitVec 1) (o : BitVec 11) (x : BitVec 6)
  | lLdst (a b : BitVec 6) (t : BitVec 5)
  | lLdx (a b : BitVec 6)
  | lLdb (j : BitVec 3) (p : BitVec 1) (o : BitVec 11) (x : BitVec 6)
  | lLdsc (a b : BitVec 6) (t : BitVec 5)
  | lLdw (m : BitVec 4) (a b : BitVec 6)
  | lLdg (a b : BitVec 6) (t : BitVec 5)
  | lLdgi (j : BitVec 3) (p : BitVec 1) (o : BitVec 11) (x : BitVec 6)
  | lLdgx (a b : BitVec 6)
  | lLdgsc (a b : BitVec 6) (t : BitVec 5)
  | lLdacq (s : BitVec 3) (a : BitVec 6) (t : BitVec 5)
  | lLdr (m : BitVec 4) (a b : BitVec 6)
  | lWait (s : BitVec 3) (a b : BitVec 6) (t : BitVec 5)
  | lWaitne (s : BitVec 3) (a b : BitVec 6) (t : BitVec 5)
  | lWadv (a : BitVec 6) (n : BitVec 3)
  | lWmap (a b : BitVec 6) (n : BitVec 3)
  | lWres (m : BitVec 4) (a : BitVec 6) (n : BitVec 3)
  | lPreq (a b : BitVec 6)
  | lPf (a b : BitVec 6)
  | lPfl2 (a b : BitVec 6)
  | lLdm (m : BitVec 4) (a b : BitVec 6)
  | lLdstamp (a b : BitVec 6)
  | lLdacc (a b : BitVec 6)
  | lLdaccw (a b : BitVec 6)
  | lLdz (a b : BitVec 6)
  | lLds (a b : BitVec 6)
  | lXlat (a b : BitVec 6)
  | lLdnt (a b : BitVec 6)
  | wSt (d a b : BitVec 6) (t : BitVec 5)
  | wSti (j : BitVec 3) (p : BitVec 1) (o : BitVec 11) (d : BitVec 6)
  | wStst (d a b : BitVec 6) (t : BitVec 5)
  | wStx (d a b : BitVec 6)
  | wStsc (d a b : BitVec 6) (t : BitVec 5)
  | wStw (d a b : BitVec 6)
  | wStg (d a b : BitVec 6) (t : BitVec 5)
  | wStgi (j : BitVec 3) (p : BitVec 1) (o : BitVec 11) (d : BitVec 6)
  | wStgx (d a b : BitVec 6)
  | wStgsc (d a b : BitVec 6) (t : BitVec 5)
  | wStrel (s : BitVec 3) (a b : BitVec 6) (t : BitVec 5)
  | wStacc (d a b : BitVec 6) (x : BitVec 1)
  | wStm (m : BitVec 4) (a b : BitVec 6)
  | wAmo (n : BitVec 1) (m : BitVec 2) (a b : BitVec 6) (o t : BitVec 3)
  | wAmoacq (s : BitVec 3) (n : BitVec 1) (m : BitVec 2) (a b : BitVec 6) (o t : BitVec 3)
  | wAmorel (s : BitVec 3) (n : BitVec 1) (m : BitVec 2) (a b : BitVec 6) (o t : BitVec 3)
  | wCas (n : BitVec 1) (m : BitVec 2) (a b : BitVec 6) (e t : BitVec 3)
  | wCasacq (s : BitVec 3) (n : BitVec 1) (m : BitVec 2) (a b : BitVec 6) (e t : BitVec 3)
  | wCasrel (s : BitVec 3) (n : BitVec 1) (m : BitVec 2) (a b : BitVec 6) (e t : BitVec 3)
  | wFence (s : BitVec 3)
  | wDiscard (a b : BitVec 6)
  | wGo (d a b : BitVec 6)
  | wApw (d a b : BitVec 6)
  | wMailw (m : BitVec 2) (a b : BitVec 6)
  | wArrive (s : BitVec 3) (a : BitVec 6) (j : BitVec 4)
  | wTkset (a : BitVec 6)
  | wWb (a b : BitVec 6)
  | wInv (a b : BitVec 6)
  | wStnt (d a b : BitVec 6)
  | wRingDb (a b : BitVec 6)
  | wRingWk (a b : BitVec 6)
  | wStamp (d a b : BitVec 6)
  | wFlushw (n : BitVec 3)
  | fLease (a : BitVec 6)
  | fLeasew (a : BitVec 6)
  | fGuard (g : BitVec 6)
  | fFmt (a b : BitVec 5)
  | fOuter (a b : BitVec 3) (c : BitVec 2)
  | fTaps (a b : BitVec 3) (c : BitVec 2)
  | fWide (d a b : BitVec 6) (c : BitVec 1) (m : BitVec 3)
  | fSouter (f : BitVec 3) (r : BitVec 12)
  | fStaps (f : BitVec 3) (r : BitVec 12)
  | fDrain (k f : BitVec 3) (c : BitVec 2)
  | fFset (k : BitVec 3) (a : BitVec 6)
  | fFadd (k : BitVec 3) (a : BitVec 6)
  | fFstr (k : BitVec 3) (a : BitVec 6)
  | fFwrap (k : BitVec 3) (a : BitVec 6)
  | fStage (f : BitVec 3) (c : BitVec 2)
  | fRoute (a b : BitVec 6)
  | fCsum (n : BitVec 1)
  | fCscnt (r : BitVec 1) (m : BitVec 2)
  | fInject (a b : BitVec 6)
  | fMcast (a : BitVec 6)
  | fAccsel (a b : BitVec 6)
  | kLd (k : BitVec 3) (a b : BitVec 6)
  | kLdi (j k : BitVec 3) (p : BitVec 1) (o : BitVec 11) (x : BitVec 6)
  | kLdh (k : BitVec 3) (a b : BitVec 6) (h : BitVec 1)
  | kSet (k : BitVec 3) (a b : BitVec 6)
  | kMov (s k : BitVec 3)
  | kLdmx (k : BitVec 3) (a b : BitVec 6) (t : BitVec 5)
  | kSt (k : BitVec 3) (a b : BitVec 6)
  | kRot (k : BitVec 3) (b : BitVec 6)
  | kClr (k : BitVec 3)
  | sNop
  | cNop
  | cEnd
  | cResume
  | cAck
  | cEscal
  | cGleave
  | cKick
  | vNop
  | lNop
  | wNop
  | wMark
  | fNop
  | fFree
  | fDrainz
  | fFence
  | fClr
  | kNop
  | qbNop
  | qbLdc (i : BitVec 16) (d : BitVec 3)
  | qbLdw (w : BitVec 2) (o : BitVec 12) (a d : BitVec 3)
  | qbStw (w : BitVec 2) (o : BitVec 12) (a d : BitVec 3)
  | qbAdd (i : BitVec 16) (a d : BitVec 3)
  | qbSub (i : BitVec 16) (a d : BitVec 3)
  | qbAnd (i : BitVec 16) (a d : BitVec 3)
  | qbOr (i : BitVec 16) (a d : BitVec 3)
  | qbXor (i : BitVec 16) (a d : BitVec 3)
  | qbShl (i : BitVec 16) (a d : BitVec 3)
  | qbShr (i : BitVec 16) (a d : BitVec 3)
  | qbCmp (c a d : BitVec 3)
  | qbSkip (n : BitVec 8) (d : BitVec 3)
  | qbLoop (n : BitVec 9)
  | qbEndl
  | qbLaunch (w : BitVec 2) (o : BitVec 12) (a d : BitVec 3)
  | qbChain (a : BitVec 3)
  | qbCopy (c : BitVec 9) (d : BitVec 3)
  | qbArrive (s : BitVec 3) (n : BitVec 8) (a : BitVec 3)
  | qbWaitb (s : BitVec 3) (n : BitVec 8) (a : BitVec 3)
  | qbWaitbWake (d : BitVec 3)
  | qbSignal (a d : BitVec 3)
  | qbArm (i : BitVec 16) (a d : BitVec 3)
  | qbCond (w : BitVec 2) (o : BitVec 12) (a d : BitVec 3)
  | qbIrq (v : BitVec 11)
  | qbDline (i : BitVec 16) (a : BitVec 3)
  | qbBand (b : BitVec 4)
  | qbFence
  | qbRdclk (d : BitVec 3)
  | qbDone
  | qbFail (f : BitVec 8)
  | bundleDispatch (n : CoreId)
  | pageEntry (n : CoreId)
  | resultLanding (n : CoreId)
  | foldStepLanding (q : QuadId)
  | drainAccumulate (q : QuadId)
  | loadReply (n : CoreId) (i : BitVec 6) (units : BitVec 33)
  | storePerformed (n : CoreId) (i : BitVec 6) (units : BitVec 33)
  | atomicExecute (n : CoreId) (i : BitVec 6)
  | mailWrite (n : CoreId) (m : BitVec 2) (en : BitVec 8) (v : Word)
  | waitMonitorWrite (pa : Pa)
  | hostSnoop (pa : Pa)
  | waitPollTick (n : CoreId) (i : BitVec 6)
  | waitTimeout (n : CoreId) (i : BitVec 6)
  | mailTimeout (n : CoreId)
  | tokenTimeout (n : CoreId)
  | barrierTimeout (n : CoreId)
  | wdogExpired (n : CoreId)
  | translationWalk (w : Walker)
  | pageRequestTaken (q : QuadId)
  | wake (pa : Pa)
  | parkLimitSuspend (n : CoreId)
  | parkTimeout (n : CoreId)
  | xshootStart
  | xshootComplete
  | windowFillDone (n : CoreId) (w : BitVec 3) (g : BitVec 9)
  | mbreplyContinue (n : CoreId)
  | mbreplyResume (n : CoreId)
  | mbreplyRestart (n : CoreId)
  | mbreplyTerminate (n : CoreId)
  | mbreplyHalt (n : CoreId)
  | ctxCreate
  | ctxDestroy
  | ctxRelease
  | contextScrubDone (t : BitVec 12)
  | leaseGrant (q : QuadId)
  | fctlClr (n : CoreId)
  | fctlSetg (n : CoreId) (g : BitVec 5)
  | cmdAccept (c : CmdSource)
  | cmdActivate (c : BitVec 9)
  | cmdDone (c : BitVec 9)
  | cmdFail (c : BitVec 9)
  | cabort (c : BitVec 9)
  | engineParkLimit (c : BitVec 9)
  | reschedJob (d : DieId)
  | qcmdDefine
  | qcmdDelete
  | doorbellTail (q : BitVec 12) (v : BitVec 32)
  | doorbellWake (q : BitVec 12) (v : Word)
  | queueMap (q : BitVec 12)
  | queueAccept (q : BitVec 12)
  | queueRun (d : DieId)
  | queueUnblock (q : BitVec 12)
  | queueUnmap (q : BitVec 12)
  | irqcoalWrite (v : BitVec 11) (x : BitVec 32)
  | irqTmaxExpiry (v : BitVec 11)
  | msixUnmask (v : BitVec 11) (m : BitVec 1)
  | quadClaim (h : BitVec 37)
  | reserveRetry (h : BitVec 37)
  | nodeCommit (h : BitVec 37)
  | taskStart (n : CoreId)
  | taskFinish (n : CoreId)
  | nodeFinish (h : BitVec 37)
  | barrierArrival (i : BitVec 16)
  | barrierCompletion (i : BitVec 16)
  | bcfgWrite (b : BitVec 16) (v : Word)
  | arrivePortWrite (p : BitVec 13)
  | lctlEnable (p : BitVec 6) (m : BitVec 2)
  | lctlDisable (p : BitVec 6)
  | lctlIsolate (p : BitVec 6)
  | lctlUnisolate (p : BitVec 6)
  | linkTrainingDone (p : BitVec 6) (g m : BitVec 8) (r : BitVec 6)
  | linkTrainingTimeout (p : BitVec 6)
  | linkRetrain (p : BitVec 6)
  | linkRetrainDone (p : BitVec 6) (g : BitVec 8)
  | linkRetrainTimeout (p : BitVec 6)
  | flitReceive (p : BitVec 6) (f : BitVec 2048)
  | replayRequest (p : BitVec 6) (l : BitVec 16)
  | podwinWrite (w : BitVec 6) (o : BitVec 1) (v : Word)
  | podcfgWrite (v : BitVec 8)
  | uncorrectableError (u : Site)
  | hbmParityAlert (pa : Pa)
  | hbmRefreshLimit (k : BitVec 10)
  | hbmRepair (pa : Pa)
  | tableVoteFail (k : BitVec 10)
  | schedulerRestart (d : DieId)
  | moduleReset
  | getMeasurements
  | getCertificate
  | swallowUpdate (q : QuadId) (r c : BitVec 16)
  | thermalEvent (q : QuadId)
  | thermalClear (q : QuadId)
  | dbgHaltRequest (d : DieId) (v : Word)
  | dbgResume (d : DieId) (v : Word)
  | dbgAccessRegister (d : DieId) (c : BitVec 32)
  | dbgAccessMemory (d : DieId) (c : BitVec 32)
  | traceArm (d : DieId) (v : Word)
  | traceStop (d : DieId) (v : Word)
  | traceSample (n : CoreId)
  | monClear (d : DieId) (m : BitVec 6) (v : Word)
  | hostAccess (w x : BitVec 1) (pa : Pa) (en : BitVec 8) (v : Word)
  | registerWrite (pa : Pa) (v : Word)
  | laneSwapDone (k : BitVec 10)
  | schedulerRestartDone (d : DieId)
  | traceCycleReached (d : DieId) (e : BitVec 1)
  | monitorCycleSample (q : QuadId)
  deriving DecidableEq, Repr

end Sys2Proof
end

