-- ==== Sys2Proof/Machine/Legal.lean ====
section
/-! DEFINITION. Which encodings are legal, and which of the two decode traps an illegal one takes (R57, R60, R79, R80 and
the field tables of each chapter). -/

namespace Sys2Proof.Machine

/-- What the decoder finds on a syllable alone (R79). -/
inductive Legality where
  | legal
  | illegalOp
  | illegalCombo
  deriving DecidableEq, Repr

/-- ILLEGAL_OP comes before ILLEGAL_COMBO (R80). -/
def judge (op combo : Bool) : Legality :=
  if op then (if combo then .legal else .illegalCombo) else .illegalOp

/-- Source selectors of the S slot (R57). -/
def selS (x : BitVec 6) : Bool := x.toNat ≤ 47 ∨ x = 56 ∨ x = 57
/-- Source selectors of VA and VB (R57). -/
def selV (x : BitVec 6) : Bool := x.toNat ≤ 57
/-- Source selectors of the C, L and K slots, and the bridge-or-zero fields of F and W (R57, R163, R187). -/
def selB (x : BitVec 6) : Bool := 48 ≤ x.toNat ∧ x.toNat ≤ 56
/-- A bridge register (R89). -/
def selBr (x : BitVec 6) : Bool := 48 ≤ x.toNat ∧ x.toNat ≤ 55
/-- Source selectors of the W slot (R57). -/
def selW (x : BitVec 6) : Bool := 40 ≤ x.toNat ∧ x.toNat ≤ 56
/-- Source selectors of `wide` in the F slot (R163). -/
def selF (x : BitVec 6) : Bool := x.toNat ≤ 39 ∨ selB x

/-- The destination of S, VA and VB (R60). -/
def dstOk (w : BitVec 1) (d : BitVec 6) : Bool := if w = 1 then d.toNat ≤ 3 else d.toNat ≤ 39

/-- An even register 0 to 38 (R116, R117, R172). -/
def evenReg (d : BitVec 6) : Bool := d.toNat ≤ 38 ∧ d.toNat % 2 = 0

/-- An existing type code (R31). -/
def codeOk {n : Nat} (t : BitVec n) : Bool := (typeOf t.toNat).isSome

/-- The system registers (R8, R67 and the register tables). -/
def sysReadable (n : Nat) : Bool :=
  n ∈ [0x001, 0x010, 0x011, 0x020, 0x021, 0x022, 0x030, 0x031, 0x032, 0x033, 0x034, 0x035, 0x036,
       0x100, 0x101, 0x102, 0x103, 0x104, 0x105, 0x200, 0x300, 0x301, 0x302, 0x303,
       0x400, 0x401, 0x402, 0x403, 0x410, 0x411, 0x412, 0x500,
       0x510, 0x511, 0x512, 0x513, 0x514, 0x515, 0x516, 0x517, 0x518] ∨
  n = 0x1F0 ∨ (0x140 ≤ n ∧ n ≤ 0x15F) ∨ (0x180 ≤ n ∧ n ≤ 0x1A7)

/-- The system registers that some write may reach: the others are read-only and an `s.swr` to them is illegal (R67). -/
def sysWritable (n : Nat) : Bool :=
  sysReadable n ∧
  n ∉ [0x001, 0x010, 0x011, 0x030, 0x031, 0x032, 0x033, 0x034, 0x035, 0x036, 0x200, 0x303,
       0x400, 0x401, 0x402, 0x410, 0x411, 0x412]

def scopeOk (s : BitVec 3) : Bool := s.toNat ≤ 5

/-- The common checks: two sources of S, one source of S, and so on. -/
def legS2 (w : BitVec 1) (d a b : BitVec 6) : Legality := judge (dstOk w d && selS a && selS b) true
def legS1 (w : BitVec 1) (d a : BitVec 6) : Legality := judge (dstOk w d && selS a) true
/-- The typed S group takes an integer type (R82). -/
def legST2 (w : BitVec 1) (d a b : BitVec 6) (t : BitVec 5) : Legality :=
  judge (dstOk w d && selS a && selS b && codeOk t) (classI t.toNat)
def legST1 (w : BitVec 1) (d a : BitVec 6) (t : BitVec 5) : Legality :=
  judge (dstOk w d && selS a && codeOk t) (classI t.toNat)
def legV2 (ok : Nat → Bool) (w : BitVec 1) (d a b : BitVec 6) (t : BitVec 5) : Legality :=
  judge (dstOk w d && selV a && selV b && codeOk t) (ok t.toNat)
def legV1 (ok : Nat → Bool) (w : BitVec 1) (d a : BitVec 6) (t : BitVec 5) : Legality :=
  judge (dstOk w d && selV a && codeOk t) (ok t.toNat)
def legL (a b : BitVec 6) : Legality := judge (selB a && selB b) true
def legLT (ok : Nat → Bool) (a b : BitVec 6) (t : BitVec 5) : Legality :=
  judge (selB a && selB b && codeOk t) (ok t.toNat)
def legW3 (d a b : BitVec 6) : Legality := judge (selW d && selW a && selW b) true
def legWT (d a b : BitVec 6) (t : BitVec 5) : Legality :=
  judge (selW d && selW a && selW b && codeOk t) (classX t.toNat)
def classIF (t : Nat) : Bool := classI t || classF t

/-- The approximations: class F, and full only with f32 (R107, R121). -/
def legApprox (w : BitVec 1) (d a : BitVec 6) (f : BitVec 1) (t : BitVec 5) : Legality :=
  judge (dstOk w d && selV a && codeOk t) (classF t.toNat && (f = 0 || t = 8))

/-- The conversions of R114: the source X or a block integer, the destination X, and the width relation. -/
def cvtTypes (s t : BitVec 5) (rel : Nat → Nat → Bool) : Bool :=
  (classX s.toNat || classB s.toNat) && classX t.toNat && rel (tyWidth s.toNat) (tyWidth t.toNat)

/-- An atomic's fields (R143, R144). -/
def legAmo (n : BitVec 1) (m : BitVec 2) (a b : BitVec 6) (o t : BitVec 3) : Legality :=
  judge (selB a && selB b && o ≠ 7 && t.toNat ≤ 4 && (n = 0 || m = 0)) (!(t = 4 && (o = 1 || o = 2 || o = 3)))
def legCas (n : BitVec 1) (m : BitVec 2) (a b : BitVec 6) (t : BitVec 3) : Legality :=
  judge (selB a && selB b && t.toNat ≤ 4 && (n = 0 || m = 0)) true

/-- The legality of an instruction's fields. The reserved fields that the opcode table fixes are checked by the decoder. -/
def legality (i : Instr) : Legality :=
  match i with
  | .sAdd w d a b | .sSub w d a b | .sMul w d a b | .sAnd w d a b | .sOr w d a b | .sXor w d a b | .sAndn w d a b
  | .sShl w d a b | .sShr w d a b | .sSar w d a b | .sFsh w d a b _ | .sBfx w d a b _ | .sBfi w d a b _
  | .sSel w d a b _ | .sLea w d a b _ => legS2 w d a b
  | .sAddi w d _ a | .sAndi w d _ a | .sOri w d _ a | .sXori w d _ a | .sShli w d _ a | .sShri w d _ a | .sSari w d _ a
  | .sFshi w d _ a | .sBfxi w d _ _ a | .sBfii w d _ _ a | .sLeai w d _ a | .sCptr w d _ a => legS1 w d a
  | .sMulh w d a b t | .sMin w d a b t | .sMax w d a b t | .sAdds w d a b t | .sSubs w d a b t => legST2 w d a b t
  | .sPcnt w d a t | .sClz w d a t | .sCtz w d a t | .sBrev w d a t | .sBitrev w d a t | .sAbs w d a t
  | .sExt w d a t => legST1 w d a t
  | .sCmp _ a b c => judge (selS a && selS b && c.toNat ≤ 5) true
  | .sCmpi _ _ _ a => judge (selS a) true
  | .sLi w d _ | .sLih w d _ => judge (dstOk w d) true
  | .sSrd w d i => judge (dstOk w d && sysReadable i.toNat) true
  | .sSwr i a => judge (selS a && sysWritable i.toNat) true
  | .cJmpi a | .cCalli _ a | .cRet a | .cQset _ a | .cTkall _ a | .cTkclr a => judge (selBr a) true
  | .cBset j c a => judge (selB a && (j = 0 || c = 0)) true
  | .cLend _ o => judge (o ≠ 3) true
  | .cIfence a => judge (selB a) true
  | .cGap n => judge (n ≠ 0) true
  | .vAdd _ w d a b t | .vSub _ w d a b t | .vMul _ w d a b t | .vMin _ w d a b t | .vMax _ w d a b t
  | .vClamp _ w d a b t => legV2 classIF w d a b t
  | .vMulh _ w d a b t | .vAdds _ w d a b t | .vSubs _ w d a b t | .vAvg _ w d a b t | .vMac _ w d a b t
  | .vShl _ w d a b t | .vShr _ w d a b t | .vSar _ w d a b t | .vRotl _ w d a b t | .vFsh _ w d a b t
  | .vBfx _ w d a b _ t | .vBfi _ w d a b t | .vPack _ w d a b t | .vXtr _ w d a b t => legV2 classI w d a b t
  | .vFma _ w d a b t | .vFms _ w d a b t | .vFnma _ w d a b t => legV2 classF w d a b t
  | .vAbs _ w d a t | .vNeg _ w d a t | .vRadd _ w d a t | .vRmax _ w d a t | .vRmin _ w d a t
  | .vScan _ w d a _ t => legV1 classIF w d a t
  | .vRbor _ w d a t | .vPcnt _ w d a t | .vClz _ w d a t | .vIota _ w d a t => legV1 classI w d a t
  | .vFcls _ w d a t => legV1 classF w d a t
  | .vCmp _ c _ a b h t =>
      judge (selV a && selV b && codeOk t && !(h = 1 && c = 3)) (classIF t.toNat && !(h = 1 && c = 2 && classI t.toNat))
  | .vCmpi _ _ _ _ _ a => judge (selV a) true
  | .vAnd _ w d a b | .vOr _ w d a b | .vXor _ w d a b | .vAndn _ w d a b | .vSel _ w d a b _ =>
      judge (dstOk w d && selV a && selV b) true
  | .vNot _ w d a => judge (dstOk w d && selV a) true
  | .vShli _ w d _ _ a | .vShri _ w d _ _ a | .vSari _ w d _ _ a => judge (dstOk w d && selV a) true
  | .vCvt _ w d a _ s _ t =>
      judge (dstOk w d && selV a && codeOk s && codeOk t) (cvtTypes s t (fun x y => y ≤ x))
  | .vCvtn _ w d a s h t =>
      judge (dstOk w d && selV a && codeOk s && codeOk t) (cvtTypes s t (fun x y => h = 0 || x < y))
  | .vCvtw _ w d a _ s _ t | .vCvth _ w d a _ s _ t =>
      judge (dstOk w d && selV a && codeOk s && codeOk t) (cvtTypes s t (fun x y => x < y))
  | .vQblk _ w d a _ s _ t =>
      judge (dstOk w d && selV a && codeOk s && codeOk t) (classX s.toNat && classB t.toNat)
  | .vPackw _ d a b t => judge (evenReg d && evenReg a && selV b && codeOk t) (classI t.toNat)
  | .vXtrw _ w d a b t => judge (dstOk w d && evenReg a && selV b && codeOk t) (classI t.toNat)
  | .vBcast _ w d a b t =>
      judge (dstOk w d && selV a && selV b && codeOk t && (!selBr a || b = 56)) (classX t.toNat)
  | .vBcasti _ w d z i a => judge (dstOk w d && selV a && i.toNat < 256 / 2 ^ z.toNat) true
  | .vLane _ w d a b t | .vPerm _ w d a b t | .vZip _ w d a b _ t | .vUnzip _ w d a b _ t | .vLrot _ w d a b t
  | .vSlide _ w d a b _ t | .vLut _ w d a b t => legV2 classX w d a b t
  | .vCmpr _ w d a _ t | .vExpd _ w d a _ t => legV1 classX w d a t
  | .vLuti _ w d a b t => legV2 (fun x => x = 8) w d a b t
  | .vRcp _ w d a f t | .vRsq _ w d a f t | .vExp2 _ w d a f t | .vLog2 _ w d a f t | .vSigm _ w d a f t =>
      legApprox w d a f t
  | .vMpop _ w d _ t | .vMfirst _ w d _ t => judge (dstOk w d && codeOk t) (classX t.toNat)
  | .vMovi _ w d m v => judge (dstOk w d && (m ≠ 0 || v.toNat < 256)) true
  | .vDot _ w d a b t => legV2 (fun x => x ∈ [0, 1, 4, 5, 9, 10]) w d a b t
  | .lLd a b t | .lLdst a b t | .lLdsc a b t | .lLdg a b t | .lLdgsc a b t => legLT classX a b t
  | .lLdx a b | .lLdw _ a b | .lLdgx a b | .lLdr _ a b | .lWmap a b _ | .lPreq a b | .lPf a b | .lPfl2 a b | .lLdm _ a b
  | .lLdstamp a b | .lLdacc a b | .lLdaccw a b | .lLdz a b | .lLds a b | .lXlat a b | .lLdnt a b => legL a b
  | .lLdi _ _ _ x | .lLdb _ _ _ x | .lLdgi _ _ _ x => judge (selB x) true
  | .lLdacq s a t => judge (scopeOk s && selB a && codeOk t) (t.toNat ≤ 8)
  | .lWait s a b t | .lWaitne s a b t => judge (scopeOk s && selB a && selB b && codeOk t) (classI t.toNat)
  | .lWadv a _ | .lWres _ a _ => judge (selB a) true
  | .wSt d a b t | .wStst d a b t | .wStsc d a b t | .wStg d a b t | .wStgsc d a b t => legWT d a b t
  | .wSti _ _ _ d | .wStgi _ _ _ d => judge (selW d) true
  | .wStx d a b | .wStw d a b | .wStgx d a b | .wStacc d a b _ | .wStnt d a b => legW3 d a b
  | .wStrel s a b t => judge (scopeOk s && selW a && selW b && codeOk t) (t.toNat ≤ 8)
  | .wStm _ a b | .wDiscard a b | .wMailw _ a b | .wWb a b | .wInv a b => judge (selW a && selW b) true
  | .wAmo n m a b o t => legAmo n m a b o t
  | .wAmoacq s n m a b o t | .wAmorel s n m a b o t => if scopeOk s then legAmo n m a b o t else .illegalOp
  | .wCas n m a b _ t => legCas n m a b t
  | .wCasacq s n m a b _ t | .wCasrel s n m a b _ t => if scopeOk s then legCas n m a b t else .illegalOp
  | .wFence s => judge (scopeOk s) true
  | .wGo d a b | .wApw d a b | .wStamp d a b => judge (selW d && selB a && selB b) true
  | .wTkset a => judge (selB a) true
  | .wArrive s a _ => judge (1 ≤ s.toNat && s.toNat ≤ 4 && selB a) true
  | .wRingDb a b | .wRingWk a b => judge (selB a && selB b) true
  | .fLease a | .fLeasew a | .fFset _ a | .fFadd _ a | .fFstr _ a | .fFwrap _ a | .fMcast a => judge (selB a) true
  | .fGuard g => judge (4 ≤ g.toNat && g.toNat ≤ 16) true
  | .fFmt a b => judge (codeOk a && codeOk b) ((blockW a.toNat, blockW b.toNat) ∈ foldPairs)
  | .fOuter a b _ | .fTaps a b _ => judge (a ≠ b) true
  | .fWide d a b _ _ => judge (evenReg d && selF a && selF b) true
  | .fRoute a b | .fInject a b | .fAccsel a b => judge (selB a && selB b) true
  | .kLd _ a b | .kLdh _ a b _ | .kSet _ a b | .kSt _ a b => judge (selB a && selB b) true
  | .kLdi _ _ _ _ x => judge (selB x) true
  | .kLdmx _ a b t => judge (selB a && selB b && codeOk t) (25 ≤ t.toNat && t.toNat ≤ 27)
  | .kRot _ b => judge (selB b) true
  | _ => .legal

end Sys2Proof.Machine
end

