-- ==== Sys2Proof/WellFormed.lean ====
section
/-! DEFINITION. Well-formed instructions: those whose fields no rule reserves and whose types their instruction accepts. -/

namespace Sys2Proof

/-- An instruction is well formed when the decode rules of R79 find nothing against its fields. -/
abbrev Instr.WellFormed (i : Instr) : Prop := Machine.legality i = .legal

end Sys2Proof
end

