-- ==== Sys2Proof/Decode.lean ====
section
/-! DEFINITION. The decoder, total on any word and rejecting by name (R54, R79), and after it the encoder. Both are written
from the encoding tables of the spec; a field is a quotient and a remainder of the word. -/

namespace Sys2Proof

/-- The field of n bits at bit lo of a syllable. -/
def fld (u : BitVec 32) (lo n : Nat) : Nat := u.toNat / 2 ^ lo % 2 ^ n

/-- The same field as bits. -/
def fldB (u : BitVec 32) (lo n : Nat) : BitVec n := BitVec.ofNat n (u.toNat / 2 ^ lo)

/-- A word from the sum of its fields. -/
def word (x : Nat) : BitVec 32 := BitVec.ofNat 32 x

/-- The S map: the fields of the syllable, or none where the op value is unassigned or a reserved field is not as
its encoding fixes it. -/
def rawS (u : BitVec 32) : Option Instr :=
  match fld u 25 7 with
  | 0 => if fld u 0 25 = 0 then some .sNop else none
  | 1 => if fld u 0 6 = 0 then some (.sAdd (fldB u 24 1) (fldB u 18 6) (fldB u 12 6) (fldB u 6 6)) else none
  | 2 => if fld u 0 6 = 0 then some (.sSub (fldB u 24 1) (fldB u 18 6) (fldB u 12 6) (fldB u 6 6)) else none
  | 3 => some (.sAddi (fldB u 24 1) (fldB u 18 6) (fldB u 6 12) (fldB u 0 6))
  | 4 => if fld u 0 6 = 0 then some (.sMul (fldB u 24 1) (fldB u 18 6) (fldB u 12 6) (fldB u 6 6)) else none
  | 5 => if fld u 5 1 = 0 then some (.sMulh (fldB u 24 1) (fldB u 18 6) (fldB u 12 6) (fldB u 6 6) (fldB u 0 5)) else none
  | 6 => if fld u 5 1 = 0 then some (.sMin (fldB u 24 1) (fldB u 18 6) (fldB u 12 6) (fldB u 6 6) (fldB u 0 5)) else none
  | 7 => if fld u 5 1 = 0 then some (.sMax (fldB u 24 1) (fldB u 18 6) (fldB u 12 6) (fldB u 6 6) (fldB u 0 5)) else none
  | 8 => if fld u 0 6 = 0 then some (.sAnd (fldB u 24 1) (fldB u 18 6) (fldB u 12 6) (fldB u 6 6)) else none
  | 9 => if fld u 0 6 = 0 then some (.sOr (fldB u 24 1) (fldB u 18 6) (fldB u 12 6) (fldB u 6 6)) else none
  | 10 => if fld u 0 6 = 0 then some (.sXor (fldB u 24 1) (fldB u 18 6) (fldB u 12 6) (fldB u 6 6)) else none
  | 11 => if fld u 0 6 = 0 then some (.sAndn (fldB u 24 1) (fldB u 18 6) (fldB u 12 6) (fldB u 6 6)) else none
  | 12 => some (.sAndi (fldB u 24 1) (fldB u 18 6) (fldB u 6 12) (fldB u 0 6))
  | 13 => some (.sOri (fldB u 24 1) (fldB u 18 6) (fldB u 6 12) (fldB u 0 6))
  | 14 => some (.sXori (fldB u 24 1) (fldB u 18 6) (fldB u 6 12) (fldB u 0 6))
  | 15 => if fld u 0 6 = 0 then some (.sShl (fldB u 24 1) (fldB u 18 6) (fldB u 12 6) (fldB u 6 6)) else none
  | 16 => if fld u 0 6 = 0 then some (.sShr (fldB u 24 1) (fldB u 18 6) (fldB u 12 6) (fldB u 6 6)) else none
  | 17 => if fld u 0 6 = 0 then some (.sSar (fldB u 24 1) (fldB u 18 6) (fldB u 12 6) (fldB u 6 6)) else none
  | 18 => if fld u 12 6 = 0 then some (.sShli (fldB u 24 1) (fldB u 18 6) (fldB u 6 6) (fldB u 0 6)) else none
  | 19 => if fld u 12 6 = 0 then some (.sShri (fldB u 24 1) (fldB u 18 6) (fldB u 6 6) (fldB u 0 6)) else none
  | 20 => if fld u 12 6 = 0 then some (.sSari (fldB u 24 1) (fldB u 18 6) (fldB u 6 6) (fldB u 0 6)) else none
  | 21 => some (.sFsh (fldB u 24 1) (fldB u 18 6) (fldB u 12 6) (fldB u 6 6) (fldB u 0 6))
  | 22 => if fld u 12 6 = 0 then some (.sFshi (fldB u 24 1) (fldB u 18 6) (fldB u 6 6) (fldB u 0 6)) else none
  | 23 => if fld u 0 5 = 0 then some (.sBfx (fldB u 24 1) (fldB u 18 6) (fldB u 12 6) (fldB u 6 6) (fldB u 5 1)) else none
  | 24 => some (.sBfxi (fldB u 24 1) (fldB u 18 6) (fldB u 12 6) (fldB u 6 6) (fldB u 0 6))
  | 25 => if fld u 0 5 = 0 then some (.sBfi (fldB u 24 1) (fldB u 18 6) (fldB u 12 6) (fldB u 6 6) (fldB u 5 1)) else none
  | 26 => some (.sBfii (fldB u 24 1) (fldB u 18 6) (fldB u 12 6) (fldB u 6 6) (fldB u 0 6))
  | 27 => if fld u 5 7 = 0 then some (.sPcnt (fldB u 24 1) (fldB u 18 6) (fldB u 12 6) (fldB u 0 5)) else none
  | 28 => if fld u 5 7 = 0 then some (.sClz (fldB u 24 1) (fldB u 18 6) (fldB u 12 6) (fldB u 0 5)) else none
  | 29 => if fld u 5 7 = 0 then some (.sCtz (fldB u 24 1) (fldB u 18 6) (fldB u 12 6) (fldB u 0 5)) else none
  | 30 => if fld u 5 7 = 0 then some (.sBrev (fldB u 24 1) (fldB u 18 6) (fldB u 12 6) (fldB u 0 5)) else none
  | 31 => if fld u 5 7 = 0 then some (.sBitrev (fldB u 24 1) (fldB u 18 6) (fldB u 12 6) (fldB u 0 5)) else none
  | 32 => if fld u 4 2 = 0 then some (.sSel (fldB u 24 1) (fldB u 18 6) (fldB u 12 6) (fldB u 6 6) (fldB u 0 4)) else none
  | 33 => if fld u 3 3 = 0 ∧ fld u 22 3 = 0 then some (.sCmp (fldB u 18 4) (fldB u 12 6) (fldB u 6 6) (fldB u 0 3)) else none
  | 34 => if fld u 24 1 = 0 then some (.sCmpi (fldB u 22 2) (fldB u 18 4) (fldB u 6 12) (fldB u 0 6)) else none
  | 35 => some (.sLi (fldB u 24 1) (fldB u 18 6) (fldB u 0 18))
  | 36 => some (.sLih (fldB u 24 1) (fldB u 18 6) (fldB u 0 18))
  | 37 => if fld u 3 3 = 0 then some (.sLea (fldB u 24 1) (fldB u 18 6) (fldB u 12 6) (fldB u 6 6) (fldB u 0 3)) else none
  | 38 => some (.sLeai (fldB u 24 1) (fldB u 18 6) (fldB u 6 12) (fldB u 0 6))
  | 39 => if fld u 5 7 = 0 then some (.sAbs (fldB u 24 1) (fldB u 18 6) (fldB u 12 6) (fldB u 0 5)) else none
  | 40 => if fld u 5 1 = 0 then some (.sAdds (fldB u 24 1) (fldB u 18 6) (fldB u 12 6) (fldB u 6 6) (fldB u 0 5)) else none
  | 41 => if fld u 5 1 = 0 then some (.sSubs (fldB u 24 1) (fldB u 18 6) (fldB u 12 6) (fldB u 6 6) (fldB u 0 5)) else none
  | 42 => if fld u 0 6 = 56 then some (.sSrd (fldB u 24 1) (fldB u 18 6) (fldB u 6 12)) else none
  | 43 => if fld u 18 7 = 0 then some (.sSwr (fldB u 6 12) (fldB u 0 6)) else none
  | 44 => some (.sCptr (fldB u 24 1) (fldB u 18 6) (fldB u 6 12) (fldB u 0 6))
  | 45 => if fld u 5 7 = 0 then some (.sExt (fldB u 24 1) (fldB u 18 6) (fldB u 12 6) (fldB u 0 5)) else none
  | _ => none

/-- The C map: the fields of the syllable, or none where the op value is unassigned or a reserved field is not as
its encoding fixes it. -/
def rawC (u : BitVec 32) : Option Instr :=
  match fld u 25 6 with
  | 0 => if fld u 0 25 = 0 then some .cNop else none
  | 1 => if fld u 24 1 = 0 then some (.cBr (fldB u 20 4) (fldB u 5 15) (fldB u 0 5)) else none
  | 2 => if fld u 24 1 = 0 then some (.cBrn (fldB u 20 4) (fldB u 5 15) (fldB u 0 5)) else none
  | 3 => if fld u 24 1 = 0 then some (.cBrany (fldB u 20 4) (fldB u 5 15) (fldB u 0 5)) else none
  | 4 => if fld u 24 1 = 0 then some (.cBrall (fldB u 20 4) (fldB u 5 15) (fldB u 0 5)) else none
  | 5 => if fld u 20 5 = 0 then some (.cJmp (fldB u 5 15) (fldB u 0 5)) else none
  | 6 => if fld u 6 19 = 0 then some (.cJmpi (fldB u 0 6)) else none
  | 7 => some (.cCall (fldB u 20 5) (fldB u 5 15) (fldB u 0 5))
  | 8 => if fld u 6 14 = 0 then some (.cCalli (fldB u 20 5) (fldB u 0 6)) else none
  | 9 => if fld u 6 19 = 0 then some (.cRet (fldB u 0 6)) else none
  | 10 => if fld u 5 20 = 0 then some (.cLoop (fldB u 0 5)) else none
  | 11 => if fld u 0 6 = 0 then some (.cLoopi (fldB u 22 3) (fldB u 6 16)) else none
  | 12 => if fld u 0 21 = 0 then some (.cLend (fldB u 23 2) (fldB u 21 2)) else none
  | 13 => if fld u 16 9 = 0 then some (.cEnter (fldB u 0 16)) else none
  | 14 => if fld u 16 9 = 0 then some (.cLeave (fldB u 0 16)) else none
  | 15 => if fld u 0 25 = 0 then some .cEnd else none
  | 16 => if fld u 12 13 = 0 then some (.cTrap (fldB u 0 12)) else none
  | 17 => if fld u 12 13 = 0 then some (.cBrk (fldB u 0 12)) else none
  | 18 => if fld u 0 25 = 0 then some .cResume else none
  | 19 => if fld u 0 25 = 0 then some .cAck else none
  | 20 => if fld u 0 25 = 0 then some .cEscal else none
  | 21 => if fld u 22 3 = 0 then some (.cTkwait (fldB u 6 16) (fldB u 0 6)) else none
  | 22 => if fld u 22 3 = 0 then some (.cTkall (fldB u 6 16) (fldB u 0 6)) else none
  | 23 => if fld u 6 19 = 0 then some (.cTkclr (fldB u 0 6)) else none
  | 24 => if fld u 4 2 = 0 ∧ fld u 22 3 = 0 then some (.cBwait (fldB u 6 16) (fldB u 0 4)) else none
  | 25 => if fld u 24 1 = 0 then some (.cBtest (fldB u 20 4) (fldB u 5 15) (fldB u 0 5)) else none
  | 26 => if fld u 0 25 = 0 then some .cGleave else none
  | 27 => if fld u 6 19 = 0 then some (.cIfence (fldB u 0 6)) else none
  | 28 => if fld u 18 7 = 0 then some (.cMwait (fldB u 16 2) (fldB u 0 16)) else none
  | 29 => if fld u 0 24 = 0 then some (.cRot (fldB u 24 1)) else none
  | 30 => if fld u 6 16 = 0 then some (.cQset (fldB u 22 3) (fldB u 0 6)) else none
  | 31 => if fld u 6 4 = 0 then some (.cBset (fldB u 22 3) (fldB u 10 12) (fldB u 0 6)) else none
  | 32 => if fld u 6 19 = 0 then some (.cGap (fldB u 0 6)) else none
  | 33 => if fld u 0 25 = 0 then some .cKick else none
  | _ => none

/-- The V map: the fields of the syllable, or none where the op value is unassigned or a reserved field is not as
its encoding fixes it. -/
def rawV (vs : VSlot) (u : BitVec 32) : Option Instr :=
  match fld u 25 7 with
  | 0 => if fld u 0 25 = 0 then some .vNop else none
  | 1 => if fld u 5 1 = 0 then some (.vAdd vs (fldB u 24 1) (fldB u 18 6) (fldB u 12 6) (fldB u 6 6) (fldB u 0 5)) else none
  | 2 => if fld u 5 1 = 0 then some (.vSub vs (fldB u 24 1) (fldB u 18 6) (fldB u 12 6) (fldB u 6 6) (fldB u 0 5)) else none
  | 3 => if fld u 5 1 = 0 then some (.vMul vs (fldB u 24 1) (fldB u 18 6) (fldB u 12 6) (fldB u 6 6) (fldB u 0 5)) else none
  | 4 => if fld u 5 1 = 0 then some (.vMulh vs (fldB u 24 1) (fldB u 18 6) (fldB u 12 6) (fldB u 6 6) (fldB u 0 5)) else none
  | 5 => if fld u 5 1 = 0 then some (.vFma vs (fldB u 24 1) (fldB u 18 6) (fldB u 12 6) (fldB u 6 6) (fldB u 0 5)) else none
  | 6 => if fld u 5 1 = 0 then some (.vFms vs (fldB u 24 1) (fldB u 18 6) (fldB u 12 6) (fldB u 6 6) (fldB u 0 5)) else none
  | 7 => if fld u 5 1 = 0 then some (.vFnma vs (fldB u 24 1) (fldB u 18 6) (fldB u 12 6) (fldB u 6 6) (fldB u 0 5)) else none
  | 8 => if fld u 5 1 = 0 then some (.vMin vs (fldB u 24 1) (fldB u 18 6) (fldB u 12 6) (fldB u 6 6) (fldB u 0 5)) else none
  | 9 => if fld u 5 1 = 0 then some (.vMax vs (fldB u 24 1) (fldB u 18 6) (fldB u 12 6) (fldB u 6 6) (fldB u 0 5)) else none
  | 10 => if fld u 5 7 = 0 then some (.vAbs vs (fldB u 24 1) (fldB u 18 6) (fldB u 12 6) (fldB u 0 5)) else none
  | 11 => if fld u 5 7 = 0 then some (.vNeg vs (fldB u 24 1) (fldB u 18 6) (fldB u 12 6) (fldB u 0 5)) else none
  | 12 => if fld u 5 1 = 0 then some (.vAdds vs (fldB u 24 1) (fldB u 18 6) (fldB u 12 6) (fldB u 6 6) (fldB u 0 5)) else none
  | 13 => if fld u 5 1 = 0 then some (.vSubs vs (fldB u 24 1) (fldB u 18 6) (fldB u 12 6) (fldB u 6 6) (fldB u 0 5)) else none
  | 14 => if fld u 5 1 = 0 then some (.vAvg vs (fldB u 24 1) (fldB u 18 6) (fldB u 12 6) (fldB u 6 6) (fldB u 0 5)) else none
  | 15 => if fld u 5 1 = 0 then some (.vMac vs (fldB u 24 1) (fldB u 18 6) (fldB u 12 6) (fldB u 6 6) (fldB u 0 5)) else none
  | 16 => if fld u 24 1 = 0 then some (.vCmp vs (fldB u 22 2) (fldB u 18 4) (fldB u 12 6) (fldB u 6 6) (fldB u 5 1) (fldB u 0 5)) else none
  | 17 => if fld u 24 1 = 0 then some (.vCmpi vs (fldB u 22 2) (fldB u 18 4) (fldB u 15 3) (fldB u 6 9) (fldB u 0 6)) else none
  | 18 => if fld u 0 6 = 0 then some (.vAnd vs (fldB u 24 1) (fldB u 18 6) (fldB u 12 6) (fldB u 6 6)) else none
  | 19 => if fld u 0 6 = 0 then some (.vOr vs (fldB u 24 1) (fldB u 18 6) (fldB u 12 6) (fldB u 6 6)) else none
  | 20 => if fld u 0 6 = 0 then some (.vXor vs (fldB u 24 1) (fldB u 18 6) (fldB u 12 6) (fldB u 6 6)) else none
  | 21 => if fld u 0 6 = 0 then some (.vAndn vs (fldB u 24 1) (fldB u 18 6) (fldB u 12 6) (fldB u 6 6)) else none
  | 22 => if fld u 0 12 = 0 then some (.vNot vs (fldB u 24 1) (fldB u 18 6) (fldB u 12 6)) else none
  | 23 => if fld u 5 1 = 0 then some (.vShl vs (fldB u 24 1) (fldB u 18 6) (fldB u 12 6) (fldB u 6 6) (fldB u 0 5)) else none
  | 24 => if fld u 5 1 = 0 then some (.vShr vs (fldB u 24 1) (fldB u 18 6) (fldB u 12 6) (fldB u 6 6) (fldB u 0 5)) else none
  | 25 => if fld u 5 1 = 0 then some (.vSar vs (fldB u 24 1) (fldB u 18 6) (fldB u 12 6) (fldB u 6 6) (fldB u 0 5)) else none
  | 26 => if fld u 12 3 = 0 then some (.vShli vs (fldB u 24 1) (fldB u 18 6) (fldB u 15 3) (fldB u 6 6) (fldB u 0 6)) else none
  | 27 => if fld u 12 3 = 0 then some (.vShri vs (fldB u 24 1) (fldB u 18 6) (fldB u 15 3) (fldB u 6 6) (fldB u 0 6)) else none
  | 28 => if fld u 12 3 = 0 then some (.vSari vs (fldB u 24 1) (fldB u 18 6) (fldB u 15 3) (fldB u 6 6) (fldB u 0 6)) else none
  | 29 => if fld u 5 1 = 0 then some (.vRotl vs (fldB u 24 1) (fldB u 18 6) (fldB u 12 6) (fldB u 6 6) (fldB u 0 5)) else none
  | 30 => if fld u 5 1 = 0 then some (.vFsh vs (fldB u 24 1) (fldB u 18 6) (fldB u 12 6) (fldB u 6 6) (fldB u 0 5)) else none
  | 31 => some (.vBfx vs (fldB u 24 1) (fldB u 18 6) (fldB u 12 6) (fldB u 6 6) (fldB u 5 1) (fldB u 0 5))
  | 32 => if fld u 5 1 = 0 then some (.vBfi vs (fldB u 24 1) (fldB u 18 6) (fldB u 12 6) (fldB u 6 6) (fldB u 0 5)) else none
  | 33 => if fld u 5 7 = 0 then some (.vPcnt vs (fldB u 24 1) (fldB u 18 6) (fldB u 12 6) (fldB u 0 5)) else none
  | 34 => if fld u 5 7 = 0 then some (.vClz vs (fldB u 24 1) (fldB u 18 6) (fldB u 12 6) (fldB u 0 5)) else none
  | 35 => some (.vCvt vs (fldB u 24 1) (fldB u 18 6) (fldB u 12 6) (fldB u 11 1) (fldB u 6 5) (fldB u 5 1) (fldB u 0 5))
  | 36 => if fld u 11 1 = 0 then some (.vCvtn vs (fldB u 24 1) (fldB u 18 6) (fldB u 12 6) (fldB u 6 5) (fldB u 5 1) (fldB u 0 5)) else none
  | 37 => some (.vCvtw vs (fldB u 24 1) (fldB u 18 6) (fldB u 12 6) (fldB u 11 1) (fldB u 6 5) (fldB u 5 1) (fldB u 0 5))
  | 38 => some (.vCvth vs (fldB u 24 1) (fldB u 18 6) (fldB u 12 6) (fldB u 11 1) (fldB u 6 5) (fldB u 5 1) (fldB u 0 5))
  | 39 => some (.vQblk vs (fldB u 24 1) (fldB u 18 6) (fldB u 12 6) (fldB u 11 1) (fldB u 6 5) (fldB u 5 1) (fldB u 0 5))
  | 40 => if fld u 5 1 = 0 then some (.vPack vs (fldB u 24 1) (fldB u 18 6) (fldB u 12 6) (fldB u 6 6) (fldB u 0 5)) else none
  | 41 => if fld u 5 1 = 0 ∧ fld u 24 1 = 0 then some (.vPackw vs (fldB u 18 6) (fldB u 12 6) (fldB u 6 6) (fldB u 0 5)) else none
  | 42 => if fld u 5 1 = 0 then some (.vXtr vs (fldB u 24 1) (fldB u 18 6) (fldB u 12 6) (fldB u 6 6) (fldB u 0 5)) else none
  | 43 => if fld u 5 1 = 0 then some (.vXtrw vs (fldB u 24 1) (fldB u 18 6) (fldB u 12 6) (fldB u 6 6) (fldB u 0 5)) else none
  | 44 => if fld u 5 1 = 0 then some (.vBcast vs (fldB u 24 1) (fldB u 18 6) (fldB u 12 6) (fldB u 6 6) (fldB u 0 5)) else none
  | 45 => if fld u 14 2 = 0 then some (.vBcasti vs (fldB u 24 1) (fldB u 18 6) (fldB u 16 2) (fldB u 6 8) (fldB u 0 6)) else none
  | 46 => if fld u 5 1 = 0 then some (.vLane vs (fldB u 24 1) (fldB u 18 6) (fldB u 12 6) (fldB u 6 6) (fldB u 0 5)) else none
  | 47 => if fld u 5 1 = 0 then some (.vPerm vs (fldB u 24 1) (fldB u 18 6) (fldB u 12 6) (fldB u 6 6) (fldB u 0 5)) else none
  | 48 => some (.vZip vs (fldB u 24 1) (fldB u 18 6) (fldB u 12 6) (fldB u 6 6) (fldB u 5 1) (fldB u 0 5))
  | 49 => some (.vUnzip vs (fldB u 24 1) (fldB u 18 6) (fldB u 12 6) (fldB u 6 6) (fldB u 5 1) (fldB u 0 5))
  | 50 => if fld u 5 1 = 0 then some (.vLrot vs (fldB u 24 1) (fldB u 18 6) (fldB u 12 6) (fldB u 6 6) (fldB u 0 5)) else none
  | 51 => some (.vSlide vs (fldB u 24 1) (fldB u 18 6) (fldB u 12 6) (fldB u 6 6) (fldB u 5 1) (fldB u 0 5))
  | 52 => if fld u 5 1 = 0 ∧ fld u 10 2 = 0 then some (.vCmpr vs (fldB u 24 1) (fldB u 18 6) (fldB u 12 6) (fldB u 6 4) (fldB u 0 5)) else none
  | 53 => if fld u 5 1 = 0 ∧ fld u 10 2 = 0 then some (.vExpd vs (fldB u 24 1) (fldB u 18 6) (fldB u 12 6) (fldB u 6 4) (fldB u 0 5)) else none
  | 54 => if fld u 5 7 = 0 then some (.vRadd vs (fldB u 24 1) (fldB u 18 6) (fldB u 12 6) (fldB u 0 5)) else none
  | 55 => if fld u 5 7 = 0 then some (.vRmax vs (fldB u 24 1) (fldB u 18 6) (fldB u 12 6) (fldB u 0 5)) else none
  | 56 => if fld u 5 7 = 0 then some (.vRmin vs (fldB u 24 1) (fldB u 18 6) (fldB u 12 6) (fldB u 0 5)) else none
  | 57 => if fld u 5 7 = 0 then some (.vRbor vs (fldB u 24 1) (fldB u 18 6) (fldB u 12 6) (fldB u 0 5)) else none
  | 58 => if fld u 6 6 = 0 then some (.vScan vs (fldB u 24 1) (fldB u 18 6) (fldB u 12 6) (fldB u 5 1) (fldB u 0 5)) else none
  | 59 => if fld u 5 1 = 0 then some (.vLut vs (fldB u 24 1) (fldB u 18 6) (fldB u 12 6) (fldB u 6 6) (fldB u 0 5)) else none
  | 60 => if fld u 5 1 = 0 then some (.vLuti vs (fldB u 24 1) (fldB u 18 6) (fldB u 12 6) (fldB u 6 6) (fldB u 0 5)) else none
  | 61 => if fld u 6 6 = 0 then some (.vRcp vs (fldB u 24 1) (fldB u 18 6) (fldB u 12 6) (fldB u 5 1) (fldB u 0 5)) else none
  | 62 => if fld u 6 6 = 0 then some (.vRsq vs (fldB u 24 1) (fldB u 18 6) (fldB u 12 6) (fldB u 5 1) (fldB u 0 5)) else none
  | 63 => if fld u 6 6 = 0 then some (.vExp2 vs (fldB u 24 1) (fldB u 18 6) (fldB u 12 6) (fldB u 5 1) (fldB u 0 5)) else none
  | 64 => if fld u 6 6 = 0 then some (.vLog2 vs (fldB u 24 1) (fldB u 18 6) (fldB u 12 6) (fldB u 5 1) (fldB u 0 5)) else none
  | 65 => if fld u 6 6 = 0 then some (.vSigm vs (fldB u 24 1) (fldB u 18 6) (fldB u 12 6) (fldB u 5 1) (fldB u 0 5)) else none
  | 66 => if fld u 4 2 = 0 then some (.vSel vs (fldB u 24 1) (fldB u 18 6) (fldB u 12 6) (fldB u 6 6) (fldB u 0 4)) else none
  | 67 => if fld u 0 6 = 0 ∧ fld u 10 2 = 0 ∧ fld u 16 2 = 0 ∧ fld u 22 3 = 0 then some (.vMand vs (fldB u 18 4) (fldB u 12 4) (fldB u 6 4)) else none
  | 68 => if fld u 0 6 = 0 ∧ fld u 10 2 = 0 ∧ fld u 16 2 = 0 ∧ fld u 22 3 = 0 then some (.vMor vs (fldB u 18 4) (fldB u 12 4) (fldB u 6 4)) else none
  | 69 => if fld u 0 6 = 0 ∧ fld u 10 2 = 0 ∧ fld u 16 2 = 0 ∧ fld u 22 3 = 0 then some (.vMxor vs (fldB u 18 4) (fldB u 12 4) (fldB u 6 4)) else none
  | 70 => if fld u 0 12 = 0 ∧ fld u 16 2 = 0 ∧ fld u 22 3 = 0 then some (.vMnot vs (fldB u 18 4) (fldB u 12 4)) else none
  | 71 => if fld u 5 7 = 0 ∧ fld u 16 2 = 0 then some (.vMpop vs (fldB u 24 1) (fldB u 18 6) (fldB u 12 4) (fldB u 0 5)) else none
  | 72 => if fld u 5 7 = 0 ∧ fld u 16 2 = 0 then some (.vMfirst vs (fldB u 24 1) (fldB u 18 6) (fldB u 12 4) (fldB u 0 5)) else none
  | 73 => if fld u 5 1 = 0 then some (.vClamp vs (fldB u 24 1) (fldB u 18 6) (fldB u 12 6) (fldB u 6 6) (fldB u 0 5)) else none
  | 74 => if fld u 5 7 = 0 then some (.vIota vs (fldB u 24 1) (fldB u 18 6) (fldB u 12 6) (fldB u 0 5)) else none
  | 75 => some (.vMovi vs (fldB u 24 1) (fldB u 18 6) (fldB u 16 2) (fldB u 0 16))
  | 76 => if fld u 5 7 = 0 then some (.vFcls vs (fldB u 24 1) (fldB u 18 6) (fldB u 12 6) (fldB u 0 5)) else none
  | 77 => if fld u 5 1 = 0 then some (.vDot vs (fldB u 24 1) (fldB u 18 6) (fldB u 12 6) (fldB u 6 6) (fldB u 0 5)) else none
  | _ => none

/-- The L map: the fields of the syllable, or none where the op value is unassigned or a reserved field is not as
its encoding fixes it. -/
def rawL (u : BitVec 32) : Option Instr :=
  match fld u 25 7 with
  | 0 => if fld u 0 25 = 0 then some .lNop else none
  | 1 => if fld u 5 1 = 0 ∧ fld u 18 7 = 0 then some (.lLd (fldB u 12 6) (fldB u 6 6) (fldB u 0 5)) else none
  | 2 => if fld u 18 3 = 0 ∧ fld u 24 1 = 0 then some (.lLdi (fldB u 21 3) (fldB u 17 1) (fldB u 6 11) (fldB u 0 6)) else none
  | 3 => if fld u 5 1 = 0 ∧ fld u 18 7 = 0 then some (.lLdst (fldB u 12 6) (fldB u 6 6) (fldB u 0 5)) else none
  | 4 => if fld u 0 6 = 0 ∧ fld u 18 7 = 0 then some (.lLdx (fldB u 12 6) (fldB u 6 6)) else none
  | 5 => if fld u 18 3 = 0 ∧ fld u 24 1 = 0 then some (.lLdb (fldB u 21 3) (fldB u 17 1) (fldB u 6 11) (fldB u 0 6)) else none
  | 6 => if fld u 5 1 = 0 ∧ fld u 18 7 = 0 then some (.lLdsc (fldB u 12 6) (fldB u 6 6) (fldB u 0 5)) else none
  | 7 => if fld u 0 6 = 0 ∧ fld u 22 3 = 0 then some (.lLdw (fldB u 18 4) (fldB u 12 6) (fldB u 6 6)) else none
  | 8 => if fld u 5 1 = 0 ∧ fld u 18 7 = 0 then some (.lLdg (fldB u 12 6) (fldB u 6 6) (fldB u 0 5)) else none
  | 9 => if fld u 18 3 = 0 ∧ fld u 24 1 = 0 then some (.lLdgi (fldB u 21 3) (fldB u 17 1) (fldB u 6 11) (fldB u 0 6)) else none
  | 10 => if fld u 0 6 = 0 ∧ fld u 18 7 = 0 then some (.lLdgx (fldB u 12 6) (fldB u 6 6)) else none
  | 11 => if fld u 5 1 = 0 ∧ fld u 18 7 = 0 then some (.lLdgsc (fldB u 12 6) (fldB u 6 6) (fldB u 0 5)) else none
  | 12 => if fld u 5 7 = 112 ∧ fld u 18 3 = 0 ∧ fld u 24 1 = 0 then some (.lLdacq (fldB u 21 3) (fldB u 12 6) (fldB u 0 5)) else none
  | 13 => if fld u 0 6 = 0 ∧ fld u 22 3 = 0 then some (.lLdr (fldB u 18 4) (fldB u 12 6) (fldB u 6 6)) else none
  | 14 => if fld u 5 1 = 0 ∧ fld u 18 3 = 0 ∧ fld u 24 1 = 0 then some (.lWait (fldB u 21 3) (fldB u 12 6) (fldB u 6 6) (fldB u 0 5)) else none
  | 15 => if fld u 5 1 = 0 ∧ fld u 18 3 = 0 ∧ fld u 24 1 = 0 then some (.lWaitne (fldB u 21 3) (fldB u 12 6) (fldB u 6 6) (fldB u 0 5)) else none
  | 16 => if fld u 3 9 = 0 ∧ fld u 18 7 = 0 then some (.lWadv (fldB u 12 6) (fldB u 0 3)) else none
  | 17 => if fld u 3 3 = 0 ∧ fld u 18 7 = 0 then some (.lWmap (fldB u 12 6) (fldB u 6 6) (fldB u 0 3)) else none
  | 18 => if fld u 3 9 = 0 ∧ fld u 22 3 = 0 then some (.lWres (fldB u 18 4) (fldB u 12 6) (fldB u 0 3)) else none
  | 19 => if fld u 0 6 = 0 ∧ fld u 18 7 = 0 then some (.lPreq (fldB u 12 6) (fldB u 6 6)) else none
  | 20 => if fld u 0 6 = 0 ∧ fld u 18 7 = 0 then some (.lPf (fldB u 12 6) (fldB u 6 6)) else none
  | 21 => if fld u 0 6 = 0 ∧ fld u 18 7 = 0 then some (.lPfl2 (fldB u 12 6) (fldB u 6 6)) else none
  | 22 => if fld u 0 6 = 0 ∧ fld u 22 3 = 0 then some (.lLdm (fldB u 18 4) (fldB u 12 6) (fldB u 6 6)) else none
  | 23 => if fld u 0 6 = 0 ∧ fld u 18 7 = 0 then some (.lLdstamp (fldB u 12 6) (fldB u 6 6)) else none
  | 24 => if fld u 0 6 = 0 ∧ fld u 18 7 = 0 then some (.lLdacc (fldB u 12 6) (fldB u 6 6)) else none
  | 25 => if fld u 0 6 = 0 ∧ fld u 18 7 = 0 then some (.lLdaccw (fldB u 12 6) (fldB u 6 6)) else none
  | 26 => if fld u 0 6 = 0 ∧ fld u 18 7 = 0 then some (.lLdz (fldB u 12 6) (fldB u 6 6)) else none
  | 27 => if fld u 0 6 = 0 ∧ fld u 18 7 = 0 then some (.lLds (fldB u 12 6) (fldB u 6 6)) else none
  | 28 => if fld u 0 6 = 0 ∧ fld u 18 7 = 0 then some (.lXlat (fldB u 12 6) (fldB u 6 6)) else none
  | 29 => if fld u 0 6 = 0 ∧ fld u 18 7 = 0 then some (.lLdnt (fldB u 12 6) (fldB u 6 6)) else none
  | _ => none

/-- The W map: the fields of the syllable, or none where the op value is unassigned or a reserved field is not as
its encoding fixes it. -/
def rawW (u : BitVec 32) : Option Instr :=
  match fld u 25 7 with
  | 0 => if fld u 0 25 = 0 then some .wNop else none
  | 1 => if fld u 5 1 = 0 ∧ fld u 24 1 = 0 then some (.wSt (fldB u 18 6) (fldB u 12 6) (fldB u 6 6) (fldB u 0 5)) else none
  | 2 => if fld u 18 3 = 0 ∧ fld u 24 1 = 0 then some (.wSti (fldB u 21 3) (fldB u 17 1) (fldB u 6 11) (fldB u 0 6)) else none
  | 3 => if fld u 5 1 = 0 ∧ fld u 24 1 = 0 then some (.wStst (fldB u 18 6) (fldB u 12 6) (fldB u 6 6) (fldB u 0 5)) else none
  | 4 => if fld u 0 6 = 0 ∧ fld u 24 1 = 0 then some (.wStx (fldB u 18 6) (fldB u 12 6) (fldB u 6 6)) else none
  | 5 => if fld u 5 1 = 0 ∧ fld u 24 1 = 0 then some (.wStsc (fldB u 18 6) (fldB u 12 6) (fldB u 6 6) (fldB u 0 5)) else none
  | 6 => if fld u 0 6 = 0 ∧ fld u 24 1 = 0 then some (.wStw (fldB u 18 6) (fldB u 12 6) (fldB u 6 6)) else none
  | 7 => if fld u 5 1 = 0 ∧ fld u 24 1 = 0 then some (.wStg (fldB u 18 6) (fldB u 12 6) (fldB u 6 6) (fldB u 0 5)) else none
  | 8 => if fld u 18 3 = 0 ∧ fld u 24 1 = 0 then some (.wStgi (fldB u 21 3) (fldB u 17 1) (fldB u 6 11) (fldB u 0 6)) else none
  | 9 => if fld u 0 6 = 0 ∧ fld u 24 1 = 0 then some (.wStgx (fldB u 18 6) (fldB u 12 6) (fldB u 6 6)) else none
  | 10 => if fld u 5 1 = 0 ∧ fld u 24 1 = 0 then some (.wStgsc (fldB u 18 6) (fldB u 12 6) (fldB u 6 6) (fldB u 0 5)) else none
  | 11 => if fld u 5 1 = 0 ∧ fld u 18 3 = 0 ∧ fld u 24 1 = 0 then some (.wStrel (fldB u 21 3) (fldB u 12 6) (fldB u 6 6) (fldB u 0 5)) else none
  | 12 => if fld u 0 5 = 0 ∧ fld u 24 1 = 0 then some (.wStacc (fldB u 18 6) (fldB u 12 6) (fldB u 6 6) (fldB u 5 1)) else none
  | 13 => if fld u 0 6 = 0 ∧ fld u 22 3 = 0 then some (.wStm (fldB u 18 4) (fldB u 12 6) (fldB u 6 6)) else none
  | 14 => if fld u 21 4 = 0 then some (.wAmo (fldB u 20 1) (fldB u 18 2) (fldB u 12 6) (fldB u 6 6) (fldB u 3 3) (fldB u 0 3)) else none
  | 15 => if fld u 24 1 = 0 then some (.wAmoacq (fldB u 21 3) (fldB u 20 1) (fldB u 18 2) (fldB u 12 6) (fldB u 6 6) (fldB u 3 3) (fldB u 0 3)) else none
  | 16 => if fld u 24 1 = 0 then some (.wAmorel (fldB u 21 3) (fldB u 20 1) (fldB u 18 2) (fldB u 12 6) (fldB u 6 6) (fldB u 3 3) (fldB u 0 3)) else none
  | 17 => if fld u 21 4 = 0 then some (.wCas (fldB u 20 1) (fldB u 18 2) (fldB u 12 6) (fldB u 6 6) (fldB u 3 3) (fldB u 0 3)) else none
  | 18 => if fld u 24 1 = 0 then some (.wCasacq (fldB u 21 3) (fldB u 20 1) (fldB u 18 2) (fldB u 12 6) (fldB u 6 6) (fldB u 3 3) (fldB u 0 3)) else none
  | 19 => if fld u 24 1 = 0 then some (.wCasrel (fldB u 21 3) (fldB u 20 1) (fldB u 18 2) (fldB u 12 6) (fldB u 6 6) (fldB u 3 3) (fldB u 0 3)) else none
  | 20 => if fld u 0 25 = 0 then some .wMark else none
  | 21 => if fld u 0 21 = 0 ∧ fld u 24 1 = 0 then some (.wFence (fldB u 21 3)) else none
  | 22 => if fld u 0 6 = 0 ∧ fld u 18 7 = 0 then some (.wDiscard (fldB u 12 6) (fldB u 6 6)) else none
  | 23 => if fld u 0 6 = 0 ∧ fld u 24 1 = 0 then some (.wGo (fldB u 18 6) (fldB u 12 6) (fldB u 6 6)) else none
  | 24 => if fld u 0 6 = 0 ∧ fld u 24 1 = 0 then some (.wApw (fldB u 18 6) (fldB u 12 6) (fldB u 6 6)) else none
  | 25 => if fld u 0 6 = 0 ∧ fld u 20 5 = 0 then some (.wMailw (fldB u 18 2) (fldB u 12 6) (fldB u 6 6)) else none
  | 26 => if fld u 4 8 = 0 ∧ fld u 18 3 = 0 ∧ fld u 24 1 = 0 then some (.wArrive (fldB u 21 3) (fldB u 12 6) (fldB u 0 4)) else none
  | 27 => if fld u 0 12 = 0 ∧ fld u 18 7 = 0 then some (.wTkset (fldB u 12 6)) else none
  | 28 => if fld u 0 6 = 0 ∧ fld u 18 7 = 0 then some (.wWb (fldB u 12 6) (fldB u 6 6)) else none
  | 29 => if fld u 0 6 = 0 ∧ fld u 18 7 = 0 then some (.wInv (fldB u 12 6) (fldB u 6 6)) else none
  | 30 => if fld u 0 6 = 0 ∧ fld u 24 1 = 0 then some (.wStnt (fldB u 18 6) (fldB u 12 6) (fldB u 6 6)) else none
  | 31 => if fld u 0 6 = 0 ∧ fld u 18 7 = 0 then some (.wRingDb (fldB u 12 6) (fldB u 6 6)) else if fld u 0 6 = 0 ∧ fld u 18 7 = 1 then some (.wRingWk (fldB u 12 6) (fldB u 6 6)) else none
  | 32 => if fld u 0 6 = 0 ∧ fld u 24 1 = 0 then some (.wStamp (fldB u 18 6) (fldB u 12 6) (fldB u 6 6)) else none
  | 33 => if fld u 3 22 = 0 then some (.wFlushw (fldB u 0 3)) else none
  | _ => none

/-- The F map: the fields of the syllable, or none where the op value is unassigned or a reserved field is not as
its encoding fixes it. -/
def rawF (u : BitVec 32) : Option Instr :=
  match fld u 25 7 with
  | 0 => if fld u 0 25 = 0 then some .fNop else none
  | 1 => if fld u 0 12 = 0 ∧ fld u 18 7 = 0 then some (.fLease (fldB u 12 6)) else none
  | 2 => if fld u 0 12 = 0 ∧ fld u 18 7 = 0 then some (.fLeasew (fldB u 12 6)) else none
  | 3 => if fld u 0 25 = 0 then some .fFree else none
  | 4 => if fld u 0 18 = 0 ∧ fld u 24 1 = 0 then some (.fGuard (fldB u 18 6)) else none
  | 5 => if fld u 5 13 = 0 ∧ fld u 23 2 = 0 then some (.fFmt (fldB u 18 5) (fldB u 0 5)) else none
  | 6 => if fld u 2 16 = 0 ∧ fld u 24 1 = 0 then some (.fOuter (fldB u 21 3) (fldB u 18 3) (fldB u 0 2)) else none
  | 7 => if fld u 2 16 = 0 ∧ fld u 24 1 = 0 then some (.fTaps (fldB u 21 3) (fldB u 18 3) (fldB u 0 2)) else none
  | 8 => if fld u 4 2 = 0 ∧ fld u 24 1 = 0 then some (.fWide (fldB u 18 6) (fldB u 12 6) (fldB u 6 6) (fldB u 3 1) (fldB u 0 3)) else none
  | 9 => if fld u 0 6 = 0 ∧ fld u 21 4 = 0 then some (.fSouter (fldB u 18 3) (fldB u 6 12)) else none
  | 10 => if fld u 0 6 = 0 ∧ fld u 21 4 = 0 then some (.fStaps (fldB u 18 3) (fldB u 6 12)) else none
  | 11 => if fld u 2 16 = 0 ∧ fld u 24 1 = 0 then some (.fDrain (fldB u 21 3) (fldB u 18 3) (fldB u 0 2)) else none
  | 12 => if fld u 0 25 = 0 then some .fDrainz else none
  | 13 => if fld u 0 12 = 0 ∧ fld u 21 4 = 0 then some (.fFset (fldB u 18 3) (fldB u 12 6)) else none
  | 14 => if fld u 0 12 = 0 ∧ fld u 21 4 = 0 then some (.fFadd (fldB u 18 3) (fldB u 12 6)) else none
  | 15 => if fld u 0 12 = 0 ∧ fld u 21 4 = 0 then some (.fFstr (fldB u 18 3) (fldB u 12 6)) else none
  | 16 => if fld u 0 12 = 0 ∧ fld u 21 4 = 0 then some (.fFwrap (fldB u 18 3) (fldB u 12 6)) else none
  | 17 => if fld u 2 19 = 0 ∧ fld u 24 1 = 0 then some (.fStage (fldB u 21 3) (fldB u 0 2)) else none
  | 18 => if fld u 0 6 = 0 ∧ fld u 18 7 = 0 then some (.fRoute (fldB u 12 6) (fldB u 6 6)) else none
  | 19 => if fld u 0 18 = 0 ∧ fld u 19 6 = 0 then some (.fCsum (fldB u 18 1)) else none
  | 20 => if fld u 0 18 = 0 ∧ fld u 21 4 = 0 then some (.fCscnt (fldB u 20 1) (fldB u 18 2)) else none
  | 21 => if fld u 0 6 = 0 ∧ fld u 18 7 = 0 then some (.fInject (fldB u 12 6) (fldB u 6 6)) else none
  | 22 => if fld u 0 12 = 0 ∧ fld u 18 7 = 0 then some (.fMcast (fldB u 12 6)) else none
  | 23 => if fld u 0 25 = 0 then some .fFence else none
  | 24 => if fld u 0 6 = 0 ∧ fld u 18 7 = 0 then some (.fAccsel (fldB u 12 6) (fldB u 6 6)) else none
  | 25 => if fld u 0 25 = 0 then some .fClr else none
  | _ => none

/-- The K map: the fields of the syllable, or none where the op value is unassigned or a reserved field is not as
its encoding fixes it. -/
def rawK (u : BitVec 32) : Option Instr :=
  match fld u 25 7 with
  | 0 => if fld u 0 25 = 0 then some .kNop else none
  | 1 => if fld u 0 6 = 0 ∧ fld u 21 4 = 0 then some (.kLd (fldB u 18 3) (fldB u 12 6) (fldB u 6 6)) else none
  | 2 => if fld u 24 1 = 0 then some (.kLdi (fldB u 21 3) (fldB u 18 3) (fldB u 17 1) (fldB u 6 11) (fldB u 0 6)) else none
  | 3 => if fld u 0 5 = 0 ∧ fld u 21 4 = 0 then some (.kLdh (fldB u 18 3) (fldB u 12 6) (fldB u 6 6) (fldB u 5 1)) else none
  | 4 => if fld u 0 6 = 0 ∧ fld u 21 4 = 0 then some (.kSet (fldB u 18 3) (fldB u 12 6) (fldB u 6 6)) else none
  | 5 => if fld u 0 18 = 232960 ∧ fld u 24 1 = 0 then some (.kMov (fldB u 21 3) (fldB u 18 3)) else none
  | 6 => if fld u 5 1 = 0 ∧ fld u 21 4 = 0 then some (.kLdmx (fldB u 18 3) (fldB u 12 6) (fldB u 6 6) (fldB u 0 5)) else none
  | 7 => if fld u 0 6 = 0 ∧ fld u 21 4 = 0 then some (.kSt (fldB u 18 3) (fldB u 12 6) (fldB u 6 6)) else none
  | 8 => if fld u 0 6 = 0 ∧ fld u 12 6 = 56 ∧ fld u 21 4 = 0 then some (.kRot (fldB u 18 3) (fldB u 6 6)) else none
  | 9 => if fld u 0 18 = 232960 ∧ fld u 21 4 = 0 then some (.kClr (fldB u 18 3)) else none
  | _ => none

/-- The QB map: the fields of the syllable, or none where the op value is unassigned or a reserved field is not as
its encoding fixes it. -/
noncomputable def rawQb (u : BitVec 32) : Option Instr :=
  match fld u 0 8 with
  | 0 => if fld u 8 24 = 0 then some .qbNop else none
  | 1 => if fld u 11 5 = 0 then some (.qbLdc (fldB u 16 16) (fldB u 8 3)) else none
  | 2 => if fld u 11 1 = 0 ∧ fld u 15 1 = 0 ∧ fld u 30 2 = 0 then some (.qbLdw (fldB u 28 2) (fldB u 16 12) (fldB u 12 3) (fldB u 8 3)) else none
  | 3 => if fld u 11 1 = 0 ∧ fld u 15 1 = 0 ∧ fld u 30 2 = 0 then some (.qbStw (fldB u 28 2) (fldB u 16 12) (fldB u 12 3) (fldB u 8 3)) else none
  | 4 => if fld u 11 1 = 0 ∧ fld u 15 1 = 0 then some (.qbAdd (fldB u 16 16) (fldB u 12 3) (fldB u 8 3)) else none
  | 5 => if fld u 11 1 = 0 ∧ fld u 15 1 = 0 then some (.qbSub (fldB u 16 16) (fldB u 12 3) (fldB u 8 3)) else none
  | 6 => if fld u 11 1 = 0 ∧ fld u 15 1 = 0 then some (.qbAnd (fldB u 16 16) (fldB u 12 3) (fldB u 8 3)) else none
  | 7 => if fld u 11 1 = 0 ∧ fld u 15 1 = 0 then some (.qbOr (fldB u 16 16) (fldB u 12 3) (fldB u 8 3)) else none
  | 8 => if fld u 11 1 = 0 ∧ fld u 15 1 = 0 then some (.qbXor (fldB u 16 16) (fldB u 12 3) (fldB u 8 3)) else none
  | 9 => if fld u 11 1 = 0 ∧ fld u 15 1 = 0 then some (.qbShl (fldB u 16 16) (fldB u 12 3) (fldB u 8 3)) else none
  | 10 => if fld u 11 1 = 0 ∧ fld u 15 1 = 0 then some (.qbShr (fldB u 16 16) (fldB u 12 3) (fldB u 8 3)) else none
  | 11 => if fld u 11 1 = 0 ∧ fld u 15 1 = 0 ∧ fld u 19 13 = 0 then some (.qbCmp (fldB u 16 3) (fldB u 12 3) (fldB u 8 3)) else none
  | 12 => if fld u 11 5 = 0 ∧ fld u 24 8 = 0 then some (.qbSkip (fldB u 16 8) (fldB u 8 3)) else none
  | 13 => if fld u 8 8 = 0 ∧ fld u 25 7 = 0 then some (.qbLoop (fldB u 16 9)) else none
  | 14 => if fld u 8 24 = 0 then some .qbEndl else none
  | 15 => if fld u 11 1 = 0 ∧ fld u 15 1 = 0 ∧ fld u 30 2 = 0 then some (.qbLaunch (fldB u 28 2) (fldB u 16 12) (fldB u 12 3) (fldB u 8 3)) else none
  | 16 => if fld u 8 4 = 0 ∧ fld u 15 17 = 0 then some (.qbChain (fldB u 12 3)) else none
  | 17 => if fld u 11 5 = 0 ∧ fld u 25 7 = 0 then some (.qbCopy (fldB u 16 9) (fldB u 8 3)) else none
  | 18 => if fld u 8 4 = 0 ∧ fld u 15 1 = 0 ∧ fld u 27 5 = 0 then some (.qbArrive (fldB u 24 3) (fldB u 16 8) (fldB u 12 3)) else none
  | 19 => if fld u 8 4 = 0 ∧ fld u 15 1 = 0 ∧ fld u 27 5 = 0 then some (.qbWaitb (fldB u 24 3) (fldB u 16 8) (fldB u 12 3)) else if fld u 11 21 = 524288 then some (.qbWaitbWake (fldB u 8 3)) else none
  | 20 => if fld u 11 1 = 0 ∧ fld u 15 17 = 0 then some (.qbSignal (fldB u 12 3) (fldB u 8 3)) else none
  | 21 => if fld u 11 1 = 0 ∧ fld u 15 1 = 0 then some (.qbArm (fldB u 16 16) (fldB u 12 3) (fldB u 8 3)) else none
  | 22 => if fld u 11 1 = 0 ∧ fld u 15 1 = 0 ∧ fld u 30 2 = 0 then some (.qbCond (fldB u 28 2) (fldB u 16 12) (fldB u 12 3) (fldB u 8 3)) else none
  | 23 => if fld u 8 8 = 0 ∧ fld u 27 5 = 0 then some (.qbIrq (fldB u 16 11)) else none
  | 24 => if fld u 8 4 = 0 ∧ fld u 15 1 = 0 then some (.qbDline (fldB u 16 16) (fldB u 12 3)) else none
  | 25 => if fld u 8 8 = 0 ∧ fld u 20 12 = 0 then some (.qbBand (fldB u 16 4)) else none
  | 26 => if fld u 8 24 = 0 then some .qbFence else none
  | 27 => if fld u 11 21 = 0 then some (.qbRdclk (fldB u 8 3)) else none
  | 28 => if fld u 8 24 = 0 then some .qbDone else none
  | 29 => if fld u 8 8 = 0 ∧ fld u 24 8 = 0 then some (.qbFail (fldB u 16 8)) else none
  | _ => none

/-- The word of an encoded instruction, from the same table of fields; an event has no word and encodes to 0. -/
def encode (i : Instr) : BitVec 32 :=
  match i with
  | .sNop => word (0x0)
  | .sAdd w d a b => word (0x2000000 + w.toNat * 0x1000000 + d.toNat * 0x40000 + a.toNat * 0x1000 + b.toNat * 0x40)
  | .sSub w d a b => word (0x4000000 + w.toNat * 0x1000000 + d.toNat * 0x40000 + a.toNat * 0x1000 + b.toNat * 0x40)
  | .sAddi w d i a => word (0x6000000 + w.toNat * 0x1000000 + d.toNat * 0x40000 + i.toNat * 0x40 + a.toNat)
  | .sMul w d a b => word (0x8000000 + w.toNat * 0x1000000 + d.toNat * 0x40000 + a.toNat * 0x1000 + b.toNat * 0x40)
  | .sMulh w d a b t => word (0xA000000 + w.toNat * 0x1000000 + d.toNat * 0x40000 + a.toNat * 0x1000 + b.toNat * 0x40 + t.toNat)
  | .sMin w d a b t => word (0xC000000 + w.toNat * 0x1000000 + d.toNat * 0x40000 + a.toNat * 0x1000 + b.toNat * 0x40 + t.toNat)
  | .sMax w d a b t => word (0xE000000 + w.toNat * 0x1000000 + d.toNat * 0x40000 + a.toNat * 0x1000 + b.toNat * 0x40 + t.toNat)
  | .sAnd w d a b => word (0x10000000 + w.toNat * 0x1000000 + d.toNat * 0x40000 + a.toNat * 0x1000 + b.toNat * 0x40)
  | .sOr w d a b => word (0x12000000 + w.toNat * 0x1000000 + d.toNat * 0x40000 + a.toNat * 0x1000 + b.toNat * 0x40)
  | .sXor w d a b => word (0x14000000 + w.toNat * 0x1000000 + d.toNat * 0x40000 + a.toNat * 0x1000 + b.toNat * 0x40)
  | .sAndn w d a b => word (0x16000000 + w.toNat * 0x1000000 + d.toNat * 0x40000 + a.toNat * 0x1000 + b.toNat * 0x40)
  | .sAndi w d i a => word (0x18000000 + w.toNat * 0x1000000 + d.toNat * 0x40000 + i.toNat * 0x40 + a.toNat)
  | .sOri w d i a => word (0x1A000000 + w.toNat * 0x1000000 + d.toNat * 0x40000 + i.toNat * 0x40 + a.toNat)
  | .sXori w d i a => word (0x1C000000 + w.toNat * 0x1000000 + d.toNat * 0x40000 + i.toNat * 0x40 + a.toNat)
  | .sShl w d a b => word (0x1E000000 + w.toNat * 0x1000000 + d.toNat * 0x40000 + a.toNat * 0x1000 + b.toNat * 0x40)
  | .sShr w d a b => word (0x20000000 + w.toNat * 0x1000000 + d.toNat * 0x40000 + a.toNat * 0x1000 + b.toNat * 0x40)
  | .sSar w d a b => word (0x22000000 + w.toNat * 0x1000000 + d.toNat * 0x40000 + a.toNat * 0x1000 + b.toNat * 0x40)
  | .sShli w d k a => word (0x24000000 + w.toNat * 0x1000000 + d.toNat * 0x40000 + k.toNat * 0x40 + a.toNat)
  | .sShri w d k a => word (0x26000000 + w.toNat * 0x1000000 + d.toNat * 0x40000 + k.toNat * 0x40 + a.toNat)
  | .sSari w d k a => word (0x28000000 + w.toNat * 0x1000000 + d.toNat * 0x40000 + k.toNat * 0x40 + a.toNat)
  | .sFsh w d a b k => word (0x2A000000 + w.toNat * 0x1000000 + d.toNat * 0x40000 + a.toNat * 0x1000 + b.toNat * 0x40 + k.toNat)
  | .sFshi w d k a => word (0x2C000000 + w.toNat * 0x1000000 + d.toNat * 0x40000 + k.toNat * 0x40 + a.toNat)
  | .sBfx w d a b x => word (0x2E000000 + w.toNat * 0x1000000 + d.toNat * 0x40000 + a.toNat * 0x1000 + b.toNat * 0x40 + x.toNat * 0x20)
  | .sBfxi w d l p a => word (0x30000000 + w.toNat * 0x1000000 + d.toNat * 0x40000 + l.toNat * 0x1000 + p.toNat * 0x40 + a.toNat)
  | .sBfi w d a b x => word (0x32000000 + w.toNat * 0x1000000 + d.toNat * 0x40000 + a.toNat * 0x1000 + b.toNat * 0x40 + x.toNat * 0x20)
  | .sBfii w d l p a => word (0x34000000 + w.toNat * 0x1000000 + d.toNat * 0x40000 + l.toNat * 0x1000 + p.toNat * 0x40 + a.toNat)
  | .sPcnt w d a t => word (0x36000000 + w.toNat * 0x1000000 + d.toNat * 0x40000 + a.toNat * 0x1000 + t.toNat)
  | .sClz w d a t => word (0x38000000 + w.toNat * 0x1000000 + d.toNat * 0x40000 + a.toNat * 0x1000 + t.toNat)
  | .sCtz w d a t => word (0x3A000000 + w.toNat * 0x1000000 + d.toNat * 0x40000 + a.toNat * 0x1000 + t.toNat)
  | .sBrev w d a t => word (0x3C000000 + w.toNat * 0x1000000 + d.toNat * 0x40000 + a.toNat * 0x1000 + t.toNat)
  | .sBitrev w d a t => word (0x3E000000 + w.toNat * 0x1000000 + d.toNat * 0x40000 + a.toNat * 0x1000 + t.toNat)
  | .sSel w d a b m => word (0x40000000 + w.toNat * 0x1000000 + d.toNat * 0x40000 + a.toNat * 0x1000 + b.toNat * 0x40 + m.toNat)
  | .sCmp m a b c => word (0x42000000 + m.toNat * 0x40000 + a.toNat * 0x1000 + b.toNat * 0x40 + c.toNat)
  | .sCmpi c m i a => word (0x44000000 + c.toNat * 0x400000 + m.toNat * 0x40000 + i.toNat * 0x40 + a.toNat)
  | .sLi w d i => word (0x46000000 + w.toNat * 0x1000000 + d.toNat * 0x40000 + i.toNat)
  | .sLih w d i => word (0x48000000 + w.toNat * 0x1000000 + d.toNat * 0x40000 + i.toNat)
  | .sLea w d a b k => word (0x4A000000 + w.toNat * 0x1000000 + d.toNat * 0x40000 + a.toNat * 0x1000 + b.toNat * 0x40 + k.toNat)
  | .sLeai w d i a => word (0x4C000000 + w.toNat * 0x1000000 + d.toNat * 0x40000 + i.toNat * 0x40 + a.toNat)
  | .sAbs w d a t => word (0x4E000000 + w.toNat * 0x1000000 + d.toNat * 0x40000 + a.toNat * 0x1000 + t.toNat)
  | .sAdds w d a b t => word (0x50000000 + w.toNat * 0x1000000 + d.toNat * 0x40000 + a.toNat * 0x1000 + b.toNat * 0x40 + t.toNat)
  | .sSubs w d a b t => word (0x52000000 + w.toNat * 0x1000000 + d.toNat * 0x40000 + a.toNat * 0x1000 + b.toNat * 0x40 + t.toNat)
  | .sSrd w d i => word (0x54000038 + w.toNat * 0x1000000 + d.toNat * 0x40000 + i.toNat * 0x40)
  | .sSwr i a => word (0x56000000 + i.toNat * 0x40 + a.toNat)
  | .sCptr w d i a => word (0x58000000 + w.toNat * 0x1000000 + d.toNat * 0x40000 + i.toNat * 0x40 + a.toNat)
  | .sExt w d a t => word (0x5A000000 + w.toNat * 0x1000000 + d.toNat * 0x40000 + a.toNat * 0x1000 + t.toNat)
  | .cNop => word (0x0)
  | .cBr m p l => word (0x2000000 + m.toNat * 0x100000 + p.toNat * 0x20 + l.toNat)
  | .cBrn m p l => word (0x4000000 + m.toNat * 0x100000 + p.toNat * 0x20 + l.toNat)
  | .cBrany m p l => word (0x6000000 + m.toNat * 0x100000 + p.toNat * 0x20 + l.toNat)
  | .cBrall m p l => word (0x8000000 + m.toNat * 0x100000 + p.toNat * 0x20 + l.toNat)
  | .cJmp p l => word (0xA000000 + p.toNat * 0x20 + l.toNat)
  | .cJmpi a => word (0xC000000 + a.toNat)
  | .cCall x p l => word (0xE000000 + x.toNat * 0x100000 + p.toNat * 0x20 + l.toNat)
  | .cCalli x a => word (0x10000000 + x.toNat * 0x100000 + a.toNat)
  | .cRet a => word (0x12000000 + a.toNat)
  | .cLoop l => word (0x14000000 + l.toNat)
  | .cLoopi e n => word (0x16000000 + e.toNat * 0x400000 + n.toNat * 0x40)
  | .cLend k o => word (0x18000000 + k.toNat * 0x800000 + o.toNat * 0x200000)
  | .cEnter i => word (0x1A000000 + i.toNat)
  | .cLeave i => word (0x1C000000 + i.toNat)
  | .cEnd => word (0x1E000000)
  | .cTrap c => word (0x20000000 + c.toNat)
  | .cBrk c => word (0x22000000 + c.toNat)
  | .cResume => word (0x24000000)
  | .cAck => word (0x26000000)
  | .cEscal => word (0x28000000)
  | .cTkwait l t => word (0x2A000000 + l.toNat * 0x40 + t.toNat)
  | .cTkall l a => word (0x2C000000 + l.toNat * 0x40 + a.toNat)
  | .cTkclr a => word (0x2E000000 + a.toNat)
  | .cBwait l j => word (0x30000000 + l.toNat * 0x40 + j.toNat)
  | .cBtest j p l => word (0x32000000 + j.toNat * 0x100000 + p.toNat * 0x20 + l.toNat)
  | .cGleave => word (0x34000000)
  | .cIfence a => word (0x36000000 + a.toNat)
  | .cMwait m l => word (0x38000000 + m.toNat * 0x10000 + l.toNat)
  | .cRot n => word (0x3A000000 + n.toNat * 0x1000000)
  | .cQset e a => word (0x3C000000 + e.toNat * 0x400000 + a.toNat)
  | .cBset j c a => word (0x3E000000 + j.toNat * 0x400000 + c.toNat * 0x400 + a.toNat)
  | .cGap n => word (0x40000000 + n.toNat)
  | .cKick => word (0x42000000)
  | .vNop => word (0x0)
  | .vAdd _ w d a b t => word (0x2000000 + w.toNat * 0x1000000 + d.toNat * 0x40000 + a.toNat * 0x1000 + b.toNat * 0x40 + t.toNat)
  | .vSub _ w d a b t => word (0x4000000 + w.toNat * 0x1000000 + d.toNat * 0x40000 + a.toNat * 0x1000 + b.toNat * 0x40 + t.toNat)
  | .vMul _ w d a b t => word (0x6000000 + w.toNat * 0x1000000 + d.toNat * 0x40000 + a.toNat * 0x1000 + b.toNat * 0x40 + t.toNat)
  | .vMulh _ w d a b t => word (0x8000000 + w.toNat * 0x1000000 + d.toNat * 0x40000 + a.toNat * 0x1000 + b.toNat * 0x40 + t.toNat)
  | .vFma _ w d a b t => word (0xA000000 + w.toNat * 0x1000000 + d.toNat * 0x40000 + a.toNat * 0x1000 + b.toNat * 0x40 + t.toNat)
  | .vFms _ w d a b t => word (0xC000000 + w.toNat * 0x1000000 + d.toNat * 0x40000 + a.toNat * 0x1000 + b.toNat * 0x40 + t.toNat)
  | .vFnma _ w d a b t => word (0xE000000 + w.toNat * 0x1000000 + d.toNat * 0x40000 + a.toNat * 0x1000 + b.toNat * 0x40 + t.toNat)
  | .vMin _ w d a b t => word (0x10000000 + w.toNat * 0x1000000 + d.toNat * 0x40000 + a.toNat * 0x1000 + b.toNat * 0x40 + t.toNat)
  | .vMax _ w d a b t => word (0x12000000 + w.toNat * 0x1000000 + d.toNat * 0x40000 + a.toNat * 0x1000 + b.toNat * 0x40 + t.toNat)
  | .vAbs _ w d a t => word (0x14000000 + w.toNat * 0x1000000 + d.toNat * 0x40000 + a.toNat * 0x1000 + t.toNat)
  | .vNeg _ w d a t => word (0x16000000 + w.toNat * 0x1000000 + d.toNat * 0x40000 + a.toNat * 0x1000 + t.toNat)
  | .vAdds _ w d a b t => word (0x18000000 + w.toNat * 0x1000000 + d.toNat * 0x40000 + a.toNat * 0x1000 + b.toNat * 0x40 + t.toNat)
  | .vSubs _ w d a b t => word (0x1A000000 + w.toNat * 0x1000000 + d.toNat * 0x40000 + a.toNat * 0x1000 + b.toNat * 0x40 + t.toNat)
  | .vAvg _ w d a b t => word (0x1C000000 + w.toNat * 0x1000000 + d.toNat * 0x40000 + a.toNat * 0x1000 + b.toNat * 0x40 + t.toNat)
  | .vMac _ w d a b t => word (0x1E000000 + w.toNat * 0x1000000 + d.toNat * 0x40000 + a.toNat * 0x1000 + b.toNat * 0x40 + t.toNat)
  | .vCmp _ c m a b h t => word (0x20000000 + c.toNat * 0x400000 + m.toNat * 0x40000 + a.toNat * 0x1000 + b.toNat * 0x40 + h.toNat * 0x20 + t.toNat)
  | .vCmpi _ c m t v a => word (0x22000000 + c.toNat * 0x400000 + m.toNat * 0x40000 + t.toNat * 0x8000 + v.toNat * 0x40 + a.toNat)
  | .vAnd _ w d a b => word (0x24000000 + w.toNat * 0x1000000 + d.toNat * 0x40000 + a.toNat * 0x1000 + b.toNat * 0x40)
  | .vOr _ w d a b => word (0x26000000 + w.toNat * 0x1000000 + d.toNat * 0x40000 + a.toNat * 0x1000 + b.toNat * 0x40)
  | .vXor _ w d a b => word (0x28000000 + w.toNat * 0x1000000 + d.toNat * 0x40000 + a.toNat * 0x1000 + b.toNat * 0x40)
  | .vAndn _ w d a b => word (0x2A000000 + w.toNat * 0x1000000 + d.toNat * 0x40000 + a.toNat * 0x1000 + b.toNat * 0x40)
  | .vNot _ w d a => word (0x2C000000 + w.toNat * 0x1000000 + d.toNat * 0x40000 + a.toNat * 0x1000)
  | .vShl _ w d a b t => word (0x2E000000 + w.toNat * 0x1000000 + d.toNat * 0x40000 + a.toNat * 0x1000 + b.toNat * 0x40 + t.toNat)
  | .vShr _ w d a b t => word (0x30000000 + w.toNat * 0x1000000 + d.toNat * 0x40000 + a.toNat * 0x1000 + b.toNat * 0x40 + t.toNat)
  | .vSar _ w d a b t => word (0x32000000 + w.toNat * 0x1000000 + d.toNat * 0x40000 + a.toNat * 0x1000 + b.toNat * 0x40 + t.toNat)
  | .vShli _ w d t k a => word (0x34000000 + w.toNat * 0x1000000 + d.toNat * 0x40000 + t.toNat * 0x8000 + k.toNat * 0x40 + a.toNat)
  | .vShri _ w d t k a => word (0x36000000 + w.toNat * 0x1000000 + d.toNat * 0x40000 + t.toNat * 0x8000 + k.toNat * 0x40 + a.toNat)
  | .vSari _ w d t k a => word (0x38000000 + w.toNat * 0x1000000 + d.toNat * 0x40000 + t.toNat * 0x8000 + k.toNat * 0x40 + a.toNat)
  | .vRotl _ w d a b t => word (0x3A000000 + w.toNat * 0x1000000 + d.toNat * 0x40000 + a.toNat * 0x1000 + b.toNat * 0x40 + t.toNat)
  | .vFsh _ w d a b t => word (0x3C000000 + w.toNat * 0x1000000 + d.toNat * 0x40000 + a.toNat * 0x1000 + b.toNat * 0x40 + t.toNat)
  | .vBfx _ w d a b x t => word (0x3E000000 + w.toNat * 0x1000000 + d.toNat * 0x40000 + a.toNat * 0x1000 + b.toNat * 0x40 + x.toNat * 0x20 + t.toNat)
  | .vBfi _ w d a b t => word (0x40000000 + w.toNat * 0x1000000 + d.toNat * 0x40000 + a.toNat * 0x1000 + b.toNat * 0x40 + t.toNat)
  | .vPcnt _ w d a t => word (0x42000000 + w.toNat * 0x1000000 + d.toNat * 0x40000 + a.toNat * 0x1000 + t.toNat)
  | .vClz _ w d a t => word (0x44000000 + w.toNat * 0x1000000 + d.toNat * 0x40000 + a.toNat * 0x1000 + t.toNat)
  | .vCvt _ w d a r s q t => word (0x46000000 + w.toNat * 0x1000000 + d.toNat * 0x40000 + a.toNat * 0x1000 + r.toNat * 0x800 + s.toNat * 0x40 + q.toNat * 0x20 + t.toNat)
  | .vCvtn _ w d a s h t => word (0x48000000 + w.toNat * 0x1000000 + d.toNat * 0x40000 + a.toNat * 0x1000 + s.toNat * 0x40 + h.toNat * 0x20 + t.toNat)
  | .vCvtw _ w d a r s q t => word (0x4A000000 + w.toNat * 0x1000000 + d.toNat * 0x40000 + a.toNat * 0x1000 + r.toNat * 0x800 + s.toNat * 0x40 + q.toNat * 0x20 + t.toNat)
  | .vCvth _ w d a r s q t => word (0x4C000000 + w.toNat * 0x1000000 + d.toNat * 0x40000 + a.toNat * 0x1000 + r.toNat * 0x800 + s.toNat * 0x40 + q.toNat * 0x20 + t.toNat)
  | .vQblk _ w d a r s c t => word (0x4E000000 + w.toNat * 0x1000000 + d.toNat * 0x40000 + a.toNat * 0x1000 + r.toNat * 0x800 + s.toNat * 0x40 + c.toNat * 0x20 + t.toNat)
  | .vPack _ w d a b t => word (0x50000000 + w.toNat * 0x1000000 + d.toNat * 0x40000 + a.toNat * 0x1000 + b.toNat * 0x40 + t.toNat)
  | .vPackw _ d a b t => word (0x52000000 + d.toNat * 0x40000 + a.toNat * 0x1000 + b.toNat * 0x40 + t.toNat)
  | .vXtr _ w d a b t => word (0x54000000 + w.toNat * 0x1000000 + d.toNat * 0x40000 + a.toNat * 0x1000 + b.toNat * 0x40 + t.toNat)
  | .vXtrw _ w d a b t => word (0x56000000 + w.toNat * 0x1000000 + d.toNat * 0x40000 + a.toNat * 0x1000 + b.toNat * 0x40 + t.toNat)
  | .vBcast _ w d a b t => word (0x58000000 + w.toNat * 0x1000000 + d.toNat * 0x40000 + a.toNat * 0x1000 + b.toNat * 0x40 + t.toNat)
  | .vBcasti _ w d z i a => word (0x5A000000 + w.toNat * 0x1000000 + d.toNat * 0x40000 + z.toNat * 0x10000 + i.toNat * 0x40 + a.toNat)
  | .vLane _ w d a b t => word (0x5C000000 + w.toNat * 0x1000000 + d.toNat * 0x40000 + a.toNat * 0x1000 + b.toNat * 0x40 + t.toNat)
  | .vPerm _ w d a b t => word (0x5E000000 + w.toNat * 0x1000000 + d.toNat * 0x40000 + a.toNat * 0x1000 + b.toNat * 0x40 + t.toNat)
  | .vZip _ w d a b h t => word (0x60000000 + w.toNat * 0x1000000 + d.toNat * 0x40000 + a.toNat * 0x1000 + b.toNat * 0x40 + h.toNat * 0x20 + t.toNat)
  | .vUnzip _ w d a b c t => word (0x62000000 + w.toNat * 0x1000000 + d.toNat * 0x40000 + a.toNat * 0x1000 + b.toNat * 0x40 + c.toNat * 0x20 + t.toNat)
  | .vLrot _ w d a b t => word (0x64000000 + w.toNat * 0x1000000 + d.toNat * 0x40000 + a.toNat * 0x1000 + b.toNat * 0x40 + t.toNat)
  | .vSlide _ w d a b n t => word (0x66000000 + w.toNat * 0x1000000 + d.toNat * 0x40000 + a.toNat * 0x1000 + b.toNat * 0x40 + n.toNat * 0x20 + t.toNat)
  | .vCmpr _ w d a m t => word (0x68000000 + w.toNat * 0x1000000 + d.toNat * 0x40000 + a.toNat * 0x1000 + m.toNat * 0x40 + t.toNat)
  | .vExpd _ w d a m t => word (0x6A000000 + w.toNat * 0x1000000 + d.toNat * 0x40000 + a.toNat * 0x1000 + m.toNat * 0x40 + t.toNat)
  | .vRadd _ w d a t => word (0x6C000000 + w.toNat * 0x1000000 + d.toNat * 0x40000 + a.toNat * 0x1000 + t.toNat)
  | .vRmax _ w d a t => word (0x6E000000 + w.toNat * 0x1000000 + d.toNat * 0x40000 + a.toNat * 0x1000 + t.toNat)
  | .vRmin _ w d a t => word (0x70000000 + w.toNat * 0x1000000 + d.toNat * 0x40000 + a.toNat * 0x1000 + t.toNat)
  | .vRbor _ w d a t => word (0x72000000 + w.toNat * 0x1000000 + d.toNat * 0x40000 + a.toNat * 0x1000 + t.toNat)
  | .vScan _ w d a x t => word (0x74000000 + w.toNat * 0x1000000 + d.toNat * 0x40000 + a.toNat * 0x1000 + x.toNat * 0x20 + t.toNat)
  | .vLut _ w d a b t => word (0x76000000 + w.toNat * 0x1000000 + d.toNat * 0x40000 + a.toNat * 0x1000 + b.toNat * 0x40 + t.toNat)
  | .vLuti _ w d a b t => word (0x78000000 + w.toNat * 0x1000000 + d.toNat * 0x40000 + a.toNat * 0x1000 + b.toNat * 0x40 + t.toNat)
  | .vRcp _ w d a f t => word (0x7A000000 + w.toNat * 0x1000000 + d.toNat * 0x40000 + a.toNat * 0x1000 + f.toNat * 0x20 + t.toNat)
  | .vRsq _ w d a f t => word (0x7C000000 + w.toNat * 0x1000000 + d.toNat * 0x40000 + a.toNat * 0x1000 + f.toNat * 0x20 + t.toNat)
  | .vExp2 _ w d a f t => word (0x7E000000 + w.toNat * 0x1000000 + d.toNat * 0x40000 + a.toNat * 0x1000 + f.toNat * 0x20 + t.toNat)
  | .vLog2 _ w d a f t => word (0x80000000 + w.toNat * 0x1000000 + d.toNat * 0x40000 + a.toNat * 0x1000 + f.toNat * 0x20 + t.toNat)
  | .vSigm _ w d a f t => word (0x82000000 + w.toNat * 0x1000000 + d.toNat * 0x40000 + a.toNat * 0x1000 + f.toNat * 0x20 + t.toNat)
  | .vSel _ w d a b m => word (0x84000000 + w.toNat * 0x1000000 + d.toNat * 0x40000 + a.toNat * 0x1000 + b.toNat * 0x40 + m.toNat)
  | .vMand _ d a b => word (0x86000000 + d.toNat * 0x40000 + a.toNat * 0x1000 + b.toNat * 0x40)
  | .vMor _ d a b => word (0x88000000 + d.toNat * 0x40000 + a.toNat * 0x1000 + b.toNat * 0x40)
  | .vMxor _ d a b => word (0x8A000000 + d.toNat * 0x40000 + a.toNat * 0x1000 + b.toNat * 0x40)
  | .vMnot _ d a => word (0x8C000000 + d.toNat * 0x40000 + a.toNat * 0x1000)
  | .vMpop _ w d m t => word (0x8E000000 + w.toNat * 0x1000000 + d.toNat * 0x40000 + m.toNat * 0x1000 + t.toNat)
  | .vMfirst _ w d m t => word (0x90000000 + w.toNat * 0x1000000 + d.toNat * 0x40000 + m.toNat * 0x1000 + t.toNat)
  | .vClamp _ w d a b t => word (0x92000000 + w.toNat * 0x1000000 + d.toNat * 0x40000 + a.toNat * 0x1000 + b.toNat * 0x40 + t.toNat)
  | .vIota _ w d a t => word (0x94000000 + w.toNat * 0x1000000 + d.toNat * 0x40000 + a.toNat * 0x1000 + t.toNat)
  | .vMovi _ w d m v => word (0x96000000 + w.toNat * 0x1000000 + d.toNat * 0x40000 + m.toNat * 0x10000 + v.toNat)
  | .vFcls _ w d a t => word (0x98000000 + w.toNat * 0x1000000 + d.toNat * 0x40000 + a.toNat * 0x1000 + t.toNat)
  | .vDot _ w d a b t => word (0x9A000000 + w.toNat * 0x1000000 + d.toNat * 0x40000 + a.toNat * 0x1000 + b.toNat * 0x40 + t.toNat)
  | .lNop => word (0x0)
  | .lLd a b t => word (0x2000000 + a.toNat * 0x1000 + b.toNat * 0x40 + t.toNat)
  | .lLdi j p o x => word (0x4000000 + j.toNat * 0x200000 + p.toNat * 0x20000 + o.toNat * 0x40 + x.toNat)
  | .lLdst a b t => word (0x6000000 + a.toNat * 0x1000 + b.toNat * 0x40 + t.toNat)
  | .lLdx a b => word (0x8000000 + a.toNat * 0x1000 + b.toNat * 0x40)
  | .lLdb j p o x => word (0xA000000 + j.toNat * 0x200000 + p.toNat * 0x20000 + o.toNat * 0x40 + x.toNat)
  | .lLdsc a b t => word (0xC000000 + a.toNat * 0x1000 + b.toNat * 0x40 + t.toNat)
  | .lLdw m a b => word (0xE000000 + m.toNat * 0x40000 + a.toNat * 0x1000 + b.toNat * 0x40)
  | .lLdg a b t => word (0x10000000 + a.toNat * 0x1000 + b.toNat * 0x40 + t.toNat)
  | .lLdgi j p o x => word (0x12000000 + j.toNat * 0x200000 + p.toNat * 0x20000 + o.toNat * 0x40 + x.toNat)
  | .lLdgx a b => word (0x14000000 + a.toNat * 0x1000 + b.toNat * 0x40)
  | .lLdgsc a b t => word (0x16000000 + a.toNat * 0x1000 + b.toNat * 0x40 + t.toNat)
  | .lLdacq s a t => word (0x18000E00 + s.toNat * 0x200000 + a.toNat * 0x1000 + t.toNat)
  | .lLdr m a b => word (0x1A000000 + m.toNat * 0x40000 + a.toNat * 0x1000 + b.toNat * 0x40)
  | .lWait s a b t => word (0x1C000000 + s.toNat * 0x200000 + a.toNat * 0x1000 + b.toNat * 0x40 + t.toNat)
  | .lWaitne s a b t => word (0x1E000000 + s.toNat * 0x200000 + a.toNat * 0x1000 + b.toNat * 0x40 + t.toNat)
  | .lWadv a n => word (0x20000000 + a.toNat * 0x1000 + n.toNat)
  | .lWmap a b n => word (0x22000000 + a.toNat * 0x1000 + b.toNat * 0x40 + n.toNat)
  | .lWres m a n => word (0x24000000 + m.toNat * 0x40000 + a.toNat * 0x1000 + n.toNat)
  | .lPreq a b => word (0x26000000 + a.toNat * 0x1000 + b.toNat * 0x40)
  | .lPf a b => word (0x28000000 + a.toNat * 0x1000 + b.toNat * 0x40)
  | .lPfl2 a b => word (0x2A000000 + a.toNat * 0x1000 + b.toNat * 0x40)
  | .lLdm m a b => word (0x2C000000 + m.toNat * 0x40000 + a.toNat * 0x1000 + b.toNat * 0x40)
  | .lLdstamp a b => word (0x2E000000 + a.toNat * 0x1000 + b.toNat * 0x40)
  | .lLdacc a b => word (0x30000000 + a.toNat * 0x1000 + b.toNat * 0x40)
  | .lLdaccw a b => word (0x32000000 + a.toNat * 0x1000 + b.toNat * 0x40)
  | .lLdz a b => word (0x34000000 + a.toNat * 0x1000 + b.toNat * 0x40)
  | .lLds a b => word (0x36000000 + a.toNat * 0x1000 + b.toNat * 0x40)
  | .lXlat a b => word (0x38000000 + a.toNat * 0x1000 + b.toNat * 0x40)
  | .lLdnt a b => word (0x3A000000 + a.toNat * 0x1000 + b.toNat * 0x40)
  | .wNop => word (0x0)
  | .wSt d a b t => word (0x2000000 + d.toNat * 0x40000 + a.toNat * 0x1000 + b.toNat * 0x40 + t.toNat)
  | .wSti j p o d => word (0x4000000 + j.toNat * 0x200000 + p.toNat * 0x20000 + o.toNat * 0x40 + d.toNat)
  | .wStst d a b t => word (0x6000000 + d.toNat * 0x40000 + a.toNat * 0x1000 + b.toNat * 0x40 + t.toNat)
  | .wStx d a b => word (0x8000000 + d.toNat * 0x40000 + a.toNat * 0x1000 + b.toNat * 0x40)
  | .wStsc d a b t => word (0xA000000 + d.toNat * 0x40000 + a.toNat * 0x1000 + b.toNat * 0x40 + t.toNat)
  | .wStw d a b => word (0xC000000 + d.toNat * 0x40000 + a.toNat * 0x1000 + b.toNat * 0x40)
  | .wStg d a b t => word (0xE000000 + d.toNat * 0x40000 + a.toNat * 0x1000 + b.toNat * 0x40 + t.toNat)
  | .wStgi j p o d => word (0x10000000 + j.toNat * 0x200000 + p.toNat * 0x20000 + o.toNat * 0x40 + d.toNat)
  | .wStgx d a b => word (0x12000000 + d.toNat * 0x40000 + a.toNat * 0x1000 + b.toNat * 0x40)
  | .wStgsc d a b t => word (0x14000000 + d.toNat * 0x40000 + a.toNat * 0x1000 + b.toNat * 0x40 + t.toNat)
  | .wStrel s a b t => word (0x16000000 + s.toNat * 0x200000 + a.toNat * 0x1000 + b.toNat * 0x40 + t.toNat)
  | .wStacc d a b x => word (0x18000000 + d.toNat * 0x40000 + a.toNat * 0x1000 + b.toNat * 0x40 + x.toNat * 0x20)
  | .wStm m a b => word (0x1A000000 + m.toNat * 0x40000 + a.toNat * 0x1000 + b.toNat * 0x40)
  | .wAmo n m a b o t => word (0x1C000000 + n.toNat * 0x100000 + m.toNat * 0x40000 + a.toNat * 0x1000 + b.toNat * 0x40 + o.toNat * 0x8 + t.toNat)
  | .wAmoacq s n m a b o t => word (0x1E000000 + s.toNat * 0x200000 + n.toNat * 0x100000 + m.toNat * 0x40000 + a.toNat * 0x1000 + b.toNat * 0x40 + o.toNat * 0x8 + t.toNat)
  | .wAmorel s n m a b o t => word (0x20000000 + s.toNat * 0x200000 + n.toNat * 0x100000 + m.toNat * 0x40000 + a.toNat * 0x1000 + b.toNat * 0x40 + o.toNat * 0x8 + t.toNat)
  | .wCas n m a b e t => word (0x22000000 + n.toNat * 0x100000 + m.toNat * 0x40000 + a.toNat * 0x1000 + b.toNat * 0x40 + e.toNat * 0x8 + t.toNat)
  | .wCasacq s n m a b e t => word (0x24000000 + s.toNat * 0x200000 + n.toNat * 0x100000 + m.toNat * 0x40000 + a.toNat * 0x1000 + b.toNat * 0x40 + e.toNat * 0x8 + t.toNat)
  | .wCasrel s n m a b e t => word (0x26000000 + s.toNat * 0x200000 + n.toNat * 0x100000 + m.toNat * 0x40000 + a.toNat * 0x1000 + b.toNat * 0x40 + e.toNat * 0x8 + t.toNat)
  | .wMark => word (0x28000000)
  | .wFence s => word (0x2A000000 + s.toNat * 0x200000)
  | .wDiscard a b => word (0x2C000000 + a.toNat * 0x1000 + b.toNat * 0x40)
  | .wGo d a b => word (0x2E000000 + d.toNat * 0x40000 + a.toNat * 0x1000 + b.toNat * 0x40)
  | .wApw d a b => word (0x30000000 + d.toNat * 0x40000 + a.toNat * 0x1000 + b.toNat * 0x40)
  | .wMailw m a b => word (0x32000000 + m.toNat * 0x40000 + a.toNat * 0x1000 + b.toNat * 0x40)
  | .wArrive s a j => word (0x34000000 + s.toNat * 0x200000 + a.toNat * 0x1000 + j.toNat)
  | .wTkset a => word (0x36000000 + a.toNat * 0x1000)
  | .wWb a b => word (0x38000000 + a.toNat * 0x1000 + b.toNat * 0x40)
  | .wInv a b => word (0x3A000000 + a.toNat * 0x1000 + b.toNat * 0x40)
  | .wStnt d a b => word (0x3C000000 + d.toNat * 0x40000 + a.toNat * 0x1000 + b.toNat * 0x40)
  | .wRingDb a b => word (0x3E000000 + a.toNat * 0x1000 + b.toNat * 0x40)
  | .wRingWk a b => word (0x3E040000 + a.toNat * 0x1000 + b.toNat * 0x40)
  | .wStamp d a b => word (0x40000000 + d.toNat * 0x40000 + a.toNat * 0x1000 + b.toNat * 0x40)
  | .wFlushw n => word (0x42000000 + n.toNat)
  | .fNop => word (0x0)
  | .fLease a => word (0x2000000 + a.toNat * 0x1000)
  | .fLeasew a => word (0x4000000 + a.toNat * 0x1000)
  | .fFree => word (0x6000000)
  | .fGuard g => word (0x8000000 + g.toNat * 0x40000)
  | .fFmt a b => word (0xA000000 + a.toNat * 0x40000 + b.toNat)
  | .fOuter a b c => word (0xC000000 + a.toNat * 0x200000 + b.toNat * 0x40000 + c.toNat)
  | .fTaps a b c => word (0xE000000 + a.toNat * 0x200000 + b.toNat * 0x40000 + c.toNat)
  | .fWide d a b c m => word (0x10000000 + d.toNat * 0x40000 + a.toNat * 0x1000 + b.toNat * 0x40 + c.toNat * 0x8 + m.toNat)
  | .fSouter f r => word (0x12000000 + f.toNat * 0x40000 + r.toNat * 0x40)
  | .fStaps f r => word (0x14000000 + f.toNat * 0x40000 + r.toNat * 0x40)
  | .fDrain k f c => word (0x16000000 + k.toNat * 0x200000 + f.toNat * 0x40000 + c.toNat)
  | .fDrainz => word (0x18000000)
  | .fFset k a => word (0x1A000000 + k.toNat * 0x40000 + a.toNat * 0x1000)
  | .fFadd k a => word (0x1C000000 + k.toNat * 0x40000 + a.toNat * 0x1000)
  | .fFstr k a => word (0x1E000000 + k.toNat * 0x40000 + a.toNat * 0x1000)
  | .fFwrap k a => word (0x20000000 + k.toNat * 0x40000 + a.toNat * 0x1000)
  | .fStage f c => word (0x22000000 + f.toNat * 0x200000 + c.toNat)
  | .fRoute a b => word (0x24000000 + a.toNat * 0x1000 + b.toNat * 0x40)
  | .fCsum n => word (0x26000000 + n.toNat * 0x40000)
  | .fCscnt r m => word (0x28000000 + r.toNat * 0x100000 + m.toNat * 0x40000)
  | .fInject a b => word (0x2A000000 + a.toNat * 0x1000 + b.toNat * 0x40)
  | .fMcast a => word (0x2C000000 + a.toNat * 0x1000)
  | .fFence => word (0x2E000000)
  | .fAccsel a b => word (0x30000000 + a.toNat * 0x1000 + b.toNat * 0x40)
  | .fClr => word (0x32000000)
  | .kNop => word (0x0)
  | .kLd k a b => word (0x2000000 + k.toNat * 0x40000 + a.toNat * 0x1000 + b.toNat * 0x40)
  | .kLdi j k p o x => word (0x4000000 + j.toNat * 0x200000 + k.toNat * 0x40000 + p.toNat * 0x20000 + o.toNat * 0x40 + x.toNat)
  | .kLdh k a b h => word (0x6000000 + k.toNat * 0x40000 + a.toNat * 0x1000 + b.toNat * 0x40 + h.toNat * 0x20)
  | .kSet k a b => word (0x8000000 + k.toNat * 0x40000 + a.toNat * 0x1000 + b.toNat * 0x40)
  | .kMov s k => word (0xA038E00 + s.toNat * 0x200000 + k.toNat * 0x40000)
  | .kLdmx k a b t => word (0xC000000 + k.toNat * 0x40000 + a.toNat * 0x1000 + b.toNat * 0x40 + t.toNat)
  | .kSt k a b => word (0xE000000 + k.toNat * 0x40000 + a.toNat * 0x1000 + b.toNat * 0x40)
  | .kRot k b => word (0x10038000 + k.toNat * 0x40000 + b.toNat * 0x40)
  | .kClr k => word (0x12038E00 + k.toNat * 0x40000)
  | .qbNop => word (0x0)
  | .qbLdc i d => word (0x1 + i.toNat * 0x10000 + d.toNat * 0x100)
  | .qbLdw w o a d => word (0x2 + w.toNat * 0x10000000 + o.toNat * 0x10000 + a.toNat * 0x1000 + d.toNat * 0x100)
  | .qbStw w o a d => word (0x3 + w.toNat * 0x10000000 + o.toNat * 0x10000 + a.toNat * 0x1000 + d.toNat * 0x100)
  | .qbAdd i a d => word (0x4 + i.toNat * 0x10000 + a.toNat * 0x1000 + d.toNat * 0x100)
  | .qbSub i a d => word (0x5 + i.toNat * 0x10000 + a.toNat * 0x1000 + d.toNat * 0x100)
  | .qbAnd i a d => word (0x6 + i.toNat * 0x10000 + a.toNat * 0x1000 + d.toNat * 0x100)
  | .qbOr i a d => word (0x7 + i.toNat * 0x10000 + a.toNat * 0x1000 + d.toNat * 0x100)
  | .qbXor i a d => word (0x8 + i.toNat * 0x10000 + a.toNat * 0x1000 + d.toNat * 0x100)
  | .qbShl i a d => word (0x9 + i.toNat * 0x10000 + a.toNat * 0x1000 + d.toNat * 0x100)
  | .qbShr i a d => word (0xA + i.toNat * 0x10000 + a.toNat * 0x1000 + d.toNat * 0x100)
  | .qbCmp c a d => word (0xB + c.toNat * 0x10000 + a.toNat * 0x1000 + d.toNat * 0x100)
  | .qbSkip n d => word (0xC + n.toNat * 0x10000 + d.toNat * 0x100)
  | .qbLoop n => word (0xD + n.toNat * 0x10000)
  | .qbEndl => word (0xE)
  | .qbLaunch w o a d => word (0xF + w.toNat * 0x10000000 + o.toNat * 0x10000 + a.toNat * 0x1000 + d.toNat * 0x100)
  | .qbChain a => word (0x10 + a.toNat * 0x1000)
  | .qbCopy c d => word (0x11 + c.toNat * 0x10000 + d.toNat * 0x100)
  | .qbArrive s n a => word (0x12 + s.toNat * 0x1000000 + n.toNat * 0x10000 + a.toNat * 0x1000)
  | .qbWaitb s n a => word (0x13 + s.toNat * 0x1000000 + n.toNat * 0x10000 + a.toNat * 0x1000)
  | .qbWaitbWake d => word (0x40000013 + d.toNat * 0x100)
  | .qbSignal a d => word (0x14 + a.toNat * 0x1000 + d.toNat * 0x100)
  | .qbArm i a d => word (0x15 + i.toNat * 0x10000 + a.toNat * 0x1000 + d.toNat * 0x100)
  | .qbCond w o a d => word (0x16 + w.toNat * 0x10000000 + o.toNat * 0x10000 + a.toNat * 0x1000 + d.toNat * 0x100)
  | .qbIrq v => word (0x17 + v.toNat * 0x10000)
  | .qbDline i a => word (0x18 + i.toNat * 0x10000 + a.toNat * 0x1000)
  | .qbBand b => word (0x19 + b.toNat * 0x10000)
  | .qbFence => word (0x1A)
  | .qbRdclk d => word (0x1B + d.toNat * 0x100)
  | .qbDone => word (0x1C)
  | .qbFail f => word (0x1D + f.toNat * 0x10000)
  | .bundleDispatch _ => 0
  | .pageEntry _ => 0
  | .resultLanding _ => 0
  | .foldStepLanding _ => 0
  | .drainAccumulate _ => 0
  | .loadReply _ _ _ => 0
  | .storePerformed _ _ _ => 0
  | .atomicExecute _ _ => 0
  | .mailWrite _ _ _ _ => 0
  | .waitMonitorWrite _ => 0
  | .hostSnoop _ => 0
  | .waitPollTick _ _ => 0
  | .waitTimeout _ _ => 0
  | .mailTimeout _ => 0
  | .tokenTimeout _ => 0
  | .barrierTimeout _ => 0
  | .wdogExpired _ => 0
  | .translationWalk _ => 0
  | .pageRequestTaken _ => 0
  | .wake _ => 0
  | .parkLimitSuspend _ => 0
  | .parkTimeout _ => 0
  | .xshootStart => 0
  | .xshootComplete => 0
  | .windowFillDone _ _ _ => 0
  | .mbreplyContinue _ => 0
  | .mbreplyResume _ => 0
  | .mbreplyRestart _ => 0
  | .mbreplyTerminate _ => 0
  | .mbreplyHalt _ => 0
  | .ctxCreate => 0
  | .ctxDestroy => 0
  | .ctxRelease => 0
  | .contextScrubDone _ => 0
  | .leaseGrant _ => 0
  | .fctlClr _ => 0
  | .fctlSetg _ _ => 0
  | .cmdAccept _ => 0
  | .cmdActivate _ => 0
  | .cmdDone _ => 0
  | .cmdFail _ => 0
  | .cabort _ => 0
  | .engineParkLimit _ => 0
  | .reschedJob _ => 0
  | .qcmdDefine => 0
  | .qcmdDelete => 0
  | .doorbellTail _ _ => 0
  | .doorbellWake _ _ => 0
  | .queueMap _ => 0
  | .queueAccept _ => 0
  | .queueRun _ => 0
  | .queueUnblock _ => 0
  | .queueUnmap _ => 0
  | .irqcoalWrite _ _ => 0
  | .irqTmaxExpiry _ => 0
  | .msixUnmask _ _ => 0
  | .quadClaim _ => 0
  | .reserveRetry _ => 0
  | .nodeCommit _ => 0
  | .taskStart _ => 0
  | .taskFinish _ => 0
  | .nodeFinish _ => 0
  | .barrierArrival _ => 0
  | .barrierCompletion _ => 0
  | .bcfgWrite _ _ => 0
  | .arrivePortWrite _ => 0
  | .lctlEnable _ _ => 0
  | .lctlDisable _ => 0
  | .lctlIsolate _ => 0
  | .lctlUnisolate _ => 0
  | .linkTrainingDone _ _ _ _ => 0
  | .linkTrainingTimeout _ => 0
  | .linkRetrain _ => 0
  | .linkRetrainDone _ _ => 0
  | .linkRetrainTimeout _ => 0
  | .flitReceive _ _ => 0
  | .replayRequest _ _ => 0
  | .podwinWrite _ _ _ => 0
  | .podcfgWrite _ => 0
  | .uncorrectableError _ => 0
  | .hbmParityAlert _ => 0
  | .hbmRefreshLimit _ => 0
  | .hbmRepair _ => 0
  | .tableVoteFail _ => 0
  | .schedulerRestart _ => 0
  | .moduleReset => 0
  | .getMeasurements => 0
  | .getCertificate => 0
  | .swallowUpdate _ _ _ => 0
  | .thermalEvent _ => 0
  | .thermalClear _ => 0
  | .dbgHaltRequest _ _ => 0
  | .dbgResume _ _ => 0
  | .dbgAccessRegister _ _ => 0
  | .dbgAccessMemory _ _ => 0
  | .traceArm _ _ => 0
  | .traceStop _ _ => 0
  | .traceSample _ => 0
  | .monClear _ _ _ => 0
  | .hostAccess _ _ _ _ _ => 0
  | .registerWrite _ _ => 0
  | .laneSwapDone _ => 0
  | .schedulerRestartDone _ => 0
  | .traceCycleReached _ _ => 0
  | .monitorCycleSample _ => 0

/-- What the decoder answers: an instruction, or the name of the trap the word takes (R79). -/
inductive Decoded where
  | ok (i : Instr)
  | illegalOp
  | illegalCombo
  deriving DecidableEq, Repr

/-- The eight syllable positions of a bundle (R54). -/
inductive Pos where
  | S | C | VA | VB | L | W | F | K
  deriving DecidableEq, Repr

/-- TSLOT's number of a position (R54, R80). -/
def Pos.num : Pos → Nat
  | .S => 0 | .C => 1 | .VA => 2 | .VB => 3 | .L => 4 | .W => 5 | .F => 6 | .K => 7

def posList : List Pos := [.S, .C, .VA, .VB, .L, .W, .F, .K]

/-- The fields of a syllable by the map of its position. -/
def rawSyl (p : Pos) (u : BitVec 32) : Option Instr :=
  match p with
  | .S => rawS u
  | .C => rawC u
  | .VA => rawV .va u
  | .VB => rawV .vb u
  | .L => rawL u
  | .W => rawW u
  | .F => rawF u
  | .K => rawK u

/-- Judge a raw reading (R79, R80). -/
def judged (r : Option Instr) : Decoded :=
  match r with
  | none => .illegalOp
  | some i =>
    match Machine.legality i with
    | .legal => .ok i
    | .illegalOp => .illegalOp
    | .illegalCombo => .illegalCombo

/-- Decode the syllable at a position of a bundle. -/
def decodeSyl (p : Pos) (u : BitVec 32) : Decoded := judged (rawSyl p u)

/-- Decode a word of a queue program (R78, R309). -/
noncomputable def decodeQb (u : BitVec 32) : Decoded := judged (rawQb u)

/-- The position an encoded instruction issues from; none for the queue bytecode and for events. -/
def Instr.slotOf (i : Instr) : Option Pos :=
  posList.find? (fun p => rawSyl p (encode i) = some i)

/-- The first of two readings. -/
def orElse (a b : Option Instr) : Option Instr := match a with | some i => some i | none => b

def legalOnly (d : Decoded) : Option Instr := match d with | .ok i => some i | _ => none

/-- The instruction a 32-bit word of the opcode table stands for. A word does not say which map it belongs to: the same bits
are an instruction of several slots (R54). The maps are tried in bundle order, S, C, VA, L, W, F, K, and then the queue
bytecode, and the first that reads a legal instruction is taken (log entry 3). -/
noncomputable def decodeTableWord (nbits w : Nat) : Option Instr :=
  if nbits ≤ 32 ∧ w < 2 ^ 32 then
    let u := word w
    orElse (legalOnly (decodeSyl .S u)) (orElse (legalOnly (decodeSyl .C u)) (orElse (legalOnly (decodeSyl .VA u))
      (orElse (legalOnly (decodeSyl .L u)) (orElse (legalOnly (decodeSyl .W u)) (orElse (legalOnly (decodeSyl .F u))
        (orElse (legalOnly (decodeSyl .K u)) (legalOnly (decodeQb u))))))))
  else none

end Sys2Proof
end

