-- ==== Sys2Proof/Machine/State.lean ====
section
/-! DEFINITION. The state of the module, as plain data, and the state after reset. INVENTORY.md, under State, names for
every field the rule that gives it. -/

namespace Sys2Proof.Machine

/-! ## Finite maps and register files -/

/-- A map from numbers: keys strictly rising; a key not listed has the default of its kind. -/
abbrev FMap (α : Type) := List (Nat × α)

/-- The value of a key. -/
def fget {α : Type} (d : α) : FMap α → Nat → α
  | [], _ => d
  | (k, v) :: r, n => if k = n then v else fget d r n

/-- Set a key, keeping the keys rising. -/
def fset {α : Type} : FMap α → Nat → α → FMap α
  | [], n, x => [(n, x)]
  | (k, v) :: r, n, x => if n < k then (n, x) :: (k, v) :: r else if k = n then (n, x) :: r else (k, v) :: fset r n x

/-- Remove a key. -/
def fdel {α : Type} (m : FMap α) (n : Nat) : FMap α := m.filter (fun p => p.1 ≠ n)

/-- An optional value of a key. -/
def fget? {α : Type} (m : FMap α) (n : Nat) : Option α := fget none (m.map (fun p => (p.1, some p.2))) n

/-- Read a register file; a number past its end reads as d. -/
def vget {α : Type} {n : Nat} (v : Vector α n) (i : Nat) (d : α) : α := if h : i < n then v[i] else d

/-- Write a register file; a number past its end writes nothing. -/
def vset {α : Type} {n : Nat} (v : Vector α n) (i : Nat) (x : α) : Vector α n := v.setIfInBounds i x

/-! ## The pipelines of a core -/

/-- Where a result lands (R60, R61, R66). -/
inductive Tgt where
  | sreg (r : Nat)
  | vreg (r : Nat)
  | latch (r : Nat)
  | mask (m : Nat)
  | sys (n : Nat)
  /-- the core's own mail register m, with its full bit (R62, R179) -/
  | mail (m : Nat)
  /-- n bits of scale register k from bit lo on -/
  | scale (k lo n : Nat)
  /-- the descriptor of a window, mapped when it lands for the bundle that read it (R149) -/
  | win (n bn : Nat) (addr : Word)
  deriving DecidableEq, Repr

/-- A result in flight: the slot, the issue count at whose end it lands, its target, its value, and the number of the bundle that
issued it (R61, R62). -/
structure Flight where
  slot : Pos
  due  : Nat
  tgt  : Tgt
  val  : Vec
  bn   : Nat
  deriving DecidableEq, Repr

/-- A bundle dispatched and not yet issued by the fixed group (R10, R16). -/
structure Bundle where
  addr : Word
  bits : BitVec 256
  land : Bool
  /-- the page and position of the next bundle, for traps taken after this one (R101, R281) -/
  next : Word
  deriving DecidableEq, Repr

/-- A W syllable in W's slot queue (R10), with the operands captured when the fixed group issues its bundle (R59, R94). -/
structure WEntry where
  syl  : BitVec 32
  addr : Word
  bn   : Nat
  a    : Vec
  b    : Vec
  d    : Vec
  e    : Word
  base : Word
  q    : Bool
  mask : Mask
  deriving DecidableEq, Repr

/-- An F syllable in F's slot queue (R10, R11). -/
structure FEntry where
  syl  : BitVec 32
  addr : Word
  bn   : Nat
  deriving DecidableEq, Repr

/-- An entry of the load data queue: `fixed` is the count at whose end a fixed-latency load delivers; `got` says that a
global load's data has arrived; `out` that the entry is delivered (R132, R133). -/
structure LdqEntry where
  id    : Nat
  fixed : Option Nat
  got   : Bool
  out   : Bool
  val   : Vec
  /-- a mask written when the entry is delivered (R396) -/
  mask  : Option (Nat × Mask)
  /-- CYCLE at the issue of a global load (R393) -/
  born  : Option Nat
  deriving DecidableEq, Repr

/-- The kinds of request in the load queue (R137, R143, R146, R149, R150). -/
inductive LdOp where
  | plain | nt | stamp | lds | xlat
  | acq (scope : Nat)
  | wait (ne : Bool) (scope : Nat) (cmp : Nat)
  | ldr (m : Nat)
  | pf (intoL1 : Bool)
  | preq (last : Nat)
  /-- the load-queue entry of a mark, a fence or an atomic that returns a value (R142, R143) -/
  | partner (sq : Nat)
  /-- the fill of a window slot (R254) -/
  | fill (w slot : Nat)
  deriving DecidableEq, Repr

/-- The kinds of request in the store queue (R138, R141, R143, R145, R147, R148, R155). -/
inductive StOp where
  | plain | nt | wb | inv | discard | mark
  | rel (scope : Nat)
  | fence (scope : Nat)
  | amo (op ty : Nat) (ret : Option Nat) (opnd : Nat) (cas : Option Nat) (acq rel : Option Nat)
  | go (stamp : Bool) (token : Option Nat) (owner : Nat)
  | apw
  | mailw (core m : Nat)
  | tkset (mask : Nat)
  | arrive (scope name entry : Nat)
  | ring (wake : Bool) (q : Nat)
  /-- the write-back of the dirty bytes, named by a mask, of 256 bytes of a window slot (R256) -/
  | winwb (w slot chunk : Nat) (bytes : BitVec 256)
  deriving DecidableEq, Repr

/-- How a load's bytes become its entry (R132): sign extension to 64 bits, a vector, or one element copied to all. -/
inductive Deliver where
  | scalar (signed : Bool) (n : Nat)
  | vec
  | splat (n : Nat)
  deriving DecidableEq, Repr

/-- A request of the load or store queue: n single-copy-atomic units of `ulen` bytes from `va` on. `units` are their physical
addresses, none while the access is parked; `todo` are the numbers of the units not yet performed; `park` is the table entry
the access waits on. -/
structure Req (α : Type) where
  id    : Nat
  bn    : Nat
  /-- the bundle of the syllable -/
  addr  : Word
  op    : α
  va    : Word
  n     : Nat
  ulen  : Nat
  units : List Nat
  todo  : List Nat
  val   : Vec
  how   : Deliver
  park  : Option Nat
  /-- for loads: the load-data-queue entry it delivers -/
  entry : Option Nat
  /-- module time at issue, for the limit of a wait (R146) -/
  since : Nat
  /-- the cycle at whose end a load that hit the L1 delivers (R140) -/
  due   : Option Nat
  /-- a woken access whose walk now ends in a trap, taken when its pipeline next runs: cause and TADDR (R242, R246) -/
  bad   : Option (Nat × Word)
  /-- the access walks again when its pipeline next runs (R268) -/
  again : Bool
  deriving DecidableEq, Repr

/-- A scratchpad or accumulator write that has issued and not yet landed (R136): the cycle at whose end it lands, the bundle
number, and the bytes as (physical address, value). -/
structure SpWrite where
  due   : Nat
  bn    : Nat
  bytes : List (Nat × Byte)
  deriving DecidableEq, Repr

/-- The span being run (R277, R281, R294): head page, generation tag written by the assembler, rw and landing entries of the
head page, and the page that the next bundle lies in with its pos, count and coupling. -/
structure Span where
  head  : Nat
  otag  : BitVec 8
  rw    : Bool
  nland : Nat
  table : BitVec 288
  page  : Nat
  pos   : Nat
  count : Nat
  cpl   : Option Nat
  deriving DecidableEq, Repr

/-- What a fetch waits to do: enter the page of a transfer's target, or a coupled trailer (R93, R279, R282). -/
structure Target where
  ptr    : Word
  /-- the coupling names the page itself, or a bundle in it, and no landing is located -/
  couple : Bool
  deriving DecidableEq, Repr

/-- A fault found at decode that waits for the aligned point (R79), or at fetch. -/
structure Stop where
  cause : Nat
  taddr : Word
  slot  : Nat
  addr  : Word
  fetch : Bool
  /-- the reason of a PAGE_REJECT -/
  why   : Nat
  deriving DecidableEq, Repr

/-- The registers and queues that the task and the outrider each have (R64, R267). The slots' queues are `bq`, `wq` and `fq`:
the bundles dispatched and not issued by the fixed group, after the `gap` empty ones of a `c.gap`, and the syllables of W and F
that are not empty. Bundles are numbered as they are dispatched; `bn`, `wn` and `fn` number the next bundle of the fixed group,
of W and of F, and a number without an entry is an empty syllable. -/
structure Pipe where
  s      : Vector Word 40
  bridge : Vector Word 8
  latch  : Vector Word 4
  p      : Vector Mask 16
  pSync  : Vector Mask 16
  pOwn   : List (Pos × Nat × Mask)
  flight : List Flight
  count  : Nat
  bn     : Nat
  pc     : Word
  span   : Span
  target : Option Target
  /-- the return pointer that the settle of a call writes to s7 (R92) -/
  link   : Option Word
  bq     : List Bundle
  wq     : List WEntry
  fq     : List FEntry
  gap    : Nat
  wn     : Nat
  fn     : Nat
  /-- the bundle last issued, whose `c.trap` or `c.brk` takes effect once W and F have issued it (R101) -/
  after  : Option Bundle
  refill : Nat
  land   : Bool
  tbun   : Word
  stop   : Option Stop
  ldq    : List LdqEntry
  lq     : List (Req LdOp)
  sq     : List (Req StOp)
  spst   : List SpWrite
  /-- post-increments of the bundle now issuing (R129) -/
  pinc   : List (Nat × Word)
  /-- a syllable of the fixed group found that it must hold (R12) -/
  waits  : Bool
  /-- the bundle waits, and an empty one issues in its place (R175) -/
  empty  : Bool
  deriving DecidableEq, Repr

/-- An owner of a vector bank (R65). -/
inductive Owner where
  | va | vb | f
  deriving DecidableEq, Repr

/-- Vector registers, the latches of VA and VB, and the banks (R64, R65). -/
structure VecState where
  v     : Vector Vec 40
  la    : Vector Vec 4
  lb    : Vector Vec 4
  banks : Vector Owner 4
  deriving DecidableEq, Repr

/-- Stage predicates, base registers and the loop registers (R94, R95, R104). -/
structure LoopState where
  q     : BitVec 8
  b     : Vector Word 8
  loopc : BitVec 32
  loope : BitVec 3
  loops : Word
  deriving DecidableEq, Repr

/-- The region stack, top first (R97, R104). -/
structure Region where
  ids   : List (BitVec 16)
  isOver  : Bool
  isUnder : Bool
  isMism  : Bool
  deriving DecidableEq, Repr

/-- A feed offset register (R166). -/
structure Feed where
  addr : BitVec 21
  st1  : BitVec 20
  st2  : BitVec 20
  wrap : BitVec 12
  cnt  : BitVec 12
  deriving DecidableEq, Repr

/-- The states of a token (R191). -/
inductive TokState where
  | ready | held | pending | failed
  deriving DecidableEq, Repr

/-- A token: its state and the command that owns it while pending (R191). -/
structure Token where
  st    : TokState
  owner : Nat
  deriving DecidableEq, Repr

/-- A mail register (R23). -/
structure Mail where
  value : Word
  full  : Bool
  deriving DecidableEq, Repr

/-- An arrival entry (R347, R348). `seen` is the phase of its barrier as known at this core; `taken` the phase the arrival
took, none until it is counted; `fail` the reason of a barrier that failed (R348, R350). -/
structure ArrEntry where
  armed   : Bool
  name    : Nat
  taken   : Option Nat
  seen    : Nat
  refused : Option Nat
  fail    : Option Nat
  serial  : Nat
  deriving DecidableEq, Repr

/-- The states of a window slot (R253). -/
inductive SlotSt where
  | absent | filling | resident | failed
  /-- the page is absent: the monitor is armed on the line of the table entry; the bundle that started the fill, by number and
  address, orders it still (R254) -/
  | missing (entry bn : Nat) (addr : Word)
  deriving DecidableEq, Repr

/-- A window (R252, R253): the descriptor's fields, the advance, and each slot's state and dirty bytes. -/
structure Window where
  mapped : Bool
  org    : Nat
  rbase  : Nat
  ng     : Nat
  ro     : Bool
  lazy   : Bool
  adv    : Nat
  slots  : List (SlotSt × BitVec 4096)
  deriving DecidableEq, Repr

/-- The trap registers (R266). -/
structure TrapRegs where
  tcause  : BitVec 8
  taddr   : Word
  tbundle : Word
  tslot   : BitVec 3
  tstatus : BitVec 7
  ttarget : Word
  tdbuf   : Vec
  /-- the bundle number of a syllable that trapped behind the fixed group, in W or F (R264, R268) -/
  behind  : Option Nat
  /-- the slot of a syllable that trapped and has not issued, which a resume with skip completes (R263, R268) -/
  syl     : Option Nat
  /-- the parked request of the load queue, or of the store queue if true, that PARK_TIMEOUT trapped -/
  parked  : Option (Bool × Nat)
  deriving DecidableEq, Repr

/-- Watchdog, park and wait limits (R146, R247, R274). -/
structure Limits where
  wdLimit   : BitVec 48
  kok       : Bool
  fired     : Bool
  wdcnt     : BitVec 48
  parkLimit : BitVec 20
  parkWd    : BitVec 20
  parkCount : BitVec 20
  waitlim   : BitVec 32
  /-- when the present park began, in ps of module time -/
  parkFrom  : Option Nat
  deriving DecidableEq, Repr

/-- A core's relation to the fold array (R158, R183). -/
inductive LeaseSt where
  | none | waiting | granted | held
  deriving DecidableEq, Repr

structure FoldCore where
  lease  : LeaseSt
  drains : Nat
  wide   : Bool
  corr   : BitVec 32
  lane   : BitVec 16
  fail   : BitVec 16
  inj    : Bool
  /-- CYCLE when the lease was requested (R393) -/
  asked  : Word
  deriving DecidableEq, Repr

/-- Watchpoints (R386, R387). -/
structure Watch where
  addr     : Vector (BitVec 60) 4
  ctl      : Vector (BitVec 10) 4
  stat     : BitVec 4
  /-- the bundle number and slot of each syllable whose watch has been reported, one a slot (R387) -/
  reported : List (Nat × Nat)
  deriving DecidableEq, Repr

/-- What runs on a core (R263, R272, R328, R401). -/
inductive RunSt where
  | idle
  /-- a start was received; the argument words are being read (R328, R401) -/
  | starting
  | running
  /-- c.end has issued and its waits are not over (R100); leave says that it was c.gleave -/
  | ending (leave : Bool)
  deriving DecidableEq, Repr

/-- The outrider (R267 to R271). -/
inductive OutSt where
  | off | running
  /-- stopped by c.escal, waiting for the coachman -/
  | escal
  /-- frozen by a fault before c.ack; holds the outrider's cause and address -/
  | double (cause : Nat) (addr : Word)
  /-- held at a faulting syllable after c.ack -/
  | fault (cause : Nat) (addr : Word)
  /-- a reply of 1 has ended it, and the task resumes once its accesses are performed (R268, R271) -/
  | leaving
  deriving DecidableEq, Repr

/-- A cached translation: the tag, the first virtual page number, log2 of the page count, and the leaf (R243). -/
structure Leaf where
  tag   : Nat
  vpn   : Nat
  size  : Nat
  entry : BitVec 64
  deriving DecidableEq, Repr

/-- What a walk gave (R242). -/
inductive WalkRes where
  | leaf (l : Leaf)
  | trap (cause : Nat)
  | park (entry : Nat)
  deriving DecidableEq, Repr

/-- The translation a unit waits for, or has been given and not yet used: virtual page, kind (0 read, 1 write, 2 rmw,
3 fetch) and result (R242). -/
structure Walk where
  va   : Word
  kind : Nat
  res  : Option WalkRes
  /-- CYCLE when it began (R393) -/
  since : Word
  deriving DecidableEq, Repr

/-- The wait that holds the fixed group: the bundle's number and the delivered cycles since it began (R98, R192, R348). -/
structure Hold where
  bn     : Nat
  cycles : Nat
  /-- CYCLE and REGTOP.top when it began (R343) -/
  began  : Word
  rtop   : Nat
  deriving DecidableEq, Repr

/-- The identity of the running task (R294, R328, R340). -/
structure TaskId where
  tag     : Nat
  tile    : BitVec 48
  tgrid   : BitVec 48
  node    : Nat
  why     : BitVec 4
  /-- the virtual address of the argument words, the entry pointer, and the next word to be read, while starting (R328, R401) -/
  args    : Word
  entry   : Word
  argNext : Nat
  deriving DecidableEq, Repr

/-- A line of the instruction cache: the tag and virtual line address it was fetched by, its physical line, its bytes
(R293). -/
structure ILine where
  tag   : Nat
  vline : Nat
  pline : Nat
  data  : BitVec 1024
  deriving DecidableEq, Repr

/-- A line of the L1: its bytes, or the transaction number of the read of another module that is to fill it (R140, R368). -/
inductive L1Line where
  | here (v : BitVec 1024)
  | coming (tid : BitVec 8)
  deriving DecidableEq, Repr

/-- Caches and translation of a core (R20, R243, R293). -/
structure CoreCache where
  l1     : FMap L1Line
  icache : List ILine
  dtlb   : List Leaf
  ctlb   : List Leaf
  walkL  : List Walk
  walkW  : List Walk
  walkF  : List Walk
  /-- the L1 must be emptied before the next global access issues (R237, R348) -/
  acq    : Bool
  deriving DecidableEq, Repr

/-- Debug halt of a core (R384). -/
structure HaltSt where
  halted : Bool
  req    : Bool
  deriving DecidableEq, Repr

/-- Everything of a core that a suspended image keeps (R272): the pipelines, the architectural registers, and the
scratchpad once it has been moved out. -/
structure CoreRegs where
  task   : Pipe
  outr   : Pipe
  vec    : VecState
  loop   : LoopState
  region : Region
  feed   : Vector Feed 8
  scale  : Vector Vec 8
  tok    : Vector Token 64
  arr    : Vector ArrEntry 16
  wins   : Vector Window 8
  trap   : TrapRegs
  lim    : Limits
  id     : TaskId
  run    : RunSt
  out    : OutSt
  hold   : Option Hold
  /-- the slots whose next syllable issues with its emulated effect after c.resume with skip (R268) -/
  emul   : List Nat
  deriving DecidableEq, Repr

/-- A drain in flight (R173, R174): the slot integers taken, the scale words of the rows and columns, and the place. -/
structure Drain where
  due  : Nat
  vals : FMap Int
  sa   : List Nat
  sb   : List Nat
  rows : Nat
  cols : Nat
  base : Nat
  wide : Bool
  /-- the holder's number in its quad -/
  core : Nat
  deriving DecidableEq, Repr

/-- A suspended task (R272): its image, its fold registers, watchpoints, mail registers and REFUSE, its drains in flight, the bytes
of its scratchpad if moved out, the entry whose write makes it ready, whether that write has come, and whether a PARK_WD record
has been sent for it: none, one that waits for an answer, or one answered (R273). -/
structure Susp where
  image : CoreRegs
  fold  : FoldCore
  watch : Watch
  mail  : Vector Mail 4
  refuse : BitVec 16
  refCode : BitVec 8
  drains : List Drain
  pad   : Option (List Host.Cell)
  entry : Nat
  ready : Bool
  wdRec : Option Bool
  deriving DecidableEq, Repr

/-- A core (R6). -/
structure Core where
  regs   : CoreRegs
  mail   : Vector Mail 4
  refuse : BitVec 16
  refCode : BitVec 8
  fold   : FoldCore
  watch  : Watch
  cache  : CoreCache
  halt   : HaltSt
  /-- the tag of the last task that ran here (R160) -/
  last   : Option Nat
  /-- PINBASE (R261) -/
  pinbase : BitVec 21
  /-- old values of atomics that reach mail registers at the end of this cycle, after the writes through the physical map (R62) -/
  olds   : FMap Word
  susp   : List Susp
  deriving DecidableEq, Repr

/-! ## The quad -/

/-- A multiplication step in flight (R169, R170): the count at whose end it lands, the issuing core's number in its quad, the
family, the rows, sub-lanes, active units and stride at issue, one A column or four staged ones with the selection of each
unit, and the B row. -/
structure FoldStep where
  due  : Nat
  core : Nat
  taps : Bool
  rows : Nat
  e    : Nat
  nu   : Nat
  s    : Nat
  a    : List (List Int)
  sel  : List Nat
  b    : List Int
  deriving DecidableEq, Repr

/-- The fold array (R156). Slot (i, j) has key i * 8192 + j; an unlisted slot or lane is 0. -/
structure FoldArray where
  slots  : FMap Int
  st     : Vector (List Int) 4
  stNext : List (Nat × List (List Int))
  kr     : FMap Int
  kc     : FMap Int
  ta     : BitVec 5
  tb     : BitVec 5
  g      : Nat
  csum   : Bool
  base   : Nat
  nu     : Nat
  rbase  : Nat
  rcore  : Nat
  mcast  : Vector (BitVec 2) 4
  fam    : Option Bool
  busy   : Bool
  ovf    : Option (Nat × Nat × Nat)
  steps  : Nat
  flight : List FoldStep
  drains : List Drain
  holder : Option Nat
  lastHolder : Nat
  remaining  : Nat
  wide   : Bool
  deriving DecidableEq, Repr

/-- A page request (R249). -/
structure PageReq where
  page  : Nat
  cause : Nat
  tag   : Nat
  core  : Nat
  deriving DecidableEq, Repr

/-- A coachman record (R270). -/
structure TrapRec where
  kind : Nat
  core : Nat
  tag  : Nat
  c1   : Nat
  c2   : Nat
  st   : Nat
  pos  : Nat
  a1   : Word
  b1   : Word
  a2   : Word
  deriving DecidableEq, Repr

/-- A quad (R6): CYCLE and SWALLOW (R8, R18), the array, the L2 TLB and walk cache (R243), the page-request slots and the
posters that wait for one (R249), the coachman's records (R270), claims (R333) and the thermal stop (R30). A walk-cache
entry is (tag, level, prefix, table address). `swSet` is the ratio that the power controller has set; `swRef` and `swNow` count
the reference pulses of the present window and those of them swallowed. -/
structure Quad where
  cycle    : Word
  swTotal  : BitVec 32
  swRatio  : BitVec 16
  swCeil   : BitVec 16
  swSet    : BitVec 16
  swRef    : Nat
  swNow    : Nat
  /-- the quad's power or thermal limit is exceeded, and the module time from which that holds (R30) -/
  limOver  : Bool
  limAt    : Nat
  /-- the module time from which the quad has run at its ceiling ratio (R30) -/
  ceilAt   : Option Nat
  array    : FoldArray
  l2tlb    : List Leaf
  walks    : List (Nat × Nat × Nat × Nat)
  pageReq  : List PageReq
  posters  : List PageReq
  trapRec  : List TrapRec
  claims   : FMap Nat
  hot      : Bool
  /-- CYCLE at which the occupancies were last recorded (R393) -/
  monAt    : Option Nat
  deriving DecidableEq, Repr

/-! ## Contexts -/

/-- The states of a context (R260). -/
inductive CtxSt where
  | free | created | resident | running | saved | terminating | dead
  deriving DecidableEq, Repr

/-- A context: its state and its record (R258 to R260). -/
structure Ctx where
  st      : CtxSt
  band    : BitVec 4
  maxsusp : Nat
  kok     : Bool
  inj     : Bool
  dvec    : Nat
  root    : Nat
  frt     : Word
  save    : Nat
  ssize   : Nat
  park    : Word
  jrnl    : Nat
  /-- budget in force; 0 is no limit (R325) -/
  budget  : Nat
  /-- journal records reserved (R317), and records held until one is free -/
  reserved : Nat
  jheld   : List (BitVec 256)
  deriving DecidableEq, Repr

/-! ## Debug, trace and monitors of a die (R383 to R394) -/

/-- A trace record (R390). -/
structure TraceRec where
  kind  : Nat
  core  : Nat
  cycle : Nat
  reg   : Word
  va    : Word
  arg   : Word
  deriving DecidableEq, Repr

/-- The trace unit; `pend` holds the records of the present cycle until it is known whether they are captured, `hitStart` and
`hitStop` whether a source came true in it (R388, R389). -/
structure Trace where
  wrap   : Bool
  state  : BitVec 2
  start  : BitVec 4
  stop   : BitVec 4
  tcore  : BitVec 6
  startV : Word
  stopV  : Word
  buf    : BitVec 52
  size   : BitVec 32
  mask   : Word
  per    : BitVec 32
  idx    : Word
  armed  : Bool
  pend   : List TraceRec
  hitStart : Bool
  hitStop  : Bool
  /-- CYCLE of each core's last sample -/
  sampled  : FMap Nat
  deriving DecidableEq, Repr

/-- A monitor (R392). -/
structure Mon where
  cfg  : BitVec 35
  base : BitVec 48
  min  : BitVec 48
  max  : BitVec 48
  cnt  : Word
  bins : Vector (BitVec 32) 16
  deriving DecidableEq, Repr

/-- The debug core of a die (R383). -/
structure Dbg where
  sel    : BitVec 6
  data0  : Word
  data1  : Word
  cmd    : BitVec 32
  cmderr : BitVec 3
  brk    : Bool
  trace  : Trace
  mons   : FMap Mon
  deriving DecidableEq, Repr

/-! ## Copy engines (R184 to R207) -/

/-- A command of a channel (R188, R195). `seen` holds the consumed tokens found ready since acceptance; `tmpl` the template
once active; `result` the code of a finished command whose stamp is still to be written (R207). -/
structure Cmd where
  word   : Word
  marker : Bool
  /-- the issuing core, none for a dispatcher -/
  core   : Option Nat
  /-- the task that issued it: its node and tile (R191, R195) -/
  task   : Nat × BitVec 48
  /-- the queue and the packet of a dispatcher's command -/
  packet : Option (Nat × Nat)
  /-- identifies the command as the owner of its produced token (R191) -/
  owner  : Nat
  /-- TBASE at acceptance (R196) -/
  tbase  : Word
  limit  : Nat
  seen   : BitVec 3
  tmpl   : Option (BitVec 1024)
  park   : Option Nat
  parked : Nat
  result : Option Nat
  since  : Nat
  /-- memory as it was when the command became active (R201) -/
  old    : List Host.Cell
  deriving DecidableEq, Repr

/-- A channel (R184, R185). -/
structure Chan where
  tag    : Nat
  tbase  : Word
  mstamp : Word
  code   : BitVec 8
  fails  : BitVec 16
  shadow : BitVec 1024
  cmds   : List Cmd
  deriving DecidableEq, Repr

/-! ## The rescheduler (R283, R285, R286) -/

/-- A job: the claiming tag and page, the entry's physical address, the leaf it held, the die that serves it, and whether its
shootdown has removed the cached leaves and waits for the accesses that used them. -/
structure Job where
  die   : Nat
  tag   : Nat
  page  : Nat
  entry : Nat
  leaf  : BitVec 64
  shot  : Bool
  deriving DecidableEq, Repr

structure RsPool where
  compact : Bool
  base    : Nat
  npg     : BitVec 16
  used    : BitVec 16
  deriving DecidableEq, Repr

/-! ## Queues and dispatchers (R300 to R319) -/

inductive QueueSt where
  | undefined | idle | ready | running | blocked | unmapping | failed | dead
  deriving DecidableEq, Repr

/-- What a blocked run, or the ring read of an idle queue, waits for (R306, R310, R311, R402). -/
inductive Block where
  | none
  | barrier (name phase : Nat)
  /-- an arrival sent to a pod barrier of another module is not answered yet (R342, R349) -/
  | arrival (name : Nat)
  /-- module 0 has been asked for the phase of a pod barrier that a `waitb` is to wait for (R349) -/
  | ask (name : Nat)
  /-- a `waitb` whose barrier has failed or closed meanwhile, for a reason (R346) -/
  | failed (reason : Nat)
  | wake
  | work
  /-- a parked access: the table entry -/
  | park (entry : Nat)
  deriving DecidableEq, Repr

/-- A packet accepted and not yet journalled as finished or failed (R303, R313, R317). -/
structure Packet where
  serial  : Nat
  bits    : BitVec 128
  /-- the packet that an indirect one has been replaced by so far (R303) -/
  now     : BitVec 128
  /-- tag, home and evec of its queue, which may be deleted before it finishes (R301) -/
  qtag    : Nat
  qhome   : Nat
  qevec   : Nat
  arm     : Bool
  head    : BitVec 32
  accept  : Nat
  started : Bool
  /-- the run has ended with done -/
  finish  : Bool
  /-- failure met: code and detail -/
  bad     : Option (Nat × Nat)
  /-- a node or copy of the packet failed: the detail for code 0x0B -/
  workBad : Option Nat
  deriving DecidableEq, Repr

structure QWin where
  base : Nat
  wr   : Bool
  size : Nat
  deriving DecidableEq, Repr

/-- A queue (R300, R306). -/
structure Queue where
  st     : QueueSt
  record : Nat
  tag    : Nat
  band   : Nat
  dl     : Nat
  lsz    : Nat
  home   : Nat
  ring   : Nat
  evec   : Nat
  cbw    : Nat
  prog   : List (BitVec 32)
  wins   : List QWin
  head   : BitVec 32
  tail   : BitVec 32
  wake   : Word
  mapped : Bool
  wakep  : Bool
  pc     : Nat
  lvl    : Nat
  lc     : List (Nat × Nat)
  x      : Vector Word 8
  arm    : Option (BitVec 128)
  block  : Block
  /-- base of window 0: the current command block -/
  cblk   : Nat
  /-- the command block has been reached (R303) -/
  entered : Bool
  /-- the packet being run -/
  cur    : Option Nat
  pkts   : List Packet
  serial : Nat
  /-- band and deadline of the current packet's later launches (R310) -/
  lband  : Nat
  ldl    : Option Nat
  /-- arrivals of the current run: name and phase taken (R349) -/
  arrived : List (Nat × Nat)
  deleting : Bool
  /-- doorbell writes held while the queue is being unmapped (R307) -/
  latched : List (Option Word × Option (BitVec 32))
  /-- the time of the doorbell that gave the work now served (R393) -/
  rung   : Nat
  deriving DecidableEq, Repr

/-- The dispatcher of a die: mapped queues, launch count, the running queue, a restart in progress, translations, and copies
handed over but not accepted by their channel. -/
structure Disp where
  slots    : List Nat
  launches : BitVec 32
  run      : Option Nat
  restart  : Bool
  tlb      : List Leaf
  copies   : List (Nat × Word × Nat × Nat)
  deriving DecidableEq, Repr

/-! ## Nodes (R322 to R341) -/

inductive NodeSt where
  | reserving | committed | running | finished | failed
  deriving DecidableEq, Repr

/-- A pin record (R225). -/
structure Pin where
  id   : Nat
  off  : Nat
  size : Nat
  keep : Bool
  zero : Bool
  deriving DecidableEq, Repr

/-- A pin placed on a core (R261, R262); saved holds its bytes once it is displaced to the save area. -/
structure Placed where
  tag   : Nat
  core  : Nat
  pin   : Pin
  saved : Option (List Host.Cell)
  deriving DecidableEq, Repr

/-- A graph node (R322, R330, R331). -/
structure Node where
  st      : NodeSt
  tag     : Nat
  die     : Nat
  queue   : Nat
  packet  : Nat
  band    : Nat
  dl      : Option Nat
  cores   : List Nat
  gx      : Nat
  gy      : Nat
  gz      : Nat
  args    : Word
  fin     : Nat
  entry   : Word
  cycles  : Nat
  pins    : List Pin
  /-- quads claimed, in order; while reserving -/
  claimed : List Nat
  /-- the quad whose claim failed, of which the node awaits a release; and whether one has come (R334) -/
  waits   : Option Nat
  retry   : Bool
  /-- the lowest unstarted tile index -/
  next    : Nat
  /-- quads in which a task of the first wave has started (R330) -/
  begun   : List Nat
  /-- cores with a task, and tasks ended, and tasks ended by c.gleave -/
  active  : List Nat
  ended   : Nat
  left    : Nat
  parkFin : Option Nat
  rung    : Nat
  deriving DecidableEq, Repr

/-! ## Barriers (R342 to R351) -/

structure Barrier where
  cnt     : BitVec 24
  gm      : Bool
  on      : Bool
  tag     : Nat
  phase   : BitVec 32
  arrived : Nat
  fail    : Bool
  reason  : Nat
  last    : Word
  lastC   : Word
  wait    : Word
  waitN   : Word
  waitC   : Word
  node    : Option Nat
  /-- other modules of the pod whose arrivals it has handled, which hear of it (R342) -/
  mods    : List Nat
  /-- T − g of a node of another module that it is bound to (R345) -/
  members : Nat
  deriving DecidableEq, Repr

/-- What comes to a barrier's home: an arrival; from another module of the pod also a withdrawal, the end of the last task of a
node, or a question for the phase (R341, R345, R349). -/
inductive ArrKind where
  | arrival | leave | ended | ask
  deriving DecidableEq, Repr

/-- What is on its way to a barrier's home (R344, R347). -/
structure Arrival where
  what  : ArrKind
  name  : Nat
  tag   : Nat
  src   : Nat
  core  : Nat
  rtop  : Nat
  cycle : Word
  node  : Option Nat
  /-- the arrival entry of the core and its serial -/
  entry : Option (Nat × Nat)
  /-- the port it came through (R351) -/
  port  : Option Nat
  /-- the module of the arriver (R343) -/
  module : Nat
  /-- of a task of another module: its group is a gang, and T − g there (R345, R350) -/
  away  : Option (Bool × Nat)
  deriving DecidableEq, Repr

/-- News of a barrier on its way to a core (R348): a completed phase, or a failure. -/
structure News where
  core  : Nat
  name  : Nat
  phase : Nat
  fail  : Option Nat
  deriving DecidableEq, Repr

/-- A pod barrier of another module as this one knows it: the phase, and the reason of a failure (R342, R349); and the nodes of
this module whose tasks have arrived there (R345). -/
structure PodView where
  phase : Nat
  fail  : Option Nat
  nodes : List Nat
  deriving DecidableEq, Repr

structure Port where
  name : Nat
  tag  : Nat
  en   : Bool
  drop : BitVec 16
  deriving DecidableEq, Repr

/-! ## Interrupts (R320) -/

structure Irq where
  cnt    : BitVec 8
  tmax   : BitVec 16
  pend   : BitVec 16
  first  : Nat
  masked : Bool
  msg    : Bool
  deriving DecidableEq, Repr

/-! ## Links (R358 to R371) -/

inductive LinkSt where
  | down | training | up | degraded | retraining | isolated
  deriving DecidableEq, Repr

/-- A port: LCTL, LSTAT, LERR, the flits of each class that wait to be sent, the transfers granted since a request was last, the
replay buffer with the flits the peer has not acknowledged, the next lseq to send and the next one expected, and the times of the
replays and retrains that R361 counts; `asked` says that a replay request has gone to the peer since a flit was last accepted;
`credits` are the flits that the peer has room for, and `freed` the peer's flits that have left the buffers here since training,
mod 2^16, both for each class and hop (R26, R364). -/
structure Link where
  en     : Bool
  minw   : BitVec 2
  st     : LinkSt
  width  : Nat
  good   : BitVec 8
  pmod   : BitVec 8
  pport  : BitVec 6
  rtr    : BitVec 8
  fec    : BitVec 32
  rpl    : BitVec 16
  lost   : BitVec 16
  out    : List (BitVec 2048)
  grants : Nat
  replay : List (BitVec 2048)
  sendSeq : BitVec 16
  wantSeq : BitVec 16
  since  : Nat
  replays : List Nat
  retrains : List Nat
  asked  : Bool
  credits : Vector Nat 6
  freed  : Vector (BitVec 16) 6
  deriving DecidableEq, Repr

/-- Whose a request over the links is: a unit of a request of a core's load or store queue (of its task, of a task suspended there,
or of one that is no more), an argument word of a starting task, or that of another module, forwarded. -/
inductive PodWho where
  | access (core : Nat) (outr isStore : Bool) (id unit : Nat)
  | held (core node tile : Nat) (outr isStore : Bool) (id unit : Nat)
  | arg (core word : Nat)
  /-- a line of code that a core fetches -/
  | fetch (core line : Nat)
  /-- a line that a channel (0 to 511) or a queue's dispatcher (512 on) reads or writes, by its number here -/
  | unit (unit line : Nat) (wr : Bool)
  | gone
  | passed (src : Nat)
  deriving DecidableEq, Repr

/-- A request sent to another module and not yet answered, or answered and its answer not yet used: transaction number, module,
flit kind, owner's tag, the ports usable toward the module when it was sent, and the reply (R359, R366, R368). A port number of 36
says that those have changed since; 37, that the request waits to be sent again. -/
structure PodReq where
  tid  : BitVec 8
  mod  : Nat
  kind : Nat
  tag  : Nat
  ports : List Nat
  who  : PodWho
  ans  : Option (BitVec 2048)
  deriving DecidableEq, Repr

structure PodWin where
  en    : Bool
  sz    : Nat
  lbase : Nat
  mod   : Nat
  rbase : Nat
  deriving DecidableEq, Repr

structure Route where
  dir : BitVec 36
  via : Nat
  vv  : Bool
  deriving DecidableEq, Repr

/-! ## Command registers, boot and repair -/

/-- A command register pair (R245, R259, R301): both words, busy, and starting writes held behind the command. -/
structure CmdReg where
  w0   : Word
  w8   : Word
  /-- word +0 as the running command took it -/
  arg  : Word
  busy : Bool
  /-- a shootdown has removed its entries and waits for the accesses that used them -/
  going : Bool
  held : List (Word × Word)
  deriving DecidableEq, Repr

/-- What the module sends to the host, or gives a coachman that reads a register of a core (R30, R271, R320, R378, R381, R382). -/
inductive HostMsg where
  | msix (vector : Nat)
  | thermal (quad : Nat)
  | frame (pa : Nat)
  | listFull
  | fieldFail
  | read (v : Word)
  | unsupported
  | coach (core reg : Nat) (v : Word)
  | measurements (m : Vector (BitVec 512) 8) (sig : BitVec 4096)
  | certificate (c : List Byte)
  | config (v : BitVec 32)
  | mailbox (v : Word)
  deriving DecidableEq, Repr

/-- One copy of the row-remap and lane-swap tables in base-die SRAM: the rows remapped in a pseudo-channel, and its lanes swapped
(R379). -/
structure RepairTable where
  rows  : FMap (List (Nat × Nat))
  lanes : FMap Nat
  deriving DecidableEq, Repr

/-- The configuration flash (R381): the factory region with its images in load order and the identity certificate, and the field
region; and the tables of repair (R377 to R379). -/
structure Flash where
  factoryOk : Bool
  fieldOk   : Bool
  images    : List (List Byte)
  cert      : List Byte
  badCores  : List Nat
  badQuads  : List Nat
  /-- bytes of local second-tier memory (R22) -/
  tier      : Nat
  defsig    : BitVec 32
  badFrames : List Nat
  overflow  : List Nat
  /-- frames that system software is emptying, to be retired then (R251) -/
  leaving   : List Nat
  /-- lane swaps and row remaps as the field region keeps them -/
  lanes     : FMap Nat
  remaps    : FMap (List (Nat × Nat))
  /-- the three copies that are read by majority (R379) -/
  tables    : Vector RepairTable 3
  offline   : List Nat
  presence  : List (Nat × Nat)
  paused    : List Nat
  errors    : FMap Nat
  /-- the line of the command that last alerted in a pseudo-channel, and how often it has (R377) -/
  alerts    : FMap (Nat × Nat)
  deriving DecidableEq, Repr

/-- The boot sequence (R381), the eight measurement registers (R382), the base of the 256 MiB of HBM that hold the golden image (R380);
`since` is the time of the last module reset. -/
structure Boot where
  stage    : Nat
  recovery : Bool
  measures : Vector (BitVec 512) 8
  since    : Nat
  golden   : Option Nat
  deriving DecidableEq, Repr

/-- The host port (R28, R29): the host has enabled CXL, else it offers only PCIe; the keys of integrity and data encryption; its
configuration space, and what has come to the controller's update mailbox (R381). -/
structure HostPort where
  cxl : Bool
  ide : Option (BitVec 256)
  config : FMap (BitVec 32)
  mailbox : List Word
  deriving DecidableEq, Repr

/-! ## The module -/

/-- An act to come: a unit of the machine, or the outside world, takes its next turn (log entry 5). -/
inductive Act where
  /-- an event of the opcode table -/
  | occur (i : Instr)
  /-- one clock pulse of a quad; slip says which of its cores' W and F slots do not issue in it (R15): bit 2c holds W of core
  c, bit 2c + 1 holds F -/
  | pulse (q : QuadId) (slip : BitVec 8)
  /-- module time passes, in ps -/
  | time (ps : Nat)
  /-- a reference pulse of a quad that the power controller swallows (R18) -/
  | swallow (q : QuadId)
  /-- a quad begins to exceed its power or thermal limit, or to meet it (R30) -/
  | limit (q : QuadId) (exceeded : Bool)
  /-- system software gives a channel, die * 16 + channel, to a context (R185) -/
  | chanTag (c : BitVec 9) (t : BitVec 12)
  /-- the coachman writes, or reads, a system register of a core (R271) -/
  | coachWrite (n : CoreId) (i : BitVec 12) (v : Word)
  | coachRead (n : CoreId) (i : BitVec 12)
  /-- system software has emptied a frame that is to be retired (R251) -/
  | frameDone (pa : Pa)
  /-- a home slice writes a dirty line back (R20) -/
  | evict (pa : Pa)
  /-- the host reads or writes the port's configuration space, or writes to the update mailbox (R381) -/
  | config (wr : Bool) (a : BitVec 12) (v : BitVec 32)
  | mailbox (v : Word)
  /-- the host enables CXL or offers only PCIe (R28) -/
  | hostLink (cxl : Bool)
  /-- the module controller programs the keys of the host port (R29) -/
  | ideKey (k : BitVec 256)
  deriving DecidableEq, Repr

/-- The whole module. -/
structure State where
  mem    : List Host.Cell
  poison : List Nat
  writer : FMap Nat
  dirty  : List Nat
  sptag  : FMap Nat
  acctag : FMap Nat
  now    : Nat
  agenda : List Act
  /-- contexts that have consumed uncorrectable data in this act, and end with it (R372, R398) -/
  doom   : List Nat
  fresh  : Nat
  cur    : CoreId
  cores  : FMap Core
  quads  : FMap Quad
  ctxs   : FMap Ctx
  dbg    : FMap Dbg
  chans  : FMap Chan
  etlb   : FMap (List Leaf)
  jobs   : List Job
  rspool : FMap RsPool
  queues : FMap Queue
  disps  : FMap Disp
  nodes  : FMap Node
  pins   : List Placed
  bars   : FMap Barrier
  arrivals : List Arrival
  news   : List News
  podseen : FMap PodView
  ports  : FMap Port
  irqs   : FMap Irq
  links  : FMap Link
  podwin : FMap PodWin
  podreqs : List PodReq
  /-- forwarded requests that wait for a change of route to settle (R366) -/
  podheld : List (Nat × BitVec 2048)
  /-- bytes of host memory that stores of tasks have written at `mod`, by core and address, with what the host may still see there
  (R356) -/
  hostlag : List (Nat × Nat × Byte)
  /-- the lines on which a home slice has a monitor armed (R146, R353); one of host memory is held in the Shared state (R352) -/
  monitors : List Nat
  /-- when a wait, by core, pipelines and number, last read its word at the home (R353) -/
  polled : FMap Nat
  route  : FMap Route
  podmod : BitVec 8
  xshoot : CmdReg
  ctxcmd : CmdReg
  qcmd   : CmdReg
  ctxbud : FMap (BitVec 53)
  acctab : FMap (BitVec 32)
  keyh   : FMap (BitVec 19)
  repcfg : FMap (BitVec 32)
  flash  : Flash
  boot   : Boot
  port   : HostPort
  host   : List HostMsg
  deriving DecidableEq, Repr

/-! ## The ways a step can stop -/

/-- Faults that end a run. No rule of the spec ends the machine; every trap, error and refused command is a next state. -/
inductive Fault where
  /-- never raised: kept so that the type is a closed list of reasons; safe -/
  | none
  deriving DecidableEq, Repr

/-- Refusals. -/
inductive Refusal where
  /-- raised by the dispatch for an instruction that has no meaning in this model; safe -/
  | notModelled (mnemonic : String)
  deriving DecidableEq, Repr

/-! ## Reset -/

def Span.reset : Span := ⟨0, 0, false, 0, 0, 0, 0, 0, none⟩

def Pipe.reset : Pipe where
  s := Vector.replicate 40 0
  bridge := Vector.replicate 8 0
  latch := Vector.replicate 4 0
  p := Vector.replicate 16 0
  pSync := Vector.replicate 16 0
  pOwn := []
  flight := []
  count := 0
  bn := 0
  pc := 0
  span := Span.reset
  target := none
  link := none
  bq := []
  wq := []
  fq := []
  gap := 0
  wn := 0
  fn := 0
  after := none
  refill := 0
  land := false
  tbun := 0
  stop := none
  ldq := []
  lq := []
  sq := []
  spst := []
  pinc := []
  waits := false
  empty := false

def bankReset : Vector Owner 4 := #v[.va, .va, .vb, .vb]

def VecState.reset : VecState :=
  ⟨Vector.replicate 40 0, Vector.replicate 4 0, Vector.replicate 4 0, bankReset⟩

def LoopState.reset : LoopState := ⟨0xFF, Vector.replicate 8 0, 0, 0, 0⟩
def Region.reset : Region := ⟨[], false, false, false⟩
def Feed.reset : Feed := ⟨0, 0, 0, 0, 0⟩
def Token.reset : Token := ⟨.ready, 0⟩
def ArrEntry.reset : ArrEntry := ⟨false, 0, none, 0, none, none, 0⟩
def Window.reset : Window := ⟨false, 0, 0, 0, false, false, 0, []⟩
def TrapRegs.reset : TrapRegs := ⟨0, 0, 0, 0, 0, 0, 0, none, none, none⟩
def Limits.reset : Limits := ⟨0, false, false, 0, 0, 0, 0, 0, none⟩
def FoldCore.reset : FoldCore := ⟨.none, 0, false, 0, 0, 0, false, 0⟩
def Watch.reset : Watch := ⟨Vector.replicate 4 0, Vector.replicate 4 0, 0, []⟩
def TaskId.reset : TaskId := ⟨0, 0, 0, 0, 0, 0, 0, 0⟩
def CoreCache.reset : CoreCache := ⟨[], [], [], [], [], [], [], false⟩

def CoreRegs.reset : CoreRegs where
  task := Pipe.reset
  outr := Pipe.reset
  vec := VecState.reset
  loop := LoopState.reset
  region := Region.reset
  feed := Vector.replicate 8 Feed.reset
  scale := Vector.replicate 8 0
  tok := Vector.replicate 64 Token.reset
  arr := Vector.replicate 16 ArrEntry.reset
  wins := Vector.replicate 8 Window.reset
  trap := TrapRegs.reset
  lim := Limits.reset
  id := TaskId.reset
  run := .idle
  out := .off
  hold := none
  emul := []

/-- A core after reset (log entry 1). -/
def Core.reset : Core where
  regs := CoreRegs.reset
  mail := Vector.replicate 4 ⟨0, false⟩
  refuse := 0
  refCode := 0
  fold := FoldCore.reset
  watch := Watch.reset
  cache := CoreCache.reset
  halt := ⟨false, false⟩
  last := none
  pinbase := 0
  olds := []
  susp := []

/-- The array as a grant leaves it, held by the core numbered h in its quad (R156). -/
def FoldArray.granted (h : Nat) : FoldArray where
  slots := []
  st := Vector.replicate 4 []
  stNext := []
  kr := []
  kc := []
  ta := 22
  tb := 22
  g := 8
  csum := false
  base := 0
  nu := 512
  rbase := 0
  rcore := h
  mcast := Vector.replicate 4 (BitVec.ofNat 2 h)
  fam := none
  busy := false
  ovf := none
  steps := 0
  flight := []
  drains := []
  holder := none
  lastHolder := 3
  remaining := 0
  wide := false

/-- A quad after reset (R8, R18; log entry 1). -/
def Quad.reset : Quad where
  cycle := 0
  swTotal := 0
  swRatio := 0
  swCeil := 57344
  swSet := 0
  swRef := 0
  swNow := 0
  limOver := false
  limAt := 0
  ceilAt := none
  array := FoldArray.granted 0
  l2tlb := []
  walks := []
  pageReq := []
  posters := []
  trapRec := []
  claims := []
  hot := false
  monAt := none

def Ctx.reset : Ctx := ⟨.free, 0, 0, false, false, 0, 0, 0, 0, 0, 0, 0, 0, 0, []⟩

def Trace.reset : Trace := ⟨false, 0, 0, 0, 0, 0, 0, 0, 0, 0, 0, 0, false, [], false, false, []⟩
def Mon.reset : Mon := ⟨0, 0, 0, 0, 0, Vector.replicate 16 0⟩
def Dbg.reset : Dbg := ⟨0, 0, 0, 0, 0, false, Trace.reset, []⟩
def Chan.reset : Chan := ⟨0, 0, 0, 0, 0, 0, []⟩
def RsPool.reset : RsPool := ⟨false, 0, 0, 0⟩
def Queue.reset : Queue where
  st := .undefined
  record := 0
  tag := 0
  band := 0
  dl := 0
  lsz := 0
  home := 0
  ring := 0
  evec := 0
  cbw := 0
  prog := []
  wins := []
  head := 0
  tail := 0
  wake := 0
  mapped := false
  wakep := false
  pc := 0
  lvl := 0
  lc := []
  x := Vector.replicate 8 0
  arm := none
  block := .none
  cblk := 0
  entered := false
  cur := none
  pkts := []
  serial := 0
  lband := 0
  ldl := none
  arrived := []
  deleting := false
  latched := []
  rung := 0
def Disp.reset : Disp := ⟨[], 0, none, false, [], []⟩
def Node.reset : Node where
  st := .failed
  tag := 0
  die := 0
  queue := 0
  packet := 0
  band := 0
  dl := none
  cores := []
  gx := 0
  gy := 0
  gz := 0
  args := 0
  fin := 0
  entry := 0
  cycles := 0
  pins := []
  claimed := []
  waits := none
  retry := false
  next := 0
  begun := []
  active := []
  ended := 0
  left := 0
  parkFin := none
  rung := 0
def Barrier.reset : Barrier := ⟨0, false, false, 0, 0, 0, false, 0, 0, 0, 0, 0, 0, none, [], 0⟩
def PodView.reset : PodView := ⟨0, none, []⟩
def Port.reset : Port := ⟨0, 0, false, 0⟩
def Irq.reset : Irq := ⟨0, 0, 0, 0, true, false⟩
def Link.reset : Link := ⟨false, 0, .down, 0, 0, 0, 0, 0, 0, 0, 0, [], 0, [], 0, 0, 0, [], [], false, Vector.replicate 6 0, Vector.replicate 6 0⟩
def PodWin.reset : PodWin := ⟨false, 0, 0, 0, 0⟩
def Route.reset : Route := ⟨0, 0, false⟩
def CmdReg.reset : CmdReg := ⟨0, 0, 0, false, false, []⟩
def RepairTable.reset : RepairTable := ⟨[], []⟩
def Flash.reset : Flash :=
  ⟨true, true, [], [], [], [], 0x20000000000, 0, [], [], [], [], [], Vector.replicate 3 RepairTable.reset, [], [], [], [], []⟩
def Boot.reset : Boot := ⟨0, false, Vector.replicate 8 0, 0, none⟩
def HostPort.reset : HostPort := ⟨false, none, [], []⟩

/-- The module right after reset (R381 has not run yet: the boot sequence is the event MODULE_RESET). -/
def State.reset : State where
  mem := []
  poison := []
  writer := []
  dirty := []
  sptag := []
  acctag := []
  now := 0
  agenda := []
  doom := []
  fresh := 0
  cur := 0
  cores := []
  quads := []
  ctxs := []
  dbg := []
  chans := []
  etlb := []
  jobs := []
  rspool := []
  queues := []
  disps := []
  nodes := []
  pins := []
  bars := []
  arrivals := []
  news := []
  podseen := []
  ports := []
  irqs := []
  links := []
  podwin := []
  podreqs := []
  podheld := []
  hostlag := []
  monitors := []
  polled := []
  route := []
  podmod := 0
  xshoot := CmdReg.reset
  ctxcmd := CmdReg.reset
  qcmd := CmdReg.reset
  ctxbud := []
  acctab := []
  keyh := []
  repcfg := []
  flash := Flash.reset
  boot := Boot.reset
  port := HostPort.reset
  host := []

end Sys2Proof.Machine
end

