-- ==== Sys2Proof/Machine/Ops.lean ====
section
/-! DEFINITION. The named operations over memory, cores and results, and taking a trap. -/

namespace Sys2Proof.Machine

/-! ## Memory -/

/-- The byte at an address; an unlisted byte reads 0 (log entry 2). -/
def Memory.get : List Host.Cell → Nat → Byte
  | [], _ => 0
  | (k, v) :: r, a => if k = a then v else Memory.get r a

/-- Put a byte, keeping the canonical form: keys rising, no entry equal to what an unlisted byte reads as. -/
def Memory.put : List Host.Cell → Nat → Byte → List Host.Cell
  | [], a, b => if b = 0 then [] else [(a, b)]
  | (k, v) :: r, a, b =>
    if a < k then (if b = 0 then (k, v) :: r else (a, b) :: (k, v) :: r)
    else if k = a then (if b = 0 then r else (a, b) :: r)
    else (k, v) :: Memory.put r a b

/-- The keys of a list of cells rise strictly from above lo, and no entry is 0. -/
def Memory.above : Nat → List Host.Cell → Bool
  | _, [] => true
  | lo, (k, v) :: r => lo ≤ k && v ≠ 0 && Memory.above (k + 1) r

/-- The canonical form of memory. -/
def Memory.wf (m : List Host.Cell) : Bool := Memory.above 0 m

/-- n bytes from a on, as a little-endian number (R1). -/
def Memory.read (m : List Host.Cell) (a : Nat) : Nat → Nat
  | 0 => 0
  | n + 1 => (Memory.get m a).toNat + 256 * Memory.read m (a + 1) n

/-- Write the n low bytes of v from a on. -/
def Memory.write (m : List Host.Cell) (a v : Nat) : Nat → List Host.Cell
  | 0 => m
  | n + 1 => Memory.write (Memory.put m a (BitVec.ofNat 8 v)) (a + 1) (v / 256) n

/-! ## Cores, quads and contexts -/

def State.core (s : State) (n : Nat) : Core := fget Core.reset s.cores n
def State.setCore (s : State) (n : Nat) (c : Core) : State := { s with cores := fset s.cores n c }
def State.modCore (s : State) (n : Nat) (f : Core → Core) : State := s.setCore n (f (s.core n))
def State.quad (s : State) (q : Nat) : Quad := fget Quad.reset s.quads q
def State.setQuad (s : State) (q : Nat) (x : Quad) : State := { s with quads := fset s.quads q x }
def State.modQuad (s : State) (q : Nat) (f : Quad → Quad) : State := s.setQuad q (f (s.quad q))
def State.ctx (s : State) (t : Nat) : Ctx := fget Ctx.reset s.ctxs t
def State.setCtx (s : State) (t : Nat) (c : Ctx) : State := { s with ctxs := fset s.ctxs t c }

/-- The core whose syllable issues. -/
def State.me (s : State) : Core := s.core s.cur.toNat
def State.modMe (s : State) (f : Core → Core) : State := s.modCore s.cur.toNat f
/-- The quad of the core whose syllable issues (R7). -/
def State.myQuad (s : State) : Nat := s.cur.toNat / 4
def State.myPart (s : State) : Nat := s.cur.toNat % 4

def Core.modRegs (c : Core) (f : CoreRegs → CoreRegs) : Core := { c with regs := f c.regs }

/-- Change the registers of the task on a core and of every task suspended there. -/
def Core.mapRegs (c : Core) (f : CoreRegs → CoreRegs) : Core :=
  { c with regs := f c.regs, susp := c.susp.map (fun x => { x with image := f x.image }) }

/-- The outrider issues in place of the held task (R265). -/
def Core.outrider (c : Core) : Bool := c.regs.out ≠ .off

/-- The pipelines that issue: the outrider's while it is on, else the task's. -/
def Core.pipe (c : Core) : Pipe := if c.outrider then c.regs.outr else c.regs.task

def Core.modPipe (c : Core) (f : Pipe → Pipe) : Core :=
  if c.outrider then c.modRegs (fun r => { r with outr := f r.outr })
  else c.modRegs (fun r => { r with task := f r.task })

def State.pipe (s : State) : Pipe := s.me.pipe
def State.modPipe (s : State) (f : Pipe → Pipe) : State := s.modMe (fun c => c.modPipe f)
def State.modRegs (s : State) (f : CoreRegs → CoreRegs) : State := s.modMe (fun c => c.modRegs f)
def State.regs (s : State) : CoreRegs := s.me.regs

/-- A free value and a free choice, each used once (log entry 6). -/
def State.free (s : State) : Vec × State := (Config.freeVec s.fresh, { s with fresh := s.fresh + 1 })
def State.freeChoice (s : State) : Bool × State := (Config.freeBit s.fresh, { s with fresh := s.fresh + 1 })

/-! ## The physical map (R22) -/

def hbmEnd : Nat := 0x20000000000
def tierBase : Nat := 0x40000000000
def tierEnd : Nat := 0x80000000000
def hostBase : Nat := 0x1000000000000
def hostEnd : Nat := 0x2000000000000
def padBase : Nat := 0xF000000000000
def padEnd : Nat := 0xF000100000000
def accBase : Nat := 0xF000100000000
def accEnd : Nat := 0xF000180000000
def mailBase : Nat := 0xF000180000000
def mailEnd : Nat := 0xF000180020000
def engBase : Nat := 0xF000190000000
def engEnd : Nat := 0xF000192000000
def arrBase : Nat := 0xF0001A0000000
def arrEnd : Nat := 0xF0001A0010000
def ctlBase : Nat := 0xF0001B0000000
def ctlEnd : Nat := 0xF0001B1000000

/-- The first byte of core n's scratchpad, and of its accumulator partition. -/
def padOf (n : Nat) : Nat := padBase + n * 0x200000
def accOf (n : Nat) : Nat := accBase + n * 0x100000
def accQuad (q : Nat) : Nat := accBase + q * 0x400000

/-- An address homed in an L2 slice or with the host (R21, R144). -/
def hasHome (pa : Nat) : Bool :=
  pa < hbmEnd || (tierBase ≤ pa && pa < tierEnd) || (hostBase ≤ pa && pa < hostEnd)

def isPad (pa : Nat) : Bool := padBase ≤ pa && pa < padEnd
def isAcc (pa : Nat) : Bool := accBase ≤ pa && pa < accEnd
def isHost (pa : Nat) : Bool := hostBase ≤ pa && pa < hostEnd
/-- Plain storage: HBM, the second tier, host memory, scratchpads and accumulators. -/
def isStore (pa : Nat) : Bool := hasHome pa || isPad pa || isAcc pa

/-! ## Scratchpads with their tag test (R261) -/

/-- The containment tag of the scratchpad granule of pa: the owner's of a pin in place there, else that of the last task started
on the core; none after module reset or a scrub. -/
def granTag (s : State) (pa : Nat) : Option Nat :=
  let n := (pa - padBase) / 0x200000
  let o := (pa - padBase) % 0x200000
  match s.pins.find? (fun x => x.core = n && x.saved.isNone && x.pin.off ≤ o && o < x.pin.off + x.pin.size) with
  | some x => some x.tag
  | none => fget? s.sptag n

/-- A core's access with tag t may touch the scratchpad granule of physical address pa. -/
def padAllowed (s : State) (t pa : Nat) : Bool :=
  if isPad pa then
    match granTag s pa with
    | none => true
    | some u => u = t
  else true

/-- A byte as an access with tag t reads it: a granule of another tag reads as zero (R261). -/
def readByteAs (s : State) (t pa : Nat) : Byte :=
  if padAllowed s t pa then Memory.get s.mem pa else 0

/-- A byte written by an access with tag t: dropped in a granule of another tag (R261). -/
def writeByteAs (s : State) (t pa : Nat) (b : Byte) : State :=
  if padAllowed s t pa then { s with mem := Memory.put s.mem pa b } else s

def writeBytesAs (s : State) (t : Nat) : List (Nat × Byte) → State
  | [] => s
  | (a, b) :: r => writeBytesAs (writeByteAs s t a b) t r

/-- Bytes as a little-endian number. -/
def leNat : List Byte → Nat
  | [] => 0
  | b :: r => b.toNat + 256 * leNat r

/-- The n low bytes of v, at the addresses that f gives them. -/
def bytesOf (v : Nat) (n : Nat) (f : Nat → Nat) : List (Nat × Byte) :=
  (List.range n).map (fun i => (f i, BitVec.ofNat 8 (v / 2 ^ (8 * i))))

/-! ## Results (R60, R61, R62) -/

/-- Insert a result after every result of lower syllable positions and every one of its own slot that is not of a later bundle,
so that applying the list in order keeps the later-issued of one slot and the highest position of a mask (R62, R66). -/
def addFlight (x : Flight) : List Flight → List Flight
  | [] => [x]
  | y :: r =>
    if x.slot.num < y.slot.num || (x.slot.num = y.slot.num && x.bn < y.bn) then x :: y :: r else y :: addFlight x r

/-- Start a result of latency lat at the present issue count. -/
def Pipe.result (p : Pipe) (slot : Pos) (lat : Nat) (t : Tgt) (v : Vec) : Pipe :=
  { p with flight := addFlight ⟨slot, p.count + lat - 1, t, v, p.bn⟩ p.flight }

def State.result (s : State) (slot : Pos) (lat : Nat) (t : Tgt) (v : Vec) : State :=
  s.modPipe (fun p => p.result slot lat t v)

/-- The two targets of a result of S, VA or VB (R60). -/
def State.dest (s : State) (slot : Pos) (lat : Nat) (w : BitVec 1) (d : BitVec 6) (v : Vec) : State :=
  if w = 1 then s.result slot lat (.latch d.toNat) v
  else
    (s.result slot lat (if slot = .S then .sreg d.toNat else .vreg d.toNat) v).result slot lat (.latch (d.toNat % 4)) v

/-! ## Trace and monitors (R388 to R394) -/

def State.dbgOf (s : State) (d : Nat) : Dbg := fget Dbg.reset s.dbg d
def State.modDbg (s : State) (d : Nat) (f : Dbg → Dbg) : State := { s with dbg := fset s.dbg d (f (s.dbgOf d)) }

/-- The top four entries of a region stack, entry 0 in [15:0] (R390). -/
def regionTop (r : Region) : Word :=
  BitVec.ofNat 64 ((r.ids.take 4).foldr (fun i acc => i.toNat + 2 ^ 16 * acc) 0)

/-- CYCLE of a core's quad (R8). -/
def State.cycleOf (s : State) (n : Nat) : Word := (s.quad (n / 4)).cycle

/-- A traced core writes a record of an event of this cycle (R390). -/
def traceRecord (s : State) (n kind : Nat) (va arg : Word) : State :=
  let t := (s.dbgOf (n / 64)).trace
  if t.mask.getLsbD (n % 64) then
    s.modDbg (n / 64) (fun d => { d with trace := { t with
      pend := t.pend ++ [⟨kind, n, (s.cycleOf n).toNat % 2 ^ 48, regionTop (s.core n).regs.region, va, arg⟩] } })
  else s

/-- A start or stop source of a die becomes true (R389): the code, and whether its argument matches. -/
def traceSource (s : State) (d code : Nat) (ok : Trace → Word → Bool) : State :=
  let t := (s.dbgOf d).trace
  let a := t.start.toNat = code && ok t t.startV
  let b := t.stop.toNat = code && ok t t.stopV
  if a || b then
    s.modDbg d (fun x => { x with trace := { t with hitStart := t.hitStart || a, hitStop := t.hitStop || b } })
  else s

/-- The bytes of a trace record (R390). -/
def traceBytes (r : TraceRec) : Nat :=
  r.kind + 2 ^ 4 * r.core + 2 ^ 16 * r.cycle + 2 ^ 64 * r.reg.toNat + 2 ^ 128 * r.va.toNat + 2 ^ 192 * r.arg.toNat

/-- Write records until the buffer is full (R389, R390). -/
def traceWrite (s : State) (d : Nat) : List TraceRec → State
  | [] => s
  | r :: l =>
    let t := (s.dbgOf d).trace
    if !t.wrap && t.size.toNat ≤ t.idx.toNat then s
    else
      traceWrite
        ({ s with mem := Memory.write s.mem (t.buf.toNat + 32 * (t.idx.toNat % t.size.toNat)) (traceBytes r) 32 }.modDbg d
          (fun x => { x with trace := { t with idx := t.idx + 1 } })) d l

/-- The end of a cycle of the trace of a die: the state machine of R389. A reserved code of either source leaves both untrue. -/
def traceCommit (s : State) (d : Nat) : State :=
  let t := (s.dbgOf d).trace
  let ok := t.start.toNat < 7 && t.stop.toNat < 7
  let st := ok && (t.hitStart || t.start = 1)
  let sp := ok && (t.hitStop || t.stop = 1)
  let clean := fun (x : State) (f : Trace → Trace) => x.modDbg d (fun y =>
    { y with trace := f { y.trace with pend := [], hitStart := false, hitStop := false } })
  if !t.armed || t.state = 2 then clean s id
  else if t.state = 0 && !st then clean s id
  else
    let s' := traceWrite s d t.pend
    let full := !t.wrap && t.size.toNat ≤ (s'.dbgOf d).trace.idx.toNat
    clean s' (fun y => { y with state := if sp || full then 2 else 1 })

/-! Monitors. -/

def bitlen (x : Nat) : Nat := if x = 0 then 0 else Nat.log2 x + 1

/-- The bin of a value (R394). -/
def monBin (m : Mon) (v : Nat) : Nat :=
  let u := (v - m.base.toNat) / 2 ^ bitsN m.cfg.toNat 6 6
  let i := if m.cfg.getLsbD 5 then bitlen u else u
  if 15 < i then 15 else i

/-- A monitor records a value (R394). -/
def monUpdate (m : Mon) (v : Nat) : Mon :=
  let w := BitVec.ofNat 48 v
  let i := monBin m v
  { m with
    min := if w.toNat < m.min.toNat then w else m.min
    max := if m.max.toNat < w.toNat then w else m.max
    cnt := m.cnt + 1
    bins := vset m.bins i (if vget m.bins i 0 = 0xFFFFFFFF then 0xFFFFFFFF else vget m.bins i 0 + 1) }

/-- The event is one the monitor counts (R392). -/
def monWants (m : Mon) (src tag core : Nat) : Bool :=
  bitsN m.cfg.toNat 0 5 = src && m.cfg.getLsbD 12 && !(m.cfg.getLsbD 13) &&
  (m.cfg.getLsbD 27 || bitsN m.cfg.toNat 15 12 = tag) &&
  (src = 7 || src = 8 || m.cfg.getLsbD 34 || bitsN m.cfg.toNat 28 6 = core)

/-- A value of an event is recorded by every monitor of the die that counts it, and may be a trace source (R389, R393). -/
def monRecord (s : State) (d src tag core v : Nat) : State :=
  let ms := (s.dbgOf d).mons
  let hit := ms.filter (fun e => monWants e.2 src tag core)
  let s1 := s.modDbg d (fun x =>
    { x with mons := ms.map (fun e => if monWants e.2 src tag core then (e.1, monUpdate e.2 v) else e) })
  if hit.isEmpty then s
  else traceSource s1 d 4 (fun _ a => hit.any (fun e => e.1 = bitsN a.toNat 0 6) && bitsN a.toNat 16 48 ≤ v)

/-- The address of the first bundle of a page. -/
def firstBundle (page : Nat) : Word := BitVec.ofNat 64 (page * 4096 + 64)

/-- The address of the next bundle of pipelines, but for the landing of a transfer: past a page's last stored bundle it is the
first one of the coupled page (R281). -/
def Pipe.nextAddr (p : Pipe) : Word :=
  match p.bq, p.target, p.span.cpl with
  | b :: _, _, _ => b.addr
  | [], some t, _ => if t.couple && t.ptr.toNat % 4096 = 0 then firstBundle (t.ptr.toNat / 4096) else t.ptr
  | [], none, some pg => if p.span.count + 1 < (p.pc.toNat - 4096 * p.span.page) / 32 then firstBundle pg else p.pc
  | [], none, none => p.pc

/-- The core halts for the debug core: its clock is held; the record names the bundle after it (R384, R390). -/
def haltBefore (s : State) (n : Nat) (va : Word) : State :=
  traceRecord (s.modCore n (fun c => { c with halt := ⟨true, false⟩ })) n 5 va 0

/-- A region edge of the core: a requested halt takes effect after the bundle (R97, R384, R390). -/
def regionEdge (s : State) (kind : Nat) : State :=
  traceRecord s s.cur.toNat kind (match s.pipe.bq with | b :: _ => b.next | [] => s.pipe.nextAddr) 0

/-! ## Slot queues (R10, R12, R16, R54, R99, R264) -/

/-- The syllable at a position; the SYNC bit is not part of the C syllable's word. -/
def Bundle.syl (b : Bundle) (p : Pos) : BitVec 32 :=
  BitVec.ofNat 32 (field b.bits (32 * p.num) (if p = .C then 31 else 32))

def Bundle.sync (b : Bundle) : Bool := b.bits.getLsbD 63

/-- The number of the next bundle to be dispatched. -/
def Pipe.dn (p : Pipe) : Nat := p.bn + p.gap + p.bq.length

/-- The bundle of a number that the fixed group has not issued; none where it is an empty one. -/
def Pipe.ahead (p : Pipe) (k : Nat) : Option Bundle := if k < p.bn + p.gap then none else p.bq[k - (p.bn + p.gap)]?

/-- A W syllable enters W's slot queue, unless it is empty. -/
def wEntries (k : Nat) (b : Bundle) : List WEntry :=
  if b.syl .W = 0 then [] else [⟨b.syl .W, b.addr, k, 0, 0, 0, 0, 0, true, 0⟩]

def fEntries (k : Nat) (b : Bundle) : List FEntry := if b.syl .F = 0 then [] else [⟨b.syl .F, b.addr, k⟩]

/-- A bundle is dispatched: its syllables enter the slot queues. -/
def Pipe.dispatch (b : Bundle) (p : Pipe) : Pipe :=
  { p with bq := p.bq ++ [b], wq := p.wq ++ wEntries p.dn b, fq := p.fq ++ fEntries p.dn b }

/-- Every slot's queue has room for a syllable. -/
def Pipe.room (p : Pipe) : Bool := p.bq.length < 17 && p.dn < p.wn + 17 && p.dn < p.fn + 17

def Req.shift {α : Type} (k n : Nat) (r : Req α) : Req α := if k ≤ r.bn then { r with bn := r.bn + n, id := r.id + n } else r

/-- n empty bundles come to stand before bundle k: the later ones move up. -/
def Pipe.insert (k n : Nat) (p : Pipe) : Pipe :=
  { p with
    wq := p.wq.map (fun e => if k ≤ e.bn then { e with bn := e.bn + n } else e)
    fq := p.fq.map (fun e => if k ≤ e.bn then { e with bn := e.bn + n } else e)
    wn := if k < p.wn then p.wn + n else p.wn
    fn := if k < p.fn then p.fn + n else p.fn
    sq := p.sq.map (Req.shift k n)
    lq := p.lq.map (fun r =>
      let r1 := r.shift k n
      match r.op with
      | .partner j => if k ≤ r.bn then { r1 with op := .partner (j + n) } else r1
      | _ => r1)
    spst := p.spst.map (fun w => if k ≤ w.bn then { w with bn := w.bn + n } else w) }

/-- The fixed group traps before it issues its next bundle: what W has issued of that bundle and of later ones is withdrawn, and
W issues it again (R264). -/
def Pipe.withdraw (p : Pipe) : Pipe :=
  if p.wn ≤ p.bn then p
  else
    { p with
      wq := ((List.range (p.wn - p.bn)).flatMap (fun i =>
        match p.ahead (p.bn + i) with | some b => wEntries (p.bn + i) b | none => [])) ++ p.wq
      wn := p.bn
      sq := p.sq.filter (fun r => r.bn < p.bn)
      lq := p.lq.filter (fun r => r.bn < p.bn)
      spst := p.spst.filter (fun w => w.bn < p.bn) }

/-! ## Traps -/

/-- Append a record of the coachman's mailbox (R270). -/
def State.record (s : State) (r : TrapRec) : State :=
  s.modQuad s.myQuad (fun q => { q with trapRec := q.trapRec ++ [r] })

/-- The coachman record of a core's trap registers (R270). -/
def trapRecord (s : State) (kind c2 : Nat) (a2 : Word) : TrapRec :=
  let t := s.regs.trap
  ⟨kind, s.myPart, s.regs.id.tag, t.tcause.toNat, c2, t.tstatus.toNat, t.tslot.toNat, t.taddr, t.tbundle, a2⟩

/-- A fault of the outrider's own syllables: DOUBLE before c.ack, OUTRIDER after it (R269). -/
def outriderFault (s : State) (cause : Nat) (addr : Word) : State :=
  if s.regs.trap.tstatus.getLsbD 1 then
    (s.record (trapRecord s 3 cause addr)).modRegs (fun r => { r with out := .fault cause addr })
  else
    (s.record (trapRecord s 2 cause addr)).modRegs (fun r => { r with out := .double cause addr })

/-- Start the outrider at landing frt: its next fetch enters frt's page (R265). -/
def Pipe.startAt (p : Pipe) (ptr : Word) : Pipe :=
  { p with
    target := some ⟨ptr, false⟩, bq := [], wq := [], fq := [], gap := 0, wn := p.bn, fn := p.bn, after := none, refill := 0
    stop := none }

/-! ## Trap causes (R263) -/

def cILLEGAL_OP : Nat := 0x01
def cILLEGAL_COMBO : Nat := 0x02
def cPRIVILEGE : Nat := 0x03
def cBANK_UNBOUND : Nat := 0x04
def cBANK_BUSY : Nat := 0x05
def cBAD_TARGET : Nat := 0x06
def cBAD_LANDING : Nat := 0x07
def cPAGE_REJECT : Nat := 0x08
def cSWTRAP : Nat := 0x09
def cBREAK : Nat := 0x0A
def cLEASE_HELD : Nat := 0x0B
def cMAIL_TIMEOUT : Nat := 0x0C
def cLDQ_EARLY : Nat := 0x0D
def cLDQ_UNDERFLOW : Nat := 0x0E
def cLDQ_OVERFLOW : Nat := 0x0F
def cBAD_VA : Nat := 0x10
def cBAD_PA : Nat := 0x11
def cNOT_MAPPED : Nat := 0x12
def cXLAT_RSVD : Nat := 0x13
def cXLAT_PERM : Nat := 0x14
def cMISALIGNED : Nat := 0x15
def cHOME_ONLY : Nat := 0x16
def cAPERTURE_OP : Nat := 0x17
def cNOT_WIDE : Nat := 0x18
def cWIN_BAD : Nat := 0x19
def cWIN_RO : Nat := 0x1A
def cWIN_FAULT : Nat := 0x1B
def cNO_LEASE : Nat := 0x1C
def cFOLD_BUSY : Nat := 0x1D
def cWIDE_DENIED : Nat := 0x1E
def cGUARD_OVERFLOW : Nat := 0x1F
def cCSUM_FAIL : Nat := 0x20
def cACC_RANGE : Nat := 0x21
def cTOKEN_BUSY : Nat := 0x22
def cTOKEN_FAIL : Nat := 0x23
def cTOKEN_TIMEOUT : Nat := 0x24
def cWDOG_EXPIRED : Nat := 0x25
def cPARK_TIMEOUT : Nat := 0x26
def cWATCH : Nat := 0x27
def cBARRIER_TIMEOUT : Nat := 0x28
def cBARRIER_FAIL : Nat := 0x29

/-- The causes taken at a syllable (R263). -/
def syllableCause (c : Nat) : Bool :=
  c ∈ [cBAD_VA, cBAD_PA, cNOT_MAPPED, cXLAT_RSVD, cXLAT_PERM, cMISALIGNED, cHOME_ONLY, cAPERTURE_OP, cWIN_RO, cTOKEN_BUSY,
    cPARK_TIMEOUT, cWATCH]

/-- Take a trap (R263 to R265): the task's pipelines are held where they stand, the trap registers are written, and the
outrider starts at landing frt. In the outrider it is an outrider fault (R269). -/
def takeTrap (s : State) (cause : Nat) (taddr : Word) (slot : Nat) (bundle : Word) (slip fetch : Bool) : State :=
  if s.me.outrider then outriderFault s cause taddr
  else
    traceRecord (s.modRegs (fun r =>
      { r with
        trap := { r.trap with
          tcause := BitVec.ofNat 8 cause
          taddr := taddr
          tbundle := bundle
          tslot := BitVec.ofNat 3 slot
          behind := if slip then some (if slot = 5 then r.task.wn else r.task.fn) else none
          syl := if syllableCause cause && !fetch then some slot else none
          parked := none
          tstatus := (if slip then 0x11 else 0x01) ||| (if fetch then 0x20 else 0) ||| (r.trap.tstatus &&& 0x40) }
        out := .running
        task := if slip then r.task else r.task.withdraw
        outr := r.outr.startAt (s.ctx r.id.tag).frt })) s.cur.toNat 4 bundle (BitVec.ofNat 64 cause)

/-- The trap just taken belongs to a parked request of the load or store queue, or to no syllable. -/
def trapOf (parked : Option (Bool × Nat)) (behind : Option Nat) (s : State) : State :=
  s.modRegs (fun r => { r with trap := { r.trap with syl := none, parked := parked, behind := behind } })

/-- The address of the bundle the fixed group issues. -/
def State.bundleAt (s : State) : Word :=
  match s.pipe.bq with
  | b :: _ => b.addr
  | [] => s.pipe.nextAddr

/-- The address of the bundle whose W syllable issues. -/
def State.wBundleAt (s : State) : Word :=
  match s.pipe.wq with
  | e :: _ => e.addr
  | [] => s.bundleAt

/-- A trap of a fixed-group syllable at its bundle. -/
def fixedTrap (s : State) (cause : Nat) (taddr : Word) (slot : Pos) : State :=
  takeTrap s cause taddr slot.num s.bundleAt false false

/-- A trap of a W syllable at its issue: the slot has slipped (R264). -/
def wTrap (s : State) (cause : Nat) (taddr : Word) : State :=
  takeTrap s cause taddr 5 s.wBundleAt true false

end Sys2Proof.Machine
end

