-- ==== Sys2Proof/Machine/Operands.lean ====
section
/-! DEFINITION. Every operand form: source selectors by slot, masks, pops of the load data queue and effective addresses
(R57 to R59, R66, R129, R133). -/

namespace Sys2Proof.Machine

/-- A 64-bit value zero-extended into a vector (R57). -/
def wordVec (x : Word) : Vec := x.setWidth 2048
/-- Bits [63:0] of a vector value. -/
def vecWord (x : Vec) : Word := x.setWidth 64
def natVec (x : Nat) : Vec := BitVec.ofNat 2048 x

/-- A scale register's 64 scale words as it holds them: their reserved bits [31:26] read as zero (R2, R43). -/
def scaleWords (v : Nat) : Vec :=
  natVec (Nat.land v ((List.range 64).foldr (fun _ acc => 0x03FFFFFF + 2 ^ 32 * acc) 0))

/-! ## Masks (R66) -/

/-- The mask m as a slot sees it: its own landed write since the last SYNC bundle or landing, else the mask as it stood then. -/
def Pipe.maskOf (p : Pipe) (slot : Pos) (m : Nat) : Mask :=
  match p.pOwn.find? (fun e => e.1 = slot ∧ e.2.1 = m) with
  | some e => e.2.2
  | none => vget p.pSync m 0

def State.mask (s : State) (slot : Pos) (m : BitVec 4) : Mask := s.pipe.maskOf slot m.toNat

/-! ## The load data queue (R58, R133) -/

/-- What the pops of a syllable or bundle find. -/
inductive PopRes where
  | go | hold
  | trap (cause : Nat)
  deriving DecidableEq, Repr

/-- An entry that has delivered. -/
def LdqEntry.ready (e : LdqEntry) : Bool := e.out

/-- n pops of the queue's head entries: the first that cannot be taken decides (R133). -/
def popsRes : Nat → List LdqEntry → PopRes
  | 0, _ => .go
  | _ + 1, [] => .trap cLDQ_UNDERFLOW
  | n + 1, e :: r =>
    if e.out then popsRes n r
    else match e.fixed with
      | some _ => .trap cLDQ_EARLY
      | none => .hold

/-- Take the oldest entry (R58). -/
def popLdq (s : State) : Vec × State :=
  match s.pipe.ldq with
  | [] => (0, s)
  | e :: r => (e.val, s.modPipe (fun p => { p with ldq := r }))

def isPop (x : BitVec 6) : Nat := if x = 57 then 1 else 0

/-- The fixed group holds: nothing changes but the mark that says so (R12). -/
def State.holdNow (s : State) : State := s.modPipe (fun p => { p with waits := true })

/-- Do something once n pops can be taken; otherwise hold, or trap at the bundle. -/
def withPops (n : Nat) (slot : Pos) (s : State) (k : State → State) : State :=
  match popsRes n s.pipe.ldq with
  | .go => k s
  | .hold => s.holdNow
  | .trap c => fixedTrap s c 0 slot

/-! ## Sources (R57) -/

/-- Read a mail register in the S slot: its full bit clears, and a full register orders the core's later accesses after the
sender's stores (R23, R237). -/
def readMail (s : State) (m : Nat) : Word × State :=
  let x := vget s.me.mail m ⟨0, false⟩
  (x.value, s.modMe (fun c =>
    { c with mail := vset c.mail m { x with full := false }, cache := { c.cache with acq := c.cache.acq || x.full } }))

/-- A source of the S slot. -/
def srcS (x : BitVec 6) (s : State) : Word × State :=
  let n := x.toNat
  if n < 40 then (vget s.pipe.s n 0, s)
  else if n < 44 then (vget s.pipe.latch (n - 40) 0, s)
  else if n < 48 then readMail s (n - 44)
  else if n = 57 then
    let (v, s') := popLdq s
    (vecWord v, s')
  else (0, s)

/-- A bridge register or zero, as every slot but S sees it (R14). -/
def State.bridge (s : State) (x : BitVec 6) : Word :=
  if 48 ≤ x.toNat ∧ x.toNat < 56 then vget s.pipe.bridge (x.toNat - 48) 0 else 0

/-- A latch of VA or VB. -/
def State.vlatch (s : State) (slot : Pos) (n : Nat) : Vec :=
  if slot = .VA then vget s.regs.vec.la n 0 else vget s.regs.vec.lb n 0

def slotPeer (p : Pos) : Pos := if p = .VA then .VB else .VA

/-- A source of VA or VB; a bridge register is its 64-bit value, zero-extended. -/
def srcV (slot : Pos) (x : BitVec 6) (s : State) : Vec × State :=
  let n := x.toNat
  if n < 40 then (vget s.regs.vec.v n 0, s)
  else if n < 44 then (s.vlatch slot (n - 40), s)
  else if n < 48 then (s.vlatch (slotPeer slot) (n - 44), s)
  else if n < 56 then (wordVec (s.bridge x), s)
  else if n = 57 then popLdq s
  else (0, s)

/-- A W source at the issue of its bundle by the fixed group (R57, R59). -/
def srcW (x : BitVec 6) (s : State) : Vec :=
  let n := x.toNat
  if 40 ≤ n ∧ n < 44 then vget s.regs.vec.la (n - 40) 0
  else if 44 ≤ n ∧ n < 48 then vget s.regs.vec.lb (n - 44) 0
  else wordVec (s.bridge x)

def vpos : VSlot → Pos
  | .va => .VA
  | .vb => .VB

/-! ## Old targets (R84, R106) -/

/-- The old value of an S target: register d, or latch l(d) with ws = 1. -/
def oldS (s : State) (w : BitVec 1) (d : BitVec 6) : Word :=
  if w = 1 then vget s.pipe.latch d.toNat 0 else vget s.pipe.s d.toNat 0

def oldV (s : State) (slot : Pos) (w : BitVec 1) (d : BitVec 6) : Vec :=
  if w = 1 then s.vlatch slot d.toNat else vget s.regs.vec.v d.toNat 0

/-! ## Effective addresses (R129) -/

def State.base (s : State) (j : BitVec 3) : Word := vget s.regs.loop.b j.toNat 0
/-- Stage predicate j (R94). -/
def State.stage (s : State) (j : BitVec 3) : Bool := s.regs.loop.q.getLsbD j.toNat

/-- The address of a base form: the base, the index, and the offset where it is not a post-increment. -/
def eaBase (b x : Word) (p : BitVec 1) (o : BitVec 11) (u : Nat) : Word :=
  b + x + (if p = 1 then 0 else o.signExtend 64 * BitVec.ofNat 64 u)

/-- The post-increment of a base form, applied before the bundle's C syllable acts; steps of one bundle add (R94, R129). -/
def postInc (s : State) (j : BitVec 3) (p : BitVec 1) (o : BitVec 11) (u : Nat) : State :=
  if p = 1 then s.modPipe (fun x => { x with pinc := x.pinc ++ [(j.toNat, o.signExtend 64 * BitVec.ofNat 64 u)] }) else s

/-- The post-increment of a syllable that s' says has issued: it neither holds nor trapped nor halted the core. -/
def incAfter (s : State) (j : BitVec 3) (p : BitVec 1) (o : BitVec 11) (u : Nat) (s' : State) : State :=
  if s'.me.outrider = s.me.outrider && !s'.pipe.waits && !s'.me.halt.halted then postInc s' j p o u else s'

/-- Apply the post-increments of a bundle. -/
def applyInc (s : State) : State :=
  let l := s.pipe.pinc
  (s.modRegs (fun r =>
    { r with loop := { r.loop with b := l.foldl (fun b e => vset b e.1 (vget b e.1 0 + e.2)) r.loop.b } })).modPipe
    (fun p => { p with pinc := [] })

end Sys2Proof.Machine
end

