-- ==== Sys2Proof/Machine/Flags.lean ====
section
/-! DEFINITION. The machine keeps no condition flags (R34, R38): the outcome of a compare is a mask. The conditions and how
an outcome becomes mask bits (R85, R110). -/

namespace Sys2Proof.Machine

/-- All ones or all zeros (R85). -/
def wholeMask (b : Bool) : Mask := if b then BitVec.allOnes 256 else 0

/-- The condition of `cmp` in the S slot (R85). -/
def condS (c : Nat) (a b : Word) : Bool :=
  match c with
  | 0 => a = b
  | 1 => a ≠ b
  | 2 => a.toInt < b.toInt
  | 3 => b.toInt ≤ a.toInt
  | 4 => a.toNat < b.toNat
  | _ => b.toNat ≤ a.toNat

/-- The condition of a vector compare on exact values; only `ne` and `un` hold with a NaN (R39, R110). -/
def condV (c : Nat) (a b : FVal) : Bool :=
  match c with
  | 0 => fEq a b
  | 1 => !(fEq a b)
  | 2 => fLt a b
  | 3 => !(isNaN a) && !(isNaN b) && !(fLt a b)
  | 4 => !(isNaN a) && !(isNaN b) && !(fLt b a)
  | 5 => fLt b a
  | _ => isNaN a || isNaN b

/-- The mask whose byte bits are all ones for every element whose outcome is true: n-bit elements (R110). -/
def elemMask (n : Nat) (l : List Bool) : Mask :=
  BitVec.ofNat 256 (l.foldr (fun b acc => (if b then 2 ^ (n / 8) - 1 else 0) + 2 ^ (n / 8) * acc) 0)

/-- Element i's bit of a mask: the bit of its lowest byte (R113). -/
def elemBit (n : Nat) (m : Mask) (i : Nat) : Bool := m.getLsbD (i * n / 8)

end Sys2Proof.Machine
end

