-- ==== Sys2Proof/Machine/FoldState.lean ====
section
/-! DEFINITION. The fold array's geometry, its clear and its guard (R156, R157, R175, R181, R183, R400). -/

namespace Sys2Proof.Machine

/-- s = wa + wb + g (R157). -/
def FoldArray.stride (a : FoldArray) : Nat := blockW a.ta.toNat + blockW a.tb.toNat + a.g
def FoldArray.rows (a : FoldArray) : Nat := 2048 / a.stride
/-- The sub-lanes of a unit's port. -/
def FoldArray.lanes (a : FoldArray) : Nat := foldE (blockW a.tb.toNat)
/-- The columns of the step family; before a step has fixed it, those of a family the spec leaves open (R157; log entry 11). -/
def FoldArray.cols (a : FoldArray) : Nat := if a.fam.getD (Config.openFamily a.nu a.lanes) then a.nu else a.nu * a.lanes

/-- What `clr` and `drainz` clear; a new family and format may then be set (R161, R175). -/
def FoldArray.clear (a : FoldArray) : FoldArray :=
  { a with slots := [], kr := [], kc := [], ovf := none, steps := 0, busy := false, fam := none }

/-- The array's record of an overflow as FOVF (R183). -/
def foldOvf (a : FoldArray) : Word :=
  match a.ovf with
  | none => 0
  | some (st, r, c) => BitVec.ofNat 64 (1 + 2 * (st % 1024) + 2 ^ 11 * (c % 8192) + 2 ^ 24 * (r % 256))

/-- The core numbered c holds its quad's array, granted or held. -/
def holdsArray (c : Core) : Bool := c.fold.lease = .granted || c.fold.lease = .held

def State.modArray (s : State) (q : Nat) (f : FoldArray → FoldArray) : State :=
  s.modQuad q (fun x => { x with array := f x.array })

/-- FCTL.clr and FCTL.setg act on the array only for the core that holds the lease (R181, R183, R400). -/
def fctlClear (n : Nat) (s : State) : State :=
  if holdsArray (s.core n) then s.modArray (n / 4) (fun a => { a.clear with flight := [] }) else s

def fctlGuard (n g : Nat) (s : State) : State :=
  if holdsArray (s.core n) && 4 ≤ g && g ≤ 16 then s.modArray (n / 4) (fun a => { a with g := g }) else s

end Sys2Proof.Machine
end

