-- ==== Sys2Proof/Machine/Scalar.lean ====
section
/-! DEFINITION. The S slot's arithmetic (R81 to R87). -/

namespace Sys2Proof.Machine

open Host (Outcome)

/-- in(A, T) of R82. -/
def inT (x : Nat) (t : Nat) : Int := if tySigned t then sextN x (tyWidth t) else (x % 2 ^ tyWidth t : Nat)

/-- out(y, T) of R82, as a 64-bit value. -/
def outT (y : Int) (t : Nat) : Word :=
  BitVec.ofNat 64 (if tySigned t then wrapN (sextN (wrapN y (tyWidth t)) (tyWidth t)) 64 else wrapN y (tyWidth t))

/-- An S syllable of two sources whose result has latency lat. -/
def aluS (lat : Nat) (w : BitVec 1) (d a b : BitVec 6) (f : Word → Word → Word) (s : State) : State :=
  withPops (isPop a + isPop b) .S s (fun s =>
    let (x, s1) := srcS a s
    let (y, s2) := srcS b s1
    s2.dest .S lat w d (wordVec (f x y)))

/-- An S syllable of one source. -/
def aluS1 (lat : Nat) (w : BitVec 1) (d a : BitVec 6) (f : Word → Word) (s : State) : State :=
  withPops (isPop a) .S s (fun s =>
    let (x, s1) := srcS a s
    s1.dest .S lat w d (wordVec (f x)))

/-! Shifts and bit fields (R84). -/

def shl64 (a : Word) (k : Nat) : Word := if 64 ≤ k then 0 else a <<< k
def shr64 (a : Word) (k : Nat) : Word := if 64 ≤ k then 0 else a >>> k
def sar64 (a : Word) (k : Nat) : Word := a.sshiftRight (if 64 ≤ k then 64 else k)

/-- bits(a * 2^64 + b, k + 63, k). -/
def fsh64 (a b : Word) (k : Nat) : Word := BitVec.ofNat 64 ((a.toNat * 2 ^ 64 + b.toNat) / 2 ^ k)

/-- The length of a field cut at bit 64 (R84). -/
def fieldLen (p l : Nat) : Nat := if 64 < p + l then 64 - p else l

def bfx64 (a : Word) (p l : Nat) (sx : Bool) : Word :=
  let n := fieldLen p l
  let y := bitsN a.toNat p n
  BitVec.ofNat 64 (if sx then wrapN (sextN y n) 64 else y)

def bfi64 (o a : Word) (p l : Nat) (sx : Bool) : Word :=
  let n := fieldLen p l
  let y := o.toNat - bitsN o.toNat p n * 2 ^ p + bitsN a.toNat 0 n * 2 ^ p
  BitVec.ofNat 64 (if sx then wrapN (sextN y (p + n)) 64 else y)

/-- The position and length a bit-field operand gives (R84). -/
def fieldPos (b : Word) : Nat := bitsN b.toNat 0 6
def fieldLenOf (b : Word) : Nat := bitsN b.toNat 8 6 + 1

/-! Counting and reversing. -/

/-- The n low bits of x, least significant first. -/
def bitList : Nat → Nat → List Bool
  | 0, _ => []
  | n + 1, x => (x % 2 = 1) :: bitList n (x / 2)

/-- A number from its bits, least significant first. -/
def ofBits : List Bool → Nat
  | [] => 0
  | b :: r => (if b then 1 else 0) + 2 * ofBits r

def popCount (n x : Nat) : Nat := ((bitList n x).filter id).length
def leadZeros (n x : Nat) : Nat := ((bitList n x).reverse.takeWhile (fun b => !b)).length
def trailZeros (n x : Nat) : Nat := ((bitList n x).takeWhile (fun b => !b)).length
def bitReverse (n x : Nat) : Nat := ofBits (bitList n x).reverse
def byteList : Nat → Nat → List Byte
  | 0, _ => []
  | n + 1, x => BitVec.ofNat 8 x :: byteList n (x / 256)
def byteReverse (n x : Nat) : Nat := leNat (byteList (n / 8) x).reverse

/-- A signed T: min(|in(A)|, 2^(N-1) - 1); natural T: in(A) (R83). -/
def absT (x : Int) (t : Nat) : Int :=
  if tySigned t then minI x.natAbs (hiT true (tyWidth t)) else x

def execSNop (s : State) : Outcome State Fault Refusal := .next s
def execSAdd (w : BitVec 1) (d a b : BitVec 6) (s : State) : Outcome State Fault Refusal :=
  .next (aluS 1 w d a b (fun x y => x + y) s)
def execSSub (w : BitVec 1) (d a b : BitVec 6) (s : State) : Outcome State Fault Refusal :=
  .next (aluS 1 w d a b (fun x y => x - y) s)
def execSAddi (w : BitVec 1) (d : BitVec 6) (i : BitVec 12) (a : BitVec 6) (s : State) : Outcome State Fault Refusal :=
  .next (aluS1 1 w d a (fun x => x + imm64 i) s)
def execSMul (w : BitVec 1) (d a b : BitVec 6) (s : State) : Outcome State Fault Refusal :=
  .next (aluS 4 w d a b (fun x y => x * y) s)
def execSMulh (w : BitVec 1) (d a b : BitVec 6) (t : BitVec 5) (s : State) : Outcome State Fault Refusal :=
  .next (aluS 4 w d a b (fun x y =>
    outT (inT x.toNat t.toNat * inT y.toNat t.toNat / (2 ^ tyWidth t.toNat : Nat)) t.toNat) s)
def execSMin (w : BitVec 1) (d a b : BitVec 6) (t : BitVec 5) (s : State) : Outcome State Fault Refusal :=
  .next (aluS 1 w d a b (fun x y => outT (minI (inT x.toNat t.toNat) (inT y.toNat t.toNat)) t.toNat) s)
def execSMax (w : BitVec 1) (d a b : BitVec 6) (t : BitVec 5) (s : State) : Outcome State Fault Refusal :=
  .next (aluS 1 w d a b (fun x y =>
    outT (if inT x.toNat t.toNat ≤ inT y.toNat t.toNat then inT y.toNat t.toNat else inT x.toNat t.toNat) t.toNat) s)
def execSAnd (w : BitVec 1) (d a b : BitVec 6) (s : State) : Outcome State Fault Refusal :=
  .next (aluS 1 w d a b (fun x y => x &&& y) s)
def execSOr (w : BitVec 1) (d a b : BitVec 6) (s : State) : Outcome State Fault Refusal :=
  .next (aluS 1 w d a b (fun x y => x ||| y) s)
def execSXor (w : BitVec 1) (d a b : BitVec 6) (s : State) : Outcome State Fault Refusal :=
  .next (aluS 1 w d a b (fun x y => x ^^^ y) s)
def execSAndn (w : BitVec 1) (d a b : BitVec 6) (s : State) : Outcome State Fault Refusal :=
  .next (aluS 1 w d a b (fun x y => x &&& ~~~y) s)
def execSAndi (w : BitVec 1) (d : BitVec 6) (i : BitVec 12) (a : BitVec 6) (s : State) : Outcome State Fault Refusal :=
  .next (aluS1 1 w d a (fun x => x &&& imm64 i) s)
def execSOri (w : BitVec 1) (d : BitVec 6) (i : BitVec 12) (a : BitVec 6) (s : State) : Outcome State Fault Refusal :=
  .next (aluS1 1 w d a (fun x => x ||| imm64 i) s)
def execSXori (w : BitVec 1) (d : BitVec 6) (i : BitVec 12) (a : BitVec 6) (s : State) : Outcome State Fault Refusal :=
  .next (aluS1 1 w d a (fun x => x ^^^ imm64 i) s)
def execSShl (w : BitVec 1) (d a b : BitVec 6) (s : State) : Outcome State Fault Refusal :=
  .next (aluS 1 w d a b (fun x y => shl64 x y.toNat) s)
def execSShr (w : BitVec 1) (d a b : BitVec 6) (s : State) : Outcome State Fault Refusal :=
  .next (aluS 1 w d a b (fun x y => shr64 x y.toNat) s)
def execSSar (w : BitVec 1) (d a b : BitVec 6) (s : State) : Outcome State Fault Refusal :=
  .next (aluS 1 w d a b (fun x y => sar64 x y.toNat) s)
def execSShli (w : BitVec 1) (d k a : BitVec 6) (s : State) : Outcome State Fault Refusal :=
  .next (aluS1 1 w d a (fun x => shl64 x k.toNat) s)
def execSShri (w : BitVec 1) (d k a : BitVec 6) (s : State) : Outcome State Fault Refusal :=
  .next (aluS1 1 w d a (fun x => shr64 x k.toNat) s)
def execSSari (w : BitVec 1) (d k a : BitVec 6) (s : State) : Outcome State Fault Refusal :=
  .next (aluS1 1 w d a (fun x => sar64 x k.toNat) s)
def execSFsh (w : BitVec 1) (d a b k : BitVec 6) (s : State) : Outcome State Fault Refusal :=
  .next (aluS 1 w d a b (fun x y => fsh64 x y k.toNat) s)
def execSFshi (w : BitVec 1) (d k a : BitVec 6) (s : State) : Outcome State Fault Refusal :=
  .next (aluS1 1 w d a (fun x => fsh64 x x k.toNat) s)
def execSBfx (w : BitVec 1) (d a b : BitVec 6) (x : BitVec 1) (s : State) : Outcome State Fault Refusal :=
  .next (aluS 1 w d a b (fun u v => bfx64 u (fieldPos v) (fieldLenOf v) (x = 1)) s)
def execSBfxi (w : BitVec 1) (d l p a : BitVec 6) (s : State) : Outcome State Fault Refusal :=
  .next (aluS1 1 w d a (fun u => bfx64 u p.toNat (l.toNat + 1) false) s)
def execSBfi (w : BitVec 1) (d a b : BitVec 6) (x : BitVec 1) (s : State) : Outcome State Fault Refusal :=
  .next (aluS 1 w d a b (fun u v => bfi64 (oldS s w d) u (fieldPos v) (fieldLenOf v) (x = 1)) s)
def execSBfii (w : BitVec 1) (d l p a : BitVec 6) (s : State) : Outcome State Fault Refusal :=
  .next (aluS1 1 w d a (fun u => bfi64 (oldS s w d) u p.toNat (l.toNat + 1) false) s)
def execSPcnt (w : BitVec 1) (d a : BitVec 6) (t : BitVec 5) (s : State) : Outcome State Fault Refusal :=
  .next (aluS1 2 w d a (fun x => BitVec.ofNat 64 (popCount (tyWidth t.toNat) x.toNat)) s)
def execSClz (w : BitVec 1) (d a : BitVec 6) (t : BitVec 5) (s : State) : Outcome State Fault Refusal :=
  .next (aluS1 2 w d a (fun x => BitVec.ofNat 64 (leadZeros (tyWidth t.toNat) x.toNat)) s)
def execSCtz (w : BitVec 1) (d a : BitVec 6) (t : BitVec 5) (s : State) : Outcome State Fault Refusal :=
  .next (aluS1 2 w d a (fun x => BitVec.ofNat 64 (trailZeros (tyWidth t.toNat) x.toNat)) s)
def execSBrev (w : BitVec 1) (d a : BitVec 6) (t : BitVec 5) (s : State) : Outcome State Fault Refusal :=
  .next (aluS1 2 w d a (fun x => outT (byteReverse (tyWidth t.toNat) x.toNat) t.toNat) s)
def execSBitrev (w : BitVec 1) (d a : BitVec 6) (t : BitVec 5) (s : State) : Outcome State Fault Refusal :=
  .next (aluS1 2 w d a (fun x => outT (bitReverse (tyWidth t.toNat) x.toNat) t.toNat) s)
def execSSel (w : BitVec 1) (d a b : BitVec 6) (m : BitVec 4) (s : State) : Outcome State Fault Refusal :=
  .next (aluS 1 w d a b (fun x y => if (s.mask .S m).getLsbD 0 then x else y) s)
def execSCmp (m : BitVec 4) (a b : BitVec 6) (c : BitVec 3) (s : State) : Outcome State Fault Refusal :=
  .next (withPops (isPop a + isPop b) .S s (fun s =>
    let (x, s1) := srcS a s
    let (y, s2) := srcS b s1
    s2.result .S 1 (.mask m.toNat) ((wholeMask (condS c.toNat x y)).setWidth 2048)))
def execSCmpi (c : BitVec 2) (m : BitVec 4) (i : BitVec 12) (a : BitVec 6) (s : State) : Outcome State Fault Refusal :=
  .next (withPops (isPop a) .S s (fun s =>
    let (x, s1) := srcS a s
    s1.result .S 1 (.mask m.toNat) ((wholeMask (condS c.toNat x (imm64 i))).setWidth 2048)))
def execSLi (w : BitVec 1) (d : BitVec 6) (i : BitVec 18) (s : State) : Outcome State Fault Refusal :=
  .next (s.dest .S 1 w d (wordVec (imm64 i)))
def execSLih (w : BitVec 1) (d : BitVec 6) (i : BitVec 18) (s : State) : Outcome State Fault Refusal :=
  .next (s.dest .S 1 w d (wordVec (oldS s w d <<< 18 ||| i.setWidth 64)))
def execSLea (w : BitVec 1) (d a b : BitVec 6) (k : BitVec 3) (s : State) : Outcome State Fault Refusal :=
  .next (aluS 1 w d a b (fun x y => x + y <<< k.toNat) s)
def execSLeai (w : BitVec 1) (d : BitVec 6) (i : BitVec 12) (a : BitVec 6) (s : State) : Outcome State Fault Refusal :=
  .next (aluS1 1 w d a (fun x => x + imm64 i <<< 8) s)
def execSAbs (w : BitVec 1) (d a : BitVec 6) (t : BitVec 5) (s : State) : Outcome State Fault Refusal :=
  .next (aluS1 1 w d a (fun x => outT (absT (inT x.toNat t.toNat) t.toNat) t.toNat) s)
def execSAdds (w : BitVec 1) (d a b : BitVec 6) (t : BitVec 5) (s : State) : Outcome State Fault Refusal :=
  .next (aluS 1 w d a b (fun x y =>
    outT (clampI (inT x.toNat t.toNat + inT y.toNat t.toNat) (loT (tySigned t.toNat) (tyWidth t.toNat))
      (hiT (tySigned t.toNat) (tyWidth t.toNat))) t.toNat) s)
def execSSubs (w : BitVec 1) (d a b : BitVec 6) (t : BitVec 5) (s : State) : Outcome State Fault Refusal :=
  .next (aluS 1 w d a b (fun x y =>
    outT (clampI (inT x.toNat t.toNat - inT y.toNat t.toNat) (loT (tySigned t.toNat) (tyWidth t.toNat))
      (hiT (tySigned t.toNat) (tyWidth t.toNat))) t.toNat) s)
def execSCptr (w : BitVec 1) (d : BitVec 6) (i : BitVec 12) (a : BitVec 6) (s : State) : Outcome State Fault Refusal :=
  .next (aluS1 1 w d a (fun x => BitVec.ofNat 64 (bitsN x.toNat 12 48 * 2 ^ 12 + i.toNat)) s)
def execSExt (w : BitVec 1) (d a : BitVec 6) (t : BitVec 5) (s : State) : Outcome State Fault Refusal :=
  .next (aluS1 1 w d a (fun x => outT (inT x.toNat t.toNat) t.toNat) s)

end Sys2Proof.Machine
end

