-- ==== Sys2Proof/Machine/Sys.lean ====
section
/-! DEFINITION. The system registers (R8, R67, R88, R104, R183, R194, R247, R261, R266, R274, R294, R325, R328, R340, R386)
and the S instructions that read and write them. -/

namespace Sys2Proof.Machine

open Host (Outcome)

def tokenWord (r : CoreRegs) (st : TokState) : Word :=
  BitVec.ofNat 64 (ofBits ((List.range 64).map (fun t => (vget r.tok t Token.reset).st = st)))

def leaseCode (l : LeaseSt) : Nat := match l with | .none => 0 | .waiting => 1 | .granted => 2 | .held => 3

def b2n (b : Bool) : Nat := if b then 1 else 0

/-- FSTATE (R183): in states none and waiting every field but lease reads as 0. -/
def fstate (c : Core) (a : FoldArray) : Word :=
  BitVec.ofNat 64 (leaseCode c.fold.lease +
    (if holdsArray c then
      4 * b2n a.wide + 8 * a.remaining + 2 ^ 12 * b2n a.busy + 2 ^ 13 * a.ta.toNat + 2 ^ 18 * a.tb.toNat + 2 ^ 23 * a.g +
      2 ^ 28 * b2n a.csum + 2 ^ 29 * a.nu + 2 ^ 39 * (a.rows % 256) + 2 ^ 47 * (a.cols % 8192)
    else 0))

/-- REGTOP (R104). -/
def regtop (r : Region) : Word :=
  BitVec.ofNat 64 ((match r.ids with | i :: _ => i.toNat | [] => 0) + 2 ^ 16 * r.ids.length + 2 ^ 21 * b2n r.isOver +
    2 ^ 22 * b2n r.isUnder + 2 ^ 23 * b2n r.isMism)

/-- Tasks of a node (R331). -/
def Node.tasks (n : Node) : Nat := n.gx * n.gy * n.gz
/-- A gang has no more tasks than cores (R332). -/
def Node.gang (n : Node) : Bool := n.tasks ≤ n.cores.length

/-- GSTAT and GLEFT (R340); ncore 0 stands for 2,048. -/
def gstat (n : Node) : Word :=
  BitVec.ofNat 64 (n.cores.length % 2048 + (if n.gang then 2 ^ 12 * (n.tasks - n.ended) + 2 ^ 24 else 0))
def gleft (n : Node) : Word := BitVec.ofNat 64 (n.tasks - n.next)

def State.node (s : State) (h : Nat) : Node := fget Node.reset s.nodes h

/-- A trap register (R266). -/
def readTrap (c : Core) (n : Nat) : Word :=
  let t := c.regs.trap
  if n = 0x100 then t.tcause.setWidth 64
  else if n = 0x101 then t.taddr
  else if n = 0x102 then t.tbundle
  else if n = 0x103 then t.tslot.setWidth 64
  else if n = 0x104 then t.tstatus.setWidth 64
  else if n = 0x105 then t.ttarget
  else if 0x140 ≤ n ∧ n < 0x160 then BitVec.ofNat 64 (field t.tdbuf (64 * (n - 0x140)) 64)
  else if 0x180 ≤ n ∧ n < 0x1A8 then vget c.regs.task.s (n - 0x180) 0
  else 0

/-- PARK.count: the ticks of 1 µs of the current park, or of the last one; it saturates (R247). -/
def parkLen (s : State) (l : Limits) : Nat :=
  match l.parkFrom with
  | some f => let t := (s.now - f) / 1000000; if t < 2 ^ 20 then t else 2 ^ 20 - 1
  | none => l.parkCount.toNat

/-- A system register of core n, as a reader on its pipe p sees it. -/
def sysRead (s : State) (n : Nat) (p : Pipe) (i : Nat) : Word :=
  let c := s.core n
  let q := s.quad (n / 4)
  let r := c.regs
  let a := q.array
  if i = 0x001 then BitVec.ofNat 64 (n % 2048 + 2 ^ 11 * s.podmod.toNat)
  else if i = 0x010 then q.cycle
  else if i = 0x011 then BitVec.ofNat 64 (q.swRatio.toNat + 2 ^ 16 * q.swCeil.toNat + 2 ^ 32 * q.swTotal.toNat)
  else if i = 0x020 then r.loop.loopc.setWidth 64
  else if i = 0x021 then r.loop.loope.setWidth 64
  else if i = 0x022 then r.loop.loops
  else if i = 0x030 then c.pinbase.setWidth 64
  else if i = 0x031 then r.id.tile.setWidth 64
  else if i = 0x032 then r.id.tgrid.setWidth 64
  else if i = 0x033 then s.flash.defsig.setWidth 64
  else if i = 0x034 then BitVec.ofNat 64 r.id.node
  else if i = 0x035 then gstat (s.node r.id.node)
  else if i = 0x036 then gleft (s.node r.id.node)
  else if 0x100 ≤ i ∧ i < 0x200 then readTrap c i
  else if i = 0x200 then
    BitVec.ofNat 64 (0x51 + 2 ^ 8 * p.span.otag.toNat + 2 ^ 16 * b2n p.span.rw + 2 ^ 20 * r.id.why.toNat)
  else if i = 0x300 then BitVec.ofNat 64 (r.lim.wdLimit.toNat + 2 ^ 48 * b2n r.lim.kok + 2 ^ 49 * b2n r.lim.fired)
  else if i = 0x301 then
    BitVec.ofNat 64 (r.lim.parkLimit.toNat + 2 ^ 20 * r.lim.parkWd.toNat + 2 ^ 40 * (parkLen s r.lim))
  else if i = 0x302 then r.lim.waitlim.setWidth 64
  else if i = 0x303 then r.lim.wdcnt.setWidth 64
  else if i = 0x400 then fstate c a
  else if i = 0x401 then (if holdsArray c then foldOvf a else 0)
  else if i = 0x402 then
    BitVec.ofNat 64 (c.fold.corr.toNat + 2 ^ 32 * c.fold.lane.toNat + 2 ^ 48 * c.fold.fail.toNat)
  else if i = 0x403 then BitVec.ofNat 64 (2 ^ 9 * b2n c.fold.inj)
  else if i = 0x410 then tokenWord r .ready
  else if i = 0x411 then tokenWord r .failed
  else if i = 0x412 then BitVec.ofNat 64 (c.refuse.toNat + 2 ^ 16 * c.refCode.toNat)
  else if i = 0x500 then regtop r.region
  else if 0x510 ≤ i ∧ i < 0x518 then
    (if i % 2 = 0 then (vget c.watch.addr ((i - 0x510) / 2) 0).setWidth 64
     else (vget c.watch.ctl ((i - 0x510) / 2) 0).setWidth 64)
  else if i = 0x518 then c.watch.stat.setWidth 64
  else 0

/-- Write a trap register of core n (R266); MBREPLY is not one of these. -/
def writeTrap (n i : Nat) (v : Word) (s : State) : State :=
  let set := fun (f : TrapRegs → TrapRegs) => s.modCore n (fun c => c.modRegs (fun r => { r with trap := f r.trap }))
  if i = 0x100 then set (fun t => { t with tcause := v.setWidth 8 })
  else if i = 0x101 then set (fun t => { t with taddr := v })
  else if i = 0x102 then set (fun t => { t with tbundle := v })
  else if i = 0x103 then set (fun t => { t with tslot := v.setWidth 3 })
  else if i = 0x104 then set (fun t => { t with tstatus := v.setWidth 7 })
  else if i = 0x105 then set (fun t => { t with ttarget := v })
  else if 0x140 ≤ i ∧ i < 0x160 then
    set (fun t =>
      { t with tdbuf := t.tdbuf - BitVec.ofNat 2048 (field t.tdbuf (64 * (i - 0x140)) 64 * 2 ^ (64 * (i - 0x140)))
          + BitVec.ofNat 2048 (v.toNat * 2 ^ (64 * (i - 0x140))) })
  else if 0x180 ≤ i ∧ i < 0x1A8 then
    s.modCore n (fun c => c.modRegs (fun r => { r with task := { r.task with s := vset r.task.s (i - 0x180) v } }))
  else s

/-- A write of FCTL of core n: inj takes bit 9, then clr and setg act (R183, R297, R400). -/
def fctlWrite (n : Nat) (v : Word) (s : State) : State :=
  let s1 := s.modCore n (fun c => { c with fold := { c.fold with inj := v.getLsbD 9 } })
  let s2 := if v.getLsbD 0 then fctlClear n s1 else s1
  if v.getLsbD 1 then fctlGuard n (field v 4 5) s2 else s2

/-- A write of a system register of core n: the writable fields take the value, the others stay. -/
def sysWrite (n i : Nat) (v : Word) (s : State) : State :=
  let regs := fun (f : CoreRegs → CoreRegs) => s.modCore n (fun c => c.modRegs f)
  let watch := fun (f : Watch → Watch) => s.modCore n (fun c => { c with watch := f c.watch })
  if i = 0x020 then regs (fun r => { r with loop := { r.loop with loopc := v.setWidth 32 } })
  else if i = 0x021 then regs (fun r => { r with loop := { r.loop with loope := v.setWidth 3 } })
  else if i = 0x022 then regs (fun r => { r with loop := { r.loop with loops := v } })
  else if 0x100 ≤ i ∧ i < 0x200 then writeTrap n i v s
  else if i = 0x300 then
    regs (fun r => { r with lim := { r.lim with wdLimit := v.setWidth 48, kok := v.getLsbD 48, fired := false } })
  else if i = 0x301 then
    regs (fun r =>
      { r with lim := { r.lim with parkLimit := v.setWidth 20, parkWd := BitVec.ofNat 20 (field v 20 20) } })
  else if i = 0x302 then regs (fun r => { r with lim := { r.lim with waitlim := v.setWidth 32 } })
  else if i = 0x403 then fctlWrite n v s
  else if i = 0x500 then
    regs (fun r => { r with region := { r.region with
      ids := (r.region.ids ++ List.replicate 16 0).take (field v 16 5 % 17) |>.modifyHead (fun _ => v.setWidth 16)
      isOver := v.getLsbD 21, isUnder := v.getLsbD 22, isMism := v.getLsbD 23 } })
  else if 0x510 ≤ i ∧ i < 0x518 then
    (if i % 2 = 0 then watch (fun w => { w with addr := vset w.addr ((i - 0x510) / 2) (v.setWidth 60) })
     else watch (fun w => { w with ctl := vset w.ctl ((i - 0x510) / 2) (v.setWidth 10) }))
  else if i = 0x518 then watch (fun w => { w with stat := v.setWidth 4 })
  else s

/-- The registers a task may read and write (R67). -/
def taskReads (i : Nat) : Bool := !(0x100 ≤ i && i < 0x200)
def taskWrites (i : Nat) : Bool := i = 0x302

/-- A register access that only the outrider may make traps PRIVILEGE in a task (R67). -/
def sysAllowed (ok : Bool) (s : State) (k : State → State) : State :=
  if ok || s.me.outrider then k s else fixedTrap s cPRIVILEGE 0 .S

def execSSrd (w : BitVec 1) (d : BitVec 6) (i : BitVec 12) (s : State) : Outcome State Fault Refusal :=
  .next (sysAllowed (taskReads i.toNat) s (fun s =>
    s.dest .S 2 w d (wordVec (sysRead s s.cur.toNat s.pipe i.toNat))))

/-- The write lands at the end of the issue cycle (R88). -/
def execSSwr (i : BitVec 12) (a : BitVec 6) (s : State) : Outcome State Fault Refusal :=
  .next (sysAllowed (taskWrites i.toNat) s (fun s =>
    withPops (isPop a) .S s (fun s =>
      let (x, s1) := srcS a s
      s1.result .S 1 (.sys i.toNat) (wordVec x))))

end Sys2Proof.Machine
end

