-- ==== Sys2Proof/Machine/Xlat.lean ====
section
/-! DEFINITION. Translation (R239 to R244), the physical map (R22, R24, R184, R367) and the access tables (R375). -/

namespace Sys2Proof.Machine

/-! ## Memory of other modules -/

/-- The pod window that holds a physical address: module and address there (R367). -/
def podOf (s : State) (pa : Nat) : Option (Nat × Nat) :=
  match s.podwin.find? (fun w => w.2.en && w.2.lbase ≤ pa && pa < w.2.lbase + 2 ^ (w.2.sz + 30)) with
  | some (_, w) => some (w.mod, w.rbase + (pa - w.lbase))
  | none => none

def State.link (s : State) (p : Nat) : Link := fget Link.reset s.links p
def State.modLink (s : State) (p : Nat) (f : Link → Link) : State := { s with links := fset s.links p (f (s.link p)) }

/-- A port carries traffic only in these states (R362). -/
def LinkSt.usable (x : LinkSt) : Bool := x = .up || x = .degraded

/-- The usable port of a set that a hash picks (R365). -/
def pickPort (s : State) (dir : BitVec 36) (h : Nat) : Option Nat :=
  let l := (List.range 36).filter (fun p => dir.getLsbD p && (s.link p).st.usable)
  l[h % l.length]?

/-- The port for a flit to module m; hash gives h for the module a port is sought toward (R365). -/
def choosePort (s : State) (m hop : Nat) (hash : Nat → Nat) : Option Nat :=
  let r := fget Route.reset s.route m
  match pickPort s r.dir (hash m) with
  | some p => some p
  | none => if r.vv && hop = 0 then pickPort s (fget Route.reset s.route r.via).dir (hash r.via) else none

/-- h of a flit that names an address, and of a barrier flit. -/
def addrHash (a m : Nat) : Nat := bitsN a 7 14 ^^^ m
def nameHash (name _ : Nat) : Nat := bitsN name 0 8

/-- The port of an access to a pod window: none inside where no port is usable, none for other memory. -/
def podPort (s : State) (pa : Nat) : Option (Option Nat) :=
  (podOf s pa).map (fun w => choosePort s w.1 0 (addrHash w.2))

/-- No port reaches the module of an access: its flit is lost (R365, R370). -/
def noRoute (s : State) (pa : Nat) : Bool := podPort s pa = some none

/-! ## Table walks -/

/-- The pseudo-channel of an HBM address: stack * 32 + PA[25:21] (R21, R377). -/
def pcOf (pa : Nat) : Nat := bitsN pa 16 5 * 32 + bitsN pa 21 5

/-- A poisoned line of memory, or one whose pseudo-channel is offline (R372, R379). -/
def poisoned (s : State) (pa : Nat) : Bool :=
  s.poison.contains (pa / 128) || (pa < hbmEnd && s.flash.offline.contains (pcOf pa))

/-- A pseudo-channel that pauses for a lane swap: accesses wait (R378). -/
def isPaused (s : State) (pa : Nat) : Bool := pa < hbmEnd && s.flash.paused.contains (pcOf pa)

def levelLo (l : Nat) : Nat := if l = 1 then 48 else 57 - 9 * l
def tableIndex (va l : Nat) : Nat := bitsN va (levelLo l) (if l = 1 then 12 else 9)

/-- HBM or the second tier. -/
def inMemory (pa : Nat) : Bool := pa < hbmEnd || (tierBase ≤ pa && pa < tierEnd)

def entryLeaf (e : Nat) : Bool := bitsN e 1 1 = 1
def entryNext (e : Nat) : Nat := bitsN e 12 40 * 4096

/-- A valid entry at level l that is malformed (R241). -/
def malformed (e va l : Nat) : Bool :=
  bitsN e 52 12 ≠ 0 ||
  (if entryLeaf e then
    l ≤ 2 || bitsN e 7 5 ≠ 0 || (l = 3 && bitsN e 12 18 ≠ 0) || (l = 4 && bitsN e 12 9 ≠ 0) ||
    (bitsN e 6 1 = 1 && (l ≠ 5 || bitsN e 12 4 ≠ bitsN va 12 4))
  else l = 5 || bitsN e 2 10 ≠ 0 || !inMemory (entryNext e))

/-- How a walk ends. -/
inductive WalkEnd where
  | leaf | invalid | malformed | poisoned
  deriving DecidableEq, Repr

/-- A walk: its end, the last entry's level, address and bits, and the table entries passed: level, prefix, next table. -/
structure WalkOut where
  fin  : WalkEnd
  lvl  : Nat
  ent  : Nat
  bits : Nat
  tabs : List (Nat × Nat × Nat)
  deriving DecidableEq, Repr

/-- The table entry at a physical address; one that lies on another module of the pod is a free value here (log entry 140). -/
def tableEntry (s : State) (a : Nat) : Nat :=
  if (podOf s a).isSome then field (Config.freeVec (s.fresh + 2 ^ 55 + a)) 0 64 else Memory.read s.mem a 8

/-- Walk from the table t of level l. -/
def walkFrom (s : State) (va : Nat) : Nat → Nat → Nat → WalkOut
  | 0, l, t => ⟨.malformed, l, t, 0, []⟩
  | f + 1, l, t =>
    let a := t + 8 * tableIndex va l
    let e := tableEntry s a
    if poisoned s a || noRoute s a then ⟨.poisoned, l, a, 0, []⟩
    else if e % 2 = 0 then ⟨.invalid, l, a, e, []⟩
    else if malformed e va l then ⟨.malformed, l, a, e, []⟩
    else if entryLeaf e then ⟨.leaf, l, a, e, []⟩
    else
      let r := walkFrom s va f (l + 1) (entryNext e)
      { r with tabs := (l, va / 2 ^ levelLo l, entryNext e) :: r.tabs }

/-- The root table of a context. -/
def rootOf (s : State) (tag : Nat) : Nat := (s.ctx tag).root

def walkRoot (s : State) (tag va : Nat) : WalkOut := walkFrom s va 5 1 (rootOf s tag)

/-- The deepest walk-cache hit of a quad: the level to read next and its table (R242). -/
def walkStart (q : Quad) (tag va root : Nat) : Nat × Nat :=
  q.walks.foldl (fun acc e =>
    if e.1 = tag && e.2.2.1 = va / 2 ^ levelLo e.2.1 && acc.1 < e.2.1 + 1 then (e.2.1 + 1, e.2.2.2) else acc) (1, root)

def walkCached (s : State) (q tag va : Nat) : WalkOut :=
  let (l, t) := walkStart (s.quad q) tag va (rootOf s tag)
  walkFrom s va (6 - l) l t

/-- Address bits below a leaf's frame (R239, R244). -/
def leafBits (w : WalkOut) : Nat :=
  if w.lvl = 3 then 30 else if w.lvl = 4 then 21 else if bitsN w.bits 6 1 = 1 then 16 else 12

def leafOf (tag va : Nat) (w : WalkOut) : Leaf :=
  let n := leafBits w
  ⟨tag, va / 2 ^ n * 2 ^ (n - 12), n - 12, BitVec.ofNat 64 w.bits⟩

def Leaf.hits (l : Leaf) (tag va : Nat) : Bool := l.tag = tag && l.vpn ≤ va / 4096 && va / 4096 < l.vpn + 2 ^ l.size

/-- The physical address of va under a leaf. -/
def Leaf.pa (l : Leaf) (va : Nat) : Nat :=
  let n := l.size + 12
  bitsN l.entry.toNat n (52 - n) * 2 ^ n + va % 2 ^ n

/-- The permission of an access kind: 0 read, 1 write, 2 rmw, 3 fetch, 4 a read of `l.ldr` that never parks (R242, R248). -/
def kindOk (e : BitVec 64) (kind : Nat) : Bool :=
  match kind with
  | 0 => e.getLsbD 2
  | 1 => e.getLsbD 3
  | 2 => e.getLsbD 2 && e.getLsbD 3
  | 4 => e.getLsbD 2
  | _ => e.getLsbD 4

def isRes (e : Nat) : Bool := bitsN e 5 1 = 1

/-- What a finished walk gives an access: none where it met a poisoned entry (R242, R246). -/
def walkRes (tag va kind : Nat) (w : WalkOut) : Option WalkRes :=
  match w.fin with
  | .poisoned => none
  | .malformed => some (.trap cXLAT_RSVD)
  | .invalid => some (if bitsN w.bits 1 1 = 1 then .trap cNOT_MAPPED else .park w.ent)
  | .leaf =>
    let l := leafOf tag va w
    some (if !kindOk l.entry kind then .trap cXLAT_PERM else if !isRes w.bits then .park w.ent else .leaf l)

/-- Add to a cache of cap entries; a full cache gives up the entry the free choice names (R243; log entry 9). -/
def cacheIn {α : Type} (cap k : Nat) (x : α) (l : List α) : List α :=
  if l.length < cap then x :: l else x :: l.eraseIdx (k % l.length)

def victim (s : State) : Nat := Config.victim s.fresh

/-- Enter a walked leaf and the table entries it passed in the caches of core n (R242, R243). -/
def enterLeaf (n : Nat) (fetch : Bool) (l : Leaf) (s : State) : State :=
  let k := victim s
  let s1 := s.modQuad (n / 4) (fun q => { q with l2tlb := cacheIn 4096 k l (q.l2tlb.filter (fun x => x ≠ l)) })
  let s2 := s1.modCore n (fun c =>
    if fetch then { c with cache := { c.cache with ctlb := cacheIn 32 k l (c.cache.ctlb.filter (fun x => x ≠ l)) } }
    else { c with cache := { c.cache with dtlb := cacheIn 256 k l (c.cache.dtlb.filter (fun x => x ≠ l)) } })
  { s2 with fresh := s2.fresh + 1 }

def enterTables (q tag : Nat) (w : WalkOut) (s : State) : State :=
  s.modQuad q (fun x =>
    { x with walks := w.tabs.foldl (fun l e =>
      let y := (tag, e.1, e.2.1, e.2.2)
      if l.contains y then l else cacheIn 64 (victim s) y l) x.walks })

/-- Discard the cached leaves of a core and its quad that cover va for a tag (R242, R243). -/
def dropLeaf (n tag va : Nat) (s : State) : State :=
  let keep := fun (l : List Leaf) => l.filter (fun x => !x.hits tag va)
  (s.modQuad (n / 4) (fun q => { q with l2tlb := keep q.l2tlb })).modCore n (fun c =>
    { c with cache := { c.cache with dtlb := keep c.cache.dtlb, ctlb := keep c.cache.ctlb } })

/-! ## Page requests (R249) -/

/-- Post a page request in the mailbox of a quad: merged into a record outstanding, or waiting for a slot when all 64 are
taken. -/
def postPage (q : Nat) (r : PageReq) (s : State) : State :=
  s.modQuad q (fun x =>
    if (x.pageReq ++ x.posters).any (fun y => y.page = r.page && y.tag = r.tag) then x
    else if x.pageReq.length < 64 then { x with pageReq := x.pageReq ++ [r] }
    else { x with posters := x.posters ++ [r] })

/-- The cause of a park by access kind (R249). -/
def parkCause (kind : Nat) : Nat := match kind with | 0 => 1 | 3 => 3 | _ => 2

/-! ## Walks of a core (R242, R243, R246, R283, R398) -/

/-- A context consumes uncorrectable data: it ends with the act (R372, R398). -/
def condemn (tag : Nat) (s : State) : State := { s with doom := if s.doom.contains tag then s.doom else s.doom ++ [tag] }

/-- The monitors record the length of a walk of core n that began at a count of CYCLE (R393). -/
def noteWalk (n : Nat) (since : Word) (s : State) : State :=
  monRecord s (n / 64) 10 (s.core n).regs.id.tag (n % 64) (s.cycleOf n - since).toNat

/-- The walk of an access of core n: a cached leaf that lacks the permission is discarded and the walk starts at the root. -/
def coreWalk (n : Nat) (fetch : Bool) (va : Nat) (s : State) : WalkOut × State :=
  let c := s.core n
  let tag := c.regs.id.tag
  if ((if fetch then c.cache.ctlb else c.cache.dtlb) ++ (s.quad (n / 4)).l2tlb).any (fun l => l.hits tag va) then
    (walkRoot s tag va, dropLeaf n tag va s)
  else (walkCached s (n / 4) tag va, s)

/-- A rescheduling entry: parks on it post no page request (R283). -/
def reschedEntry (e : Nat) : Bool := bitsN e 0 12 = 0xB24

/-- A park on an entry with given bits posts its page request (R249, R283). -/
def postPark (q : Nat) (bits : Nat) (r : PageReq) (s : State) : State := if reschedEntry bits then s else postPage q r s

/-- What a walk of tag for core n gives enters the caches, a park posts its page request with the cause given, if any, and a
poisoned entry ends the context. -/
def walkEnds (n tag : Nat) (fetch : Bool) (va kind : Nat) (cause : Option Nat) (out : WalkOut) (s : State) :
    Option WalkRes × State :=
  match walkRes tag va kind out with
  | none => (none, condemn tag s)
  | some r =>
    let s1 := enterTables (n / 4) tag out s
    (some r, match r with
      | .leaf l => enterLeaf n fetch l s1
      | .park _ => (match cause with | some c => postPark (n / 4) out.bits ⟨va / 4096, c, tag, n⟩ s1 | none => s1)
      | .trap _ => s1)

/-- The same for an access of a kind by the task of core n. -/
def walkDone (n : Nat) (fetch : Bool) (va kind : Nat) (out : WalkOut) (s : State) : Option WalkRes × State :=
  walkEnds n (s.core n).regs.id.tag fetch va kind (if kind = 4 then none else some (parkCause kind)) out s

/-- What a data access of core n meets at va: a cached leaf, or a walk made now. -/
def walkNow (n va kind : Nat) (cause : Option Nat) (s : State) : Option WalkRes × State :=
  let c := s.core n
  let tag := c.regs.id.tag
  match (c.cache.dtlb ++ (s.quad (n / 4)).l2tlb).find? (fun l => l.hits tag va && kindOk l.entry kind) with
  | some l => (some (.leaf l), s)
  | none => let (out, s1) := coreWalk n false va (noteWalk n (s.cycleOf n) s); walkEnds n tag false va kind cause out s1

/-! ## The physical map -/

/-- Offsets in the module control registers that a chapter assigns to a register. -/
def ctlAssigned (o : Nat) : Bool :=
  let within := fun (lo n : Nat) => lo ≤ o && o < lo + n
  within 0x1000 0x10 || within 0x2000 0x10 || within 0x3000 0x10 || within 0x10000 0x10000 || within 0x20000 0x10000 ||
  within 0x30000 0x4000 || within 0x40000 0x8000 || within 0x50000 0x10000 || within 0x60000 0x900 ||
  within 0x70000 0x400 || within 0x80000 0x808 || within 0xC0000 0x22100 || within 0x100000 0x285000 ||
  (within 0x400000 0x200000 &&
    (let r := o % 0x10000
     r < 0x40 || (0x100 ≤ r && r < 0x140) || (0x1000 ≤ r && r < 0x3000 && (r % 128 < 0x28 || 0x40 ≤ r % 128))))

/-- Offsets in a channel that hold a register (R184). -/
def chanAssigned (o : Nat) : Bool := o < 8 || (0x100 ≤ o && o < 0x120) || (0x200 ≤ o && o < 0x280)

/-- The HBM of the golden image, which no context may reach (R380; log entry 144). -/
def isGolden (s : State) (pa : Nat) : Bool := match s.boot.golden with | some g => g ≤ pa && pa < g + 2 ^ 28 | none => false

/-- Reserved physical space (R22, R24, R367, R380). -/
def reservedPa (s : State) (pa : Nat) : Bool :=
  !((pa < hbmEnd && !isGolden s pa) ||
    (tierBase ≤ pa && pa < tierEnd && (pa < tierBase + s.flash.tier || (podOf s pa).isSome)) ||
    isHost pa || isPad pa || isAcc pa || (mailBase ≤ pa && pa < mailEnd) ||
    (engBase ≤ pa && pa < engEnd && chanAssigned (pa % 0x10000)) ||
    (arrBase ≤ pa && pa < arrEnd) ||
    (ctlBase ≤ pa && pa < ctlEnd && ctlAssigned (pa - ctlBase)))

def isEngine (pa : Nat) : Bool := engBase ≤ pa && pa < engEnd
def isMail (pa : Nat) : Bool := mailBase ≤ pa && pa < mailEnd
def isArrive (pa : Nat) : Bool := arrBase ≤ pa && pa < arrEnd
def isCtl (pa : Nat) : Bool := ctlBase ≤ pa && pa < ctlEnd

/-- The access-table target of a physical address (R375); the memories inside quads have none. -/
def targetOf (s : State) (pa : Nat) : Option Nat :=
  if pa < hbmEnd then some 0
  else if tierBase ≤ pa ∧ pa < tierEnd then (if (podOf s pa).isSome then some 6 else some 1)
  else if isHost pa then some 2
  else if isEngine pa then some 3
  else if isArrive pa then some 4
  else if isCtl pa then some 5
  else none

/-- The bit of a right: 0 r, 1 w, 2 x, 3 k. -/
def hasRight (s : State) (tag cls target bit : Nat) : Bool :=
  (s.ctx tag).st ≠ .terminating && (fget 0 s.acctab (target * 4096 + tag)).getLsbD (4 * cls + bit)

def accessOk (s : State) (tag cls bit pa : Nat) : Bool :=
  match targetOf s pa with
  | none => true
  | some t => hasRight s tag cls t bit

/-- The home slice of an address as a module-wide quad number (R21, R352). -/
def homeOf (pa : Nat) : Nat := bitsN pa 16 5 * 16 + bitsN pa 7 4

end Sys2Proof.Machine
end

