-- ==== Sys2Proof/Machine/Flit.lean ====
section
/-! DEFINITION. Flits, and the queues of a link port by which they leave (R26, R27, R278, R359, R360, R364). -/

namespace Sys2Proof.Machine

/-! ## CRC-32C (R278) -/

/-- One bit of the reflected CRC-32C. -/
def crcBit (c : Nat) : Nat := if c % 2 = 1 then (c / 2) ^^^ 0x82F63B78 else c / 2

def crcByte (c : Nat) (b : Byte) : Nat := (List.range 8).foldl (fun c _ => crcBit c) (c ^^^ b.toNat)

/-- CRC-32C of some bytes. -/
def crc32c (l : List Byte) : Nat := (l.foldl crcByte 0xFFFFFFFF) ^^^ 0xFFFFFFFF

/-- The n low bytes of a number. -/
def bytesLe (v : Nat) : Nat → List Byte
  | 0 => []
  | n + 1 => BitVec.ofNat 8 v :: bytesLe (v / 256) n

/-! ## The format (R359) -/

abbrev Flit := BitVec 2048

def Flit.cls (f : Flit) : Nat := field f 0 2
def Flit.hop (f : Flit) : Nat := field f 2 1
def Flit.dst (f : Flit) : Nat := field f 3 8
def Flit.src (f : Flit) : Nat := field f 11 8
def Flit.tag (f : Flit) : Nat := field f 19 12
def Flit.lseq (f : Flit) : BitVec 16 := BitVec.ofNat 16 (field f 32 16)
def Flit.lack (f : Flit) : BitVec 16 := BitVec.ofNat 16 (field f 48 16)
def Flit.pa (f : Flit) : Nat := field f 64 52
def Flit.tid (f : Flit) : BitVec 8 := BitVec.ofNat 8 (field f 116 8)
def Flit.kind (f : Flit) : Nat := field f 124 4

/-- The class of a kind; none for a reserved one. -/
def kindClass (k : Nat) : Option Nat :=
  if k ≤ 2 then some 0 else if k ≤ 5 then some 1 else if k ≤ 7 then some 2 else if k ≤ 9 then some 3 else none

def flitCrc (f : Flit) : Nat := crc32c (bytesLe f.toNat 252)

/-- The check of a flit: its CRC, its kind and its reserved fields. -/
def flitOk (f : Flit) : Bool :=
  field f 2016 32 = flitCrc f && kindClass f.kind = some f.cls && field f 31 1 = 0 && field f 1984 32 = 0

/-- A flit of this module: header fields, with a payload. -/
def newFlit (hop dst src tag addr : Nat) (tid : BitVec 8) (kind : Nat) (payload : Vec) : Flit :=
  BitVec.ofNat 2048 ((kindClass kind).getD 0 + 2 ^ 2 * hop + 2 ^ 3 * dst + 2 ^ 11 * src + 2 ^ 19 * tag + 2 ^ 64 * (addr % 2 ^ 52) +
    2 ^ 116 * tid.toNat + 2 ^ 124 * kind + 2 ^ 128 * field payload 0 1856)

/-- Number a flit for a port and seal it. -/
def sealFlit (x : Link) (f : Flit) : Flit :=
  let lo := f.toNat % 2 ^ 32 + 2 ^ 32 * x.sendSeq.toNat + 2 ^ 48 * (x.wantSeq - 1).toNat + 2 ^ 64 * (field f 64 1920)
  BitVec.ofNat 2048 (lo + 2 ^ 2016 * crc32c (bytesLe lo 252))

def flitHash (f : Flit) (m : Nat) : Nat := if f.kind = 6 ∨ f.kind = 7 then nameHash f.pa m else addrHash f.pa m

/-! ## The queues of a port (R26, R27, R360, R364) -/

/-- The channel of a flit: one for each class and hop (R364). -/
def chanIx (f : Flit) : Nat := 2 * Flit.cls f + Flit.hop f

/-- The oldest flit of a class that waits on a port in a channel with credit. -/
def firstOf (x : Link) (cls : Nat) : Option Nat :=
  x.out.findIdx? (fun f => Flit.cls f = cls && 0 < vget x.credits (chanIx f) 0)

/-- The flit that a port sends next: control before reply before request, and a request after seven others while one waits
(R27). -/
def nextFlit (x : Link) : Option Nat :=
  if 7 ≤ x.grants then (firstOf x 0).or ((firstOf x 2).or (firstOf x 1))
  else (firstOf x 2).or ((firstOf x 1).or (firstOf x 0))

/-- A usable port moves a waiting flit into its replay buffer, while that holds fewer than 512 and the peer has room for it (R360,
R364). -/
def pumpOne (x : Link) : Link :=
  if !x.st.usable || 512 ≤ x.replay.length then x
  else match nextFlit x with
    | none => x
    | some i =>
      let f := x.out.getD i 0
      { x with
        out := x.out.eraseIdx i
        replay := x.replay ++ [sealFlit x f]
        sendSeq := x.sendSeq + 1
        credits := vset x.credits (chanIx f) (vget x.credits (chanIx f) 0 - 1)
        grants := if Flit.cls f = 0 || (firstOf x 0).isNone then 0 else x.grants + 1 }

/-- Move waiting flits until none waits or the buffer is full. -/
def pumpLink : Nat → Link → Link
  | 0, x => x
  | n + 1, x => if x.out.isEmpty then x else pumpLink n (pumpOne x)

def pump (p : Nat) (s : State) : State := s.modLink p (pumpLink 512)

/-- The channel's credits that a credit flit grants are added. -/
def addCredits (v : BitVec 96) (x : Link) : Link :=
  { x with credits := Vector.ofFn (fun i => x.credits[i] + field v (16 * i.val) 16) }

/-- A buffer here that held a flit of the peer is free again, of which the peer is told. -/
def freeBuffer (p : Nat) (f : Flit) (s : State) : State :=
  s.modLink p (fun x => { x with freed := vset x.freed (chanIx f) (vget x.freed (chanIx f) 0 + 1) })

/-- Send a flit on a port: it waits in the queue of its class and hop. -/
def sendFlit (p : Nat) (f : Flit) (s : State) : State := pump p (s.modLink p (fun x => { x with out := x.out ++ [f] }))

/-- The request is one of the task on a core. -/
def PodWho.ofCore (n : Nat) (w : PodWho) : Bool :=
  match w with | .access m _ _ _ _ | .arg m _ | .fetch m _ => m = n | _ => false

/-- The task of a node and tile is suspended on core n: the requests of its accesses are kept for it, and its argument words are
asked for again (R272); it is restored, and has them again; it is no more. -/
def PodWho.suspend (n node tile : Nat) (w : PodWho) : PodWho :=
  match w with
  | .access m o st i u => if m = n then .held n node tile o st i u else w
  | .arg m _ | .fetch m _ => if m = n then .gone else w
  | _ => w
def PodWho.restore (n node tile : Nat) (w : PodWho) : PodWho :=
  match w with
  | .held m a b o st i u => if m = n && a = node && b = tile then .access n o st i u else w
  | _ => w
def PodWho.forget (n node tile : Nat) (w : PodWho) : PodWho :=
  match w with
  | .held m a b _ _ _ _ => if m = n && a = node && b = tile then .gone else w
  | _ => w

/-- Change whose the requests over the links are. -/
def State.mapPods (s : State) (f : PodWho → PodWho) : State := { s with podreqs := s.podreqs.map (fun r => { r with who := f r.who }) }

/-- The copies of lines that are on their way to an L1 are not awaited any more. -/
def dropComing (l : FMap L1Line) : FMap L1Line := l.filter (fun e => match e.2 with | .here _ => true | .coming _ => false)

/-- The usable ports toward module m for a flit of a hop: the direct ones, or those toward the module it is reached through (R365). -/
def portsTo (s : State) (m hop : Nat) : List Nat :=
  let r := fget Route.reset s.route m
  let usable := fun (dir : BitVec 36) => (List.range 36).filter (fun p => dir.getLsbD p && (s.link p).st.usable)
  if !(usable r.dir).isEmpty then usable r.dir
  else if r.vv && hop = 0 then usable (fget Route.reset s.route r.via).dir
  else []

/-- A request may go to module m: since the first of those without an answer was sent, the usable ports have not changed (R366). -/
def routeSteady (s : State) (m hop : Nat) : Bool :=
  s.podreqs.all (fun r => r.mod ≠ m || r.ans.isSome || r.ports = portsTo s m hop || r.ports = [37])

/-- The ports or routes may have changed: the requests for which they have are marked, until they are answered (R366). -/
def markMoved (s : State) : State :=
  { s with podreqs := s.podreqs.map (fun r =>
      let hop := match r.who with | .passed _ => 1 | _ => 0
      if r.ans.isNone && r.ports ≠ [37] && r.ports ≠ portsTo s r.mod hop then { r with ports := [36] } else r) }

/-- A flit on its way toward its module; none where no port is usable. -/
def routeFlit (f : Flit) (s : State) : Option State :=
  (choosePort s f.dst f.hop (flitHash f)).map (fun p => sendFlit p f s)

/-! ## Requests of this module (R359, R366 to R368) -/

/-- A transaction number that no request of this module without an answer bears. -/
def freeTid (s : State) : Option (BitVec 8) :=
  ((List.range 256).map (BitVec.ofNat 8)).find? (fun t =>
    s.podreqs.all (fun r => r.tid ≠ t || r.ans.isSome || (match r.who with | .passed _ => true | _ => false)))

/-- Send a request for the line of pa, with a payload that the implementation lays out; none where no port is usable, and it is lost
(R365). It waits for a free number and for a change of route to settle. -/
def podAsk (w : PodWho) (tag kind pa : Nat) (s : State) : Option State :=
  match podOf s pa, freeTid s with
  | some (m, a), some t =>
    if !routeSteady s m 0 || s.podheld.any (fun e => Flit.dst e.2 = m) then some s
    else
      (routeFlit (newFlit 0 m s.podmod.toNat tag a t kind (Config.freeVec s.fresh)) { s with fresh := s.fresh + 1 }).map
        (fun u => { u with podreqs := u.podreqs ++ [⟨t, m, kind, tag, portsTo s m 0, w, none⟩] })
  | _, _ => some s

/-! ## Lines of other modules that a channel or a dispatcher uses (R202, R311, R368) -/

/-- The answer to a unit's request for a line. -/
def farAnswer (s : State) (u line : Nat) (wr : Bool) : Option Flit :=
  (s.podreqs.find? (fun r => r.who = .unit u line wr)).bind (fun r => r.ans)

/-- The lines among some addresses that lie on other modules and that a unit has no answer for. -/
def farOpen (s : State) (u : Nat) (wr : Bool) (pas : List Nat) : List Nat :=
  (((pas.filter (fun a => (podOf s a).isSome)).map (fun a => a / 128)).eraseDups).filter (fun l => (farAnswer s u l wr).isNone)

/-- A home has refused a request of the unit. -/
def farRefused (s : State) (u : Nat) : Bool :=
  s.podreqs.any (fun r => (match r.who with | .unit v _ _ => v = u | _ => false) && r.ans.any Config.flitRefused)

/-- The unit asks for lines that it has not asked for yet. -/
def farAsk (u tag : Nat) (wr : Bool) (l : List Nat) (s : State) : State :=
  l.foldl (fun s k =>
    if s.podreqs.any (fun r => r.who = .unit u k wr) then s
    else (podAsk (.unit u k wr) tag (if wr then 1 else 0) (128 * k) s).getD s) s

/-- Some requests are of no more use: their answers are dropped, as they stand or when they come. -/
def dropAsks (p : PodReq → Bool) (s : State) : State :=
  { s with podreqs := s.podreqs.filterMap (fun r =>
      if p r then (if r.ans.isSome then none else some { r with who := .gone }) else some r) }

/-- The unit is done with its requests; a context that ends is, with those of every unit; a core's fetches are asked for again. -/
def farDone (u : Nat) (s : State) : State := dropAsks (fun r => match r.who with | .unit v _ _ => v = u | _ => false) s
def farKill (tag : Nat) (s : State) : State :=
  dropAsks (fun r => match r.who with | .unit _ _ _ => r.tag = tag | _ => false) s
def dropFetches (n : Nat) (s : State) : State := dropAsks (fun r => match r.who with | .fetch m _ => m = n | _ => false) s

/-- What a dispatcher waits for when it has asked for a line, as the number of a table entry that lies nowhere. -/
def farEntry (u line : Nat) (wr : Bool) : Nat := 2 ^ 60 + 2 ^ 46 * u + 2 * line + wr.toNat
def farMark (e : Nat) : Option (Nat × Nat × Bool) :=
  if e < 2 ^ 60 then none else some (bitsN e 46 14, bitsN e 1 45, bitsN e 0 1 = 1)

end Sys2Proof.Machine
end

