-- ==== Sys2Proof/Machine/Page.lean ====
section
/-! DEFINITION. The header of a code page and its landings as memory shows them, and the address at which a core goes on (R277,
R279, R281, R390, R401). -/

namespace Sys2Proof.Machine

/-! ## The header (R277, R282) -/

def hMagic (h : Nat) : Nat := bitsN h 0 16
def hTag (h : Nat) : Nat := bitsN h 16 8
def hOtag (h : Nat) : Nat := bitsN h 24 8
def hSf (h : Nat) : Bool := bitsN h 32 1 = 1
def hRw (h : Nat) : Bool := bitsN h 33 1 = 1
def hTrl (h : Nat) : Bool := bitsN h 34 1 = 1
def hRej (h : Nat) : Bool := bitsN h 35 1 = 1
def hWhy (h : Nat) : Nat := bitsN h 36 4
def hCount (h : Nat) : Nat := bitsN h 40 7
def hNland (h : Nat) : Nat := bitsN h 48 5
def hNtrl (h : Nat) : Nat := bitsN h 56 4
def hPos (h : Nat) : Nat := bitsN h 60 4
/-- The coupling, as a page number. -/
def hCpl (h : Nat) : Option Nat := if bitsN h 64 1 = 1 then some (bitsN h 76 48) else none
def hTable (h : Nat) : BitVec 288 := BitVec.ofNat 288 (bitsN h 192 288)
def landEntry (t : BitVec 288) (n : Nat) : Nat := field t (12 * n) 12
def landBi (e : Nat) : Nat := bitsN e 0 7
def landTn (e : Nat) : Nat := bitsN e 7 4

/-! ## The address of a landing, for a trap taken before any bundle and for records (R390, R401) -/

/-- The header of a code page as memory holds it, where the page is mapped. -/
def headerAt (s : State) (tag page : Nat) : Option Nat :=
  match walkRes tag (page * 4096) 3 (walkRoot s tag (page * 4096)) with
  | some (.leaf l) =>
    let pa := l.pa (page * 4096)
    if hasHome pa && (podOf s pa).isNone then some (Memory.read s.mem pa 64) else none
  | _ => none

/-- The trailer of a coupling chain whose pos is tn. -/
def chainPage (s : State) (tag tn : Nat) : Nat → Nat → Option Nat
  | 0, _ => none
  | f + 1, h =>
    match hCpl h with
    | none => none
    | some pg =>
      match headerAt s tag pg with
      | none => none
      | some g => if hPos g = tn then some pg else chainPage s tag tn f g

/-- The bundle address that a code pointer names, as far as memory shows it; otherwise the pointer itself (log entry 106). -/
def landingAddr (s : State) (tag : Nat) (ptr : Word) : Word :=
  let page := bitsN ptr.toNat 12 48
  let n := bitsN ptr.toNat 0 12
  match headerAt s tag page with
  | none => ptr
  | some h =>
    let e := landEntry (hTable h) n
    if hNland h ≤ n then ptr
    else match (if landTn e = 0 then some page else chainPage s tag (landTn e) 15 h) with
      | some pg => BitVec.ofNat 64 (pg * 4096 + 32 * landBi e)
      | none => ptr

/-! ## The next bundle of a core (R384, R390) -/

/-- The address of the next bundle of core n: what its queue holds, the landing that a transfer goes to, a coupled trailer's first
bundle past a page's last one, or where its fetch stands. -/
def State.nextAddr (s : State) (n : Nat) : Word :=
  let c := s.core n
  match c.pipe.bq, c.pipe.target with
  | [], some t => if t.couple then c.pipe.nextAddr else landingAddr s c.regs.id.tag t.ptr
  | _, _ => c.pipe.nextAddr

def haltCore (s : State) (n : Nat) : State := haltBefore s n (s.nextAddr n)

end Sys2Proof.Machine
end

