-- ==== Sys2Proof/Machine/PadRead.lean ====
section
/-! DEFINITION. Reads of a scratchpad or accumulator memory by a slot of a core (R130, R136, R261). -/

namespace Sys2Proof.Machine

/-- The newest value that the core's own W stores, issued and not yet landed, hold for an address (R136). -/
def pendingByte (l : List SpWrite) (bn pa : Nat) : Option Byte :=
  l.foldl (fun acc w =>
    if w.bn < bn then
      (match w.bytes.reverse.find? (fun e => e.1 = pa) with
       | some e => some e.2
       | none => acc)
    else acc) none

/-- One byte as a fixed-group read sees it: a byte of a W store that has issued and not landed is, per aligned 8 bytes, the
old or the new value, by the free choice numbered k + address / 8 (R136). -/
def slotByte (s : State) (t k pa : Nat) : Byte :=
  if padAllowed s t pa then
    match pendingByte s.pipe.spst s.pipe.bn pa with
    | none => Memory.get s.mem pa
    | some b => if Config.freeBit (k + pa / 8) then b else Memory.get s.mem pa
  else 0

/-- Read bytes at physical addresses as the core's task, as a little-endian number. -/
def slotRead (s : State) (addrs : List Nat) : Nat :=
  leNat (addrs.map (slotByte s s.regs.id.tag s.fresh))

/-- After a read, later reads take other free choices. -/
def State.refresh (s : State) : State := { s with fresh := s.fresh + 2 ^ 52 }

/-- The physical addresses of n bytes of core c's scratchpad from offset o on, wrapping at 2 MiB (R130). -/
def padAddrs (c o n : Nat) : List Nat := (List.range n).map (fun i => padOf c + (o + i) % 2 ^ 21)

/-- The same for an accumulator partition, and for the quad's whole accumulator memory. -/
def accAddrs (c o n : Nat) : List Nat := (List.range n).map (fun i => accOf c + (o + i) % 2 ^ 20)
def accWideAddrs (q o n : Nat) : List Nat := (List.range n).map (fun i => accQuad q + (o + i) % 2 ^ 22)

end Sys2Proof.Machine
end

