-- ==== Sys2Proof/Machine/FoldMath.lean ====
section
/-! DEFINITION. The arithmetic of the drain (R51, R173, R174). -/

namespace Sys2Proof.Machine

/-- One accumulator after a drain: the slot integer c, the scale words of its row and column, and the f32 it holds (R51). -/
def drainOne (c : Int) (sa sb acc : Nat) : Nat :=
  let v := fpVal f32 acc
  if bitsN sa 25 1 = 1 ∨ bitsN sb 25 1 = 1 ∨ isNaN v then f32.nan
  else if bitsN sa 24 1 = 1 ∨ bitsN sb 24 1 = 1 then acc
  else
    let m : Int := c * (bitsN sa 8 16 : Nat) * (bitsN sb 8 16 : Nat)
    if m = 0 then acc
    else
      match v with
      | .fin _ _ _ => toFp f32 0 (fAdd v (ofInt m ((bitsN sa 0 8 : Nat) + (bitsN sb 0 8 : Nat) - 284)))
      | _ => acc

/-- The physical address of an accumulator offset: the holder's partition, or the whole memory of the quad (R173). -/
def drainAddr (q : Nat) (d : Drain) (off : Nat) : Nat :=
  if d.wide then accQuad q + off else accOf (q * 4 + d.core) + off

def drainRow (q : Nat) (d : Drain) (i : Nat) : List Nat → List Host.Cell → List Host.Cell
  | [], m => m
  | j :: r, m =>
    let a := drainAddr q d (d.base + 4 * (i * d.cols + j))
    drainRow q d i r
      (Memory.write m a (drainOne (fget 0 d.vals (i * 8192 + j)) (d.sa.getD i 0) (d.sb.getD j 0) (Memory.read m a 4)) 4)

/-- Memory after a drain of quad q has written its accumulators (R174). -/
def drainMem (q : Nat) (d : Drain) (m : List Host.Cell) : List Host.Cell :=
  (List.range d.rows).foldl (fun m i => drainRow q d i (List.range d.cols) m) m

/-- Memory with the first k of the drains in flight of a quad written. -/
def drainedMem (s : State) (q k : Nat) : List Host.Cell :=
  ((s.quad q).array.drains.take k).foldl (fun m d => drainMem q d m) s.mem

/-- Bytes of an accumulator memory as a slot of the core reads them: bytes that drains in flight will write are, per aligned
8 bytes, as before or as after any of them, by a free choice (R160, R174). -/
def accRead (s : State) (addrs : List Nat) : Nat :=
  match (s.quad s.myQuad).array.drains with
  | [] => slotRead s addrs
  | l =>
    let views := (List.range (l.length + 1)).map (fun k => { s with mem := drainedMem s s.myQuad k })
    leNat (addrs.map (fun a =>
      slotByte (views.getD (field (Config.freeVec (s.fresh + 2 ^ 51 + a / 8)) 0 16 % (l.length + 1)) s) s.regs.id.tag s.fresh a))

end Sys2Proof.Machine
end

