-- ==== Sys2Proof/Machine/Load.lean ====
section
/-! DEFINITION. Scratchpad and accumulator loads of the L slot (R127, R132 to R134). -/

namespace Sys2Proof.Machine

open Host (Outcome)

/-- A load's bytes as its entry (R132). -/
def deliver (how : Deliver) (raw : Nat) : Vec :=
  match how with
  | .scalar sg n => natVec (if sg then wrapN (sextN raw n) 64 else raw % 2 ^ n)
  | .vec => natVec raw
  | .splat n => natVec ((List.range (2048 / n)).foldl (fun acc _ => raw % 2 ^ n + 2 ^ n * acc) 0)

/-- What an emulated load takes from TDBUF: word 0 of a scalar, all 32 words of a vector (R268). -/
def emulHow (how : Deliver) : Deliver := match how with | .splat _ => .vec | h => h

/-- Entries the load data queue can reserve (R16, R267). -/
def ldqCap (c : Core) : Nat := if c.outrider then 8 else 32

/-- Reserve an entry of a fixed-latency load, which delivers at the end of its count (R132, R133). -/
def reserveFixed (lat : Nat) (v : Vec) (mask : Option (Nat × Mask)) (s : State) : State :=
  s.modPipe (fun p => { p with ldq := p.ldq ++ [⟨p.bn, some (p.count + lat - 1), false, false, v, mask, none⟩] })

/-- Trap LDQ_OVERFLOW when no entry can be reserved (R133). -/
def withEntry (s : State) (k : State → State) : State :=
  if ldqCap s.me ≤ s.pipe.ldq.length then fixedTrap s cLDQ_OVERFLOW 0 .L else k s

/-- Trap MISALIGNED of the L slot where the test fails (R131, R151). -/
def alignedL (ok : Bool) (ea : Word) (s : State) (k : State → State) : State :=
  if ok then k s else fixedTrap s cMISALIGNED ea .L

/-- The wrapped scratchpad address (R130). -/
def padOff (ea : Word) : Nat := ea.toNat % 2 ^ 21
def accOff (ea : Word) : Nat := ea.toNat % 2 ^ 20
def accWideOff (ea : Word) : Nat := ea.toNat % 2 ^ 22

/-- A scratchpad load of n bytes at ea, aligned to al. -/
def padLoad (lat n al : Nat) (how : Deliver) (ea : Word) (s : State) : State :=
  withEntry s (fun s => alignedL (padOff ea % al = 0) ea s (fun s =>
    (reserveFixed lat (deliver how (slotRead s (padAddrs s.cur.toNat (padOff ea) n))) none s).refresh))

/-- The same through a base register: suppressed, it reserves an entry that delivers zeros (R94, R129). -/
def padLoadBase (lat n u : Nat) (how : Deliver) (j : BitVec 3) (p : BitVec 1) (o : BitVec 11) (x : BitVec 6) (s : State) :
    State :=
  if s.stage j then
    incAfter s j p o u (padLoad lat n 8 how (eaBase (s.base j) (s.bridge x) p o u) s)
  else withEntry s (fun s => reserveFixed lat 0 none s)

/-- The delivery of a scalar of type code t (R132). -/
def scalarOf (t : BitVec 5) : Deliver := .scalar (tySigned t.toNat) (tyWidth t.toNat)

/-- The strided elements of `ldst` and `stst`: element i at A + i * B (R134). -/
def strideEa (a b : Word) (i : Nat) : Word := a + BitVec.ofNat 64 i * b

/-- Zero the bytes at the end of the issue cycle, or write bytes then (R134, R136). -/
def landNow (bytes : List (Nat × Byte)) (s : State) : State :=
  s.modPipe (fun p => { p with spst := p.spst ++ [⟨(s.quad s.myQuad).cycle.toNat, p.bn, bytes⟩] })

/-- The core holds a wide lease (R160). -/
def wideHeld (c : Core) : Bool := c.fold.lease = .held && c.fold.wide

def execLNop (s : State) : Outcome State Fault Refusal := .next s

def execLLd (a b : BitVec 6) (t : BitVec 5) (s : State) : Outcome State Fault Refusal :=
  .next (padLoad 6 (tyWidth t.toNat / 8) (tyWidth t.toNat / 8) (scalarOf t) (s.bridge a + s.bridge b) s)

def execLLdx (a b : BitVec 6) (s : State) : Outcome State Fault Refusal :=
  .next (padLoad 6 256 8 .vec (s.bridge a + s.bridge b) s)

def execLLdi (j : BitVec 3) (p : BitVec 1) (o : BitVec 11) (x : BitVec 6) (s : State) : Outcome State Fault Refusal :=
  .next (padLoadBase 6 256 256 .vec j p o x s)

def execLLdb (j : BitVec 3) (p : BitVec 1) (o : BitVec 11) (x : BitVec 6) (s : State) : Outcome State Fault Refusal :=
  .next (padLoadBase 6 8 8 (.scalar false 64) j p o x s)

def execLLdst (a b : BitVec 6) (t : BitVec 5) (s : State) : Outcome State Fault Refusal :=
  let n := tyWidth t.toNat / 8
  let ea := s.bridge a
  let offs := (List.range (256 / n)).map (fun i => padOff (strideEa ea (s.bridge b) i))
  .next (withEntry s (fun s => alignedL (offs.all (fun o => o % n = 0)) ea s (fun s =>
    (reserveFixed 8 (natVec (slotRead s ((offs.map (fun o => padAddrs s.cur.toNat o n)).flatten))) none s).refresh)))

def execLLdsc (a b : BitVec 6) (t : BitVec 5) (s : State) : Outcome State Fault Refusal :=
  .next (padLoad 6 (tyWidth t.toNat / 8) (tyWidth t.toNat / 8) (.splat (tyWidth t.toNat)) (s.bridge a + s.bridge b) s)

def execLLdz (a b : BitVec 6) (s : State) : Outcome State Fault Refusal :=
  let ea := s.bridge a + s.bridge b
  .next (withEntry s (fun s => alignedL (padOff ea % 8 = 0) ea s (fun s =>
    (landNow (bytesOf 0 256 (fun i => padOf s.cur.toNat + (padOff ea + i) % 2 ^ 21))
      (reserveFixed 6 (natVec (slotRead s (padAddrs s.cur.toNat (padOff ea) 256))) none s)).refresh)))

def execLLdm (m : BitVec 4) (a b : BitVec 6) (s : State) : Outcome State Fault Refusal :=
  let ea := s.bridge a + s.bridge b
  .next (alignedL (padOff ea % 8 = 0) ea s (fun s =>
    (s.result .L 6 (.mask m.toNat) (natVec (slotRead s (padAddrs s.cur.toNat (padOff ea) 32)))).refresh))

def execLLdacc (a b : BitVec 6) (s : State) : Outcome State Fault Refusal :=
  let ea := s.bridge a + s.bridge b
  .next (withEntry s (fun s => alignedL (accOff ea % 8 = 0) ea s (fun s =>
    (reserveFixed 6 (natVec (accRead s (accAddrs s.cur.toNat (accOff ea) 256))) none s).refresh)))

def execLLdaccw (a b : BitVec 6) (s : State) : Outcome State Fault Refusal :=
  let ea := s.bridge a + s.bridge b
  .next (withEntry s (fun s =>
    if wideHeld s.me then alignedL (accWideOff ea % 8 = 0) ea s (fun s =>
      (reserveFixed 6 (natVec (accRead s (accWideAddrs s.myQuad (accWideOff ea) 256))) none s).refresh)
    else fixedTrap s cNOT_WIDE 0 .L))

end Sys2Proof.Machine
end

