-- ==== Sys2Proof/Machine/Store.lean ====
section
/-! DEFINITION. Scratchpad and accumulator stores of the W slot (R135, R136). A W syllable issues from the head of the W slot
queue, with the operands captured there; where it must wait it stays at the head. -/

namespace Sys2Proof.Machine

open Host (Outcome)

/-- The head of the W slot queue. -/
def WEntry.none : WEntry := ⟨0, 0, 0, 0, 0, 0, 0, 0, true, 0⟩
def State.wHead (s : State) : WEntry := match s.pipe.wq with | e :: _ => e | [] => WEntry.none

/-- W issues its head syllable. -/
def wPop (s : State) : State := s.modPipe (fun p => { p with wq := p.wq.tail, wn := p.wn + 1 })

/-- A trap of a W store: TDBUF holds the data as captured (R266). -/
def wStoreTrap (s : State) (cause : Nat) (ea : Word) (data : Vec) : State :=
  if s.me.outrider then wTrap s cause ea
  else (wTrap s cause ea).modRegs (fun r => { r with trap := { r.trap with tdbuf := data } })

/-- Write bytes at the end of the next cycle (R136). -/
def landNext (bn : Nat) (bytes : List (Nat × Byte)) (s : State) : State :=
  s.modPipe (fun p => { p with spst := p.spst ++ [⟨(s.quad s.myQuad).cycle.toNat + 1, bn, bytes⟩] })

/-- A store of the n low bytes of v at the addresses f gives, if aligned. -/
def slotStore (ok : Bool) (ea : Word) (data : Vec) (bytes : List (Nat × Byte)) (s : State) : State :=
  if ok then landNext s.wHead.bn bytes (wPop s) else wStoreTrap s cMISALIGNED ea data

def padBytes (s : State) (off v n : Nat) : List (Nat × Byte) :=
  bytesOf v n (fun i => padOf s.cur.toNat + (off + i) % 2 ^ 21)

/-- A scratchpad store in register form. -/
def padStore (n al v : Nat) (ea : Word) (s : State) : State :=
  slotStore (padOff ea % al = 0) ea s.wHead.d (padBytes s (padOff ea) v n) s

/-- A and B of the head as 64-bit values. -/
def State.wA (s : State) : Word := vecWord s.wHead.a
def State.wB (s : State) : Word := vecWord s.wHead.b
def State.wEa (s : State) : Word := s.wA + s.wB

/-- The low element of the data copied over 256 bytes (R135). -/
def fillNat (n : Nat) (v : Vec) : Nat := (deliver (.splat n) v.toNat).toNat

def execWNop (s : State) : Outcome State Fault Refusal := .next (wPop s)

def execWSt (d a b : BitVec 6) (t : BitVec 5) (s : State) : Outcome State Fault Refusal :=
  let _ := (d, a, b)
  .next (padStore (tyWidth t.toNat / 8) (tyWidth t.toNat / 8) s.wHead.d.toNat s.wEa s)

def execWStx (d a b : BitVec 6) (s : State) : Outcome State Fault Refusal :=
  let _ := (d, a, b)
  .next (padStore 256 8 s.wHead.d.toNat s.wEa s)

/-- The address of a base form was computed when the fixed group issued the bundle, with its post-increment (R129). -/
def execWSti (j : BitVec 3) (p : BitVec 1) (o : BitVec 11) (d : BitVec 6) (s : State) : Outcome State Fault Refusal :=
  let _ := (j, d)
  .next (if s.wHead.q then padStore 256 8 s.wHead.d.toNat (eaBase s.wHead.base 0 p o 256) s else wPop s)

def execWStst (d a b : BitVec 6) (t : BitVec 5) (s : State) : Outcome State Fault Refusal :=
  let _ := (d, a, b)
  let n := tyWidth t.toNat / 8
  let offs := (List.range (256 / n)).map (fun i => (i, padOff (strideEa s.wA s.wB i)))
  .next (slotStore (offs.all (fun o => o.2 % n = 0)) s.wA s.wHead.d
    ((offs.map (fun o => padBytes s o.2 (s.wHead.d.toNat / 2 ^ (8 * n * o.1)) n)).flatten) s)

def execWStsc (d a b : BitVec 6) (t : BitVec 5) (s : State) : Outcome State Fault Refusal :=
  let _ := (d, a, b)
  .next (padStore 256 8 (fillNat (tyWidth t.toNat) s.wHead.d) s.wEa s)

def execWStm (m : BitVec 4) (a b : BitVec 6) (s : State) : Outcome State Fault Refusal :=
  let _ := (m, a, b)
  .next (padStore 32 8 s.wHead.mask.toNat s.wEa s)

def execWStacc (d a b : BitVec 6) (x : BitVec 1) (s : State) : Outcome State Fault Refusal :=
  let _ := (d, a, b)
  let v := s.wHead.d.toNat
  .next (if x = 1 then
      (if wideHeld s.me then
        slotStore (accWideOff s.wEa % 8 = 0) s.wEa s.wHead.d
          (bytesOf v 256 (fun i => accQuad s.myQuad + (accWideOff s.wEa + i) % 2 ^ 22)) s
      else wStoreTrap s cNOT_WIDE 0 s.wHead.d)
    else
      slotStore (accOff s.wEa % 8 = 0) s.wEa s.wHead.d
        (bytesOf v 256 (fun i => accOf s.cur.toNat + (accOff s.wEa + i) % 2 ^ 20)) s)

end Sys2Proof.Machine
end

