-- ==== Sys2Proof/Machine/Scale.lean ====
section
/-! DEFINITION. The K slot: scale registers (R127, R152 to R154). -/

namespace Sys2Proof.Machine

open Host (Outcome)

/-- Trap MISALIGNED of the K slot where the test fails. -/
def alignedK (ok : Bool) (ea : Word) (s : State) (k : State → State) : State :=
  if ok then k s else fixedTrap s cMISALIGNED ea .K

/-- Load n bytes at ea into scale register k from bit lo on, of latency 5. -/
def scaleLoad (k : BitVec 3) (lo n : Nat) (ea : Word) (s : State) : State :=
  alignedK (padOff ea % 8 = 0) ea s (fun s =>
    (s.result .K 5 (.scale k.toNat lo (8 * n)) (natVec (slotRead s (padAddrs s.cur.toNat (padOff ea) n)))).refresh)

/-- The scale word of an E8M0 byte (R153). -/
def mxWord (t x : Nat) : Nat :=
  if x = 0xFF then scaleWord 0 0 false true
  else scaleWord x (match t with | 25 => 0x4000 | 26 => 0x1000 | _ => 0x0800) false false

def execKNop (s : State) : Outcome State Fault Refusal := .next s

def execKLd (k : BitVec 3) (a b : BitVec 6) (s : State) : Outcome State Fault Refusal :=
  .next (scaleLoad k 0 256 (s.bridge a + s.bridge b) s)

def execKLdi (j k : BitVec 3) (p : BitVec 1) (o : BitVec 11) (x : BitVec 6) (s : State) : Outcome State Fault Refusal :=
  .next (if s.stage j then
      incAfter s j p o 256 (scaleLoad k 0 256 (eaBase (s.base j) (s.bridge x) p o 256) s)
    else s)

def execKLdh (k : BitVec 3) (a b : BitVec 6) (h : BitVec 1) (s : State) : Outcome State Fault Refusal :=
  .next (scaleLoad k (if h = 1 then 1024 else 0) 128 (s.bridge a + s.bridge b) s)

def execKSet (k : BitVec 3) (a b : BitVec 6) (s : State) : Outcome State Fault Refusal :=
  .next (s.result .K 2 (.scale k.toNat (32 * bitsN (s.bridge b).toNat 0 6) 32) (wordVec (s.bridge a)))

def execKMov (c k : BitVec 3) (s : State) : Outcome State Fault Refusal :=
  .next (s.result .K 2 (.scale k.toNat 0 2048) (vget s.regs.scale c.toNat 0))

def execKLdmx (k : BitVec 3) (a b : BitVec 6) (t : BitVec 5) (s : State) : Outcome State Fault Refusal :=
  let ea := s.bridge a + s.bridge b
  .next ((s.result .K 5 (.scale k.toNat 0 2048) (ofWords ((List.range 64).map (fun i =>
    mxWord t.toNat (slotRead s (padAddrs s.cur.toNat (padOff ea + i) 1)))))).refresh)
where
  ofWords (l : List Nat) : Vec := natVec (l.foldr (fun e acc => e + 2 ^ 32 * acc) 0)

def execKSt (k : BitVec 3) (a b : BitVec 6) (s : State) : Outcome State Fault Refusal :=
  let ea := s.bridge a + s.bridge b
  .next (alignedK (padOff ea % 8 = 0) ea s (fun s =>
    landNow (padBytes s (padOff ea) (vget s.regs.scale k.toNat 0).toNat 256) s))

def execKRot (k : BitVec 3) (b : BitVec 6) (s : State) : Outcome State Fault Refusal :=
  let o := (vget s.regs.scale k.toNat 0).toNat
  .next (s.result .K 2 (.scale k.toNat 0 2048) (natVec ((List.range 64).foldr (fun i acc =>
    bitsN o (32 * ((i + (s.bridge b).toNat) % 64)) 32 + 2 ^ 32 * acc) 0)))

def execKClr (k : BitVec 3) (s : State) : Outcome State Fault Refusal :=
  .next (s.result .K 2 (.scale k.toNat 0 2048) (natVec ((List.range 64).foldr (fun _ acc => 0x01000000 + 2 ^ 32 * acc) 0)))

end Sys2Proof.Machine
end

