-- ==== Sys2Proof/Machine/Control.lean ====
section
/-! DEFINITION. The C slot: control transfer, modulo loops, banks, waits and task end (R89 to R104, R192, R268, R293, R341,
R348). A C syllable acts last in its bundle, after the bundle's post-increments (R94). -/

namespace Sys2Proof.Machine

open Host (Outcome)

/-- A mask as the C slot sees it (R90). -/
def cMask (s : State) (m : BitVec 4) : Mask := s.mask .C m

/-- The code pointer of landing l of the page at head + pd (R92). -/
def directPtr (s : State) (p : BitVec 15) (l : BitVec 5) : Word :=
  BitVec.ofNat 64 (wrapN ((s.pipe.span.head : Int) + p.toInt) 48 * 2 ^ 12 + l.toNat)

/-- Later bundles of the slot queues are discarded (R90, R100). -/
def dropLater (p : Pipe) : Pipe :=
  { p with
    bq := p.bq.take 1
    wq := p.wq.filter (fun e => e.bn ≤ p.bn)
    fq := p.fq.filter (fun e => e.bn ≤ p.bn)
    gap := 0
    stop := none }

/-- A taken transfer: the core settles and then enters the target (R90). -/
def transfer (s : State) (ptr : Word) (link : Option Word) : State :=
  let at' := s.bundleAt
  s.modPipe (fun p => { dropLater p with target := some ⟨ptr, false⟩, link := link, tbun := at', refill := 3 })

/-- A transfer to a landing of the transferring bundle's head page, if taken. -/
def branchIf (taken : Bool) (p : BitVec 15) (l : BitVec 5) (s : State) : State :=
  if taken then transfer s (directPtr s p l) none else s

/-- The return pointer of a call: landing x of the head page (R92). -/
def linkPtr (s : State) (x : BitVec 5) : Word := BitVec.ofNat 64 (s.pipe.span.head * 2 ^ 12 + x.toNat)

/-- An indirect transfer: a pointer with bits [63:60] not 0 traps BAD_TARGET (R93). -/
def jumpTo (ptr : Word) (link : Option Word) (s : State) : State :=
  if bitsN ptr.toNat 60 4 = 0 then transfer s ptr link else fixedTrap s cBAD_TARGET ptr .C

def execCNop (s : State) : Outcome State Fault Refusal := .next s
def execCBr (m : BitVec 4) (p : BitVec 15) (l : BitVec 5) (s : State) : Outcome State Fault Refusal :=
  .next (branchIf ((cMask s m).getLsbD 0) p l s)
def execCBrn (m : BitVec 4) (p : BitVec 15) (l : BitVec 5) (s : State) : Outcome State Fault Refusal :=
  .next (branchIf (!(cMask s m).getLsbD 0) p l s)
def execCBrany (m : BitVec 4) (p : BitVec 15) (l : BitVec 5) (s : State) : Outcome State Fault Refusal :=
  .next (branchIf (cMask s m ≠ 0) p l s)
def execCBrall (m : BitVec 4) (p : BitVec 15) (l : BitVec 5) (s : State) : Outcome State Fault Refusal :=
  .next (branchIf (cMask s m = BitVec.allOnes 256) p l s)
def execCJmp (p : BitVec 15) (l : BitVec 5) (s : State) : Outcome State Fault Refusal :=
  .next (branchIf true p l s)
def execCJmpi (a : BitVec 6) (s : State) : Outcome State Fault Refusal := .next (jumpTo (s.bridge a) none s)
def execCCall (x : BitVec 5) (p : BitVec 15) (l : BitVec 5) (s : State) : Outcome State Fault Refusal :=
  .next (transfer s (directPtr s p l) (some (linkPtr s x)))
def execCCalli (x : BitVec 5) (a : BitVec 6) (s : State) : Outcome State Fault Refusal :=
  .next (jumpTo (s.bridge a) (some (linkPtr s x)) s)
def execCRet (a : BitVec 6) (s : State) : Outcome State Fault Refusal := .next (jumpTo (s.bridge a) none s)

/-! ## Modulo loops (R94, R95) -/

def State.modLoop (s : State) (f : LoopState → LoopState) : State := s.modRegs (fun r => { r with loop := f r.loop })

/-- rotate(v) of R95. -/
def rotate (v : Bool) (l : LoopState) : LoopState :=
  let old := l.b
  let shifted := (List.range 7).foldl (fun b j => vset b (j + 1) (vget old j 0)) old
  { l with
    q := l.q <<< 1 ||| (if v then 1 else 0)
    b := vset shifted 0 (vget old 0 0 + l.loops) }

/-- loopi and qset of R95. -/
def loopStart (n : BitVec 32) (e : BitVec 3) (l : LoopState) : LoopState :=
  { l with loopc := n, loope := e, q := if n = 0 then 0 else 1 }

def execCLoop (l : BitVec 5) (s : State) : Outcome State Fault Refusal :=
  let x := s.regs.loop
  .next (if 1 < x.loopc.toNat then
      transfer (s.modLoop (fun y => rotate true { y with loopc := y.loopc - 1 })) (linkPtr s l) none
    else if x.loope ≠ 0 then
      transfer (s.modLoop (fun y => rotate false { y with loopc := 0, loope := y.loope - 1 })) (linkPtr s l) none
    else s.modLoop (fun y => { y with loopc := 0, q := 0xFF }))

def execCLoopi (e : BitVec 3) (n : BitVec 16) (s : State) : Outcome State Fault Refusal :=
  .next (s.modLoop (loopStart (n.setWidth 32) e))
def execCQset (e : BitVec 3) (a : BitVec 6) (s : State) : Outcome State Fault Refusal :=
  .next (s.modLoop (loopStart ((s.bridge a).setWidth 32) e))
def execCBset (j : BitVec 3) (c : BitVec 12) (a : BitVec 6) (s : State) : Outcome State Fault Refusal :=
  .next (s.modLoop (fun l =>
    { l with b := vset l.b j.toNat (s.bridge a), loops := if j = 0 then c.signExtend 64 else l.loops }))
def execCRot (n : BitVec 1) (s : State) : Outcome State Fault Refusal := .next (s.modLoop (rotate (n = 1)))

/-! ## Banks and regions (R96, R97) -/

def Flight.inBank (f : Flight) (k : Nat) : Bool :=
  match f.tgt with
  | .vreg r => r / 10 = k
  | _ => false

def ownerOf (o : BitVec 2) : Owner := match o.toNat with | 0 => .va | 1 => .vb | _ => .f

def execCLend (k o : BitVec 2) (s : State) : Outcome State Fault Refusal :=
  .next (if vget s.regs.vec.banks k.toNat .f = ownerOf o then s
    else if s.pipe.flight.any (fun f => f.inBank k.toNat) then
      fixedTrap s cBANK_BUSY (BitVec.ofNat 64 k.toNat) .C
    else s.modRegs (fun r => { r with vec := { r.vec with banks := vset r.vec.banks k.toNat (ownerOf o) } }))

def pushRegion (i : BitVec 16) (r : Region) : Region :=
  if r.ids.length < 16 then { r with ids := i :: r.ids }
  else { r with ids := (i :: r.ids).take 16, isOver := true }

def popRegion (i : BitVec 16) (r : Region) : Region :=
  match r.ids with
  | [] => { r with isUnder := true }
  | t :: l => { r with ids := l, isMism := r.isMism || t ≠ i }

def State.modRegion (s : State) (f : Region → Region) : State := s.modRegs (fun r => { r with region := f r.region })

/-- The trace source of an enter on the core that a die's trace watches (R389). -/
def enterSource (s : State) (i : BitVec 16) : State :=
  traceSource s (s.cur.toNat / 64) 3 (fun t a => t.tcore.toNat = s.cur.toNat % 64 && a.setWidth 16 = i)

/-- The address where execution continues after the bundle now issuing, or after the one whose trap waits. -/
def State.nextBundle (s : State) : Word :=
  match s.pipe.after with
  | some b => b.next
  | none =>
    match s.pipe.bq with
    | b :: _ => b.next
    | [] => s.pipe.pc

/-- A pending halt request takes effect after the bundle with a region edge (R384). -/
def haltAtEdge (s : State) : State := if s.me.halt.req then haltBefore s s.cur.toNat s.nextBundle else s

def execCEnter (i : BitVec 16) (s : State) : Outcome State Fault Refusal :=
  .next (haltAtEdge (enterSource (regionEdge (s.modRegion (pushRegion i)) 2) i))
/-- A leave at depth 0 pops nothing and is no region edge. -/
def execCLeave (i : BitVec 16) (s : State) : Outcome State Fault Refusal :=
  .next (if s.regs.region.ids.isEmpty then s.modRegion (popRegion i)
    else haltAtEdge (regionEdge (s.modRegion (popRegion i)) 3))

/-! ## Traps by software (R101) -/

/-- A trap taken after its bundle: TBUNDLE names the next bundle (R101, R263). -/
def afterTrap (s : State) (cause : Nat) (c : BitVec 12) : State :=
  takeTrap s cause (c.setWidth 64) 1 s.nextBundle false false

def execCTrap (c : BitVec 12) (s : State) : Outcome State Fault Refusal := .next (afterTrap s cSWTRAP c)

def execCBrk (c : BitVec 12) (s : State) : Outcome State Fault Refusal :=
  .next (if (s.dbgOf (s.cur.toNat / 64)).brk then haltCore s s.cur.toNat else afterTrap s cBREAK c)

/-! ## The outrider's C instructions (R102, R268) -/

/-- A C instruction of the outrider alone. -/
def privileged (s : State) (k : State → State) : State :=
  if s.me.outrider then k s else fixedTrap s cPRIVILEGE 0 .C

def execCAck (s : State) : Outcome State Fault Refusal :=
  .next (privileged s (fun s => s.modRegs (fun r =>
    { r with trap := { r.trap with tstatus := r.trap.tstatus ||| 2 } })))

def execCEscal (s : State) : Outcome State Fault Refusal :=
  .next (privileged s (fun s =>
    ((s.record (trapRecord s 1 0 0)).modPipe (fun p =>
      { dropLater p with pc := s.nextBundle })).modRegs (fun r => { r with out := .escal })))

/-- Discard the unissued syllables of the trapped bundle and of every later one (R268). A W syllable whose bundle the fixed group
has not issued is withdrawn (R264). -/
def dropFrom (behind : Option Nat) (x : Pipe) : Pipe :=
  let p := x.withdraw
  let k := behind.getD p.bn
  { p with
    bq := p.bq.take (k - (p.bn + p.gap))
    wq := p.wq.filter (fun e => e.bn < k)
    fq := p.fq.filter (fun e => e.bn < k)
    gap := if k < p.bn + p.gap then k - p.bn else p.gap
    fn := if p.bn < k then p.fn else if p.bn < p.fn then p.bn else p.fn
    after := if k < p.bn then none else p.after
    stop := none }

/-- A request of the load queue that is a load of its own, with a number. -/
def Req.isLoad (k : Nat) (r : Req LdOp) : Bool := r.id = k && (match r.op with | .partner _ => false | _ => true)

/-- A parked access that trapped leaves its queue: as a load it is found by `f`, which says what becomes of its entry. -/
def Pipe.endParked (f : Req LdOp → LdqEntry → Option LdqEntry) (parked : Option (Bool × Nat)) (p : Pipe) : Pipe :=
  match parked with
  | some (true, k) => { p with
      sq := p.sq.eraseP (fun y => y.id = k)
      lq := p.lq.filter (fun y => y.op ≠ .partner k) }
  | some (false, k) =>
    (match p.lq.find? (Req.isLoad k) with
    | some x => { p with
        lq := p.lq.eraseP (Req.isLoad k)
        ldq := p.ldq.filterMap (fun e => if some e.id = x.entry then f x e else some e) }
    | none => p)
  | none => p

/-- The emulated effect of a parked access that trapped: a load delivers TDBUF as its entry, a store does nothing. -/
def emulParked (r : CoreRegs) : Pipe :=
  r.task.endParked (fun x e => some { e with got := true, val := deliver (emulHow x.how) r.trap.tdbuf.toNat }) r.trap.parked

/-- A parked access that trapped issues again: it walks when its pipelines next run. -/
def againParked (r : CoreRegs) : Pipe :=
  match r.trap.parked with
  | some (true, k) => { r.task with sq := r.task.sq.map (fun y => if y.id = k then { y with again := true } else y) }
  | some (false, k) => { r.task with lq := r.task.lq.map (fun y => if y.isLoad k then { y with again := true } else y) }
  | none => r.task


/-- A cause taken after its bundle goes on at TBUNDLE: where the task stands, unless the routine has written another address there
(R268; log entry 105). -/
def afterCause (r : CoreRegs) : Pipe :=
  let t := r.trap
  let p := r.task
  if (t.tcause = BitVec.ofNat 8 cSWTRAP || t.tcause = BitVec.ofNat 8 cBREAK) && p.target.isNone && t.tbundle ≠ p.nextAddr then
    { p with
      bq := [], gap := 0, stop := none
      wq := p.wq.filter (fun e => e.bn < p.bn)
      fq := p.fq.filter (fun e => e.bn < p.bn)
      target := some ⟨t.tbundle, true⟩ }
  else p

/-- A redirection discards the syllables from bundle k on: what they have reported is forgotten (R387). -/
def Core.forgetWatch (redir : Bool) (k : Nat) (c : Core) : Core :=
  if redir then { c with watch := { c.watch with reported := c.watch.reported.filter (fun r => r.1 < k) } } else c

/-- The end of a fault routine: the task continues as TSTATUS says and the held clock is released (R268). -/
def resumeTask (s : State) : State :=
  let t := s.regs.trap
  (s.modMe (Core.forgetWatch (t.tstatus.getLsbD 3) (t.behind.getD s.regs.task.bn))).modRegs (fun r =>
    { r with
      out := .off
      trap := { t with tstatus := 0, behind := none, syl := none, parked := none }
      emul := if t.tstatus.getLsbD 3 then (if (dropFrom t.behind r.task).wq.isEmpty then [] else r.emul.filter (fun x => x = 5))
        else if t.tstatus.getLsbD 2 then t.syl.toList ++ r.emul
        else r.emul
      task := if t.tstatus.getLsbD 3 then
          { (dropFrom t.behind r.task).endParked (fun _ _ => none) t.parked with
            target := some ⟨t.ttarget, false⟩
            link := none
            tbun := t.tbundle
            refill := 3 }
        else if t.tstatus.getLsbD 2 && t.parked.isSome then emulParked r
        else if t.parked.isSome then againParked r
        else afterCause r })

/-- Every access of the outrider is performed. -/
def Pipe.quiet (p : Pipe) : Bool := p.lq.isEmpty && p.sq.isEmpty

def execCKick (s : State) : Outcome State Fault Refusal :=
  .next (if s.regs.lim.kok then s.modRegs (fun r => { r with lim := { r.lim with wdcnt := 0 } }) else s)

def execCGap (n : BitVec 6) (s : State) : Outcome State Fault Refusal :=
  .next (s.modPipe (fun p => { p.insert (p.bn + 1) n.toNat with gap := n.toNat }))

/-! ## Waits (R98, R192, R348) -/

/-- mwait holds until the mail register is full, and has no other effect (R98). -/
def mailReady (s : State) (m : BitVec 2) : Bool := (vget s.me.mail m.toNat ⟨0, false⟩).full

/-- The wait is over: the count of held cycles is dropped. -/
def endHold (s : State) : State := s.modRegs (fun r => { r with hold := none })

def execCMwait (m : BitVec 2) (l : BitVec 16) (s : State) : Outcome State Fault Refusal :=
  let _ := l
  .next (if mailReady s m then endHold s else s.holdNow)

def tokenSt (s : State) (t : Nat) : TokState := (vget s.regs.tok t Token.reset).st

/-- The tokens of a mask in a given condition, as a mask (R192). -/
def tokenMask (s : State) (mask : Word) (f : TokState → Bool) : Word :=
  BitVec.ofNat 64 (ofBits ((List.range 64).map (fun t => mask.getLsbD t && f (tokenSt s t))))

def tokenReady (t : TokState) : Bool := t = .ready

/-- A token wait: failed tokens trap, all ready goes on, else it holds (R192). -/
def tokenWait (mask : Word) (s : State) : State :=
  let bad := tokenMask s mask (fun t => t = .failed)
  if bad ≠ 0 then fixedTrap s cTOKEN_FAIL bad .C
  else if tokenMask s mask (fun t => !tokenReady t) = 0 then endHold s
  else s.holdNow

def oneToken (t : BitVec 6) : Word := 1 <<< t.toNat

def execCTkwait (l : BitVec 16) (t : BitVec 6) (s : State) : Outcome State Fault Refusal :=
  let _ := l
  .next (tokenWait (oneToken t) s)
def execCTkall (l : BitVec 16) (a : BitVec 6) (s : State) : Outcome State Fault Refusal :=
  let _ := l
  .next (tokenWait (s.bridge a) s)

/-- tkclr: each named token that is ready or failed becomes held (R191). -/
def clearToken (mask : Word) (r : Vector Token 64) (t : Nat) : Vector Token 64 :=
  let x := vget r t Token.reset
  if mask.getLsbD t && (x.st = .ready || x.st = .failed) then vset r t { x with st := .held } else r

def execCTkclr (a : BitVec 6) (s : State) : Outcome State Fault Refusal :=
  .next (s.modRegs (fun r => { r with tok := (List.range 64).foldl (clearToken (s.bridge a)) r.tok }))

/-! ## Barriers at the core (R348) -/

def arrEntry (s : State) (j : BitVec 4) : ArrEntry := vget s.regs.arr j.toNat ArrEntry.reset

/-- TADDR of a barrier trap: the name, with the reason in [23:20]. -/
def barrierAddr (e : ArrEntry) (reason : Nat) : Word := BitVec.ofNat 64 (e.name + 2 ^ 20 * reason)

/-- The phase that the arrival took has completed, as known at this core. -/
def arrDone (e : ArrEntry) : Bool :=
  match e.taken with
  | none => false
  | some p =>
    let k := ((e.seen + 2 ^ 32 - p) % 2 ^ 32)
    1 ≤ k && k ≤ 2 ^ 31

/-- The faults of an entry that is empty or refused. -/
def arrFault (e : ArrEntry) : Option Nat := if !e.armed then some 7 else e.refused

/-- A completed wait acts as an acquire: the L1 is emptied before the next global access issues (R236, R348). -/
def acquireL1 (s : State) : State := s.modMe (fun c => { c with cache := { c.cache with acq := true } })

/-- The end of a wait is traced and recorded by the monitors (R390, R393). -/
def bwaitEnd (s : State) (e : ArrEntry) : State :=
  let cyc := match s.regs.hold with | some h => h.cycles | none => 0
  endHold (monRecord (traceRecord (acquireL1 s) s.cur.toNat 6 s.nextBundle (BitVec.ofNat 64 e.name))
    (s.cur.toNat / 64) 6 s.regs.id.tag (s.cur.toNat % 64) cyc)

def execCBwait (l : BitVec 16) (j : BitVec 4) (s : State) : Outcome State Fault Refusal :=
  let _ := l
  let e := arrEntry s j
  .next (match arrFault e with
    | some r => fixedTrap s cBARRIER_FAIL (barrierAddr e r) .C
    | none =>
      if arrDone e then bwaitEnd s e
      else match e.fail with
        | some r => fixedTrap s cBARRIER_FAIL (barrierAddr e r) .C
        | none => s.holdNow)

def execCBtest (j : BitVec 4) (p : BitVec 15) (l : BitVec 5) (s : State) : Outcome State Fault Refusal :=
  let e := arrEntry s j
  .next (match arrFault e with
    | some r => fixedTrap s cBARRIER_FAIL (barrierAddr e r) .C
    | none => if arrDone e then branchIf true p l (acquireL1 s) else s)

/-! ## Instruction-cache order (R293) -/

/-- Requests of the store queues of the core, the outrider's and its task's, are still to be performed. A parked access that has
trapped is not among them: it is done again, or emulated, after the routine (R268). -/
def storesOut (r : CoreRegs) : Bool :=
  r.task.sq.any (fun x => some (true, x.id) ≠ r.trap.parked) || !r.outr.sq.isEmpty

def execCIfence (a : BitVec 6) (s : State) : Outcome State Fault Refusal :=
  let page := bitsN (s.bridge a).toNat 12 48
  let keepLine := fun (i : ILine) => a ≠ 56 && i.vline / 32 ≠ page
  let keepLeaf := fun (l : Leaf) => a ≠ 56 && !(l.vpn ≤ page && page < l.vpn + 2 ^ l.size)
  .next (if !storesOut s.regs then
      (dropFetches s.cur.toNat s).modMe (fun c => { c with cache := { c.cache with
        icache := c.cache.icache.filter keepLine, ctlb := c.cache.ctlb.filter keepLeaf } })
    else s.holdNow)

end Sys2Proof.Machine
end

