-- ==== Sys2Proof/Machine/Unit.lean ====
section
/-! DEFINITION. Memory as the units outside the cores reach it: physical bytes, the notes a write leaves at a line, and
translation by engines, dispatchers and the rescheduler (R23, R201, R242, R243, R261, R311, R372, R379). -/

namespace Sys2Proof.Machine

/-! ## Mail registers through the physical map (R23) -/

/-- Byte i of a mail record: value, full, zeros. -/
def mailByte (s : State) (o : Nat) : Byte :=
  let x := vget (s.core (o / 64)).mail (o % 64 / 16) ⟨0, false⟩
  if o % 16 < 8 then BitVec.ofNat 8 (field x.value (8 * (o % 16)) 8)
  else if o % 16 = 8 then (if x.full then 1 else 0)
  else 0

/-- Replace byte i of a word. -/
def putByte (x : Word) (i : Nat) (b : Byte) : Word :=
  BitVec.ofNat 64 (x.toNat - field x (8 * i) 8 * 2 ^ (8 * i) + b.toNat * 2 ^ (8 * i))

/-- A byte written at offset o of the mail block: bytes 8 to 15 of a record ignore it. -/
def mailPut (o : Nat) (b : Byte) (s : State) : State :=
  if o % 16 < 8 then
    s.modCore (o / 64) (fun c =>
      let x := vget c.mail (o % 64 / 16) ⟨0, false⟩
      { c with mail := vset c.mail (o % 64 / 16) ⟨putByte x.value (o % 16) b, true⟩ })
  else s

/-- A whole value is written to mail register m of core n. -/
def mailSet (n m : Nat) (v : Word) (s : State) : State :=
  s.modCore n (fun c => { c with mail := vset c.mail m ⟨v, true⟩ })

/-- The end of a cycle of core n: the old values of atomics reach its mail registers, then the value of a `cscnt` (R62). -/
def landMail (n : Nat) (s : State) : State :=
  ((s.core n).olds.foldl (fun s e => mailSet n (e.1 % 4) e.2 s) s).modCore n (fun c => { c with olds := [] })

/-- Module time in ns since the last module reset (R310, R316). -/
def State.ns (s : State) : Nat := (s.now - s.boot.since) / 1000

/-! ## Physical bytes -/

/-- The byte at a physical address for an access with tag t; memory of another module answers with a free value, numbered by k
and the address (log entry 6). -/
def memByte (s : State) (k t pa : Nat) : Byte :=
  if (podOf s pa).isSome then (Config.freeVec (k + pa)).setWidth 8
  else if isMail pa then mailByte s (pa - mailBase)
  else readByteAs s t pa

def memRead (s : State) (t pa : Nat) (n : Nat) : Nat :=
  leNat ((List.range n).map (fun i => memByte s s.fresh t (pa + i)))

/-- The byte for a channel or a dispatcher: of another module, as the home answered it. -/
def unitByte (s : State) (u t pa : Nat) : Byte :=
  match (if (podOf s pa).isSome then farAnswer s u (pa / 128) false else none) with
  | some f => BitVec.ofNat 8 (field (Config.flitData f) (8 * (pa % 128)) 8)
  | none => memByte s s.fresh t pa

/-- Insert into a list of numbers without repeats. -/
def addNat (x : Nat) (l : List Nat) : List Nat := if l.contains x then l else l ++ [x]

/-- The dirty lines of the module after a write to one: a home slice holds at most 6 MiB, and writes another line back for it
(R20). -/
def noteDirty (line : Nat) (s : State) : List Nat :=
  let l := (s.dirty.filter (fun x => homeOf (128 * x) = homeOf (128 * line))).filter (fun x => x ≠ line)
  addNat line (if 49152 ≤ l.length then s.dirty.filter (fun x => some x ≠ l[victim s % l.length]?) else s.dirty)

/-- A command for the line has succeeded: its alerts count no more (R377). -/
def quietLine (line : Nat) (f : Flash) : Flash :=
  if f.alerts.isEmpty then f else { f with alerts := f.alerts.filter (fun e => e.2.1 ≠ line) }

/-- What a write with tag t leaves at its line: the last writer, a dirty line in its home slice, the presence bit of its
pseudo-channel (R372, R379). -/
def noteLine (t line : Nat) (s : State) : State :=
  let pa := line * 128
  if inMemory pa && (podOf s pa).isNone then
    let key := (pcOf pa, t)
    { s with
      writer := fset s.writer line t
      dirty := noteDirty line s
      flash := quietLine line (if pa < hbmEnd && !s.flash.presence.contains key
        then { s.flash with presence := s.flash.presence ++ [key] } else s.flash) }
  else s

/-- Write bytes with tag t, wherever they lie. -/
def memWrite (t : Nat) (l : List (Nat × Byte)) (s : State) : State :=
  let lines := (l.map (fun e => e.1 / 128)).eraseDups
  let s1 := l.foldl (fun s e =>
    if (podOf s e.1).isSome then s
    else if isMail e.1 then mailPut (e.1 - mailBase) e.2 s
    else writeByteAs s t e.1 e.2) s
  lines.foldl (fun s n => noteLine t n s) s1

/-- Lines all of whose bytes are written are no longer poisoned (R372). -/
def cleanLines (l : List Nat) (s : State) : State := { s with poison := s.poison.filter (fun x => !l.contains x) }

/-! ## Translation by a unit (R201, R242, R243, R375) -/

/-- What a unit's access meets at one address. -/
inductive ULook where
  | ok (pa : Nat)
  | park (entry : Nat)
  /-- a fault, by the trap cause it would have at a core; `poison` is apart -/
  | fault (cause : Nat)
  | poison
  deriving DecidableEq, Repr

/-- Cached leaves that permit the access, else a walk from the root (R243). The leaf of a walk is given, to be cached. -/
def unitLeaf (s : State) (tlb : List Leaf) (tag kind va : Nat) : Option Leaf × ULook :=
  if 2 ^ 60 ≤ va then (none, .fault cBAD_VA)
  else match tlb.find? (fun l => l.hits tag va && kindOk l.entry kind) with
    | some l => (none, .ok (l.pa va))
    | none =>
      match walkRes tag va kind (walkRoot s tag va) with
      | none => (none, .poison)
      | some (.trap c) => (none, .fault c)
      | some (.park e) => (none, .park e)
      | some (.leaf l) => (some l, .ok (l.pa va))

/-- The check of one physical address for a master class: bit is 0 for r and 1 for w (R24, R375); a granule of another tag is a
fault too (R261). -/
def unitCheck (s : State) (tag cls bit : Nat) (x : ULook) : ULook :=
  match x with
  | .ok pa =>
    if reservedPa s pa then .fault cBAD_PA
    else if !accessOk s tag cls bit pa || !padAllowed s tag pa then .fault cXLAT_PERM
    else .ok pa
  | y => y

def unitLook (s : State) (tlb : List Leaf) (tag cls kind va : Nat) : ULook :=
  unitCheck s tag cls kind (unitLeaf s tlb tag kind va).2

/-- The aligned parts of sz bytes that n bytes from va on touch, by their first byte: pages, granules or lines. -/
def rangeParts (sz va n : Nat) : List Nat :=
  if n = 0 then []
  else (List.range ((va + n - 1) / sz - va / sz + 1)).map (fun i => if i = 0 then va else (va / sz + i) * sz)

/-- Enter the leaves that an access walked in a unit's TLB of cap entries. -/
def enterUnit (s : State) (cap : Nat) (tlb : List Leaf) (tag kind : Nat) (vas : List Nat) : List Leaf :=
  vas.foldl (fun t va =>
    match (unitLeaf s t tag kind va).1 with
    | some l => cacheIn cap (victim s) l t
    | none => t) tlb

/-- Post the page request of a park on entry e by a copy engine (cause 6) or a dispatcher (cause 7): it goes to the mailbox of
quad 0 of the die (R249; log entry 12); none for a rescheduling entry (R283). A dispatcher that waits for a line of another module
asks for it. -/
def postUnit (die cause tag va e : Nat) (s : State) : State :=
  match farMark e with
  | some (u, line, wr) => farAsk u tag wr [line] s
  | none => postPark (die * 16) (tableEntry s e) ⟨va / 4096, cause, tag, die * 64⟩ s

end Sys2Proof.Machine
end

