-- ==== Sys2Proof/Machine/Barrier.lean ====
section
/-! DEFINITION. Barriers at their homes, the arrive aperture, and news of barriers at the cores (R342 to R351). -/

namespace Sys2Proof.Machine

open Host (Outcome)

/-! ## Names (R342, R343) -/

/-- The record index of the barrier a name word names, if it names one. -/
def barrierIndex (name : Nat) : Option Nat :=
  let n := bitsN name 0 8
  let scope := bitsN name 8 3
  let inst := bitsN name 11 9
  if scope = 1 ∧ n < 64 then some (inst * 64 + n)
  else if scope = 2 ∧ inst < 32 then some (32768 + inst * 256 + n)
  else if scope = 3 ∧ inst = 0 then some (40960 + n)
  else if scope = 4 ∧ n < 64 ∧ inst = 0 then some (41216 + n)
  else none

/-- The name word of record b. -/
def nameOfBarrier (b : Nat) : Nat :=
  if b < 32768 then b % 64 + 2 ^ 8 + 2 ^ 11 * (b / 64)
  else if b < 40960 then (b - 32768) % 256 + 2 * 2 ^ 8 + 2 ^ 11 * ((b - 32768) / 256)
  else if b < 41216 then b - 40960 + 3 * 2 ^ 8
  else (b - 41216) % 64 + 4 * 2 ^ 8

def State.bar (s : State) (b : Nat) : Barrier := fget Barrier.reset s.bars b
def State.modBar (s : State) (b : Nat) (f : Barrier → Barrier) : State := { s with bars := fset s.bars b (f (s.bar b)) }

/-- A pod barrier that lives on another module (R342). -/
def farBar (s : State) (name : Nat) : Bool := bitsN name 8 3 = 4 && s.podmod ≠ 0 && (barrierIndex name).isSome

/-- What is known here of a pod barrier of another module. -/
def podView (s : State) (name : Nat) : PodView := fget PodView.reset s.podseen name
def setView (name : Nat) (x : PodView) (s : State) : State := { s with podseen := fset s.podseen name x }

/-- The phase of a barrier, and the reason if it is off or failed, as known on this module; none for no barrier. -/
def seenBar (s : State) (name : Nat) : Option (Nat × Option Nat) :=
  (barrierIndex name).map (fun b =>
    if farBar s name then ((podView s name).phase, (podView s name).fail)
    else ((s.bar b).phase.toNat, if !(s.bar b).on then some 5 else if (s.bar b).fail then some 6 else none))

/-! ## Counting and completion (R344, R345) -/

/-- The name by which a barrier here is bound to a node of another module: handles have 37 bits (R323). -/
def farNode (m h : Nat) : Nat := h % 2 ^ 37 + 2 ^ 37 * (m + 1)

/-- expected (R345). -/
def barExpected (s : State) (x : Barrier) : Nat :=
  if x.gm then
    match x.node with
    | some h => (if h < 2 ^ 37 then (s.node h).tasks - (s.node h).left else x.members) + x.cnt.toNat
    | none => x.cnt.toNat
  else x.cnt.toNat

/-- BLAST of an event from module m, and from this one. -/
def blastOf (m src core rtop : Nat) : Word := BitVec.ofNat 64 (core + 2 ^ 11 * m + 2 ^ 19 * src + 2 ^ 22 * rtop)
def blast (s : State) (src core rtop : Nat) : Word := blastOf s.podmod.toNat src core rtop

/-- The core waits in a `c.bwait` for the phase p of the barrier named: the syllable at its aligned point is `bwait` (op 0x18) on
an entry that took that phase. -/
def waitsAt (c : Core) (name p : Nat) : Option Hold :=
  match c.regs.hold, c.regs.task.bq with
  | some h, b :: _ =>
    let e := vget c.regs.arr (bitsN b.bits.toNat 32 4) ArrEntry.reset
    if bitsN b.bits.toNat 57 6 = 0x18 && e.armed && e.name = name && e.taken = some p then some h else none
  | _, _ => none

/-- The longest waiter of a phase; the lowest number among equals (log entry 13). -/
def longestWait (s : State) (name p : Nat) : Option (Nat × Hold) :=
  s.cores.foldl (fun acc x =>
    match waitsAt x.2 name p, acc with
    | some h, none => some (x.1, h)
    | some h, some (n, g) => if g.cycles < h.cycles then some (x.1, h) else some (n, g)
    | none, a => a) none

/-- The cores with an armed entry of a barrier. -/
def barCores (s : State) (name : Nat) : List Nat :=
  (s.cores.filter (fun c =>
    (c.2.regs :: c.2.susp.map (fun x => x.image)).any (fun r => r.arr.toList.any (fun e => e.armed && e.name = name)))).map
    (fun c => c.1)

/-- News to every core with an armed entry. -/
def sendNews (name phase : Nat) (fail : Option Nat) (s : State) : State :=
  { s with news := s.news ++ (barCores s name).map (fun n => ⟨n, name, phase, fail⟩) }

/-- The bytecode waits for a phase of a barrier fail (R346, R349). -/
def failQueues (name phase reason : Nat) (s : State) : State :=
  { s with queues := s.queues.map (fun e =>
      (e.1, if e.2.block = .barrier name phase then { e.2 with block := .failed reason } else e.2)) }

/-- Every wait here for a phase of a barrier is to fail. -/
def failNews (name phase reason : Nat) (s : State) : State := failQueues name phase reason (sendNews name phase (some reason) s)

/-- What a home tells module m of the pod goes there as a completion flit; false where it is lost (R359, R365, log entry 35). -/
def tellModule (name tag m : Nat) (s : State) : Bool × State :=
  let s1 := { s with fresh := s.fresh + 1 }
  match routeFlit (newFlit 0 m s.podmod.toNat tag name 0 7 (Config.freeVec s.fresh)) s1 with
  | some t => (true, t)
  | none => (false, s1)

/-- The modules whose arrivals a pod barrier has handled hear of it; false where one of them does not. -/
def tellMods (b : Nat) (s : State) : Bool × State :=
  (s.bar b).mods.foldl (fun acc m =>
    let (k, t) := tellModule (nameOfBarrier b) (s.bar b).tag m acc.2
    (acc.1 && k, t)) (true, s)

/-- The waits for the current phase fail. -/
def failWaits (b reason : Nat) (s : State) : State :=
  (tellMods b (failNews (nameOfBarrier b) (s.bar b).phase.toNat reason s)).2

/-- A link failure on a path of an open pod barrier: reason 6 (R346). -/
def failBar (b : Nat) (s : State) : State :=
  if 41216 ≤ b && (s.bar b).on && !(s.bar b).fail then
    (failWaits b 6 s).modBar b (fun x => { x with fail := true, reason := 6 })
  else s

/-- A pod barrier fails if what was told of it is lost (R370). -/
def orFail (b : Nat) (x : Bool × State) : State := if x.1 then x.2 else failBar b x.2

/-- BWAIT, BWAITN and BWAITC of the phase that completes: of its longest waiter. For a pod barrier that other modules have arrived
at, the longest waiter may be one of theirs, of which nothing is known here: free values then (R343; log entry 135). -/
def waitWords (s : State) (b : Nat) : Word × Word × Word :=
  let x := s.bar b
  let v := Config.freeVec (s.fresh + 2 ^ 53)
  if !x.mods.isEmpty && v.getLsbD 0 then
    (BitVec.ofNat 64 (field v 64 11 + 2 ^ 11 * x.mods.getD (field v 80 8 % x.mods.length) 0 + 2 ^ 19 * field v 96 16),
     BitVec.ofNat 64 (field v 128 64), BitVec.ofNat 64 (field v 192 64))
  else match longestWait s (nameOfBarrier b) x.phase.toNat with
    | some (n, h) => (BitVec.ofNat 64 (n + 2 ^ 11 * s.podmod.toNat + 2 ^ 19 * h.rtop), BitVec.ofNat 64 h.cycles, h.began)
    | none => (0, 0, 0)

/-- The completion test after an event at a barrier's home: the phase completes, the records are written, the waits end. The
event is described by its BLAST and BLASTC words. -/
def barTest (b : Nat) (last lastC : Word) (s : State) : State :=
  let x := s.bar b
  let name := nameOfBarrier b
  if x.on && !x.fail && barExpected s x ≤ x.arrived then
    let (w, len, began) := waitWords s b
    let y := { x with
      phase := x.phase + 1
      arrived := 0
      last := last
      lastC := lastC
      wait := w
      waitN := len
      waitC := began }
    let s1 := orFail b (tellMods b (sendNews name y.phase.toNat none { s.modBar b (fun _ => y) with fresh := s.fresh + 1 }))
    s1.dbg.foldl (fun s d => traceSource s d.1 6 (fun _ a => bitsN a.toNat 0 20 = name)) s1
  else s

/-- The first reason for which the home refuses an arrival (R350); `away` says of a task of another module whether its group is a
gang. -/
def arrRefused (s : State) (name tag : Nat) (node : Option Nat) (away : Option (Bool × Nat)) : Option Nat :=
  match barrierIndex name with
  | none => some 1
  | some b =>
    let x := s.bar b
    if tag ≠ x.tag then some 4
    else if !x.on then some 5
    else if x.fail then some 6
    else match node with
      | some h =>
        if x.gm && !(match away with | some a => a.1 | none => (s.node h).gang) then some 2
        else if x.gm && x.node.isSome && x.node ≠ some h then some 3
        else none
      | none => none

/-- Tasks of the node are still to end. -/
def nodeLives (s : State) (h : Nat) : Bool := 2 ^ 37 ≤ h || (s.node h).ended < (s.node h).tasks

/-- Count an accepted arrival; the first arrival of a task binds a gang-mode barrier to its node, while that lives (R345). -/
def countArrival (b : Nat) (node : Option Nat) (away : Option (Bool × Nat)) (last lastC : Word) (s : State) : State :=
  barTest b last lastC (s.modBar b (fun x =>
    let binds := if x.gm && x.node.isNone then node.filter (nodeLives s) else x.node
    { x with
      arrived := (x.arrived + 1) % 2 ^ 24
      node := binds
      members := match away with | some a => if binds.isSome && binds = node then a.2 else x.members | none => x.members }))

/-- The arrival entry of a core, while it still belongs to the arrival. -/
def modArrival (a : Arrival) (f : ArrEntry → ArrEntry) (s : State) : State :=
  match a.entry with
  | none => s
  | some (j, serial) =>
    s.modCore a.core (fun c => c.mapRegs (fun r =>
      let e := vget r.arr j ArrEntry.reset
      if e.armed && e.serial = serial then { r with arr := vset r.arr j (f e) } else r))

/-- A dropped write of a port (R351). -/
def portDrop (p : Nat) (s : State) : State :=
  { s with ports := fset s.ports p (let x := fget Port.reset s.ports p
                                    { x with drop := if x.drop = 0xFFFF then x.drop else x.drop + 1 }) }

/-- The home answers an arrival of another module (log entry 35). -/
def answerArrival (a : Arrival) (s : State) : State :=
  if a.module = s.podmod.toNat then s
  else match barrierIndex a.name with
    | some b => orFail b (tellModule a.name a.tag a.module s)
    | none => (tellModule a.name a.tag a.module s).2

/-- A pod barrier notes the module of an arrival. -/
def noteModule (b : Nat) (a : Arrival) (s : State) : State :=
  if a.module = s.podmod.toNat then s else s.modBar b (fun x => { x with mods := addNat a.module x.mods })

/-- The home handles an arrival (R344, R347, R350, R351). -/
def countedAt (a : Arrival) (s : State) : State :=
  match arrRefused s a.name a.tag a.node a.away, barrierIndex a.name with
  | none, some b =>
    let p := (s.bar b).phase.toNat
    countArrival b a.node a.away (blastOf a.module a.src a.core a.rtop) a.cycle
      (modArrival a (fun e => { e with taken := some p, seen := p }) (answerArrival a (noteModule b a s)))
  | r, _ =>
    let s1 := modArrival a (fun e => { e with refused := r }) (answerArrival a s)
    match a.port with
    | some p => portDrop p s1
    | none => s1

/-- What reaches a home is handled there: a withdrawal, the end of a node's last task and a question come from other modules, and
act on the barrier that they name (R341, R345, R349; log entry 35). -/
def takeArrival (a : Arrival) (s : State) : State :=
  let bound := fun (b : Nat) => a.node.isSome && (s.bar b).node = a.node
  match a.what, barrierIndex a.name with
  | .arrival, _ => countedAt a s
  | .leave, some b =>
    if bound b then
      barTest b (blastOf a.module 1 a.core a.rtop) a.cycle
        (s.modBar b (fun x => { x with members := match a.away with | some y => y.2 | none => x.members }))
    else s
  | .ended, some b => if bound b then s.modBar b (fun x => { x with node := none }) else s
  | .ask, some b => answerArrival a (noteModule b a s)
  | .ask, none => answerArrival a s
  | _, none => s

/-! ## News at a core (R348) -/

/-- The entry learns of its barrier: of its phase while it is open, or of its failure. -/
def learn (x : News) (e : ArrEntry) : ArrEntry :=
  if e.armed && e.name = x.name then
    match x.fail with
    | none => { e with seen := x.phase, fail := none }
    | some r => if e.taken = some x.phase then { e with fail := some r } else e
  else e

/-- The core holds in a `c.bwait` whose barrier has failed, of which it is still to trap. -/
def failsNow (c : Core) (name : Nat) : Bool :=
  c.regs.arr.toList.any (fun e => e.name = name && e.fail.isSome && (waitsAt c name (e.taken.getD 0)).isSome)

def execBarrierCompletion (i : BitVec 16) (s : State) : Outcome State Fault Refusal :=
  .next (match s.news[i.toNat]? with
    | none => s
    | some x =>
      if (s.news.take i.toNat).any (fun y => y.core = x.core && y.name = x.name) ||
        (x.fail.isNone && failsNow (s.core x.core) x.name) then s
      else
        { s with news := s.news.eraseIdx i.toNat }.modCore x.core (fun c =>
          c.mapRegs (fun r => { r with arr := r.arr.map (learn x) })))

/-! ## Pod barriers of another module (R342, R346, R370) -/

/-- A control flit of a pod barrier is lost here: the barrier fails at its home, or, where that is another module, its waits on
this one fail and the home is told (log entry 35). -/
def podLost (name : Nat) (s : State) : State :=
  if !farBar s name then (match barrierIndex name with | some b => failBar b s | none => s)
  else
    let p := (podView s name).phase
    let s1 := failNews name p 6 (setView name { podView s name with fail := some 6 } s)
    let s2 := { s1 with cores := s1.cores.map (fun c => (c.1, c.2.mapRegs (fun r => { r with arr := r.arr.map (fun e =>
      if e.armed && e.name = name && e.taken.isNone then { e with fail := some 6 } else e) }))) }
    (tellModule name 0 0 s2).2

/-- An arrival, or what else its home is to know, goes to module 0 as a control flit. -/
def sendFar (name tag : Nat) (s : State) : State :=
  let s1 := { s with fresh := s.fresh + 1 }
  match routeFlit (newFlit 0 0 s.podmod.toNat tag name 0 6 (Config.freeVec s.fresh)) s1 with
  | some t => t
  | none => podLost name s1

/-! ## Withdrawals and the ends of nodes (R341, R345) -/

/-- The home of every pod barrier of module 0 that tasks of a node have arrived at is told of the node. -/
def tellHomes (h : Nat) (s : State) : State :=
  (s.podseen.filter (fun e => e.2.nodes.contains h)).foldl (fun s e => sendFar e.1 (s.node h).tag s) s

/-- A withdrawal by `c.gleave`: an event of every barrier bound to the node, once the node counts it (R341, R345). -/
def withdraw (h core rtop : Nat) (cycle : Word) (s : State) : State :=
  tellHomes h ((s.bars.filter (fun e => e.2.node = some h)).foldl (fun s e => barTest e.1 (blast s 1 core rtop) cycle s) s)

/-- Every task of the node has ended: its barriers are unbound (R345). -/
def unbind (h : Nat) (s : State) : State :=
  let s1 := tellHomes h s
  { s1 with
    bars := s1.bars.map (fun e => if e.2.node = some h then (e.1, { e.2 with node := none }) else e)
    podseen := s1.podseen.map (fun e => (e.1, { e.2 with nodes := e.2.nodes.filter (fun k => k ≠ h) })) }

/-! ## BCFG (R343, R346) -/

/-- A write of BCFG: an event of the barrier, with the completion test after it where it is open then (log entry 98); one that
is not on any more fails its waits with reason 5. -/
def bcfgWrite (b : Nat) (v : Word) (s : State) : State :=
  let x := s.bar b
  let y := { x with cnt := v.setWidth 24, gm := v.getLsbD 24, on := v.getLsbD 25, tag := field v 26 12 }
  let isOpen := x.on && !x.fail
  if v.getLsbD 25 then
    let s1 := if isOpen then s.modBar b (fun _ => y)
      else orFail b (tellMods b (sendNews (nameOfBarrier b) x.phase.toNat none
        (s.modBar b (fun _ => { y with arrived := 0, fail := false, reason := 0 }))))
    barTest b (blastOf 0 5 0 0) (BitVec.ofNat 64 s.ns) s1
  else (if x.on then failWaits b 5 s else s).modBar b (fun _ => { y with fail := false, reason := 0 })

def execBcfgWrite (b : BitVec 16) (v : Word) (s : State) : Outcome State Fault Refusal :=
  .next (if b.toNat < 41280 then bcfgWrite b.toNat v s else s)

/-- The barriers of a context that enters terminating are off and scrubbed (R346, R374). -/
def scrubBarriers (tag : Nat) (s : State) : State :=
  { s with bars := s.bars.map (fun e =>
      if e.2.tag = tag then
        (e.1, { e.2 with on := false, phase := 0, arrived := 0, fail := false, reason := 0, node := none, mods := [], members := 0,
                         last := 0, lastC := 0, wait := 0, waitN := 0, waitC := 0 })
      else e) }

/-- The words of a barrier record. -/
def barWord (s : State) (b o : Nat) : Word :=
  let x := s.bar b
  match o / 8 with
  | 0 => BitVec.ofNat 64 (x.cnt.toNat + 2 ^ 24 * x.gm.toNat + 2 ^ 25 * x.on.toNat + 2 ^ 26 * (x.tag % 4096))
  | 1 => BitVec.ofNat 64 (x.phase.toNat + 2 ^ 32 * (x.arrived % 2 ^ 24) + 2 ^ 56 * x.fail.toNat + 2 ^ 57 * (x.reason % 16))
  | 2 => x.last
  | 3 => x.lastC
  | 4 => x.wait
  | 5 => x.waitN
  | 6 => x.waitC
  | _ => 0

/-! ## The arrive aperture (R351) -/

/-- A write within port p by a source: an arrival, or a drop. -/
def portWrite (p src : Nat) (s : State) : State :=
  let x := fget Port.reset s.ports p
  if !x.en || (barrierIndex x.name).isNone then portDrop p s
  else { s with arrivals := s.arrivals ++
    [⟨.arrival, x.name, x.tag, src, 0, 0, BitVec.ofNat 64 s.ns, none, none, some p, s.podmod.toNat, none⟩] }

/-- A read of a port; what a pod barrier of module 0 shows is a free value here (R351; log entry 136). -/
def portRead (s : State) (p : Nat) : Word :=
  let x := fget Port.reset s.ports p
  if farBar s x.name then BitVec.ofNat 64 (field (Config.freeVec (s.fresh + 2 ^ 54 + s.now)) 0 33)
  else match seenBar s x.name with
    | none => BitVec.ofNat 64 (2 ^ 32)
    | some (p, r) => BitVec.ofNat 64 (p + 2 ^ 32 * r.isSome.toNat)

def execArrivePortWrite (p : BitVec 13) (s : State) : Outcome State Fault Refusal := .next (portWrite p.toNat 3 s)

/-- BPORT: written by system software; drop is read-only. -/
def bportWrite (p : Nat) (v : Word) (s : State) : State :=
  { s with ports := fset s.ports p ⟨field v 0 20, field v 20 12, v.getLsbD 32, (fget Port.reset s.ports p).drop⟩ }
def bportRead (s : State) (p : Nat) : Word :=
  let x := fget Port.reset s.ports p
  BitVec.ofNat 64 (x.name % 2 ^ 20 + 2 ^ 20 * (x.tag % 4096) + 2 ^ 32 * x.en.toNat + 2 ^ 48 * x.drop.toNat)

end Sys2Proof.Machine
end

