-- ==== Sys2Proof/Machine/Fold.lean ====
section
/-! DEFINITION. The F slot and the fold array (R156 to R183, R297, R298, R339, R400). -/

namespace Sys2Proof.Machine

open Host (Outcome)

/-! ## The F slot -/

/-- F belongs to the fixed group (R11). -/
def State.fGroup (s : State) : Bool := s.me.fold.lease = .held

/-- A trap of the F slot (R180, R264). -/
def fTrap (s : State) (cause : Nat) (taddr : Word) : State :=
  if s.fGroup then fixedTrap s cause taddr .F
  else takeTrap s cause taddr 6 (match s.pipe.fq with | e :: _ => e.addr | [] => s.bundleAt) true false

def State.array (s : State) : FoldArray := (s.quad s.myQuad).array
def State.modMyArray (s : State) (f : FoldArray → FoldArray) : State := s.modArray s.myQuad f
def State.modFold (s : State) (f : FoldCore → FoldCore) : State := s.modMe (fun c => { c with fold := f c.fold })

/-- An array opcode needs the lease held (R161). -/
def arrayOp (s : State) (k : State → State) : State :=
  if s.me.fold.lease = .held then k s else fTrap s cNO_LEASE 0

/-- The opcodes that change the meaning of slot integers trap while some may be summed (R161). -/
def idleOp (s : State) (k : State → State) : State :=
  arrayOp s (fun s => if s.array.busy then fTrap s cFOLD_BUSY 0 else k s)

def execFNop (s : State) : Outcome State Fault Refusal := .next s

/-! ## The lease (R158 to R160, R164) -/

def leaseDrains (a : Word) : Nat :=
  let n := bitsN a.toNat 0 9
  if n = 0 then 16 else if 256 < n then 256 else n

/-- Some accumulator partition of the quad carries another tag (R160). -/
def wideDenied (s : State) : Bool :=
  (List.range 4).any (fun c =>
    match fget? s.acctag (s.myQuad * 4 + c) with
    | some t => t ≠ s.regs.id.tag
    | none => false)

/-- A lease request: it enters arbitration, and F holds until the grant. -/
def requestLease (wide : Bool) (a : Word) (s : State) : State :=
  match s.me.fold.lease with
  | .granted | .held => fTrap s cFOLD_BUSY 0
  | .waiting => s.holdNow
  | .none =>
    if wide && wideDenied s then fTrap s cWIDE_DENIED 0
    else s.modFold (fun f =>
      { f with lease := .waiting, drains := leaseDrains a, wide := wide, asked := (s.quad s.myQuad).cycle })

def execFLease (a : BitVec 6) (s : State) : Outcome State Fault Refusal := .next (requestLease false (s.bridge a) s)
def execFLeasew (a : BitVec 6) (s : State) : Outcome State Fault Refusal := .next (requestLease true (s.bridge a) s)

def execFFree (s : State) : Outcome State Fault Refusal :=
  .next (if holdsArray s.me then s.modMyArray (fun a => { a with remaining := 1 }) else s)

/-- The first core that waits, in cyclic order from the one after the last holder (R159). -/
def nextHolder (s : State) (q : Nat) : Option Nat :=
  ((List.range 4).map (fun i => ((s.quad q).array.lastHolder + 1 + i) % 4)).find? (fun c =>
    (s.core (q * 4 + c)).fold.lease = .waiting)

/-- Drains of a task suspended in a quad have not written their accumulators. -/
def drainsHeld (s : State) (q : Nat) : Bool :=
  (List.range 4).any (fun c => (s.core (q * 4 + c)).susp.any (fun x => !x.drains.isEmpty))

/-- The grant: the array is reset and the waiting core has it (R156, R158, R159); the wait is recorded (R393). Drains of a suspended
task write once it is restored, and hold the grant till then (log entry 131). -/
def leaseGrant (q : Nat) (s : State) : State :=
  let a := (s.quad q).array
  if a.holder.isSome || !a.drains.isEmpty || drainsHeld s q then s
  else match nextHolder s q with
    | none => s
    | some c =>
      let n := q * 4 + c
      let f := (s.core n).fold
      let s1 := (s.modArray q (fun _ =>
        { FoldArray.granted c with holder := some c, lastHolder := c, remaining := f.drains, wide := f.wide })).modCore n
        (fun x => { x with fold := { f with lease := .granted } })
      monRecord s1 (n / 64) 5 (s.core n).regs.id.tag (n % 64) ((s.quad q).cycle - f.asked).toNat

def execLeaseGrant (q : QuadId) (s : State) : Outcome State Fault Refusal := .next (leaseGrant q.toNat s)

/-! ## Configuration (R165) -/

def execFGuard (g : BitVec 6) (s : State) : Outcome State Fault Refusal :=
  .next (idleOp s (fun s => s.modMyArray (fun a => { a with g := g.toNat })))
def execFFmt (a b : BitVec 5) (s : State) : Outcome State Fault Refusal :=
  .next (idleOp s (fun s => s.modMyArray (fun x => { x with ta := a, tb := b })))
def execFCsum (n : BitVec 1) (s : State) : Outcome State Fault Refusal :=
  .next (idleOp s (fun s => s.modMyArray (fun a => { a with csum := n = 1 })))
def execFAccsel (a b : BitVec 6) (s : State) : Outcome State Fault Refusal :=
  let nu := bitsN (s.bridge b).toNat 0 10
  .next (idleOp s (fun s => s.modMyArray (fun x =>
    { x with base := bitsN (s.bridge a).toNat 8 14 * 256, nu := if nu = 0 ∨ 512 < nu then 512 else nu })))
def execFMcast (a : BitVec 6) (s : State) : Outcome State Fault Refusal :=
  .next (arrayOp s (fun s => s.modMyArray (fun x =>
    { x with mcast := Vector.ofFn (fun q => BitVec.ofNat 2 (bitsN (s.bridge a).toNat (2 * q.val) 2)) })))
def execFRoute (a b : BitVec 6) (s : State) : Outcome State Fault Refusal :=
  .next (arrayOp s (fun s => s.modMyArray (fun x =>
    { x with rbase := bitsN (s.bridge a).toNat 7 14 * 128, rcore := bitsN (s.bridge b).toNat 0 2 })))

/-! ## Feed offset registers (R166) -/

def State.modFeed (s : State) (k : Nat) (f : Feed → Feed) : State :=
  s.modRegs (fun r => { r with feed := vset r.feed k (f (vget r.feed k Feed.reset)) })

def execFFset (k : BitVec 3) (a : BitVec 6) (s : State) : Outcome State Fault Refusal :=
  .next (s.modFeed k.toNat (fun f => { f with addr := (s.bridge a).setWidth 21, cnt := 0 }))
def execFFadd (k : BitVec 3) (a : BitVec 6) (s : State) : Outcome State Fault Refusal :=
  .next (s.modFeed k.toNat (fun f => { f with addr := f.addr + (s.bridge a).setWidth 21 }))
def execFFstr (k : BitVec 3) (a : BitVec 6) (s : State) : Outcome State Fault Refusal :=
  .next (s.modFeed k.toNat (fun f =>
    { f with st1 := (s.bridge a).setWidth 20, st2 := BitVec.ofNat 20 (field (s.bridge a) 32 20) }))
def execFFwrap (k : BitVec 3) (a : BitVec 6) (s : State) : Outcome State Fault Refusal :=
  .next (s.modFeed k.toNat (fun f => { f with wrap := (s.bridge a).setWidth 12, cnt := 0 }))

/-- A use steps the register. -/
def Feed.use (f : Feed) : Feed :=
  let c := f.cnt + 1
  if f.wrap ≠ 0 ∧ c = f.wrap then { f with addr := f.addr + f.st2.signExtend 21, cnt := 0 }
  else { f with addr := f.addr + f.st1.signExtend 21, cnt := c }

/-- One use: the address it reads at. -/
def useFeed (k : Nat) (s : State) : Nat × State :=
  ((vget s.regs.feed k Feed.reset).addr.toNat, s.modFeed k Feed.use)

/-! ## Operands of steps (R167, R168) -/

/-- n elements of a block type in a string at offset o of the scratchpad of core c of the quad. -/
def blockElems (s : State) (c o n t : Nat) : List Int :=
  let w := tyWidth t
  let x := slotRead s (padAddrs (s.myQuad * 4 + c) o ((n * w + 7) / 8))
  (List.range n).map (fun i => sextN (bitsN x (w * i) (blockW t)) (blockW t))

/-- The B row of nu units of e elements: each quarter of the units from the core the multicast map names. -/
def bRow (s : State) (o nu e t : Nat) : List Int :=
  ((List.range 4).map (fun q =>
    let n := (if nu < 128 * (q + 1) then nu else 128 * (q + 1)) - 128 * q
    blockElems s (vget s.array.mcast q 0).toNat (o + 128 * q * e * tyWidth t / 8) (n * e) t)).flatten

/-- The staged words a sparse step issued at count c uses. -/
def stagedAt (a : FoldArray) (c : Nat) : Vector (List Int) 4 :=
  a.stNext.foldl (fun v e => if e.1 ≤ c then Vector.ofFn (fun i => e.2.getD i.val []) else v) a.st

/-- The number of elements of an A column. -/
def columnLen (a : FoldArray) (taps : Bool) : Nat := if taps then a.rows + a.lanes - 1 else a.rows

def execFStage (f : BitVec 3) (c : BitVec 2) (s : State) : Outcome State Fault Refusal :=
  .next (arrayOp s (fun s =>
    let n := s.array.rows + 11
    let t := s.array.ta.toNat
    let out := (List.range 4).foldl (fun (acc : List (List Int) × State) _ =>
      let (o, s') := useFeed f.toNat acc.2
      (acc.1 ++ [blockElems s c.toNat o n t], s')) ([], s)
    (out.2.modMyArray (fun a =>
      { a with st := stagedAt a s.pipe.count
               stNext := a.stNext.filter (fun e => s.pipe.count < e.1) ++ [(s.pipe.count + 2, out.1)] })).refresh))

/-- A step's family and stride are checked at issue (R161, R165, R180). -/
def stepOp (taps : Bool) (s : State) (k : State → State) : State :=
  arrayOp s (fun s =>
    if s.array.fam = some (!taps) then fTrap s cFOLD_BUSY 0
    else if 48 < s.array.stride then fTrap s cILLEGAL_COMBO 0
    else k s)

/-- A step enters the pipeline: it lands at the end of count p + 3 (R169). -/
def enterStep (taps : Bool) (a : List (List Int)) (sel : List Nat) (b : List Int) (s : State) : State :=
  let x := s.array
  (s.modMyArray (fun y =>
    { y with
      fam := some taps
      busy := true
      flight := y.flight ++ [⟨s.pipe.count + 3, s.myPart, taps, x.rows, x.lanes, x.nu, x.stride, a, sel, b⟩] })).refresh

/-- outer and taps: an A column of core c at a use of fa, a B row at a use of fb (R169). -/
def denseStep (taps : Bool) (fa fb c : Nat) (s : State) : State :=
  stepOp taps s (fun s =>
    let x := s.array
    let (oa, s1) := useFeed fa s
    let (ob, s2) := useFeed fb s1
    enterStep taps [blockElems s c oa (columnLen x taps) x.ta.toNat] [] (bRow s ob x.nu x.lanes x.tb.toNat) s2)

def execFOuter (a b : BitVec 3) (c : BitVec 2) (s : State) : Outcome State Fault Refusal :=
  .next (denseStep false a.toNat b.toNat c.toNat s)
def execFTaps (a b : BitVec 3) (c : BitVec 2) (s : State) : Outcome State Fault Refusal :=
  .next (denseStep true a.toNat b.toNat c.toNat s)

/-- souter and staps: the staged words, selected per unit by a route row (R170). -/
def sparseStep (taps : Bool) (fb r : Nat) (s : State) : State :=
  stepOp taps s (fun s =>
    let x := s.array
    let route := slotRead s (padAddrs (s.myQuad * 4 + x.rcore) (x.rbase + 128 * r) 128)
    let (ob, s1) := useFeed fb s
    enterStep taps (stagedAt x s.pipe.count).toList ((List.range x.nu).map (fun u => bitsN route (2 * u) 2))
      (bRow s ob x.nu x.lanes x.tb.toNat) s1)

def execFSouter (f : BitVec 3) (r : BitVec 12) (s : State) : Outcome State Fault Refusal :=
  .next (sparseStep false f.toNat r.toNat s)
def execFStaps (f : BitVec 3) (r : BitVec 12) (s : State) : Outcome State Fault Refusal :=
  .next (sparseStep true f.toNat r.toNat s)

/-! ## The landing of a step (R169, R170, R298) -/

/-- Element n of the A column that unit u takes. -/
def FoldStep.aElem (p : FoldStep) (u n : Nat) : Int := (p.a.getD (p.sel.getD u 0) []).getD n 0

def FoldStep.cols (p : FoldStep) : Nat := if p.taps then p.nu else p.nu * p.e

/-- What the step adds to slot (i, j). -/
def FoldStep.product (p : FoldStep) (i j : Nat) : Int :=
  if p.taps then ((List.range p.e).map (fun t => p.aElem j (i + t) * p.b.getD (j * p.e + t) 0)).foldl (· + ·) 0
  else p.aElem (j / p.e) i * p.b.getD j 0

/-- The non-zero contributions in the order of the slots. -/
def FoldStep.products (p : FoldStep) : FMap Int :=
  (((List.range p.rows).map (fun i => (List.range p.cols).map (fun j => (i * 8192 + j, p.product i j)))).flatten).filter
    (fun e => e.2 ≠ 0)

/-- The sum of two maps, leaving zeros out. -/
def addMaps : Nat → FMap Int → FMap Int → FMap Int
  | 0, _, y => y
  | _ + 1, [], y => y
  | _ + 1, x, [] => x
  | n + 1, (a, u) :: x, (b, v) :: y =>
    if a < b then (a, u) :: addMaps n x ((b, v) :: y)
    else if b < a then (b, v) :: addMaps n ((a, u) :: x) y
    else if u + v = 0 then addMaps n x y
    else (a, u + v) :: addMaps n x y

def mapSum (x y : FMap Int) : FMap Int := addMaps (x.length + y.length + 1) x y

/-- Set a map's value, leaving zeros out. -/
def setInt (m : FMap Int) (k : Nat) (v : Int) : FMap Int := if v = 0 then fdel m k else fset m k v

/-- Sums of a map over its columns or rows. -/
def laneSums (key : Nat → Nat) (n : Nat) (m : FMap Int) : FMap Int :=
  ((List.range n).map (fun j => (j, (m.filter (fun e => key e.1 = j)).foldl (fun a e => a + e.2) 0))).filter
    (fun e => e.2 ≠ 0)
def colOf (k : Nat) : Nat := k % 8192
def rowOf (k : Nat) : Nat := k / 8192

/-- Outside the guarded range of stride s (R48). -/
def outOfRange (s : Nat) (c : Int) : Bool := c < -(2 ^ (s - 1) - 1) || 2 ^ (s - 1) - 1 < c

/-- The landing of a step in the array. -/
def FoldArray.land (a : FoldArray) (p : FoldStep) : FoldArray :=
  let d := p.products
  let slots := mapSum a.slots d
  { a with
    slots := slots
    kr := if a.csum then mapSum a.kr (laneSums colOf p.cols d) else a.kr
    kc := if a.csum then mapSum a.kc (laneSums rowOf p.rows d) else a.kc
    steps := a.steps + 1
    ovf := match a.ovf with
      | some o => some o
      | none => (slots.find? (fun e => rowOf e.1 < p.rows && colOf e.1 < p.cols && outOfRange p.s e.2)).map
          (fun e => (a.steps, rowOf e.1, colOf e.1)) }

/-- The steps whose count f says is over land, oldest first. -/
def FoldArray.landAll (a : FoldArray) (past : FoldStep → Bool) : FoldArray :=
  (a.flight.filter past).foldl FoldArray.land { a with flight := a.flight.filter (fun p => !past p) }

/-- The issue count of the task pipeline of a core of a quad. -/
def countOf (s : State) (q c : Nat) : Nat := (s.core (q * 4 + c)).regs.task.count

/-- The products of every step of a quad whose landing count is over reach the slot integers. -/
def foldLand (q : Nat) (s : State) : State :=
  s.modArray q (fun a => a.landAll (fun p => p.due < countOf s q p.core))

def execFoldStepLanding (q : QuadId) (s : State) : Outcome State Fault Refusal := .next (foldLand q.toNat s)

/-! ## WIDE (R172) -/

/-- A source of `wide`. -/
def srcF (x : BitVec 6) (s : State) : Vec :=
  if x.toNat < 40 then vget s.regs.vec.v x.toNat 0 else wordVec (s.bridge x)

/-- A vector register in a bank bound to F, or no vector register. -/
def boundF (s : State) (x : BitVec 6) : Bool := 40 ≤ x.toNat || vget s.regs.vec.banks (x.toNat / 10) .va = .f

def execFWide (d a b : BitVec 6) (c : BitVec 1) (m : BitVec 3) (s : State) : Outcome State Fault Refusal :=
  .next (arrayOp s (fun s =>
    if !(boundF s d && boundF s (d + 1) && boundF s a && boundF s b) then fTrap s cBANK_UNBOUND 0
    else
      let x := sextN (srcF b s).toNat (64 * (m.toNat + 1))
      let old := (vget s.regs.vec.v (d.toNat + 1) 0).toNat * 2 ^ 2048 + (vget s.regs.vec.v d.toNat 0).toNat
      let y := wrapN (sextN (srcF a s).toNat 2048 * x + (if c = 1 then Int.ofNat old else 0)) 4096
      (s.result .F 10 (.vreg d.toNat) (natVec y)).result .F 10 (.vreg (d.toNat + 1)) (natVec (y / 2 ^ 2048))))

/-! ## The drain (R173 to R177) -/

/-- Mismatching rows and columns of the checksums, each with the difference. -/
def mismatch (n : Nat) (lane : FMap Int) (sums : FMap Int) : List (Nat × Int) :=
  ((List.range n).map (fun i => (i, fget 0 lane i - fget 0 sums i))).filter (fun e => e.2 ≠ 0)

/-- What the comparison of R176 finds. -/
inductive Csum where
  | clean | lane | fail
  | fix (k : Nat) (d : Int)
  deriving DecidableEq, Repr

def FoldArray.check (a : FoldArray) : Csum :=
  if !a.csum then .clean
  else
    match mismatch a.rows a.kc (laneSums rowOf a.rows a.slots), mismatch a.cols a.kr (laneSums colOf a.cols a.slots) with
    | [], [] => .clean
    | [(i, d)], [(j, e)] => if d = e then .fix (i * 8192 + j) d else .fail
    | [_], [] => .lane
    | [], [_] => .lane
    | _, _ => .fail

/-- The use of the lease by a drain: the last one ends it (R158). -/
def countDrain (s : State) : State :=
  if 1 < s.array.remaining then s.modMyArray (fun a => { a with remaining := a.remaining - 1 })
  else (s.modMyArray (fun a => { a with remaining := 0, holder := none })).modFold (fun f => { f with lease := .none })

/-- Word i mod 64 of the scale registers from ka on. -/
def scaleOf (s : State) (taps : Bool) (ka i : Nat) : Nat :=
  if taps then field (vget s.regs.scale ka 0) 0 32
  else field (vget s.regs.scale (ka + i / 64) 0) (32 * (i % 64)) 32

/-- The drain itself, with the slot integers it takes. -/
def drainTake (ka fs c : Nat) (vals : FMap Int) (s : State) : State :=
  let a := s.array
  let (o, s1) := useFeed fs s
  let sb := slotRead s (padAddrs (s.myQuad * 4 + c) o (4 * a.cols))
  let d : Drain := ⟨s.pipe.count + 33, vals, (List.range a.rows).map (scaleOf s (a.fam = some true) ka),
    (List.range a.cols).map (fun j => bitsN sb (32 * j) 32), a.rows, a.cols, a.base, a.wide, s.myPart⟩
  (countDrain (s1.modMyArray (fun x => { x.clear with drains := x.drains ++ [d] }))).refresh

def execFDrain (k f : BitVec 3) (c : BitVec 2) (s : State) : Outcome State Fault Refusal :=
  let a := s.array
  let top := a.base + 4 * a.rows * a.cols
  let take := fun (vals : FMap Int) (count : FoldCore → FoldCore) (s : State) =>
    if (if a.wide then 2 ^ 22 else 2 ^ 20) < top then fTrap s cACC_RANGE (BitVec.ofNat 64 top)
    else drainTake k.toNat f.toNat c.toNat vals (s.modFold count)
  .next (arrayOp s (fun s =>
    if 7 < k.toNat + (a.rows + 63) / 64 - 1 then fTrap s cILLEGAL_COMBO 0
    else if a.ovf.isSome then fTrap s cGUARD_OVERFLOW (foldOvf a)
    else match a.check with
      | .fail => fTrap (s.modFold (fun x => { x with fail := x.fail + 1 })) cCSUM_FAIL 0x10
      | .clean => take a.slots id s
      | .lane => take a.slots (fun x => { x with lane := x.lane + 1 }) s
      | .fix i d => take (setInt a.slots i (fget 0 a.slots i + d)) (fun x => { x with corr := x.corr + 1 }) s))

def execFDrainz (s : State) : Outcome State Fault Refusal :=
  .next (arrayOp s (fun s => countDrain (s.modMyArray FoldArray.clear)))

def execFClr (s : State) : Outcome State Fault Refusal := .next (arrayOp s (fun s => s.modMyArray FoldArray.clear))

/-- Every drain of a quad whose count is over writes its accumulators, in issue order (R174). -/
def drainLand (q : Nat) (s : State) : State :=
  let past := fun (d : Drain) => d.due < countOf s q d.core
  let a := (s.quad q).array
  { s with mem := (a.drains.filter past).foldl (fun m d => drainMem q d m) s.mem }.modArray q (fun x =>
    { x with drains := x.drains.filter (fun d => !past d) })

def execDrainAccumulate (q : QuadId) (s : State) : Outcome State Fault Refusal := .next (drainLand q.toNat s)

/-! ## Fence, inject and the checksum counts (R175, R178, R179) -/

/-- A step, drain or WIDE result of the core has not landed. -/
def foldPending (s : State) : Bool :=
  s.array.flight.any (fun p => p.core = s.myPart) || s.array.drains.any (fun d => d.core = s.myPart) ||
  s.pipe.flight.any (fun f => f.slot = .F && (match f.tgt with | .vreg _ => true | _ => false))

/-- `fence` waits while empty bundles issue in its place (R175). -/
def execFFence (s : State) : Outcome State Fault Refusal :=
  .next (arrayOp s (fun s =>
    if foldPending s then s.modPipe (fun p => { p with waits := true, empty := true }) else s))

/-- The place of an injection (R178). -/
def FoldArray.inject (a : FoldArray) (i j : Nat) (d : Int) : FoldArray :=
  if i < a.rows ∧ j < a.cols then { a with slots := setInt a.slots (i * 8192 + j) (fget 0 a.slots (i * 8192 + j) + d) }
  else if i = 0xFFFF ∧ j < a.cols then { a with kr := setInt a.kr j (fget 0 a.kr j + d) }
  else if j = 0xFFFF ∧ i < a.rows then { a with kc := setInt a.kc i (fget 0 a.kc i + d) }
  else a

/-- `inject` acts at the end of its cycle, after the steps that land in it (R178). -/
def execFInject (a b : BitVec 6) (s : State) : Outcome State Fault Refusal :=
  let p := (s.bridge a).toNat
  .next (arrayOp s (fun s =>
    if s.me.fold.inj then s.modMyArray (fun x =>
      (x.landAll (fun p => p.due ≤ s.pipe.count)).inject (bitsN p 0 16) (bitsN p 16 16) (s.bridge b).toInt)
    else fTrap s cPRIVILEGE 0))

/-- `cscnt` writes FCSUM to a mail register at the end of its cycle, after every other write of that cycle (R62, R179). -/
def execFCscnt (r : BitVec 1) (m : BitVec 2) (s : State) : Outcome State Fault Refusal :=
  let v := sysRead s s.cur.toNat s.pipe 0x402
  let s1 := if r = 1 then s.modFold (fun f => { f with corr := 0, lane := 0, fail := 0 }) else s
  .next (if s.fGroup then s1.result .F 1 (.mail m.toNat) (wordVec v)
    else s1.modMe (fun c => { c with olds := fset c.olds (4 + m.toNat) v }))

/-! ## FCTL as events (R181, R183, R400) -/

def execFctlClr (n : CoreId) (s : State) : Outcome State Fault Refusal := .next (fctlClear n.toNat s)
def execFctlSetg (n : CoreId) (g : BitVec 5) (s : State) : Outcome State Fault Refusal :=
  .next (fctlGuard n.toNat g.toNat s)

end Sys2Proof.Machine
end

