-- ==== Sys2Proof/Machine/Access.lean ====
section
/-! DEFINITION. How the L and W slots issue a global access: translation, parks, watchpoints, alignment and entry in a queue
(R12, R24, R129 to R133, R139, R242, R246, R387). -/

namespace Sys2Proof.Machine

/-! ## Translation of a slot's access -/

/-- What is known of the translation of an address for the syllable a slot is about to issue. -/
inductive Look where
  | leaf (l : Leaf)
  | trap (cause : Nat)
  | park (entry : Nat)
  | wait
  deriving DecidableEq, Repr

/-- The walks of the L slot, or of the W slot. -/
def walksOf (w : Bool) (c : CoreCache) : List Walk := if w then c.walkW else c.walkL

def Walk.is (x : Walk) (va kind : Nat) : Bool := x.va.toNat / 4096 = va / 4096 && x.kind = kind

/-- The translation of va for core n: a cached leaf of the tag that permits the access, else a walk's result (R242). -/
def lookAt (s : State) (n : Nat) (w : Bool) (va kind : Nat) : Look :=
  let c := s.core n
  let tag := c.regs.id.tag
  match (c.cache.dtlb ++ (s.quad (n / 4)).l2tlb).find? (fun l => l.hits tag va && kindOk l.entry kind) with
  | some l => .leaf l
  | none =>
    match (walksOf w c.cache).find? (fun x => x.is va kind) with
    | some x =>
      (match x.res with
       | some (.leaf l) => .leaf l
       | some (.trap t) => .trap t
       | some (.park e) => .park e
       | none => .wait)
    | none => .wait

/-- The first address of each page that n bytes from va on touch. -/
def pagesOf (va n : Nat) : List Nat :=
  if va / 4096 = (va + n - 1) / 4096 then [va] else [va, (va + n - 1) / 4096 * 4096]

/-- The first byte and each further 8 bytes of n bytes from va on: a register of the physical map is 8 bytes (R24). -/
def wordsOf (va n : Nat) : List Nat := (List.range ((n + 7) / 8)).map (fun i => va + 8 * i)

/-- What the pages of an access give together: the first page that does not translate decides. -/
inductive Reach where
  | go
  | trap (cause va : Nat)
  | park (entry : Nat)
  | wait (va : Nat)
  deriving DecidableEq, Repr

def reach (look : Nat → Look) : List Nat → Reach
  | [] => .go
  | va :: r =>
    match look va with
    | .leaf _ => reach look r
    | .trap c => .trap c va
    | .park e => .park e
    | .wait => .wait va

/-- Ask for a walk (R242). -/
def askWalk (w : Bool) (va kind : Nat) (s : State) : State :=
  s.modMe (fun c =>
    if (walksOf w c.cache).any (fun x => x.is va kind) then c
    else
      let x : Walk := ⟨BitVec.ofNat 64 va, kind, none, (s.quad s.myQuad).cycle⟩
      if w then { c with cache := { c.cache with walkW := c.cache.walkW ++ [x] } }
      else { c with cache := { c.cache with walkL := c.cache.walkL ++ [x] } })

/-- The syllable issues or traps: its walks are used up. -/
def dropWalks (w : Bool) (s : State) : State :=
  s.modMe (fun c =>
    if w then { c with cache := { c.cache with walkW := [] } } else { c with cache := { c.cache with walkL := [] } })

/-- The physical address of va under the translation the slot holds. -/
def lookPa (s : State) (n : Nat) (w : Bool) (va kind : Nat) : Nat :=
  match lookAt s n w va kind with
  | .leaf l => l.pa va
  | _ => 0

/-- The physical addresses of the units of an access. -/
def unitPas (s : State) (w : Bool) (va kind ulen n : Nat) : List Nat :=
  (List.range n).map (fun i => lookPa s s.cur.toNat w (va + i * ulen) kind)

/-! ## Watchpoints (R386, R387) -/

/-- Watchpoint i covers a byte of an access of the kind. -/
def watchCovers (c : Core) (kind va n i : Nat) : Bool :=
  let ctl := vget c.watch.ctl i 0
  let lg := field ctl 0 6
  let base := (vget c.watch.addr i 0).toNat / 2 ^ lg * 2 ^ lg
  ctl.getLsbD 8 && ((ctl.getLsbD 6 && (kind = 0 || kind = 2 || kind = 4)) || (ctl.getLsbD 7 && (kind = 1 || kind = 2))) &&
    va < base + 2 ^ lg && base < va + n

/-- The watchpoints an access of a task matches; the outrider's accesses match none. -/
def watchHits (c : Core) (kind va n : Nat) : List Nat :=
  if c.outrider then [] else (List.range 4).filter (watchCovers c kind va n)

/-- A watch is reported: WSTAT, the trace source, then the trap or the halt (R387, R389). -/
def watchReport (hits : List Nat) (bn slot : Nat) (trap : State → State) (s : State) : State :=
  let c := s.me
  let s1 := s.modMe (fun c => { c with watch := { c.watch with
    stat := BitVec.ofNat 4 ((hits.map (fun i => 2 ^ i)).foldl (· + ·) 0)
    reported := (bn, slot) :: c.watch.reported.filter (fun r => r.2 ≠ slot) } })
  let s2 := traceSource s1 (s.cur.toNat / 64) 2 (fun t _ => t.tcore.toNat = s.cur.toNat % 64)
  if hits.any (fun i => (vget c.watch.ctl i 0).getLsbD 9) then haltCore s2 s.cur.toNat else trap s2

/-! ## The checks of one access (R387) -/

/-- The right a core's access needs at its target: k at the arrive aperture and at the doorbells, else r or w (R375). -/
def rightOf (kind pa : Nat) : Nat :=
  if kind = 0 ∨ kind = 4 then 0
  else if isArrive pa ∨ (ctlBase + 0x20000 ≤ pa ∧ pa < ctlBase + 0x30000) then 3
  else 1

/-- The fault of the access itself at one physical address: cause and TADDR. -/
def accessFaultOf (s : State) (tag kind pa va : Nat) : Option (Nat × Nat) :=
  if reservedPa s pa then some (cBAD_PA, pa)
  else if kind = 2 ∧ !hasHome pa then none
  else if accessOk s tag 0 (rightOf kind pa) pa && (kind ≠ 2 || accessOk s tag 0 0 pa) then none
  else some (cXLAT_PERM, va)

def accessFault (s : State) (kind pa va : Nat) : Option (Nat × Nat) := accessFaultOf s s.regs.id.tag kind pa va

/-- A global access of a slot. `va`, `n`: the bytes it accesses; `watch`: watchpoints apply; `own`: the check that the opcode
itself makes on the physical address, with the cause it traps; `ok`: its alignment. -/
structure Acc where
  w     : Bool
  va    : Word
  n     : Nat
  kind  : Nat
  watch : Bool
  ok    : Bool
  own   : Nat → Option Nat

/-- The bundle number of the syllable of a slot. -/
def State.slotBn (s : State) (w : Bool) : Nat :=
  if w then (match s.pipe.wq with | e :: _ => e.bn | [] => s.pipe.bn) else s.pipe.bn

/-- The address of its bundle. -/
def State.slotAddr (s : State) (w : Bool) : Word := if w then s.wBundleAt else s.bundleAt

def slotNum (w : Bool) : Nat := if w then 5 else 4

/-- Issue a global access in the order of R387. `hold` keeps the syllable, `trap` takes a trap, `queue` enters the access with the
table entry it is parked on, or none. -/
def issueAccess (x : Acc) (hold : State → State) (trap : Nat → Word → State → State) (queue : Option Nat → State → State)
    (s : State) : State :=
  let va := x.va.toNat
  if 2 ^ 60 < va + x.n then trap cBAD_VA x.va (dropWalks x.w s)
  else
    let hits := if x.watch then watchHits s.me x.kind va x.n else []
    match reach (fun a => lookAt s s.cur.toNat x.w a x.kind) (pagesOf va x.n) with
    | .wait a => hold (askWalk x.w a x.kind s)
    | .trap c a => trap c (BitVec.ofNat 64 a) (dropWalks x.w s)
    | .park e =>
      if !hits.isEmpty then hold s
      else if !x.ok then trap cMISALIGNED x.va (dropWalks x.w s)
      else queue (some e) s
    | .go =>
      if !hits.isEmpty && !s.me.watch.reported.contains (s.slotBn x.w, slotNum x.w) then
        watchReport hits (s.slotBn x.w) (slotNum x.w) (trap cWATCH x.va) s
      else if !x.ok then trap cMISALIGNED x.va (dropWalks x.w s)
      else
        match (wordsOf va x.n).findSome? (fun a =>
            let pa := lookPa s s.cur.toNat x.w a x.kind
            match accessFault s x.kind pa a with
            | some f => some f
            | none => (x.own pa).map (fun c => (c, va))) with
        | some (c, a) => trap c (BitVec.ofNat 64 a) (dropWalks x.w s)
        | none => queue none s

/-! ## Queues -/

def queueCap : Nat := 64

/-- The fill of a window slot, and the write-back of one: they take their entries in bundle order, once W has issued every earlier
syllable, and wait while none is free (R16, R254, R256; log entry 129). -/
def isFill (r : Req LdOp) : Bool := match r.op with | .fill _ _ => true | _ => false
def isBack (r : Req StOp) : Bool := match r.op with | .winwb _ _ _ _ => true | _ => false

def Pipe.inTurn (p : Pipe) (bn : Nat) : Bool := p.wq.all (fun e => bn ≤ e.bn)

/-- Entries of a queue that requests take or claim: all but the fills or write-backs whose turn has not come. -/
def taken {α : Type} (p : Pipe) (late : Req α → Bool) (l : List (Req α)) : Nat := (l.filter (fun r => !late r || p.inTurn r.bn)).length

/-- The load queue, or the store queue, is full. -/
def Pipe.lqFull (p : Pipe) : Bool := queueCap ≤ taken p isFill p.lq
def Pipe.sqFull (p : Pipe) : Bool := queueCap ≤ taken p isBack p.sq

/-- Request i has an entry: the others have entered theirs when they issued. -/
def hasEntry {α : Type} (p : Pipe) (late : Req α → Bool) (l : List (Req α)) (i : Nat) : Bool :=
  match l[i]? with
  | some r => !late r || (p.inTurn r.bn && (l.filter (fun r => !late r)).length + taken p (fun _ => true) ((l.take i).filter late) < queueCap)
  | none => false

/-- The pipelines of the task of a core, or of its outrider; the accesses of a held task still complete (R265). -/
def Core.pipeOf (c : Core) (o : Bool) : Pipe := if o then c.regs.outr else c.regs.task
def Core.modPipeOf (c : Core) (o : Bool) (f : Pipe → Pipe) : Core :=
  if o then c.modRegs (fun r => { r with outr := f r.outr }) else c.modRegs (fun r => { r with task := f r.task })

/-- Place i among the load requests, or the store requests, of a core: the task's come before the outrider's. -/
def Core.lqPlace (c : Core) (i : Nat) : Bool × Nat :=
  if i < c.regs.task.lq.length then (false, i) else (true, i - c.regs.task.lq.length)
def Core.sqPlace (c : Core) (i : Nat) : Bool × Nat :=
  if i < c.regs.task.sq.length then (false, i) else (true, i - c.regs.task.sq.length)

/-- Empty the L1 if an acquire asked for it before the next global access issues (R237, R348). -/
def settleAcq (s : State) : State :=
  if s.me.cache.acq then s.modMe (fun c => { c with cache := { c.cache with l1 := [], acq := false } }) else s

/-- A place in bundle order: an L syllable comes before the W syllable of its own bundle (R141). -/
def keyL (r : Req LdOp) : Nat := 2 * r.bn
def keyW (r : Req StOp) : Nat := 2 * r.bn + 1

/-- A unit of a request still to be performed overlaps a range of bytes; of one without addresses nothing does. -/
def Req.overlaps {α : Type} (r : Req α) (pa n : Nat) : Bool :=
  r.park.isSome ||
    (!r.units.isEmpty && r.todo.any (fun i => r.units.getD i 0 < pa + n && pa < r.units.getD i 0 + r.ulen))

/-- A request has not been performed. -/
def Req.open' {α : Type} (r : Req α) : Bool := r.park.isSome || !r.todo.isEmpty

def LdOp.acquires : LdOp → Bool
  | .acq _ | .wait _ _ _ | .stamp => true
  | _ => false

def StOp.acquires : StOp → Bool
  | .amo _ _ _ _ _ (some _) _ => true
  | _ => false

/-- The scope of a mark, fence or release: none for any other request; mark acts at core (R141). -/
def StOp.fenceScope : StOp → Option Nat
  | .mark => some 0
  | .fence s => some s
  | .rel s => some s
  | .amo _ _ _ _ _ _ (some s) => some s
  | _ => none

/-- A request that orders the accesses of later bundles after those of earlier ones. -/
def StOp.isFence : StOp → Bool
  | .mark | .fence _ => true
  | _ => false

def StOp.isRel : StOp → Bool
  | .rel _ => true
  | _ => false

/-- A W syllable that orders later accesses: mark, fence, strel, amoacq and casacq (R141, R142). -/
def ordersLater (u : BitVec 32) : Bool := field u 25 7 ∈ [0x14, 0x15, 0x0B, 0x0F, 0x12]

/-- Every global access before key k in bundle order is performed at its home (R141). -/
def allBefore (p : Pipe) (k : Nat) : Bool :=
  p.lq.all (fun r => !(keyL r < k && r.open' && (match r.op with | .partner _ => false | _ => true))) &&
  p.sq.all (fun r => !(keyW r < k && r.open' && !r.op.isFence))

/-- No acquire before key k is still to be performed, and W holds no syllable that orders an access of key k after others
(R141, R142). -/
def acquiresDone (p : Pipe) (k : Nat) : Bool :=
  p.lq.all (fun r => !(keyL r < k && r.op.acquires && r.open')) &&
  p.sq.all (fun r => !(keyW r < k && r.op.acquires && r.open')) &&
  p.wq.all (fun e => !(2 * e.bn + 1 < k && ordersLater e.syl))

/-- No request before key k to the home of pa is still to be performed; a parked one, or a fill without addresses, may be to any.
A pod window keeps address bits [29:0], so its lines have the slice number of their remote address (R367, R368); slices of one number
on two modules count as one home, as R141 lets them (log entry 88). -/
def homeDone (p : Pipe) (k pa : Nat) : Bool :=
  p.lq.all (fun r => !(keyL r < k && r.open' &&
    (r.park.isSome || (isFill r && r.units.isEmpty) || r.units.any (fun u => homeOf u = homeOf pa)))) &&
  p.sq.all (fun r => !(keyW r < k && r.open' && (r.park.isSome || r.units.any (fun u => homeOf u = homeOf pa))))

/-- A mark, fence or release of the store queue before key k holds back an access to bytes [pa, pa + n): a fence wider than core
until all before it are performed, a mark until those to the same home are, and a release until no store up to it overlaps the
bytes (R141, R229). -/
def fenceHolds (p : Pipe) (k pa n : Nat) (f : Req StOp) : Bool :=
  keyW f < k &&
  ((f.op.isFence && !(if f.op.fenceScope = some 0 then homeDone p (keyW f) pa else allBefore p (keyW f))) ||
    (f.op.isRel && p.sq.any (fun r => keyW r ≤ keyW f && r.overlaps pa n)))

/-- The order of R139, R141 and R229 lets an access of key k to bytes [pa, pa + n) be performed: no earlier acquire is open, no
fence holds it back, and no earlier request of its queue overlaps it. -/
def inOrder (p : Pipe) (isStore : Bool) (k pa n : Nat) : Bool :=
  acquiresDone p k && p.sq.all (fun f => !fenceHolds p k pa n f) &&
  (if isStore then p.sq.all (fun r => !(keyW r < k && r.overlaps pa n))
   else p.lq.all (fun r => !(keyL r < k && r.overlaps pa n)))

/-- The same of an access that has no address: every fence or mark before it waits for all before the fence. -/
def inOrderPlain (p : Pipe) (k : Nat) : Bool :=
  acquiresDone p k && p.sq.all (fun f => !(keyW f < k && f.op.isFence) || allBefore p (keyW f))

/-- The scratchpad, accumulator and mail writes of the bundles before bn have landed, `cscnt` of the F slot among them (R189,
R347). -/
def writesDone (p : Pipe) (bn : Nat) : Bool :=
  p.spst.all (fun x => bn ≤ x.bn) && p.fq.all (fun e => bn ≤ e.bn || field e.syl 25 7 ≠ 0x14) &&
  p.flight.all (fun f => match f.tgt with | .mail _ => false | _ => true)

/-- The fixed group has issued the bundle of a request: it is sent (R264). -/
def sent (p : Pipe) (k : Nat) : Bool := k / 2 < p.bn

/-- An access of key k to bytes [pa, pa + n) may be performed. -/
def mayPerform (p : Pipe) (isStore : Bool) (k pa n : Nat) : Bool := sent p k && inOrder p isStore k pa n

/-- Put bytes of unit i into a request's value. -/
def Req.put {α : Type} (r : Req α) (i v : Nat) : Req α :=
  { r with
    todo := r.todo.filter (fun j => j ≠ i)
    val := r.val ||| BitVec.ofNat 2048 (v % 2 ^ (8 * r.ulen) * 2 ^ (8 * r.ulen * i)) }

end Sys2Proof.Machine
end

