-- ==== Sys2Proof/Machine/GlobalStore.lean ====
section
/-! DEFINITION. The W slot's global stores, ordering opcodes, atomics, mail, discard, cache maintenance, doorbells, arrivals
and engine stores (R138, R141 to R148, R155, R186 to R190, R305, R347). -/

namespace Sys2Proof.Machine

open Host (Outcome)

/-- A new request of the W slot, for the head of its queue. -/
def newStore (s : State) (op : StOp) (va : Word) (n ulen : Nat) (units : List Nat) (park : Option Nat) (v : Nat) :
    Req StOp where
  id := s.wHead.bn
  bn := s.wHead.bn
  addr := s.wHead.addr
  op := op
  va := va
  n := n
  ulen := ulen
  units := units
  todo := List.range n
  val := natVec v
  how := .vec
  park := park
  entry := none
  since := s.now
  due := none
  bad := none
  again := false

def enterStore (r : Req StOp) (s : State) : State := wPop (s.modPipe (fun p => { p with sq := p.sq ++ [r] }))

/-- W holds its syllable at the head of its queue (R12). -/
def wHold (s : State) : State := s

/-- The W slot issues only once a store-queue entry is free (R12). -/
def withStoreEntry (s : State) (k : State → State) : State :=
  if s.pipe.sqFull then wHold s else k s

/-- A global store of n units of ulen bytes at ea, holding v. -/
def globalStore (op : StOp) (n ulen al v : Nat) (ea : Word) (own : Nat → Option Nat) (s : State) : State :=
  withStoreEntry s (fun s =>
    issueAccess ⟨true, ea, n * ulen, 1, true, ea.toNat % al = 0, own⟩ wHold
      (fun c a s => wStoreTrap s c a s.wHead.d)
      (fun park s =>
        let s1 := settleAcq s
        let units := if park.isSome then [] else unitPas s1 true ea.toNat 1 ulen n
        dropWalks true (enterStore (newStore s1 op ea n ulen units park v) s1)) s)

/-- Channel space takes no plain store (R186). -/
def noChannel (pa : Nat) : Option Nat := if isEngine pa then some cAPERTURE_OP else none
/-- The opcode needs a home slice (R144, R147). -/
def homeOnly (pa : Nat) : Option Nat := if hasHome pa then none else some cHOME_ONLY

def vectorStore (op : StOp) (v : Nat) (ea : Word) (s : State) : State := globalStore op 32 8 8 v ea noChannel s

def scalarStore (op : StOp) (t : BitVec 5) (v : Nat) (ea : Word) (s : State) : State :=
  globalStore op 1 (tyWidth t.toNat / 8) (tyWidth t.toNat / 8) v ea noChannel s

def execWStg (d a b : BitVec 6) (t : BitVec 5) (s : State) : Outcome State Fault Refusal :=
  let _ := (d, a, b)
  .next (scalarStore .plain t s.wHead.d.toNat s.wEa s)
def execWStgx (d a b : BitVec 6) (s : State) : Outcome State Fault Refusal :=
  let _ := (d, a, b)
  .next (vectorStore .plain s.wHead.d.toNat s.wEa s)
def execWStgi (j : BitVec 3) (p : BitVec 1) (o : BitVec 11) (d : BitVec 6) (s : State) : Outcome State Fault Refusal :=
  let _ := (j, d)
  .next (if s.wHead.q then vectorStore .plain s.wHead.d.toNat (eaBase s.wHead.base 0 p o 256) s else wPop s)
def execWStgsc (d a b : BitVec 6) (t : BitVec 5) (s : State) : Outcome State Fault Refusal :=
  let _ := (d, a, b)
  .next (vectorStore .plain (fillNat (tyWidth t.toNat) s.wHead.d) s.wEa s)
def execWStnt (d a b : BitVec 6) (s : State) : Outcome State Fault Refusal :=
  let _ := (d, a, b)
  .next (vectorStore .nt s.wHead.d.toNat s.wEa s)

/-- The earlier global accesses of the head are performed as a scope asks: at `core`, in the core's own queues (R141, R142). -/
def earlierDone (s : State) (scope : Nat) : Bool := scope = 0 || allBefore s.pipe (2 * s.wHead.bn + 1)

/-- `strel` holds W until the earlier accesses are performed; b is its data (R138, R142). -/
def execWStrel (c : BitVec 3) (a b : BitVec 6) (t : BitVec 5) (s : State) : Outcome State Fault Refusal :=
  let _ := (a, b)
  .next (if earlierDone s c.toNat then scalarStore (.rel c.toNat) t s.wHead.b.toNat s.wA s else wHold s)

/-- A request that also takes a load-queue entry; the store queue counts as full while the load queue is full (R142, R143). -/
def withBoth (s : State) (k : State → State) : State :=
  if s.pipe.lqFull then wHold s else withStoreEntry s k

/-- The load-queue entry beside a request of the store queue. -/
def partner (s : State) : Req LdOp where
  id := s.wHead.bn
  bn := s.wHead.bn
  addr := s.wHead.addr
  op := .partner s.wHead.bn
  va := 0
  n := 0
  ulen := 0
  units := []
  todo := []
  val := 0
  how := .vec
  park := none
  entry := none
  since := s.now
  due := none
  bad := none
  again := false

def addPartner (s : State) : State := s.modPipe (fun p => { p with lq := p.lq ++ [partner s] })

/-- A mark or fence (R141, R142). -/
def fenceW (op : StOp) (scope : Nat) (s : State) : State :=
  withBoth s (fun s =>
    if earlierDone s scope then
      enterStore { newStore s op 0 1 0 [] none 0 with units := [] } (addPartner (settleAcq s))
    else wHold s)

def execWMark (s : State) : Outcome State Fault Refusal := .next (fenceW .mark 0 s)
def execWFence (c : BitVec 3) (s : State) : Outcome State Fault Refusal := .next (fenceW (.fence c.toNat) c.toNat s)

/-! ## Atomics (R143, R144) -/

/-- An atomic at EA = A: cas gives the expected value captured with the operands. -/
def atomicW (op : Nat) (t : BitVec 3) (n : BitVec 1) (m : BitVec 2) (cas : Bool) (acq rel : Option Nat) (s : State) : State :=
  let w := amoWidth t.toNat / 8
  let o := StOp.amo op t.toNat (if n = 1 then none else some m.toNat) (bitsN s.wB.toNat 0 (8 * w))
    (if cas then some (bitsN s.wHead.e.toNat 0 (8 * w)) else none) acq rel
  let go := fun (s : State) =>
    issueAccess ⟨true, s.wA, w, 2, true, s.wA.toNat % w = 0, homeOnly⟩ wHold (fun c a s => wTrap s c a)
      (fun park s =>
        let s1 := settleAcq s
        let units := if park.isSome then [] else unitPas s1 true s1.wA.toNat 2 w 1
        dropWalks true (enterStore (newStore s1 o s1.wA 1 w units park 0) (if n = 1 then s1 else addPartner s1))) s
  if n = 1 then withStoreEntry s go else withBoth s go

def execWAmo (n : BitVec 1) (m : BitVec 2) (a b : BitVec 6) (o t : BitVec 3) (s : State) : Outcome State Fault Refusal :=
  let _ := (a, b)
  .next (atomicW o.toNat t n m false none none s)
def execWAmoacq (c : BitVec 3) (n : BitVec 1) (m : BitVec 2) (a b : BitVec 6) (o t : BitVec 3) (s : State) :
    Outcome State Fault Refusal :=
  let _ := (a, b)
  .next (atomicW o.toNat t n m false (some c.toNat) none s)
def execWAmorel (c : BitVec 3) (n : BitVec 1) (m : BitVec 2) (a b : BitVec 6) (o t : BitVec 3) (s : State) :
    Outcome State Fault Refusal :=
  let _ := (a, b)
  .next (atomicW o.toNat t n m false none (some c.toNat) s)
def execWCas (n : BitVec 1) (m : BitVec 2) (a b : BitVec 6) (e t : BitVec 3) (s : State) : Outcome State Fault Refusal :=
  let _ := (a, b, e)
  .next (atomicW 6 t n m true none none s)
def execWCasacq (c : BitVec 3) (n : BitVec 1) (m : BitVec 2) (a b : BitVec 6) (e t : BitVec 3) (s : State) :
    Outcome State Fault Refusal :=
  let _ := (a, b, e)
  .next (atomicW 6 t n m true (some c.toNat) none s)
def execWCasrel (c : BitVec 3) (n : BitVec 1) (m : BitVec 2) (a b : BitVec 6) (e t : BitVec 3) (s : State) :
    Outcome State Fault Refusal :=
  let _ := (a, b, e)
  .next (atomicW 6 t n m true none (some c.toNat) s)

/-! ## Discard and cache maintenance (R147, R148, R248) -/

/-- The line of an address. -/
def lineOf (ea : Word) : Word := BitVec.ofNat 64 (ea.toNat / 128 * 128)

def execWDiscard (a b : BitVec 6) (s : State) : Outcome State Fault Refusal :=
  let _ := (a, b)
  .next (withStoreEntry s (fun s =>
    issueAccess ⟨true, lineOf s.wEa, 128, 1, true, true, homeOnly⟩ wHold (fun c x s => wTrap s c (if c = cBAD_VA then s.wEa else x))
      (fun park s =>
        let s1 := settleAcq s
        let units := if park.isSome then [] else unitPas s1 true (lineOf s1.wEa).toNat 1 128 1
        dropWalks true (enterStore (newStore s1 .discard (lineOf s1.wEa) 1 128 units park 0) s1)) s))

/-- `wb` and `inv` are dropped where the translation is missing, and never fault for it. -/
def lineOp (op : StOp) (s : State) : State :=
  withStoreEntry s (fun s =>
    let ea := lineOf s.wEa
    if 2 ^ 60 ≤ s.wEa.toNat then wTrap s cBAD_VA s.wEa
    else match lookAt s s.cur.toNat true ea.toNat 4 with
      | .wait => wHold (askWalk true ea.toNat 4 s)
      | .trap c => if c = cNOT_MAPPED then dropWalks true (wPop s) else wTrap (dropWalks true s) c s.wEa
      | .park _ => dropWalks true (wPop s)
      | .leaf l =>
        match accessFault s 0 (l.pa ea.toNat) s.wEa.toNat with
        | some (c, x) => wTrap (dropWalks true s) c (BitVec.ofNat 64 x)
        | none => dropWalks true (enterStore (newStore s op ea 1 128 [l.pa ea.toNat] none 0) (settleAcq s)))

def execWWb (a b : BitVec 6) (s : State) : Outcome State Fault Refusal :=
  let _ := (a, b)
  .next (lineOp .wb s)
def execWInv (a b : BitVec 6) (s : State) : Outcome State Fault Refusal :=
  let _ := (a, b)
  .next (lineOp .inv s)

/-! ## Mail, doorbells and arrivals -/

/-- A request without an address. -/
def plainEntryAt (va : Word) (op : StOp) (v : Nat) (s : State) : State :=
  withStoreEntry s (fun s => enterStore (newStore s op va 1 0 [] none v) (settleAcq s))
def plainEntry (op : StOp) (v : Nat) (s : State) : State := plainEntryAt 0 op v s

def execWMailw (m : BitVec 2) (a b : BitVec 6) (s : State) : Outcome State Fault Refusal :=
  let _ := (a, b)
  .next (if 2048 ≤ s.wB.toNat then wTrap s cBAD_PA s.wB
    else plainEntry (.mailw s.wB.toNat m.toNat) s.wA.toNat s)

/-- A doorbell or an arrival needs the k right of its context at a target; it has no virtual address, and TADDR is a free value where
it is denied (R375; log entry 34). -/
def withCommand (target : Nat) (k : State → State) (s : State) : State :=
  if hasRight s s.regs.id.tag 0 target 3 then k s
  else { wTrap s cXLAT_PERM ((Config.freeVec s.fresh).setWidth 64) with fresh := s.fresh + 1 }

def ringW (wake : Bool) (s : State) : State :=
  if 4096 ≤ s.wA.toNat then wTrap s cBAD_PA s.wA
  else withStoreEntry s (withCommand 5 (plainEntry (.ring wake s.wA.toNat) s.wB.toNat))

def execWRingDb (a b : BitVec 6) (s : State) : Outcome State Fault Refusal :=
  let _ := (a, b)
  .next (ringW false s)
def execWRingWk (a b : BitVec 6) (s : State) : Outcome State Fault Refusal :=
  let _ := (a, b)
  .next (ringW true s)

/-- The name of barrier n of a scope, with the instance of a core (R342, R347). -/
def barrierName (scope n core : Nat) : Nat :=
  n % 256 + 2 ^ 8 * scope + 2 ^ 11 * (if scope = 1 then core / 4 else if scope = 2 then core / 64 else 0)

/-- `arrive` arms its entry at W issue; the phase it takes is the one in force when the home counts it (R347). Its request holds
CYCLE at the issue as its address, and the entry's serial and REGTOP.top as its value. -/
def execWArrive (c : BitVec 3) (a : BitVec 6) (j : BitVec 4) (s : State) : Outcome State Fault Refusal :=
  let _ := a
  let name := barrierName c.toNat (s.wA.toNat % 256) s.cur.toNat
  .next (withStoreEntry s (withCommand 4 (fun s =>
    let k := s.fresh
    let top := match s.regs.region.ids with | i :: _ => i.toNat | [] => 0
    let s1 := plainEntryAt (BitVec.ofNat 64 (s.quad s.myQuad).cycle.toNat) (.arrive c.toNat name j.toNat) (k + 2 ^ 64 * top) s
    { s1.modRegs (fun r =>
      { r with arr := vset r.arr j.toNat ⟨true, name, none, 0, none, none, k⟩ }) with fresh := k + 1 })))

/-! ## Engine stores (R186 to R190) -/

/-- Only CMD takes `go` and `stamp`, and only these registers an `apw` (R186). -/
def cmdOnly (pa : Nat) : Option Nat := if isEngine pa && pa % 0x10000 < 8 then none else some cAPERTURE_OP
def apwOnly (pa : Nat) : Option Nat :=
  let o := pa % 0x10000
  if isEngine pa && ((0x100 ≤ o && o < 0x110) || (0x118 ≤ o && o < 0x120) || (0x200 ≤ o && o < 0x280)) then none
  else some cAPERTURE_OP

/-- A valid token field of a command word (R188). -/
def tokenField (w : Word) (lo : Nat) : Option Nat := if bitsN w.toNat (lo + 6) 1 = 1 then some (bitsN w.toNat lo 6) else none

/-- An access to channel space; a refusal of rights is met at the channel, not here (R185). `busy` is the pending token that
stops the syllable once nothing else holds or stops it (R189; log entry 133). -/
def engineStore (op : Nat → StOp) (own : Nat → Option Nat) (busy : Option Nat) (pre : State → State) (s : State) : State :=
  withStoreEntry s (fun s =>
    let va := s.wEa.toNat
    let trap := fun (c : Nat) (a : Word) (s : State) => wStoreTrap (dropWalks true s) c a s.wHead.d
    if 2 ^ 60 < va + 8 then trap cBAD_VA s.wEa s
    else
      let hits := watchHits s.me 1 va 8
      let queue := fun (park : Option Nat) (units : List Nat) (s : State) =>
        match busy with
        | some t => trap cTOKEN_BUSY (BitVec.ofNat 64 t) s
        | none =>
          let s1 := settleAcq s
          dropWalks true (enterStore
            { newStore s1 (op s1.fresh) s1.wEa 1 8 units park (vecWord s1.wHead.d).toNat with id := s1.wHead.bn }
            (pre s1))
      match lookAt s s.cur.toNat true va 1 with
      | .wait => wHold (askWalk true va 1 s)
      | .trap c => trap c s.wEa s
      | .park e =>
        if !hits.isEmpty then wHold s
        else if va % 8 ≠ 0 then trap cMISALIGNED s.wEa s
        else queue (some e) [] s
      | .leaf l =>
        if !hits.isEmpty && !s.me.watch.reported.contains (s.wHead.bn, 5) then
          watchReport hits s.wHead.bn 5 (trap cWATCH s.wEa) s
        else if va % 8 ≠ 0 then trap cMISALIGNED s.wEa s
        else if reservedPa s (l.pa va) then trap cBAD_PA (BitVec.ofNat 64 (l.pa va)) s
        else match own (l.pa va) with
          | some c => trap c s.wEa s
          | none => queue none [l.pa va] s)

/-- A `go` or `stamp` makes its produced token pending at W issue, owned by the new command (R189, R191). -/
def commandW (stamp : Bool) (s : State) : State :=
  match tokenField (vecWord s.wHead.d) 33 with
  | some t =>
    engineStore (fun o => .go stamp (some t) o) cmdOnly
      (if (vget s.regs.tok t Token.reset).st = .pending then some t else none) (fun s =>
      let o := s.fresh
      { s.modRegs (fun r => { r with tok := vset r.tok t ⟨.pending, o⟩ }) with fresh := o + 1 }) s
  | none => engineStore (fun o => .go stamp none o) cmdOnly none (fun s => { s with fresh := s.fresh + 1 }) s

def execWGo (d a b : BitVec 6) (s : State) : Outcome State Fault Refusal :=
  let _ := (d, a, b)
  .next (commandW false s)
def execWStamp (d a b : BitVec 6) (s : State) : Outcome State Fault Refusal :=
  let _ := (d, a, b)
  .next (commandW true s)
def execWApw (d a b : BitVec 6) (s : State) : Outcome State Fault Refusal :=
  let _ := (d, a, b)
  .next (engineStore (fun _ => .apw) apwOnly none id s)

def execWTkset (a : BitVec 6) (s : State) : Outcome State Fault Refusal :=
  let _ := a
  .next (plainEntry (.tkset s.wA.toNat) 0 s)

end Sys2Proof.Machine
end

