-- ==== Sys2Proof/Machine/Irq.lean ====
section
/-! DEFINITION. Host interrupts (R320, R357). -/

namespace Sys2Proof.Machine

open Host (Outcome)

def State.irq (s : State) (v : Nat) : Irq := fget Irq.reset s.irqs v
def State.setIrq (s : State) (v : Nat) (x : Irq) : State := { s with irqs := fset s.irqs v x }

/-- A message goes to the host. -/
def State.tell (s : State) (m : HostMsg) : State := { s with host := s.host ++ [m] }

/-- The message of a vector: sent, or held pending while masked. -/
def irqSend (v : Nat) (s : State) : State :=
  let x := s.irq v
  if x.masked then s.setIrq v { x with pend := 0, msg := true }
  else (s.setIrq v { x with pend := 0 }).tell (.msix v)

def irqCount (x : Irq) : Nat := if x.cnt = 0 then 1 else x.cnt.toNat

/-- A request: the first pending one starts the time limit; enough of them send the message. -/
def irqRequest (v : Nat) (s : State) : State :=
  let x := s.irq v
  let y := { x with
    pend := if x.pend = 0xFFFF then x.pend else x.pend + 1
    first := if x.pend = 0 then s.now else x.first }
  let s1 := s.setIrq v y
  if irqCount y ≤ y.pend.toNat then irqSend v s1 else s1

/-- A write of IRQCOAL takes effect at once (R357). -/
def irqcoalWrite (v : Nat) (w : Word) (s : State) : State :=
  let y := { s.irq v with cnt := w.setWidth 8, tmax := BitVec.ofNat 16 (field w 16 16) }
  let s1 := s.setIrq v y
  if y.pend ≠ 0 && irqCount y ≤ y.pend.toNat then irqSend v s1 else s1

def irqcoalRead (s : State) (v : Nat) : Word :=
  let x := s.irq v
  BitVec.ofNat 64 (x.cnt.toNat + 2 ^ 16 * x.tmax.toNat + 2 ^ 48 * x.pend.toNat)

def execIrqcoalWrite (v : BitVec 11) (x : BitVec 32) (s : State) : Outcome State Fault Refusal :=
  .next (irqcoalWrite v.toNat (x.setWidth 64) s)

/-- tmax µs after the oldest pending request. -/
def execIrqTmaxExpiry (v : BitVec 11) (s : State) : Outcome State Fault Refusal :=
  let x := s.irq v.toNat
  .next (if x.tmax ≠ 0 && x.pend ≠ 0 && x.first + x.tmax.toNat * 1000000 ≤ s.now then irqSend v.toNat s else s)

/-- A vector is masked (m = 1) or unmasked; a held message is sent at unmasking. -/
def execMsixUnmask (v : BitVec 11) (m : BitVec 1) (s : State) : Outcome State Fault Refusal :=
  let x := s.irq v.toNat
  .next (if m = 1 then s.setIrq v.toNat { x with masked := true }
    else
      let s1 := s.setIrq v.toNat { x with masked := false, msg := false }
      if x.msg then s1.tell (.msix v.toNat) else s1)

end Sys2Proof.Machine
end

