-- ==== Sys2Proof/Machine/Journal.lean ====
section
/-! DEFINITION. A dispatcher's accesses to memory, the journal, and the end of packets (R311, R315 to R319). -/

namespace Sys2Proof.Machine

/-! ## Accesses of a dispatcher (R311) -/

def State.disp (s : State) (d : Nat) : Disp := fget Disp.reset s.disps d
def State.modDisp (s : State) (d : Nat) (f : Disp → Disp) : State := { s with disps := fset s.disps d (f (s.disp d)) }
def State.queue (s : State) (q : Nat) : Queue := fget Queue.reset s.queues q
def State.modQueue (s : State) (q : Nat) (f : Queue → Queue) : State :=
  { s with queues := fset s.queues q (f (s.queue q)) }

/-- What an access of n bytes by the dispatcher of die d meets: the first page that does not translate decides; a poisoned line
of a read decides after that. -/
def dispLook (s : State) (d tag kind va n : Nat) : ULook :=
  match (rangeParts 256 va n).findSome? (fun a =>
      match unitLook s (s.disp d).tlb tag 2 kind a with
      | .ok _ => none
      | x => some x) with
  | some x => x
  | none =>
    match unitLook s (s.disp d).tlb tag 2 kind va with
    | .ok pa => if kind = 0 && (rangeParts 128 va n).any (fun a => match unitLook s (s.disp d).tlb tag 2 kind a with
        | .ok p => poisoned s p
        | _ => false) then .poison else .ok pa
    | x => x

/-- The same for queue q, whose reads and writes of lines on other modules wait for the answers of their homes; a route that is
missing counts as an error in the data (R311, R368; log entry 141). -/
def dispTry (s : State) (q d tag kind va n : Nat) : ULook :=
  match dispLook s d tag kind va n with
  | .ok pa =>
    let pas := if s.podwin.isEmpty then [] else (rangeParts 128 va n).filterMap (fun a =>
      match unitLook s (s.disp d).tlb tag 2 kind a with | .ok p => some p | _ => none)
    if pas.any (noRoute s) then .poison
    else match farOpen s (512 + q) (kind = 1) pas with
      | l :: _ => .park (farEntry (512 + q) l (kind = 1))
      | [] => if farRefused s (512 + q) then .fault cXLAT_PERM else .ok pa
  | x => x

/-- Queue q waits for a line of another module, itself or a node of its that finishes. -/
def farWaits (s : State) (q : Nat) : Bool :=
  (match (s.queue q).block with | .park e => (farMark e).isSome | _ => false) ||
  s.nodes.any (fun e => e.2.queue = q && e.2.parkFin.any (fun k => (farMark k).isSome))

/-- An act of a dispatcher for queue q is over: the lines of other modules that it used are done with, unless it waits for one. -/
def farRest (q : Nat) (s : State) : State := if s.podreqs.isEmpty || farWaits s q then s else farDone (512 + q) s

/-- The address at which an access of n bytes meets what dispLook gives: the first that does not translate, or its first byte. -/
def dispAt (s : State) (d tag kind va n : Nat) : Nat :=
  ((rangeParts 256 va n).find? (fun a => match unitLook s (s.disp d).tlb tag 2 kind a with | .ok _ => false | _ => true)).getD va

/-- The physical address of a dispatcher's byte. -/
def dispPa (s : State) (d tag kind va : Nat) : Nat :=
  match unitLook s (s.disp d).tlb tag 2 kind va with
  | .ok pa => pa
  | _ => 0

/-- n bytes read for queue q, once the access is known to be good. -/
def dispRead (s : State) (q d tag va n : Nat) : Nat :=
  leNat ((List.range n).map (fun i => unitByte s (512 + q) tag (dispPa s d tag 0 (va + i))))

/-- The leaves the access walked enter the dispatcher's TLB of 64 entries (R243). -/
def dispEnter (d tag kind va n : Nat) (s : State) : State :=
  let s1 := s.modDisp d (fun x => { x with tlb := enterUnit s 64 x.tlb tag kind (rangeParts 4096 va n) })
  { s1 with fresh := s1.fresh + 2 ^ 52 }

def dispWrite (d tag va n v : Nat) (s : State) : State :=
  dispEnter d tag 1 va n (memWrite tag ((List.range n).map (fun i =>
    (dispPa s d tag 1 (va + i), BitVec.ofNat 8 (v / 2 ^ (8 * i))))) s)

/-! ## The journal (R315 to R317) -/

/-- The address of a journal byte. The dispatcher journals with its own right, also for a terminating context: only the
translation decides (log entry 17). -/
def journalPa (s : State) (d tag kind va : Nat) : Option Nat :=
  match (unitLeaf s (s.disp d).tlb tag kind va).2 with
  | .ok pa => if reservedPa s pa then none else some pa
  | _ => none

/-- n bytes of the journal can be reached. -/
def journalOk (s : State) (d tag kind va n : Nat) : Bool :=
  (rangeParts 4096 va n).all (fun a => (journalPa s d tag kind a).isSome)

def journalRead (s : State) (d tag va n : Nat) : Nat :=
  leNat ((List.range n).map (fun i => match journalPa s d tag 0 (va + i) with
    | some pa => memByte s s.fresh tag pa
    | none => 0))

def journalWrite (d tag va n v : Nat) (s : State) : State :=
  dispEnter d tag 1 va n (memWrite tag ((List.range n).filterMap (fun i =>
    (journalPa s d tag 1 (va + i)).map (fun pa => (pa, BitVec.ofNat 8 (v / 2 ^ (8 * i)))))) s)

/-- nrec, widx and ridx of a context's journal, if its header can be read. -/
def journalHead (s : State) (d tag : Nat) : Option (Nat × Nat × Nat) :=
  let j := (s.ctx tag).jrnl
  if journalOk s d tag 0 j 24 then
    some (journalRead s d tag j 4, journalRead s d tag (j + 8) 8, journalRead s d tag (j + 16) 8)
  else none

/-- Records that can still be written; none where the journal cannot be reached. -/
def journalFree (s : State) (d tag : Nat) : Option Nat :=
  (journalHead s d tag).map (fun h => h.1 - (h.2.1 - h.2.2))

/-- The bits of a record (R316). -/
def journalRec (ty q seq code detail origin time head va : Nat) : BitVec 256 :=
  BitVec.ofNat 256 (ty + 2 ^ 4 * q + 2 ^ 16 * seq + 2 ^ 32 * code + 2 ^ 40 * detail + 2 ^ 48 * origin + 2 ^ 64 * (time % 2 ^ 64) +
    2 ^ 128 * head + 2 ^ 192 * va)

def recType (r : BitVec 256) : Nat := field r 0 4

/-- The slots of the next k records, and widx, can be written. -/
def slotsOk (s : State) (d tag k : Nat) : Bool :=
  match journalHead s d tag with
  | some (nrec, widx, _) =>
    (List.range k).all (fun i => journalOk s d tag 1 ((s.ctx tag).jrnl + 0x40 + 32 * ((widx + i) % nrec)) 32) &&
      journalOk s d tag 1 ((s.ctx tag).jrnl + 8) 8
  | none => false

/-- A record of a packet has its reserved room; a queue-failed or context-dead record needs one that is not reserved. -/
def canWrite (s : State) (d tag : Nat) (r : BitVec 256) : Bool :=
  match journalFree s d tag with
  | none => false
  | some f => (if recType r ≤ 4 then 0 < f else (s.ctx tag).reserved < f) && slotsOk s d tag 1

/-- Write one record and advance widx past it. -/
def putRecord (d tag : Nat) (r : BitVec 256) (s : State) : State :=
  match journalHead s d tag with
  | none => s
  | some (nrec, widx, _) =>
    let j := (s.ctx tag).jrnl
    let c := s.ctx tag
    (journalWrite d tag (j + 8) 8 (widx + 1) (journalWrite d tag (j + 0x40 + 32 * (widx % nrec)) 32 r.toNat s)).setCtx tag
      { c with reserved := if recType r ≤ 4 then c.reserved - 1 else c.reserved }

/-- A held record is written before any later record of its queue, and the context-dead record after every other (R317). -/
def heldBehind (kept : List (BitVec 256)) (r : BitVec 256) : Bool :=
  if recType r = 6 then !kept.isEmpty else kept.any (fun k => recType k = 6 || field k 4 12 = field r 4 12)

/-- Write the records held for a context, in order, as far as there is room; kept are those that still wait. -/
def flushHeld (d tag : Nat) (kept : List (BitVec 256)) : List (BitVec 256) → State → State
  | [], s => s.setCtx tag { s.ctx tag with jheld := kept }
  | r :: l, s =>
    if !heldBehind kept r && canWrite s d tag r then flushHeld d tag kept l (putRecord d tag r s)
    else flushHeld d tag (kept ++ [r]) l s

def flushJournal (d tag : Nat) (s : State) : State :=
  if (s.ctx tag).jheld.isEmpty then s else flushHeld d tag [] (s.ctx tag).jheld s

/-- Journal a record: at once, or held until there is room. No record is dropped. -/
def journal (d tag : Nat) (r : BitVec 256) (s : State) : State := flushHeld d tag [] ((s.ctx tag).jheld ++ [r]) s

/-! ## Packets (R303, R316 to R318) -/

def Packet.seq (p : Packet) : Nat := field p.bits 0 16
def Packet.ty (p : Packet) : Nat := field p.bits 16 4
def Packet.dl (p : Packet) : Nat := field p.bits 32 32
def Packet.va (p : Packet) : Nat := field p.bits 64 60

/-- A record of a packet of queue q. -/
def packetRec (s : State) (q : Nat) (p : Packet) (ty code detail : Nat) : BitVec 256 :=
  journalRec ty q p.seq code detail p.arm.toNat s.ns p.head.toNat p.va

/-- Journal a record of a packet, by the dispatcher of its queue. -/
def journalPk (p : Packet) (r : BitVec 256) (s : State) : State := journal p.qhome p.qtag r s

def Queue.packet (x : Queue) (n : Nat) : Option Packet := x.pkts.find? (fun p => p.serial = n)

def modPacket (q n : Nat) (f : Packet → Packet) (s : State) : State :=
  s.modQueue q (fun x => { x with pkts := x.pkts.map (fun p => if p.serial = n then f p else p) })

/-- Forget a packet; a record it reserved and never wrote is free again (R317). -/
def dropPacket (q : Nat) (p : Packet) (s : State) : State :=
  let s1 := s.modQueue q (fun x => { x with pkts := x.pkts.filter (fun y => y.serial ≠ p.serial) })
  if p.started then s1
  else s1.setCtx p.qtag { s1.ctx p.qtag with reserved := (s1.ctx p.qtag).reserved - 1 }

/-- A packet's last record says failed. -/
def endPacket (q : Nat) (p : Packet) (code detail : Nat) (s : State) : State :=
  dropPacket q p (journalPk p (packetRec s q p 4 code detail) s)

/-- A packet is journalled failed and an interrupt is requested on evec (R318). -/
def failPacket (q : Nat) (p : Packet) (code detail : Nat) (s : State) : State :=
  irqRequest p.qevec (endPacket q p code detail s)

/-- Nodes launched and copies started by a packet that have not finished (R310, R317). -/
def packetWork (s : State) (q n : Nat) : Bool :=
  s.nodes.any (fun e => e.2.queue = q && e.2.packet = n &&
    (e.2.st = .reserving || e.2.st = .committed || e.2.st = .running)) ||
  s.chans.any (fun e => e.2.cmds.any (fun c => c.packet = some (q, n))) ||
  s.disps.any (fun e => e.2.copies.any (fun c => c.2.2 = (q, n)))

/-- A packet whose run has ended with done is journalled when its work has finished: finished, or failed with the code that its
work met (R317, R329). -/
def settlePacket (q n : Nat) (s : State) : State :=
  match (s.queue q).packet n with
  | none => s
  | some p =>
    if p.finish && !packetWork s q n then
      match p.bad with
      | some (c, d) => failPacket q p c d s
      | none => dropPacket q p (journalPk p (packetRec s q p 3 0 0) s)
    else s

end Sys2Proof.Machine
end

