-- ==== Sys2Proof/Machine/Payload.lean ====
section
/-! DEFINITION. Templates of the copy engine: their fields, the checks made on a template alone, the bytes a command reads and
writes, and the values it writes (R197 to R200, R376, R399). -/

namespace Sys2Proof.Machine

/-! ## Fields (R197, R198) -/

abbrev Tmpl := BitVec 1024

def Tmpl.w (t : Tmpl) (off lo n : Nat) : Nat := field t (8 * off + lo) n
def Tmpl.kind (t : Tmpl) : Nat := t.w 0 0 4
def Tmpl.st (t : Tmpl) : Nat := t.w 0 4 5
def Tmpl.dt (t : Tmpl) : Nat := t.w 0 9 5
def Tmpl.rm (t : Tmpl) : Nat := t.w 0 14 3
def Tmpl.key (t : Tmpl) : Nat := t.w 0 17 10
def Tmpl.kd (t : Tmpl) : Nat := t.w 0 27 2
def Tmpl.ns (t : Tmpl) : Nat := t.w 0 29 3
def Tmpl.src (t : Tmpl) : Nat := t.w 8 0 64
def Tmpl.dst (t : Tmpl) : Nat := t.w 0x10 0 64
def Tmpl.stp (t : Tmpl) : Nat := t.w 0x18 0 64
def Tmpl.n0 (t : Tmpl) : Nat := t.w 0x20 0 32
def Tmpl.n1 (t : Tmpl) : Nat := t.w 0x20 32 32
def Tmpl.ss (t : Tmpl) : Nat := t.w 0x28 0 64
def Tmpl.ds (t : Tmpl) : Nat := t.w 0x30 0 64
def Tmpl.scs (t : Tmpl) : Nat := t.w 0x38 0 64
def Tmpl.scd (t : Tmpl) : Nat := t.w 0x78 0 64
/-- tile -/
def Tmpl.x0 (t : Tmpl) : Int := sextN (t.w 0x40 0 32) 32
def Tmpl.y0 (t : Tmpl) : Int := sextN (t.w 0x40 32 32) 32
def Tmpl.tw (t : Tmpl) : Nat := t.w 0x48 0 32
def Tmpl.th (t : Tmpl) : Nat := t.w 0x48 32 32
def Tmpl.h0 (t : Tmpl) : Nat := t.w 0x50 0 16
def Tmpl.h1 (t : Tmpl) : Nat := t.w 0x50 16 16
def Tmpl.pad (t : Tmpl) : Nat := t.w 0x50 32 32
/-- gath -/
def Tmpl.idx (t : Tmpl) : Nat := t.w 0x40 0 64
def Tmpl.gh (t : Tmpl) : Nat := t.w 0x48 0 32
/-- Source j of radd. -/
def Tmpl.srcN (t : Tmpl) (j : Nat) : Nat := if j = 0 then t.src else t.w (0x38 + 8 * j) 0 64

def isBlock (c : Nat) : Bool := classB c
def isMx (c : Nat) : Bool := 25 ≤ c && c ≤ 29

/-- Rows and columns of the destination, and row widths of both sides (R198, R399). -/
def Tmpl.rows (t : Tmpl) : Nat := if t.kind = 1 then t.n1 + 2 * t.h1 else t.n1
def Tmpl.cols (t : Tmpl) : Nat := if t.kind = 1 then t.n0 + 2 * t.h0 else t.n0
def Tmpl.srcWidth (t : Tmpl) : Nat := if t.kind = 1 then t.tw else t.n0
/-- n0 = 0 or n1 = 0 moves nothing (R199). -/
def Tmpl.empty (t : Tmpl) : Bool := t.n0 = 0 || t.n1 = 0

/-! ## Checks on the template alone -/

/-- The destination an exact MX import needs (R46). -/
def mxExact (st : Nat) : Option Nat :=
  match st with | 25 => some 19 | 26 => some 21 | 27 => some 23 | _ => none

/-- The type pairs of R199. -/
def pairOk (st dt : Nat) : Bool :=
  (typeOf st).isSome && (typeOf dt).isSome && !isMx dt &&
  (match mxExact st with
   | some d => dt = d || classX dt
   | none => true)

/-- radd's types (R198). -/
def raddOk (st dt : Nat) : Bool :=
  if dt = 8 then st = 8 || st = 9 || st = 10
  else (dt = 2 || dt = 6) && classI st && tyWidth st ≤ 32

def rowAddr (base stride r : Nat) : Nat := (base + r * stride) % 2 ^ 64

/-- Alignment an element of a type needs. -/
def elemAlign (c : Nat) : Nat := if tyWidth c < 16 || isMx c then 1 else tyWidth c / 8

/-- An offset that is a multiple of an alignment if every source row that the command uses is: the stride where rows beyond row 0
are used. Which rows a `gath` uses is known once its list is read. -/
def usedRows (t : Tmpl) : Nat :=
  match t.kind with
  | 1 =>
    let lo := t.y0 - t.h1
    if lo + t.rows ≤ 1 || t.th ≤ 1 || (t.th : Int) ≤ lo || t.x0 - t.h0 + t.cols ≤ 0 || (t.tw : Int) ≤ t.x0 - t.h0 then 0
    else if lo + t.rows = (max 1 lo) + 1 || (t.th : Int) ≤ max 1 lo + 1 then (max 1 lo).toNat * t.ss
    else t.ss
  | 2 => 0
  | _ => if 1 < t.n1 then t.ss else 0

/-- The first failure of the template itself: stamp codes 0x06, 0x05, 0x08, 0x0E (R199 to R201, R376; log entry 14). A template that
moves nothing fails as any other (log entry 139). Where a `gath` row begins is known once its list is read. -/
def tmplFault (s : State) (tag : Nat) (t : Tmpl) : Option Nat :=
  let rowsIn := if t.kind = 1 then t.th else t.n1
  let whole := fun (w c : Nat) => w * tyWidth c % 32768 = 0
  let unit := fun (base stride rows w c : Nat) => base % 4096 = 0 && (rows ≤ 1 || stride % 4096 = 0) && whole w c
  if 4 ≤ t.kind then some 6
  else if t.kind = 3 && (typeOf t.st).isSome && (typeOf t.dt).isSome && !raddOk t.st t.dt then some 6
  else if !pairOk t.st t.dt || 5 ≤ t.rm then some 5
  else if ((isBlock t.st || isMx t.st) && t.srcWidth % 32 ≠ 0) || (isBlock t.dt && t.cols % 32 ≠ 0) then some 5
  else if t.n0 * tyWidth t.st % 8 ≠ 0 || t.n0 * tyWidth t.dt % 8 ≠ 0 then some 6
  else if t.kd ≠ 0 &&
      (let k := fget 0 s.keyh t.key
       !(k.getLsbD 12 && field k 0 12 = tag && (t.kd % 2 = 0 || k.getLsbD 13) && (t.kd < 2 || k.getLsbD 14) &&
         k.getLsbD (15 + t.kind))) then some 8
  else if (t.kd % 2 = 1 && !(if t.kind = 2 then whole t.srcWidth t.st
        else (List.range (if t.kind = 3 then t.ns + 1 else 1)).all (fun j => unit (t.srcN j) t.ss rowsIn t.srcWidth t.st))) ||
      (2 ≤ t.kd && !unit t.dst t.ds t.rows t.cols t.dt) then some 6
  else if t.src % elemAlign t.st ≠ 0 || usedRows t % elemAlign t.st ≠ 0 || t.dst % elemAlign t.dt ≠ 0 ||
      (1 < t.rows && t.ds % elemAlign t.dt ≠ 0) ||
      (isBlock t.st && t.scs % 4 ≠ 0) || (isBlock t.dt && t.scd % 4 ≠ 0) || (t.kind = 2 && t.idx % 4 ≠ 0) ||
      (t.kind = 3 && (List.range (t.ns + 1)).any (fun j => t.srcN j % elemAlign t.st ≠ 0)) then some 0xE
  else none

/-! ## The bytes read and written -/

/-- A part of a source row: the row's number and address, the first element and how many. -/
structure Seg where
  y    : Nat
  addr : Nat
  lo   : Nat
  n    : Nat
  deriving DecidableEq, Repr

def readLe (rd : Nat → Byte) (a n : Nat) : Nat := leNat ((List.range n).map (fun i => rd (a + i)))

/-- The source row that destination row r takes, with the source column of its column 0; none for a row of zeros or padding. -/
def rowOfDst (rd : Nat → Byte) (t : Tmpl) (r : Nat) : Option Nat × Int :=
  match t.kind with
  | 1 =>
    let y := t.y0 - t.h1 + r
    (if 0 ≤ y ∧ y < t.th then some y.toNat else none, t.x0 - t.h0)
  | 2 =>
    let i := readLe rd (t.idx + 4 * r) 4
    (if i < t.gh then some i else none, 0)
  | _ => (some r, 0)

def segOf (t : Tmpl) (y : Option Nat) (x : Int) : List Seg :=
  match y with
  | none => []
  | some y =>
    let lo := if x < 0 then 0 else x.toNat
    let hi := (x + t.cols).toNat
    let top := if hi < t.srcWidth then hi else t.srcWidth
    if lo < top then [⟨y, rowAddr t.src t.ss y, lo, top - lo⟩] else []

/-- The source rows' parts. -/
def srcSegs (rd : Nat → Byte) (t : Tmpl) : List Seg :=
  if t.empty then []
  else if t.kind = 3 then
    ((List.range (t.ns + 1)).map (fun j => (List.range t.n1).map (fun r => ⟨r, rowAddr (t.srcN j) t.ss r, 0, t.n0⟩))).flatten
  else ((List.range t.rows).map (fun r => let (y, x) := rowOfDst rd t r; segOf t y x)).flatten

/-- Bytes of n elements of width w from element lo on, at a row address. -/
def elemRange (addr lo n w : Nat) : Nat × Nat := (addr + lo * w / 8, (lo * w % 8 + n * w + 7) / 8)

/-- The address of the scale entry of element (y, x) of a side (R399). -/
def scaleAddr (base width e y x : Nat) : Nat := base + e * (y * (width / 32) + x / 32)
def srcScaleSize (t : Tmpl) : Nat := if isBlock t.st then 4 else 1

/-- The index list (R198). -/
def listRange (t : Tmpl) : List (Nat × Nat) := if t.kind = 2 && !t.empty then [(t.idx, 4 * t.n1)] else []

/-- The ranges read: rows and scale entries. -/
def readRanges (rd : Nat → Byte) (t : Tmpl) : List (Nat × Nat) :=
  let segs := srcSegs rd t
  segs.map (fun g => elemRange g.addr g.lo g.n (tyWidth t.st)) ++
  (if isBlock t.st || isMx t.st then segs.map (fun g =>
      let e := srcScaleSize t
      let a := scaleAddr t.scs t.srcWidth e g.y g.lo
      (a, scaleAddr t.scs t.srcWidth e g.y (g.lo + g.n - 1) + e - a)) else [])

/-- The ranges written: rows and scale words. -/
def writeRanges (t : Tmpl) : List (Nat × Nat) :=
  if t.empty then []
  else (List.range t.rows).map (fun r => elemRange (rowAddr t.dst t.ds r) 0 t.cols (tyWidth t.dt)) ++
    (if isBlock t.dt then [(t.scd, 4 * (t.rows * (t.cols / 32)))] else [])

/-! ## Values -/

/-- Element k of a row. -/
def elemRaw (rd : Nat → Byte) (addr k w : Nat) : Nat :=
  bitsN (readLe rd (addr + k * w / 8) ((k * w % 8 + w + 7) / 8)) (k * w % 8) w

/-- The scale entry of a source element. -/
def srcScale (rd : Nat → Byte) (t : Tmpl) (y x : Nat) : Nat :=
  readLe rd (scaleAddr t.scs t.srcWidth (srcScaleSize t) y x) (srcScaleSize t)

/-- The value of a source element (R199). -/
def srcVal (rd : Nat → Byte) (t : Tmpl) (raw y x : Nat) : FVal :=
  if isBlock t.st then blockVal (sextN raw (blockW t.st)) (srcScale rd t y x)
  else match typeOf t.st with
    | some (.mx f) =>
      let e := srcScale rd t y x
      if e = 0xFF then .nan else fScale (fpVal f raw) ((e : Int) - 127)
    | some ty => elemVal ty raw
    | none => .nan

/-- The pad element for a destination outside the block types, and as a value (R199). -/
def padRaw (t : Tmpl) : Nat := if t.dt = 3 then wrapN (sextN t.pad 32) 64 else t.pad % 2 ^ tyWidth t.dt
def padVal (t : Tmpl) : FVal := fpVal f32 t.pad

/-- Destination element (r, k) in the source: its row, and its column if it lies in the row. -/
def srcAt (t : Tmpl) (y : Option Nat) (x : Int) (k : Nat) : Option (Nat × Nat) :=
  match y with
  | none => none
  | some y =>
    let c := x + k
    if 0 ≤ c ∧ c < t.srcWidth then some (y, c.toNat) else none

/-- A converted element outside the block types. -/
def convertElem (rds rd : Nat → Byte) (t : Tmpl) (p : Option (Nat × Nat)) : Nat :=
  match p with
  | none => padRaw t
  | some (y, x) =>
    let raw := elemRaw rds (rowAddr t.src t.ss y) x (tyWidth t.st)
    if t.st = t.dt then raw
    else match typeOf t.dt with
      | some ty => valElem ty t.rm (srcVal rd t raw y x)
      | none => 0

/-- The exact import of a block (R46): the mantissas and the scale word. -/
def importBlock (t : Tmpl) (raws : List Nat) (e : Nat) : List Int × Nat :=
  let (f, k, fine) := match t.st with
    | 25 => (mxe2m1, 1, 0x4000)
    | 26 => (mxe2m3, 3, 0x1000)
    | _ => (mxe3m2, 4, 0x0800)
  if e = 0xFF then (raws.map (fun _ => 0), scaleWord 0 0 false true)
  else
    let ms := raws.map (fun r =>
      match fScale (fpVal f r) k with
      | .fin neg m g => roundInt 1 neg m g
      | _ => 0)
    (ms, scaleWord e fine (ms.all (fun m => m = 0)) false)

/-- Block b of destination row r: 32 mantissas and the scale word (R44, R46, R199). -/
def convertBlock (rds rd : Nat → Byte) (t : Tmpl) (y : Option Nat) (x : Int) (b : Nat) : List Int × Nat :=
  let ps := (List.range 32).map (fun i => srcAt t y x (32 * b + i))
  let raw := fun (p : Nat × Nat) => elemRaw rds (rowAddr t.src t.ss p.1) p.2 (tyWidth t.st)
  let whole := ps.all Option.isSome && (x + 32 * b) % 32 = 0
  match (if whole then ps.head?.join else none) with
  | some p =>
    let raws := ps.map (fun q => match q with | some q => raw q | none => 0)
    if t.st = t.dt then (raws.map (fun r => sextN r (blockW t.dt)), srcScale rd t p.1 p.2)
    else if (mxExact t.st).isSome then importBlock t raws (srcScale rd t p.1 p.2)
    else quantBlock (blockW t.dt) t.rm (ps.map (fun q => match q with | some q => srcVal rd t (raw q) q.1 q.2 | none => .nan))
  | none =>
    quantBlock (blockW t.dt) t.rm (ps.map (fun q => match q with | some q => srcVal rd t (raw q) q.1 q.2 | none => padVal t))

/-- One element of `radd`: the destination element, then each source in the order listed (R198). Of an encrypted destination the
element is read as it is stored, not decrypted (log entry 137). -/
def raddElem (rds rd : Nat → Byte) (t : Tmpl) (r k : Nat) : Nat :=
  let d := elemRaw rd (rowAddr t.dst t.ds r) k 32
  (List.range (t.ns + 1)).foldl (fun acc j =>
    let raw := elemRaw rds (rowAddr (t.srcN j) t.ss r) k (tyWidth t.st)
    if t.dt = 8 then toFp f32 0 (fAdd (fpVal f32 acc) (match typeOf t.st with | some ty => elemVal ty raw | none => .nan))
    else (acc + wrapN (sextN raw (if tySigned t.st then tyWidth t.st else tyWidth t.st + 1)) 32) % 2 ^ 32) d

/-- Elements of width w as the bytes of a row. -/
def rowBytes (w : Nat) (l : List Nat) : List Byte :=
  let n := l.foldr (fun e acc => e % 2 ^ w + 2 ^ w * acc) 0
  (List.range ((l.length * w + 7) / 8)).map (fun i => BitVec.ofNat 8 (n / 2 ^ (8 * i)))

/-- Destination row r: its bytes before encryption, and its scale words. A `gath` row past the source's last is zero bytes, and of a
block-integer type has zero scale words too (R198; log entry 138). -/
def dstRow (rds rd : Nat → Byte) (t : Tmpl) (r : Nat) : List Byte × List Nat :=
  let (y, x) := rowOfDst rd t r
  if t.kind = 3 then (rowBytes 32 ((List.range t.n0).map (raddElem rds rd t r)), [])
  else if t.kind = 2 && y.isNone then
    (rowBytes (tyWidth t.dt) (List.replicate t.n0 0), if isBlock t.dt then List.replicate (t.n0 / 32) 0 else [])
  else if isBlock t.dt then
    let bs := (List.range (t.cols / 32)).map (convertBlock rds rd t y x)
    (rowBytes (tyWidth t.dt) ((bs.map (fun b => b.1.map (fun m => wrapN m (tyWidth t.dt)))).flatten), bs.map (fun b => b.2))
  else (rowBytes (tyWidth t.dt) ((List.range t.cols).map (fun k => convertElem rds rd t (srcAt t y x k))), [])

/-! ## What a byte of the destination is computed from (R206) -/

/-- The ranges that the source elements ks of destination row r are computed from. -/
def elemNeeds (rd : Nat → Byte) (t : Tmpl) (r : Nat) (ks : List Nat) : List (Nat × Nat) :=
  let raw := fun (a : Nat × Nat) => if t.kd % 2 = 1 then (a.1 / 4096 * 4096, (a.1 % 4096 + a.2 + 4095) / 4096 * 4096) else a
  if t.kind = 3 then
    (ks.map (fun k => elemRange (rowAddr t.dst t.ds r) k 1 32 ::
      (List.range (t.ns + 1)).map (fun j => raw (elemRange (rowAddr (t.srcN j) t.ss r) k 1 (tyWidth t.st))))).flatten
  else
    let (y, x) := rowOfDst rd t r
    (if t.kind = 2 then [(t.idx + 4 * r, 4)] else []) ++
    (ks.filterMap (srcAt t y x)).map (fun p => raw (elemRange (rowAddr t.src t.ss p.1) p.2 1 (tyWidth t.st))) ++
    (if isBlock t.st || isMx t.st then
      (ks.filterMap (srcAt t y x)).map (fun p => (scaleAddr t.scs t.srcWidth (srcScaleSize t) p.1 p.2, srcScaleSize t)) else [])

/-- The elements that byte o of a destination row is computed from: those in it, their blocks, or their unit of encryption. -/
def byteElems (t : Tmpl) (o : Nat) : List Nat :=
  let w := tyWidth t.dt
  let (lo, hi) := if 2 ≤ t.kd then (o / 4096 * 32768 / w, (o / 4096 * 32768 + 32767) / w) else (o * 8 / w, (o * 8 + 7) / w)
  let (lo, hi) := if isBlock t.dt then (lo / 32 * 32, hi / 32 * 32 + 31) else (lo, hi)
  (List.range (hi + 1 - lo)).filterMap (fun i => if lo + i < t.cols then some (lo + i) else none)

/-- The bytes that a command writes, as virtual addresses, each with what it is computed from. -/
def tmplNeeds (rd : Nat → Byte) (t : Tmpl) : List (Nat × List (Nat × Nat)) :=
  if t.empty then []
  else
    ((List.range t.rows).map (fun r => (List.range ((t.cols * tyWidth t.dt + 7) / 8)).map (fun o =>
      (rowAddr t.dst t.ds r + o, elemNeeds rd t r (byteElems t o))))).flatten ++
    (if isBlock t.dt then (List.range (t.rows * (t.cols / 32) * 4)).map (fun i =>
      let b := i / 4 % (t.cols / 32)
      (t.scd + i, elemNeeds rd t (i / 4 / (t.cols / 32)) ((List.range 32).map (fun k => 32 * b + k)))) else [])

/-! ## Encryption (R200, R376) -/

/-- A byte of an encrypted source row. -/
def decByte (rd : Nat → Byte) (t : Tmpl) (a : Nat) : Byte :=
  if t.kd % 2 = 1 then
    let u := a / 4096
    BitVec.ofNat 8 (field (Config.xts false t.key u (BitVec.ofNat 32768 (readLe rd (u * 4096) 4096))) (8 * (a % 4096)) 8)
  else rd a

/-- The bytes of a row at an address, encrypted where the template asks. -/
def encRow (t : Tmpl) (a : Nat) (l : List Byte) : List Byte :=
  if 2 ≤ t.kd then
    let n := leNat l
    ((List.range (l.length / 4096)).map (fun u =>
      let x := Config.xts true t.key (a / 4096 + u) (BitVec.ofNat 32768 (n / 2 ^ (32768 * u)))
      (List.range 4096).map (fun i => BitVec.ofNat 8 (field x (8 * i) 8)))).flatten
  else l

/-- Everything a command writes, as (virtual address, byte): rows in order, then scale words. -/
def tmplOut (rd : Nat → Byte) (t : Tmpl) : List (Nat × Byte) :=
  if t.empty then []
  else
    let rows := (List.range t.rows).map (fun r => (rowAddr t.dst t.ds r, dstRow (decByte rd t) rd t r))
    (rows.map (fun e => (encRow t e.1 e.2.1).zipIdx.map (fun b => (e.1 + b.2, b.1)))).flatten ++
    (rowBytes 32 ((rows.map (fun e => e.2.2)).flatten)).zipIdx.map (fun b => (t.scd + b.2, b.1))

end Sys2Proof.Machine
end

