-- ==== Sys2Proof/Machine/Engine.lean ====
section
/-! DEFINITION. Copy engines: acceptance, activation, completion and failure of commands, tokens and stamps (R184 to R207,
R399). -/

namespace Sys2Proof.Machine

open Host (Outcome)

/-! ## Channels and tokens -/

def State.chan (s : State) (c : Nat) : Chan := fget Chan.reset s.chans c
def State.modChan (s : State) (c : Nat) (f : Chan → Chan) : State := { s with chans := fset s.chans c (f (s.chan c)) }

/-- The channel, as die * 16 + channel, of an address in the apertures, and its first byte. -/
def chanOf (pa : Nat) : Nat := (pa - engBase) / 0x100000 * 16 + (pa - engBase) % 0x100000 / 0x10000
def chanBase (c : Nat) : Nat := engBase + c / 16 * 0x100000 + c % 16 * 0x10000

/-- The valid consumed tokens of a command word, with the number of the field. -/
def consumed (w : Word) : List (Nat × Nat) :=
  [12, 19, 26].zipIdx.filterMap (fun e => (tokenField w e.1).map (fun t => (e.2, t)))

/-- Every valid consumed token has been seen ready. -/
def Cmd.satisfied (c : Cmd) : Bool := (consumed c.word).all (fun e => c.seen.getLsbD e.1)

/-- The task that a core's registers belong to: its node and tile. -/
def CoreRegs.taskKey (r : CoreRegs) : Nat × BitVec 48 := (r.id.node, r.id.tile)

/-- A command of core n waits for the tokens of registers r: those of its own task while that is suspended, else the core's. -/
def tokenWaits (s : State) (n : Nat) (r : CoreRegs) (c : Cmd) : Bool :=
  c.core = some n && (c.task = r.taskKey ||
    (r.taskKey = (s.core n).regs.taskKey && !(s.core n).susp.any (fun x => x.image.taskKey = c.task)))

/-- A token t becomes ready: the commands that wait for it have seen it. It becomes failed: they fail (R195). -/
def Cmd.edge (waits : Cmd → Bool) (t : Nat) (ready : Bool) (c : Cmd) : Cmd :=
  if waits c && c.tmpl.isNone && c.result.isNone then
    (consumed c.word).foldl (fun c e =>
      if e.2 ≠ t then c
      else if ready then { c with seen := c.seen ||| (1 <<< e.1) }
      else if c.seen.getLsbD e.1 then c
      else { c with result := some 0x0C }) c
  else c

/-- Token t of the registers r, of core n or of a task suspended there, becomes ready or failed. -/
def tokenEdge (n : Nat) (r : CoreRegs) (t : Nat) (ready : Bool) (s : State) : State :=
  { s with chans := s.chans.map (fun e => (e.1, { e.2 with cmds := e.2.cmds.map (Cmd.edge (tokenWaits s n r) t ready) })) }

/-- The end of a command acts on the token it still owns (R191). -/
def settleToken (n t owner : Nat) (ok : Bool) (s : State) : State :=
  let own := fun (r : CoreRegs) => (vget r.tok t Token.reset).st = .pending && (vget r.tok t Token.reset).owner = owner
  let s1 := s.modCore n (fun c => c.mapRegs (fun r =>
    if own r then { r with tok := vset r.tok t ⟨if ok then .ready else .failed, 0⟩ } else r))
  (((s.core n).regs :: (s.core n).susp.map (fun x => x.image)).filter own).foldl (fun s r => tokenEdge n r t ok s) s1

/-- `tkset`: each named token that is held or failed becomes ready (R190). -/
def setTokens (n mask : Nat) (s : State) : State :=
  (List.range 64).foldl (fun s t =>
    let x := vget (s.core n).regs.tok t Token.reset
    if mask.testBit t && (x.st = .held || x.st = .failed) then
      tokenEdge n (s.core n).regs t true (s.modCore n (fun c => c.modRegs (fun r => { r with tok := vset r.tok t ⟨.ready, 0⟩ })))
    else s) s

/-- The start of a tile task: every token is ready, with no owner (R191). -/
def resetTokens (n : Nat) (s : State) : State :=
  (List.range 64).foldl (fun s t => tokenEdge n (s.core n).regs t true s)
    (s.modCore n (fun c => c.modRegs (fun r => { r with tok := Vector.replicate 64 Token.reset })))

/-- A refusal is counted at the issuing core (R185, R194). -/
def refuseAt (n : Nat) (s : State) : State :=
  s.modCore n (fun c => { c with refuse := c.refuse + 1, refCode := 7 })

/-! ## Acceptance (R185, R189, R195, R196) -/

/-- A channel holds 8 commands; a command for the shadow template waits while one is accepted and not active. -/
def chanHolds (x : Chan) (w : Word) (marker : Bool) : Bool :=
  8 ≤ x.cmds.length ||
  (!marker && field w 0 12 = 0xFFF && x.cmds.any (fun c => !c.marker && field c.word 0 12 = 0xFFF && c.tmpl.isNone))

/-- The consumed tokens of core n that are ready now. -/
def readyNow (s : State) (n : Nat) (w : Word) : BitVec 3 :=
  (consumed w).foldl (fun b e => if (vget (s.core n).regs.tok e.2 Token.reset).st = .ready then b ||| (1 <<< e.1) else b) 0

def newCmd (s : State) (c : Nat) (w : Word) (marker : Bool) (core : Option Nat) (packet : Option (Nat × Nat)) (owner limit : Nat)
    (seen : BitVec 3) : Cmd where
  word := w
  marker := marker
  core := core
  task := match core with | some n => (s.core n).regs.taskKey | none => (0, 0)
  packet := packet
  owner := owner
  tbase := (s.chan c).tbase
  limit := limit
  seen := seen
  tmpl := none
  park := none
  parked := 0
  result := none
  since := s.now
  old := []

/-- Stores to memory, which an engine store waits for. -/
def StOp.isMemStore : StOp → Bool
  | .plain | .nt | .discard | .rel _ | .amo _ _ _ _ _ _ _ | .winwb _ _ _ _ => true
  | _ => false

def StOp.isMail : StOp → Bool
  | .mailw _ _ => true
  | _ => false

def StOp.isEngineStore : StOp → Bool
  | .go _ _ _ | .apw => true
  | _ => false

/-- The engine store r at place i of the store queue may be performed: every earlier store and mail write is performed, the writes
of earlier bundles have landed, and the earlier engine stores to the same engine are performed (R189). -/
def engineTurn (p : Pipe) (i : Nat) (r : Req StOp) : Bool :=
  r.park.isNone && !r.todo.isEmpty && mayPerform p true (keyW r) (r.units.getD 0 0) 8 && writesDone p r.bn &&
  (p.sq.take i).all (fun x =>
    !x.open' || !(x.op.isMemStore || x.op.isMail ||
      (x.op.isEngineStore && (x.park.isSome || (x.units.getD 0 0) / 0x100000 = (r.units.getD 0 0) / 0x100000))))

/-- The entry leaves the store queue. -/
def dropStore (n : Nat) (o : Bool) (i : Nat) (s : State) : State :=
  s.modCore n (fun c => c.modPipeOf o (fun p => { p with sq := p.sq.eraseIdx i }))

/-- A core's command reaches its channel. -/
def acceptCore (n k : Nat) (s : State) : State :=
  let (o, i) := (s.core n).sqPlace k
  let p := (s.core n).pipeOf o
  match p.sq[i]? with
  | none => s
  | some r =>
    match r.op with
    | .go marker token owner =>
      if !engineTurn p i r then s
      else
        let c := chanOf (r.units.getD 0 0)
        let w : Word := vecWord r.val
        let tag := (s.core n).regs.id.tag
        if (s.chan c).tag ≠ tag || !hasRight s tag 0 3 3 then
          let s1 := refuseAt n (dropStore n o i s)
          match token with
          | some t => settleToken n t owner false s1
          | none => s1
        else if chanHolds (s.chan c) w marker then s
        else
          (dropStore n o i s).modChan c (fun x => { x with cmds := x.cmds ++
            [newCmd s c w marker (some n) none owner (s.core n).regs.lim.parkLimit.toNat (readyNow s n w)] })
    | _ => s

/-- A command of the dispatcher of die d reaches its channel (R310, R312); its park limit is that of its context's record (R201; log
entry 81). -/
def acceptDisp (d : Nat) (s : State) : State :=
  match (s.disp d).copies with
  | [] => s
  | (c, w, q, k) :: rest =>
    if chanHolds (s.chan c) w false then s
    else
      let cmd := newCmd s c w false none (some (q, k)) 0 (field (s.ctx (s.queue q).tag).park 0 20) 0
      let bad := !(consumed w).isEmpty || (tokenField w 33).isSome
      (s.modDisp d (fun x => { x with copies := rest })).modChan c (fun x =>
        { x with cmds := x.cmds ++ [{ cmd with result := if bad then some 0x0B else none }] })

def execCmdAccept (c : CmdSource) (s : State) : Outcome State Fault Refusal :=
  .next (match c with
    | .core n i => acceptCore n.toNat i.toNat s
    | .disp d => acceptDisp d.toNat s)

/-! ## Accesses of an engine (R201) -/

def State.etlbOf (s : State) (d : Nat) : List Leaf := fget [] s.etlb d

/-- Memory a payload may lie in (R399); a stamp may also reach the arrive aperture (R351). -/
def enginePlace (stamp : Bool) (pa : Nat) : Bool := hasHome pa || isPad pa || isAcc pa || isMail pa || (stamp && isArrive pa)

/-- The stamp code of a trap cause (R205). -/
def stampCode (cause : Nat) : Nat :=
  if cause = cBAD_VA then 1 else if cause = cBAD_PA then 2 else if cause = cXLAT_RSVD then 0xF else 3

/-- The state of the accesses a command makes next. -/
inductive CmdLook where
  | ready
  | park (entry va : Nat)
  | fail (code : Nat)
  deriving DecidableEq, Repr

/-- One address of a command's access, for a kind: 0 a read, 1 a write. -/
def engineLook (s : State) (c kind : Nat) (stamp : Bool) (va : Nat) : ULook :=
  match unitLook s (s.etlbOf (c / 16)) (s.chan c).tag 1 kind va with
  | .ok pa => if enginePlace stamp pa then .ok pa else .fault cXLAT_PERM
  | x => x

/-- The first granule of some ranges that the command cannot reach, and for reads the first poisoned line. -/
def engineRanges (s : State) (c kind : Nat) (stamp : Bool) (rs : List (Nat × Nat)) : CmdLook :=
  match rs.findSome? (fun r => (rangeParts 256 r.1 r.2).findSome? (fun a =>
      match engineLook s c kind stamp a with
      | .ok pa => if noRoute s pa then some (.fail 0x0D) else none
      | .park e => some (CmdLook.park e a)
      | .fault f => some (.fail (stampCode f))
      | .poison => some (.fail 9))) with
  | some x => x
  | none =>
    if kind = 0 && rs.any (fun r => (rangeParts 128 r.1 r.2).any (fun a =>
        match engineLook s c kind stamp a with | .ok pa => poisoned s pa | _ => false)) then .fail 9
    else .ready

def CmdLook.andThen (x : CmdLook) (y : CmdLook) : CmdLook := match x with | .ready => y | z => z

/-- The lines of other modules that an access of a command still needs an answer for (R202, R368). -/
def engineFar (s : State) (c kind : Nat) (stamp : Bool) (rs : List (Nat × Nat)) : List Nat :=
  if s.podwin.isEmpty then []
  else farOpen s c (kind = 1) ((rs.map (fun r => (rangeParts 128 r.1 r.2).filterMap (fun a =>
    match engineLook s c kind stamp a with | .ok pa => some pa | _ => none))).flatten)

/-- A byte the command reads. -/
def engineByte (s : State) (c va : Nat) : Byte :=
  match engineLook s c 0 false va with
  | .ok pa => unitByte s c (s.chan c).tag pa
  | _ => 0

/-- Memory as the head command of a channel found it when it became active. -/
def headOld (s : State) (c : Nat) : List Host.Cell := match (s.chan c).cmds with | m :: _ => m.old | [] => s.mem

/-- A byte of the head command's source: as it stands, or, where another master has written it meanwhile, per aligned 8 bytes as
it was when the command became active, by a free choice (R201; log entry 109). -/
def sourceByte (s : State) (c va : Nat) : Byte :=
  match engineLook s c 0 false va with
  | .ok pa =>
    let x := unitByte s c (s.chan c).tag pa
    let y := unitByte { s with mem := headOld s c } c (s.chan c).tag pa
    if x = y then x else if Config.freeBit (s.fresh + 2 ^ 52 + pa / 8) then y else x
  | _ => 0

/-- A source row lies off the alignment of its elements (R201), or begins off the units of encryption (R376). -/
def rowMisaligned (rd : Nat → Byte) (t : Tmpl) : Bool := (srcSegs rd t).any (fun g => g.addr % elemAlign t.st ≠ 0)
def rowOffUnit (rd : Nat → Byte) (t : Tmpl) : Bool := t.kd % 2 = 1 && (srcSegs rd t).any (fun g => g.addr % 4096 ≠ 0)

/-- What an active command with template t meets (R199 to R201); a faulty template fails though it is empty (log entry 139). -/
def payloadLook (s : State) (c : Nat) (t : Tmpl) : CmdLook :=
  match tmplFault s (s.chan c).tag t with
  | some f => .fail f
  | none =>
    (engineRanges s c 0 false (listRange t)).andThen
      ((if t.kind = 2 && rowOffUnit (sourceByte s c) t then .fail 6
        else if t.kind = 2 && rowMisaligned (sourceByte s c) t then .fail 0xE
        else engineRanges s c 0 false (readRanges (sourceByte s c) t)).andThen
        ((engineRanges s c 1 false (writeRanges t)).andThen
          ((if t.kind = 3 then engineRanges s c 0 false (writeRanges t) else .ready).andThen
            (if farRefused s c then .fail 3 else .ready))))

/-- What an active command that nothing else stops still asks of other modules: its list, then what it reads, then what it
writes; false stands for reads (R202). -/
def payloadFar (s : State) (c : Nat) (t : Tmpl) : Option (Bool × List Nat) :=
  let first := engineFar s c 0 false (listRange t)
  let reads := engineFar s c 0 false (readRanges (sourceByte s c) t ++ (if t.kind = 3 then writeRanges t else []))
  let writes := engineFar s c 1 false (writeRanges t)
  if !first.isEmpty then some (false, first)
  else if !reads.isEmpty then some (false, reads)
  else if !writes.isEmpty then some (true, writes)
  else none

/-- The command asks for the lines of other modules, as requests of its context. -/
def engineAsk (c : Nat) (wr : Bool) (l : List Nat) (s : State) : State := farAsk c (s.chan c).tag wr l s

/-- The two lines of a command's template in memory (R196). -/
def tmplAddr (m : Cmd) : Nat := (m.tbase.toNat + 128 * field m.word 0 12) % 2 ^ 64
def shadowCmd (m : Cmd) : Bool := field m.word 0 12 = 0xFFF

def tmplLook (s : State) (c : Nat) (m : Cmd) : CmdLook :=
  if m.marker || shadowCmd m then .ready else engineRanges s c 0 false [(tmplAddr m, 128)]

def readTmpl (s : State) (c : Nat) (m : Cmd) : Tmpl :=
  if m.marker then 0
  else if shadowCmd m then (s.chan c).shadow
  else BitVec.ofNat 1024 (readLe (engineByte s c) (tmplAddr m) 128)

/-- Where a command's stamp goes; none where its template cannot be read any more. A marker takes MSTAMP as it stands when its stamp
is written (R188; log entry 148). -/
def stampAddr (s : State) (c : Nat) (m : Cmd) : Option Nat :=
  if m.marker then some (s.chan c).mstamp.toNat
  else match m.tmpl with
    | some t => some (Tmpl.stp t)
    | none => if tmplLook s c m = .ready then some (Tmpl.stp (readTmpl s c m)) else none

def stampLook (s : State) (c a : Nat) : CmdLook :=
  if a % 8 ≠ 0 then .fail 0xE else engineRanges s c 1 true [(a, 8)]

/-- The leaves of some ranges enter the engine's TLB of 256 entries (R243). -/
def engineEnter (c kind : Nat) (rs : List (Nat × Nat)) (s : State) : State :=
  let d := c / 16
  let t := enterUnit s 256 (s.etlbOf d) (s.chan c).tag kind ((rs.map (fun r => rangeParts 4096 r.1 r.2)).flatten)
  { s with etlb := fset s.etlb d t, fresh := s.fresh + 2 ^ 53 }

/-! ## The head of a channel -/

def modHead (c : Nat) (f : Cmd → Cmd) (s : State) : State :=
  s.modChan c (fun x => { x with cmds := match x.cmds with | m :: r => f m :: r | [] => [] })

/-- A pending head becomes active once its tokens have been seen, and reads its template (R195, R196). -/
def execCmdActivate (c : BitVec 9) (s : State) : Outcome State Fault Refusal :=
  let c := c.toNat
  .next (match (s.chan c).cmds with
    | [] => s
    | m :: _ =>
      if m.tmpl.isSome || m.result.isSome || m.park.isSome || !m.satisfied then s
      else match tmplLook s c m with
        | .ready =>
          let far := if m.marker || shadowCmd m then [] else engineFar s c 0 false [(tmplAddr m, 128)]
          if !far.isEmpty then engineAsk c false far s
          else if farRefused s c then farDone c (modHead c (fun x => { x with result := some 3 }) s)
          else
            let s1 := farDone c (modHead c (fun x => { x with tmpl := some (readTmpl s c m), old := s.mem }) s)
            if m.marker || shadowCmd m then s1 else engineEnter c 0 [(tmplAddr m, 128)] s1
        | .park _ _ => s
        | .fail f => modHead c (fun x => { x with result := some f }) s)

/-! ## The end of a command (R203, R204, R207) -/

/-- The stamp of a command (R203). -/
def stampWord (c code : Nat) (m : Cmd) : Nat := field m.word 40 16 + 2 ^ 16 * code + 2 ^ 24 * (c % 16) + 2 ^ 28 * (c / 16)

/-- The command leaves its channel: failures are counted, its token and its packet learn of the end, and the monitors record
its time when a stamp was written (R191, R393). -/
def endCmd (c : Nat) (m : Cmd) (code : Nat) (stampFail : Option Nat) (s : State) : State :=
  let bad := code ≠ 0 || stampFail.isSome
  let shown := if code ≠ 0 then code else match stampFail with | some f => f | none => 0
  let s1 := (farDone c s).modChan c (fun x =>
    { x with cmds := x.cmds.tail
             fails := if bad then x.fails + 1 else x.fails
             code := if bad then BitVec.ofNat 8 shown else x.code })
  let s2 := match m.core, tokenField m.word 33 with
    | some n, some t => settleToken n t m.owner (!bad) s1
    | _, _ => s1
  let s3 := match m.packet with
    | some (q, k) =>
      settlePacket q k (if bad then modPacket q k (fun p =>
        { p with workBad := match p.workBad with | some d => some d | none => some shown }) s2 else s2)
    | none => s2
  if stampFail.isNone then monRecord s3 (c / 16) 7 (s.chan c).tag 0 ((s.now - m.since) / 1000) else s3

/-- Write the 8 bytes of a stamp: memory, a mail record, or an arrival at a port. -/
def stampStore (c a v : Nat) (s : State) : State :=
  match engineLook s c 1 true a with
  | .ok pa =>
    if isArrive pa then portWrite ((pa - arrBase) / 8) 2 s
    else engineEnter c 1 [(a, 8)] (memWrite (s.chan c).tag ((List.range 8).map (fun i => (pa + i, BitVec.ofNat 8 (v / 2 ^ (8 * i))))) s)
  | _ => s

/-- The stamp of a finished head command, once its address translates. -/
def tryStamp (c : Nat) (s : State) : State :=
  match (s.chan c).cmds with
  | [] => s
  | m :: _ =>
    match m.result with
    | none => s
    | some code =>
      if m.park.isSome then s
      else match stampAddr s c m with
        | none => (match tmplLook s c m with | .fail f => endCmd c m code (some f) s | _ => s)
        | some a =>
          match stampLook s c a with
          | .ready =>
            let far := engineFar s c 1 true [(a, 8)]
            if !far.isEmpty then engineAsk c true far s
            else if farRefused s c then endCmd c m code (some 3) s
            else endCmd c m code none (stampStore c a (stampWord c code m) s)
          | .park _ _ => s
          | .fail f => endCmd c m code (some f) s

/-- Destination bytes of a command with their physical addresses. -/
def payloadBytes (s : State) (c : Nat) (l : List (Nat × Byte)) : List (Nat × Byte) :=
  l.filterMap (fun e =>
    match engineLook s c 1 false e.1 with
    | .ok pa => some (pa, e.2)
    | _ => none)

/-- A source byte of a command whose source and destination overlap, as word w of its destination is computed: per aligned 8 bytes
as sourceByte gives it, or as the command has written it so far (R201). -/
def mixedByte (s : State) (c w : Nat) (done : List (Nat × Byte)) (va : Nat) : Byte :=
  match engineLook s c 0 false va with
  | .ok pa =>
    (match done.find? (fun e => e.1 = pa) with
     | some e => if Config.freeBit (s.fresh + 2 ^ 51 + pa / 8 + 2 ^ 56 * w) then e.2 else sourceByte s c va
     | none => sourceByte s c va)
  | _ => 0

/-- The elements of a list in a free order. -/
def inAnyOrder (k : Nat) : Nat → List Nat → List Nat
  | 0, l => l
  | f + 1, l =>
    let i := field (Config.freeVec (k + f)) 0 64 % l.length
    match l[i]? with
    | some x => x :: inAnyOrder k f (l.eraseIdx i)
    | none => l

/-- What the command writes, as far as `writes` lets it have written the aligned 8 bytes: computed from its source; where it reads
bytes it writes, its words are written in a free order, each computed from old bytes and what it has written before. A
destination element of `radd` is read once, before it is written. -/
def payloadOut (s : State) (c : Nat) (t : Tmpl) (writes : Nat → Bool) : List (Nat × Byte) :=
  let rd := sourceByte s c
  let out := (payloadBytes s c (tmplOut rd t)).filter (fun e => writes (e.1 / 8))
  let dst := out.map (fun e => e.1)
  let src := ((readRanges rd t ++ listRange t).map (fun r => (List.range r.2).map (fun i =>
    match engineLook s c 0 false (r.1 + i) with | .ok pa => pa | _ => 2 ^ 60))).flatten
  if src.any (fun a => dst.contains a) then
    let keep := if t.kind = 3 then ((writeRanges t).map (fun r => (List.range r.2).map (fun i => r.1 + i))).flatten else []
    let words := (dst.map (fun a => a / 8)).eraseDups
    (inAnyOrder (s.fresh + 2 ^ 49) words.length words).foldl (fun done w =>
      done ++ (payloadBytes s c (tmplOut (fun va => if keep.contains va then rd va else mixedByte s c w done va) t)).filter
        (fun e => e.1 / 8 = w)) []
  else out

/-- Lines that a list of bytes writes whole. -/
def wholeLines (l : List Nat) : List Nat :=
  ((l.map (fun a => a / 128)).eraseDups).filter (fun n => (List.range 128).all (fun i => l.contains (n * 128 + i)))

def payloadWrite (c : Nat) (t : Tmpl) (s : State) : State :=
  let out := payloadOut s c t (fun _ => true)
  let s1 := memWrite (s.chan c).tag out s
  let s2 := if s1.poison.isEmpty then s1 else cleanLines (wholeLines (out.map (fun e => e.1))) s1
  engineEnter c 1 (writeRanges t) (engineEnter c 0 (listRange t ++ readRanges (sourceByte s c) t) s2)

/-- The ranges can be read: they translate, and no line of theirs is poisoned. -/
def reachable (s : State) (c : Nat) (rs : List (Nat × Nat)) : Bool := engineRanges s c 0 false rs = .ready

/-- A failed command has stopped somewhere: of the bytes it would have written, each aligned 8 hold their old value or the computed
one, and the old one where it could not read a source of theirs (R206). A template that is at fault writes nothing. -/
def payloadPart (c : Nat) (t : Tmpl) (s : State) : State :=
  if (tmplFault s (s.chan c).tag t).isSome then s
  else
    let lost := ((tmplNeeds (sourceByte s c) t).filter (fun e => !reachable s c e.2)).map (fun e => e.1)
    let gone := (payloadBytes s c (lost.map (fun va => (va, 0)))).map (fun e => e.1 / 8)
    let out := payloadOut s c t (fun w => !gone.contains w && Config.freeBit (s.fresh + 2 ^ 50 + w))
    let s1 := memWrite (s.chan c).tag out s
    { s1 with fresh := s1.fresh + 2 ^ 53 }

/-- The head command has its result: what it still asked of other modules is of no use to it. -/
def headResult (c code : Nat) (s : State) : State := farDone c (modHead c (fun x => { x with result := some code, park := none }) s)

/-- The head command finishes: its last payload byte is performed, then its stamp, then its token is ready (R195, R204). -/
def execCmdDone (c : BitVec 9) (s : State) : Outcome State Fault Refusal :=
  let c := c.toNat
  .next (match (s.chan c).cmds with
    | [] => s
    | m :: _ =>
      match m.result, m.tmpl with
      | some 0, _ => tryStamp c s
      | none, some t =>
        if m.park.isSome then s
        else if m.marker then tryStamp c (headResult c 0 s)
        else if payloadLook s c t = .ready then
          (match payloadFar s c t with
           | some (wr, l) => engineAsk c wr l s
           | none => tryStamp c (headResult c 0 (if Tmpl.empty t then s else payloadWrite c t s)))
        else s
      | _, _ => s)

/-- The head command fails by R205, or has failed: its stamp with the code, then its token is failed. -/
def execCmdFail (c : BitVec 9) (s : State) : Outcome State Fault Refusal :=
  let c := c.toNat
  .next (match (s.chan c).cmds with
    | [] => s
    | m :: _ =>
      match m.result, m.tmpl with
      | some (_ + 1), _ => tryStamp c s
      | none, some t =>
        if m.marker || m.park.isSome then s
        else match payloadLook s c t with
          | .fail f => tryStamp c (headResult c f (payloadPart c t s))
          | _ => s
      | _, _ => s)

/-- Every command of a channel that has no result yet fails; an active one has written part of its payload (R206). -/
def failChan (c code : Nat) (s : State) : State :=
  let s1 := match (s.chan c).cmds with
    | m :: _ =>
      (match m.result, m.tmpl with
       | none, some t => if m.marker then s else payloadPart c t s
       | _, _ => s)
    | [] => s
  (farDone c s1).modChan c (fun x => { x with cmds := x.cmds.map (fun m =>
    { m with result := (match m.result with | none => some code | r => r), park := if m.result.isNone then none else m.park }) })

/-- CABORT is written (R195, R206). The failures are worked off by CMD_FAIL in acceptance order. -/
def execCabort (c : BitVec 9) (s : State) : Outcome State Fault Refusal := .next (failChan c.toNat 0x0C s)

/-- The head has been parked for its limit (R201, R207, R247). -/
def execEngineParkLimit (c : BitVec 9) (s : State) : Outcome State Fault Refusal :=
  let c := c.toNat
  .next (match (s.chan c).cmds with
    | [] => s
    | m :: _ =>
      if m.park.isSome && m.limit ≠ 0 && m.parked + m.limit * 1000000 ≤ s.now then
        match m.result with
        | some code => endCmd c m code (some 4) s
        | none =>
          let s1 := match m.tmpl with
            | some t => payloadPart c t s
            | none => s
          tryStamp c (headResult c 4 s1)
      else s)

/-- A walk for the head of a channel: it parks the command where the entry is absent, and otherwise brings a leaf into the
engine's TLB (R242, R243, R246). -/
def engineWalk (c : Nat) (s : State) : State :=
  match (s.chan c).cmds with
  | [] => s
  | m :: _ =>
    let rd := sourceByte s c
    let (look, kind, rs) : CmdLook × Nat × List (Nat × Nat) :=
      match m.result, m.tmpl with
      | some _, _ =>
        (match stampAddr s c m with
         | some a => (stampLook s c a, 1, [(a, 8)])
         | none => (tmplLook s c m, 0, [(tmplAddr m, 128)]))
      | none, none => if m.satisfied then (tmplLook s c m, 0, if m.marker || shadowCmd m then [] else [(tmplAddr m, 128)])
        else (.ready, 0, [])
      | none, some t =>
        if m.marker then (.ready, 0, []) else (payloadLook s c t, 0, listRange t ++ readRanges rd t)
    if m.park.isSome then s
    else match look with
      | .park e va =>
        postUnit (c / 16) 6 (s.chan c).tag va e (modHead c (fun x => { x with park := some e, parked := s.now }) s)
      | _ => engineEnter c kind rs s

/-! ## The registers of a channel (R184) -/

def cstat (x : Chan) : Word :=
  let st := match x.cmds with
    | [] => 0
    | m :: _ => if m.tmpl.isSome then 2 else 1
  BitVec.ofNat 64 (x.cmds.length % 16 + 2 ^ 4 * st + 2 ^ 6 * x.code.toNat + 2 ^ 14 * x.fails.toNat)

def chanRead (s : State) (c o : Nat) : Word :=
  let x := s.chan c
  if o = 0x100 then x.tbase
  else if o = 0x108 then x.mstamp
  else if o = 0x110 then cstat x
  else if 0x200 ≤ o ∧ o < 0x280 then BitVec.ofNat 64 (field x.shadow (64 * ((o - 0x200) / 8)) 64)
  else 0

/-- SHADOW is held back while a command that takes it is accepted and not active (R196). -/
def shadowBusy (x : Chan) : Bool := x.cmds.any (fun c => !c.marker && shadowCmd c && c.tmpl.isNone)

/-- A write of a channel register by `apw` or another master with the right. -/
def chanWrite (c o : Nat) (v : Word) (s : State) : State :=
  if o = 0x100 then s.modChan c (fun x => { x with tbase := BitVec.ofNat 64 (field v 7 53 * 128) })
  else if o = 0x108 then s.modChan c (fun x => { x with mstamp := BitVec.ofNat 64 (field v 3 57 * 8) })
  else if o = 0x118 then (if v.getLsbD 0 then failChan c 0x0C s else s)
  else if 0x200 ≤ o ∧ o < 0x280 then
    s.modChan c (fun x =>
      let i := 64 * ((o - 0x200) / 8)
      { x with shadow := BitVec.ofNat 1024 (x.shadow.toNat - field x.shadow i 64 * 2 ^ i + v.toNat * 2 ^ i) })
  else s

/-- A terminated context's channels discard their commands and are reset (R207). -/
def killChans (tag : Nat) (s : State) : State :=
  farKill tag { s with chans := s.chans.map (fun e => if e.2.tag = tag then (e.1, { Chan.reset with tag := tag }) else e) }

/-- A waking write to a line: each command parked on a now valid entry there walks again (R246). -/
def wakeEngines (ready : Nat → Bool) (s : State) : State :=
  { s with chans := s.chans.map (fun e => (e.1, { e.2 with cmds := e.2.cmds.map (fun m =>
      match m.park with
      | some x => if ready x then { m with park := none } else m
      | none => m) })) }

end Sys2Proof.Machine
end

