-- ==== Sys2Proof/Machine/GlobalLoad.lean ====
section
/-! DEFINITION. The global opcodes of the L slot (R128, R137, R139 to R141, R146, R149, R150, R396 to R398). -/

namespace Sys2Proof.Machine

open Host (Outcome)

/-- A trap of the L slot at its bundle. -/
def trapL (c : Nat) (a : Word) (s : State) : State := fixedTrap s c a .L

def State.cycleNow (s : State) : Nat := (s.quad s.myQuad).cycle.toNat

/-- A line that an L1 holds. -/
def l1Get (l : FMap L1Line) (line : Nat) : Option (BitVec 1024) :=
  match fget? l line with
  | some (.here v) => some v
  | _ => none

/-- The bytes of n units from physical addresses in an L1, if every line is there. -/
def l1Bytes (l : FMap L1Line) (units : List Nat) (ulen : Nat) : Option Nat :=
  if units.all (fun u => (l1Get l (u / 128)).isSome) then
    some ((units.map (fun u => bitsN ((l1Get l (u / 128)).getD 0).toNat (8 * (u % 128)) (8 * ulen))).foldr
      (fun v acc => v + 2 ^ (8 * ulen) * acc) 0)
  else none

/-- A new request of the L slot. -/
def newLoad (s : State) (op : LdOp) (va : Word) (n ulen : Nat) (units todo : List Nat) (park : Option Nat) (how : Deliver)
    (entry : Bool) : Req LdOp where
  id := s.pipe.bn
  bn := s.pipe.bn
  addr := s.bundleAt
  op := op
  va := va
  n := n
  ulen := ulen
  units := units
  todo := todo
  val := 0
  how := how
  park := park
  entry := if entry then some s.pipe.bn else none
  since := s.now
  due := none
  bad := none
  again := false

/-- Enter a request, with its load-data-queue entry if it reserves one. -/
def enterLoad (r : Req LdOp) (mask : Option (Nat × Mask)) (s : State) : State :=
  s.modPipe (fun p =>
    { p with
      lq := p.lq ++ [r]
      ldq := match r.entry with
        | some e => p.ldq ++ [⟨e, none, false, false, 0, mask, some (s.quad s.myQuad).cycle.toNat⟩]
        | none => p.ldq })

/-- A load that hits the L1 delivers at the end of the eighth cycle after its issue (R140). -/
def tryHit (r : Req LdOp) (s : State) : Req LdOp :=
  if r.op = .plain && r.park.isNone && r.units.all (fun u => inOrder s.pipe false (keyL r) u r.ulen) then
    match l1Bytes s.me.cache.l1 r.units r.ulen with
    | some v => { r with todo := [], val := BitVec.ofNat 2048 v, due := some (s.cycleNow + 8) }
    | none => r
  else r

/-- A global load of n units of ulen bytes at ea. -/
def globalLoad (op : LdOp) (how : Deliver) (n ulen al : Nat) (ea : Word) (own : Nat → Option Nat) (s : State) : State :=
  if ldqCap s.me ≤ s.pipe.ldq.length then fixedTrap s cLDQ_OVERFLOW 0 .L
  else if s.pipe.lqFull then s.holdNow
  else
    issueAccess ⟨false, ea, n * ulen, 0, true, ea.toNat % al = 0, own⟩ State.holdNow trapL
      (fun park s =>
        let s1 := settleAcq s
        let units := if park.isSome then [] else unitPas s1 false ea.toNat 0 ulen n
        dropWalks false (enterLoad (tryHit (newLoad s1 op ea n ulen units (List.range n) park how true) s1) none s1)) s

/-- Channel space takes only `l.ldg.n64` (R186). -/
def notChannel (pa : Nat) : Option Nat := if isEngine pa then some cAPERTURE_OP else none
def anySpace (_ : Nat) : Option Nat := none

/-- A scalar load of type t. -/
def scalarLoad (op : LdOp) (t : BitVec 5) (how : Deliver) (ea : Word) (own : Nat → Option Nat) (s : State) : State :=
  globalLoad op how 1 (tyWidth t.toNat / 8) (tyWidth t.toNat / 8) ea own s

def vectorLoad (op : LdOp) (ea : Word) (s : State) : State := globalLoad op .vec 32 8 8 ea notChannel s

def execLLdg (a b : BitVec 6) (t : BitVec 5) (s : State) : Outcome State Fault Refusal :=
  .next (scalarLoad .plain t (scalarOf t) (s.bridge a + s.bridge b) (if t = 7 then anySpace else notChannel) s)

def execLLdgx (a b : BitVec 6) (s : State) : Outcome State Fault Refusal :=
  .next (vectorLoad .plain (s.bridge a + s.bridge b) s)

/-- A suppressed global load delivers its zero entry at the end of its issue cycle or after those ahead of it (R94). -/
def zeroEntry (s : State) : State :=
  withEntry s (fun s => s.modPipe (fun p => { p with ldq := p.ldq ++ [⟨p.bn, none, true, false, 0, none, none⟩] }))

def execLLdgi (j : BitVec 3) (p : BitVec 1) (o : BitVec 11) (x : BitVec 6) (s : State) : Outcome State Fault Refusal :=
  .next (if s.stage j then
      incAfter s j p o 256 (vectorLoad .plain (eaBase (s.base j) (s.bridge x) p o 256) s)
    else zeroEntry s)

def execLLdgsc (a b : BitVec 6) (t : BitVec 5) (s : State) : Outcome State Fault Refusal :=
  .next (scalarLoad .plain t (.splat (tyWidth t.toNat)) (s.bridge a + s.bridge b) notChannel s)

def execLLdnt (a b : BitVec 6) (s : State) : Outcome State Fault Refusal :=
  .next (vectorLoad .nt (s.bridge a + s.bridge b) s)

def execLLdacq (c : BitVec 3) (a : BitVec 6) (t : BitVec 5) (s : State) : Outcome State Fault Refusal :=
  .next (scalarLoad (.acq c.toNat) t (scalarOf t) (s.bridge a) notChannel s)

def execLLdstamp (a b : BitVec 6) (s : State) : Outcome State Fault Refusal :=
  .next (globalLoad .stamp (.scalar false 64) 1 8 8 (s.bridge a + s.bridge b) notChannel s)

/-- `wait` and `waitne` (R146). -/
def waitLoad (ne : Bool) (c : BitVec 3) (a b : BitVec 6) (t : BitVec 5) (s : State) : State :=
  scalarLoad (.wait ne c.toNat (bitsN (s.bridge b).toNat 0 (tyWidth t.toNat))) t (.scalar false (tyWidth t.toNat))
    (s.bridge a) notChannel s

def execLWait (c : BitVec 3) (a b : BitVec 6) (t : BitVec 5) (s : State) : Outcome State Fault Refusal :=
  .next (waitLoad false c a b t s)
def execLWaitne (c : BitVec 3) (a b : BitVec 6) (t : BitVec 5) (s : State) : Outcome State Fault Refusal :=
  .next (waitLoad true c a b t s)

/-- `lds` reads a scratchpad of the quad at bits(A,20,0), without translation (R137). -/
def execLLds (a b : BitVec 6) (s : State) : Outcome State Fault Refusal :=
  let o := padOff (s.bridge a)
  let c := s.myQuad * 4 + (s.bridge b).toNat % 4
  .next (if ldqCap s.me ≤ s.pipe.ldq.length then fixedTrap s cLDQ_OVERFLOW 0 .L
    else if s.pipe.lqFull then s.holdNow
    else alignedL (o % 8 = 0) (s.bridge a) s (fun s =>
      let s1 := settleAcq s
      let units := (List.range 32).map (fun i => padOf c + (o + 8 * i) % 2 ^ 21)
      enterLoad (newLoad s1 .lds (s.bridge a) 32 8 units (List.range 32) none .vec true) none s1))

/-- `ldr`: absent bytes read as zero and set their mask bits; it faults on permission and on malformed entries (R149, R248). -/
def ldrLook (s : State) (va : Nat) : Look :=
  match lookAt s s.cur.toNat false va 4 with
  | .trap c => if c = cNOT_MAPPED then .park 0 else .trap c
  | l => l

def isAbsent (l : Look) : Bool := match l with | .park _ => true | _ => false

/-- The first page of an access that faults or still waits, absence apart. -/
def ldrReach (s : State) : List Nat → Reach
  | [] => .go
  | va :: r =>
    match ldrLook s va with
    | .trap c => .trap c va
    | .wait => .wait va
    | _ => ldrReach s r

def execLLdr (m : BitVec 4) (a b : BitVec 6) (s : State) : Outcome State Fault Refusal :=
  let ea := s.bridge a + s.bridge b
  let va := ea.toNat
  let hits := watchHits s.me 0 va 256
  .next (if ldqCap s.me ≤ s.pipe.ldq.length then fixedTrap s cLDQ_OVERFLOW 0 .L
    else if s.pipe.lqFull then s.holdNow
    else if 2 ^ 60 < va + 256 then trapL cBAD_VA ea s
    else match ldrReach s (pagesOf va 256) with
      | .wait x => (askWalk false x 4 s).holdNow
      | .trap c x => trapL c (BitVec.ofNat 64 x) (dropWalks false s)
      | _ =>
        if !hits.isEmpty && !s.me.watch.reported.contains (s.pipe.bn, 4) then
          watchReport hits s.pipe.bn 4 (trapL cWATCH ea) s
        else if va % 8 ≠ 0 then trapL cMISALIGNED ea (dropWalks false s)
        else
          let here := (wordsOf va 256).filter (fun x => !isAbsent (ldrLook s x))
          match here.findSome? (fun x =>
              let pa := lookPa s s.cur.toNat false x 4
              match accessFault s 4 pa x with
              | some f => some f
              | none => (notChannel pa).map (fun c => (c, va))) with
          | some (c, x) => trapL c (BitVec.ofNat 64 x) (dropWalks false s)
          | none =>
            let gone := (List.range 32).filter (fun i => isAbsent (ldrLook s (va + 8 * i)))
            let mask : Mask := gone.foldl (fun x i => x ||| (0xFF <<< (8 * i))) 0
            let s1 := settleAcq s
            dropWalks false (enterLoad
              (newLoad s1 (.ldr m.toNat) ea 32 8 (unitPas s1 false va 4 8 32)
                ((List.range 32).filter (fun i => !gone.contains i)) none .vec true)
              (some (m.toNat, mask)) s1))

/-- A prefetch is dropped where the load queue is full or the translation is missing; it never faults (R137, R248). -/
def prefetch (intoL1 : Bool) (ea : Word) (s : State) : State :=
  let va := ea.toNat
  if s.pipe.lqFull || 2 ^ 60 ≤ va then s
  else match walkNow s.cur.toNat va 0 none s with
    | (some (.leaf l), s1) =>
      let pa := l.pa va / 128 * 128
      if hasHome pa && (accessFault s1 0 pa va).isNone then
        enterLoad (newLoad s1 (.pf intoL1) ea 1 128 [pa] [0] none .vec false) none (settleAcq s1)
      else s1
    | (_, s1) => s1

def execLPf (a b : BitVec 6) (s : State) : Outcome State Fault Refusal :=
  .next (prefetch true (s.bridge a + s.bridge b) s)
def execLPfl2 (a b : BitVec 6) (s : State) : Outcome State Fault Refusal :=
  .next (prefetch false (s.bridge a + s.bridge b) s)

/-- `preq` requests the pages that [A, A + B) touches below 2^60; its entry posts them in ascending order (R149, R397). -/
def execLPreq (a b : BitVec 6) (s : State) : Outcome State Fault Refusal :=
  let lo := (s.bridge a).toNat
  let hi := lo + (s.bridge b).toNat
  let last := ((if hi < 2 ^ 60 then hi else 2 ^ 60) - 1) / 4096
  .next (if s.pipe.lqFull then s.holdNow
    else if s.bridge b = 0 ∨ 2 ^ 60 ≤ lo then settleAcq s
    else enterLoad (newLoad s (.preq last) (BitVec.ofNat 64 (lo / 4096)) 1 0 [] [0] none .vec false) none (settleAcq s))

/-- `xlat` is answered by a walk of its own (R150, R398). -/
def execLXlat (a b : BitVec 6) (s : State) : Outcome State Fault Refusal :=
  .next (if ldqCap s.me ≤ s.pipe.ldq.length then fixedTrap s cLDQ_OVERFLOW 0 .L
    else if s.pipe.lqFull then s.holdNow
    else enterLoad (newLoad s .xlat (s.bridge a + s.bridge b) 1 8 [] [0] none (.scalar false 64) true) none (settleAcq s))

end Sys2Proof.Machine
end

