-- ==== Sys2Proof/Machine/Window.lean ====
section
/-! DEFINITION. Windows (R149, R252 to R257, R395, R396). -/

namespace Sys2Proof.Machine

open Host (Outcome)

def State.win (s : State) (n : Nat) : Window := vget s.regs.wins n Window.reset
def State.setWin (s : State) (n : Nat) (w : Window) : State := s.modRegs (fun r => { r with wins := vset r.wins n w })

def Window.slot (w : Window) (j : Nat) : SlotSt × BitVec 4096 := w.slots.getD j (.absent, 0)
def Window.setSlot (w : Window) (j : Nat) (x : SlotSt × BitVec 4096) : Window := { w with slots := w.slots.set j x }

/-- The granule that slot j holds, and its virtual address (R253). -/
def Window.granule (w : Window) (j : Nat) : Nat := if w.ng = 0 then 0 else w.adv + (j + w.ng - w.adv % w.ng) % w.ng
def Window.slotVa (w : Window) (j : Nat) : Nat := w.org + 4096 * w.granule j

/-- The window and slot that a scratchpad offset lies in. -/
def ringAt (r : CoreRegs) (o : Nat) : Option (Nat × Nat) :=
  (List.range 8).findSome? (fun n =>
    let w := vget r.wins n Window.reset
    if w.mapped && w.rbase ≤ o && o < w.rbase + w.ng * 4096 then some (n, (o - w.rbase) / 4096) else none)

/-! ## Fills and write-backs -/

/-- The lines of a granule of virtual address va under a leaf. -/
def fillLines (l : Leaf) (va : Nat) : List Nat := (List.range 32).map (fun k => l.pa va + 128 * k)

/-- The lines of a fill that starts at va, if the leaf is there and lets the context read; else the fill walks when it is done. -/
def fillUnits (va : Nat) (s : State) : List Nat × State :=
  if 2 ^ 60 ≤ va then ([], s)
  else match walkNow s.cur.toNat va 0 none s with
    | (some (.leaf l), s1) => (if (accessFault s1 0 (l.pa va) va).isNone then fillLines l va else [], s1)
    | (_, s1) => ([], s1)

/-- Start the fill of a slot: the slot fills, and a fill of its 32 lines, ordered as a load of bundle bn, whose address is addr, is
queued (R254; log entry 111). -/
def startFill (n j bn : Nat) (addr : Word) (s : State) : State :=
  let w := s.win n
  let (units, s1) := fillUnits (w.slotVa j) s
  let r := { newLoad s (.fill n j) (BitVec.ofNat 64 (w.slotVa j)) 32 128 units (List.range 32) none .vec false with
    id := bn, bn := bn, addr := addr }
  (s1.setWin n (w.setSlot j (.filling, (w.slot j).2))).modPipe (fun p => { p with lq := p.lq ++ [r] })

/-- Discard the fill of a slot, in the pipelines of the task and of its outrider (R265). -/
def dropFill (n j : Nat) (s : State) : State :=
  s.modRegs (fun r =>
    { r with
      task := { r.task with lq := r.task.lq.filter (fun x => x.op ≠ .fill n j) }
      outr := { r.outr with lq := r.outr.lq.filter (fun x => x.op ≠ .fill n j) } })

/-- The pipeline that holds the fill of a slot, with the fill. -/
def fillOf (r : CoreRegs) (n j : Nat) : Option (Pipe × Req LdOp) :=
  match r.task.lq.find? (fun x => x.op = .fill n j) with
  | some x => some (r.task, x)
  | none => (r.outr.lq.find? (fun x => x.op = .fill n j)).map (fun x => (r.outr, x))

/-- Change the fill of a slot. -/
def modFill (n j : Nat) (f : Req LdOp → Req LdOp) (s : State) : State :=
  let g := fun (l : List (Req LdOp)) => l.map (fun x => if x.op = .fill n j then f x else x)
  s.modRegs (fun r => { r with task := { r.task with lq := g r.task.lq }, outr := { r.outr with lq := g r.outr.lq } })

/-- A fill ends: the slot has a state, and the fill leaves its queue (R253). -/
def endFill (n j : Nat) (st : SlotSt) (s : State) : State :=
  dropFill n j (s.setWin n ((s.win n).setSlot j (st, ((s.win n).slot j).2)))

/-- A scratchpad byte as a write-back ordered at bundle bn reads it: the newest W store of an earlier bundle that has issued, landed
or not (R256); of a granule of another tag it reads zero (R261). -/
def wbByte (s : State) (bn pa : Nat) : Byte :=
  if padAllowed s s.regs.id.tag pa then (pendingByte s.pipe.spst bn pa).getD (Memory.get s.mem pa) else 0

/-- One queued store of the dirty bytes of 256 bytes of slot j (R256). -/
def wbChunk (n j : Nat) (bn : Nat) (addr : Word) (va pad : Nat) (dirty : BitVec 4096) (c : Nat) (l : Leaf) (s : State) : Req StOp where
  id := bn
  bn := bn
  addr := addr
  op := .winwb n j c (BitVec.ofNat 256 (field dirty (256 * c) 256))
  va := BitVec.ofNat 64 (va + 256 * c)
  n := 256
  ulen := 1
  units := (List.range 256).map (fun i => l.pa (va + 256 * c + i))
  todo := (List.range 256).filter (fun i => dirty.getLsbD (256 * c + i))
  val := natVec (leNat ((List.range 256).map (fun i => wbByte s bn (padOf s.cur.toNat + (pad + 256 * c + i) % 2 ^ 21))))
  how := .vec
  park := none
  entry := none
  since := s.now
  due := none
  bad := none
  again := false

/-- Write back the dirty bytes of slot j of window n at a bundle: stores in ascending address order; a permission fault leaves
the bytes dirty and marks the slot failed; an absent page parks the stores (R256). -/
def writeBack (n j bn : Nat) (addr : Word) (s : State) : State :=
  let w := s.win n
  let (st, d) := w.slot j
  if d = 0 then s
  else
    let va := w.slotVa j
    let chunks := (List.range 16).filter (fun c => field d (256 * c) 256 ≠ 0)
    let fail := s.setWin n (w.setSlot j (.failed, d))
    if 2 ^ 60 ≤ va then fail
    else match walkNow s.cur.toNat va 1 (some 2) s with
      | (some (.leaf l), s1) =>
        if (accessFault s1 1 (l.pa va) va).isSome then s1.setWin n (w.setSlot j (.failed, d))
        else
          (s1.setWin n (w.setSlot j (st, 0))).modPipe (fun p =>
            { p with sq := p.sq ++ chunks.map (fun c => wbChunk n j bn addr va (w.rbase + 4096 * j) d c l s) })
      | (some (.park e), s1) =>
        (s1.setWin n (w.setSlot j (st, 0))).modPipe (fun p =>
          { p with sq := p.sq ++ chunks.map (fun c =>
            { wbChunk n j bn addr va (w.rbase + 4096 * j) d c ⟨0, 0, 0, 0⟩ s with units := [], park := some e }) })
      | (_, s1) => s1.setWin n (w.setSlot j (.failed, d))

/-- Write back slots of a window in ascending address order. -/
def writeBackAll (n bn : Nat) (addr : Word) (js : List Nat) (s : State) : State :=
  js.foldl (fun s j => writeBack n j bn addr s) s

/-- The slots of a window by ascending granule. -/
def Window.order (w : Window) : List Nat := (List.range w.ng).map (fun i => (w.adv + i) % w.ng)

/-! ## Mapping -/

/-- A descriptor that `wmap` refuses (R252). -/
def badDescriptor (r : CoreRegs) (n d : Nat) : Bool :=
  let org := bitsN d 0 60
  let rbase := bitsN d 64 21
  let ng := bitsN d 96 8 + 1
  bitsN d 60 4 ≠ 0 || bitsN d 85 11 ≠ 0 || bitsN d 106 150 ≠ 0 || org % 4096 ≠ 0 || rbase % 4096 ≠ 0 ||
  2 ^ 21 < rbase + ng * 4096 ||
  (List.range 8).any (fun m =>
    let w := vget r.wins m Window.reset
    m ≠ n && w.mapped && w.rbase < rbase + ng * 4096 && rbase < w.rbase + w.ng * 4096)

/-- The mapping of bundle bn lands: the old mapping is written back and dropped, then the new one starts with a = 0 (R255). -/
def mapWindow (n bn : Nat) (addr : Word) (d : Nat) (s : State) : State :=
  let old := s.win n
  let s1 := if old.mapped then writeBackAll n bn addr old.order s else s
  let s2 := (List.range old.ng).foldl (fun s j => dropFill n j s) s1
  let ng := bitsN d 96 8 + 1
  let lazy := bitsN d 105 1 = 1
  let w : Window := ⟨true, bitsN d 0 60, bitsN d 64 21, ng, bitsN d 104 1 = 1, lazy, 0, List.replicate ng (.absent, 0)⟩
  let s3 := s2.setWin n w
  if lazy then s3 else (List.range ng).foldl (fun s j => startFill n j bn addr s) s3

def execLWmap (a b : BitVec 6) (n : BitVec 3) (s : State) : Outcome State Fault Refusal :=
  let ea := s.bridge a + s.bridge b
  .next (alignedL (padOff ea % 8 = 0) ea s (fun s =>
    let d := slotRead s (padAddrs s.cur.toNat (padOff ea) 32)
    if badDescriptor s.regs n.toNat d then fixedTrap s cWIN_BAD ea .L
    else (s.result .L 6 (.win n.toNat s.pipe.bn s.bundleAt) (natVec d)).refresh))

/-- The first failed slot among some, as the trap it causes (R255). -/
def failedSlot (w : Window) (js : List Nat) : Option Word :=
  (js.find? (fun j => (w.slot j).1 = .failed)).map (fun j => BitVec.ofNat 64 (w.slotVa j))

/-- Advance by d granules: the leaving slots are written back and absent, bytes whose write-back met a permission fault being lost,
and the entering ones fill (R253 to R256; log entry 130). -/
def advance (n d : Nat) (s : State) : State :=
  let w := s.win n
  let out := (w.order).take (if w.ng < d then w.ng else d)
  let s1 := writeBackAll n s.pipe.bn s.bundleAt out s
  let s2 := out.foldl (fun s j => dropFill n j (s.setWin n ((s.win n).setSlot j (.absent, 0)))) s1
  let s3 := s2.setWin n { s2.win n with adv := w.adv + d }
  if w.lazy then s3 else out.foldl (fun s j => startFill n j s.pipe.bn s.bundleAt s) s3

def execLWadv (a : BitVec 6) (n : BitVec 3) (s : State) : Outcome State Fault Refusal :=
  let d := (s.bridge a).toNat / 4096
  let w := s.win n.toNat
  .next (if d = 0 || !w.mapped then s
    else match failedSlot w (w.order.take (if w.ng < d then w.ng else d)) with
      | some va => fixedTrap s cWIN_FAULT va .L
      | none => advance n.toNat d (settleAcq s))

/-- `wres`: the offset A + 4096 * k of bit k does not wrap at 2^64 (R149; log entry 147). -/
def execLWres (m : BitVec 4) (a : BitVec 6) (n : BitVec 3) (s : State) : Outcome State Fault Refusal :=
  let w := s.win n.toNat
  let js := (List.range 256).map (fun k => ((s.bridge a).toNat + 4096 * k) / 4096)
  .next (match failedSlot w (js.filter (fun j => j < w.ng)) with
    | some va => fixedTrap s cWIN_FAULT va .L
    | none => s.result .L 6 (.mask m.toNat)
        (natVec (ofBits (js.map (fun j => j < w.ng && (w.slot j).1 ≠ .resident)))))

/-- A ring byte that is not present, of a scratchpad offset (R255). -/
def notPresent (r : CoreRegs) (o : Nat) : Bool :=
  match ringAt r o with
  | none => false
  | some (n, j) =>
    let w := vget r.wins n Window.reset
    !((w.slot j).1 = .resident || (w.slot j).2.getLsbD ((o - w.rbase) % 4096))

/-- The slots that 256 bytes from an offset touch. -/
def touched (r : CoreRegs) (o : Nat) : List (Nat × Nat) :=
  ([ringAt r o, ringAt r ((o + 255) % 2 ^ 21)].filterMap id).eraseDups

def touchFault (r : CoreRegs) (o : Nat) : Option Word :=
  (touched r o).findSome? (fun x =>
    failedSlot (vget r.wins x.1 Window.reset) [x.2])

/-- The first touch of an absent slot of a lazy window, by bundle bn, starts its fill (R254). -/
def touchFill (o bn : Nat) (addr : Word) (s : State) : State :=
  (touched s.regs o).foldl (fun s x =>
    if (s.win x.1).lazy && ((s.win x.1).slot x.2).1 = .absent then startFill x.1 x.2 bn addr s else s) s

def execLLdw (m : BitVec 4) (a b : BitVec 6) (s : State) : Outcome State Fault Refusal :=
  let ea := s.bridge a + s.bridge b
  let o := padOff ea
  .next (withEntry s (fun s => alignedL (o % 8 = 0) ea s (fun s =>
    match touchFault s.regs o with
    | some va => fixedTrap s cWIN_FAULT va .L
    | none =>
      let gone := (List.range 256).map (fun i => notPresent s.regs ((o + i) % 2 ^ 21))
      let raw := (padAddrs s.cur.toNat o 256).map (slotByte s s.regs.id.tag s.fresh)
      let v := leNat ((raw.zip gone).map (fun x => if x.2 then 0 else x.1))
      touchFill o s.pipe.bn s.bundleAt (((reserveFixed 6 (natVec v) none s).result .L 6 (.mask m.toNat) (natVec (ofBits gone))).refresh))))

/-- `stw`: a W scratchpad store that marks its ring bytes dirty (R255). -/
def markDirty (o : Nat) (s : State) : State :=
  (touched s.regs o).foldl (fun s x =>
    let w := s.win x.1
    let (st, d) := w.slot x.2
    let bits := (List.range 256).foldl (fun (b : BitVec 4096) i =>
      if ringAt s.regs ((o + i) % 2 ^ 21) = some x then b ||| (1 <<< (((o + i) % 2 ^ 21 - w.rbase) % 4096)) else b) d
    s.setWin x.1 (w.setSlot x.2 (st, bits))) s

def execWStw (d a b : BitVec 6) (s : State) : Outcome State Fault Refusal :=
  let _ := (d, a, b)
  let o := padOff s.wEa
  .next (if o % 8 ≠ 0 then wStoreTrap s cMISALIGNED s.wEa s.wHead.d
    else if (touched s.regs o).any (fun x => (s.win x.1).ro) then wStoreTrap s cWIN_RO s.wEa s.wHead.d
    else match touchFault s.regs o with
      | some va => wStoreTrap s cWIN_FAULT va s.wHead.d
      | none => padStore 256 8 s.wHead.d.toNat s.wEa (touchFill o s.wHead.bn s.wHead.addr (markDirty o s)))

/-- `flushw` queues the write-back of every dirty byte of a window (R148, R256); a failed slot without dirty bytes is not touched
(R255; log entry 89). -/
def execWFlushw (n : BitVec 3) (s : State) : Outcome State Fault Refusal :=
  let w := s.win n.toNat
  .next (match failedSlot w (w.order.filter (fun j => (w.slot j).2 ≠ 0)) with
    | some va => wTrap s cWIN_FAULT va
    | none => withStoreEntry s (fun s => wPop (writeBackAll n.toNat s.wHead.bn s.wHead.addr w.order (settleAcq s))))

/-! ## The end of a fill (R253, R257) -/

/-- Line k of a granule is copied into the bytes of slot j that are not dirty. -/
def fillBytes (n j k : Nat) (read : Nat → Byte) (s : State) : State :=
  let w := s.win n
  let d := (w.slot j).2
  (List.range 128).foldl (fun s i =>
    if d.getLsbD (128 * k + i) then s
    else writeByteAs s s.regs.id.tag (padOf s.cur.toNat + w.rbase + 4096 * j + 128 * k + i) (read i)) s

/-- A fill that has no lines yet walks: it gets them, or the slot is missing or failed. -/
def fillWalk (n j : Nat) (r : Req LdOp) (s : State) : State :=
  let va := (s.win n).slotVa j
  if !r.units.isEmpty then s
  else if 2 ^ 60 ≤ va then endFill n j .failed s
  else match walkNow s.cur.toNat va 0 (some 5) s with
    | (some (.leaf l), s1) =>
      if (accessFault s1 0 (l.pa va) va).isSome then endFill n j .failed s1 else modFill n j (fun r => { r with units := fillLines l va }) s1
    | (some (.park e), s1) => endFill n j (.missing e r.bn r.addr) s1
    | (_, s1) => endFill n j .failed s1

/-- Do something as another core. -/
def atCore (n : Nat) (f : State → State) (s : State) : State :=
  { f { s with cur := BitVec.ofNat 11 n } with cur := s.cur }

/-- The missing slots whose monitor a write has woken fill again, in the place of the bundle that started the fill (R246, R253,
R254). -/
def wakeSlots (wake : Nat → Bool) (s : State) : State :=
  (List.range 8).foldl (fun s n =>
    (List.range (s.win n).ng).foldl (fun s j =>
      match ((s.win n).slot j).1 with
      | .missing e bn addr => if wake e then startFill n j bn addr s else s
      | _ => s) s) s

end Sys2Proof.Machine
end

