-- ==== Sys2Proof/Machine/Wake.lean ====
section
/-! DEFINITION. Waking writes, and the restoring of suspended tasks (R246, R253, R273). -/

namespace Sys2Proof.Machine

open Host (Outcome)

/-- An entry is valid, and resident if a leaf; what a unit waits for from another module has come, or can be asked for again. -/
def entryLive (s : State) (e : Nat) : Bool :=
  match farMark e with
  | some (u, line, wr) => (match s.podreqs.find? (fun r => r.who = .unit u line wr) with | some r => r.ans.isSome | none => true)
  | none => let x := tableEntry s e; x % 2 = 1 && (!entryLeaf x || isRes x)

/-- A write to the line of pa wakes what is parked on entry e. -/
def wakes (s : State) (pa e : Nat) : Bool := e / 128 = pa / 128 && entryLive s e

/-! ## Parked requests walk again (R144, R146, R147, R186, R242, R246) -/

/-- The kind of an access that walks again: `ldr`, `wb` and `inv` read and never park (R148, R149). -/
def LdOp.kind : LdOp → Nat
  | .ldr _ => 4
  | _ => 0
def StOp.kind : StOp → Nat
  | .amo _ _ _ _ _ _ _ => 2
  | .wb | .inv => 4
  | _ => 1

/-- The cause of the page request that its park posts: none of an access that does not park (R249). -/
def LdOp.parkCause : LdOp → Option Nat
  | .ldr _ | .pf _ | .fill _ _ => none
  | _ => some 1
def StOp.parkCause : StOp → Option Nat
  | .wb | .inv => none
  | _ => some 2

/-- The check that the opcode of a request makes on a physical address. -/
def loadOwn (r : Req LdOp) : Nat → Option Nat := if r.op = .plain && r.how = .scalar false 64 then anySpace else notChannel
def storeOwn (r : Req StOp) : Nat → Option Nat :=
  match r.op with
  | .amo _ _ _ _ _ _ _ | .discard => homeOnly
  | .go _ _ _ => cmdOnly
  | .apw => apwOnly
  | _ => noChannel

/-- What the walks of a woken access give together: the leaves of its pages, an entry to park on, a trap with its address, or
a poisoned entry. -/
inductive Woken where
  | go (ls : List Leaf)
  | park (entry : Nat)
  | bad (cause va : Nat)
  | poison

/-- A woken access of core n walks its pages again from the start. -/
def rewalkPages (n kind : Nat) (cause : Option Nat) : List Nat → State → Woken × State
  | [], s => (.go [], s)
  | va :: r, s =>
    match walkNow n va kind cause s with
    | (none, s1) => (.poison, s1)
    | (some (.trap c), s1) => (.bad c va, s1)
    | (some (.park e), s1) => (.park e, s1)
    | (some (.leaf l), s1) =>
      match rewalkPages n kind cause r s1 with
      | (.go ls, s2) => (.go (l :: ls), s2)
      | x => x

/-- The physical address of va under the leaves of an access. -/
def leavesPa (tag : Nat) (ls : List Leaf) (va : Nat) : Nat :=
  match ls.find? (fun l => l.hits tag va) with
  | some l => l.pa va
  | none => 0

/-- A parked request of core n after its wake. -/
def rewalk {α : Type} (n kind : Nat) (cause : Option Nat) (own : Nat → Option Nat) (r : Req α) (s : State) : State × Req α :=
  let tag := (s.core n).regs.id.tag
  let va := r.va.toNat
  let len := r.n * r.ulen
  match rewalkPages n kind cause (pagesOf va len) s with
  | (.poison, s1) => (s1, r)
  | (.park e, s1) => (s1, { r with park := some e, bad := none, again := false })
  | (.bad c a, s1) => (s1, { r with bad := some (c, BitVec.ofNat 64 a), again := false })
  | (.go ls, s1) =>
    match (wordsOf va len).findSome? (fun a =>
        match accessFaultOf s1 tag kind (leavesPa tag ls a) a with
        | some f => some f
        | none => (own (leavesPa tag ls a)).map (fun c => (c, va))) with
    | some (c, a) => (s1, { r with bad := some (c, BitVec.ofNat 64 a), again := false })
    | none =>
      (s1, { r with
        park := none, bad := none, again := false
        units := (List.range r.n).map (fun i => leavesPa tag ls (va + i * r.ulen)) })

/-- The pages of an `ldr` that are absent when it walks again, or the fault that it meets (R149, R248). -/
def absentPages (n : Nat) : List Nat → State → Woken × List Nat × State
  | [], s => (.go [], [], s)
  | va :: r, s =>
    match walkNow n va 4 none s with
    | (none, s1) => (.poison, [], s1)
    | (some (.leaf l), s1) =>
      (match absentPages n r s1 with
       | (.go ls, gone, s2) => (.go (l :: ls), gone, s2)
       | x => x)
    | (some (.trap c), s1) => if c = cNOT_MAPPED then (let (x, g, s2) := absentPages n r s1; (x, va / 4096 :: g, s2)) else (.bad c va, [], s1)
    | (some (.park _), s1) => let (x, g, s2) := absentPages n r s1; (x, va / 4096 :: g, s2)

/-- An `ldr` sent again: its bytes on absent pages read as zero and set their mask bits. -/
def rewalkLdr (n : Nat) (o : Bool) (r : Req LdOp) (s : State) : State × Req LdOp :=
  let tag := (s.core n).regs.id.tag
  let va := r.va.toNat
  match absentPages n (pagesOf va 256) s with
  | (.poison, _, s1) | (.park _, _, s1) => (s1, r)
  | (.bad c a, _, s1) => (s1, { r with bad := some (c, BitVec.ofNat 64 a), again := false })
  | (.go ls, gone, s1) =>
    let miss := r.todo.filter (fun i => gone.contains ((va + 8 * i) / 4096))
    match ((wordsOf va 256).filter (fun a => !gone.contains (a / 4096))).findSome? (fun a =>
        match accessFaultOf s1 tag 4 (leavesPa tag ls a) a with
        | some f => some f
        | none => (notChannel (leavesPa tag ls a)).map (fun c => (c, va))) with
    | some (c, a) => (s1, { r with bad := some (c, BitVec.ofNat 64 a), again := false })
    | none =>
      (s1.modCore n (fun c => c.modPipeOf o (fun p => { p with ldq := p.ldq.map (fun e =>
        if r.entry = some e.id then
          { e with mask := e.mask.map (fun m => (m.1, miss.foldl (fun x i => x ||| (0xFF <<< (8 * i))) m.2)) } else e) })),
       { r with
        again := false
        units := (List.range 32).map (fun i => leavesPa tag ls (va + 8 * i))
        todo := r.todo.filter (fun i => !miss.contains i) })

/-- A request of the load queue walks again: a prefetch that meets anything but a leaf is dropped, and a fill waits for its end (R248,
R253). -/
def rewalkLoad (n : Nat) (o : Bool) (r : Req LdOp) (s : State) : State × List (Req LdOp) :=
  match r.op with
  | .ldr _ => let (s1, r1) := rewalkLdr n o r s; (s1, [r1])
  | op =>
    let (s1, r1) := rewalk n op.kind op.parkCause (loadOwn r) r s
    let ok := r1.park.isNone && r1.bad.isNone
    match op with
    | .pf _ => (s1, if ok then [r1] else [])
    | .fill _ _ => (s1, [if ok then r1 else { r1 with units := [], park := none, bad := none, again := false }])
    | _ => (s1, [r1])

/-- A request of the store queue walks again: `wb` and `inv` are dropped where the translation is missing (R248). -/
def rewalkStore (n : Nat) (r : Req StOp) (s : State) : State × List (Req StOp) :=
  let (s1, r1) := rewalk n r.op.kind r.op.parkCause (storeOwn r) r s
  let gone := r1.park.isSome || (match r1.bad with | some (c, _) => c = cNOT_MAPPED | none => false)
  (s1, if (r.op = .wb || r.op = .inv) && gone then [] else [r1])

/-- The requests of a queue that are picked, and are parked or to walk again, walk again. -/
def rewalkAll {α : Type} (walk : Req α → State → State × List (Req α)) (pick : Req α → Bool) (s : State) (l : List (Req α)) :
    State × List (Req α) :=
  l.foldl (fun acc r =>
    if (r.park.isSome || r.again) && pick r then let (s1, l1) := walk r acc.1; (s1, acc.2 ++ l1) else (acc.1, acc.2 ++ [r])) (s, [])

/-- A window write-back that meets a fault leaves its bytes dirty and its slot failed, while the slot still holds its granule
(R256). -/
def failBack (n : Nat) (r : Req StOp) (s : State) : State :=
  match r.op with
  | .winwb w j c _ =>
    s.modCore n (fun x => x.modRegs (fun g =>
      let y := vget g.wins w Window.reset
      let (st, d) := y.slot j
      let _ := st
      if y.mapped && y.slotVa j + 256 * c = r.va.toNat then
        { g with wins := vset g.wins w (y.setSlot j (.failed, d ||| BitVec.ofNat 4096 (ofBits ((List.range 4096).map (fun i =>
          256 * c ≤ i && r.todo.contains (i - 256 * c)))))) }
      else g))
  | _ => s

/-- The picked parked requests of the task, or of the outrider, of core n walk again. -/
def rewalkPipe (n : Nat) (o : Bool) (pickL : Req LdOp → Bool) (pickS : Req StOp → Bool) (s : State) : State :=
  let p := (s.core n).pipeOf o
  let (s1, lq) := rewalkAll (rewalkLoad n o) pickL s p.lq
  let (s2, sq) := rewalkAll (rewalkStore n) pickS s1 p.sq
  let s3 := s2.modCore n (fun c => c.modPipeOf o (fun p =>
    { p with lq := lq, sq := sq.filter (fun r => !(isBack r && r.bad.isSome)) }))
  (sq.filter (fun r => isBack r && r.bad.isSome)).foldl (fun s r => failBack n r s) s3

/-- A walk that parked is made again. -/
def dropParks (wake : Nat → Bool) (l : List Walk) : List Walk :=
  l.filter (fun x => match x.res with | some (.park e) => !wake e | _ => true)

/-- A request is parked on an entry that wakes. -/
def Req.wakesOn {α : Type} (wake : Nat → Bool) (r : Req α) : Bool := r.park.any wake

/-- A parked access of a core is among those woken. -/
def hasParked (wake : Nat → Bool) (c : Core) : Bool :=
  [c.regs.task, c.regs.outr].any (fun p => p.lq.any (Req.wakesOn wake) || p.sq.any (Req.wakesOn wake)) ||
  (c.cache.walkL ++ c.cache.walkW ++ c.cache.walkF).any (fun x => match x.res with | some (.park e) => wake e | _ => false)

/-- The end of a park: its length in ticks of 1 µs is kept and recorded (R247, R393). -/
def endPark (n : Nat) (s : State) : State :=
  let l := (s.core n).regs.lim
  match l.parkFrom with
  | none => s
  | some f =>
    let t := (s.now - f) / 1000000
    monRecord (s.modCore n (fun c => c.modRegs (fun r => { r with lim := { r.lim with
      parkFrom := none, parkCount := BitVec.ofNat 20 (if t < 2 ^ 20 then t else 2 ^ 20 - 1) } })))
      (n / 64) 4 (s.core n).regs.id.tag (n % 64) t

/-- Wake what a core has parked: the woken accesses walk again, ordered after the waking write as by an acquire at mod (R246). The
core's park is over once nothing of it is parked; while something is, its next cycle decides (R247). -/
def wakeCore (wake : Nat → Bool) (n : Nat) (s : State) : State :=
  if !hasParked wake (s.core n) then s
  else
    let s1 := s.modCore n (fun c => { c with cache := { c.cache with
      l1 := []
      walkL := dropParks wake c.cache.walkL
      walkW := dropParks wake c.cache.walkW
      walkF := dropParks wake c.cache.walkF } })
    let s2 := rewalkPipe n true (Req.wakesOn wake) (Req.wakesOn wake) (rewalkPipe n false (Req.wakesOn wake) (Req.wakesOn wake) s1)
    if hasParked (fun _ => true) (s2.core n) then s2 else endPark n s2

/-! ## Suspended tasks (R272, R273) -/

/-- The scratchpad below the pins of the task suspended on a core moves out before another task is placed or put back there. -/
def movePads (n : Nat) (s : State) : State :=
  let lo := padOf n
  let hi := padOf n + (s.core n).pinbase.toNat
  s.modCore n (fun c => { c with susp := c.susp.map (fun x =>
    match x.pad with
    | some _ => x
    | none => { x with pad := some (s.mem.filter (fun e => lo ≤ e.1 && e.1 < hi)) }) })

/-- Put back a task's scratchpad: the bytes below the pins. -/
def restorePad (n : Nat) (x : Susp) (s : State) : State :=
  match x.pad with
  | none => s
  | some l =>
    let lo := padOf n
    let hi := padOf n + (s.core n).pinbase.toNat
    let rest := s.mem.filter (fun e => !(lo ≤ e.1 && e.1 < hi))
    movePads n s |> fun t => { t with mem := l.foldl (fun m e => Memory.put m e.1 e.2) rest }

/-- A mail register of a restored task: as saved, unless one has been written to the core since (log entry 58). -/
def restoreMail (now saved : Vector Mail 4) : Vector Mail 4 :=
  Vector.ofFn (fun i => if (vget now i.val ⟨0, false⟩).full then vget now i.val ⟨0, false⟩ else vget saved i.val ⟨0, false⟩)

/-- A task suspended on core n is put back: its scratchpad, its registers and its exposed state; the accesses not performed are
sent again, and the parked ones walk again. -/
def restoreTask (n : Nat) (x : Susp) (s : State) : State :=
  let tag := x.image.id.tag
  let s1 := (restorePad n x s).mapPods (fun w => w.restore n x.image.id.node x.image.id.tile.toNat)
  let s2 := { s1 with sptag := fset s1.sptag n tag, acctag := fset s1.acctag n tag }
  let s3 := s2.modCore n (fun c =>
    { c with
      regs := { x.image with trap := { x.image.trap with tstatus := x.image.trap.tstatus ||| 0x40 } }
      fold := x.fold
      watch := x.watch
      mail := restoreMail c.mail x.mail
      refuse := x.refuse
      refCode := x.refCode
      last := some tag
      cache := { c.cache with l1 := [], walkL := [], walkW := [], walkF := [] }
      susp := c.susp.filter (fun y => y ≠ x) })
  let s4 := s3.modQuad (n / 4) (fun q => { q with array := { q.array with drains := q.array.drains ++ x.drains } })
  let s5 := rewalkPipe n true (fun _ => true) (fun _ => true) (rewalkPipe n false (fun _ => true) (fun _ => true) s4)
  endPark n (atCore n (wakeSlots (entryLive s5)) s5)

/-- A core without a task takes back the first ready one; one whose PARK_WD record is not answered stays suspended (R273). -/
def restoreReady (n : Nat) (s : State) : State :=
  if (s.core n).regs.run ≠ .idle then s
  else match (s.core n).susp.find? (fun x => x.ready && x.wdRec ≠ some true) with
    | some x => restoreTask n x s
    | none => s

def wakeSusp (wake : Nat → Bool) (n : Nat) (s : State) : State :=
  if (s.core n).susp.any (fun x => wake x.entry && !x.ready) then
    restoreReady n (s.modCore n (fun c => { c with susp := c.susp.map (fun x =>
      if wake x.entry then { x with ready := true } else x) }))
  else s

/-! ## The waking write -/

/-- A write to the line of pa: every access parked on an entry of the line that is now valid, and resident if a leaf, wakes. -/
def wakeLine (pa : Nat) (s : State) : State :=
  let wake := wakes s pa
  (s.cores.map (fun c => c.1)).foldl (fun s n =>
    atCore n (wakeSlots wake) (wakeSusp wake n (wakeCore wake n s))) (wakeEngines wake s)

def execWake (pa : Pa) (s : State) : Outcome State Fault Refusal := .next (wakeLine pa.toNat s)

end Sys2Proof.Machine
end

