-- ==== Sys2Proof/Machine/Kill.lean ====
section
/-! DEFINITION. Claims, the termination of a context and its scrub (R158, R207, R260, R306, R330, R346, R374). -/

namespace Sys2Proof.Machine

open Host (Outcome)

/-! ## Claims (R333, R334, R336) -/

/-- The node that claims a core. -/
def claimOf (s : State) (n : Nat) : Option Nat := fget? (s.quad (n / 4)).claims (n % 4)

/-- A core of quad q or its claim is released: nodes that wait for it try again. -/
def releaseAt (q : Nat) (s : State) : State :=
  { s with nodes := s.nodes.map (fun e => if e.2.waits = some q then (e.1, { e.2 with retry := true }) else e) }

def unclaim (n : Nat) (s : State) : State :=
  releaseAt (n / 4) (s.modQuad (n / 4) (fun q => { q with claims := fdel q.claims (n % 4) }))

/-- Every claim of a node is released. -/
def unclaimNode (h : Nat) (s : State) : State :=
  ((s.node h).cores.filter (fun n => claimOf s n = some h)).foldl (fun s n => unclaim n s) s

/-! ## A core stops -/

/-- The lease of a stopped core: its request is withdrawn, or the array is reset and released (R158); its drains in flight are
discarded. -/
def dropLease (n : Nat) (s : State) : State :=
  let s1 := s.modArray (n / 4) (fun a =>
    let rest := a.drains.filter (fun d => d.core ≠ n % 4)
    if holdsArray (s.core n) then { FoldArray.granted 0 with lastHolder := a.lastHolder, drains := rest } else { a with drains := rest })
  s1.modCore n (fun c => { c with fold := { c.fold with lease := .none } })

/-- Everything of the task on core n is discarded, its outrider included. -/
def stopCore (n : Nat) (s : State) : State :=
  let s1 := releaseAt (n / 4) ((dropLease n s).modCore n (fun c =>
    { c with regs := CoreRegs.reset, halt := ⟨false, false⟩, cache := { c.cache with
        l1 := dropComing c.cache.l1, walkL := [], walkW := [], walkF := [] } }))
  s1.mapPods (fun w => if w.ofCore n then .gone else w)

/-- A core runs a task of a context. -/
def runsFor (tag : Nat) (c : Core) : Bool := c.regs.run ≠ .idle && c.regs.id.tag = tag

def stopTasks (tag : Nat) (s : State) : State :=
  (s.cores.map (fun c => c.1)).foldl (fun s n =>
    let s0 := s.mapPods (fun w => ((s.core n).susp.filter (fun x => x.image.id.tag = tag)).foldl
      (fun w x => w.forget n x.image.id.node x.image.id.tile.toNat) w)
    let s1 := s0.modCore n (fun c => { c with susp := c.susp.filter (fun x => x.image.id.tag ≠ tag) })
    if runsFor tag (s1.core n) then restoreReady n (stopCore n s1) else s1) s

/-! ## Queues and nodes of a terminated context (R306, R330) -/

/-- The bits of a record's dispatcher bytes, 0x50 to 0xBF, for a state code (R300). -/
def recordWords (x : Queue) (st : Nat) : List Nat :=
  let lc := x.lc.reverse
  [x.head.toNat + 2 ^ 32 * x.tail.toNat, x.wake.toNat,
   st + 2 ^ 3 * x.mapped.toNat + 2 ^ 4 * x.wakep.toNat + 2 ^ 5 * (x.pc % 512) + 2 ^ 14 * (x.lvl % 8) +
     2 ^ 17 * ((lc.getD 0 (0, 0)).2 % 512) + 2 ^ 26 * ((lc.getD 1 (0, 0)).2 % 512)] ++
  x.x.toList.map BitVec.toNat ++
  (match x.arm with | some a => [field a 0 64, field a 64 64, 1] | none => [0, 0, 0])

def queueCode : QueueSt → Nat
  | .undefined => 0 | .idle => 1 | .ready => 2 | .running => 3 | .blocked => 4 | .unmapping => 5 | .failed => 6 | .dead => 7

/-- The dispatcher writes its bytes of a queue's record. -/
def saveRecord (q : Nat) (s : State) : State :=
  let x := s.queue q
  let ws := recordWords x (queueCode x.st)
  memWrite x.tag ((ws.zipIdx.map (fun e => bytesOf e.1 8 (fun i => x.record + 0x50 + 8 * e.2 + i))).flatten) s

/-- What of a queue its record follows: a record is written when one of these changes (R300, R306). -/
def recordKey (x : Queue) : List Nat :=
  [queueCode x.st, x.mapped.toNat, x.head.toNat, x.tail.toNat, x.wake.toNat, x.wakep.toNat] ++
  (match x.arm with | some a => [a.toNat] | none => [])

/-- The records of the queues that have changed since state s0. -/
def saveChanged (s0 s : State) : State :=
  s.queues.foldl (fun (u : State) (e : Nat × Queue) =>
    if (s.queue e.1).st ≠ .undefined ∧ recordKey (s.queue e.1) ≠ recordKey (s0.queue e.1) then saveRecord e.1 u else u) s

/-- The slot and the interpreter of a queue are free again. -/
def freeSlot (q : Nat) (s : State) : State :=
  (s.modQueue q (fun x => { x with mapped := false })).modDisp (s.queue q).home (fun d =>
    { d with slots := d.slots.filter (fun y => y ≠ q), run := if d.run = some q then none else d.run })

/-- How a packet of a terminated context ends: a `fence` or `cond` that waits for its nodes completes with code 0x0B, detail
0x08 (R330); any other packet fails with code 0x08 (R306). -/
def killCode (s : State) (q : Nat) (p : Packet) : Nat × Nat :=
  let x := s.queue q
  if (x.st = .blocked || x.st = .unmapping) && x.block = .work && x.cur = some p.serial && s.nodes.any (fun e => e.2.queue = q && e.2.packet = p.serial &&
      (e.2.st = .reserving || e.2.st = .committed || e.2.st = .running)) then (0x0B, 0x08)
  else (0x08, 0)

/-- Every accepted packet of a context in a queue is journalled failed; the queue, if it is the context's, becomes dead and
its slot is freed. -/
def killQueue (q tag : Nat) (s : State) : State :=
  let x := s.queue q
  let s1 := (x.pkts.filter (fun p => p.qtag = tag)).foldl (fun s p =>
    let c := killCode s q p
    endPacket q p c.1 c.2 s) s
  if x.tag ≠ tag || x.st = .undefined || x.st = .dead then s1
  else
    let s2 := (freeSlot q s1).modQueue q (fun y =>
      { y with st := .dead, cur := none, block := .none, latched := [], arm := none })
    (saveRecord q s2).modDisp x.home (fun d => { d with copies := d.copies.filter (fun c => c.2.2.1 ≠ q) })

def killQueues (tag : Nat) (s : State) : State := (s.queues.map (fun e => e.1)).foldl (fun s q => killQueue q tag s) s

def killNodes (tag : Nat) (s : State) : State :=
  (s.nodes.filter (fun e => e.2.tag = tag && (e.2.st = .reserving || e.2.st = .committed || e.2.st = .running))).foldl
    (fun s e =>
      let s1 := e.2.cores.foldl (fun s n => releaseAt (n / 4) s) (unclaimNode e.1 s)
      { s1 with nodes := fset s1.nodes e.1 { s1.node e.1 with st := .failed, active := [], waits := none } }) s

/-! ## Termination (R260) -/

/-- The context enters terminating: every task stops at once, its held state, queues and outrider are discarded. -/
def killCtx (tag : Nat) (s : State) : State :=
  let c := s.ctx tag
  if c.st = .created || c.st = .resident || c.st = .running || c.st = .saved then
    let s1 := killNodes tag (killQueues tag s)
    scrubBarriers tag (killChans tag (stopTasks tag (s1.setCtx tag { s1.ctx tag with st := .terminating })))
  else s

/-- Every cached leaf and table entry of a tag leaves the caches of translation. -/
def dropTag (tag : Nat) (s : State) : State :=
  let keep := fun (l : List Leaf) => l.filter (fun x => x.tag ≠ tag)
  { s with
    cores := s.cores.map (fun c => (c.1, { c.2 with cache := { c.2.cache with
      dtlb := keep c.2.cache.dtlb, ctlb := keep c.2.cache.ctlb
      icache := c.2.cache.icache.filter (fun i => i.tag ≠ tag) } }))
    quads := s.quads.map (fun q => (q.1, { q.2 with
      l2tlb := keep q.2.l2tlb, walks := q.2.walks.filter (fun w => w.1 ≠ tag) }))
    etlb := s.etlb.map (fun e => (e.1, keep e.2))
    disps := s.disps.map (fun d => (d.1, { d.2 with tlb := keep d.2.tlb })) }

/-- The granules of core n that carry a tag, and its accumulator partition, become zero and untagged (R160, R374). -/
def scrubCore (tag n : Nat) (s : State) : State :=
  let s1 := { s with mem := s.mem.filter (fun e =>
      !(isPad e.1 && (e.1 - padBase) / 0x200000 = n && granTag s e.1 = some tag)) }
  let s2 := if fget? s1.sptag n = some tag then { s1 with sptag := fdel s1.sptag n } else s1
  if fget? s2.acctag n = some tag then
    { s2 with acctag := fdel s2.acctag n
              mem := s2.mem.filter (fun e => !(accOf n ≤ e.1 && e.1 < accOf n + 0x100000)) }
  else s2

/-- Cores on which something of the context may lie. -/
def taggedCores (tag : Nat) (s : State) : List Nat :=
  (((s.sptag.filter (fun e => e.2 = tag)).map (fun e => e.1)) ++ ((s.acctag.filter (fun e => e.2 = tag)).map (fun e => e.1)) ++
    ((s.pins.filter (fun x => x.tag = tag)).map (fun x => x.core))).eraseDups

/-- L1 lines of the cores whose last task was of the context. -/
def scrubL1 (tag : Nat) (s : State) : State :=
  { s with cores := s.cores.map (fun c =>
      if c.2.last = some tag && c.2.regs.run = .idle then (c.1, { c.2 with cache := { c.2.cache with l1 := [] } }) else c) }

/-- No on-chip structure carries the tag of a saved context: its entries, L1 lines, granules, partitions and page requests leave
(R260). -/
def leaveChip (tag : Nat) (s : State) : State :=
  let s1 := scrubL1 tag (dropTag tag s)
  { s1 with
    sptag := s1.sptag.filter (fun e => e.2 ≠ tag)
    acctag := s1.acctag.filter (fun e => e.2 ≠ tag)
    dirty := s1.dirty.filter (fun l => fget? s1.writer l ≠ some tag)
    quads := s1.quads.map (fun q => (q.1, { q.2 with
      pageReq := q.2.pageReq.filter (fun r => r.tag ≠ tag)
      posters := q.2.posters.filter (fun r => r.tag ≠ tag) })) }

/-- The flits of a context in the link buffers are dropped and counted, and its requests among them are done with (R374). -/
def scrubLinks (tag : Nat) (s : State) : State :=
  { s with
    podheld := s.podheld.filter (fun f => Flit.tag f.2 ≠ tag)
    podreqs := s.podreqs.filter (fun r => !(((r.who = .gone) || (match r.who with | .passed _ => r.tag = tag | _ => false)) && s.links.any (fun e => (e.2.out ++ e.2.replay).any (fun f =>
      Flit.tag f = tag && Flit.kind f ≤ 2 && Flit.src f = s.podmod.toNat && Flit.tid f = r.tid))))
    links := s.links.map (fun e =>
      let keep := fun (l : List Flit) => l.filter (fun f => Flit.tag f ≠ tag)
      let x := e.2
      (e.1, { x with
        out := keep x.out, replay := keep x.replay
        lost := x.lost + BitVec.ofNat 16 (x.out.length - (keep x.out).length + (x.replay.length - (keep x.replay).length)) })) }

/-- The scrub of a terminating context (R374): its entries, granules, partitions, channels, mailbox records, link flits, access
rights and key handles. -/
def scrubCtx (tag : Nat) (s : State) : State :=
  let s1 := (taggedCores tag s).foldl (fun s n => scrubCore tag n s) (scrubL1 tag (dropTag tag (scrubLinks tag s)))
  let s2 := { s1 with
    pins := s1.pins.filter (fun x => x.tag ≠ tag)
    dirty := s1.dirty.filter (fun l => fget? s1.writer l ≠ some tag)
    quads := s1.quads.map (fun q => (q.1, { q.2 with
      pageReq := q.2.pageReq.filter (fun r => r.tag ≠ tag)
      posters := q.2.posters.filter (fun r => r.tag ≠ tag)
      trapRec := q.2.trapRec.filter (fun r => r.tag ≠ tag) }))
    acctab := s1.acctab.filter (fun e => e.1 % 4096 ≠ tag)
    keyh := s1.keyh.filter (fun e => !(e.2.getLsbD 12 && field e.2 0 12 = tag))
    flash := { s1.flash with presence := s1.flash.presence.filter (fun p => p.2 ≠ tag) } }
  s2

/-- The scrub ends: the context is dead, its record is written and the host interrupted (R260, R316). It does not end before a
rescheduling job of the context (R292). -/
def execContextScrubDone (t : BitVec 12) (s : State) : Outcome State Fault Refusal :=
  let tag := t.toNat
  .next (if (s.ctx tag).st = .terminating && !(s.jobs.any (fun j => j.tag = tag)) then
      let s1 := journal 0 tag (journalRec 6 0 0 0 0 0 s.ns 0 0) (scrubCtx tag s)
      irqRequest (s1.ctx tag).dvec (dropTag tag (s1.setCtx tag { s1.ctx tag with st := .dead }))
    else s)

end Sys2Proof.Machine
end

