-- ==== Sys2Proof/Machine/Context.lean ====
section
/-! DEFINITION. Command registers, shootdowns, and the creation and end of contexts (R245, R258 to R260, R301, R325). -/

namespace Sys2Proof.Machine

open Host (Outcome)

/-! ## Command registers (R245, R259, R301) -/

/-- Word +8 with a result and busy 0; its reserved fields read as 0 (R2). -/
def withErr (w : Word) (err : Nat) : Word := BitVec.ofNat 64 (field w 0 14 + 2 ^ 56 * err)

/-- Start a command; `bad` gives the result of one that is refused at the write. -/
def CmdReg.start (bad : Word → Option Nat) (w0 w8 : Word) (r : CmdReg) : CmdReg :=
  match bad w8 with
  | some e => { r with w8 := withErr w8 e, busy := false, going := false }
  | none => { r with arg := w0, w8 := withErr w8 0, busy := true, going := false }

/-- A write of word +8, with word +0 as it was then, takes effect. -/
def CmdReg.take (bad : Word → Option Nat) (w0 v : Word) (r : CmdReg) : CmdReg :=
  if v.getLsbD 63 then r.start bad w0 v else { r with w8 := withErr v (field r.w8 56 7) }

/-- A write of word +8: held while the command is busy, and none is lost. -/
def CmdReg.put8 (bad : Word → Option Nat) (v : Word) (r : CmdReg) : CmdReg :=
  if r.busy then { r with held := r.held ++ [(r.w0, v)] } else r.take bad r.w0 v

/-- The held writes in turn, up to one that starts a command. -/
def CmdReg.next (bad : Word → Option Nat) (r : CmdReg) : List (Word × Word) → CmdReg
  | [] => { r with held := [] }
  | (a, b) :: l =>
    let x := CmdReg.take bad a b r
    if x.busy then { x with held := l } else CmdReg.next bad x l

/-- The command ends with a result. -/
def CmdReg.done (bad : Word → Option Nat) (err : Nat) (r : CmdReg) : CmdReg :=
  CmdReg.next bad { r with w8 := withErr r.w8 err, busy := false, going := false } r.held

/-- Word +8 as read. -/
def CmdReg.read8 (r : CmdReg) : Word := if r.busy then r.w8 ||| (1 <<< 63) else r.w8

def noBad (_ : Word) : Option Nat := none

/-! ## Shootdowns (R245) -/

/-- A range of pages of a tag: the first page and the number of pages. -/
structure Range where
  tag   : Nat
  first : Nat
  count : Nat
  deriving DecidableEq, Repr

/-- The range that the running XSHOOT names. -/
def shootRange (r : CmdReg) : Range :=
  let n := if 48 < field r.arg 0 6 then 48 else field r.arg 0 6
  let tag := field r.w8 0 12
  if r.w8.getLsbD 12 then ⟨tag, 0, 2 ^ 48⟩ else ⟨tag, field r.arg 12 48 / 2 ^ n * 2 ^ n, 2 ^ n⟩

def Range.meets (x : Range) (lo n : Nat) : Bool := lo < x.first + x.count && x.first < lo + n

def Range.hasLeaf (x : Range) (l : Leaf) : Bool := l.tag = x.tag && x.meets l.vpn (2 ^ l.size)

def Range.hasTable (x : Range) (w : Nat × Nat × Nat × Nat) : Bool :=
  w.1 = x.tag && x.meets (w.2.2.1 * 2 ^ (levelLo w.2.1 - 12)) (2 ^ (levelLo w.2.1 - 12))

/-- Every TLB and walk cache of the module removes the entries of a range; a walk's leaf not yet used goes with them. -/
def shootdown (x : Range) (s : State) : State :=
  let keep := fun (l : List Leaf) => l.filter (fun e => !x.hasLeaf e)
  let walks := fun (l : List Walk) => l.filter (fun w => match w.res with | some (.leaf e) => !x.hasLeaf e | _ => true)
  { s with
    cores := s.cores.map (fun c => (c.1, { c.2 with cache := { c.2.cache with
      dtlb := keep c.2.cache.dtlb, ctlb := keep c.2.cache.ctlb
      walkL := walks c.2.cache.walkL, walkW := walks c.2.cache.walkW, walkF := walks c.2.cache.walkF } }))
    quads := s.quads.map (fun q => (q.1, { q.2 with
      l2tlb := keep q.2.l2tlb, walks := q.2.walks.filter (fun w => !x.hasTable w) }))
    etlb := s.etlb.map (fun e => (e.1, keep e.2))
    disps := s.disps.map (fun d => (d.1, { d.2 with tlb := keep d.2.tlb })) }

/-- An access in the range has been sent and not been performed. -/
def Range.opens {α : Type} (x : Range) (r : Req α) : Bool :=
  r.park.isNone && !r.todo.isEmpty && !r.units.isEmpty &&
    (pagesOf r.va.toNat (r.n * r.ulen)).any (fun a => x.meets (a / 4096) 1)

def shootBusy (x : Range) (s : State) : Bool :=
  s.cores.any (fun c => c.2.regs.id.tag = x.tag && [c.2.regs.task, c.2.regs.outr].any (fun p =>
    p.lq.any (fun r => x.opens r) || p.sq.any (fun r => x.opens r)))

def execXshootStart (s : State) : Outcome State Fault Refusal :=
  .next (if s.xshoot.busy && !s.xshoot.going then
      { shootdown (shootRange s.xshoot) s with xshoot := { s.xshoot with going := true } }
    else s)

def execXshootComplete (s : State) : Outcome State Fault Refusal :=
  .next (if s.xshoot.busy && s.xshoot.going && !shootBusy (shootRange s.xshoot) s then
      { s with xshoot := s.xshoot.done noBad 0 }
    else s)

/-! ## CTXCMD (R258 to R260) -/

/-- A write that CTXCMD refuses at once (err 5). -/
def ctxBad (v : Word) : Option Nat := if field v 0 2 = 3 || field v 14 42 ≠ 0 then some 5 else none

/-- Word k of the record that a command names. -/
def recWord (s : State) (r : CmdReg) (k : Nat) : Nat := Memory.read s.mem (field r.arg 6 46 * 64 + 8 * k) 8

/-- The result of a create. Malformed is a root or save area off its alignment; the reserved fields of the record are ignored
(R2). -/
def createErr (s : State) (w : Nat → Nat) : Nat :=
  let tag := bitsN (w 0) 0 12
  if (s.ctx tag).st ≠ .free then 1
  else if bitsN (w 1) 0 15 ≠ 0 || bitsN (w 3) 0 12 ≠ 0 then 2
  else if w 4 < 4096 + 3 * 2 ^ 20 * bitsN (w 0) 16 8 then 3
  else 0

/-- The access-table entries that a create installs: all rights at the memories, channels, aperture and pod windows, and
commands at the control registers; for the host only at the aperture and the doorbells (log entry 18). -/
def ctxRights (tag : Nat) (t : FMap (BitVec 32)) : FMap (BitVec 32) :=
  (List.range 7).foldl (fun t k =>
    fset t (k * 4096 + tag) (if k = 5 then 0x08888888 else if k = 4 then 0x0FFFFFFF else 0x0FF0FFFF)) t

def createCtx (w : Nat → Nat) (s : State) : State :=
  let tag := bitsN (w 0) 0 12
  { s.setCtx tag
      { st := .created
        band := BitVec.ofNat 4 (bitsN (w 0) 12 4)
        maxsusp := bitsN (w 0) 16 8
        kok := bitsN (w 0) 24 1 = 1
        inj := bitsN (w 0) 25 1 = 1
        dvec := bitsN (w 0) 26 11
        root := bitsN (w 1) 0 52
        frt := BitVec.ofNat 64 (w 2)
        save := bitsN (w 3) 0 60
        ssize := w 4
        park := BitVec.ofNat 64 (w 5)
        jrnl := bitsN (w 6) 0 60
        budget := (fget 0 s.ctxbud tag).toNat
        reserved := 0
        jheld := [] } with
    acctab := ctxRights tag s.acctab }

/-- A CTXCMD of an op is running. -/
def ctxRunning (s : State) (op : Nat) : Bool := s.ctxcmd.busy && field s.ctxcmd.w8 0 2 = op

def ctxDone (err : Nat) (s : State) : State := { s with ctxcmd := s.ctxcmd.done ctxBad err }

def ctxTag (s : State) : Nat := field s.ctxcmd.w8 2 12

def execCtxCreate (s : State) : Outcome State Fault Refusal :=
  .next (if ctxRunning s 0 && s.boot.stage = 8 then
      let w := recWord s s.ctxcmd
      let e := createErr s w
      ctxDone e (if e = 0 then createCtx w s else s)
    else s)

/-- A state from which a destroy is taken. -/
def CtxSt.live (c : CtxSt) : Bool := c = .created || c = .resident || c = .running || c = .saved

def execCtxDestroy (s : State) : Outcome State Fault Refusal :=
  .next (if ctxRunning s 1 then
      (if (s.ctx (ctxTag s)).st.live then ctxDone 0 (killCtx (ctxTag s) s) else ctxDone 4 s)
    else s)

/-- A dead context is released and its tag may be bound again. Its held records are written first: the command stays busy until they
are, since no record is dropped (R317; log entry 132). -/
def execCtxRelease (s : State) : Outcome State Fault Refusal :=
  .next (if ctxRunning s 2 then
      (if (s.ctx (ctxTag s)).st = .dead then
        (let s1 := flushJournal 0 (ctxTag s) s
         if (s1.ctx (ctxTag s)).jheld.isEmpty then ctxDone 0 (dropTag (ctxTag s) (s1.setCtx (ctxTag s) Ctx.reset)) else s1)
      else ctxDone 4 s)
    else s)

end Sys2Proof.Machine
end

