-- ==== Sys2Proof/Machine/Queue.lean ====
section
/-! DEFINITION. Queues: definition, verification, deletion, doorbells, mapping, acceptance and unmapping (R300 to R308, R313 to
R317, R402). -/

namespace Sys2Proof.Machine

open Host (Outcome)

/-! ## Residency of contexts (R260, R262) -/

/-- A context holds a mapped queue, a pin in place, or a node under way. -/
def ctxHeld (s : State) (tag : Nat) : Bool :=
  s.queues.any (fun e => e.2.tag = tag && e.2.mapped) || s.pins.any (fun x => x.tag = tag && x.saved.isNone) ||
  s.nodes.any (fun e => e.2.tag = tag && (e.2.st = .committed || e.2.st = .running))

/-- A resident context all of whose pins are displaced and whose queues are unmapped is saved, and no on-chip structure
carries its tag. -/
def settleCtx (tag : Nat) (s : State) : State :=
  if (s.ctx tag).st = .resident && !ctxHeld s tag then
    leaveChip tag (s.setCtx tag { s.ctx tag with st := .saved })
  else s

/-- The end of a pin on core n: no pin reaches past the scratchpad of its core (R20). -/
def Pin.stop (p : Pin) (n : Nat) : Nat := padOf n + (if p.off + p.size < 0x200000 then p.off + p.size else 0x200000)

/-- The bytes of a placed pin. -/
def pinBytes (s : State) (x : Placed) : List Host.Cell :=
  s.mem.filter (fun e => padOf x.core + x.pin.off ≤ e.1 && e.1 < x.pin.stop x.core)

/-- Displace a pin: with keep its bytes are saved, without it they are discarded. -/
def displace (x : Placed) (s : State) : State :=
  let rest := s.pins.filter (fun y => y ≠ x)
  if x.pin.keep then { s with pins := rest ++ [{ x with saved := some (pinBytes s x) }] } else { s with pins := rest }

/-! ## Commands into a quad (R207, R262) -/

/-- A physical address lies in the scratchpads, accumulators or mail registers of quad q. -/
def inQuad (q pa : Nat) : Bool :=
  (isPad pa && (pa - padBase) / 0x800000 = q) || (isAcc pa && (pa - accBase) / 0x400000 = q) ||
  (isMail pa && (pa - mailBase) / 256 = q)

/-- A command whose destination or stamp lies in quad q, or may lie there while its template cannot be read (R207). -/
def cmdInQuad (s : State) (c q : Nat) (m : Cmd) : Bool :=
  let hit := fun (rs : List (Nat × Nat)) => rs.any (fun r => (rangeParts 4096 r.1 r.2).any (fun a =>
    match engineLook s c 1 true a with
    | .ok pa => inQuad q pa
    | .park _ => true
    | _ => false))
  if m.marker then hit [((s.chan c).mstamp.toNat, 8)]
  else match m.tmpl with
    | some t => hit ((Tmpl.stp t, 8) :: (if m.result.isNone then writeRanges t else []))
    | none =>
      match tmplLook s c m with
      | .ready => let t := readTmpl s c m; hit ((Tmpl.stp t, 8) :: (if m.result.isNone then writeRanges t else []))
      | .park _ _ => true
      | .fail _ => false

/-- No command of a context still touches a quad. -/
def cmdsClear (s : State) (tag q : Nat) : Bool :=
  s.chans.all (fun e => e.2.tag ≠ tag || e.2.cmds.all (fun m => !cmdInQuad s e.1 q m))

/-! ## Doorbells (R304 to R307) -/

/-- A queue-failed record and its interrupt. -/
def failRecord (q code : Nat) (s : State) : State :=
  let x := s.queue q
  irqRequest x.evec (journal x.home x.tag (journalRec 5 q 0 code 0 0 s.ns x.head.toNat 0) s)

/-- The queue fails: its packet whose run has not ended is journalled failed first (R306). -/
def failQueue (q code : Nat) (s : State) : State :=
  let x := s.queue q
  let s1 := (x.pkts.filter (fun p => !p.finish)).foldl (fun s p => failPacket q p code 0 s) s
  settleCtx x.tag (failRecord q code ((freeSlot q s1).modQueue q (fun y => { y with st := .failed, cur := none, block := .none })))

/-- tail ≠ head, a packet in the arm slot, or a wake value for a run that waits for it. -/
def hasWork (x : Queue) : Bool :=
  x.tail ≠ x.head || x.arm.isSome || (x.st = .blocked && x.block = .wake && x.wakep)

/-- A write takes effect at the queue. -/
def applyBell (q : Nat) (wake : Option Word) (tail : Option (BitVec 32)) (s : State) : State :=
  let x := s.queue q
  let rung := if hasWork x then x.rung else s.now
  match wake, tail with
  | some v, _ => s.modQueue q (fun x => { x with wake := v, wakep := true, rung := rung })
  | _, some t =>
    let s1 := s.modQueue q (fun x => { x with tail := t, rung := rung })
    if x.st ≠ .dead && 2 ^ (x.lsz + 4) < (t - x.head).toNat then failQueue q 5 s1 else s1
  | _, _ => s

/-- A write to the doorbell block of a queue: dropped where the queue is undefined, held while it is being unmapped or its
scheduler restarts. -/
def doorbell (q : Nat) (wake : Option Word) (tail : Option (BitVec 32)) (s : State) : State :=
  let x := s.queue q
  if x.st = .undefined then s
  else if x.st = .unmapping || (s.disp x.home).restart then
    s.modQueue q (fun x => { x with latched := x.latched ++ [(wake, tail)] })
  else saveChanged s (applyBell q wake tail s)

/-- Apply the writes held for a queue, in order. -/
def flushBells (q : Nat) (s : State) : State :=
  (s.queue q).latched.foldl (fun s e => applyBell q e.1 e.2 s) (s.modQueue q (fun x => { x with latched := [] }))

def execDoorbellTail (q : BitVec 12) (v : BitVec 32) (s : State) : Outcome State Fault Refusal :=
  .next (doorbell q.toNat none (some v) s)
def execDoorbellWake (q : BitVec 12) (v : Word) (s : State) : Outcome State Fault Refusal :=
  .next (doorbell q.toNat (some v) none s)

/-! ## Verification (R302) -/

/-- The rows of the bytecode: the mask of the fixed bits of a word, and their values (R309, R310). -/
def qbRows : List (Nat × Nat) := [
  (0xFFFFFFFF, 0x00000000), (0x0000F8FF, 0x00000001), (0xC00088FF, 0x00000002), (0xC00088FF, 0x00000003),
  (0x000088FF, 0x00000004), (0x000088FF, 0x00000005), (0x000088FF, 0x00000006), (0x000088FF, 0x00000007),
  (0x000088FF, 0x00000008), (0x000088FF, 0x00000009), (0x000088FF, 0x0000000A), (0xFFF888FF, 0x0000000B),
  (0xFF00F8FF, 0x0000000C), (0xFE00FFFF, 0x0000000D), (0xFFFFFFFF, 0x0000000E), (0xC00088FF, 0x0000000F),
  (0xFFFF8FFF, 0x00000010), (0xFE00F8FF, 0x00000011), (0xF8008FFF, 0x00000012), (0xF8008FFF, 0x00000013),
  (0xFFFFF8FF, 0x40000013), (0xFFFF88FF, 0x00000014), (0x000088FF, 0x00000015), (0xC00088FF, 0x00000016),
  (0xF800FFFF, 0x00000017), (0x00008FFF, 0x00000018), (0xFFF0FFFF, 0x00000019), (0xFFFFFFFF, 0x0000001A),
  (0xFFFFF8FF, 0x0000001B), (0xFFFFFFFF, 0x0000001C), (0xFF00FFFF, 0x0000001D)]

def qbOp (w : BitVec 32) : Nat := field w 0 8
def qbImm (w : BitVec 32) (lo n : Nat) : Nat := field w (16 + lo) n

def qbFields (w : BitVec 32) : Bool :=
  qbRows.any (fun r => w.toNat &&& r.1 = r.2) && !(qbOp w = 0x0B && 5 < qbImm w 0 3) && !(qbOp w = 0x0C && qbImm w 0 8 = 0)

/-- The enclosing loops of each instruction, innermost first, by index; none where loops do not match or nest too deep. -/
def qbLoops : Nat → List Nat → List (BitVec 32) → Option (List (List Nat))
  | _, st, [] => if st.isEmpty then some [] else none
  | i, st, w :: l =>
    if qbOp w = 0x0D then
      if 2 ≤ st.length then none else (qbLoops (i + 1) (i :: st) l).map (fun r => st :: r)
    else if qbOp w = 0x0E then
      match st with
      | [] => none
      | _ :: t => (qbLoops (i + 1) t l).map (fun r => st :: r)
    else (qbLoops (i + 1) st l).map (fun r => st :: r)

def qbPasses (prog : List (BitVec 32)) (st : List Nat) : Nat :=
  st.foldl (fun n i => n * qbImm (prog.getD i 0) 0 9) 1

/-- An operation that accesses a window. -/
def qbWindowOp (op : Nat) : Bool := op = 0x02 || op = 0x03 || op = 0x0F || op = 0x16

/-- The first check that a program fails; 0 if none. -/
def verify (prog : List (BitVec 32)) (wins : List QWin) : Nat :=
  if prog.any (fun w => 0x1D < qbOp w) then 0x10
  else if !prog.all qbFields then 0x11
  else match qbLoops 0 [] prog with
    | none => 0x12
    | some ls =>
      if prog.any (fun w => qbOp w = 0x0D && !(1 ≤ qbImm w 0 9 && qbImm w 0 9 ≤ 256)) then 0x13
      else if (prog.zipIdx).any (fun e => qbOp e.1 = 0x0C &&
        (let t := e.2 + 1 + qbImm e.1 0 8
         prog.length ≤ t || ls.getD t [] ≠ ls.getD e.2 [])) then 0x14
      else if prog.any (fun w => qbWindowOp (qbOp w) &&
        (let k := qbImm w 12 2
         (k ≠ 0 && (wins.getD (k - 1) ⟨0, false, 0⟩).size = 0) ||
         (qbOp w = 0x03 && (k = 0 || !(wins.getD (k - 1) ⟨0, false, 0⟩).wr)))) then 0x15
      else if 256 < ((prog.zip ls).map (fun e => if qbOp e.1 = 0x0D then 1 else qbPasses prog e.2)).foldl (· + ·) 0 then 0x16
      else if !(match prog.getLast? with | some w => qbOp w = 0x1C || qbOp w = 0x1D | none => false) then 0x17
      else if 256 < prog.length then 0x18
      else 0

/-! ## QCMD (R300, R301) -/

def qcmdRunning (s : State) (op : Nat) : Bool := s.qcmd.busy && field s.qcmd.w8 0 1 = op
def qcmdDone (err : Nat) (s : State) : State := { s with qcmd := s.qcmd.done noBad err }

/-- A malformed queue record: a program, window or window size off its alignment (R300). The reserved fields of a record in
memory are ignored (R2). -/
def recordBad (w : Nat → Nat) : Bool :=
  bitsN (w 2) 0 2 ≠ 0 || [4, 6, 8].any (fun k => bitsN (w k) 0 3 ≠ 0 || bitsN (w (k + 1)) 0 3 ≠ 0)

def recordWins (w : Nat → Nat) : List QWin :=
  [4, 6, 8].map (fun k => ⟨bitsN (w k) 0 60, bitsN (w k) 63 1 = 1, bitsN (w (k + 1)) 0 32⟩)

/-- The program as the dispatcher reads it; none where a read of it fails. -/
def recordProg (s : State) (w : Nat → Nat) : Option (List (BitVec 32)) :=
  let d := bitsN (w 1) 4 5
  let n := bitsN (w 3) 0 9 + 1
  let va := bitsN (w 2) 0 60
  match dispLook s d (bitsN (w 0) 0 12) 0 va (4 * n) with
  | .ok _ => some ((List.range n).map (fun i => BitVec.ofNat 32 (dispRead s (bitsN (w 0) 12 12) d (bitsN (w 0) 0 12) (va + 4 * i) 4)))
  | _ => none

def defineErr (s : State) (w : Nat → Nat) : Nat :=
  let c := s.ctx (bitsN (w 0) 0 12)
  if (s.queue (bitsN (w 0) 12 12)).st ≠ .undefined then 1
  else if recordBad w then 2
  else if !c.st.live || c.band.toNat < bitsN (w 0) 24 4 then 3
  else match recordProg s w with
    | none => 5
    | some p => verify p (recordWins w)

def defineQueue (rec : Nat) (w : Nat → Nat) (s : State) : State :=
  let q := bitsN (w 0) 12 12
  let old := s.queue q
  saveRecord q (s.modQueue q (fun _ =>
    { Queue.reset with
      st := .idle
      record := rec
      tag := bitsN (w 0) 0 12
      band := bitsN (w 0) 24 4
      dl := bitsN (w 0) 32 32
      lsz := bitsN (w 1) 0 4
      home := bitsN (w 1) 4 5
      ring := bitsN (w 1) 12 48 * 4096
      evec := bitsN (w 3) 16 11
      cbw := bitsN (w 3) 32 10 + 1
      prog := (recordProg s w).getD []
      wins := recordWins w
      pkts := old.pkts
      serial := old.serial }))

def execQcmdDefine (s : State) : Outcome State Fault Refusal :=
  .next (if qcmdRunning s 0 then
      let w := recWord s s.qcmd
      let e := defineErr s w
      qcmdDone e (if e = 0 then defineQueue (field s.qcmd.arg 6 46 * 64) w s else s)
    else s)

/-- Remove a queue. Its accepted packets still finish: a run that the deletion cuts off has ended (R301). -/
def removeQueue (q : Nat) (s : State) : State :=
  let s1 := freeSlot q s
  let x := s1.queue q
  let s2 := s1.modQueue q (fun x => { Queue.reset with pkts := x.pkts.map (fun p => { p with finish := true }), serial := x.serial })
  settleCtx x.tag (x.pkts.foldl (fun s p => settlePacket q p.serial s) s2)

/-- A delete: at once for a queue that is unmapped, failed or dead; a mapped one is unmapped first; a queue with a run under
way keeps the command busy. The event occurs again until the queue is gone. -/
def execQcmdDelete (s : State) : Outcome State Fault Refusal :=
  let q := field s.qcmd.w8 1 12
  let x := s.queue q
  .next (if qcmdRunning s 1 then
      match x.st with
      | .undefined => qcmdDone 4 s
      | .failed | .dead => qcmdDone 0 (removeQueue q s)
      | .idle | .blocked =>
        if x.mapped then saveChanged s (s.modQueue q (fun x => { x with deleting := true, st := .unmapping }))
        else qcmdDone 0 (removeQueue q s)
      | .ready | .running | .unmapping => s.modQueue q (fun x => { x with deleting := true })
    else s)

/-! ## Order (R308, R313, R314) -/

/-- A packet's deadline in ps of module time, or none. -/
def packetDl (x : Queue) (p : Packet) : Option Nat :=
  let d := if p.dl = 0 then x.dl else p.dl
  if d = 0 then none else some (p.accept + d * 1000000)

/-- A queue's deadline: that of its current packet. -/
def queueDl (x : Queue) : Option Nat :=
  match x.cur with
  | some n => (x.packet n).bind (packetDl x)
  | none => none

/-- The earlier of two deadlines: less than, or neither. -/
def dlBefore (a b : Option Nat) : Bool :=
  match a, b with
  | some x, some y => x < y
  | some _, none => true
  | none, _ => false

/-- The order of R314: the highest band, the earliest deadline, the lowest number. -/
def precedes (a b : Nat × Option Nat × Nat) : Bool :=
  b.1 < a.1 || (a.1 = b.1 && (dlBefore a.2.1 b.2.1 || (!dlBefore b.2.1 a.2.1 && a.2.2 < b.2.2)))

def queueKey (e : Nat × Queue) : Nat × Option Nat × Nat := (e.2.band, queueDl e.2, e.1)

/-- The entry that comes first of a list. -/
def firstBy {α : Type} (before : α → α → Bool) (l : List α) : Option α :=
  l.foldl (fun acc x => match acc with | none => some x | some y => if before x y then some x else some y) none

/-! ## Mapping and unmapping (R306 to R308) -/

/-- Steps 2 to 4 of R307 for a marked queue: the record is written, the held writes are applied, and the slot is free. -/
def finishUnmap (q : Nat) (s : State) : State :=
  let x := s.queue q
  if x.st ≠ .unmapping then s
  else
    let s1 := (freeSlot q s).modQueue q (fun y => { y with st := if y.cur.isSome then .blocked else .idle })
    settleCtx x.tag (flushBells q (saveRecord q s1))

def execQueueUnmap (q : BitVec 12) (s : State) : Outcome State Fault Refusal := .next (saveChanged s (finishUnmap q.toNat s))

/-- A queue that may be the victim: idle or blocked, and not an idle one whose ring read is parked. -/
def mayUnmap (x : Queue) : Bool :=
  x.mapped && ((x.st = .idle && x.block = .none) || x.st = .blocked)

/-- The victim of a dispatcher: the last in the order of R314. -/
def victimQueue (s : State) (d : Nat) : Option Nat :=
  (firstBy (fun a b => precedes (queueKey b) (queueKey a))
    (s.queues.filter (fun e => e.2.home = d && mayUnmap e.2))).map (fun e => e.1)

/-- A resident context without a task, whose queues can all be unmapped, is saved to make room (R260). -/
def saveable (s : State) (e : Nat × Ctx) : Bool :=
  e.2.st = .resident && s.pins.all (fun x => x.tag ≠ e.1 || x.saved.isSome || cmdsClear s e.1 (x.core / 4)) &&
  !s.nodes.any (fun n => n.2.tag = e.1 && (n.2.st = .committed || n.2.st = .running)) &&
  s.queues.all (fun x => x.2.tag ≠ e.1 || !x.2.mapped || mayUnmap x.2)

def saveCtx (tag : Nat) (s : State) : State :=
  let s1 := (s.pins.filter (fun x => x.tag = tag && x.saved.isNone)).foldl (fun s x => displace x s) s
  settleCtx tag ((s1.queues.filter (fun e => e.2.tag = tag && e.2.mapped)).foldl (fun s e =>
    finishUnmap e.1 (s.modQueue e.1 (fun x => { x with st := .unmapping }))) s1)

/-- Contexts resident or running. -/
def onModule (s : State) : Nat := (s.ctxs.filter (fun e => e.2.st = .resident || e.2.st = .running)).length

/-- The context can become resident (R260). -/
def canReside (s : State) (tag : Nat) : Bool :=
  (s.ctx tag).st = .resident || (s.ctx tag).st = .running ||
  (((s.ctx tag).st = .created || (s.ctx tag).st = .saved) && (onModule s < 256 || s.ctxs.any (saveable s)))

/-- The context becomes resident; a 257th makes another one leave first. -/
def reside (tag : Nat) (s : State) : State :=
  if (s.ctx tag).st = .created || (s.ctx tag).st = .saved then
    let s1 := if onModule s < 256 then s else match s.ctxs.find? (saveable s) with
      | some e => saveCtx e.1 s
      | none => s
    s1.setCtx tag { s1.ctx tag with st := .resident }
  else s

/-- A victim of dispatcher d is on its way out. -/
def unmapsOne (s : State) (d : Nat) : Bool := s.queues.any (fun e => e.2.home = d && e.2.mapped && e.2.st = .unmapping && !e.2.deleting)

/-- A queue with work takes a slot of its home dispatcher, or one victim is marked for it (R308). -/
def mapQueue (q : Nat) (s : State) : State :=
  let x := s.queue q
  let d := s.disp x.home
  if (x.st = .idle || x.st = .blocked) && !x.mapped && !x.deleting && hasWork x && !d.restart && canReside s x.tag then
    if d.slots.length < 16 then
      (reside x.tag s).modQueue q (fun y => { y with mapped := true }) |>.modDisp x.home (fun d => { d with slots := d.slots ++ [q] })
    else if unmapsOne s x.home then s
    else match victimQueue s x.home with
      | some v => s.modQueue v (fun y => { y with st := .unmapping })
      | none => s
  else s

def execQueueMap (q : BitVec 12) (s : State) : Outcome State Fault Refusal := .next (saveChanged s (mapQueue q.toNat s))

/-! ## Acceptance (R303, R306, R317, R402) -/

/-- The journal of queue q has room for a packet's three records beside those reserved and held; they can be written, and none of
the queue is held, so that the accepted record is performed before head advances. -/
def hasRoom (s : State) (q : Nat) (x : Queue) : Bool :=
  let c := s.ctx x.tag
  match journalFree s x.home x.tag with
  | some f => c.reserved + (c.jheld.filter (fun r => 5 ≤ recType r)).length + 3 ≤ f && slotsOk s x.home x.tag 3 &&
      c.jheld.all (fun r => recType r ≠ 6 && field r 4 12 ≠ q)
  | none => false

/-- A nop packet with no reserved bit set. -/
def isNop (b : BitVec 128) : Bool := field b 16 4 = 0 && field b 20 12 = 0 && field b 124 4 = 0

/-- Accept a packet of the arm slot or the ring. -/
def acceptPacket (q : Nat) (b : BitVec 128) (arm : Bool) (s : State) : State :=
  let x := s.queue q
  let p : Packet :=
    { serial := x.serial, bits := b, now := b, qtag := x.tag, qhome := x.home, qevec := x.evec, arm := arm, head := x.head,
      accept := s.now, started := isNop b, finish := isNop b, bad := none, workBad := none }
  let c := s.ctx x.tag
  let s1 := journalPk p (packetRec s q p 1 0 0) (s.setCtx x.tag { c with reserved := c.reserved + 3 })
  let s2 := s1.modQueue q (fun y =>
    { y with serial := y.serial + 1, arm := if arm then none else y.arm, head := if arm then y.head else y.head + 1 })
  if isNop b then journalPk p (packetRec s q p 3 0 0) (journalPk p (packetRec s q p 2 0 0) s2)
  else s2.modQueue q (fun y => { y with st := .ready, cur := some p.serial, pkts := y.pkts ++ [p] })

/-- The ring's head packet is read through the context's translation (R402). -/
def acceptRing (q : Nat) (s : State) : State :=
  let x := s.queue q
  let va := x.ring + 16 * (x.head.toNat % 2 ^ (x.lsz + 4))
  match dispTry s q x.home x.tag 0 va 16 with
  | .ok _ =>
    acceptPacket q (BitVec.ofNat 128 (dispRead s q x.home x.tag va 16)) false
      ((dispEnter x.home x.tag 0 va 16 s).modQueue q (fun y => { y with block := .none }))
  | .park e => postUnit x.home 7 x.tag va e (s.modQueue q (fun y => { y with block := .park e }))
  | .fault _ => failQueue q 2 s
  | .poison => failQueue q 9 s

/-- A parked ring read waits for its waking write. -/
def ringWaits (s : State) (x : Queue) : Bool := match x.block with | .park e => !entryLive s e | _ => false

def acceptNext (q : Nat) (s : State) : State :=
  let s := flushJournal (s.queue q).home (s.queue q).tag s
  let x := s.queue q
  if x.st = .idle && x.mapped && !x.deleting && hasWork x && !ringWaits s x && hasRoom s q x then
    match x.arm with
    | some b => acceptPacket q b true s
    | none => acceptRing q s
  else s

def execQueueAccept (q : BitVec 12) (s : State) : Outcome State Fault Refusal := .next (saveChanged s (farRest q.toNat (acceptNext q.toNat s)))

/-! ## Blocked runs (R306, R349) -/

/-- A count of phases has passed a phase. -/
def pastBy (now p : Nat) : Bool :=
  let k := (now + 2 ^ 32 - p) % 2 ^ 32
  1 ≤ k && k ≤ 2 ^ 31

/-- What a blocked run waits for has come; a wait on a failed or closed barrier ends too. -/
def blockOver (s : State) (q : Nat) (x : Queue) : Bool :=
  match x.block with
  | .none => true
  | .arrival name | .ask name => (podView s name).fail.isSome
  | .failed _ => true
  | .barrier name p => (match seenBar s name with
    | some (k, r) => pastBy k p || r.isSome
    | none => true)
  | .wake => x.wakep
  | .work => (match x.cur with | some n => !packetWork s q n | none => true)
  | .park e => entryLive s e

def execQueueUnblock (q : BitVec 12) (s : State) : Outcome State Fault Refusal :=
  let x := s.queue q.toNat
  .next (if x.st = .blocked && x.mapped && blockOver s q.toNat x then saveChanged s (s.modQueue q.toNat (fun y => { y with st := .ready }))
    else s)

end Sys2Proof.Machine
end

