-- ==== Sys2Proof/Machine/Fetch.lean ====
section
/-! DEFINITION. Walks of the cores, instruction fetch, page entry, landings and claims (R10, R90, R92, R93, R242 to R249, R277 to
R284, R293, R294). -/

namespace Sys2Proof.Machine

open Host (Outcome)

/-! ## Walks of a core (R242, R243) -/

/-- Give its result to the first walk of a list that has none. -/
def setWalk (r : WalkRes) : List Walk → List Walk
  | [] => []
  | w :: l => if w.res.isNone then { w with res := some r } :: l else w :: setWalk r l

/-- The next walk of a slot (0 L, 1 W, 2 fetch) of core n. -/
def slotWalk (n slot : Nat) (s : State) : State :=
  let c := (s.core n).cache
  let l := if slot = 0 then c.walkL else if slot = 1 then c.walkW else c.walkF
  match l.find? (fun w => w.res.isNone) with
  | none => s
  | some w =>
    let (out, s1) := coreWalk n (slot = 2) w.va.toNat (noteWalk n w.since s)
    match walkDone n (slot = 2) w.va.toNat w.kind out s1 with
    | (none, s2) => s2
    | (some r, s2) => s2.modCore n (fun x =>
        { x with cache :=
          if slot = 0 then { x.cache with walkL := setWalk r x.cache.walkL }
          else if slot = 1 then { x.cache with walkW := setWalk r x.cache.walkW }
          else { x.cache with walkF := setWalk r x.cache.walkF } })

/-- A dispatcher's walk brings in the leaf of the next ring read of its queues. -/
def dispWalk (d : Nat) (s : State) : State :=
  match s.queues.find? (fun e => e.2.home = d && e.2.mapped && e.2.st = .idle && e.2.tail ≠ e.2.head) with
  | some e => dispEnter d e.2.tag 0 (e.2.ring + 16 * (e.2.head.toNat % 2 ^ (e.2.lsz + 4))) 16 s
  | none => s

def execTranslationWalk (w : Walker) (s : State) : Outcome State Fault Refusal :=
  .next (match w with
    | .fetch n => slotWalk n.toNat 2 s
    | .slotL n => slotWalk n.toNat 0 s
    | .slotW n => slotWalk n.toNat 1 s
    | .engine d ch => engineWalk (d.toNat * 16 + ch.toNat) s
    | .disp d => dispWalk d.toNat s)

/-- The coachman takes a page-request record; a waiting poster has its slot (R249). -/
def execPageRequestTaken (q : QuadId) (s : State) : Outcome State Fault Refusal :=
  .next (s.modQuad q.toNat (fun x => { x with pageReq := x.pageReq.tail ++ x.posters.take 1, posters := x.posters.drop 1 }))

/-! ## Fetch of bytes (R20, R293) -/

/-- What is known of the translation of a code address of the core (R242). -/
def fetchLook (s : State) (va : Nat) : Look :=
  let c := s.me
  match (c.cache.ctlb ++ (s.quad s.myQuad).l2tlb).find? (fun l => l.hits c.regs.id.tag va && kindOk l.entry 3) with
  | some l => .leaf l
  | none =>
    match c.cache.walkF.find? (fun x => x.is va 3) with
    | some x =>
      (match x.res with
       | some (.leaf l) => .leaf l
       | some (.trap t) => .trap t
       | some (.park e) => .park e
       | none => .wait)
    | none => .wait

def askFetch (va : Nat) (s : State) : State :=
  s.modMe (fun c =>
    if c.cache.walkF.any (fun x => x.is va 3) then c
    else { c with cache := { c.cache with walkF := c.cache.walkF ++ [⟨BitVec.ofNat 64 va, 3, none, (s.quad s.myQuad).cycle⟩] } })

/-- The walk of the page of va has been used. -/
def dropFetch (va : Nat) (s : State) : State :=
  s.modMe (fun c => { c with cache := { c.cache with walkF := c.cache.walkF.filter (fun x => !x.is va 3) } })

/-- No fetch waits for a walk any more. -/
def endFetch (s : State) : State := s.modMe (fun c => { c with cache := { c.cache with walkF := [] } })

/-- The line of physical address pa fetched for address va: held, or read from memory, or from the reply of another module, and held;
none where it is poisoned. -/
def fetchLine (va pa : Nat) (farLine : Option Flit) (s : State) : Option (BitVec 1024) × State :=
  let c := s.me
  let tag := c.regs.id.tag
  match c.cache.icache.find? (fun i => i.tag = tag && i.vline = va / 128 && i.pline = pa / 128) with
  | some i => (some i.data, s)
  | none =>
    if poisoned s pa then (none, s)
    else
      let d := match farLine with
        | some f => Config.flitData f
        | none => BitVec.ofNat 1024 (memRead s tag (pa / 128 * 128) 128)
      let s1 := s.modMe (fun c => { c with cache := { c.cache with
        icache := cacheIn 512 (victim s) ⟨tag, va / 128, pa / 128, d⟩ c.cache.icache } })
      (some d, { s1 with fresh := s1.fresh + 2 ^ 52 })

/-- A fault of a fetch: cause, TADDR and the reason of a PAGE_REJECT. -/
structure FetchBad where
  cause : Nat
  taddr : Word
  why   : Nat
  deriving DecidableEq, Repr

/-- What a fetch of n bytes at va gives. -/
inductive Fetched where
  | ok (v : Nat)
  | wait
  | bad (f : FetchBad)
  deriving DecidableEq, Repr

/-- What a fetch of a line on another module comes to: it waits for the reply, is refused, or goes on, with the reply if any. -/
inductive FarFetch where
  | wait | refused
  | go (f : Option Flit)
  deriving DecidableEq, Repr

/-- The request of a fetch for a line on another module that the core does not hold, and its reply; one that is lost is consumed by
the context (R368, R370). -/
def fetchFar (va pa : Nat) (s : State) : FarFetch × State :=
  let n := s.cur.toNat
  let tag := s.regs.id.tag
  let w := PodWho.fetch n (pa / 128)
  if (podOf s pa).isNone || s.me.cache.icache.any (fun i => i.tag = tag && i.vline = va / 128 && i.pline = pa / 128) then (.go none, s)
  else match s.podreqs.find? (fun r => r.who = w) with
    | some r =>
      (match r.ans with
       | some f => (if Config.flitRefused f then .refused else .go (some f), { s with podreqs := s.podreqs.filter (fun x => x.who ≠ w) })
       | none => (.wait, s))
    | none => (.wait, (podAsk w tag 0 (pa / 128 * 128) s).getD (condemn tag s))

/-- Fetch n bytes that lie in one line. -/
def fetchBytes (va n : Nat) (s : State) : Fetched × State :=
  match fetchLook s va with
  | .wait => (.wait, askFetch va s)
  | .park _ => (.wait, s)
  | .trap c => (.bad ⟨c, BitVec.ofNat 64 va, 0⟩, dropFetch va s)
  | .leaf l =>
    let pa := l.pa va
    if reservedPa s pa then (.bad ⟨cBAD_PA, BitVec.ofNat 64 pa, 0⟩, dropFetch va s)
    else if !accessOk s s.regs.id.tag 0 2 pa then (.bad ⟨cXLAT_PERM, BitVec.ofNat 64 va, 0⟩, dropFetch va s)
    else match fetchFar va pa s with
      | (.wait, s1) => (.wait, s1)
      | (.refused, s1) => (.bad ⟨cXLAT_PERM, BitVec.ofNat 64 va, 0⟩, dropFetch va s1)
      | (.go f, s1) =>
        (match fetchLine va pa f s1 with
         | (none, s2) => (.wait, condemn s.regs.id.tag s2)
         | (some d, s2) => (.ok (field d (8 * (va % 128)) (8 * n)), dropFetch va s2))

/-! ## The header (R282) -/

/-- What the page-entry table says of a header. -/
inductive Entry where
  | runs
  | reject (why : Nat)
  | claim
  deriving DecidableEq, Repr

def entryOf (h : Nat) : Entry :=
  if hMagic h ≠ 0x5043 then .reject 1
  else if hTag h = 0x51 && !hRej h then .runs
  else if hRej h then .reject (hWhy h)
  else if hTrl h && hTag h ≠ 0x51 then .reject 9
  else if hTag h ≠ 0x31 && hTag h ≠ 0x41 then .reject 8
  else .claim

def rejectPage (va why : Nat) : FetchBad := ⟨cPAGE_REJECT, BitVec.ofNat 64 va, why⟩

/-- The core parks its fetch of va on an entry. -/
def parkFetch (va e : Nat) (s : State) : State :=
  (dropFetch va s).modMe (fun c => { c with cache := { c.cache with
    walkF := c.cache.walkF ++ [⟨BitVec.ofNat 64 va, 3, some (.park e), (s.quad s.myQuad).cycle⟩] } })

/-- The claim of a foreign page (R283): a fresh walk, the swap of the leaf for its rescheduling entry, the job, and the park. -/
def claimPage (va : Nat) (s : State) : Fetched × State :=
  let n := s.cur.toNat
  let tag := s.regs.id.tag
  let s0 := dropFetch va (dropLeaf n tag va s)
  let out := walkRoot s0 tag va
  match walkDone n true va 3 out (noteWalk n (s0.cycleOf n) s0) with
  | (none, s1) => (.wait, s1)
  | (some (.trap c), s1) => (.bad ⟨c, BitVec.ofNat 64 va, 0⟩, s1)
  | (some (.park e), s1) => (.wait, parkFetch va e s1)
  | (some (.leaf _), s2) =>
    let s1 := dropLeaf n tag va s2
    if out.lvl ≠ 5 || bitsN out.bits 6 1 = 1 then (.bad (rejectPage va 3), s1)
    else
      let new := out.bits / 4096 * 4096 + 0xB24
      let s2 := memWrite tag (bytesOf new 8 (fun i => out.ent + i)) s1
      (.wait, parkFetch va out.ent
        { s2 with jobs := s2.jobs ++ [⟨n / 64, tag, va / 4096, out.ent, BitVec.ofNat 64 out.bits, false⟩] })

/-- Read and act on the header of the page at va. -/
def readHeader (va : Nat) (s : State) : Fetched × State :=
  match fetchBytes va 64 s with
  | (.ok h, s1) =>
    (match entryOf h with
     | .runs => (.ok h, s1)
     | .reject w => (.bad (rejectPage va w), s1)
     | .claim => claimPage va s1)
  | x => x

/-! ## Landings (R279) -/

/-- What the search for a landing gives: the page it lies in with its header, or a wait or fault. -/
inductive Located where
  | ok (page h : Nat)
  | wait
  | bad (f : FetchBad)
  deriving DecidableEq, Repr

/-- Follow the coupling chain, at most f trailers, to the trailer whose pos is tn. -/
def followChain (ptr : Word) (tn : Nat) : Nat → Nat → State → Located × State
  | 0, _, s => (.bad ⟨cBAD_LANDING, ptr, 0⟩, s)
  | f + 1, h, s =>
    match hCpl h with
    | none => (.bad ⟨cBAD_LANDING, ptr, 0⟩, s)
    | some pg =>
      match readHeader (pg * 4096) s with
      | (.ok g, s1) => if hPos g = tn then (.ok pg g, s1) else followChain ptr tn f g s1
      | (.wait, s1) => (.wait, s1)
      | (.bad x, s1) => (.bad x, s1)

/-- The page of landing n of the head page with header h. -/
def locate (ptr : Word) (page h n : Nat) (s : State) : Located × State :=
  if hNland h ≤ n then (.bad ⟨cBAD_LANDING, ptr, 0⟩, s)
  else
    let tn := landTn (landEntry (hTable h) n)
    if tn = 0 then (.ok page h, s) else followChain ptr tn 15 h s

def spanOf (head h page g : Nat) : Span where
  head := head
  otag := BitVec.ofNat 8 (hOtag h)
  rw := hRw h
  nland := hNland h
  table := hTable h
  page := page
  pos := if page = head then 0 else hPos g
  count := hCount g
  cpl := hCpl g

/-! ## Page entry (R90, R281, R282) -/

/-- No result of the core is in flight. -/
def landed (s : State) : Bool :=
  let p := s.pipe
  p.flight.isEmpty && p.ldq.all (fun e => match e.fixed with | some d => d < p.count | none => true) &&
  (s.me.outrider || (!(s.quad s.myQuad).array.flight.any (fun f => f.core = s.myPart) &&
    !(s.quad s.myQuad).array.drains.any (fun d => d.core = s.myPart)))

/-- The core has settled: every slot has issued and no result is in flight (R90). -/
def settled (s : State) : Bool :=
  let p := s.pipe
  p.bq.isEmpty && p.gap = 0 && p.bn ≤ p.wn && p.bn ≤ p.fn && p.after.isNone && p.stop.isNone && landed s

/-- The settle of a call ends: the return pointer is written (R92). -/
def writeLink (s : State) : State :=
  match s.pipe.link with
  | some v => s.modPipe (fun p => { p with s := vset p.s 7 v, link := none })
  | none => s

/-- The reason of a PAGE_REJECT that is taken shows in GENTAG (R287, R294). -/
def noteWhy (f : FetchBad) (s : State) : State :=
  if f.cause = cPAGE_REJECT then s.modRegs (fun r => { r with id := { r.id with why := BitVec.ofNat 4 f.why } }) else s

/-- A fault of a fetch is taken (R263). -/
def takeFetch (f : FetchBad) (bundle : Word) (s : State) : State := takeTrap (noteWhy f s) f.cause f.taddr 0 bundle false true

/-- A fault of a fetch that has run ahead of issue waits for the aligned point. -/
def stopFetch (f : FetchBad) (bundle : Word) (s : State) : State :=
  s.modPipe (fun p => { p with stop := some ⟨f.cause, f.taddr, 0, bundle, true, f.why⟩ })

/-- Enter the landing of a transfer's target. -/
def enterLanding (ptr : Word) (s : State) : State :=
  let page := bitsN ptr.toNat 12 48
  let n := bitsN ptr.toNat 0 12
  match readHeader (page * 4096) s with
  | (.wait, s1) => s1
  | (.bad f, s1) => takeFetch f s.pipe.tbun s1
  | (.ok h, s1) =>
    match locate ptr page h n s1 with
    | (.wait, s2) => s2
    | (.bad f, s2) => takeFetch f s.pipe.tbun s2
    | (.ok pg g, s2) =>
      (endFetch s2).modPipe (fun p =>
        { p with
          span := spanOf page h pg g
          pc := BitVec.ofNat 64 (pg * 4096 + 32 * landBi (landEntry (hTable h) n))
          target := none
          gap := 0
          land := true })

/-- Enter a coupled trailer, or a bundle at which a task goes on: the bundles run on without a settle. -/
def enterTrailer (ptr : Word) (s : State) : State :=
  let page := ptr.toNat / 4096
  let at' := if ptr.toNat % 4096 = 0 then firstBundle page else ptr
  match readHeader (page * 4096) s with
  | (.wait, s1) => s1
  | (.bad f, s1) => stopFetch f at' s1
  | (.ok h, s1) =>
    s1.modPipe (fun p =>
      { p with
        span := { p.span with page := page, pos := hPos h, count := hCount h, cpl := hCpl h }
        pc := at'
        target := none })

/-- The fetch of a page's first bundle. -/
def enterPage (s : State) : State :=
  match s.pipe.target with
  | none => s
  | some t =>
    if t.couple then (if s.pipe.stop.isSome then s else enterTrailer t.ptr s)
    else if !settled s then s
    else if bitsN t.ptr.toNat 60 4 ≠ 0 then takeFetch ⟨cBAD_TARGET, t.ptr, 0⟩ s.pipe.tbun (writeLink s)
    else enterLanding t.ptr (writeLink s)

/-! ## The end of a fault routine (R268) -/

/-- The target of a redirection: a fault of it is one of the `resume` itself. -/
def redirLook (s : State) : Located × State :=
  let ptr := s.regs.trap.ttarget
  let page := bitsN ptr.toNat 12 48
  if bitsN ptr.toNat 60 4 ≠ 0 then (.bad ⟨cBAD_TARGET, ptr, 0⟩, s)
  else match readHeader (page * 4096) s with
    | (.wait, s1) => (.wait, s1)
    | (.bad f, s1) => (.bad f, s1)
    | (.ok h, s1) => locate ptr page h (bitsN ptr.toNat 0 12) s1

/-- `resume`: once every access of the outrider is performed, and with them those that W has not issued, the task goes on; a
redirection first finds its target. -/
def tryResume (s : State) : State :=
  if !s.pipe.quiet || !(s.pipe.bn ≤ s.pipe.wn) then s.holdNow
  else if s.regs.trap.tstatus.getLsbD 3 then
    match redirLook s with
    | (.ok _ _, s1) => endFetch (resumeTask s1)
    | (.wait, s1) => s1.holdNow
    | (.bad f, s1) => outriderFault (noteWhy f s1) f.cause f.taddr
  else resumeTask s

def execCResume (s : State) : Outcome State Fault Refusal := .next (privileged s tryResume)

/-- The core runs a task and its clock is not held for the debug core. -/
def Core.live (c : Core) : Bool :=
  (c.regs.run = .running || c.regs.run = .ending false || c.regs.run = .ending true) && !c.halt.halted

/-- The pipelines that issue run: a task's, or a running outrider's. -/
def Core.issues (c : Core) : Bool := c.live && (c.regs.out = .off || c.regs.out = .running)

def execPageEntry (n : CoreId) (s : State) : Outcome State Fault Refusal :=
  .next (if (s.core n.toNat).issues then atCore n.toNat enterPage s else s)

/-! ## Dispatch (R10, R79, R281) -/

/-- A bundle position of the page being run is a landing of the span. -/
def isLanding (x : Span) (bi : Nat) : Bool :=
  (List.range x.nland).any (fun n => let e := landEntry x.table n; landBi e = bi && landTn e = x.pos)

/-! ## Faults found at decode (R54, R79, R267) -/

/-- The instruction at a position of a bundle. -/
def Bundle.instr (b : Bundle) (p : Pos) : Option Instr :=
  match decodeSyl p (b.syl p) with
  | .ok i => some i
  | _ => none

/-- A latch selector of S, or of W (R57). -/
def latchS (x : Nat) : Bool := 40 ≤ x && x < 44
def latchW (x : Nat) : Bool := 40 ≤ x && x < 48

/-- The source selectors of an S syllable. -/
def selsOfS (u : BitVec 32) : List Nat :=
  let op := field u 25 7
  if op = 0x23 ∨ op = 0x24 then []
  else if op ∈ [0x03, 0x0C, 0x0D, 0x0E, 0x12, 0x13, 0x14, 0x16, 0x18, 0x1A, 0x22, 0x26, 0x2A, 0x2B, 0x2C] then [field u 0 6]
  else [field u 12 6, field u 6 6]

/-- The opcode is one of those the outrider may issue, whatever its type (R267). -/
def outriderOp (p : Pos) (u : BitVec 32) : Bool :=
  let op := field u 25 7
  match p with
  | .S => true
  | .C => field u 25 6 ∈ [0x00, 0x01, 0x02, 0x03, 0x04, 0x05, 0x06, 0x07, 0x08, 0x09, 0x12, 0x13, 0x14, 0x1B]
  | .L => op ∈ [0x00, 0x08, 0x0C, 0x17, 0x1C]
  | .W => op ∈ [0x00, 0x07, 0x0B, 0x0E, 0x0F, 0x10, 0x11, 0x12, 0x13, 0x14, 0x15]
  | _ => u = 0

/-- The syllable names no latch, as source or target (R267). -/
def outriderSels (p : Pos) (u : BitVec 32) : Bool :=
  let op := field u 25 7
  match p with
  | .S => field u 24 1 = 0 && (selsOfS u).all (fun x => !latchS x)
  | .W => (if op = 0x07 then [18, 12, 6] else if op = 0 || op = 0x14 || op = 0x15 then [] else [12, 6]).all
      (fun lo => !latchW (field u lo 6))
  | _ => true

/-- What the outrider may issue (R267). -/
def outriderMay (p : Pos) (u : BitVec 32) : Bool := outriderOp p u && outriderSels p u

/-- The fault that decoding a syllable finds; `o` says that the outrider issues it. What R267 forbids is ILLEGAL_OP whatever else
is wrong with the syllable (R80). -/
def decodeFault (o : Bool) (p : Pos) (u : BitVec 32) : Option Nat :=
  match decodeSyl p u with
  | .illegalOp => some cILLEGAL_OP
  | .illegalCombo => some (if o && !outriderMay p u then cILLEGAL_OP else cILLEGAL_COMBO)
  | .ok _ => if o && !outriderMay p u then some cILLEGAL_OP else none

/-- A bundle with such a fault is the last of the queue: nothing further is dispatched (R79). -/
def badDecode (s : State) : Bool :=
  match s.pipe.bq.getLast? with
  | some b => posList.any (fun p => (decodeFault s.me.outrider p (b.syl p)).isSome)
  | none => false

/-- Fetch and dispatch the next bundle; past the last stored bundle the coupling is followed, or ILLEGAL_OP waits. -/
def dispatchBundle (s : State) : State :=
  let p := s.pipe
  if p.target.isSome || p.stop.isSome || !p.room || badDecode s || (!s.me.outrider && s.regs.run ≠ .running) then s
  else
    let bi := (p.pc.toNat - 4096 * p.span.page) / 32
    if p.span.count + 1 < bi then
      match p.span.cpl with
      | some pg => s.modPipe (fun p => { p with target := some ⟨BitVec.ofNat 64 (pg * 4096), true⟩ })
      | none => s.modPipe (fun p => { p with stop := some ⟨cILLEGAL_OP, 0, 0, p.pc, false, 0⟩ })
    else
      match fetchBytes p.pc.toNat 32 s with
      | (.wait, s1) => s1
      | (.bad f, s1) => stopFetch f p.pc s1
      | (.ok v, s1) =>
        let next := match p.span.cpl with
          | some pg => if bi = p.span.count + 1 then firstBundle pg else p.pc + 32
          | none => p.pc + 32
        s1.modPipe (fun p =>
          { p.dispatch ⟨p.pc, BitVec.ofNat 256 v, p.land || isLanding p.span bi, next⟩ with pc := p.pc + 32, land := false })

def execBundleDispatch (n : CoreId) (s : State) : Outcome State Fault Refusal :=
  .next (if (s.core n.toNat).issues then atCore n.toNat dispatchBundle s else s)

end Sys2Proof.Machine
end

