-- ==== Sys2Proof/Machine/Nodes.lean ====
section
/-! DEFINITION. Launches, the choice of a variant, gang reserve, and commit (R221, R225, R262, R272, R322 to R326, R330 to
R335, R337). -/

namespace Sys2Proof.Machine

open Host (Outcome)

/-! ## Reads of a run -/

/-- The first of some ranges that a dispatcher cannot reach: the address at which it cannot, and what it meets there (R249, R311). -/
def dispFirst (s : State) (q d tag kind : Nat) : List (Nat × Nat) → Option (Nat × ULook)
  | [] => none
  | (va, n) :: r =>
    if n = 0 then dispFirst s q d tag kind r
    else match dispTry s q d tag kind va n with
      | .ok _ => dispFirst s q d tag kind r
      | x => some (dispAt s d tag kind va n, x)

def dispEnterAll (d tag kind : Nat) (rs : List (Nat × Nat)) (s : State) : State :=
  rs.foldl (fun s r => if r.2 = 0 then s else dispEnter d tag kind r.1 r.2 s) s

/-! ## Variants (R225, R324) -/

structure Variant where
  ksym   : Nat
  gen    : Nat
  npin   : Nat
  budget : Nat
  sig    : Nat
  mask   : Nat
  entry  : Nat
  cycles : Nat
  pinoff : Nat
  deriving DecidableEq, Repr

/-- The variant record at va. -/
def readVariant (s : State) (q d tag va : Nat) : Variant :=
  let w := fun k => dispRead s q d tag (va + 8 * k) 8
  ⟨bitsN (w 0) 0 32, bitsN (w 0) 32 8, bitsN (w 0) 48 16, w 1, bitsN (w 2) 0 32, bitsN (w 2) 32 32, w 3, w 4, w 5⟩

/-- The pin records of a variant, as many as it says and wherever it says they lie (log entry 142). -/
def readPins (s : State) (q d tag ksec : Nat) (v : Variant) : List Pin :=
  (List.range v.npin).map (fun i =>
    let a := ksec + v.pinoff + 16 * i
    let w := dispRead s q d tag a 8
    let x := dispRead s q d tag (a + 8) 8
    ⟨bitsN w 0 32, bitsN w 32 21, bitsN x 0 22, bitsN x 32 1 = 1, bitsN x 33 1 = 1⟩)

/-- The launch record's fields that a node and the filters use (R322). -/
structure LaunchRec where
  w : Nat → Nat

def LaunchRec.ksec (r : LaunchRec) : Nat := bitsN (r.w 0) 0 60
def LaunchRec.ksym (r : LaunchRec) : Nat := bitsN (r.w 1) 0 32
def LaunchRec.nvar (r : LaunchRec) : Nat := bitsN (r.w 1) 32 16
def LaunchRec.phase (r : LaunchRec) : Bool := bitsN (r.w 1) 48 1 = 1
def LaunchRec.q0 (r : LaunchRec) : Nat := bitsN (r.w 2) 0 9
def LaunchRec.nq (r : LaunchRec) : Nat := bitsN (r.w 2) 9 10
def LaunchRec.cmask (r : LaunchRec) : Nat := bitsN (r.w 2) 19 4
def LaunchRec.gx (r : LaunchRec) : Nat := bitsN (r.w 3) 0 16
def LaunchRec.gy (r : LaunchRec) : Nat := bitsN (r.w 3) 16 16
def LaunchRec.gz (r : LaunchRec) : Nat := bitsN (r.w 3) 32 16
def LaunchRec.args (r : LaunchRec) : Nat := bitsN (r.w 4) 0 60
def LaunchRec.fin (r : LaunchRec) : Nat := bitsN (r.w 5) 0 60

/-- Code 0x07: a reserved bit, an unaligned address, or a zero count or range (R322). -/
def LaunchRec.malformed (r : LaunchRec) : Bool :=
  bitsN (r.w 0) 60 4 ≠ 0 || r.ksec % 64 ≠ 0 || bitsN (r.w 1) 49 15 ≠ 0 || bitsN (r.w 2) 23 41 ≠ 0 || bitsN (r.w 3) 48 16 ≠ 0 ||
  bitsN (r.w 4) 60 4 ≠ 0 || r.args % 8 ≠ 0 || bitsN (r.w 5) 60 4 ≠ 0 || r.fin % 8 ≠ 0 || r.w 6 ≠ 0 || r.w 7 ≠ 0 ||
  r.nvar = 0 || r.nq = 0 || r.gx = 0 || r.gy = 0 || r.gz = 0

/-- The quads of the partition, and the cores that cmask names. -/
def LaunchRec.quads (r : LaunchRec) : List Nat := (List.range r.nq).map (fun i => r.q0 + i)
def namedIn (cmask q : Nat) : List Nat := (List.range 4).filterMap (fun c => if cmask.testBit c then some (4 * q + c) else none)
def LaunchRec.named (r : LaunchRec) : List Nat := (r.quads.map (namedIn r.cmask)).flatten

def usableCore (s : State) (n : Nat) : Bool := !s.flash.badCores.contains n

/-- The cores of the group in ascending order (R331). -/
def LaunchRec.cores (s : State) (r : LaunchRec) : List Nat := r.named.filter (usableCore s)

/-- Filter 0x06. -/
def partitionUsable (s : State) (r : LaunchRec) : Bool :=
  r.quads.all (fun q => !s.flash.badQuads.contains q && (namedIn r.cmask q).any (usableCore s))

/-- Filter 0x05: every pin lies at or above PINBASE of every core named. -/
def pinsAbove (s : State) (cores : List Nat) (ps : List Pin) : Bool :=
  cores.all (fun n => ps.all (fun p => (s.core n).pinbase.toNat ≤ p.off))

def keepSize (ps : List Pin) : Nat := ((ps.filter (fun p => p.keep)).map (fun p => p.size)).foldl (· + ·) 0

/-- Filter 0x0A: the save area holds its fixed part, the candidate's kept pins on every core of the group, and the kept pins placed
that the candidate does not declare again (R272). -/
def saveFits (s : State) (tag : Nat) (cores : List Nat) (ps : List Pin) : Bool :=
  let c := s.ctx tag
  let old := s.pins.filter (fun x =>
    x.tag = tag && x.pin.keep && !(cores.contains x.core && ps.any (fun p => p.id = x.pin.id)))
  4096 + 3 * 2 ^ 20 * c.maxsusp + keepSize ps * cores.length + ((old.map (fun x => x.pin.size)).foldl (· + ·) 0) ≤ c.ssize

/-- The filters that need no pin record, with their codes, in order. -/
def plainFilters (s : State) (tag : Nat) (r : LaunchRec) : List (Nat × (Variant → Bool)) :=
  let b := (s.ctx tag).budget
  [(1, fun v => v.ksym = r.ksym),
   (2, fun v => v.gen = 0x51 || v.gen = 0x41 || v.gen = 0x31),
   (9, fun v => 1 ≤ v.cycles && v.cycles < 2 ^ 48),
   (3, fun v => b = 0 || v.budget ≤ b),
   (4, fun v => (v.sig ^^^ s.flash.defsig.toNat) &&& v.mask = 0)]

/-- The filters on a candidate's pins. -/
def pinFilters (s : State) (tag : Nat) (r : LaunchRec) : List (Nat × (Variant × List Pin → Bool)) :=
  [(5, fun v => pinsAbove s r.named v.2),
   (6, fun _ => partitionUsable s r),
   (10, fun v => saveFits s tag (r.cores s) v.2)]

/-- Apply filters in order: what is left, or the code of the first filter that leaves nothing. -/
def runFilters {α : Type} : List (Nat × (α → Bool)) → List α → Nat ⊕ List α
  | [], l => .inr l
  | (c, f) :: r, l => if (l.filter f).isEmpty then .inl c else runFilters r (l.filter f)

/-- The candidate a dispatcher prefers: the highest generation, then the largest budget, then the lowest index. -/
def preferred : List (Variant × List Pin) → Option (Variant × List Pin)
  | l => firstBy (fun a b => b.1.gen < a.1.gen || (a.1.gen = b.1.gen && b.1.budget < a.1.budget)) l

/-- What a launch comes to. -/
inductive Launch where
  | ok (node : Variant × List Pin)
  | stop (va : Nat) (x : ULook)
  | refuse (code : Nat)

/-- Choose the variant of a launch record (R324). -/
def chooseVariant (s : State) (q d tag : Nat) (r : LaunchRec) : Launch :=
  match dispFirst s q d tag 0 [(r.ksec, 64 * r.nvar), (r.args, 64)] with
  | some (va, x) => .stop va x
  | none =>
    match runFilters (plainFilters s tag r) ((List.range r.nvar).map (fun i => readVariant s q d tag (r.ksec + 64 * i))) with
    | .inl c => .refuse c
    | .inr l =>
      match dispFirst s q d tag 0 (l.map (fun v => (r.ksec + v.pinoff, 16 * v.npin))) with
      | some (va, x) => .stop va x
      | none =>
        match runFilters (pinFilters s tag r) (l.map (fun v => (v, readPins s q d tag r.ksec v))) with
        | .inl c => .refuse c
        | .inr l => match preferred l with
          | some v => .ok v
          | none => .refuse 1

/-- The budget in force follows the requested one at a phase launch (R325). -/
def takeBudget (tag : Nat) (s : State) : State := s.setCtx tag { s.ctx tag with budget := (fget 0 s.ctxbud tag).toNat }

/-- The node of a launch that was not refused, reserving, with its handle (R323, R330). -/
def addNode (q pk : Nat) (r : LaunchRec) (v : Variant × List Pin) (s : State) : Nat × State :=
  let x := s.queue q
  let d := x.home
  let h := (s.disp d).launches.toNat + d * 2 ^ 32
  let n : Node :=
    { Node.reset with
      st := .reserving
      tag := x.tag
      die := d
      queue := q
      packet := pk
      band := x.lband
      dl := x.ldl
      cores := r.cores s
      gx := r.gx
      gy := r.gy
      gz := r.gz
      args := BitVec.ofNat 64 r.args
      fin := r.fin
      entry := BitVec.ofNat 64 v.1.entry
      cycles := v.1.cycles
      pins := v.2
      rung := x.rung }
  (h, { s.modDisp d (fun y => { y with launches := y.launches + 1 }) with nodes := fset s.nodes h n })

/-- A launch of packet pk of queue q with the record r: the handle, or what stops or refuses it. -/
def launch (q pk : Nat) (r : LaunchRec) (s : State) : (Nat ⊕ Launch) × State :=
  let x := s.queue q
  if r.malformed then (.inr (.refuse 7), s)
  else if 512 < r.q0 + r.nq then (.inr (.refuse 8), s)
  else
    let s1 := if r.phase then takeBudget x.tag s else s
    match chooseVariant s1 q x.home x.tag r with
    | .ok v =>
      let (h, s2) := addNode q pk r v (dispEnterAll x.home x.tag 0 [(r.ksec, 64 * r.nvar), (r.args, 64)] s1)
      (.inl h, s2)
    | y => (.inr y, s1)

/-! ## Suspension (R272) -/

/-- The table entry that a parked core holds on: that of the fetch where no bundle is left, of the load at the head of the load
data queue, of the access that L or W is issuing, else of the oldest parked access (R247, R273). -/
def parkedOn (c : Core) : Option Nat :=
  let p := c.regs.task
  let walk := fun (l : List Walk) => l.findSome? (fun x => match x.res with | some (.park e) => some e | _ => none)
  let head := match p.ldq with
    | e :: _ => (p.lq.find? (fun (r : Req LdOp) => r.entry = some e.id && r.park.isSome)).bind (fun r => r.park)
    | [] => none
  (if p.bq.isEmpty && p.gap = 0 then walk c.cache.walkF else none).or (head.or ((walk c.cache.walkL).or ((walk c.cache.walkW).or
    ((p.lq.findSome? (fun r => r.park)).or ((p.sq.findSome? (fun r => r.park)).or (walk c.cache.walkF))))))

/-- Suspended tasks of a context. -/
def suspCount (s : State) (tag : Nat) : Nat :=
  (s.cores.map (fun c => (c.2.susp.filter (fun x => x.image.id.tag = tag)).length)).foldl (· + ·) 0

/-- A parked task that does not hold the array may be suspended while its context's count allows. -/
def maySuspend (s : State) (n : Nat) : Bool :=
  let c := s.core n
  (c.live || c.regs.run = .starting) && c.regs.out = .off && c.regs.lim.parkFrom.isSome && (parkedOn c).isSome &&
    !holdsArray c && suspCount s c.regs.id.tag < (s.ctx c.regs.id.tag).maxsusp

/-- An access not performed is sent again, with a new walk, when its task is restored (R245, R273). -/
def Req.resend {α : Type} (r : Req α) : Req α :=
  if r.todo.isEmpty || r.units.isEmpty then r else { r with again := true }

def Pipe.resend (p : Pipe) : Pipe :=
  { p with lq := p.lq.map (fun r => if r.op = .lds then r else r.resend), sq := p.sq.map Req.resend }

/-- Move a task's state out of its core, with its drains in flight; a request for the array is withdrawn until the task is
restored. -/
def suspendTask (n : Nat) (s : State) : State :=
  let mine := (s.quad (n / 4)).array.drains.filter (fun d => d.core = n % 4)
  let id := (s.core n).regs.id
  ((s.mapPods (fun w => w.suspend n id.node id.tile.toNat)).modQuad (n / 4) (fun q =>
    { q with array := { q.array with drains := q.array.drains.filter (fun d => d.core ≠ n % 4) } })).modCore n
    (fun c =>
      { c with
        susp := c.susp ++ [⟨{ c.regs with task := c.regs.task.resend, outr := c.regs.outr.resend }, c.fold, c.watch, c.mail, c.refuse,
          c.refCode, mine, none, (parkedOn c).getD 0, false, false⟩]
        regs := CoreRegs.reset
        fold := FoldCore.reset
        watch := Watch.reset
        mail := c.mail.map (fun m => { m with full := false })
        refuse := 0
        refCode := 0
        cache := { c.cache with l1 := dropComing c.cache.l1, walkL := [], walkW := [], walkF := [] } })

/-! ## Pins (R262) -/

/-- The context's pin of an identifier on a core, in place or saved. -/
def ownPin (s : State) (tag n id : Nat) : Option Placed := s.pins.find? (fun x => x.tag = tag && x.core = n && x.pin.id = id)

def Pin.meets (p q : Pin) : Bool := p.off < q.off + q.size && q.off < p.off + p.size

/-- The pins in place that the placing of p on core n displaces. -/
def displaced (s : State) (tag n : Nat) (p : Pin) : List Placed :=
  match ownPin s tag n p.id with
  | some x => if x.saved.isNone then [] else s.pins.filter (fun y => y.core = n && y.saved.isNone && p.meets y.pin)
  | none => s.pins.filter (fun y => y.core = n && y.saved.isNone && p.meets y.pin)

/-- A pin may be displaced at a node boundary: no node under way on its core declares it (R262, R330). -/
def mayDisplace (s : State) (x : Placed) : Bool :=
  !s.nodes.any (fun e => e.2.tag = x.tag && (e.2.st = .committed || e.2.st = .running) && e.2.cores.contains x.core &&
    e.2.pins.any (fun p => p.id = x.pin.id))

def displacedBy (s : State) (x : Node) (cores : List Nat) : List Placed :=
  ((cores.map (fun n => (x.pins.map (displaced s x.tag n)).flatten)).flatten).eraseDups

/-- Free contents of a created pin (R262, R3). -/
def freeBytes (a n : Nat) (s : State) : State :=
  { s with
    mem := (List.range n).foldl (fun m i => Memory.put m (a + i) ((Config.freeVec (s.fresh + i)).setWidth 8)) s.mem
    fresh := s.fresh + n }

/-- Zero the bytes from a on. -/
def zeroBytes (a n : Nat) (s : State) : State := { s with mem := s.mem.filter (fun e => !(a ≤ e.1 && e.1 < a + n)) }

/-- Displace a pin; its context is saved if nothing of it is left in place. -/
def displacePin (x : Placed) (s : State) : State := settleCtx x.tag (displace x s)

/-- The bytes of a pin that lie in the scratchpad of core n. -/
def Pin.room (p : Pin) (n : Nat) : Nat := p.stop n - (padOf n + p.off)

/-- Place a pin on a core: used as it stands, restored, or created. -/
def placePin (tag n : Nat) (s : State) (p : Pin) : State :=
  let own := ownPin s tag n p.id
  let s1 := (displaced s tag n p).foldl (fun s x => displacePin x s) s
  match own with
  | some x =>
    (match x.saved with
     | none => s1
     | some l =>
       let s2 := zeroBytes (padOf n + p.off) (p.room n) s1
       { s2 with
         mem := (l.filter (fun e => e.1 < padOf n + x.pin.off + p.room n)).foldl
           (fun m e => Memory.put m (e.1 - x.pin.off + p.off) e.2) s2.mem
         pins := s2.pins.filter (fun y => y ≠ x) ++ [⟨tag, n, p, none⟩] })
  | none =>
    let s2 := if p.zero then zeroBytes (padOf n + p.off) (p.room n) s1 else freeBytes (padOf n + p.off) (p.room n) s1
    { s2 with pins := s2.pins ++ [⟨tag, n, p, none⟩] }

/-! ## Reserve (R333, R334) -/

/-- The order of the nodes of one dispatcher: R314's band, deadline and queue, then the launch count. -/
def nodeKey (e : Nat × Node) : Nat × Option Nat × Nat := (e.2.band, e.2.dl, e.2.queue * 2 ^ 32 + e.1 % 2 ^ 32)

/-- Node a is taken before node b: of different dispatchers the one of the lower die (R334; log entry 107). -/
def nodeBefore (a b : Nat × Node) : Bool :=
  a.2.die < b.2.die || (a.2.die = b.2.die && precedes (nodeKey a) (nodeKey b))

/-- The quads of a group in ascending order. -/
def Node.quads (x : Node) : List Nat := (x.cores.map (fun n => n / 4)).eraseDups

def Node.coresIn (x : Node) (q : Nat) : List Nat := x.cores.filter (fun n => n / 4 = q)

/-- The task on a core gives way to node h: it is parked and h precedes its node. -/
def givesWay (s : State) (h n : Nat) : Bool :=
  let g := (s.core n).regs.id.node
  maySuspend s n && nodeBefore (h, s.node h) (g, s.node g)

/-- A core can be claimed for node h. -/
def claimable (s : State) (h n : Nat) : Bool :=
  if (s.core n).regs.run = .idle then (claimOf s n).isNone
  else givesWay s h n && ((claimOf s n).isNone || claimOf s n = some (s.core n).regs.id.node)

/-- The tasks that a claim would suspend together stay within maxsusp of their contexts (R272). -/
def suspFits (s : State) (cores : List Nat) : Bool :=
  let busy := cores.filter (fun n => (s.core n).regs.run ≠ .idle)
  busy.all (fun n =>
    let tag := (s.core n).regs.id.tag
    suspCount s tag + (busy.filter (fun m => (s.core m).regs.id.tag = tag)).length ≤ (s.ctx tag).maxsusp)

/-- The quad where node h would overtake a node that precedes it and waits for gang reserve on one of its cores (R314). -/
def waitedFor (s : State) (h : Nat) : Option Nat :=
  let x := s.node h
  s.nodes.findSome? (fun e =>
    if e.1 ≠ h && e.2.st = .reserving && nodeBefore e (h, x) then
      (x.cores.find? (fun n => e.2.cores.contains n)).map (fun n => n / 4)
    else none)

/-- The claim on quad q succeeds. -/
def claimOk (s : State) (h q : Nat) : Bool :=
  let x := s.node h
  (x.coresIn q).all (claimable s h) && suspFits s (x.coresIn q) && (displacedBy s x (x.coresIn q)).all (mayDisplace s) && canReside s x.tag

def modNode (h : Nat) (f : Node → Node) (s : State) : State := { s with nodes := fset s.nodes h (f (s.node h)) }

/-- A node gives up its claims and waits until a claim or core of quad q is released. -/
def rollBack (h q : Nat) (s : State) : State :=
  modNode h (fun y => { y with claimed := [], waits := some q, retry := false }) (unclaimNode h s)

/-- The next claim of a reserving node, at the lowest quad not claimed yet. -/
def claimNext (h : Nat) (s : State) : State :=
  let x := s.node h
  if x.st ≠ .reserving || x.waits.isSome then s
  else match x.quads[x.claimed.length]? with
    | none => s
    | some q =>
      if let some w := waitedFor s h then rollBack h w s
      else if claimOk s h q then
        let s1 := ((x.coresIn q).filter (fun n => (s.core n).regs.run ≠ .idle)).foldl (fun s n => suspendTask n s) s
        let s2 := s1.modQuad q (fun y => { y with claims := (x.coresIn q).foldl (fun m n => fset m (n % 4) h) y.claims })
        modNode h (fun y => { y with claimed := y.claimed ++ [q] }) s2
      else rollBack h q s

def execQuadClaim (h : BitVec 37) (s : State) : Outcome State Fault Refusal := .next (claimNext h.toNat s)

/-- A rolled-back node tries again, in the order of R314 among those that may. -/
def retryNode (h : Nat) (s : State) : State :=
  let l := s.nodes.filter (fun e => e.2.st = .reserving && e.2.waits.isSome && e.2.retry)
  match firstBy nodeBefore l with
  | some e => if e.1 = h then modNode h (fun x => { x with waits := none, retry := false }) s else s
  | none => s

def execReserveRetry (h : BitVec 37) (s : State) : Outcome State Fault Refusal := .next (retryNode h.toNat s)

/-! ## Commit (R328, R331, R335, R337) -/

/-- The coordinate of tile t. -/
def tileOf (x : Node) (t : Nat) : BitVec 48 :=
  BitVec.ofNat 48 (t % x.gx + 2 ^ 16 * (t / x.gx % x.gy) + 2 ^ 32 * (t / (x.gx * x.gy)))

/-- Registers at the start of a task (R63 to R65, R95, R191, R267, R274, R328). -/
def startRegs (s : State) (h t : Nat) : CoreRegs :=
  let x := s.node h
  let c := s.ctx x.tag
  { CoreRegs.reset with
    task := { Pipe.reset with target := some ⟨x.entry, false⟩, tbun := landingAddr s x.tag x.entry }
    lim := { Limits.reset with
      wdLimit := BitVec.ofNat 48 x.cycles
      kok := c.kok
      parkLimit := BitVec.ofNat 20 (field c.park 0 20)
      parkWd := BitVec.ofNat 20 (field c.park 20 20) }
    id := ⟨x.tag, tileOf x t, BitVec.ofNat 48 (x.gx + 2 ^ 16 * x.gy + 2 ^ 32 * x.gz), h, 0, x.args, x.entry, 0⟩
    run := .starting }

/-- A start of tile t of node h is sent to core n. -/
def startOn (h n t : Nat) (s : State) : State :=
  let s1 := movePads n s
  let x := s1.node h
  s1.modCore n (fun c =>
    { c with
      regs := startRegs s1 h t
      fold := { FoldCore.reset with inj := (s1.ctx x.tag).inj }
      watch := Watch.reset
      cache := { c.cache with walkL := [], walkW := [], walkF := [] } })

/-- A context has a node under way on a quad. -/
def atWork (s : State) (tag q : Nat) : Bool :=
  s.nodes.any (fun e => e.2.tag = tag && (e.2.st = .committed || e.2.st = .running) && e.2.cores.any (fun n => n / 4 = q))

/-- The contexts that leave quad q to another one, with every command of theirs into it finished (R207, R262). -/
def quadClear (s : State) (tag q : Nat) : Bool :=
  ((s.chans.map (fun e => e.2.tag)).eraseDups).all (fun t => t = tag || atWork s t q || cmdsClear s t q)

/-- A node may commit: every quad is claimed and none is stopped for its heat (R30), no task runs on its cores, the commands of
the contexts that it displaces or pre-empts have finished there (R207, R262), and its context can be resident. -/
def mayCommit (s : State) (h : Nat) : Bool :=
  let x := s.node h
  let out := displacedBy s x x.cores
  x.st = .reserving && x.waits.isNone && x.claimed.length = x.quads.length && x.quads.all (fun q => !(s.quad q).hot) &&
    x.cores.all (fun n => (s.core n).regs.run = .idle) && canReside s x.tag && out.all (mayDisplace s) &&
    out.all (fun y => cmdsClear s y.tag (y.core / 4)) && x.quads.all (quadClear s x.tag)

/-- Commit: the context is resident, pins are placed, the first wave starts, and cores without a tile are released. -/
def commitNode (h : Nat) (s : State) : State :=
  let x := s.node h
  let s1 := x.cores.foldl (fun s n => x.pins.foldl (placePin x.tag n) s) (reside x.tag s)
  let first := if x.tasks < x.cores.length then x.tasks else x.cores.length
  let s2 := modNode h (fun y => { y with st := .committed, next := first, active := x.cores.take first }) s1
  let s3 := ((x.cores.take first).zipIdx).foldl (fun s e => startOn h e.1 e.2 s) s2
  (x.cores.drop first).foldl (fun s n => unclaim n s) s3

def execNodeCommit (h : BitVec 37) (s : State) : Outcome State Fault Refusal :=
  .next (if mayCommit s h.toNat then commitNode h.toNat s else s)

end Sys2Proof.Machine
end

