-- ==== Sys2Proof/Machine/DevRead.lean ====
section
/-! DEFINITION. Reads of the apertures and of the module control registers (R23, R24, R184, R245, R259, R286, R301, R304, R320,
R325, R343, R351, R363, R365, R367, R369, R375, R376, R378, R383, R388, R392). -/

namespace Sys2Proof.Machine

def linkCode (x : LinkSt) : Nat :=
  match x with
  | .down => 0 | .training => 1 | .up => 2 | .degraded => 3 | .retraining => 4 | .isolated => 5

/-- The record of a port (R363); iso reads as whether the port is isolated. -/
def linkWord (s : State) (p o : Nat) : Word :=
  let x := s.link p
  match o / 8 with
  | 0 => BitVec.ofNat 64 (b2n x.en + 2 * b2n (x.st = .isolated) + 4 * x.minw.toNat)
  | 1 => BitVec.ofNat 64 (linkCode x.st + 2 ^ 4 * (x.width % 16) + 2 ^ 8 * x.good.toNat + 2 ^ 16 * x.pmod.toNat +
      2 ^ 24 * x.pport.toNat + 2 ^ 30 * x.rtr.toNat)
  | 2 => BitVec.ofNat 64 (x.fec.toNat + 2 ^ 32 * x.rpl.toNat + 2 ^ 48 * x.lost.toNat)
  | _ => 0

def podWord (s : State) (w o : Nat) : Word :=
  let x := fget PodWin.reset s.podwin w
  if o = 0 then BitVec.ofNat 64 (b2n x.en + 2 * (x.sz % 32) + x.lbase % 2 ^ 52)
  else BitVec.ofNat 64 (x.mod % 256 + x.rbase % 2 ^ 52)

def routeWord (s : State) (m : Nat) : Word :=
  let x := fget Route.reset s.route m
  BitVec.ofNat 64 (x.dir.toNat + 2 ^ 36 * (x.via % 256) + 2 ^ 44 * b2n x.vv)

def poolWord (s : State) (t o : Nat) : Word :=
  let x := fget RsPool.reset s.rspool t
  if o = 0 then BitVec.ofNat 64 (b2n x.compact + x.base % 2 ^ 48 * 4096)
  else BitVec.ofNat 64 (x.npg.toNat + 2 ^ 16 * x.used.toNat)

/-- Bits of a core of a die, as a word. -/
def coreBits (d : Nat) (f : Nat → Bool) : Word := BitVec.ofNat 64 (ofBits ((List.range 64).map (fun c => f (64 * d + c))))

def traceWord (t : Trace) (o : Nat) : Word :=
  match (o - 0x100) / 8 with
  | 0 => BitVec.ofNat 64 (b2n t.armed + 2 * b2n t.wrap + 4 * t.state.toNat + 2 ^ 4 * t.start.toNat + 2 ^ 8 * t.stop.toNat +
      2 ^ 12 * t.tcore.toNat)
  | 1 => t.startV
  | 2 => t.stopV
  | 3 => t.buf.setWidth 64
  | 4 => t.size.setWidth 64
  | 5 => t.mask
  | 6 => t.per.setWidth 64
  | _ => t.idx

def monWord (m : Mon) (o : Nat) : Word :=
  if o = 0 then m.cfg.setWidth 64
  else if o = 8 then m.base.setWidth 64
  else if o = 0x10 then m.min.setWidth 64
  else if o = 0x18 then m.max.setWidth 64
  else if o = 0x20 then m.cnt
  else if 0x40 ≤ o ∧ o < 0x80 then
    BitVec.ofNat 64 ((vget m.bins ((o - 0x40) / 4) 0).toNat + 2 ^ 32 * (vget m.bins ((o - 0x40) / 4 + 1) 0).toNat)
  else 0

/-- A word of the debug window of die d (R383, R388, R392); a command has ended when its write has. -/
def dbgWord (s : State) (d o : Nat) : Word :=
  let x := s.dbgOf d
  if o = 0x00 then coreBits d (fun n => (s.core n).halt.req)
  else if o = 0x10 then coreBits d (fun n => (s.core n).halt.halted)
  else if o = 0x18 then x.sel.setWidth 64
  else if o = 0x20 then x.cmd.setWidth 64
  else if o = 0x28 then x.data0
  else if o = 0x30 then x.data1
  else if o = 0x38 then BitVec.ofNat 64 (x.cmderr.toNat + 16 * b2n x.brk)
  else if 0x100 ≤ o ∧ o < 0x140 then traceWord x.trace o
  else if 0x1000 ≤ o ∧ o < 0x3000 then monWord (fget Mon.reset x.mons ((o - 0x1000) / 128)) (o % 128)
  else 0

/-- The 32-bit word of an access table or the reserved target. -/
def accWord (s : State) (o : Nat) : Nat :=
  if o / 0x4000 < 7 then (fget 0 s.acctab (o / 0x4000 * 4096 + o % 0x4000 / 4)).toNat else 0

/-- The latest value written to a doorbell's tail field, held or not (R304). -/
def Queue.lastTail (x : Queue) : BitVec 32 := (x.latched.reverse.findSome? (fun e => e.2)).getD x.tail

/-- The word at offset o, a multiple of 8, of the module control registers. -/
def ctlWord (s : State) (o : Nat) : Word :=
  if o = 0x1000 then s.xshoot.w0
  else if o = 0x1008 then s.xshoot.read8
  else if o = 0x2000 then s.ctxcmd.w0
  else if o = 0x2008 then s.ctxcmd.read8
  else if o = 0x3000 then s.qcmd.w0
  else if o = 0x3008 then s.qcmd.read8
  else if 0x10000 ≤ o ∧ o < 0x20000 then poolWord s ((o - 0x10000) / 16) (o % 16)
  else if 0x20000 ≤ o ∧ o < 0x30000 then
    (if o % 16 = 0 then (s.queue ((o - 0x20000) / 16)).lastTail.setWidth 64 else 0)
  else if 0x30000 ≤ o ∧ o < 0x34000 then irqcoalRead s ((o - 0x30000) / 8)
  else if 0x40000 ≤ o ∧ o < 0x48000 then (fget 0 s.ctxbud ((o - 0x40000) / 8)).setWidth 64
  else if 0x50000 ≤ o ∧ o < 0x60000 then bportRead s ((o - 0x50000) / 8)
  else if 0x60000 ≤ o ∧ o < 0x60900 then linkWord s ((o - 0x60000) / 64) (o % 64)
  else if 0x70000 ≤ o ∧ o < 0x70400 then podWord s ((o - 0x70000) / 16) (o % 16)
  else if 0x80000 ≤ o ∧ o < 0x80800 then routeWord s ((o - 0x80000) / 8)
  else if o = 0x80800 then s.podmod.setWidth 64
  else if 0xC0000 ≤ o ∧ o < 0xE0000 then BitVec.ofNat 64 (accWord s (o - 0xC0000) + 2 ^ 32 * accWord s (o - 0xC0000 + 4))
  else if 0xE0000 ≤ o ∧ o < 0xE2000 then (fget 0 s.keyh ((o - 0xE0000) / 8)).setWidth 64
  else if 0xE2000 ≤ o ∧ o < 0xE2100 then (fget 0 s.repcfg ((o - 0xE2000) / 8)).setWidth 64
  else if 0x100000 ≤ o ∧ o < 0x385000 then barWord s ((o - 0x100000) / 64) (o % 64)
  else if 0x400000 ≤ o ∧ o < 0x600000 then dbgWord s ((o - 0x400000) / 0x10000) (o % 0x10000)
  else 0

/-- The word at an aligned address of an aperture. -/
def devWord (s : State) (pa : Nat) : Word :=
  if isEngine pa then chanRead s (chanOf pa) (pa % 0x10000)
  else if isArrive pa then portRead s ((pa - arrBase) / 8)
  else ctlWord s (pa - ctlBase)

/-- A byte of physical space as a reader with tag t sees it. -/
def busByte (s : State) (t pa : Nat) : Byte :=
  if isEngine pa || isArrive pa || isCtl pa then BitVec.ofNat 8 (field (devWord s (pa / 8 * 8)) (8 * (pa % 8)) 8)
  else memByte s s.fresh t pa

def busRead (s : State) (t pa n : Nat) : Nat := leNat ((List.range n).map (fun i => busByte s t (pa + i)))

end Sys2Proof.Machine
end

