-- ==== Sys2Proof/Machine/Pod.lean ====
section
/-! DEFINITION. Accesses of the cores to memory of other modules: a request flit, and its reply (R359, R366 to R368, R370, R371). -/

namespace Sys2Proof.Machine

/-- Send the request of a core's access; where it is lost, its context consumes that (R370). -/
def podSend (w : PodWho) (tag kind pa : Nat) (s : State) : State := (podAsk w tag kind pa s).getD (killCtx tag s)

/-- The reply to the request of a unit, which is then done with; where none has been sent, it is sent. -/
def podAccess (w : PodWho) (tag kind pa : Nat) (s : State) : Option Flit × State :=
  match s.podreqs.find? (fun r => r.who = w) with
  | some r =>
    (match r.ans with
     | some f => (some f, { s with podreqs := s.podreqs.filter (fun x => x.who ≠ w) })
     | none => (none, s))
  | none => (none, podSend w tag kind pa s)

/-- The core's own L1. -/
def State.modL1 (s : State) (n : Nat) (f : FMap L1Line → FMap L1Line) : State :=
  s.modCore n (fun c => { c with cache := { c.cache with l1 := f c.cache.l1 } })

/-- The bytes at a physical address that a reply carries. -/
def replyBytes (f : Flit) (pa n : Nat) : Nat := field (Config.flitData f) (8 * (pa % 128)) (8 * n)

/-- The home refused the request: the access traps XLAT_PERM at its syllable, and is sent again only once it walks again (R368). -/
def Req.refuse {α : Type} (j : Nat) (r : Req α) : Req α :=
  { r with park := some (2 ^ 60), bad := some (cXLAT_PERM, r.va + BitVec.ofNat 64 (j * r.ulen)) }

end Sys2Proof.Machine
end

