-- ==== Sys2Proof/Machine/Task.lean ====
section
/-! DEFINITION. The start and end of tile tasks, suspension, the limits of waits and parks, and the coachman's replies (R98, R100,
R192, R247, R260, R270 to R274, R328 to R331, R336, R337, R341, R348, R401). -/

namespace Sys2Proof.Machine

open Host (Outcome)

/-! ## Task start (R328, R401) -/

/-- What the read of an argument word gives; it waits while a lane swap pauses its channel, or for the reply of another module. -/
inductive ArgLook where
  | ok (v : Nat)
  | wait
  | park (entry : Nat)
  | trap (cause : Nat)
  | poison

/-- A value read at the home leaves no older copy of its line in the core's own L1, since no later load may go back to it (R230). -/
def dropCopy (n pa : Nat) (s : State) : State := s.modL1 n (fun l => fdel l (pa / 128))

/-- Read argument word k of the task starting on the current core, as a data read of the task: it walks and enters the caches as a
load does, reads at the home, and a word of another module is asked for over the links (R242, R368, R401; log entry 126). -/
def argWord (k : Nat) (s : State) : ArgLook × State :=
  let n := s.cur.toNat
  let tag := s.regs.id.tag
  let va := s.regs.id.args.toNat + 8 * k
  if 2 ^ 60 ≤ va then (.trap cBAD_VA, s)
  else match walkNow n va 0 (some 1) s with
    | (none, s1) => (.poison, s1)
    | (some (.trap c), s1) => (.trap c, s1)
    | (some (.park e), s1) => (.park e, s1)
    | (some (.leaf l), s1) =>
      let pa := l.pa va
      match accessFault s1 0 pa va with
      | some f => (.trap f.1, s1)
      | none =>
        if isPaused s1 pa then (.wait, s1)
        else if poisoned s1 pa then (.poison, s1)
        else if (podOf s1 pa).isSome then
          (match podAccess (.arg n k) tag 0 pa s1 with
           | (none, s2) => (.wait, s2)
           | (some f, s2) => (if Config.flitRefused f then .trap cXLAT_PERM else .ok (replyBytes f pa 8), dropCopy n pa s2))
        else (.ok (busRead s1 tag pa 8), dropCopy n pa s1)

/-- The pin-free granules and the partition of the core take the task's tag, its tokens are ready, its context runs, and its node
learns of the start (R160, R191, R260, R261, R330, R393). -/
def taskRuns (n : Nat) (s : State) : State :=
  let r := (s.core n).regs
  let tag := r.id.tag
  let h := r.id.node
  let s1 := resetTokens n (s.modCore n (fun c => { c.modRegs (fun r => { r with run := .running }) with last := some tag }))
  let s2 := { s1 with sptag := fset s1.sptag n tag, acctag := fset s1.acctag n tag }
  let s3 := s2.setCtx tag { s2.ctx tag with st := .running }
  let x := s3.node h
  let first := (x.cores.take x.tasks).map (fun m => m / 4)
  let begun := addNat (n / 4) x.begun
  let s4 := modNode h (fun y =>
    { y with
      begun := begun
      st := if y.st = .committed && first.all (fun q => begun.contains q) then .running else y.st }) s3
  if x.begun.isEmpty then monRecord s4 x.die 8 tag 0 ((s4.now - x.rung) / 1000) else s4

/-- Read the f words from k on; the task runs once the last is read, or traps before its first bundle. -/
def readArgs : Nat → Nat → State → State
  | 0, _, s => taskRuns s.cur.toNat s
  | f + 1, k, s =>
    let n := s.cur.toNat
    let va := BitVec.ofNat 64 (s.regs.id.args.toNat + 8 * k)
    match argWord k s with
    | (.ok v, s1) =>
      readArgs f (k + 1) (s1.modRegs (fun r =>
        { r with task := { r.task with s := vset r.task.s k (BitVec.ofNat 64 v) }, id := { r.id with argNext := k + 1 } }))
    | (.wait, s1) => s1
    | (.park e, s1) =>
      s1.modMe (fun c =>
        { c with
          regs := { c.regs with lim := { c.regs.lim with parkFrom := (c.regs.lim.parkFrom).or (some s.now) } }
          cache := { c.cache with walkL := [⟨va, 0, some (.park e), (s.quad s.myQuad).cycle⟩] } })
    | (.trap c, s1) => trapOf none none (takeTrap (taskRuns n s1) c va 0 (landingAddr s s.regs.id.tag s.regs.id.entry) false false)
    | (.poison, s1) => killCtx s.regs.id.tag s1

/-- The start that a core was sent: its argument words are read, unless a read of them is parked. -/
def execTaskStart (n : CoreId) (s : State) : Outcome State Fault Refusal :=
  let c := s.core n.toNat
  let k := c.regs.id.argNext
  .next (if c.regs.run = .starting && c.cache.walkL.isEmpty then atCore n.toNat (readArgs (8 - k) k) s else s)

/-! ## Task end (R100, R329, R331, R336, R337, R341) -/

/-- The write-back of all eight windows is queued (R256). -/
def flushWindows (s : State) : State :=
  (List.range 8).foldl (fun s n => if (s.win n).mapped then writeBackAll n s.pipe.bn s.bundleAt (s.win n).order s else s) s

/-- `c.end` and `c.gleave`: under a lease they trap; else the windows are written back, later bundles are discarded and the core
works through its waits. -/
def endTask (leave : Bool) (s : State) : State :=
  if holdsArray s.me then fixedTrap s cLEASE_HELD 0 .C
  else ((flushWindows s).modPipe dropLater).modRegs (fun r => { r with run := .ending leave })

def execCEnd (s : State) : Outcome State Fault Refusal := .next (endTask false s)
def execCGleave (s : State) : Outcome State Fault Refusal := .next (endTask true s)

/-- An arrival of the core is still on its way to its home, or, for a task that leaves its gang, unanswered (R341). -/
def arrivesYet (leave : Bool) (s : State) : Bool :=
  s.arrivals.any (fun a => a.what = .arrival && a.src = 0 && a.module = s.podmod.toNat && a.core = s.cur.toNat) ||
  (leave && s.regs.arr.toList.any (fun e => e.armed && e.taken.isNone && e.refused.isNone && e.fail.isNone))

/-- The waits of an ending task are over: the core has settled, its queues are empty and its stores are acknowledged, its arrivals
among them. -/
def endReady (leave : Bool) (s : State) : Bool :=
  settled s && s.pipe.lq.isEmpty && s.pipe.sq.isEmpty && s.pipe.spst.isEmpty && !arrivesYet leave s

/-- The context has no running task left on the module: nodes that wait for a resident context try again (R260). -/
def ctxIdle (tag : Nat) (s : State) : State :=
  if (s.ctx tag).st = .running &&
      !(s.cores.any (fun c => (runsFor tag c.2 && c.2.regs.run ≠ .starting) || c.2.susp.any (fun x => x.image.id.tag = tag)))
  then
    let s1 := s.setCtx tag { s.ctx tag with st := .resident }
    { s1 with nodes := s1.nodes.map (fun e => if e.2.waits.isSome then (e.1, { e.2 with retry := true }) else e) }
  else s

/-- The core has no task: its registers are at rest. -/
def restCore (n : Nat) (s : State) : State :=
  s.modCore n (fun c =>
    { c with
      regs := CoreRegs.reset
      fold := FoldCore.reset
      watch := Watch.reset
      halt := { c.halt with halted := false }
      cache := { c.cache with walkL := [], walkW := [], walkF := [] } })

/-- A task has ended: its node counts it, and a gang's barriers a withdrawal; the core takes the next tile or is released. -/
def finishTask (leave : Bool) (n : Nat) (s : State) : State :=
  let r := (s.core n).regs
  let h := r.id.node
  let x := s.node h
  let gone := leave && x.gang
  let rtop := match r.region.ids with | i :: _ => i.toNat | [] => 0
  let s1 := modNode h (fun y =>
    { y with ended := y.ended + 1, left := y.left + b2n gone, active := y.active.filter (fun m => m ≠ n) }) (restCore n (dropLease n s))
  let s2 := if gone then withdraw h n rtop (s.cycleOf n) s1 else s1
  let s3 := if x.next < x.tasks then
      startOn h n x.next (modNode h (fun y => { y with next := y.next + 1, active := y.active ++ [n] }) s2)
    else if claimOf s2 n = some h then unclaim n s2 else releaseAt (n / 4) s2
  restoreReady n (ctxIdle r.id.tag (if x.tasks ≤ x.ended + 1 then unbind h s3 else s3))

/-- An ending task whose waits are over is reported finished; a requested halt comes first (R384). -/
def execTaskFinish (n : CoreId) (s : State) : Outcome State Fault Refusal :=
  let c := s.core n.toNat
  .next (match c.regs.run with
    | .ending leave =>
      if c.halt.halted || c.regs.out ≠ .off || !endReady leave { s with cur := n } then s
      else if c.halt.req then haltCore s n.toNat
      else finishTask leave n.toNat s
    | _ => s)

/-! ## Limits of parks (R247, R270, R272, R273) -/

/-- Ticks since a park began. -/
def parkTicks (s : State) (l : Limits) : Nat := match l.parkFrom with | some f => (s.now - f) / 1000000 | none => 0

/-- PARK.limit: the task is suspended, and the core may take back a ready one. -/
def execParkLimitSuspend (n : CoreId) (s : State) : Outcome State Fault Refusal :=
  let l := (s.core n.toNat).regs.lim
  .next (if l.parkLimit ≠ 0 && l.parkLimit.toNat ≤ parkTicks s l && maySuspend s n.toNat then
      restoreReady n.toNat (suspendTask n.toNat s)
    else s)

/-- A parked request of the load queue traps at its syllable; in the outrider that is a fault, after which it walks again. -/
def loadTrap (r : Req LdOp) (cause : Nat) (taddr : Word) (s : State) : State :=
  let t := takeTrap s cause taddr 4 r.addr false false
  if s.me.outrider then t else trapOf (some (false, r.id)) (some r.bn) t

/-- The same of the store queue: TDBUF holds its data (R266). -/
def storeTrap (r : Req StOp) (cause : Nat) (taddr : Word) (s : State) : State :=
  let t := takeTrap (s.modRegs (fun x => if s.me.outrider then x else { x with trap := { x.trap with tdbuf := r.val } }))
    cause taddr 5 r.addr true false
  if s.me.outrider then t else trapOf (some (true, r.id)) (some r.bn) t

/-- An access of the outrider that faulted walks again when the outrider goes on. -/
def Req.faulted {α : Type} (outr : Bool) (k : Nat) (r : Req α) : Req α :=
  if r.id = k then { r with bad := none, again := outr } else r

/-- A woken access whose walk ended in a trap takes it when its pipelines next run: the oldest one first (R242, R246). -/
def badTrap (s : State) : State :=
  let p := s.pipe
  let o := s.me.outrider
  let bad := fun (k : Nat) => s.modPipe (fun p => { p with
    lq := p.lq.map (fun r => if r.bad.isSome then r.faulted o k else r)
    sq := p.sq.map (fun r => if r.bad.isSome then r.faulted o k else r) })
  let w := p.sq.find? (fun r => r.bad.isSome)
  match p.lq.find? (fun r => r.bad.isSome) with
  | some r =>
    (match w with
     | some x =>
       if keyW x < keyL r then storeTrap x (x.bad.getD (0, 0)).1 (x.bad.getD (0, 0)).2 (bad x.id)
       else loadTrap r (r.bad.getD (0, 0)).1 (r.bad.getD (0, 0)).2 (bad r.id)
     | none => loadTrap r (r.bad.getD (0, 0)).1 (r.bad.getD (0, 0)).2 (bad r.id))
  | none =>
    match w with
    | some x => storeTrap x (x.bad.getD (0, 0)).1 (x.bad.getD (0, 0)).2 (bad x.id)
    | none => s

/-- Accesses of the running pipelines that are to walk again do so (R268). -/
def walkAgain (s : State) : State :=
  let p := s.pipe
  if p.lq.any (fun r => r.again) || p.sq.any (fun r => r.again) then
    rewalkPipe s.cur.toNat s.me.outrider (fun r => r.again) (fun r => r.again) s
  else s

/-- The W head takes a trap, with TDBUF where it is a global store (R266). -/
def wHeadTrap (cause : Nat) (taddr : Word) (s : State) : State :=
  match decodeSyl .W s.wHead.syl with
  | .ok (.wStg ..) | .ok (.wStgx ..) | .ok (.wStgi ..) | .ok (.wStgsc ..) | .ok (.wStnt ..) | .ok (.wStrel ..) | .ok (.wGo ..)
  | .ok (.wStamp ..) | .ok (.wApw ..) => wStoreTrap s cause taddr s.wHead.d
  | _ => wTrap s cause taddr

/-- A task parked on a fetch, a load or a store takes PARK_TIMEOUT there (R263). -/
def parkTrap (s : State) : State :=
  let c := s.me
  let isPark := fun (x : Walk) => match x.res with | some (.park _) => true | _ => false
  let outrAgain := fun (k : Nat) => if c.outrider then s.modPipe (fun p => { p with
    lq := p.lq.map (Req.faulted true k), sq := p.sq.map (Req.faulted true k) }) else s
  if c.regs.run = .starting then
    trapOf none none
      (takeTrap (taskRuns s.cur.toNat s) cPARK_TIMEOUT (match c.cache.walkL with | x :: _ => x.va | [] => 0) 0
        (landingAddr s c.regs.id.tag c.regs.id.entry) false false)
  else match c.cache.walkF.find? isPark with
    | some x => takeTrap (endFetch s) cPARK_TIMEOUT x.va 0 (if c.pipe.target.isSome then c.pipe.tbun else c.pipe.pc) false true
    | none =>
      match c.pipe.lq.find? (fun r => r.park.isSome) with
      | some r => loadTrap r cPARK_TIMEOUT r.va (outrAgain r.id)
      | none =>
        match c.pipe.sq.find? (fun r => r.park.isSome) with
        | some r => storeTrap r cPARK_TIMEOUT r.va (outrAgain r.id)
        | none =>
          match c.cache.walkL.find? isPark with
          | some x => takeTrap (dropWalks false s) cPARK_TIMEOUT x.va 4 s.bundleAt false false
          | none =>
            match c.cache.walkW.find? isPark with
            | some x => wHeadTrap cPARK_TIMEOUT x.va (dropWalks true s)
            | none => s

/-- A record of a core of one of some kinds is outstanding. -/
def hasRecord (s : State) (n : Nat) (kinds : List Nat) : Bool :=
  (s.quad (n / 4)).trapRec.any (fun r => r.core = n % 4 && kinds.contains r.kind)

/-- The record of a park watchdog that expires while the task is suspended: one of a core at a time (R270, R273). -/
def suspWd (n : Nat) (s : State) : State :=
  match (if hasRecord s n [4] then none else (s.core n).susp.find? (fun x => x.wdRec.isNone && !x.ready && x.image.lim.parkWd ≠ 0 &&
      x.image.lim.parkWd.toNat ≤ parkTicks s x.image.lim)) with
  | none => s
  | some x =>
    let t := x.image.trap
    (s.modCore n (fun c => { c with susp := c.susp.map (fun y => if y = x then { y with wdRec := some true } else y) })).modQuad
      (n / 4) (fun q => { q with trapRec := q.trapRec ++
        [⟨4, n % 4, x.image.id.tag, t.tcause.toNat, 0, t.tstatus.toNat, t.tslot.toNat, t.taddr, t.tbundle, 0⟩] })

/-- PARK.wd: a task on its core traps; for a suspended one a record goes to the coachman. -/
def execParkTimeout (n : CoreId) (s : State) : Outcome State Fault Refusal :=
  let c := s.core n.toNat
  let l := c.regs.lim
  .next (if l.parkWd ≠ 0 && l.parkWd.toNat ≤ parkTicks s l && (c.issues || c.regs.run = .starting) then
      endPark n.toNat (atCore n.toNat parkTrap s)
    else suspWd n.toNat s)

/-! ## Limits of waits and the watchdog (R98, R192, R274, R348) -/

/-- The fields of a C syllable. -/
def cField (b : Bundle) (lo n : Nat) : Nat := bitsN b.bits.toNat (32 + lo) n
def cOp (b : Bundle) : Nat := cField b 25 6

/-- The bundle at which the core's task has held for the limit at bit lo of its C syllable, if that is a wait of one of some
ops. -/
def heldLong (s : State) (n lo : Nat) (ops : List Nat) : Option Bundle :=
  let c := s.core n
  match c.regs.hold, c.regs.task.bq with
  | some h, b :: _ =>
    if c.issues && !c.outrider && h.bn = c.regs.task.bn && ops.contains (cOp b) && cField b lo 16 ≠ 0 &&
      cField b lo 16 ≤ h.cycles then some b else none
  | _, _ => none

/-- A bridge operand of a bundle that still waits: a SYNC bundle or a landing sees the present s0 to s7 (R14). -/
def waitingBridge (p : Pipe) (b : Bundle) (a : Nat) : Word :=
  if a < 48 ∨ 55 < a then 0
  else if b.land || cField b 31 1 = 1 then vget p.s (a - 48) 0 else vget p.bridge (a - 48) 0

def timeoutTrap (cause : Nat) (taddr : Word) (s : State) : State := fixedTrap (endHold s) cause taddr .C

/-- The limit of `c.mwait` passes: TADDR is the mail number. -/
def mailTimeout (n : Nat) (s : State) : State :=
  match heldLong s n 0 [0x1C] with
  | some b =>
    let m := cField b 16 2
    if (vget (s.core n).mail m ⟨0, false⟩).full then s
    else atCore n (timeoutTrap cMAIL_TIMEOUT (BitVec.ofNat 64 m)) s
  | none => s

def execMailTimeout (n : CoreId) (s : State) : Outcome State Fault Refusal := .next (mailTimeout n.toNat s)

/-- The limit of a token wait passes: TADDR is the mask of the named tokens not ready. -/
def tokenTimeout (n : Nat) (s : State) : State :=
  match heldLong s n 6 [0x15, 0x16] with
  | some b =>
    atCore n (fun s =>
      let mask := if cOp b = 0x15 then oneToken (BitVec.ofNat 6 (cField b 0 6)) else waitingBridge s.pipe b (cField b 0 6)
      let bad := tokenMask s mask (fun t => !tokenReady t)
      if bad = 0 || tokenMask s mask (fun t => t = .failed) ≠ 0 then s else timeoutTrap cTOKEN_TIMEOUT bad s) s
  | none => s

def execTokenTimeout (n : CoreId) (s : State) : Outcome State Fault Refusal := .next (tokenTimeout n.toNat s)

/-- The limit of `c.bwait` passes. -/
def barrierTimeout (n : Nat) (s : State) : State :=
  match heldLong s n 6 [0x18] with
  | some b =>
    atCore n (fun s =>
      let e := arrEntry s (BitVec.ofNat 4 (cField b 0 4))
      if (arrFault e).isSome || arrDone e || e.fail.isSome then s
      else timeoutTrap cBARRIER_TIMEOUT (barrierAddr e 0) s) s
  | none => s

def execBarrierTimeout (n : CoreId) (s : State) : Outcome State Fault Refusal := .next (barrierTimeout n.toNat s)

/-- The next bundle of a task would make the count exceed its limit (R274). -/
def wdogOver (s : State) : Bool :=
  let l := s.regs.lim
  s.me.issues && !s.me.outrider && s.pipe.after.isNone && l.wdLimit ≠ 0 && !l.fired && l.wdLimit.toNat < l.wdcnt.toNat + 1 &&
    (!s.pipe.bq.isEmpty || s.pipe.gap ≠ 0)

def wdogTrap (s : State) : State :=
  if wdogOver s then
    takeTrap (s.modRegs (fun r => { r with lim := { r.lim with fired := true } })) cWDOG_EXPIRED (s.regs.lim.wdcnt.setWidth 64) 0
      s.bundleAt false false
  else s

def execWdogExpired (n : CoreId) (s : State) : Outcome State Fault Refusal := .next (atCore n.toNat wdogTrap s)

/-! ## Replies of the coachman (R271) -/

/-- The escalation of a core is answered. -/
def dropRecords (n : Nat) (s : State) : State :=
  s.modQuad (n / 4) (fun q => { q with trapRec := q.trapRec.filter (fun r => !(r.core = n % 4 && r.kind ≠ 4)) })

def trapHeld (s : State) (n : Nat) : Bool := (s.core n).regs.trap.tstatus.getLsbD 0

def replyContinue (n : Nat) (s : State) : State :=
  if hasRecord s n [1, 3] then
    (dropRecords n s).modCore n (fun c => c.modRegs (fun r => { r with out := if r.out = .off then .off else .running }))
  else s

/-- What a reply of 1 has begun goes on: the task resumes as by `c.resume`, once the outrider's accesses are performed. -/
def leaveTurn (s : State) : State :=
  if s.regs.out = .leaving then
    let t := tryResume (s.modRegs (fun r => { r with outr := { r.outr with wn := r.outr.bn } }))
    if t.regs.out = .leaving then t.modRegs (fun r => { r with outr := { r.outr with waits := false } }) else t
  else s

def replyResume (n : Nat) (s : State) : State :=
  if trapHeld s n && (s.core n).outrider then
    atCore n leaveTurn ((dropRecords n s).modCore n (fun c => c.modRegs (fun r => { r with out := .leaving })))
  else s

def replyRestart (n : Nat) (s : State) : State :=
  if trapHeld s n && (s.core n).outrider && !hasRecord s n [2] then
    (dropRecords n s).modCore n (fun c => c.modRegs (fun r =>
      { r with
        out := .running
        trap := { r.trap with tstatus := r.trap.tstatus &&& 0x7D }
        outr := r.outr.startAt (s.ctx r.id.tag).frt }))
  else s

/-- The context a terminating reply names: that of the core's record, else that of its task. -/
def replyTag (s : State) (n : Nat) : Option Nat :=
  let l := (s.quad (n / 4)).trapRec.filter (fun r => r.core = n % 4)
  match (l.filter (fun r => r.kind ≠ 4)) ++ l with
  | r :: _ => some r.tag
  | [] => if (s.core n).regs.run = .idle then none else some (s.core n).regs.id.tag

def replyTerminate (n : Nat) (s : State) : State :=
  match replyTag s n with
  | some t => killCtx t s
  | none => s

def replyHalt (n : Nat) (s : State) : State :=
  if (s.core n).halt.halted then s else haltCore s n

/-- A reply of 0 to 2 that has no effect on a trap of the core answers its PARK_WD record, and the task suspended there may be put
back (R270, R273; log entry 60). -/
def answerWd (n : Nat) (s : State) : State :=
  if hasRecord s n [4] then
    restoreReady n ((s.modQuad (n / 4) (fun q => { q with trapRec := q.trapRec.filter (fun r => !(r.core = n % 4 && r.kind = 4)) })).modCore
      n (fun c => { c with susp := c.susp.map (fun x => if x.wdRec = some true then { x with wdRec := some false } else x) }))
  else s

/-- The condition of a reply of 0 to 2. -/
def replyActs (s : State) (n action : Nat) : Bool :=
  match action with
  | 0 => hasRecord s n [1, 3]
  | 1 => trapHeld s n && (s.core n).outrider
  | 2 => trapHeld s n && (s.core n).outrider && !hasRecord s n [2]
  | _ => true

/-- A write of MBREPLY. -/
def mbreply (n action : Nat) (s : State) : State :=
  if !replyActs s n action then answerWd n s
  else match action with
  | 0 => replyContinue n s
  | 1 => replyResume n s
  | 2 => replyRestart n s
  | 3 => replyTerminate n s
  | 4 => replyHalt n s
  | _ => s

/-! ## The quad control window (R266, R271) -/

/-- The registers of its cores that a coachman writes (R67, R183, R247, R266, R274, R386). -/
def coachWrites (i : Nat) : Bool :=
  (0x100 ≤ i && i < 0x106) || (0x140 ≤ i && i < 0x160) || (0x180 ≤ i && i < 0x1A8) || i = 0x300 || i = 0x301 || i = 0x403 ||
  (0x510 ≤ i && i < 0x519)

def coachWrite (n i : Nat) (v : Word) (s : State) : State :=
  if i = 0x1F0 then mbreply n (v.toNat % 8) s else if coachWrites i then sysWrite n i v s else s

def coachRead (n i : Nat) (s : State) : State :=
  { s with host := s.host ++ [.coach n i (sysRead s n (s.core n).pipe i)] }

def execMbreplyContinue (n : CoreId) (s : State) : Outcome State Fault Refusal := .next (mbreply n.toNat 0 s)
def execMbreplyResume (n : CoreId) (s : State) : Outcome State Fault Refusal := .next (mbreply n.toNat 1 s)
def execMbreplyRestart (n : CoreId) (s : State) : Outcome State Fault Refusal := .next (mbreply n.toNat 2 s)
def execMbreplyTerminate (n : CoreId) (s : State) : Outcome State Fault Refusal := .next (replyTerminate n.toNat s)
def execMbreplyHalt (n : CoreId) (s : State) : Outcome State Fault Refusal := .next (replyHalt n.toNat s)

end Sys2Proof.Machine
end

