-- ==== Sys2Proof/Machine/Bytecode.lean ====
section
/-! DEFINITION. The bytecode interpreter of a dispatcher, and the finish of nodes (R303, R309 to R314, R318, R323, R329, R349,
R356). An operation acts on the run that the interpreter of the current die holds. -/

namespace Sys2Proof.Machine

open Host (Outcome)

/-! ## The run of an interpreter -/

/-- The queue that the interpreter of the current die runs. -/
def runQueue (s : State) : Option Nat := (s.disp (s.cur.toNat / 64)).run

/-- Act on the run, if there is one. -/
def onRun (f : Nat → State → State) (s : State) : State :=
  match runQueue s with
  | some q => f q s
  | none => s

/-- The run goes on at the next instruction. -/
def advanceRun (q : Nat) (s : State) : State := s.modQueue q (fun x => { x with pc := x.pc + 1, block := .none })

def xReg (s : State) (q : Nat) (i : BitVec 3) : Word := vget (s.queue q).x i.toNat 0

/-- Write a program register and go on. -/
def setX (q : Nat) (d : BitVec 3) (v : Word) (s : State) : State :=
  advanceRun q (s.modQueue q (fun x => { x with x := vset x.x d.toNat v }))

/-- The interpreter is free. -/
def freeRun (q : Nat) (s : State) : State :=
  s.modDisp (s.queue q).home (fun d => { d with run := if d.run = some q then none else d.run })

/-- The run blocks at its present instruction (R306). -/
def blockRun (q : Nat) (b : Block) (s : State) : State :=
  freeRun q (s.modQueue q (fun x => { x with st := .blocked, block := b }))

/-- The run has ended: the queue is idle. -/
def closeRun (q : Nat) (s : State) : State :=
  freeRun q (s.modQueue q (fun x => { x with st := .idle, cur := none, block := .none, lc := [], arrived := [] }))

/-- The packet that a run serves. -/
def runPacket (s : State) (q : Nat) : Option Packet := ((s.queue q).cur).bind (s.queue q).packet

/-- The run fails: its packet is journalled failed (R318). -/
def failRun (q code detail : Nat) (s : State) : State :=
  match runPacket s q with
  | some p => failPacket q p code detail (closeRun q s)
  | none => closeRun q s

/-- The run ends with success (R317). -/
def doneRun (q : Nat) (s : State) : State :=
  match (s.queue q).cur with
  | some n => settlePacket q n (modPacket q n (fun p => { p with finish := true }) (closeRun q s))
  | none => closeRun q s

/-- An access of a run met a park, a fault or an error (R311). -/
def stopRun (q va : Nat) (x : ULook) (s : State) : State :=
  let y := s.queue q
  match x with
  | .park e => postUnit y.home 7 y.tag va e (blockRun q (.park e) s)
  | .fault _ => failRun q 2 0 s
  | .poison => failRun q 9 0 s
  | .ok _ => s

/-! ## Windows (R311) -/

/-- Base and size of a window; window 0 is the command block. -/
def windowOf (x : Queue) (w : BitVec 2) : Nat × Nat :=
  if w = 0 then (x.cblk, 8 * x.cbw)
  else let y := x.wins.getD (w.toNat - 1) ⟨0, false, 0⟩; (y.base, y.size)

/-- The address of a window access of n bytes; none past the window's end. -/
def windowAddr (x : Queue) (w : BitVec 2) (o : BitVec 12) (a : Word) (n : Nat) : Option Nat :=
  let off := (field a 0 16 + o.toNat) * 8
  if (windowOf x w).2 < off + n then none else some ((windowOf x w).1 + off)

/-- A window access of n bytes, then k with its address. -/
def withWindow (kind : Nat) (w : BitVec 2) (o : BitVec 12) (a : BitVec 3) (n q : Nat) (k : Nat → State → State) (s : State) :
    State :=
  let x := s.queue q
  match windowAddr x w o (xReg s q a) n with
  | none => failRun q 1 0 s
  | some va =>
    match dispTry s q x.home x.tag kind va n with
    | .ok _ => k va (dispEnter x.home x.tag kind va n s)
    | y => stopRun q (dispAt s x.home x.tag kind va n) y s

def windowRead (s : State) (q va : Nat) : Word := BitVec.ofNat 64 (dispRead s q (s.queue q).home (s.queue q).tag va 8)

/-! ## Arithmetic (R310) -/

/-- D := D op (A + sext(imm, 16)). -/
def aluOp (f : Word → Word → Word) (i : BitVec 16) (a d : BitVec 3) (s : State) : State :=
  onRun (fun q s => setX q d (f (xReg s q d) (xReg s q a + i.signExtend 64)) s) s

def execQbNop (s : State) : Outcome State Fault Refusal := .next (onRun advanceRun s)
def execQbLdc (i : BitVec 16) (d : BitVec 3) (s : State) : Outcome State Fault Refusal :=
  .next (onRun (fun q s => setX q d (i.signExtend 64) s) s)
def execQbAdd (i : BitVec 16) (a d : BitVec 3) (s : State) : Outcome State Fault Refusal :=
  .next (aluOp (fun x y => x + y) i a d s)
def execQbSub (i : BitVec 16) (a d : BitVec 3) (s : State) : Outcome State Fault Refusal :=
  .next (aluOp (fun x y => x - y) i a d s)
def execQbAnd (i : BitVec 16) (a d : BitVec 3) (s : State) : Outcome State Fault Refusal :=
  .next (aluOp (fun x y => x &&& y) i a d s)
def execQbOr (i : BitVec 16) (a d : BitVec 3) (s : State) : Outcome State Fault Refusal :=
  .next (aluOp (fun x y => x ||| y) i a d s)
def execQbXor (i : BitVec 16) (a d : BitVec 3) (s : State) : Outcome State Fault Refusal :=
  .next (aluOp (fun x y => x ^^^ y) i a d s)
def execQbShl (i : BitVec 16) (a d : BitVec 3) (s : State) : Outcome State Fault Refusal :=
  .next (aluOp (fun x y => x <<< field y 0 6) i a d s)
def execQbShr (i : BitVec 16) (a d : BitVec 3) (s : State) : Outcome State Fault Refusal :=
  .next (aluOp (fun x y => x >>> field y 0 6) i a d s)

/-- The conditions of `cmp`. -/
def qbCond (c : BitVec 3) (x y : Word) : Bool :=
  match c.toNat with
  | 0 => x = y
  | 1 => x ≠ y
  | 2 => x.slt y
  | 3 => !x.slt y
  | 4 => x.ult y
  | _ => !x.ult y

def execQbCmp (c a d : BitVec 3) (s : State) : Outcome State Fault Refusal :=
  .next (onRun (fun q s => setX q d (if qbCond c (xReg s q d) (xReg s q a) then 1 else 0) s) s)

/-! ## Memory -/

def execQbLdw (w : BitVec 2) (o : BitVec 12) (a d : BitVec 3) (s : State) : Outcome State Fault Refusal :=
  .next (onRun (fun q s => withWindow 0 w o a 8 q (fun va s => setX q d (windowRead s q va) s) s) s)

def execQbStw (w : BitVec 2) (o : BitVec 12) (a d : BitVec 3) (s : State) : Outcome State Fault Refusal :=
  .next (onRun (fun q s => withWindow 1 w o a 8 q (fun va s =>
    advanceRun q (dispWrite (s.queue q).home (s.queue q).tag va 8 (xReg s q d).toNat s)) s) s)

/-! ## Control -/

def execQbSkip (n : BitVec 8) (d : BitVec 3) (s : State) : Outcome State Fault Refusal :=
  .next (onRun (fun q s =>
    if xReg s q d = 0 then s.modQueue q (fun x => { x with pc := x.pc + 1 + n.toNat }) else advanceRun q s) s)

def execQbLoop (n : BitVec 9) (s : State) : Outcome State Fault Refusal :=
  .next (onRun (fun q s => s.modQueue q (fun x => { x with lc := (x.pc, n.toNat) :: x.lc, pc := x.pc + 1 })) s)

/-- The end of a loop body: another pass, or on. -/
def endPass (x : Queue) : Queue :=
  match x.lc with
  | (i, k) :: r => if 1 < k then { x with lc := (i, k - 1) :: r, pc := i + 1 } else { x with lc := r, pc := x.pc + 1 }
  | [] => { x with pc := x.pc + 1 }

def execQbEndl (s : State) : Outcome State Fault Refusal := .next (onRun (fun q s => s.modQueue q endPass) s)

def execQbDone (s : State) : Outcome State Fault Refusal := .next (onRun doneRun s)
def execQbFail (f : BitVec 8) (s : State) : Outcome State Fault Refusal := .next (onRun (fun q s => failRun q 7 f.toNat s) s)

/-! ## Launches, chains and copies -/

/-- The launch record at va. -/
def launchRec (s : State) (q va : Nat) : LaunchRec := ⟨fun k => (windowRead s q (va + 8 * k)).toNat⟩

def execQbLaunch (w : BitVec 2) (o : BitVec 12) (a d : BitVec 3) (s : State) : Outcome State Fault Refusal :=
  .next (onRun (fun q s => withWindow 0 w o a 64 q (fun va s =>
    match launch q (((s.queue q).cur).getD 0) (launchRec s q va) s with
    | (.inl h, s1) => setX q d (BitVec.ofNat 64 h) s1
    | (.inr (.refuse c), s1) => failRun q 6 c s1
    | (.inr (.stop x y), s1) => stopRun q x y s1
    | (.inr (.ok _), s1) => s1) s) s)

def execQbChain (a : BitVec 3) (s : State) : Outcome State Fault Refusal :=
  .next (onRun (fun q s =>
    let v := xReg s q a
    if field v 0 3 ≠ 0 then failRun q 1 0 s
    else if 4 ≤ (s.queue q).lvl then failRun q 3 0 s
    else advanceRun q (s.modQueue q (fun x => { x with cblk := v.toNat, lvl := x.lvl + 1 }))) s)

def execQbCopy (c : BitVec 9) (d : BitVec 3) (s : State) : Outcome State Fault Refusal :=
  .next (onRun (fun q s =>
    let x := s.queue q
    if (s.chan c.toNat).tag ≠ x.tag || !hasRight s x.tag 2 3 3 then failRun q 10 0 s
    else
      advanceRun q (s.modDisp x.home (fun y =>
        { y with copies := y.copies ++ [(c.toNat, xReg s q d, q, (x.cur).getD 0)] }))) s)

/-! ## Barriers (R349) -/

/-- The name of a barrier of scope imm[10:8], number imm[7:0] and instance bits(A, 8, 0). -/
def qbBarrier (sc : BitVec 3) (n : BitVec 8) (a : Word) : Nat := n.toNat + 2 ^ 8 * sc.toNat + 2 ^ 11 * field a 0 9

/-- An arrival of a run: counted at once at its home, or sent to the home on another module, whose answer the run waits for (log
entry 35). -/
def qbArriveAt (q name : Nat) (s : State) : State :=
  let x := s.queue q
  if farBar s name then
    (if x.block = .arrival name then failRun q 10 ((podView s name).fail.getD 6) s
     else sendFar name x.tag (setView name { podView s name with fail := none } (blockRun q (.arrival name) s)))
  else match arrRefused s name x.tag none none, barrierIndex name with
  | none, some b =>
    let p := (s.bar b).phase.toNat
    advanceRun q ((countArrival b none none (blast s 4 0 0) (BitVec.ofNat 64 s.ns) s).modQueue q (fun y =>
      { y with arrived := (name, p) :: y.arrived.filter (fun e => e.1 ≠ name) }))
  | r, _ => failRun q 10 (r.getD 1) s

def execQbArrive (sc : BitVec 3) (n : BitVec 8) (a : BitVec 3) (s : State) : Outcome State Fault Refusal :=
  .next (onRun (fun q s => qbArriveAt q (qbBarrier sc n (xReg s q a)) s) s)

/-- The phase whose end a `waitb` awaits: that of its own first wait, else of the run's arrival, else the one in progress. -/
def waitPhase (x : Queue) (name now : Nat) : Nat :=
  match x.block with
  | .barrier m p => if m = name then p else now
  | _ => match x.arrived.find? (fun e => e.1 = name) with
    | some e => e.2
    | none => now

/-- A `waitb`; at a pod barrier of module 0 its first run asks for the phase in progress, unless the run has arrived there (log
entry 35). -/
def qbWait (q name : Nat) (s : State) : State :=
  let x := s.queue q
  match seenBar s name, x.block with
  | none, _ => failRun q 10 1 s
  | _, .failed r => failRun q 10 r s
  | some (k, r), b =>
    if b = .ask name then failRun q 10 ((podView s name).fail.getD 6) s
    else if farBar s name && (match b with | .barrier m _ => m ≠ name | _ => true) && !x.arrived.any (fun e => e.1 = name) then
      sendFar name x.tag (setView name { podView s name with fail := none } (blockRun q (.ask name) s))
    else
      let p := waitPhase x name k
      if pastBy k p then advanceRun q s
      else match r with
        | some r => failRun q 10 r s
        | none => blockRun q (.barrier name p) s

def execQbWaitb (sc : BitVec 3) (n : BitVec 8) (a : BitVec 3) (s : State) : Outcome State Fault Refusal :=
  .next (onRun (fun q s => qbWait q (qbBarrier sc n (xReg s q a)) s) s)

def execQbWaitbWake (d : BitVec 3) (s : State) : Outcome State Fault Refusal :=
  .next (onRun (fun q s =>
    let x := s.queue q
    if x.wakep then setX q d x.wake (s.modQueue q (fun y => { y with wakep := false })) else blockRun q .wake s) s)

/-! ## Signals, interrupts and times -/

/-- A queue of another context does not take the wake; an undefined one drops it (R304, R311). -/
def execQbSignal (a d : BitVec 3) (s : State) : Outcome State Fault Refusal :=
  .next (onRun (fun q s =>
    let t := field (xReg s q a) 0 12
    let x := s.queue q
    if ((s.queue t).st ≠ .undefined && (s.queue t).tag ≠ x.tag) || !hasRight s x.tag 2 5 3 then failRun q 10 0 s
    else doorbell t (some (xReg s q d)) none (advanceRun q s)) s)

def execQbArm (i : BitVec 16) (a d : BitVec 3) (s : State) : Outcome State Fault Refusal :=
  .next (onRun (fun q s =>
    advanceRun q (s.modQueue q (fun x =>
      { x with arm := some (BitVec.ofNat 128 (i.toNat + 2 ^ 16 + 2 ^ 32 * field (xReg s q d) 0 32 + 2 ^ 64 * (xReg s q a).toNat)) }))) s)

def execQbIrq (v : BitVec 11) (s : State) : Outcome State Fault Refusal :=
  .next (onRun (fun q s =>
    if hasRight s (s.queue q).tag 2 5 3 then irqRequest v.toNat (advanceRun q s) else failRun q 10 0 s) s)

def execQbDline (i : BitVec 16) (a : BitVec 3) (s : State) : Outcome State Fault Refusal :=
  .next (onRun (fun q s =>
    advanceRun q (s.modQueue q (fun x =>
      { x with ldl := some (s.now + (field (xReg s q a) 0 32 + i.toNat) * 1000000) }))) s)

def execQbBand (b : BitVec 4) (s : State) : Outcome State Fault Refusal :=
  .next (onRun (fun q s =>
    advanceRun q (s.modQueue q (fun x => { x with lband := if b.toNat < x.band then b.toNat else x.band }))) s)

def execQbRdclk (d : BitVec 3) (s : State) : Outcome State Fault Refusal :=
  .next (onRun (fun q s => setX q d (BitVec.ofNat 64 s.ns) s) s)

/-! ## Waits for work (R310, R319, R356) -/

/-- Every node and copy of the packet has finished, then k; a failed one fails the packet. -/
def withFence (q : Nat) (k : State → State) (s : State) : State :=
  let n := ((s.queue q).cur).getD 0
  if packetWork s q n then blockRun q .work s
  else match (runPacket s q).bind (fun p => p.workBad) with
    | some d => failRun q 11 d s
    | none => k s

def execQbFence (s : State) : Outcome State Fault Refusal := .next (onRun (fun q s => withFence q (advanceRun q) s) s)

def execQbCond (w : BitVec 2) (o : BitVec 12) (a d : BitVec 3) (s : State) : Outcome State Fault Refusal :=
  .next (onRun (fun q s => withFence q (fun s =>
    withWindow 0 w o a 8 q (fun va s => setX q d (windowRead s q va) s) s) s) s)

/-! ## QUEUE_RUN -/

/-- The state an operation leaves. -/
def after (x : Outcome State Fault Refusal) (s : State) : State :=
  match x with
  | .next t => t
  | _ => s

/-- Run the instruction of a verified program's word. -/
def runWord (w : BitVec 32) (s : State) : State :=
  match qbOp w with
  | 0 => after (execQbNop s) s
  | 1 => after (execQbLdc (fldB w 16 16) (fldB w 8 3) s) s
  | 2 => after (execQbLdw (fldB w 28 2) (fldB w 16 12) (fldB w 12 3) (fldB w 8 3) s) s
  | 3 => after (execQbStw (fldB w 28 2) (fldB w 16 12) (fldB w 12 3) (fldB w 8 3) s) s
  | 4 => after (execQbAdd (fldB w 16 16) (fldB w 12 3) (fldB w 8 3) s) s
  | 5 => after (execQbSub (fldB w 16 16) (fldB w 12 3) (fldB w 8 3) s) s
  | 6 => after (execQbAnd (fldB w 16 16) (fldB w 12 3) (fldB w 8 3) s) s
  | 7 => after (execQbOr (fldB w 16 16) (fldB w 12 3) (fldB w 8 3) s) s
  | 8 => after (execQbXor (fldB w 16 16) (fldB w 12 3) (fldB w 8 3) s) s
  | 9 => after (execQbShl (fldB w 16 16) (fldB w 12 3) (fldB w 8 3) s) s
  | 10 => after (execQbShr (fldB w 16 16) (fldB w 12 3) (fldB w 8 3) s) s
  | 11 => after (execQbCmp (fldB w 16 3) (fldB w 12 3) (fldB w 8 3) s) s
  | 12 => after (execQbSkip (fldB w 16 8) (fldB w 8 3) s) s
  | 13 => after (execQbLoop (fldB w 16 9) s) s
  | 14 => after (execQbEndl s) s
  | 15 => after (execQbLaunch (fldB w 28 2) (fldB w 16 12) (fldB w 12 3) (fldB w 8 3) s) s
  | 16 => after (execQbChain (fldB w 12 3) s) s
  | 17 => after (execQbCopy (fldB w 16 9) (fldB w 8 3) s) s
  | 18 => after (execQbArrive (fldB w 24 3) (fldB w 16 8) (fldB w 12 3) s) s
  | 19 => if qbImm w 14 2 = 1 then after (execQbWaitbWake (fldB w 8 3) s) s else after (execQbWaitb (fldB w 24 3) (fldB w 16 8) (fldB w 12 3) s) s
  | 20 => after (execQbSignal (fldB w 12 3) (fldB w 8 3) s) s
  | 21 => after (execQbArm (fldB w 16 16) (fldB w 12 3) (fldB w 8 3) s) s
  | 22 => after (execQbCond (fldB w 28 2) (fldB w 16 12) (fldB w 12 3) (fldB w 8 3) s) s
  | 23 => after (execQbIrq (fldB w 16 11) s) s
  | 24 => after (execQbDline (fldB w 16 16) (fldB w 12 3) s) s
  | 25 => after (execQbBand (fldB w 16 4) s) s
  | 26 => after (execQbFence s) s
  | 27 => after (execQbRdclk (fldB w 8 3) s) s
  | 28 => after (execQbDone s) s
  | 29 => after (execQbFail (fldB w 16 8) s) s
  | _ => s

/-- Replace an indirect packet by the one at its address, or enter its command block (R303). -/
def enterBlock (q : Nat) (s : State) : State :=
  let x := s.queue q
  match runPacket s q with
  | none => closeRun q s
  | some p =>
    let ty := field p.now 16 4
    let va := field p.now 64 60
    if field p.now 20 12 ≠ 0 || field p.now 124 4 ≠ 0 || 2 < ty || (ty = 1 && va % 8 ≠ 0) || (ty = 2 && va % 16 ≠ 0) then failRun q 4 0 s
    else if ty = 0 then doneRun q s
    else if ty = 1 then s.modQueue q (fun y => { y with cblk := va, entered := true })
    else if 4 ≤ x.lvl then failRun q 3 0 s
    else match dispTry s q x.home x.tag 0 va 16 with
      | .ok _ =>
        (modPacket q p.serial (fun y => { y with now := BitVec.ofNat 128 (dispRead s q x.home x.tag va 16) })
          (dispEnter x.home x.tag 0 va 16 s)).modQueue q (fun y => { y with lvl := y.lvl + 1, block := .none })
      | y => stopRun q va y s

/-- A queue begins or resumes its run; the first run of a packet is journalled as started (R306, R310, R317). -/
def startRun (q : Nat) (s : State) : State :=
  let s1 := (s.modQueue q (fun x => { x with st := .running })).modDisp (s.queue q).home (fun d => { d with run := some q })
  match runPacket s1 q with
  | none => closeRun q s1
  | some p =>
    if p.started then s1
    else
      (modPacket q p.serial (fun y => { y with started := true }) (journalPk p (packetRec s1 q p 2 0 0) s1)).modQueue q (fun x =>
        { x with pc := 0, lvl := 1, lc := [], arrived := [], entered := false, lband := x.band, ldl := packetDl x p })

/-- The ready queue that the dispatcher of die d runs next (R314). -/
def nextQueue (s : State) (d : Nat) : Option Nat :=
  (firstBy (fun a b => precedes (queueKey a) (queueKey b))
    (s.queues.filter (fun e => e.2.home = d && e.2.st = .ready && e.2.mapped))).map (fun e => e.1)

/-- One act of the interpreter of die d: it takes a ready queue, or does the next operation of the run it holds. -/
def queueRun (d : Nat) (s : State) : State :=
  match (s.disp d).run with
  | none => if (s.disp d).restart then s else match nextQueue s d with
    | some q => startRun q s
    | none => s
  | some q =>
    farRest q <| if (s.queue q).entered then
      { runWord ((s.queue q).prog.getD (s.queue q).pc 0x1C) { s with cur := BitVec.ofNat 11 (64 * d) } with cur := s.cur }
    else enterBlock q s

def execQueueRun (d : DieId) (s : State) : Outcome State Fault Refusal := .next (saveChanged s (queueRun d.toNat s))

/-! ## The finish of a node (R329, R330, R345) -/

/-- The node counts as finished: its barriers are unbound and its packet learns of it; a finish word that could not be
written fails the packet. -/
def finishNode (h : Nat) (bad : Option Nat) (s : State) : State :=
  let x := s.node h
  let s1 := unbind h (modNode h (fun y => { y with st := .finished, parkFin := none }) s)
  let s2 := x.quads.foldl (fun s q => releaseAt q s) s1
  let s3 := match bad with
    | none => s2
    | some c =>
      let y := s2.queue x.queue
      match y.packet x.packet with
      | none => s2
      | some p =>
        if p.finish then modPacket x.queue x.packet (fun p => { p with bad := (p.bad).or (some (c, 0)) }) s2
        else if y.cur = some x.packet then failRun x.queue c 0 s2
        else s2
  settleCtx x.tag (settlePacket x.queue x.packet s3)

def nodeFinish (h : Nat) (s : State) : State :=
  let x := s.node h
  if !((x.st = .running || x.st = .committed) && x.ended = x.tasks && x.active.isEmpty) then s
  else if x.fin = 0 then finishNode h none s
  else if (x.parkFin).any (fun e => !entryLive s e) then s
  else match dispTry s x.queue x.die x.tag 1 x.fin 8 with
    | .ok _ => farRest x.queue (finishNode h none (dispWrite x.die x.tag x.fin 8 h s))
    | .park e => postUnit x.die 7 x.tag (dispAt s x.die x.tag 1 x.fin 8) e (modNode h (fun y => { y with parkFin := some e }) s)
    | .fault _ => finishNode h (some 2) s
    | .poison => finishNode h (some 9) s

def execNodeFinish (h : BitVec 37) (s : State) : Outcome State Fault Refusal := .next (nodeFinish h.toNat s)

end Sys2Proof.Machine
end

