-- ==== Sys2Proof/Machine/Depend.lean ====
section
/-! DEFINITION. Dependences within a run, shadow reads and stretch rewriting (R288, R289), read from the words of the bundles:
the targets each syllable reads, and the targets it writes with their latencies in a generation (R83, R107, R134, R152, R172,
R280). -/

namespace Sys2Proof.Machine

/-- A target of a result (R60, R66, R133): a register, a latch of a slot, a mask as its producing slot sees it, the n-th
load-data-queue entry that the run reserves, or a scale register. -/
inductive Tg where
  | sreg (r : Nat)
  | vreg (r : Nat)
  | latch (p : Pos) (r : Nat)
  | mask (p : Pos) (m : Nat)
  | entry (n : Nat)
  | scale (k : Nat)
  deriving DecidableEq, Repr

/-- Two results share a target; a mask is one register whatever slot writes it. -/
def Tg.shares (x y : Tg) : Bool :=
  match x, y with
  | .mask _ m, .mask _ n => m = n
  | x, y => x = y

/-- What a bundle or syllable does, with entries still to be numbered: targets read, pops, targets written with latencies,
whether it reserves an entry, and the latency of a reserved fixed-latency entry. -/
structure Uses where
  reads   : List Tg
  pops    : Nat
  writes  : List (Tg × Nat)
  reserve : Bool
  lat     : Option Nat
  deriving DecidableEq, Repr

def Uses.none : Uses := ⟨[], 0, [], false, Option.none⟩

def sylOp (u : BitVec 32) : Nat := fld u 25 7
def sylW (u : BitVec 32) : Nat := fld u 24 1
def sylD (u : BitVec 32) : Nat := fld u 18 6

/-- The targets that a selector of a slot names; bridge registers are copies, which only SYNC bundles read. -/
def selReads (p : Pos) (x : Nat) : List Tg :=
  match p with
  | .S => if x < 40 then [.sreg x] else if x < 44 then [.latch .S (x - 40)] else []
  | .VA | .VB =>
    if x < 40 then [.vreg x] else if x < 44 then [.latch p (x - 40)] else if x < 48 then [.latch (slotPeer p) (x - 44)] else []
  | .W => if 40 ≤ x ∧ x < 44 then [.latch .VA (x - 40)] else if 44 ≤ x ∧ x < 48 then [.latch .VB (x - 44)] else []
  | .F => if x < 40 then [.vreg x] else []
  | _ => []

/-- A register result and its latch. -/
def regWrites (p : Pos) (reg : Nat → Tg) (w d lat : Nat) : List (Tg × Nat) :=
  if w = 1 then [(.latch p d, lat)] else [(reg d, lat), (.latch p (d % 4), lat)]

/-! ## S (R83 to R88) -/

def latS (gen op : Nat) : Nat :=
  if op = 0x04 then (if gen = 3 then 2 else 4) else if op = 0x05 then 4
  else if (0x1B ≤ op && op ≤ 0x1F) || op = 0x2A then 2 else 1

/-- Where the sources of an S syllable stand. -/
def srcsS (op : Nat) : List Nat :=
  if op ∈ [0x01, 0x02, 0x04, 0x05, 0x06, 0x07, 0x08, 0x09, 0x0A, 0x0B, 0x0F, 0x10, 0x11, 0x15, 0x17, 0x19, 0x20, 0x21, 0x25,
      0x28, 0x29] then [12, 6]
  else if op ∈ [0x03, 0x0C, 0x0D, 0x0E, 0x26, 0x2C, 0x12, 0x13, 0x14, 0x16, 0x18, 0x1A, 0x22, 0x2B] then [0]
  else if op ∈ [0x1B, 0x1C, 0x1D, 0x1E, 0x1F, 0x27, 0x2D] then [12]
  else []

def usesS (gen : Nat) (u : BitVec 32) : Uses :=
  let op := sylOp u
  let src := (srcsS op).map (fun lo => fld u lo 6)
  let old := if op = 0x19 || op = 0x1A || op = 0x24 then
      [if sylW u = 1 then Tg.latch .S (sylD u) else .sreg (sylD u)] else []
  { reads := (src.map (selReads .S)).flatten ++ old ++ (if op = 0x20 then [.mask .S (fld u 0 4)] else [])
    pops := (src.filter (fun x => x = 57)).length
    writes :=
      if op = 0 || op = 0x2B then []
      else if op = 0x21 || op = 0x22 then [(.mask .S (fld u 18 4), 1)]
      else regWrites .S Tg.sreg (sylW u) (sylD u) (latS gen op)
    reserve := false
    lat := none }

/-! ## VA and VB (R107) -/

def latV (gen : Nat) (u : BitVec 32) : Nat :=
  let op := sylOp u
  let t := fld u 0 5
  if op ∈ [0x01, 0x02, 0x08, 0x09, 0x0A, 0x0B, 0x49] then (if classF t then 4 else 2)
  else if 0x05 ≤ op && op ≤ 0x07 then (if gen = 3 && t = 8 then 3 else 4)
  else if op ∈ [0x03, 0x04, 0x0F, 0x23, 0x24, 0x25, 0x26, 0x4D] then 4
  else if 0x27 ≤ op && op ≤ 0x2B then 6
  else if (0x2C ≤ op && op ≤ 0x35) || op = 0x47 || op = 0x48 then 3
  else if (0x36 ≤ op && op ≤ 0x39) || op = 0x3B then 6
  else if op = 0x3A || op = 0x3C then 8
  else if 0x3D ≤ op && op ≤ 0x41 then (if fld u 5 1 = 1 then 16 else 8)
  else 2

/-- Where the sources of a V syllable stand. -/
def srcsV (op : Nat) : List Nat :=
  if op ∈ [0x11, 0x1A, 0x1B, 0x1C, 0x2D] then [0]
  else if op ∈ [0x0A, 0x0B, 0x16, 0x21, 0x22, 0x23, 0x24, 0x25, 0x26, 0x27, 0x34, 0x35, 0x36, 0x37, 0x38, 0x39, 0x3A, 0x3D, 0x3E,
      0x3F, 0x40, 0x41, 0x4A, 0x4C] then [12]
  else if op ∈ [0x00, 0x43, 0x44, 0x45, 0x46, 0x47, 0x48, 0x4B] then []
  else [12, 6]

/-- Masks that a V syllable reads. -/
def masksV (p : Pos) (u : BitVec 32) : List Tg :=
  let op := sylOp u
  if op = 0x34 || op = 0x35 then [.mask p (fld u 6 4)]
  else if op = 0x42 then [.mask p (fld u 0 4)]
  else if 0x43 ≤ op && op ≤ 0x45 then [.mask p (fld u 12 4), .mask p (fld u 6 4)]
  else if op = 0x46 || op = 0x47 || op = 0x48 then [.mask p (fld u 12 4)]
  else []

def usesV (p : Pos) (gen : Nat) (u : BitVec 32) : Uses :=
  let op := sylOp u
  let d := sylD u
  let lat := latV gen u
  let src := (srcsV op).map (fun lo => fld u lo 6)
  let old := if op ∈ [0x05, 0x06, 0x07, 0x0F, 0x1E, 0x20, 0x2E, 0x4D] then
      [if sylW u = 1 then Tg.latch p d else .vreg d] else []
  let pair := if op = 0x29 || op = 0x2B then [Tg.vreg (fld u 12 6 + 1)] else []
  { reads := (src.map (selReads p)).flatten ++ old ++ pair ++ masksV p u
    pops := (src.filter (fun x => x = 57)).length
    writes :=
      if op = 0 then []
      else if op = 0x10 || op = 0x11 || (0x43 ≤ op && op ≤ 0x46) then [(.mask p (fld u 18 4), lat)]
      else if op = 0x29 then regWrites p Tg.vreg 0 d lat ++ regWrites p Tg.vreg 0 (d + 1) lat
      else regWrites p Tg.vreg (sylW u) d lat
    reserve := false
    lat := none }

/-! ## L, W, F and K (R134, R149, R152, R172, R173) -/

def usesL (gen : Nat) (u : BitVec 32) : Uses :=
  let op := sylOp u
  let vec := op ∈ [0x02, 0x04, 0x06, 0x07, 0x18, 0x19, 0x1A]
  let lat := if op = 0x03 then 8 else if vec && gen < 5 then 5 else 6
  { reads := []
    pops := 0
    writes := if op = 0x16 || op = 0x07 || op = 0x12 then [(.mask .L (fld u 18 4), lat)] else []
    reserve := op ∈ [0x01, 0x02, 0x03, 0x04, 0x05, 0x06, 0x07, 0x08, 0x09, 0x0A, 0x0B, 0x0C, 0x0D, 0x0E, 0x0F, 0x17, 0x18, 0x19,
      0x1A, 0x1B, 0x1C, 0x1D]
    lat := if op ∈ [0x01, 0x02, 0x03, 0x04, 0x05, 0x06, 0x07, 0x18, 0x19, 0x1A] then some lat else none }

/-- Where the data and operand selectors of a W syllable stand. -/
def srcsW (op : Nat) : List Nat :=
  if op ∈ [0x01, 0x03, 0x05, 0x07, 0x0A, 0x04, 0x06, 0x09, 0x17, 0x18, 0x1E, 0x20, 0x0C] then [18, 12, 6]
  else if op = 0x02 || op = 0x08 then [0]
  else if op ∈ [0x0B, 0x0D, 0x0E, 0x0F, 0x10, 0x11, 0x12, 0x13, 0x16, 0x19, 0x1C, 0x1D, 0x1F] then [12, 6]
  else if op = 0x1A || op = 0x1B then [12]
  else []

def usesW (u : BitVec 32) : Uses :=
  let op := sylOp u
  { reads := (((srcsW op).map (fun lo => fld u lo 6)).map (selReads .W)).flatten ++
      (if op = 0x0D then [.mask .W (fld u 18 4)] else [])
    pops := 0
    writes := []
    reserve := false
    lat := none }

def usesF (u : BitVec 32) : Uses :=
  let op := sylOp u
  let d := sylD u
  if op = 0x08 then
    { reads := selReads .F (fld u 12 6) ++ selReads .F (fld u 6 6) ++ (if fld u 3 1 = 1 then [.vreg d, .vreg (d + 1)] else [])
      pops := 0
      writes := [(.vreg d, 10), (.vreg (d + 1), 10)]
      reserve := false
      lat := none }
  else if op = 0x0B then
    { Uses.none with reads := ((List.range 4).map (fun i => fld u 21 3 + i)).filterMap (fun k => if k < 8 then some (.scale k) else none) }
  else Uses.none

def usesK (u : BitVec 32) : Uses :=
  let op := sylOp u
  let k := fld u 18 3
  { Uses.none with
    reads := if op = 0x05 then [.scale (fld u 21 3)]
      else if op = 0x07 || op = 0x08 then [.scale k] else []
    writes := if op = 0 || op = 0x07 then [] else [(.scale k, if op ∈ [0x01, 0x02, 0x03, 0x06] then 5 else 2)] }

/-- A SYNC bundle reads every bridge register and mask. -/
def syncReads : List Tg :=
  ((List.range 8).map Tg.sreg) ++
  ((posList.map (fun p => (List.range 16).map (Tg.mask p))).flatten)

/-- The syllable of a bundle at a position. -/
def sylAt (b : BitVec 256) (p : Pos) : BitVec 32 := BitVec.ofNat 32 (field b (32 * p.num) 32)

def isSync (b : BitVec 256) : Bool := b.getLsbD 63

/-- What a syllable does; an illegal one does nothing. -/
def sylUses (gen : Nat) (b : BitVec 256) (p : Pos) : Uses :=
  let u := sylAt b p
  match decodeSyl p u with
  | .ok _ =>
    (match p with
     | .S => usesS gen u
     | .C => Uses.none
     | .VA => usesV .VA gen u
     | .VB => usesV .VB gen u
     | .L => usesL gen u
     | .W => usesW u
     | .F => usesF u
     | .K => usesK u)
  | _ => Uses.none

/-- The empty bundles that the bundle's `c.gap` stands for. -/
def gapOf (b : BitVec 256) : Nat := match decodeSyl .C (sylAt b .C) with | .ok (.cGap n) => n.toNat | _ => 0

/-! ## Runs -/

/-- An issued position of a run: the stored bundle, or none for an empty bundle of a `c.gap`. -/
structure Item where
  bundle : Option (BitVec 256)
  reads  : List Tg
  writes : List (Tg × Nat)
  deriving DecidableEq, Repr

/-- The positions of a run. Entries are numbered from its start, pops against reservations in order. -/
def items (gen : Nat) : Nat → Nat → List (BitVec 256) → List Item
  | _, _, [] => []
  | res, pops, b :: l =>
    let us := posList.map (sylUses gen b)
    let n := (us.map Uses.pops).foldl (· + ·) 0
    let popped := (List.range n).map (fun i => Tg.entry (pops + i))
    let made := us.filter Uses.reserve
    let entries := made.filterMap (fun x => x.lat.map (fun t => (Tg.entry res, t)))
    ⟨some b, (us.map Uses.reads).flatten ++ popped ++ (if isSync b then syncReads else []),
      (us.map Uses.writes).flatten ++ entries⟩ ::
      (List.replicate (gapOf b) ⟨none, [], []⟩ ++ items gen (res + made.length) (pops + n) l)

/-- A run holds a shadow read: a position reads a target before its producer's result has landed. -/
def hasShadow (gen : Nat) (run : List (BitVec 256)) : Bool :=
  let l := (items gen 0 0 run).zipIdx
  l.any (fun c => l.any (fun p => p.2 < c.2 && p.1.writes.any (fun x => c.2 < p.2 + x.2 && c.1.reads.contains x.1)))

/-- The least place of an item after those placed. -/
def placeAfter (placed : List (Nat × Item)) (t : Nat) (i : Item) : Nat :=
  if i.bundle.isNone then t
  else
    placed.foldl (fun t p =>
      p.2.writes.foldl (fun t x =>
        let t1 := if i.reads.contains x.1 && t < p.1 + x.2 then p.1 + x.2 else t
        i.writes.foldl (fun t y => if x.1.shares y.1 && t + y.2 < p.1 + x.2 then p.1 + x.2 - y.2 else t) t1) t) t

/-- Place the items of a run: the placed ones, latest first, with their positions. -/
def placeAll : List (Nat × Item) → List Item → List (Nat × Item)
  | placed, [] => placed
  | [], i :: l => placeAll [(0, i)] l
  | (p, x) :: r, i :: l => placeAll ((placeAfter ((p, x) :: r) (p + 1) i, i) :: (p, x) :: r) l

/-- The stored bundles of placed items, in order: an all-zero bundle at each position that belongs to none. -/
def layOut : Nat → List (Nat × Item) → List (BitVec 256)
  | _, [] => []
  | next, (p, i) :: l =>
    List.replicate (p - next) 0 ++ (match i.bundle with | some b => [b] | none => []) ++ layOut (p + 1) l

/-- A run rewritten for generation 5. -/
def stretchRun (run : List (BitVec 256)) : List (BitVec 256) := layOut 0 (placeAll [] (items 5 0 0 run)).reverse

/-- Cut a page's bundles into runs at the landings, given by index. -/
def runsOf (lands : List Nat) (l : List (BitVec 256)) : List (List (BitVec 256)) :=
  l.zipIdx.foldr (fun e acc =>
    match acc with
    | r :: rest => if lands.contains e.2 then [] :: (e.1 :: r) :: rest else (e.1 :: r) :: rest
    | [] => [[e.1]]) [[]]
  |>.filter (fun r => !r.isEmpty)

end Sys2Proof.Machine
end

