-- ==== Sys2Proof/Machine/Resched.lean ====
section
/-! DEFINITION. The rescheduler (R278, R284 to R292). -/

namespace Sys2Proof.Machine

open Host (Outcome)

/-! ## The header check (R278) -/

/-- The check of a header, given without it, and the stored bundles. -/
def headerCheck (h : Nat) (bundles : List (BitVec 256)) : Nat :=
  crc32c (bytesLe h 60 ++ (bundles.map (fun b => bytesLe b.toNat 32)).flatten)

/-- A header with its check. -/
def checked (h : Nat) (bundles : List (BitVec 256)) : Nat := h % 2 ^ 480 + 2 ^ 480 * headerCheck h bundles

/-! ## The page as a job reads it -/

/-- The stored bundles of the page in frame f. -/
def pageBundles (s : State) (f : Nat) (h : Nat) : List (BitVec 256) :=
  (List.range (if 126 < hCount h then 126 else hCount h)).map (fun i =>
    BitVec.ofNat 256 (Memory.read s.mem (f + 64 + 32 * i) 32))

def landsOf (h : Nat) : List Nat := (List.range (hNland h)).map (fun n => landEntry (hTable h) n)

/-- The header is malformed (reason 2 of R287). -/
def badHeader (h : Nat) : Bool :=
  bitsN h 47 1 ≠ 0 || bitsN h 53 3 ≠ 0 || bitsN h 65 11 ≠ 0 || bitsN h 124 4 ≠ 0 || bitsN h 128 12 ≠ 0 || bitsN h 188 4 ≠ 0 ||
  hCount h = 0 || 126 < hCount h || hNland h = 0 || 24 < hNland h || (hCpl h).isSome || hTrl h || hNtrl h ≠ 0 || hPos h ≠ 0 ||
  (landsOf h).any (fun e => landTn e ≠ 0 || landBi e < 2 || hCount h + 1 < landBi e) ||
  (List.range 24).any (fun n => bitsN (landEntry (hTable h) n) 11 1 ≠ 0) ||
  landBi (landEntry (hTable h) 0) ≠ 2

/-- The generation that a tag names. -/
def genOf (h : Nat) : Nat := hTag h / 16

/-- The runs of a page: from each landing to the next. -/
def pageRuns (s : State) (f h : Nat) : List (List (BitVec 256)) :=
  runsOf ((landsOf h).map (fun e => landBi e - 2)) (pageBundles s f h)

/-! ## The output (R289, R290) -/

/-- Cut a list into parts of n. -/
def chunks {α : Type} (n : Nat) : Nat → List α → List (List α)
  | 0, _ => []
  | _ + 1, [] => []
  | f + 1, l => l.take n :: chunks n f (l.drop n)

/-- The new place of every old bundle index that begins a run. -/
def newStarts (runs outs : List (List (BitVec 256))) : List (Nat × Nat) :=
  ((runs.zip outs).foldl (fun (acc : Nat × Nat × List (Nat × Nat)) e =>
    (acc.1 + e.1.length, acc.2.1 + e.2.length, acc.2.2 ++ [(acc.1, acc.2.1)])) (0, 0, [])).2.2

/-- The landing entries after the rewrite. -/
def newLands (h : Nat) (starts : List (Nat × Nat)) : Nat :=
  ((landsOf h).map (fun e =>
    let p := match starts.find? (fun x => x.1 = landBi e - 2) with | some x => x.2 | none => 0
    p % 126 + 2 + 2 ^ 7 * (p / 126))).foldr (fun e acc => e + 2 ^ 12 * acc) 0

/-- The page number of trailer k (from 1) of a job's pool. -/
def trailerPage (s : State) (tag k : Nat) : Nat := let r := fget RsPool.reset s.rspool tag; r.base + r.used.toNat + (k - 1)

/-- The frame of a trailer page, if it is mapped as R286 requires and the access tables let the rescheduler write it. -/
def trailerFrame (s : State) (tag page : Nat) : Option Nat :=
  let w := walkRoot s tag (page % 2 ^ 48 * 4096)
  if w.fin = .leaf && w.lvl = 5 && bitsN w.bits 6 1 = 0 && bitsN w.bits 2 1 = 1 && bitsN w.bits 4 1 = 1 && isRes w.bits then
    let pa := entryNext w.bits
    if !reservedPa s pa && accessOk s tag 6 0 pa && accessOk s tag 6 1 pa then some pa else none
  else none

/-- The header of page k of the output: 0 is the head page. -/
def outHeader (h k n count table head : Nat) (next : Option Nat) : Nat :=
  0x5043 + 2 ^ 16 * 0x51 + 2 ^ 24 * hOtag h + 2 ^ 32 * (1 + 2 + (if k = 0 then 0 else 4)) + 2 ^ 40 * count +
  2 ^ 48 * (if k = 0 then hNland h else 0) + 2 ^ 56 * (if k = 0 then n else 0) + 2 ^ 60 * k +
  (match next with | some p => 2 ^ 64 + 2 ^ 76 * (p % 2 ^ 48) | none => 0) +
  (if k = 0 then 0 else 2 ^ 140 * head) + 2 ^ 192 * (if k = 0 then table else 0)

/-- The bytes of a whole page. -/
def pageBytes (f h : Nat) (bundles : List (BitVec 256)) : List (Nat × Byte) :=
  let body : List Byte := (bundles.map (fun (b : BitVec 256) => bytesLe b.toNat 32)).flatten
  let page : List Byte := bytesLe (checked h bundles) 64 ++ body ++ List.replicate (4096 - 64 - 32 * bundles.length) 0
  page.zipIdx.map (fun e => (f + e.2, e.1))

/-! ## A job (R285, R287, R292) -/

/-- Restore the leaf: the waking write. -/
def restoreLeaf (j : Job) (s : State) : State :=
  wakeLine j.entry (memWrite j.tag (bytesOf j.leaf.toNat 8 (fun i => j.entry + i)) s)

/-- Every instruction cache drops the lines of some frames. -/
def dropFrames (fs : List Nat) (s : State) : State :=
  { s with cores := s.cores.map (fun c => (c.1, { c.2 with cache := { c.2.cache with
      icache := c.2.cache.icache.filter (fun i => !fs.contains (i.pline / 32)) } })) }

/-- The first cause for which a job rejects the page, in the order 7, 1, 2, 4, 5, 6; the output's parts are given. -/
def jobWhy (s : State) (j : Job) (f h : Nat) (parts : List (List (BitVec 256))) : Option Nat :=
  let n := parts.length - 1
  let r := fget RsPool.reset s.rspool j.tag
  if (List.range ((64 + 32 * (if 126 < hCount h then 126 else hCount h) + 127) / 128)).any (fun k => poisoned s (f + 128 * k)) then some 7
  else if headerCheck h (pageBundles s f h) ≠ bitsN h 480 32 then some 1
  else if badHeader h then some 2
  else if !hSf h && (pageRuns s f h).any (hasShadow (genOf h)) then some 4
  else if 15 < n || r.npg.toNat < r.used.toNat + n then some 5
  else if !(accessOk s j.tag 6 0 f && accessOk s j.tag 6 1 f) ||
    (List.range n).any (fun k => (trailerFrame s j.tag (trailerPage s j.tag (k + 1))).isNone) then some 6
  else none

/-- Reject the page: its header is written with rej and why. -/
def rejectFrame (j : Job) (f h why : Nat) (s : State) : State :=
  let g := h - 2 ^ 35 * bitsN h 35 5 + 2 ^ 35 * (1 + 2 * why)
  dropFrames [f / 4096] (memWrite j.tag (bytesOf (checked g (pageBundles s f h)) 64 (fun i => f + i)) s)

/-- Write the trailers, then the head page. -/
def writeOutput (j : Job) (f h : Nat) (parts : List (List (BitVec 256))) (table : Nat) (s : State) : State :=
  let n := parts.length - 1
  let pages := j.page :: (List.range n).map (fun k => trailerPage s j.tag (k + 1))
  let frames := f :: (List.range n).map (fun k => (trailerFrame s j.tag (trailerPage s j.tag (k + 1))).getD 0)
  let bytes := (List.range parts.length).map (fun k =>
    let part := parts.getD k []
    pageBytes (frames.getD k 0) (outHeader h k n part.length table j.page (pages[k + 1]?)) part)
  let s1 := (bytes.tail ++ bytes.take 1).foldl (fun s b => memWrite j.tag b s) s
  let s2 := cleanLines ((frames.map (fun a => (List.range 32).map (fun i => a / 128 + i))).flatten) s1
  dropFrames (frames.map (fun a => a / 4096))
    { s2 with rspool := fset s2.rspool j.tag (let r := fget RsPool.reset s2.rspool j.tag
                                              { r with used := r.used + BitVec.ofNat 16 n }) }

/-- Serve a job, steps 2 to 8. A context that is terminating before the first write gets its leaf back unchanged; a page that
an earlier job has rewritten or rejected is not rewritten again (R292). Compact mode stores what stretch mode stores, which R290
allows (log entry 19). -/
def serveJob (j : Job) (s1 : State) : State :=
  let f := entryNext j.leaf.toNat
  let h := Memory.read s1.mem f 64
  if !(s1.ctx j.tag).st.live then restoreLeaf j s1
  else if (hTag h = 0x51 || hRej h) && !poisoned s1 f then restoreLeaf j s1
  else
    let runs := pageRuns s1 f h
    let outs := runs.map stretchRun
    let parts := chunks 126 127 outs.flatten
    match jobWhy s1 j f h parts with
    | some w => restoreLeaf j (rejectFrame j f h w s1)
    | none => restoreLeaf j (writeOutput j f h parts (newLands h (newStarts runs outs)) s1)

/-- The rescheduler of a die serves its first job, unless an earlier claim on the same frame is still to be served. It shoots the
page down first and waits for the accesses that used the leaves (step 1, R245). -/
def execReschedJob (d : DieId) (s : State) : Outcome State Fault Refusal :=
  .next (match s.jobs.find? (fun j => j.die = d.toNat) with
    | none => s
    | some j =>
      if (s.jobs.takeWhile (fun x => x ≠ j)).any (fun x => entryNext x.leaf.toNat = entryNext j.leaf.toNat) then s
      else
        let x : Range := ⟨j.tag, j.page, 1⟩
        let s1 := if j.shot then s else shootdown x s
        if shootBusy x s1 then { s1 with jobs := s1.jobs.map (fun y => if y = j then { y with shot := true } else y) }
        else serveJob j { s1 with jobs := s1.jobs.filter (fun y => y ≠ j) })

end Sys2Proof.Machine
end

