-- ==== Sys2Proof/Machine/Links.lean ====
section
/-! DEFINITION. Imlon Links: port states, flits, loss, and the pod's registers (R358 to R371). -/

namespace Sys2Proof.Machine

open Host (Outcome)

/-! ## Loss (R370) -/

/-- The request is one of this module. -/
def PodReq.isOwn (r : PodReq) : Bool := match r.who with | .passed _ => false | _ => true

/-- A flit of the head command of channel c is lost: of its template, its payload or its stamp (R202, R207). -/
def failHead (c : Nat) (s : State) : State :=
  match (s.chan c).cmds with
  | m :: _ =>
    (match m.result, m.tmpl with
     | some code, _ => endCmd c m code (some 0x0D) s
     | none, some t => headResult c 0x0D (payloadPart c t s)
     | none, none => headResult c 0x0D s)
  | [] => s

/-- The loss of the flit of a request, or of its reply, is charged to what asked: a channel's command fails, a dispatcher asks again
(log entry 141), and a core's context consumes the error. -/
def chargeAsk (r : PodReq) (s : State) : State :=
  match r.who with
  | .gone | .passed _ => s
  | .unit u _ _ => if u < 512 then failHead u s else s
  | _ => killCtx r.tag s

/-- A lost flit is charged to the owner that its tag and transaction name: a pod barrier fails; a request of this module is charged
to what asked; of one of another module the tag and number alone are known. -/
def chargeFlit (f : Flit) (s : State) : State :=
  if f.kind = 6 ∨ f.kind = 7 then
    podLost (f.pa % 2 ^ 20) s
  else if f.kind ≤ 2 ∧ f.src = s.podmod.toNat then
    (s.podreqs.filter (fun r => r.isOwn && r.tid = f.tid && r.ans.isNone)).foldl (fun s r => chargeAsk r s)
      { s with podreqs := s.podreqs.filter (fun r => !(r.isOwn && r.tid = f.tid && r.ans.isNone)) }
  else
    let t := { s with podreqs := s.podreqs.filter (fun r =>
      !(f.kind ≤ 2 && r.who = .passed f.src && r.tid = f.tid && r.mod = f.dst)) }
    if 7 < f.kind || Config.copyTid f.tid then t else killCtx f.tag t

def countLost (p n : Nat) (s : State) : State := s.modLink p (fun x => { x with lost := x.lost + BitVec.ofNat 16 n })

/-- A flit that port p held goes on toward its module. A request waits until a change of route has settled and those held before it
have gone; one of another module is then a request whose answer its module waits for (R364, R366). -/
def passOn (p : Nat) (f : Flit) (s : State) : State :=
  let own := f.src = s.podmod.toNat
  if f.kind ≤ 2 && (!routeSteady s f.dst f.hop || s.podheld.any (fun e => Flit.dst e.2 = f.dst)) then
    { s with podheld := s.podheld ++ [(p, f)] }
  else match routeFlit f s with
    | some t =>
      if own then { t with podreqs := t.podreqs.map (fun r =>
        if r.isOwn && r.tid = f.tid && r.ports = [37] then { r with ports := portsTo s f.dst f.hop } else r) }
      else
        let t1 := freeBuffer p f t
        if f.kind ≤ 2 then
          { t1 with podreqs := t1.podreqs ++ [⟨f.tid, f.dst, f.kind, f.tag, portsTo s f.dst f.hop, .passed f.src, none⟩] }
        else t1
    | none => chargeFlit f (countLost p 1 s)

/-- The requests that waited try again, in their order. -/
def passHeld (s : State) : State := s.podheld.foldl (fun s e => passOn e.1 e.2 s) { s with podheld := [] }

/-- A flit that a port held in its queues and has not sent takes another port, or is lost; a request takes it as any new one. -/
def moveFlit (p : Nat) (f : Flit) (s : State) : State :=
  if 2 < f.kind then (routeFlit f s).getD (chargeFlit f (countLost p 1 s))
  else
    { s with
      podheld := s.podheld ++ [(p, f)]
      podreqs := s.podreqs.filterMap (fun r =>
        if r.isOwn && f.src = s.podmod.toNat && r.tid = f.tid && r.ans.isNone then some { r with ports := [37] }
        else if r.who = .passed f.src && r.tid = f.tid && r.mod = f.dst then none
        else some r) }

/-- After a change of the usable ports or of the routes: requests wait where they must (R366). -/
def reroute (s : State) : State := passHeld (markMoved s)

/-- The port leaves its usable states for st: the flits in its replay buffer are lost, those in its queues go another way. -/
def loseAll (p : Nat) (st : LinkSt) (s : State) : State :=
  let fs := (s.link p).replay
  let ws := (s.link p).out
  let s1 := countLost p fs.length (s.modLink p (fun x =>
    { x with replay := [], out := [], grants := 0, st := st, width := 0 }))
  let s2 := fs.foldl (fun s f => chargeFlit f s) s1
  reroute (ws.foldl (fun s f => moveFlit p f s) s2)

/-! ## Port states (R361) -/

/-- k lanes next to each other are good. -/
def lanesRun (g k : Nat) : Bool := (List.range (9 - k)).any (fun i => bitsN g i k = 2 ^ k - 1)
def minWidth (m : BitVec 2) : Nat := if m = 1 then 4 else if m = 2 then 2 else 8

/-- The width that training gives; 0 where too few lanes are good. -/
def trainWidth (g : Nat) (m : BitVec 2) : Nat :=
  if bitsN g 0 8 = 255 then 8
  else if lanesRun (bitsN g 0 8) 4 && minWidth m ≤ 4 then 4
  else if lanesRun (bitsN g 0 8) 2 && minWidth m ≤ 2 then 2
  else 0

def widthSt (w : Nat) : LinkSt := if w = 8 then .up else .degraded

/-- 1 µs of module time. -/
def usec : Nat := 1000000

def stopPort (st : LinkSt) (p : Nat) (s : State) : State := loseAll p st s

/-- Training starts: the buffers are empty and lseq restarts at 0. -/
def startTraining (p : Nat) (s : State) : State :=
  s.modLink p (fun x => { x with st := .training, width := 0, since := s.now, replay := [], sendSeq := 0, wantSeq := 0, asked := false })

/-- LCTL.en := 1. -/
def linkEnable (p : Nat) (minw : BitVec 2) (s : State) : State :=
  let s1 := s.modLink p (fun x => { x with
    en := true, minw := if minw = 3 then x.minw else minw, rtr := if x.en then x.rtr else 0 })
  if (s.link p).st = .down then startTraining p s1 else s1

def linkDisable (p : Nat) (s : State) : State := (stopPort .down p s).modLink p (fun x => { x with en := false })
def linkIsolate (p : Nat) (s : State) : State := stopPort .isolated p s

/-- LCTL.iso := 0: an isolated port that is enabled trains again. -/
def linkUnisolate (p : Nat) (s : State) : State :=
  if (s.link p).st = .isolated && (s.link p).en then startTraining p s else s

/-- A write of LCTL: en acts first, then iso. -/
def lctlWrite (p : Nat) (v : Word) (s : State) : State :=
  let m := BitVec.ofNat 2 (field v 2 2)
  let s1 := if v.getLsbD 0 then linkEnable p m s
    else (linkDisable p s).modLink p (fun x => { x with minw := if m = 3 then x.minw else m })
  if v.getLsbD 1 then linkIsolate p s1 else linkUnisolate p s1

/-- Ports 36 to 63 do not exist. -/
def isPort (p : BitVec 6) : Bool := p.toNat < 36

def execLctlEnable (p : BitVec 6) (m : BitVec 2) (s : State) : Outcome State Fault Refusal :=
  .next (if isPort p then linkEnable p.toNat m s else s)
def execLctlDisable (p : BitVec 6) (s : State) : Outcome State Fault Refusal :=
  .next (if isPort p then linkDisable p.toNat s else s)
def execLctlIsolate (p : BitVec 6) (s : State) : Outcome State Fault Refusal :=
  .next (if isPort p then linkIsolate p.toNat s else s)
def execLctlUnisolate (p : BitVec 6) (s : State) : Outcome State Fault Refusal :=
  .next (if isPort p then linkUnisolate p.toNat s else s)

/-- Training ends with the lanes g good and the peer known. -/
def execLinkTrainingDone (p : BitVec 6) (g m : BitVec 8) (r : BitVec 6) (s : State) : Outcome State Fault Refusal :=
  let x := s.link p.toNat
  let w := trainWidth g.toNat x.minw
  .next (if isPort p && x.st = .training && s.now < x.since + 10000 * usec then
      s.modLink p.toNat (fun x => { x with
        st := if w = 0 then .isolated else widthSt w, width := w, good := g, pmod := m, pport := r
        credits := Vector.ofFn (fun i => Config.linkCredits i.val), freed := Vector.replicate 6 0 }) |> pump p.toNat |> reroute
    else s)

def execLinkTrainingTimeout (p : BitVec 6) (s : State) : Outcome State Fault Refusal :=
  let x := s.link p.toNat
  .next (if isPort p && x.st = .training && x.since + 10000 * usec ≤ s.now then stopPort .isolated p.toNat s else s)

/-- Traffic stops for a retrain; the third within 1 s isolates the port. -/
def retrain (p : Nat) (s : State) : State :=
  let x := s.link p
  let l := (x.retrains.filter (fun t => s.now < t + 1000000 * usec)) ++ [s.now]
  let s1 := s.modLink p (fun x => { x with
    st := .retraining, width := 0, since := s.now, retrains := l, replays := []
    rtr := if x.rtr = 255 then 255 else x.rtr + 1 })
  if 3 ≤ l.length then stopPort .isolated p s1 else markMoved s1

/-- Loss of lane lock. -/
def execLinkRetrain (p : BitVec 6) (s : State) : Outcome State Fault Refusal :=
  .next (if isPort p && (s.link p.toNat).st.usable then retrain p.toNat s else s)

def execLinkRetrainDone (p : BitVec 6) (g : BitVec 8) (s : State) : Outcome State Fault Refusal :=
  let x := s.link p.toNat
  let w := trainWidth g.toNat x.minw
  .next (if isPort p && x.st = .retraining && s.now < x.since + 200 * usec then
      (if w = 0 then stopPort .isolated p.toNat (s.modLink p.toNat (fun x => { x with good := g }))
       else reroute (pump p.toNat (s.modLink p.toNat (fun x => { x with st := widthSt w, width := w, good := g }))))
    else s)

def execLinkRetrainTimeout (p : BitVec 6) (s : State) : Outcome State Fault Refusal :=
  let x := s.link p.toNat
  .next (if isPort p && x.st = .retraining && x.since + 200 * usec ≤ s.now then stopPort .isolated p.toNat s else s)

/-! ## Replay (R360) -/

/-- A lack at or beyond a flit's lseq releases it. -/
def ackFlits (p : Nat) (lack : BitVec 16) (s : State) : State :=
  pump p (s.modLink p (fun x => { x with replay := x.replay.filter (fun f => 2 ^ 15 ≤ (lack - Flit.lseq f).toNat) }))

/-- The sender sends again; 32 replays within 100 µs start a retrain (R361). -/
def replayFrom (p : Nat) (s : State) : State :=
  let x := s.link p
  let l := (x.replays.filter (fun t => s.now < t + 100 * usec)) ++ [s.now]
  let s1 := s.modLink p (fun x => { x with rpl := x.rpl + 1, replays := l })
  if 32 ≤ l.length then retrain p s1 else s1

/-- A replay request names the next lseq that the peer expects. A flit leaves the buffer only for a lack. -/
def execReplayRequest (p : BitVec 6) (l : BitVec 16) (s : State) : Outcome State Fault Refusal :=
  let x := s.link p.toNat
  .next (if isPort p && x.st.usable && x.replay.any (fun f => (Flit.lseq f - l).toNat < 2 ^ 15) then replayFrom p.toNat s else s)

/-! ## Flits that arrive (R359 to R366) -/

/-- A request over a link may reach an address: it exists, and class 3 has the right (R368, R375). -/
def linkOk (s : State) (tag bit pa : Nat) : Bool := !reservedPa s pa && inMemory pa && (podOf s pa).isNone && accessOk s tag 3 bit pa

/-- What a request does to memory here. -/
def flitRequest (f : Flit) (s : State) : State :=
  if f.kind = 1 then
    if linkOk s f.tag 1 f.pa then
      let base := f.pa / 128 * 128
      let l := ((List.range 128).filter (fun i => (Config.flitMask f).getLsbD i)).map (fun i =>
        (base + i, BitVec.ofNat 8 (field (Config.flitData f) (8 * i) 8)))
      cleanLines (wholeLines (l.map (fun e => e.1))) (memWrite f.tag l s)
    else s
  else if f.kind = 2 then
    if linkOk s f.tag 0 f.pa && linkOk s f.tag 1 f.pa then
      let a := f.pa / 8 * 8
      memWrite f.tag (bytesOf (Config.flitAtomic f (BitVec.ofNat 64 (memRead s f.tag a 8))).toNat 8 (fun i => a + i)) s
    else s
  else s

/-- The home has counted the arrival of a queue's run, which goes on, or says what phase its `waitb` is to wait for. -/
def arrivalTaken (q name p : Nat) (s : State) : State :=
  if (s.queue q).block = .arrival name then
    s.modQueue q (fun y => { y with arrived := (name, p) :: y.arrived.filter (fun e => e.1 ≠ name), pc := y.pc + 1, block := .none })
  else if (s.queue q).block = .ask name then s.modQueue q (fun y => { y with block := .barrier name p })
  else s

/-- An answer to the arrival of an entry that still waits for one. -/
def answerEntry (name : Nat) (v : BitVec 128) (f : ArrEntry → ArrEntry) (s : State) : State :=
  s.modCore (field v 40 11) (fun c => c.mapRegs (fun r =>
    let e := vget r.arr (field v 51 4) ArrEntry.reset
    if e.armed && e.name = name && e.taken.isNone && e.serial = field v 64 64 then { r with arr := vset r.arr (field v 51 4) (f e) }
    else r))

/-- What module 0 tells of a pod barrier (log entry 35). -/
def learnPod (name : Nat) (v : BitVec 128) (s : State) : State :=
  let p := field v 2 32
  let r := field v 34 4
  let who := field v 38 2
  let opened := setView name { podView s name with phase := p, fail := none } s
  match field v 0 2 with
  | 0 =>
    let s1 := opened
    if who = 0 then answerEntry name v (fun e => { e with taken := some p, seen := p }) s1
    else if who = 1 then arrivalTaken (field v 40 12) name p s1
    else s1
  | 1 => sendNews name p none (opened)
  | 2 => failNews name p r (setView name { podView s name with phase := p, fail := some r } s)
  | _ =>
    if who = 0 then answerEntry name v (fun e => { e with refused := some r }) s
    else if who = 1 then
      (if (s.queue (field v 40 12)).block = .arrival name || (s.queue (field v 40 12)).block = .ask name then
        failRun (field v 40 12) 10 r s else s)
    else if who = 2 then portDrop (field v 40 13) s
    else s

/-- A control flit: an arrival for a home here, what a home tells, or a failure that another module met (R346, R370). -/
def flitControl (f : Flit) (s : State) : State :=
  let name := f.pa % 2 ^ 20
  if f.kind = 6 then
    let v := Config.flitArrival f
    let task := v.getLsbD 2
    { s with arrivals := s.arrivals ++
        [⟨match field v 0 2 with | 0 => .arrival | 1 => .leave | 2 => .ended | _ => .ask, name, f.tag, field v 89 3, field v 92 11,
          field v 103 16, BitVec.ofNat 64 (field v 128 64), if task then some (farNode f.src (field v 4 37)) else none, none, none,
          f.src, if task then some (v.getLsbD 3, field v 41 48) else none⟩] }
  else if farBar s name then learnPod name (Config.flitNews f) s
  else match barrierIndex name with
    | some b => if field (Config.flitNews f) 0 2 = 2 then failBar b s else s
    | none => s

/-- The rights that a request over a link needs are there: to read, to write, or both (R368). -/
def requestOk (s : State) (f : Flit) : Bool :=
  (f.kind = 1 || linkOk s f.tag 0 f.pa) && (f.kind = 0 || linkOk s f.tag 1 f.pa)

/-- The line that a request finds at its home. -/
def homeLine (s : State) (f : Flit) : BitVec 1024 := BitVec.ofNat 1024 (memRead s f.tag (f.pa / 128 * 128) 128)

/-- The flit that a delivered request is answered by, and the one a forwarded flit goes on as (R364). The reply says whether the
request was refused here, and else holds the line as the request found it (R368). -/
def answerTo (s : State) (f : Flit) : Option Flit :=
  if f.dst ≠ s.podmod.toNat then
    (if f.hop = 0 then some (f ||| 4) else none)
  else if f.kind ≤ 2 then
    let ok := requestOk s f
    some (newFlit 0 f.src s.podmod.toNat f.tag f.pa f.tid (f.kind + 3)
      (Config.flitAnswer (!ok) (if ok then homeLine s f else 0)))
  else none

/-- The reply to the request that a line of an L1 waits for fills it, unless the request was refused (R140, R231, R368). -/
def fillCopy (n : Nat) (f : Flit) (s : State) : State :=
  s.modL1 n (fun l => l.filterMap (fun e =>
    match e.2 with
    | .coming t => if t = f.tid then (if Config.flitRefused f then none else some (e.1, .here (Config.flitData f))) else some e
    | .here _ => some e))

/-- A reply reaches the request it answers, which keeps it until the access takes it; an access that is no more drops it. -/
def podReply (f : Flit) (s : State) : State :=
  let mine := fun (r : PodReq) => r.isOwn && r.tid = f.tid && r.mod = f.src && r.ans.isNone && f.kind = r.kind + 3
  (s.podreqs.filter mine).foldl (fun s r => match r.who with | .access n _ _ _ _ => fillCopy n f s | _ => s)
    { s with podreqs := s.podreqs.filterMap (fun r =>
        if mine r then (if r.who = .gone then none else some { r with ans := some f }) else some r) }

/-- A reply to another module's request passes: the request is answered. -/
def podPass (f : Flit) (s : State) : State :=
  if 3 ≤ f.kind ∧ f.kind ≤ 5 then
    { s with podreqs := s.podreqs.filter (fun r => !(r.who = .passed f.dst && r.tid = f.tid && r.mod = f.src)) }
  else s

/-- What a flit accepted on port p does. A flit that no port can carry on is lost. -/
def deliverFlit (p : Nat) (f : Flit) (s : State) : State :=
  let here := f.dst = s.podmod.toNat
  if f.kind = 9 then replayFrom p s
  else if f.kind = 8 then pump p (s.modLink p (addCredits (Config.flitCredits f)))
  else if 7 < f.kind then s
  else if here && 6 ≤ f.kind then flitControl f (freeBuffer p f s)
  else if here && 3 ≤ f.kind then passHeld (podReply f (freeBuffer p f s))
  else match answerTo s f with
    | some g =>
      if here then
        let s1 := { flitRequest f (freeBuffer p f s) with fresh := s.fresh + 1 }
        (routeFlit g s1).getD (chargeFlit g (countLost p 1 s1))
      else passHeld (passOn p g (podPass f s))
    | none => chargeFlit f (countLost p 1 (freeBuffer p f s))

/-- Codewords of the link that FEC corrects on the way: a free number of them comes with each flit (R363; log entry 143). -/
def fecNoise (p : Nat) (s : State) : State :=
  { s.modLink p (fun x => { x with fec := x.fec + BitVec.ofNat 32 (field (Config.freeVec s.fresh) 0 32) }) with fresh := s.fresh + 1 }

/-- A flit that fails its check or its order is discarded, and a replay request asks for the next one expected (R360). -/
def askReplay (p : Nat) (s : State) : State := s.modLink p (fun x => { x with asked := true })

/-- A flit arrives: accepted in lseq order, otherwise discarded; link flits bear no number of their own (log entry 20). -/
def flitReceive (p : Nat) (f : Flit) (s : State) : State :=
  if !(s.link p).st.usable then s
  else if !flitOk f then askReplay p (fecNoise p s)
  else
    let s := fecNoise p s
    let s1 := ackFlits p f.lack s
    if f.cls = 3 then deliverFlit p f s1
    else if f.lseq ≠ (s.link p).wantSeq then askReplay p s1
    else deliverFlit p f (s1.modLink p (fun x => { x with wantSeq := x.wantSeq + 1, asked := false }))

def execFlitReceive (p : BitVec 6) (f : BitVec 2048) (s : State) : Outcome State Fault Refusal :=
  .next (if isPort p then flitReceive p.toNat f s else s)

/-! ## Arrivals at a barrier of this module or of module 0 (R342) -/

/-- An arrival reaches the home of its barrier; a pod barrier lives on module 0 of the pod. -/
def sendArrival (a : Arrival) (s : State) : State :=
  if farBar s a.name then
    sendFar a.name a.tag (setView a.name { podView s a.name with nodes := match a.node with
      | some h => addNat h (podView s a.name).nodes
      | none => (podView s a.name).nodes } s)
  else takeArrival a s

def execBarrierArrival (i : BitVec 16) (s : State) : Outcome State Fault Refusal :=
  .next (match s.arrivals[i.toNat]? with
    | some a =>
      if a.what ≠ .arrival && (s.arrivals.take i.toNat).any (fun y => y.module = a.module && y.name = a.name) then s
      else sendArrival a { s with arrivals := s.arrivals.eraseIdx i.toNat }
    | none => s)

/-! ## The pod's registers (R365, R367, R369) -/

/-- The checks of an enabled window. -/
def podWinOk (s : State) (w : Nat) (x : PodWin) : Bool :=
  let n := 2 ^ (x.sz + 30)
  x.sz ≤ 11 && x.lbase % n = 0 && x.rbase % n = 0 && tierBase + s.flash.tier ≤ x.lbase && x.lbase + n ≤ tierEnd &&
  s.podwin.all (fun e => e.1 = w || !e.2.en || x.lbase + n ≤ e.2.lbase || e.2.lbase + 2 ^ (e.2.sz + 30) ≤ x.lbase) &&
  (x.rbase + n ≤ hbmEnd || (tierBase ≤ x.rbase && x.rbase + n ≤ tierEnd)) && x.mod ≠ s.podmod.toNat

def podwinWrite (w : Nat) (hi : Bool) (v : Word) (s : State) : State :=
  let x := fget PodWin.reset s.podwin w
  if hi then { s with podwin := fset s.podwin w { x with mod := field v 0 8, rbase := field v 30 22 * 2 ^ 30 } }
  else
    let y := { x with en := v.getLsbD 0, sz := field v 1 5, lbase := field v 30 22 * 2 ^ 30 }
    { s with podwin := fset s.podwin w (if v.getLsbD 0 && !podWinOk s w y then { x with en := false } else y) }

def execPodwinWrite (w : BitVec 6) (o : BitVec 1) (v : Word) (s : State) : Outcome State Fault Refusal :=
  .next (podwinWrite w.toNat (o = 1) v s)

/-- A write to PODCFG takes effect only while every port is down or isolated. -/
def podcfgWrite (v : BitVec 8) (s : State) : State :=
  if (List.range 36).all (fun p => (s.link p).st = .down || (s.link p).st = .isolated) then { s with podmod := v } else s

def execPodcfgWrite (v : BitVec 8) (s : State) : Outcome State Fault Refusal := .next (podcfgWrite v s)

def prouteWrite (m : Nat) (v : Word) (s : State) : State :=
  reroute { s with route := fset s.route m ⟨v.setWidth 36, field v 36 8, v.getLsbD 44⟩ }

end Sys2Proof.Machine
end

