-- ==== Sys2Proof/Machine/Device.lean ====
section
/-! DEFINITION. Writes of the apertures and of the module control registers, halts of cores, trace control and monitors (R2, R23,
R24, R184, R245, R259, R286, R301, R304, R320, R325, R343, R351, R363, R365, R367, R369, R375, R376, R378, R383, R384, R388 to
R394). -/

namespace Sys2Proof.Machine

open Host (Outcome)

/-! ## Halt and resume (R383, R384) -/

/-- The core is held by a trap, a park or a suspension: a halt takes effect at once. -/
def heldAtOnce (c : Core) : Bool :=
  c.regs.out ≠ .off || c.regs.lim.parkFrom.isSome || (c.regs.run = .idle && !c.susp.isEmpty)

/-- A halt of core n is requested. -/
def requestHalt (n : Nat) (s : State) : State :=
  let c := s.core n
  if c.halt.halted then s
  else if heldAtOnce c then haltCore s n
  else s.modCore n (fun c => { c with halt := { c.halt with req := true } })

/-- Do something for each core of a die that a word names. -/
def eachCore (d : Nat) (v : Word) (f : Nat → State → State) (s : State) : State :=
  ((List.range 64).filter (fun c => v.getLsbD c)).foldl (fun s c => f (64 * d + c) s) s

def dbghaltWrite (d : Nat) (v : Word) (s : State) : State := eachCore d v requestHalt s

/-- The held clock is released; a core that is not halted is unaffected. -/
def resumeCore (n : Nat) (s : State) : State := s.modCore n (fun c => { c with halt := { c.halt with halted := false } })

def dbgresumeWrite (d : Nat) (v : Word) (s : State) : State := eachCore d v resumeCore s

def execDbgHaltRequest (d : DieId) (v : Word) (s : State) : Outcome State Fault Refusal := .next (dbghaltWrite d.toNat v s)
def execDbgResume (d : DieId) (v : Word) (s : State) : Outcome State Fault Refusal := .next (dbgresumeWrite d.toNat v s)

/-! ## Trace (R388 to R390) -/

def State.modTrace (s : State) (d : Nat) (f : Trace → Trace) : State := s.modDbg d (fun x => { x with trace := f x.trace })

/-- A write of TRCCTL: with en it arms, without it stops. -/
def trcctlWrite (d : Nat) (v : Word) (s : State) : State :=
  s.modTrace d (fun t =>
    let t1 := { t with
      wrap := v.getLsbD 1, start := BitVec.ofNat 4 (field v 4 4), stop := BitVec.ofNat 4 (field v 8 4)
      tcore := BitVec.ofNat 6 (field v 12 6), pend := [], hitStart := false, hitStop := false }
    if v.getLsbD 0 then { t1 with armed := true, state := 0, idx := 0, sampled := [] } else { t1 with armed := false, state := 2 })

def execTraceArm (d : DieId) (v : Word) (s : State) : Outcome State Fault Refusal :=
  .next (trcctlWrite d.toNat (v ||| 1) s)
def execTraceStop (d : DieId) (v : Word) (s : State) : Outcome State Fault Refusal :=
  .next (trcctlWrite d.toNat (v &&& ~~~1) s)

/-- A sample of core n at every per counts of CYCLE, once for each count. -/
def traceSample (n : Nat) (s : State) : State :=
  let d := n / 64
  let t := (s.dbgOf d).trace
  let c := (s.cycleOf n).toNat
  if t.per = 0 || c % t.per.toNat ≠ 0 || fget? t.sampled n = some c || !(t.mask.getLsbD (n % 64)) then s
  else traceRecord (s.modTrace d (fun t => { t with sampled := fset t.sampled n c })) n 1 (s.nextAddr n) 0

def execTraceSample (n : CoreId) (s : State) : Outcome State Fault Refusal := .next (traceSample n.toNat s)

/-- Source 5 of a die: CYCLE of tcore reaches val; e = 0 is the start source and e = 1 the stop source. -/
def cycleSource (d : Nat) (stop : Bool) (s : State) : State :=
  let t := (s.dbgOf d).trace
  let c := s.cycleOf (64 * d + t.tcore.toNat)
  if stop then (if t.stop = 5 && c = t.stopV then s.modTrace d (fun t => { t with hitStop := true }) else s)
  else if t.start = 5 && c = t.startV then s.modTrace d (fun t => { t with hitStart := true }) else s

def execTraceCycleReached (d : DieId) (e : BitVec 1) (s : State) : Outcome State Fault Refusal :=
  .next (cycleSource d.toNat (e = 1) s)

/-! ## Monitors (R392 to R394) -/

def State.modMon (s : State) (d m : Nat) (f : Mon → Mon) : State :=
  s.modDbg d (fun x => { x with mons := fset x.mons m (f (fget Mon.reset x.mons m)) })

def clearMon (m : Mon) : Mon :=
  { m with min := BitVec.allOnes 48, max := 0, cnt := 0, bins := Vector.replicate 16 0 }

/-- A write of MONCFG: a reserved source leaves en at 0, clr clears. -/
def moncfgWrite (d m : Nat) (v : Word) (s : State) : State :=
  let src := field v 0 5
  let en := 1 ≤ src && src ≤ 10 && v.getLsbD 12
  let cfg : BitVec 35 := (v.setWidth 35 &&& ~~~(0x5000 : BitVec 35)) ||| (if en then 0x1000 else 0)
  s.modMon d m (fun x => if v.getLsbD 14 then { clearMon x with cfg := cfg } else { x with cfg := cfg })

def execMonClear (d : DieId) (m : BitVec 6) (v : Word) (s : State) : Outcome State Fault Refusal :=
  .next (moncfgWrite d.toNat m.toNat (v ||| 0x4000) s)

def monWrite (d m o : Nat) (v : Word) (s : State) : State :=
  if o = 0 then moncfgWrite d m v s
  else s.modMon d m (fun x =>
    if o = 8 then { x with base := v.setWidth 48 }
    else if o = 0x10 then { x with min := v.setWidth 48 }
    else if o = 0x18 then { x with max := v.setWidth 48 }
    else if o = 0x20 then { x with cnt := v }
    else if 0x40 ≤ o ∧ o < 0x80 then
      { x with bins := vset (vset x.bins ((o - 0x40) / 4) (v.setWidth 32)) ((o - 0x40) / 4 + 1) (BitVec.ofNat 32 (field v 32 32)) }
    else x)

/-- Sources 2 and 3 of the cores of quad q, once for each count of CYCLE. -/
def monitorSample (q : Nat) (s : State) : State :=
  let c := (s.quad q).cycle.toNat
  if (s.quad q).monAt = some c then s
  else
    (List.range 4).foldl (fun s k =>
      let n := 4 * q + k
      let p := (s.core n).pipe
      let t := (s.core n).regs.id.tag
      monRecord (monRecord s (n / 64) 2 t (n % 64) p.lq.length) (n / 64) 3 t (n % 64) p.sq.length)
      (s.modQuad q (fun x => { x with monAt := some c }))

def execMonitorCycleSample (q : QuadId) (s : State) : Outcome State Fault Refusal := .next (monitorSample q.toNat s)

/-! ## The debug window of a die -/

def traceRegWrite (d o : Nat) (v : Word) (s : State) : State :=
  if o = 0x100 then trcctlWrite d v s
  else s.modTrace d (fun t =>
    if o = 0x108 then { t with startV := v }
    else if o = 0x110 then { t with stopV := v }
    else if o = 0x118 then { t with buf := BitVec.ofNat 52 (field v 12 40 * 4096) }
    else if o = 0x120 then { t with size := v.setWidth 32 }
    else if o = 0x128 then { t with mask := v }
    else if o = 0x130 then { t with per := v.setWidth 32 }
    else t)

/-- A write in the debug window but for DBGCMD; a command written while one runs sets cmderr 1 (R385). -/
def dbgWrite (d o : Nat) (v : Word) (s : State) : State :=
  if o = 0x00 then dbghaltWrite d v s
  else if o = 0x08 then dbgresumeWrite d v s
  else if 0x100 ≤ o ∧ o < 0x140 then traceRegWrite d o v s
  else if 0x1000 ≤ o ∧ o < 0x3000 then monWrite d ((o - 0x1000) / 128) (o % 128) v s
  else s.modDbg d (fun x =>
    if o = 0x18 then { x with sel := v.setWidth 6 }
    else if o = 0x20 then { x with cmderr := 1 }
    else if o = 0x28 then { x with data0 := v }
    else if o = 0x30 then { x with data1 := v }
    else if o = 0x38 then { x with cmderr := x.cmderr &&& ~~~(v.setWidth 3), brk := v.getLsbD 4 }
    else x)

/-! ## The module control registers -/

/-- Keep the bytes of old that en does not name. -/
def mergeBytes (old v : Word) (en : BitVec 8) : Word :=
  (List.range 8).foldl (fun x i => if en.getLsbD i then putByte x i (BitVec.ofNat 8 (field v (8 * i) 8)) else x) old

/-- The word that a partial write leaves its other bytes from: as read, without bits whose writing acts (log entry 21). -/
def mergeBase (s : State) (o : Nat) : Word :=
  if o = 0x1008 ∨ o = 0x2008 ∨ o = 0x3008 then ctlWord s o &&& 0x7FFFFFFFFFFFFFFF
  else if 0x20000 ≤ o ∧ o < 0x30000 ∧ o % 16 = 8 then 0
  else if 0x400000 ≤ o ∧ o % 0x10000 = 0x38 then ctlWord s o &&& ~~~(7 : Word)
  else if 0x400000 ≤ o ∧ o % 0x10000 < 0x10 then 0
  else ctlWord s o

def accWrite (o : Nat) (en : BitVec 8) (v : Word) (s : State) : State :=
  let put := fun (o : Nat) (x : BitVec 32) (s : State) =>
    if o / 0x4000 < 7 then { s with acctab := fset s.acctab (o / 0x4000 * 4096 + o % 0x4000 / 4) (x &&& 0x0FFFFFFF) } else s
  let s1 := if field en 0 4 ≠ 0 then put o (v.setWidth 32) s else s
  if field en 4 4 ≠ 0 then put (o + 4) (BitVec.ofNat 32 (field v 32 32)) s1 else s1

def poolWrite (t o : Nat) (v : Word) (s : State) : State :=
  let x := fget RsPool.reset s.rspool t
  let y := if o = 0 then { x with compact := v.getLsbD 0, base := field v 12 48 }
    else { x with npg := v.setWidth 16, used := BitVec.ofNat 16 (field v 16 16) }
  { s with rspool := fset s.rspool t y }

def recMask : Word := 0x000FFFFFFFFFFFC0

/-- A write of the whole word v at offset o, of which en names the bytes that were written; `ctrl` says that the module
controller writes. -/
def ctlPut (ctrl : Bool) (o : Nat) (en : BitVec 8) (v : Word) (s : State) : State :=
  if o = 0x1000 then { s with xshoot := { s.xshoot with w0 := v &&& 0x0FFFFFFFFFFFF03F } }
  else if o = 0x1008 then { s with xshoot := s.xshoot.put8 noBad (v &&& 0x8000000000001FFF) }
  else if o = 0x2000 then { s with ctxcmd := { s.ctxcmd with w0 := v &&& recMask } }
  else if o = 0x2008 then { s with ctxcmd := s.ctxcmd.put8 ctxBad v }
  else if o = 0x3000 then { s with qcmd := { s.qcmd with w0 := v &&& recMask } }
  else if o = 0x3008 then { s with qcmd := s.qcmd.put8 noBad (v &&& 0x8000000000001FFF) }
  else if 0x10000 ≤ o ∧ o < 0x20000 then poolWrite ((o - 0x10000) / 16) (o % 16) v s
  else if 0x20000 ≤ o ∧ o < 0x30000 then
    (if o % 16 = 8 then doorbell ((o - 0x20000) / 16) (some v) none s
     else if field en 0 4 ≠ 0 then doorbell ((o - 0x20000) / 16) none (some (v.setWidth 32)) s
     else s)
  else if 0x30000 ≤ o ∧ o < 0x34000 then irqcoalWrite ((o - 0x30000) / 8) v s
  else if 0x40000 ≤ o ∧ o < 0x48000 then { s with ctxbud := fset s.ctxbud ((o - 0x40000) / 8) (v.setWidth 53) }
  else if 0x50000 ≤ o ∧ o < 0x60000 then bportWrite ((o - 0x50000) / 8) v s
  else if 0x60000 ≤ o ∧ o < 0x60900 then (if o % 64 = 0 then lctlWrite ((o - 0x60000) / 64) v s else s)
  else if 0x70000 ≤ o ∧ o < 0x70400 then podwinWrite ((o - 0x70000) / 16) (o % 16 = 8) v s
  else if 0x80000 ≤ o ∧ o < 0x80800 then prouteWrite ((o - 0x80000) / 8) v s
  else if o = 0x80800 then podcfgWrite (v.setWidth 8) s
  else if 0xC0000 ≤ o ∧ o < 0xE0000 then (if ctrl then accWrite (o - 0xC0000) en v s else s)
  else if 0xE0000 ≤ o ∧ o < 0xE2000 then
    (if ctrl then { s with keyh := fset s.keyh ((o - 0xE0000) / 8) (v.setWidth 19) } else s)
  else if 0xE2000 ≤ o ∧ o < 0xE2100 then
    (let k := (o - 0xE2000) / 8
     { s with repcfg := fset s.repcfg k ((fget 0 s.repcfg k &&& 0xFFFF0000) ||| (v.setWidth 32 &&& 0xFFFF)) })
  else if 0x100000 ≤ o ∧ o < 0x385000 then (if o % 64 = 0 then bcfgWrite ((o - 0x100000) / 64) v s else s)
  else if 0x400000 ≤ o ∧ o < 0x600000 then dbgWrite ((o - 0x400000) / 0x10000) (o % 0x10000) v s
  else s

/-- A write of the bytes en of v to the aligned word at pa of an aperture. src is the source of an arrival (R343). -/
def devPut (ctrl : Bool) (src pa : Nat) (en : BitVec 8) (v : Word) (s : State) : State :=
  if en = 0 then s
  else if isEngine pa then chanWrite (chanOf pa) (pa % 0x10000) (mergeBytes (devWord s pa) v en) s
  else if isArrive pa then portWrite ((pa - arrBase) / 8) src s
  else ctlPut ctrl (pa - ctlBase) en (mergeBytes (mergeBase s (pa - ctlBase)) v en) s

def isDevice (pa : Nat) : Bool := isEngine pa || isArrive pa || isCtl pa

end Sys2Proof.Machine
end

