-- ==== Sys2Proof/Machine/Debug.lean ====
section
/-! DEFINITION. Abstract commands of the debug core, and the whole of a write to the apertures and control registers (R385). -/

namespace Sys2Proof.Machine

open Host (Outcome)

/-! ## Registers by number -/

/-- Word w of a vector, latch, mask or scale register. -/
def wordAt {n : Nat} (v : BitVec n) (w : Nat) : Word := BitVec.ofNat 64 (field v (64 * w) 64)
def putWord {n : Nat} (v : BitVec n) (w : Nat) (x : Word) : BitVec n :=
  BitVec.ofNat n (v.toNat - field v (64 * w) 64 * 2 ^ (64 * w) + x.toNat * 2 ^ (64 * w))

/-- The two words of a feed offset register. -/
def feedWord (f : Feed) (hi : Bool) : Word :=
  if hi then BitVec.ofNat 64 (f.st1.toNat + 2 ^ 32 * f.st2.toNat)
  else BitVec.ofNat 64 (f.addr.toNat + 2 ^ 32 * f.wrap.toNat + 2 ^ 44 * f.cnt.toNat)
def putFeed (f : Feed) (hi : Bool) (x : Word) : Feed :=
  if hi then { f with st1 := x.setWidth 20, st2 := BitVec.ofNat 20 (field x 32 20) }
  else { f with addr := x.setWidth 21, wrap := BitVec.ofNat 12 (field x 32 12), cnt := BitVec.ofNat 12 (field x 44 12) }

/-- Register r of core n. -/
def regRead (s : State) (n r : Nat) : Option Word :=
  let c := s.core n
  let g := c.regs
  let within := fun (lo k : Nat) => lo ≤ r && r < lo + k
  if r < 0x1000 then (if sysReadable r then some (sysRead s n c.pipe r) else none)
  else if within 0x1000 40 then some (vget g.task.s (r - 0x1000) 0)
  else if within 0x1040 4 then some (vget g.task.latch (r - 0x1040) 0)
  else if within 0x1080 40 then some (vget g.outr.s (r - 0x1080) 0)
  else if within 0x2000 1280 then some (wordAt (vget g.vec.v ((r - 0x2000) / 32) 0) ((r - 0x2000) % 32))
  else if within 0x2800 64 then some (wordAt (vget g.task.p ((r - 0x2800) / 4) 0) ((r - 0x2800) % 4))
  else if within 0x2900 128 then some (wordAt (vget g.vec.la ((r - 0x2900) / 32) 0) ((r - 0x2900) % 32))
  else if within 0x2980 128 then some (wordAt (vget g.vec.lb ((r - 0x2980) / 32) 0) ((r - 0x2980) % 32))
  else if r = 0x2A00 then some (g.loop.q.setWidth 64)
  else if within 0x2A08 8 then some (vget g.loop.b (r - 0x2A08) 0)
  else if within 0x2A10 16 then some (feedWord (vget g.feed ((r - 0x2A10) / 2) Feed.reset) (r % 2 = 1))
  else if within 0x2B00 256 then some (wordAt (vget g.scale ((r - 0x2B00) / 32) 0) ((r - 0x2B00) % 32))
  else none

/-- Write register r of core n, which exists. -/
def regPut (n r : Nat) (x : Word) (s : State) : State :=
  let within := fun (lo k : Nat) => lo ≤ r && r < lo + k
  let task := fun (f : Pipe → Pipe) => s.modCore n (fun c => c.modRegs (fun g => { g with task := f g.task }))
  let vec := fun (f : VecState → VecState) => s.modCore n (fun c => c.modRegs (fun g => { g with vec := f g.vec }))
  if r = 0x1F0 then mbreply n (field x 0 3) s
  else if r < 0x1000 then sysWrite n r x s
  else if within 0x1000 40 then task (fun p => { p with s := vset p.s (r - 0x1000) x })
  else if within 0x1040 4 then task (fun p => { p with latch := vset p.latch (r - 0x1040) x })
  else if within 0x1080 40 then
    s.modCore n (fun c => c.modRegs (fun g => { g with outr := { g.outr with s := vset g.outr.s (r - 0x1080) x } }))
  else if within 0x2000 1280 then
    vec (fun v => { v with v := vset v.v ((r - 0x2000) / 32) (putWord (vget v.v ((r - 0x2000) / 32) 0) ((r - 0x2000) % 32) x) })
  else if within 0x2800 64 then
    task (fun p => { p with p := vset p.p ((r - 0x2800) / 4) (putWord (vget p.p ((r - 0x2800) / 4) 0) ((r - 0x2800) % 4) x) })
  else if within 0x2900 128 then
    vec (fun v => { v with la := vset v.la ((r - 0x2900) / 32) (putWord (vget v.la ((r - 0x2900) / 32) 0) ((r - 0x2900) % 32) x) })
  else if within 0x2980 128 then
    vec (fun v => { v with lb := vset v.lb ((r - 0x2980) / 32) (putWord (vget v.lb ((r - 0x2980) / 32) 0) ((r - 0x2980) % 32) x) })
  else s.modCore n (fun c => c.modRegs (fun g =>
    if r = 0x2A00 then { g with loop := { g.loop with q := x.setWidth 8 } }
    else if within 0x2A08 8 then { g with loop := { g.loop with b := vset g.loop.b (r - 0x2A08) x } }
    else if within 0x2A10 16 then
      { g with feed := vset g.feed ((r - 0x2A10) / 2) (putFeed (vget g.feed ((r - 0x2A10) / 2) Feed.reset) (r % 2 = 1) x) }
    else if within 0x2B00 256 then
      let k := (r - 0x2B00) / 32
      { g with scale := vset g.scale k (scaleWords (putWord (vget g.scale k 0) ((r - 0x2B00) % 32) x).toNat) }
    else g))

/-! ## Commands (R385) -/

def cmdErr (d e : Nat) (s : State) : State := s.modDbg d (fun x => { x with cmderr := BitVec.ofNat 3 e })

/-- The command register after a command that asks for it: regno + 1. -/
def cmdIncr (d : Nat) (c : BitVec 32) (s : State) : State :=
  if c.getLsbD 19 then s.modDbg d (fun x => { x with cmd := (c &&& 0xFFFF0000) ||| ((c + 1) &&& 0xFFFF) }) else s

/-- The core that the commands of a die name. -/
def selCore (s : State) (d : Nat) : Nat := 64 * d + (s.dbgOf d).sel.toNat

/-- Access Register. -/
def accessRegister (d : Nat) (c : BitVec 32) (s : State) : State :=
  let n := selCore s d
  let r := field c 0 16
  if c.getLsbD 23 || field c 20 3 ≠ 3 || c.getLsbD 18 || !(c.getLsbD 17) then cmdErr d 2 s
  else match regRead s n r with
    | none => cmdErr d 2 s
    | some v =>
      if !(s.core n).halt.halted then cmdErr d 4 s
      else if c.getLsbD 16 then
        (if r < 0x1000 && !sysWritable r then cmdErr d 3 s else cmdIncr d c (regPut n r (s.dbgOf d).data0 s))
      else cmdIncr d c (s.modDbg d (fun x => { x with data0 := v }))

/-- The physical addresses of the bytes of an access by the debug core, or its error. -/
def dbgAddrs (s : State) (n : Nat) (virt wr : Bool) (a k : Nat) : List Nat ⊕ Nat :=
  if virt then
    let tag := (s.core n).regs.id.tag
    let look := fun (va : Nat) => walkRes tag va (if wr then 1 else 0) (walkRoot s tag va)
    if 2 ^ 60 < a + k then .inr 3
    else if (pagesOf a k).any (fun va => look va = none) then .inr 5
    else if (pagesOf a k).any (fun va => match look va with | some (.leaf _) => false | _ => true) then .inr 3
    else .inl ((List.range k).map (fun i => match look (a + i) with | some (.leaf l) => l.pa (a + i) | _ => 0))
  else .inl ((List.range k).map (fun i => a + i))

/-- The die whose DBGCMD lies at an aligned address. -/
def dbgcmdAt (pa : Nat) : Option Nat :=
  let o := pa - ctlBase
  if isCtl pa && 0x400000 ≤ o && o < 0x600000 && o % 0x10000 = 0x20 then some ((o - 0x400000) / 0x10000) else none

/-- Bytes written by the debug core: to an aperture by aligned words, of which a DBGCMD runs its command, elsewhere as they stand. -/
def dbgStore (run : Nat → BitVec 32 → State → State) (l : List (Nat × Byte)) (s : State) : State :=
  let ws := ((l.filter (fun e => isDevice e.1)).map (fun e => e.1 / 8)).eraseDups
  let s1 := l.foldl (fun s e =>
    if isDevice e.1 || (podOf s e.1).isSome then s
    else if isMail e.1 then mailPut (e.1 - mailBase) e.2 s
    else { s with mem := Memory.put s.mem e.1 e.2 }) s
  ws.foldl (fun s w =>
    let b := l.filter (fun e => e.1 / 8 = w)
    let en := b.foldl (fun m e => m ||| (1 <<< (e.1 % 8))) 0
    let v := b.foldl (fun v e => putByte v (e.1 % 8) e.2) 0
    match dbgcmdAt (8 * w) with
    | some d => run d ((mergeBytes (devWord s (8 * w)) v en).setWidth 32) s
    | none => devPut false 3 (8 * w) en v s) s1

/-- A byte as the debug core reads it: no containment tag hides it. -/
def dbgByte (s : State) (pa : Nat) : Byte :=
  if isDevice pa || isMail pa || (podOf s pa).isSome then busByte s 0 pa else Memory.get s.mem pa

/-- Access Memory. -/
def accessMemory (run : Nat → BitVec 32 → State → State) (d : Nat) (c : BitVec 32) (s : State) : State :=
  let n := selCore s d
  let k := 2 ^ field c 20 3
  let a := (s.dbgOf d).data1.toNat
  if 3 < field c 20 3 || field c 17 2 ≠ 0 || field c 0 16 ≠ 0 then cmdErr d 2 s
  else if c.getLsbD 23 && !(s.core n).halt.halted then cmdErr d 4 s
  else match dbgAddrs s n (c.getLsbD 23) (c.getLsbD 16) a k with
    | .inr e => cmdErr d e s
    | .inl pas =>
      if pas.any (fun pa => reservedPa s pa || poisoned s pa) then cmdErr d 5 s
      else
        let s1 := if c.getLsbD 16 then
            dbgStore run (pas.zipIdx.map (fun e => (e.1, BitVec.ofNat 8 (field (s.dbgOf d).data0 (8 * e.2) 8)))) s
          else
            { s.modDbg d (fun x => { x with data0 := BitVec.ofNat 64 (leNat (pas.map (dbgByte s))) }) with fresh := s.fresh + 2 ^ 52 }
        if c.getLsbD 19 then s1.modDbg d (fun x => { x with data1 := x.data1 + BitVec.ofNat 64 k }) else s1

/-- A write of DBGCMD runs the command, while some dies are busy with theirs: for one of those it is dropped, with cmderr 1. -/
def dbgcmdRun : Nat → List Nat → Nat → BitVec 32 → State → State
  | 0, _, _, _, s => s
  | f + 1, busy, d, c, s =>
    if busy.contains d then cmdErr d 1 s
    else
      let s1 := s.modDbg d (fun x => { x with cmd := c })
      if field c 24 8 = 0 then accessRegister d c s1
      else if field c 24 8 = 2 then accessMemory (dbgcmdRun f (d :: busy)) d c s1
      else cmdErr d 2 s1

/-- A write of DBGCMD by another master: the module has 32 dies. -/
def dbgcmdWrite (d : Nat) (c : BitVec 32) (s : State) : State := dbgcmdRun 33 [] d c s

/-- An Access Register command is written. -/
def execDbgAccessRegister (d : DieId) (c : BitVec 32) (s : State) : Outcome State Fault Refusal :=
  .next (dbgcmdWrite d.toNat (c &&& 0x00FFFFFF) s)
/-- An Access Memory command is written. -/
def execDbgAccessMemory (d : DieId) (c : BitVec 32) (s : State) : Outcome State Fault Refusal :=
  .next (dbgcmdWrite d.toNat ((c &&& 0x00FFFFFF) ||| 0x02000000) s)

/-! ## The whole of a write -/

/-- A write of the bytes en of v to the aligned word at pa of an aperture or of the control registers. -/
def devWrite (ctrl : Bool) (src pa : Nat) (en : BitVec 8) (v : Word) (s : State) : State :=
  match dbgcmdAt pa with
  | some d => if en = 0 then s else dbgcmdWrite d ((mergeBytes (devWord s pa) v en).setWidth 32) s
  | none => devPut ctrl src pa en v s

/-- Write bytes of physical space with tag t: apertures by aligned words, other space as memory. -/
def busWrite (ctrl : Bool) (src t : Nat) (l : List (Nat × Byte)) (s : State) : State :=
  let dev := l.filter (fun e => isDevice e.1)
  let ws := (dev.map (fun e => e.1 / 8)).eraseDups
  let s1 := memWrite t (l.filter (fun e => !isDevice e.1)) s
  ws.foldl (fun s w =>
    let b := dev.filter (fun e => e.1 / 8 = w)
    devWrite ctrl src (8 * w) (b.foldl (fun m e => m ||| (1 <<< (e.1 % 8))) 0) (b.foldl (fun v e => putByte v (e.1 % 8) e.2) 0) s) s1

end Sys2Proof.Machine
end

