-- ==== Sys2Proof/Machine/Perform.lean ====
section
/-! DEFINITION. Requests of the load and store queues as memory performs them: replies, stores, atomics and waits (R133, R137 to
R150, R185, R189, R190, R229, R249, R305, R347, R352, R353, R370, R372, R397, R398). -/

namespace Sys2Proof.Machine

open Host (Outcome)

/-! ## Units of a request -/

/-- The open units that an event names: unit j by bit j, or of more than 32 units in 32 equal parts; bit 32 names every one. -/
def Req.named {α : Type} (r : Req α) (units : BitVec 33) : List Nat :=
  r.todo.filter (fun j => units.getLsbD 32 || units.getLsbD (if r.n ≤ 32 then j else j * 32 / r.n))

def State.modPipeOf (s : State) (n : Nat) (o : Bool) (f : Pipe → Pipe) : State := s.modCore n (fun c => c.modPipeOf o f)

def State.modLoad (s : State) (n : Nat) (o : Bool) (i : Nat) (f : Req LdOp → Req LdOp) : State :=
  s.modPipeOf n o (fun p => { p with lq := p.lq.modify i f })
def State.modStore (s : State) (n : Nat) (o : Bool) (i : Nat) (f : Req StOp → Req StOp) : State :=
  s.modPipeOf n o (fun p => { p with sq := p.sq.modify i f })

def State.tagOf (s : State) (n : Nat) : Nat := (s.core n).regs.id.tag

/-- A line has a place in the L1 of 1,024 lines (R20, R140). -/
def l1Put (n line : Nat) (v : L1Line) (s : State) : State :=
  { s.modL1 n (fun l => fset (if l.length < 1024 then l else l.eraseIdx (victim s % l.length)) line v) with fresh := s.fresh + 1 }
def l1Fill (n line : Nat) (s : State) : State :=
  l1Put n line (.here (BitVec.ofNat 1024 (busRead s (s.tagOf n) (line * 128) 128))) s

/-- A store updates the copy that the storing core's own L1 holds (R140); a copy still on its way may be older, and is not kept
(R229). -/
def l1Store (n pa : Nat) (b : Byte) (s : State) : State :=
  s.modL1 n (fun l =>
    match fget? l (pa / 128) with
    | none => l
    | some (.coming _) => fdel l (pa / 128)
    | some (.here v) => fset l (pa / 128) (.here (BitVec.ofNat 1024
        (v.toNat - field v (8 * (pa % 128)) 8 * 2 ^ (8 * (pa % 128)) + b.toNat * 2 ^ (8 * (pa % 128))))))

/-! ## Loads (R133, R137, R140, R141) -/

/-- Scope of the acquire that a load performs, if it is one. -/
def LdOp.acqScope : LdOp → Option Nat
  | .acq c => some c
  | .wait _ c _ => some c
  | .stamp => some 3
  | _ => none

/-- An acquire wider than core empties the L1 first. -/
def openAcquire (n : Nat) (scope : Option Nat) (s : State) : State :=
  match scope with
  | some (_ + 1) => s.modL1 n (fun _ => [])
  | _ => s

/-- The bytes by which a fault routine emulates an access count as accesses of the trapping syllable: an access of an outrider
waits for what the task's accesses, parked ones apart, would make that syllable wait for (R234). -/
def taskFirst (c : Core) (o isStore : Bool) (pa n : Nat) : Bool :=
  let p := c.regs.task
  !o || inOrder { p with lq := p.lq.filter (fun r => r.park.isNone), sq := p.sq.filter (fun r => r.park.isNone), wq := [] }
    isStore (2 * p.bn) pa n

/-- An access of key k of core n to bytes [pa, pa + len) may be performed now. -/
def mayAccess (s : State) (n : Nat) (o isStore : Bool) (k pa len : Nat) : Bool :=
  !isPaused s pa && mayPerform ((s.core n).pipeOf o) isStore k pa len && taskFirst (s.core n) o isStore pa len

/-- A request for the line of pa has been sent since s0: its reply is to fill the L1 (R368). -/
def awaitCopy (n pa : Nat) (w : PodWho) (s0 s : State) : State :=
  match s0.podreqs.find? (fun r => r.who = w), s.podreqs.find? (fun r => r.who = w) with
  | none, some q => l1Put n (pa / 128) (.coming q.tid) s
  | _, _ => s

/-- Unit j of a load of another module: a request, then its reply, which has filled the L1 as it arrived (R231, R368). -/
def podLoad (n : Nat) (o : Bool) (i j : Nat) (r : Req LdOp) (s : State) : State :=
  let pa := r.units.getD j 0
  let w := PodWho.access n o false r.id j
  match podAccess w (s.tagOf n) 0 pa s with
  | (none, s1) => if r.op = .plain then awaitCopy n pa w s s1 else s1
  | (some f, s1) =>
    if Config.flitRefused f then s1.modLoad n o i (Req.refuse j)
    else (if r.op = .plain then s1 else dropCopy n pa s1).modLoad n o i (fun r => r.put j (replyBytes f pa r.ulen))

/-- The value of unit j: from the core's own L1 where it holds the line, else from the home, filling the L1. -/
def loadUnit (n : Nat) (o : Bool) (i j : Nat) (s : State) : State :=
  match ((s.core n).pipeOf o).lq[i]? with
  | none => s
  | some r =>
    let pa := r.units.getD j 0
    if !r.todo.contains j || !mayAccess s n o false (keyL r) pa r.ulen then s
    else if poisoned s pa then killCtx (s.tagOf n) s
    else
      let s1 := openAcquire n r.op.acqScope s
      let cached := r.op = .plain && hasHome pa
      match (if cached then l1Get (s1.core n).cache.l1 (pa / 128) else none) with
      | some v => s1.modLoad n o i (fun r => r.put j (field v (8 * (pa % 128)) (8 * r.ulen)))
      | none =>
        if (podOf s pa).isSome then podLoad n o i j r s1
        else
          let v := busRead s1 (s.tagOf n) pa r.ulen
          (if cached then l1Fill n (pa / 128) s1 else dropCopy n pa s1).modLoad n o i (fun r => r.put j v)

/-- A request's entry has its data, and the request leaves the load queue. -/
def endLoad (n : Nat) (o : Bool) (i : Nat) (r : Req LdOp) (v : Vec) (s : State) : State :=
  s.modPipeOf n o (fun p =>
    { p with
      lq := p.lq.eraseIdx i
      ldq := p.ldq.map (fun e => if r.entry = some e.id && e.fixed.isNone && !e.got then { e with got := true, val := v } else e) })

/-- A load all of whose units have their value delivers it. -/
def tryEndLoad (n : Nat) (o : Bool) (i : Nat) (s : State) : State :=
  match ((s.core n).pipeOf o).lq[i]? with
  | none => s
  | some r => if r.todo.isEmpty then endLoad n o i r (deliver r.how r.val.toNat) s else s

/-! ### Fills of window slots (R253, R254, R257) -/

/-- Line k of the fill of slot j of window w, in place i of a load queue: read at its home, it fails the slot where its data is
uncorrectable or its home refuses it (R253, R368). -/
def fillLine (n : Nat) (o : Bool) (i w j k : Nat) (s : State) : State :=
  match ((s.core n).pipeOf o).lq[i]? with
  | none => s
  | some r =>
    let pa := r.units.getD k 0
    let put := fun (read : Nat → Byte) (s : State) =>
      atCore n (fillBytes w j k read) (s.modLoad n o i (fun r => { r with todo := r.todo.filter (fun x => x ≠ k) }))
    if r.op ≠ .fill w j || r.units.isEmpty || !r.todo.contains k || !mayAccess s n o false (keyL r) pa 128 then s
    else if poisoned s pa then atCore n (endFill w j .failed) s
    else if (podOf s pa).isSome then
      (match podAccess (.access n o false r.id (64 + 32 * (256 * w + j) + k)) (s.tagOf n) 0 pa s with
       | (none, s1) => s1
       | (some f, s1) =>
         if Config.flitRefused f then atCore n (endFill w j .failed) s1
         else put (fun x => BitVec.ofNat 8 (replyBytes f (pa + x) 1)) s1)
    else put (fun x => memByte s s.fresh (s.tagOf n) (pa + x)) s

/-- A fill all of whose lines are in leaves its slot resident. -/
def tryEndFill (n : Nat) (o : Bool) (i w j : Nat) (s : State) : State :=
  match ((s.core n).pipeOf o).lq[i]? with
  | none => s
  | some r => if r.op = .fill w j && r.todo.isEmpty then atCore n (endFill w j .resident) s else s

/-- Some lines of a fill are read. -/
def readLines (n : Nat) (o : Bool) (i w j : Nat) (ks : List Nat) (s : State) : State :=
  tryEndFill n o i w j (ks.foldl (fun s k => fillLine n o i w j k s) s)

/-- The fill of slot j of window w of core n is performed as far as it may be: the slot becomes resident, missing or failed. -/
def fillDone (n w j : Nat) (s : State) : State :=
  let place := fun (s : State) => [false, true].findSome? (fun o =>
    let p := (s.core n).pipeOf o
    (p.lq.findIdx? (fun r => r.op = .fill w j)).bind (fun i => if hasEntry p isFill p.lq i then some (o, i) else none))
  match place s with
  | none => s
  | some (o, i) =>
    match ((s.core n).pipeOf o).lq[i]? with
    | none => s
    | some r =>
      let s1 := atCore n (fillWalk w j r) s
      match place s1 with
      | none => s1
      | some (o, i) => readLines n o i w j (List.range 32) s1

def execWindowFillDone (n : CoreId) (w : BitVec 3) (g : BitVec 9) (s : State) : Outcome State Fault Refusal :=
  .next (fillDone n.toNat w.toNat g.toNat s)

/-! ### Waits (R146) -/

def waitHolds (ne : Bool) (cmp v : Nat) : Bool := if ne then v ≠ cmp else v = cmp

/-- The limit of a wait has passed (R146). -/
def late (s : State) (n : Nat) (r : Req LdOp) : Bool :=
  let l := (s.core n).regs.lim.waitlim.toNat
  l ≠ 0 && r.since + l * usec ≤ s.now

/-- A word read by a wait is tested: where the condition holds it is delivered as by an acquire; past the limit it is delivered as
it stands. -/
def waitRead (n : Nat) (o : Bool) (i : Nat) (r : Req LdOp) (ne : Bool) (c cmp pa v : Nat) (s : State) : State :=
  if waitHolds ne cmp v then endLoad n o i r (deliver r.how v) (openAcquire n (some c) (dropCopy n pa s))
  else if late s n r then endLoad n o i r (deliver r.how v) (dropCopy n pa s)
  else s

/-- Read the word of a wait and test it. -/
def testWait (n : Nat) (o : Bool) (i : Nat) (s : State) : State :=
  match ((s.core n).pipeOf o).lq[i]? with
  | none => s
  | some r =>
    match r.op with
    | .wait ne c cmp =>
      let pa := r.units.getD 0 0
      if r.park.isSome || !mayAccess s n o false (keyL r) pa r.ulen then s
      else if poisoned s pa then killCtx (s.tagOf n) s
      else if (podOf s pa).isSome then
        (match podAccess (.access n o false r.id 0) (s.tagOf n) 0 pa s with
         | (none, s1) => s1
         | (some f, s1) =>
           if Config.flitRefused f then s1.modLoad n o i (Req.refuse 0)
           else waitRead n o i r ne c cmp pa (replyBytes f pa r.ulen) s1)
      else waitRead n o i r ne c cmp pa (busRead s (s.tagOf n) pa r.ulen) s
    | _ => s

/-- The waits on the line of pa, by core, pipelines and place; from the last place of each queue on, since a wait that ends
leaves it. -/
def waitsOn (s : State) (pa : Nat) : List (Nat × Bool × Nat) :=
  (s.cores.map (fun c => [false, true].map (fun o =>
    ((((c.2.pipeOf o).lq.zipIdx).filter (fun e =>
      (match e.1.op with | .wait _ _ _ => true | _ => false) && e.1.park.isNone && e.1.units.getD 0 0 / 128 = pa / 128)).map
        (fun e => (c.1, o, e.2))).reverse))).flatten.flatten

/-- The name of a wait in `polled`. -/
def waitKey (n : Nat) (o : Bool) (id : Nat) : Nat := n + 2 ^ 11 * (2 * id + o.toNat)

/-- The waits of the module by their names, with their lines. -/
def liveWaits (s : State) : List (Nat × Nat) :=
  (s.cores.map (fun c => [false, true].map (fun o =>
    ((c.2.pipeOf o).lq.filter (fun r => (match r.op with | .wait _ _ _ => true | _ => false) && r.park.isNone)).map
      (fun r => (waitKey c.1 o r.id, r.units.getD 0 0 / 128))))).flatten.flatten

/-- The line has a monitor armed and a wait on it. -/
def monitored (s : State) (pa : Nat) : Bool :=
  s.monitors.contains (pa / 128) && (liveWaits s).any (fun w => w.2 = pa / 128)

/-- A wait has read its word at the home of pa, which arms a monitor on the line while one of the slice's 64 is free; those of lines
without a wait are. A line of another module has its monitor there (R353, R368). -/
def noteTest (key pa : Nat) (s : State) : State :=
  let live := liveWaits s
  let ms := s.monitors.filter (fun l => live.any (fun w => w.2 = l))
  { s with
    polled := fset (s.polled.filter (fun e => live.any (fun w => w.1 = e.1))) key s.now
    monitors := if ms.contains (pa / 128) || (podOf s pa).isSome || !live.any (fun w => w.2 = pa / 128) ||
        64 ≤ (ms.filter (fun l => homeOf (128 * l) = homeOf pa)).length then ms else ms ++ [pa / 128] }

/-- Request i of the load queue reads its word, and the home takes note of it. -/
def readWait (n : Nat) (o : Bool) (i : Nat) (r : Req LdOp) (s : State) : State :=
  noteTest (waitKey n o r.id) (r.units.getD 0 0) (testWait n o i s)

def testWaits (pa : Nat) (s : State) : State :=
  if monitored s pa then (waitsOn s pa).foldl (fun s e => testWait e.1 e.2.1 e.2.2 s) s else s

/-- A write to a monitored line. -/
def execWaitMonitorWrite (pa : Pa) (s : State) : Outcome State Fault Refusal := .next (testWaits pa.toNat s)
/-- A snoop of a monitored line of host memory: the home reads the line again (R352). -/
def execHostSnoop (pa : Pa) (s : State) : Outcome State Fault Refusal := .next (if isHost pa.toNat then testWaits pa.toNat s else s)

/-- A wait whose line has no monitor reads its word again, 1 µs after it last has (R353). -/
def pollWait (n : Nat) (o : Bool) (i : Nat) (s : State) : State :=
  match ((s.core n).pipeOf o).lq[i]? with
  | none => s
  | some r =>
    match r.op, fget? s.polled (waitKey n o r.id) with
    | .wait _ _ _, some t => if t + usec ≤ s.now && !monitored s (r.units.getD 0 0) then readWait n o i r s else s
    | _, _ => s

def execWaitPollTick (n : CoreId) (i : BitVec 6) (s : State) : Outcome State Fault Refusal :=
  let (o, j) := (s.core n.toNat).lqPlace i.toNat
  .next (pollWait n.toNat o j s)

/-- The limit of a wait passes. -/
def waitTimeout (n : Nat) (o : Bool) (i : Nat) (s : State) : State :=
  match ((s.core n).pipeOf o).lq[i]? with
  | none => s
  | some r => if late s n r then testWait n o i s else s

def execWaitTimeout (n : CoreId) (i : BitVec 6) (s : State) : Outcome State Fault Refusal :=
  let (o, j) := (s.core n.toNat).lqPlace i.toNat
  .next (waitTimeout n.toNat o j s)

/-! ### Probes and page requests (R150, R249, R275, R397, R398) -/

/-- The word of a leaf: its physical address, level, and what it lets the context do; where it cannot be read, reason 3. -/
def leafWord (l : Leaf) (lvl va : Nat) : Nat :=
  let e := l.entry.toNat
  let x := l.pa va + 2 ^ 52 * lvl + 2 ^ 55 * b2n (isRes e) + 2 ^ 56 * bitsN e 3 1 + 2 ^ 57 * bitsN e 4 1
  if bitsN e 2 1 = 1 then x else x + 2 ^ 63 + 2 ^ 58 * 3

/-- The level of a cached leaf. -/
def Leaf.level (l : Leaf) : Nat := if l.size = 18 then 3 else if l.size = 9 then 4 else 5

/-- The word of a walk. -/
def walkWord (tag va : Nat) (w : WalkOut) : Nat :=
  let bad := fun (why : Nat) => 2 ^ 63 + 2 ^ 58 * why + 2 ^ 52 * w.lvl + w.ent
  match w.fin with
  | .poisoned => bad 5
  | .malformed => bad 2
  | .invalid => bad 1
  | .leaf => leafWord (leafOf tag va w) w.lvl va

/-- An `xlat` probe of core n translates as a read would: by a cached leaf, or by a walk that enters what it passes (R150, R242);
it reports a poisoned entry and consumes none (R398). -/
def probe (n va : Nat) (s : State) : Nat × State :=
  let c := s.core n
  let tag := c.regs.id.tag
  if 2 ^ 60 ≤ va then (2 ^ 63 + 2 ^ 58 * 4 + 2 ^ 52 * field (Config.freeVec s.fresh) 0 3, { s with fresh := s.fresh + 1 })
  else match (c.cache.dtlb ++ (s.quad (n / 4)).l2tlb).find? (fun l => l.hits tag va && kindOk l.entry 0) with
    | some l => (leafWord l l.level va, s)
    | none =>
      let (out, s1) := coreWalk n false va (noteWalk n (s.cycleOf n) s)
      (walkWord tag va out, if out.fin = .poisoned then s1 else (walkEnds n tag false va 0 none out s1).2)

/-- The next page of a `preq` is posted, once its mailbox has room or a record to merge it in. -/
def preqPost (n : Nat) (o : Bool) (i : Nat) (r : Req LdOp) (last : Nat) (s : State) : State :=
  let page := r.va.toNat
  let q := s.quad (n / 4)
  let tag := s.tagOf n
  if q.pageReq.length < 64 || q.pageReq.any (fun y => y.page = page && y.tag = tag) then
    let s1 := postPage (n / 4) ⟨page, 4, tag, n⟩ s
    if last ≤ page then s1.modPipeOf n o (fun p => { p with lq := p.lq.eraseIdx i })
    else s1.modLoad n o i (fun r => { r with va := r.va + 1 })
  else s

/-- A prefetch brings its line to its home, and into the L1 if asked. -/
def prefetched (n : Nat) (o : Bool) (i : Nat) (r : Req LdOp) (intoL1 : Bool) (s : State) : State :=
  let pa := r.units.getD 0 0
  let s1 := s.modPipeOf n o (fun p => { p with lq := p.lq.eraseIdx i })
  if intoL1 && !poisoned s pa && (podOf s pa).isNone then l1Fill n (pa / 128) s1 else s1

/-- A reply to request i of core n. -/
def loadReply (n : Nat) (o : Bool) (i : Nat) (units : BitVec 33) (s : State) : State :=
  match ((s.core n).pipeOf o).lq[i]? with
  | none => s
  | some r =>
    if r.park.isSome || r.due.isSome then s
    else match r.op with
      | .partner _ => s
      | .fill w j => if hasEntry ((s.core n).pipeOf o) isFill ((s.core n).pipeOf o).lq i then readLines n o i w j (r.named units) s else s
      | .wait _ _ _ => if (fget? s.polled (waitKey n o r.id)).isNone then readWait n o i r s else s
      | .xlat =>
        let (w, s1) := probe n r.va.toNat s
        endLoad n o i r (natVec w) s1
      | .preq last => preqPost n o i r last s
      | .pf intoL1 => prefetched n o i r intoL1 s
      | _ => tryEndLoad n o i ((r.named units).foldl (fun s j => loadUnit n o i j s) s)

def execLoadReply (n : CoreId) (i : BitVec 6) (units : BitVec 33) (s : State) : Outcome State Fault Refusal :=
  let (o, j) := (s.core n.toNat).lqPlace i.toNat
  .next (loadReply n.toNat o j units s)

/-! ## Stores (R138, R139, R145, R147, R148) -/

/-- Every earlier store of the core is performed. -/
def storesBefore (p : Pipe) (i : Nat) : Bool :=
  (p.sq.take i).all (fun x => !x.open' || !(x.op.isMemStore || x.op.isMail))

/-- The entry leaves the store queue, and with it its entry of the load queue. -/
def endStore (n : Nat) (o : Bool) (i : Nat) (r : Req StOp) (s : State) : State :=
  s.modPipeOf n o (fun p =>
    { p with sq := p.sq.eraseIdx i, lq := p.lq.filter (fun x => x.op ≠ .partner r.id) })

/-- Every access and write of the pipelines before a store-queue entry is performed: what a release to a barrier waits for (R236,
R347). -/
def releases (c : Core) (o : Bool) (r : Req StOp) : Bool :=
  let p := c.pipeOf o
  allBefore p (keyW r) && writesDone p r.bn && c.olds.isEmpty

/-- Unit j of a store to another module: a request, then its acknowledgement (R368, R371). `done` is what its end leaves. -/
def podStore (n : Nat) (o : Bool) (i j kind : Nat) (r : Req StOp) (done : Flit → State → State) (s : State) : State :=
  match podAccess (.access n o true r.id j) (s.tagOf n) kind (r.units.getD j 0) s with
  | (none, s1) => s1
  | (some f, s1) => if Config.flitRefused f then s1.modStore n o i (Req.refuse j) else done f s1

/-- Bytes that a core has stored to host memory, which the host may not see yet: as they were before (R356; log entry 145). -/
def noteHost (n : Nat) (l : List (Nat × Byte)) (s0 s : State) : State :=
  { s with hostlag := s.hostlag ++ (l.filter (fun e => !s.hostlag.any (fun x => x.2.1 = e.1))).map (fun e => (n, e.1, dbgByte s0 e.1)) }

/-- A fence or release at `sys` of core n is performed, and its earlier stores with it (R238, R356). -/
def sysDone (n : Nat) (scope : Nat) (s : State) : State :=
  if scope = 5 && !s.hostlag.isEmpty then { s with hostlag := s.hostlag.filter (fun e => e.1 ≠ n) } else s

/-- Unit j of a store is performed: its bytes are at their home and in the core's own L1 copy. -/
def storeUnit (n : Nat) (o : Bool) (i j : Nat) (s : State) : State :=
  match ((s.core n).pipeOf o).sq[i]? with
  | none => s
  | some r =>
    let pa := r.units.getD j 0
    if !r.todo.contains j || !mayAccess s n o true (keyW r) pa r.ulen || (isArrive pa && !releases (s.core n) o r) then s
    else
      let l := bytesOf (field r.val (8 * r.ulen * j) (8 * r.ulen)) r.ulen (fun k => pa + k)
      let own := fun (s : State) =>
        l.foldl (fun s e => l1Store n e.1 e.2 s) (s.modStore n o i (fun r => { r with todo := r.todo.filter (fun k => k ≠ j) }))
      if (podOf s pa).isSome then podStore n o i j 1 r (fun _ s => own s) s
      else if isHost pa then noteHost n l s (busWrite false 3 (s.tagOf n) l (own s))
      else if r.op = .nt && inMemory pa then { busWrite false 3 (s.tagOf n) l (own s) with dirty := s.dirty }
      else busWrite false 3 (s.tagOf n) l (own s)

/-- The lines that a store writes whole; a write-back writes the dirty bytes alone. -/
def wholeOf (r : Req StOp) : List Nat :=
  let us : List Nat := match r.op with
    | .winwb _ _ _ m => (r.units.zipIdx.filter (fun (e : Nat × Nat) => m.getLsbD e.2)).map (fun (e : Nat × Nat) => e.1)
    | _ => r.units
  wholeLines ((us.map (fun u => (List.range r.ulen).map (fun k => u + k))).flatten)

/-- A store all of whose units are performed is acknowledged; lines it wrote whole are cured. -/
def tryEndStore (n : Nat) (o : Bool) (i : Nat) (s : State) : State :=
  match ((s.core n).pipeOf o).sq[i]? with
  | none => s
  | some r =>
    if r.park.isNone && r.todo.isEmpty && (r.op ≠ .rel 0 || allBefore ((s.core n).pipeOf o) (keyW r)) then
      sysDone n (match r.op with | .rel c => c | _ => 0) (endStore n o i r (if s.poison.isEmpty then s else cleanLines (wholeOf r) s))
    else s

/-- A discard: the line reads as zeros, is cured, and is never written back (R147). -/
def discardLine (n pa : Nat) (s : State) : State :=
  let tag := s.tagOf n
  let l := bytesOf 0 128 (fun k => pa + k)
  let s1 := cleanLines [pa / 128] (memWrite tag l (l.foldl (fun s e => l1Store n e.1 e.2 s) s))
  { s1 with dirty := s1.dirty.filter (fun x => x ≠ pa / 128) }

/-- The whole line of a request that acts on one. -/
def lineTurn (s : State) (n : Nat) (o : Bool) (r : Req StOp) : Bool :=
  r.park.isNone && mayAccess s n o true (keyW r) (r.units.getD 0 0) 128

/-- An arrival leaves its core (R347). -/
def sendArrive (n name j : Nat) (r : Req StOp) (s : State) : State :=
  let g := (s.core n).regs.id
  { s with arrivals := s.arrivals ++
    [⟨.arrival, name, g.tag, 0, n, field r.val 64 16, r.va, some g.node, some (j, field r.val 0 64), none, s.podmod.toNat, none⟩] }

/-- A doorbell write of a core: dropped at a queue of another tag, and counted (R305). -/
def ringBell (n q : Nat) (wake : Bool) (v : Word) (s : State) : State :=
  let x := s.queue q
  if x.st ≠ .undefined && x.tag ≠ s.tagOf n then refuseAt n s
  else if wake then doorbell q (some v) none s
  else doorbell q none (some (v.setWidth 32)) s

/-- An `apw` reaches its channel (R185, R196). -/
def apwDone (n : Nat) (o : Bool) (i : Nat) (r : Req StOp) (s : State) : State :=
  let pa := r.units.getD 0 0
  let c := chanOf pa
  let tag := s.tagOf n
  if !engineTurn ((s.core n).pipeOf o) i r then s
  else if (s.chan c).tag ≠ tag || !hasRight s tag 0 3 1 then refuseAt n (endStore n o i r s)
  else if 0x200 ≤ pa % 0x10000 && pa % 0x10000 < 0x280 && shadowBusy (s.chan c) then s
  else chanWrite c (pa % 0x10000) (vecWord r.val) (endStore n o i r s)

/-- Request i of the store queue of core n is performed, or some units of it. -/
def storePerformed (n : Nat) (o : Bool) (i : Nat) (units : BitVec 33) (s : State) : State :=
  let p := (s.core n).pipeOf o
  match p.sq[i]? with
  | none => s
  | some r =>
    if !sent p (keyW r) || !hasEntry p isBack p.sq i then s else
    let done := endStore n o i r s
    match r.op with
    | .plain | .nt | .rel _ | .winwb _ _ _ _ =>
      if r.park.isSome then s else tryEndStore n o i ((r.named units).foldl (fun s j => storeUnit n o i j s) s)
    | .wb =>
      if lineTurn s n o r then { done with dirty := done.dirty.filter (fun x => x ≠ r.units.getD 0 0 / 128) } else s
    | .inv => if lineTurn s n o r then dropCopy n (r.units.getD 0 0) done else s
    | .discard =>
      if lineTurn s n o r then
        (let pa := r.units.getD 0 0
         if (podOf s pa).isSome then podStore n o i 0 1 r (fun _ s => discardLine n pa (endStore n o i r s)) s
         else discardLine n pa done)
      else s
    | .mark => if allBefore p (keyW r) then done else s
    | .fence c => if allBefore p (keyW r) then sysDone n c done else s
    | .amo _ _ _ _ _ _ _ | .go _ _ _ => s
    | .apw => apwDone n o i r s
    | .mailw c m => if storesBefore p i && inOrderPlain p (keyW r) then mailSet c m (vecWord r.val) done else s
    | .tkset mask => if storesBefore p i && inOrderPlain p (keyW r) then setTokens n mask done else s
    | .arrive _ name j => if releases (s.core n) o r then sendArrive n name j r done else s
    | .ring wake q => if storesBefore p i && inOrderPlain p (keyW r) then ringBell n q wake (vecWord r.val) done else s

def execStorePerformed (n : CoreId) (i : BitVec 6) (units : BitVec 33) (s : State) : Outcome State Fault Refusal :=
  let (o, j) := (s.core n.toNat).sqPlace i.toNat
  .next (storePerformed n.toNat o j units s)

/-! ## Atomics (R143, R144) -/

/-- The new value of an atomic: op 0 add, 1 and, 2 or, 3 xor, 4 min, 5 max, 6 swap; type 4 is f32. -/
def atomicNew (op ty old b : Nat) : Nat :=
  let n := amoWidth ty
  if ty = 4 ∧ (op = 0 ∨ op = 4 ∨ op = 5) then
    let x := fpVal f32 old
    let y := fpVal f32 b
    toFp f32 0 (if op = 0 then fAdd x y else if op = 4 then fMin x y else fMax x y)
  else
    let less := if ty = 0 ∨ ty = 2 then sextN old n < sextN b n else old < b
    match op with
    | 0 => (old + b) % 2 ^ n
    | 1 => old &&& b
    | 2 => old ||| b
    | 3 => old ^^^ b
    | 4 => if less then old else b
    | 5 => if less then b else old
    | _ => b

/-- An atomic executes at its home. -/
def atomicExecute (n : Nat) (o : Bool) (i : Nat) (s : State) : State :=
  let p := (s.core n).pipeOf o
  match p.sq[i]? with
  | none => s
  | some r =>
    match r.op with
    | .amo op ty ret b cas acq rel =>
      let pa := r.units.getD 0 0
      let w := amoWidth ty / 8
      let tag := s.tagOf n
      if r.park.isSome || !mayAccess s n o true (keyW r) pa w ||
          (match rel with | some (_ + 1) => !allBefore p (keyW r) | _ => false) then s
      else if poisoned s pa then killCtx tag s
      else
        let done := fun (old : Nat) (s : State) =>
          let new := match cas with
            | some e => if old = e then b else old
            | none => atomicNew op ty old b
          let s1 := openAcquire n acq (dropCopy n pa (endStore n o i r s))
          let s2 := memWrite tag (bytesOf new w (fun k => pa + k)) s1
          match ret with
          | some m => s2.modCore n (fun c => { c with olds := fset c.olds m (BitVec.ofNat 64 old) })
          | none => s2
        if (podOf s pa).isSome then podStore n o i 0 2 r (fun f s => done (replyBytes f pa w) s) s
        else done (busRead s tag pa w) s
    | _ => s

def execAtomicExecute (n : CoreId) (i : BitVec 6) (s : State) : Outcome State Fault Refusal :=
  let (o, j) := (s.core n.toNat).sqPlace i.toNat
  .next (atomicExecute n.toNat o j s)

/-- A write reaches the mail record m of core n: its bytes 0 to 7 that en names (R23). -/
def execMailWrite (n : CoreId) (m : BitVec 2) (en : BitVec 8) (v : Word) (s : State) : Outcome State Fault Refusal :=
  .next ((List.range 8).foldl (fun s i =>
    if en.getLsbD i then mailPut (64 * n.toNat + 16 * m.toNat + i) (BitVec.ofNat 8 (field v (8 * i) 8)) s else s) s)

end Sys2Proof.Machine
end

