-- ==== Sys2Proof/Machine/Repair.lean ====
section
/-! DEFINITION. Uncorrectable errors, HBM repair, scheduler restart, boot and attestation, power and heat, the host, and writes of
system software (R18, R28 to R30, R182, R238, R351, R370 to R382, R393). -/

namespace Sys2Proof.Machine

open Host (Outcome)

/-! ## Uncorrectable errors (R372, R373, R380) -/

def poisonLine (line : Nat) (s : State) : State := { s with poison := addNat line s.poison }

/-- A dirty line of a slice: its last writer's context dies and the line is written back poisoned; a clean one is fetched
again. -/
def sliceError (line : Nat) (s : State) : State :=
  if s.dirty.contains line then
    let s1 := poisonLine line { s with dirty := s.dirty.filter (fun x => x ≠ line) }
    match fget? s.writer line with | some t => killCtx t s1 | none => s1
  else s

/-- Remove the entry of a list that a free choice names. -/
def dropOne {α : Type} (k : Nat) (l : List α) : List α := l.eraseIdx (k % l.length)

/-- An entry of a core's L1, instruction cache or TLBs is invalidated and fetched again: a free choice names it. -/
def cacheError (n : Nat) (s : State) : State :=
  let k := victim s
  let s1 := s.modCore n (fun c => { c with cache :=
    (match k % 4 with
     | 0 => { c.cache with l1 := dropOne (k / 4) c.cache.l1 }
     | 1 => { c.cache with icache := dropOne (k / 4) c.cache.icache }
     | 2 => { c.cache with dtlb := dropOne (k / 4) c.cache.dtlb }
     | _ => { c.cache with ctlb := dropOne (k / 4) c.cache.ctlb }) })
  { s1 with fresh := s.fresh + 1 }

/-- An entry of a quad's L2 TLB or walk cache, or of a TLB of its die's copy engine or dispatcher: a free choice names it. -/
def quadTlbError (q : Nat) (s : State) : State :=
  let k := victim s
  let d := q / 16
  let s1 := match k % 4 with
    | 0 => s.modQuad q (fun x => { x with l2tlb := dropOne (k / 4) x.l2tlb })
    | 1 => s.modQuad q (fun x => { x with walks := dropOne (k / 4) x.walks })
    | 2 => { s with etlb := fset s.etlb d (dropOne (k / 4) (s.etlbOf d)) }
    | _ => s.modDisp d (fun x => { x with tlb := dropOne (k / 4) x.tlb })
  { s1 with fresh := s.fresh + 1 }

def killOpt (t : Option Nat) (s : State) : State := match t with | some t => killCtx t s | none => s

/-- The tag of the task on the core that holds the array of a quad. -/
def holderTag (s : State) (q : Nat) : Option Nat := (s.quad q).array.holder.map (fun h => s.tagOf (4 * q + h))

/-- An accumulator partition: its owner's context dies; under a wide lease, the holder's alone (R182, R372; log entry 134). -/
def accError (n : Nat) (s : State) : State :=
  let a := (s.quad (n / 4)).array
  if a.holder.isSome && a.wide then killOpt (holderTag s (n / 4)) s else killOpt (fget? s.acctag n) s

/-- Fold-array state: without checksums the holder's context dies; with them the error stays in one slot or one checksum lane, by a
free amount of any size up to 2^1024, for the checksums to correct (R176, R182; log entry 39). -/
def foldError (q : Nat) (s : State) : State :=
  let a := (s.quad q).array
  if a.holder.isNone then s
  else if !a.csum then killOpt (holderTag s q) s
  else
    let v := Config.freeVec s.fresh
    let m : Int := (field v 128 1024 + 1 : Nat)
    let d := if v.getLsbD 32 then -m else m
    let i := field v 40 16 % a.rows
    let j := field v 56 16 % a.cols
    let bump := fun (t : FMap Int) (k : Nat) => fset t k (fget 0 t k + d)
    { s.modArray q (fun a =>
        match field v 72 8 % 3 with
        | 0 => { a with slots := bump a.slots (i * 8192 + j) }
        | 1 => { a with kr := bump a.kr j }
        | _ => { a with kc := bump a.kc i }) with
      fresh := s.fresh + 1 }

/-- A channel buffer or template copy: the head command fails with 0x0A (R207). -/
def channelError (c : Nat) (s : State) : State :=
  match (s.chan c).cmds with
  | m :: _ =>
    if m.result.isSome then s
    else
      let s1 := match m.tmpl with
        | some t => if m.marker then s else payloadPart c t s
        | none => s
      headResult c 0x0A s1
  | [] => s

/-- A link buffer: the flit that a free choice names is lost (R370). -/
def linkError (p : Nat) (s : State) : State :=
  let n := (s.link p).replay.length
  let l := (s.link p).replay ++ (s.link p).out
  let k := victim s % l.length
  match l[k]? with
  | none => s
  | some f =>
    { chargeFlit f (countLost p 1 (s.modLink p (fun x => { x with replay := x.replay.eraseIdx k, out := x.out.eraseIdx (k - n) }))) with
      fresh := s.fresh + 1 }

/-- A line of a dispatcher's queue table: the contexts of the queues whose slots it holds die (R380). -/
def qtableError (d k : Nat) (s : State) : State :=
  ((((s.disp d).slots.drop (4 * k)).take 4).map (fun q => (s.queue q).tag)).eraseDups.foldl (fun s t => killCtx t s) s

/-- The scheduler core restarts from the golden image (R380). -/
def restartDisp (d : Nat) (s : State) : State := s.modDisp d (fun x => { x with restart := true })

/-- The entry of a pseudo-channel that at least two copies of the tables hold (R379). -/
def votedEntry (t : Vector RepairTable 3) (k : Nat) : Option (List (Nat × Nat) × Nat) :=
  let e := fun (x : RepairTable) => (fget [] x.rows k, fget 0 x.lanes k)
  if e t[0] = e t[1] || e t[0] = e t[2] then some (e t[0]) else if e t[1] = e t[2] then some (e t[1]) else none

/-- All three copies hold an entry. -/
def putEntry (k : Nat) (e : List (Nat × Nat) × Nat) (t : Vector RepairTable 3) : Vector RepairTable 3 :=
  t.map (fun x => { x with rows := fset x.rows k e.1, lanes := fset x.lanes k e.2 })

/-- An error in one copy of the entry of a pseudo-channel, by free choices: it is read by majority, and a copy that the others outvote
is rewritten from them (R379). -/
def remapError (k : Nat) (s : State) : State :=
  let v := Config.freeVec s.fresh
  let j := field v 0 8 % 3
  let hit := fun (x : RepairTable) => { x with rows := fset x.rows k [(field v 64 32, field v 96 32)], lanes := fset x.lanes k (field v 128 8) }
  let t := Vector.ofFn (fun i => if i.val = j then hit s.flash.tables[i] else s.flash.tables[i])
  { s with
    flash := { s.flash with tables := (match votedEntry t k with | some e => putEntry k e t | none => t) }
    fresh := s.fresh + 1 }

def execUncorrectableError (u : Site) (s : State) : Outcome State Fault Refusal :=
  .next (match u with
    | .line pa => if inMemory pa.toNat && (podOf s pa.toNat).isNone then poisonLine (pa.toNat / 128) s else s
    | .slice pa => sliceError (pa.toNat / 128) s
    | .cache n => cacheError n.toNat s
    | .quadTlb q => quadTlbError q.toNat s
    | .pad pa => if isPad pa.toNat then killOpt (granTag s pa.toNat) s else s
    | .acc n => accError n.toNat s
    | .fold q => foldError q.toNat s
    | .regs n => if (s.core n.toNat).regs.run = .idle then s else killCtx (s.tagOf n.toNat) s
    | .channel c => channelError c.toNat s
    | .barrier b => if b.toNat < 41280 then killCtx (s.bar b.toNat).tag s else s
    | .link p => if isPort p then linkError p.toNat s else s
    | .qtable d k => qtableError d.toNat k.toNat s
    | .imem d => restartDisp d.toNat s
    | .remap k => remapError k.toNat s)

/-! ## HBM repair (R251, R377 to R379) -/

/-- How often the command for a line has alerted in a row: neither another command of the pseudo-channel has since, nor has it
succeeded (log entry 23). -/
def alertsOf (s : State) (pa : Nat) : Nat :=
  let e := fget (0, 0) s.flash.alerts (pcOf pa)
  if e.1 = pa / 128 then e.2 else 0

/-- The lines that a command for the line of pa addresses: that line, and of its frame those that a free choice says, since a command
may open a row (R377; log entry 23). -/
def addressed (s : State) (pa : Nat) : List Nat :=
  (List.range 512).filterMap (fun i =>
    let l := pa / 65536 * 512 + i
    if l = pa / 128 || Config.freeBit (s.fresh + i) then some l else none)

/-- The third alert of a command poisons the lines it addresses. -/
def execHbmParityAlert (pa : Pa) (s : State) : Outcome State Fault Refusal :=
  let k := alertsOf s pa.toNat + 1
  .next (if !(pa.toNat < hbmEnd) then s
    else if k < 3 then { s with flash := { s.flash with alerts := fset s.flash.alerts (pcOf pa.toNat) (pa.toNat / 128, k) } }
    else (addressed s pa.toNat).foldl (fun s l => poisonLine l s)
      { s with flash := { s.flash with alerts := fdel s.flash.alerts (pcOf pa.toNat) }, fresh := s.fresh + 512 })

/-- Latency only. -/
def execHbmRefreshLimit (k : BitVec 10) (s : State) : Outcome State Fault Refusal :=
  let _ := k
  .next s

/-- The retirement of a frame starts: the host is told, and system software empties it, while a list has room (R251, R378). -/
def retireFrame (f : Nat) (s : State) : State :=
  let l := s.flash
  if l.leaving.contains f || (16384 ≤ l.badFrames.length && 4096 ≤ l.overflow.length) then s
  else { s with flash := { l with leaving := l.leaving ++ [f] } }.tell (.frame (f * 65536))

/-- System software has emptied a frame: it joins the bad-frame list, or the overflow list of this boot, and its poisoned lines
are gone with it (R251 step 5, R372, R378). -/
def frameDone (f : Nat) (s : State) : State :=
  let l := s.flash
  if !l.leaving.contains f then s
  else
    let l1 := { l with leaving := l.leaving.filter (fun x => x ≠ f) }
    let s1 := { s with poison := s.poison.filter (fun x => x / 512 ≠ f) }
    if l.badFrames.length < 16384 then { s1 with flash := { l1 with badFrames := addNat f l.badFrames } }
    else if l.overflow.length < 4096 then { s1 with flash := { l1 with overflow := addNat f l.overflow } }.tell .listFull
    else { s1 with flash := l1 }

/-- The threshold of correctable errors of a frame is reached: lane swap while a lane is left, else retirement; nothing once the
lists of frames are full (R378). -/
def execHbmRepair (pa : Pa) (s : State) : Outcome State Fault Refusal :=
  let a := pa.toNat
  let st := bitsN a 16 5
  let r := fget 0 s.repcfg st
  let full := 16384 ≤ s.flash.badFrames.length && 4096 ≤ s.flash.overflow.length
  .next (if !(a < hbmEnd) || field r 1 15 = 0 || full then s
    else if r.getLsbD 0 && field r 16 16 ≠ 0 then
      { s with
        repcfg := fset s.repcfg st (r - 0x10000)
        flash := { s.flash with
          paused := addNat (pcOf a) s.flash.paused
          lanes := fset s.flash.lanes (pcOf a) (fget 0 s.flash.lanes (pcOf a) + 1)
          tables := putEntry (pcOf a) (fget [] s.flash.remaps (pcOf a), fget 0 s.flash.lanes (pcOf a) + 1) s.flash.tables } }
    else retireFrame (a / 65536) s)

def execLaneSwapDone (k : BitVec 10) (s : State) : Outcome State Fault Refusal :=
  .next { s with flash := { s.flash with paused := s.flash.paused.filter (fun x => x ≠ k.toNat) } }

/-- Frames of a pseudo-channel. -/
def framesOf (k : Nat) : List Nat := (List.range 32768).map (fun i => 1024 * i + 32 * (k % 32) + k / 32)

/-- All three copies of a table disagree: the pseudo-channel is offline, its frames are bad, and the contexts of its presence map
are terminated. -/
def execTableVoteFail (k : BitVec 10) (s : State) : Outcome State Fault Refusal :=
  let l := s.flash
  let tags := (l.presence.filter (fun p => p.1 = k.toNat)).map (fun p => p.2)
  let fs := (framesOf k.toNat).filter (fun f => !l.badFrames.contains f)
  .next (if l.offline.contains k.toNat then s
    else tags.foldl (fun s t => killCtx t s)
      { s with flash := { l with offline := addNat k.toNat l.offline, badFrames := l.badFrames ++ fs } })

def execSchedulerRestart (d : DieId) (s : State) : Outcome State Fault Refusal := .next (restartDisp d.toNat s)

/-- The restart ends: the latched doorbell and wake writes take effect (R307, R380). -/
def execSchedulerRestartDone (d : DieId) (s : State) : Outcome State Fault Refusal :=
  .next (if (s.disp d.toNat).restart then
      let s1 := s.modDisp d.toNat (fun x => { x with restart := false })
      (s1.queues.filter (fun e => e.2.home = d.toNat && e.2.st ≠ .unmapping)).foldl (fun s e => flushBells e.1 s) s1
    else s)

/-! ## Boot and attestation (R381, R382) -/

/-- What module reset leaves of the configuration flash: the signed regions; the field region is empty where it fails. -/
def bootFlash (f : Flash) : Flash :=
  let g := { Flash.reset with
    factoryOk := f.factoryOk, fieldOk := f.fieldOk, images := f.images, cert := f.cert, badCores := f.badCores
    badQuads := f.badQuads, tier := f.tier, defsig := f.defsig }
  if f.fieldOk then
    { g with badFrames := f.badFrames, lanes := f.lanes, remaps := f.remaps, tables := Vector.replicate 3 ⟨f.remaps, f.lanes⟩ }
  else g

/-- The digests of the images that the controller loads, in load order (R382). -/
def bootDigests (f : Flash) : Vector (BitVec 512) 8 :=
  Vector.ofFn (fun i => match f.images[i.val]? with | some x => Config.sha512 x | none => 0)

/-- Reset runs the boot sequence: host memory and what the outside holds stay, everything else is as after reset. -/
def resetModule (s : State) : State :=
  let base : State := { State.reset with
    mem := s.mem.filter (fun e => isHost e.1)
    now := s.now, agenda := s.agenda, fresh := s.fresh, host := s.host
    flash := bootFlash s.flash }
  if !s.flash.factoryOk then { base with boot := ⟨2, true, Vector.replicate 8 0, s.now, none⟩ }
  else
    let up := { base with boot := ⟨8, false, bootDigests s.flash, s.now, some (Config.golden % 8192 * 2 ^ 28)⟩ }
    if s.flash.fieldOk then up else up.tell .fieldFail

def execModuleReset (s : State) : Outcome State Fault Refusal := .next (resetModule s)

/-- The host port has trained, and the module is not in recovery. -/
def booted (s : State) : Bool := s.boot.stage = 8 && !s.boot.recovery

def execGetMeasurements (s : State) : Outcome State Fault Refusal :=
  .next (if booted s then s.tell (.measurements s.boot.measures (Config.sign s.boot.measures)) else s)

def execGetCertificate (s : State) : Outcome State Fault Refusal :=
  .next (if booted s then s.tell (.certificate s.flash.cert) else s)

/-! ## Power and heat (R18, R30, R393) -/

/-- One reference pulse of a quad, swallowed or delivered; a window of 65,536 of them gives SWALLOW.ratio (R8, R18). -/
def refPulse (cut : Bool) (x : Quad) : Quad :=
  let n := x.swNow + cut.toNat
  let y := { x with swTotal := if cut then x.swTotal + 1 else x.swTotal }
  if x.swRef = 65535 then { y with swRatio := BitVec.ofNat 16 n, swRef := 0, swNow := 0 }
  else { y with swRef := x.swRef + 1, swNow := n }

/-- The largest swallow ratio (R18). -/
def topRatio : Nat := 57344

/-- The power controller sets the largest ratio that a quad's limits allow, which SWALLOW shows, and the ratio that it swallows
at; a quad stopped for its heat runs at the ceiling of R18 (R30). The monitors record SWALLOW.ratio (R393). -/
def swallowUpdate (q r c : Nat) (s : State) : State :=
  let ceil := min c topRatio
  let ratio := if (s.quad q).hot then topRatio else min r ceil
  let s1 := s.modQuad q (fun x => { x with
    swCeil := BitVec.ofNat 16 ceil, swSet := BitVec.ofNat 16 ratio
    ceilAt := if ratio = topRatio then x.ceilAt.or (some s.now) else none })
  (List.range 4).foldl (fun s k =>
    let n := 4 * q + k
    monRecord s (n / 64) 9 (s.tagOf n) (n % 64) (s.quad q).swRatio.toNat) s1

/-- A reference pulse of a quad is swallowed, while the window's count is below the ratio that is set (R8, R18). -/
def swallowPulse (q : Nat) (s : State) : State :=
  if (s.quad q).swNow < (s.quad q).swSet.toNat then s.modQuad q (refPulse true) else s

def execSwallowUpdate (q : QuadId) (r c : BitVec 16) (s : State) : Outcome State Fault Refusal :=
  .next (swallowUpdate q.toNat r.toNat c.toNat s)

/-- 10 ms of module time. -/
def tenMs : Nat := 10000 * usec

/-- A quad begins to exceed its power or thermal limit, or to meet it. -/
def setLimit (q : Nat) (x : Bool) (s : State) : State :=
  s.modQuad q (fun y => if y.limOver = x then y else { y with limOver := x, limAt := s.now })

/-- A quad over its limit for 10 ms while it runs at the ceiling of R18: the host is told and no new group commits there; its running
tasks go on at the ceiling ratio. -/
def execThermalEvent (q : QuadId) (s : State) : Outcome State Fault Refusal :=
  let x := s.quad q.toNat
  .next (if x.limOver && x.limAt + tenMs ≤ s.now && x.ceilAt.any (fun t => t + tenMs ≤ s.now) then
      (s.modQuad q.toNat (fun x => { x with hot := true, swSet := BitVec.ofNat 16 topRatio })).tell (.thermal q.toNat)
    else s)

/-- The limit has been met for 10 ms: commits resume. -/
def execThermalClear (q : QuadId) (s : State) : Outcome State Fault Refusal :=
  let x := s.quad q.toNat
  .next (if !x.limOver && x.limAt + tenMs ≤ s.now then s.modQuad q.toNat (fun x => { x with hot := false }) else s)

/-- A home slice writes a dirty line back (R20). -/
def evictLine (pa : Nat) (s : State) : State := { s with dirty := s.dirty.filter (fun x => x ≠ pa / 128) }

/-! ## The host and system software (R2, R28, R29, R238, R351, R375) -/

def isDoorbell (pa : Nat) : Bool := ctlBase + 0x20000 ≤ pa && pa < ctlBase + 0x30000

/-- The address lies in the record of a queue that a dispatcher holds (R29, R300). -/
def isRecord (s : State) (pa : Nat) : Bool :=
  s.queues.any (fun e => e.2.st ≠ .undefined && e.2.record ≤ pa && pa < e.2.record + 192)

/-- The host, or an external writer of the arrive aperture, may make an access (log entry 22): HBM under CXL.mem, the aperture, the
doorbells and the records of queues; a channel by its own tag, whose CMD ignores the write (R185); everything else by the access tables (R29, R375). -/
def hostAllowed (s : State) (ext wr : Bool) (pa : Nat) : Bool :=
  if reservedPa s pa then false
  else if isArrive pa then
    hasRight s (fget Port.reset s.ports ((pa - arrBase) / 8)).tag (if ext then 5 else 4) 4 (if wr then 3 else 0)
  else if ext then false
  else if pa < hbmEnd && (s.port.cxl || isRecord s pa) then true
  else if isEngine pa then
    (wr && pa % 0x10000 < 8) || hasRight s (s.chan (chanOf pa)).tag 4 3 (if wr then 1 else 0)
  else if isDoorbell pa then
    (let x := s.queue ((pa - ctlBase - 0x20000) / 16)
     x.st = .undefined || hasRight s x.tag 4 5 3)
  else match targetOf s pa with
    | some t => hasRight s 0 4 t (if wr then 1 else 0)
    | none => false

/-- The bytes of a word that an access names, with their addresses. -/
def namedBytes (pa : Nat) (en : BitVec 8) (v : Word) : List (Nat × Byte) :=
  ((List.range 8).filter (fun i => en.getLsbD i)).map (fun i => (pa + i, BitVec.ofNat 8 (field v (8 * i) 8)))

/-- What the host writes is what it sees. -/
def hostPut (l : List (Nat × Byte)) (s : State) : State :=
  if s.hostlag.isEmpty then s else { s with hostlag := s.hostlag.filter (fun e => !l.any (fun b => b.1 = e.2.1)) }

/-- A byte as the host reads it: a store of a task that no fence or release at `sys` has followed may not have reached host memory
yet (R356; log entry 145). -/
def hostByte (s : State) (pa : Nat) : Byte :=
  match s.hostlag.find? (fun e => e.2.1 = pa) with
  | some e => if Config.freeBit (s.fresh + pa / 8 + s.now) then dbgByte s pa else e.2.2
  | none => dbgByte s pa

/-- The port's configuration space and the update mailbox of the controller, which answer in recovery too; the spec gives them no
registers (R381; log entry 146). -/
def configAccess (wr : Bool) (a : Nat) (v : BitVec 32) (s : State) : State :=
  if wr then { s with port := { s.port with config := fset s.port.config a v } }
  else { s.tell (.config ((fget? s.port.config a).getD ((Config.freeVec s.fresh).setWidth 32))) with fresh := s.fresh + 1 }
def mailboxWrite (v : Word) (s : State) : State :=
  { { s with port := { s.port with mailbox := s.port.mailbox ++ [v] } }.tell (.mailbox ((Config.freeVec s.fresh).setWidth 64)) with
    fresh := s.fresh + 1 }

/-- A request of the host (x = 0) or of an external device (x = 1) for bytes of the aligned word at pa. -/
def hostAccess (wr ext : Bool) (pa : Nat) (en : BitVec 8) (v : Word) (s : State) : State :=
  let pa := pa / 8 * 8
  if !booted s then s.tell .unsupported
  else if !hostAllowed s ext wr pa then
    (if ext && isArrive pa && wr then portDrop ((pa - arrBase) / 8) s else s.tell .unsupported)
  else if wr then
    (if isDevice pa then devWrite false 3 pa en v s
     else testWaits pa (hostPut (namedBytes pa en v) (dbgStore dbgcmdWrite (namedBytes pa en v) s)))
  else s.tell (.read (BitVec.ofNat 64 (leNat ((List.range 8).map (fun i => if en.getLsbD i then hostByte s (pa + i) else 0)))))

def execHostAccess (w x : BitVec 1) (pa : Pa) (en : BitVec 8) (v : Word) (s : State) : Outcome State Fault Refusal :=
  .next (hostAccess (w = 1) (x = 1) pa.toNat en v s)

/-- The host enables CXL, or offers only PCIe (R28); the module controller programs the keys of the port (R29). -/
def setHostLink (cxl : Bool) (s : State) : State := { s with port := { s.port with cxl := cxl } }
def setIdeKey (k : BitVec 256) (s : State) : State := { s with port := { s.port with ide := some k } }

/-- The contexts that consumed a poisoned table entry in the act just done die (R372). -/
def sweep (s : State) : State := s.doom.foldl (fun s t => killCtx t s) { s with doom := [] }

/-- The module controller or system software writes the register at an aligned address. -/
def execRegisterWrite (pa : Pa) (v : Word) (s : State) : Outcome State Fault Refusal :=
  let a := pa.toNat / 8 * 8
  .next (if (isCtl a || isEngine a) && !reservedPa s a then devWrite true 3 a 0xFF v s else s)

end Sys2Proof.Machine
end

