-- ==== Sys2Proof/Machine/Landing.lean ====
section
/-! DEFINITION. The end of a cycle at a core: results, entries of the load data queue and scratchpad writes land (R13, R60 to R62,
R66, R132, R133, R136, R140, R149, R393). -/

namespace Sys2Proof.Machine

open Host (Outcome)

/-! ## Results (R60 to R62, R66) -/

/-- Replace n bits of a vector from bit lo on. -/
def putField (x : Vec) (lo n : Nat) (v : Nat) : Vec :=
  BitVec.ofNat 2048 (x.toNat - field x lo n * 2 ^ lo + v % 2 ^ n * 2 ^ lo)

/-- A mask lands: the slot's own later syllables see its own write (R66). -/
def Pipe.landMask (p : Pipe) (slot : Pos) (m : Nat) (v : Mask) : Pipe :=
  { p with
    p := vset p.p m v
    pOwn := p.pOwn.filter (fun e => !(e.1 = slot && e.2.1 = m)) ++ [(slot, m, v)] }

/-- A latch of a slot lands. -/
def landLatch (n : Nat) (o : Bool) (slot : Pos) (r : Nat) (v : Vec) (s : State) : State :=
  match slot with
  | .VA => s.modCore n (fun c => c.modRegs (fun x => { x with vec := { x.vec with la := vset x.vec.la r v } }))
  | .VB => s.modCore n (fun c => c.modRegs (fun x => { x with vec := { x.vec with lb := vset x.vec.lb r v } }))
  | _ => s.modPipeOf n o (fun p => { p with latch := vset p.latch r (vecWord v) })

/-- One result of core n lands; o says that it is one of its outrider. -/
def landOne (n : Nat) (o : Bool) (f : Flight) (s : State) : State :=
  match f.tgt with
  | .sreg r => s.modPipeOf n o (fun p => { p with s := vset p.s r (vecWord f.val) })
  | .vreg r => s.modCore n (fun c => c.modRegs (fun x => { x with vec := { x.vec with v := vset x.vec.v r f.val } }))
  | .latch r => landLatch n o f.slot r f.val s
  | .mask m => s.modPipeOf n o (fun p => p.landMask f.slot m (f.val.setWidth 256))
  | .sys i => if i = 0x1F0 then mbreply n (f.val.toNat % 8) s else sysWrite n i (vecWord f.val) s
  | .mail m => mailSet n m (vecWord f.val) s
  | .scale k lo w => s.modCore n (fun c => c.modRegs (fun x =>
      { x with scale := vset x.scale k (scaleWords (putField (vget x.scale k 0) lo w f.val.toNat).toNat) }))
  | .win w bn addr => atCore n (mapWindow w bn addr f.val.toNat) s

/-- A result whose last count is over. -/
def Pipe.past (p : Pipe) (f : Flight) : Bool := f.due < p.count

/-- The results of a pipeline whose counts are over leave the list and land in its order. -/
def landFlights (n : Nat) (o : Bool) (s : State) : State :=
  let p := (s.core n).pipeOf o
  (p.flight.filter p.past).foldl (fun s f => landOne n o f s)
    (s.modPipeOf n o (fun p => { p with flight := p.flight.filter (fun f => !p.past f) }))

def landResults (n : Nat) (s : State) : State := landFlights n true (landFlights n false s)

def execResultLanding (n : CoreId) (s : State) : Outcome State Fault Refusal := .next (landResults n.toNat s)

/-! ## The load data queue (R94, R132, R133, R140, R393, R396) -/

/-- An entry whose data is there may be delivered: a fixed-latency one when its count is over. -/
def LdqEntry.arrived (count : Nat) (e : LdqEntry) : Bool :=
  match e.fixed with
  | some d => d < count
  | none => e.got

/-- Deliver what may be delivered: fixed-latency entries at their counts, the others never before those ahead of them. -/
def deliverQueue (count : Nat) : Bool → List LdqEntry → List LdqEntry
  | _, [] => []
  | ahead, e :: r =>
    let now := e.arrived count && (ahead || e.fixed.isSome)
    { e with out := e.out || now } :: deliverQueue count (ahead && (e.out || now)) r

/-- The entries that were not delivered before and are now. -/
def newlyOut (old new : List LdqEntry) : List LdqEntry :=
  ((old.zip new).filter (fun x => !x.1.out && x.2.out)).map (fun x => x.2)

/-- A delivered entry writes its mask in this cycle, in its place among the results of the L slot (R62, R396), and its time since
issue is recorded. -/
def noteEntry (n : Nat) (o : Bool) (e : LdqEntry) (s : State) : State :=
  let s1 := match e.mask with
    | some (m, v) => s.modPipeOf n o (fun p =>
        { p with flight := addFlight ⟨.L, p.count - 1, .mask m, v.setWidth 2048, e.id⟩ p.flight })
    | none => s
  match e.born with
  | some c => monRecord s1 (n / 64) 1 (s.core n).regs.id.tag (n % 64) ((s.cycleOf n).toNat - c)
  | none => s1

def deliverEntries (n : Nat) (o : Bool) (s : State) : State :=
  let p := (s.core n).pipeOf o
  let l := deliverQueue p.count true p.ldq
  (newlyOut p.ldq l).foldl (fun s e => noteEntry n o e s) (s.modPipeOf n o (fun p => { p with ldq := l }))

/-- The first load of a queue whose L1 data is due at the end of this cycle. -/
def hitDue (now : Nat) (p : Pipe) : Option (Nat × Req LdOp) :=
  (p.lq.zipIdx.find? (fun e => match e.1.due with | some d => d ≤ now | none => false)).map (fun e => (e.2, e.1))

/-- Loads that hit the L1 have their data eight cycles after their issue. -/
def landHits (n : Nat) (o : Bool) : Nat → State → State
  | 0, s => s
  | k + 1, s =>
    match hitDue (s.cycleOf n).toNat ((s.core n).pipeOf o) with
    | some (i, r) => landHits n o k (endLoad n o i r (deliver r.how r.val.toNat) s)
    | none => s

/-! ## Scratchpad and accumulator writes (R136) -/

/-- Writes in the order of their bundles, so that the later bundle's bytes are kept. -/
def orderWrites : List SpWrite → List SpWrite
  | [] => []
  | w :: r => insertW w (orderWrites r)
where
  insertW (w : SpWrite) : List SpWrite → List SpWrite
    | [] => [w]
    | x :: r => if w.bn ≤ x.bn then w :: x :: r else x :: insertW w r

/-- The writes of core n due at the end of this cycle. -/
def landWrites (n : Nat) (s : State) : State :=
  let now := (s.cycleOf n).toNat
  let p := (s.core n).regs.task
  (orderWrites (p.spst.filter (fun w => w.due ≤ now))).foldl (fun s w => writeBytesAs s (s.tagOf n) w.bytes)
    (s.modPipeOf n false (fun p => { p with spst := p.spst.filter (fun w => !(w.due ≤ now)) }))

end Sys2Proof.Machine
end

