-- ==== Sys2Proof/Machine/Vector.lean ====
section
/-! DEFINITION. The vector slots (R105 to R126). -/

namespace Sys2Proof.Machine

open Host (Outcome)

/-! ## Elements (R32, R106) -/

/-- The m elements of width n of a register, element 0 first. -/
def elemsGo (n : Nat) : Nat → Nat → List Nat
  | 0, _ => []
  | m + 1, x => x % 2 ^ n :: elemsGo n m (x / 2 ^ n)

def elems (n : Nat) (v : Vec) : List Nat := elemsGo n (2048 / n) v.toNat

/-- A register from its elements; elements not given are 0. -/
def ofElemsN (n : Nat) (l : List Nat) : Nat := l.foldr (fun e acc => e % 2 ^ n + 2 ^ n * acc) 0
def ofElems (n : Nat) (l : List Nat) : Vec := natVec (ofElemsN n l)

/-- Element i of a list, 0 past its end. -/
def nthN (l : List Nat) (i : Nat) : Nat := l.getD i 0

/-- A bridge register copied to every n-bit element (R106). -/
def bcastN (n : Nat) (x : Word) : Vec := ofElems n (List.replicate (2048 / n) (x.toNat % 2 ^ n))

def isBridge (x : BitVec 6) : Bool := 48 ≤ x.toNat ∧ x.toNat < 56

/-- A source of an element-wise opcode: a bridge register is broadcast (R106). -/
def srcVE (slot : Pos) (n : Nat) (x : BitVec 6) (s : State) : Vec × State :=
  if isBridge x then (bcastN n (s.bridge x), s) else srcV slot x s

/-- Two sources and the old target, read at issue. -/
def vec2 (vs : VSlot) (lat : Nat) (w : BitVec 1) (d a b : BitVec 6) (bc : Option Nat) (f : Vec → Vec → Vec → Vec)
    (s : State) : State :=
  withPops (isPop a + isPop b) (vpos vs) s (fun s =>
    let rd := fun x s => match bc with | some n => srcVE (vpos vs) n x s | none => srcV (vpos vs) x s
    let (x, s1) := rd a s
    let (y, s2) := rd b s1
    s2.dest (vpos vs) lat w d (f x y (oldV s (vpos vs) w d)))

def vec1 (vs : VSlot) (lat : Nat) (w : BitVec 1) (d a : BitVec 6) (bc : Option Nat) (f : Vec → Vec → Vec)
    (s : State) : State :=
  withPops (isPop a) (vpos vs) s (fun s =>
    let (x, s1) := match bc with | some n => srcVE (vpos vs) n a s | none => srcV (vpos vs) a s
    s1.dest (vpos vs) lat w d (f x (oldV s (vpos vs) w d)))

/-- Combine elements of two registers and the old target. -/
def zip3 (n : Nat) (f : Nat → Nat → Nat → Nat) (x y o : Vec) : Vec :=
  ofElems n (List.zipWith3 f (elems n x) (elems n y) (elems n o))

/-- An element-wise syllable of type code t. -/
def vElem2 (vs : VSlot) (lat : Nat) (w : BitVec 1) (d a b : BitVec 6) (t : BitVec 5) (f : Nat → Nat → Nat → Nat)
    (s : State) : State :=
  vec2 vs lat w d a b (some (tyWidth t.toNat)) (zip3 (tyWidth t.toNat) f) s

def vElem1 (vs : VSlot) (lat : Nat) (w : BitVec 1) (d a : BitVec 6) (t : BitVec 5) (f : Nat → Nat) (s : State) : State :=
  vec1 vs lat w d a (some (tyWidth t.toNat)) (fun x _ => ofElems (tyWidth t.toNat) ((elems (tyWidth t.toNat) x).map f)) s

/-- The format of a floating type code. -/
def fmtOf (t : Nat) : FpFmt := match typeOf t with | some (.fp f) => f | _ => f32

/-- An integer or a floating operation, by the type's class; integer results are written mod 2^N. -/
def byClass (t : Nat) (fi : Int → Int → Int → Int) (ff : FVal → FVal → FVal → FVal) (x y o : Nat) : Nat :=
  if classI t then wrapN (fi (inT x t) (inT y t) (inT o t)) (tyWidth t)
  else toFp (fmtOf t) 0 (ff (fpVal (fmtOf t) x) (fpVal (fmtOf t) y) (fpVal (fmtOf t) o))

/-- Latency 2 for an integer type, 4 for a floating one (R107). -/
def latIF (t : BitVec 5) : Nat := if classI t.toNat then 2 else 4

def clampT (x : Int) (t : Nat) : Int := clampI x (loT (tySigned t) (tyWidth t)) (hiT (tySigned t) (tyWidth t))

/-- clamp of R112 on integers and on values. -/
def clampElemI (t : Nat) (x y : Int) : Int :=
  if tySigned t then
    let bound := minI y.natAbs (hiT true (tyWidth t))
    clampI x (-bound) bound
  else minI x y
def clampElemF (x y : FVal) : FVal :=
  if isNaN x || isNaN y then .nan else fMin (fMax x (fNeg (fAbs y))) (fAbs y)

/-! ## Shifts and bit fields on n-bit elements (R111) -/

def shlN (n x k : Nat) : Nat := if n ≤ k then 0 else x * 2 ^ k % 2 ^ n
def shrN (n x k : Nat) : Nat := if n ≤ k then 0 else x / 2 ^ k
def sarN (n x k : Nat) : Nat := wrapN (sextN x n / (2 ^ (if n ≤ k then n else k) : Nat)) n
def rotlN (n x k : Nat) : Nat := bitsN (x * 2 ^ n + x) (n - k % n) n
def fshN (n x y o : Nat) : Nat := bitsN (x * 2 ^ n + y) (o % n) n
def bfxN (n x p l : Nat) (sx : Bool) : Nat :=
  if n ≤ p then 0
  else
    let m := if n < p + l then n - p else l
    let y := bitsN x p m
    if sx then wrapN (sextN y m) n else y
def bfiN (n o x p l : Nat) : Nat :=
  if n ≤ p then o
  else
    let m := if n < p + l then n - p else l
    o - bitsN o p m * 2 ^ p + bitsN x 0 m * 2 ^ p

/-! ## Conversions (R114, R115) -/

def elemT (t : Nat) : ElemType := match typeOf t with | some e => e | none => .int false 8

/-- Convert the elements of x from type s to type t in a mode; hi takes the upper elements of a widening. -/
def convert (s t mode : Nat) (hi : Bool) (x : Vec) : Vec :=
  let ms := 2048 / tyWidth s
  let md := 2048 / tyWidth t
  let src := elems (tyWidth s) x
  let pick := if ms ≤ md then src else if hi then src.drop (ms - md) else src.take md
  ofElems (tyWidth t) (pick.map (fun e => valElem (elemT t) mode (elemVal (elemT s) e)))

/-- Cut a list into blocks of 32. -/
def blocks32 {α : Type} : Nat → List α → List (List α)
  | 0, _ => []
  | k + 1, l => l.take 32 :: blocks32 k (l.drop 32)

/-- Block quantisation of a register (R115): the mantissas, or the scale words. -/
def qblk (s t mode : Nat) (sc : Bool) (x : Vec) : Vec :=
  let ms := 2048 / tyWidth s
  let qs := (blocks32 (ms / 32) ((elems (tyWidth s) x).map (elemVal (elemT s)))).map (quantBlock (blockW t) mode)
  if sc then ofElems 32 (qs.map (fun q => q.2))
  else ofElems (tyWidth t) (((qs.map (fun q => q.1)).flatten.take (2048 / tyWidth t)).map (fun m => wrapN m (tyWidth t)))

/-! ## Packed integers (R47, R48, R116, R117) -/

def packInt (s : Nat) : Nat → List Int → Int
  | 0, _ => 0
  | _, [] => 0
  | k + 1, c :: r => c + (2 ^ s : Nat) * packInt s k r

/-- pack of R116 at width w. -/
def packN (w s : Nat) (cs : List Int) : Nat :=
  if s < 2 ∨ 64 < s then 0 else wrapN (packInt s (w / s) cs) w

/-- Coefficient k of R48. -/
def coeff (p s k : Nat) : Int :=
  sextN (bitsN p (k * s) s + (if k = 0 then 0 else bitsN p (k * s - 1) 1)) s

def xtrN (w t : Nat) (p : Nat) (b : Word) : Vec :=
  let s := bitsN b.toNat 0 7
  let o := bitsN b.toNat 8 12
  ofElems (tyWidth t) ((List.range (2048 / tyWidth t)).map (fun n =>
    if s < 2 ∨ 64 < s ∨ w < (o + n + 1) * s then 0 else wrapN (clampT (coeff p s (o + n)) t) (tyWidth t)))

/-! ## Shuffles (R118) -/

def shuffle (n : Nat) (f : Nat → Nat) : Vec := ofElems n ((List.range (2048 / n)).map f)

/-- The elements whose mask bit is 1, in order. -/
def compress (n : Nat) (m : Mask) (l : List Nat) : List Nat :=
  ((List.zip (List.range (2048 / n)) l).filter (fun e => elemBit n m e.1)).map (fun e => e.2)

def expandGo : List Bool → List Nat → List Nat
  | [], _ => []
  | true :: r, x :: l => x :: expandGo r l
  | true :: r, [] => 0 :: expandGo r []
  | false :: r, l => 0 :: expandGo r l

/-! ## Reductions (R119) -/

def pairUp (f : Nat → Nat → Nat) : List Nat → List Nat
  | x :: y :: r => f x y :: pairUp f r
  | l => l

def treeReduce (f : Nat → Nat → Nat) : Nat → List Nat → List Nat
  | 0, l => l
  | k + 1, l => treeReduce f k (pairUp f l)

/-- The fixed pairwise tree over every element: eleven levels reduce 2,048 or fewer. -/
def reduceAll (f : Nat → Nat → Nat) (l : List Nat) : Nat := nthN (treeReduce f 11 l) 0

def scanGo (f : Nat → Nat → Nat) : Nat → List Nat → List Nat
  | _, [] => []
  | y, x :: r => f y x :: scanGo f (f y x) r

def addT (t x y : Nat) : Nat := byClass t (fun a b _ => a + b) (fun a b _ => fAdd a b) x y 0

/-! ## Tables (R120) -/

def lutV (s : State) (t : Nat) (a : Vec) (b : Word) : Vec :=
  let n := tyWidth t
  ofElems n ((elems n a).map (fun x =>
    slotRead s (padAddrs s.cur.toNat (bitsN b.toNat 0 21 + x * (n / 8)) (n / 8))))

/-- floor of a non-negative finite value. -/
def floorV (v : FVal) : Nat :=
  match v with
  | .fin _ m e => if 0 ≤ e then m * 2 ^ e.toNat else m / 2 ^ (-e).toNat
  | _ => 0

/-- An f32 result with the canonical NaN (R37). -/
def oneNan (x : Nat) : Nat := if isNaN (fpVal f32 x) then f32.nan else x

def lutiElem (tb : Nat → Nat) (c x : Nat) : Nat :=
  let v := fpVal f32 x
  if isNaN v then f32.nan
  else if !(fLt (fOfInt 0) v) then oneNan (tb 0)
  else if !(fLt v (fOfInt ((c : Int) - 1))) then oneNan (tb (c - 1))
  else
    let j := floorV v
    let fr := fAdd v (fOfInt (-(j : Int)))
    let t0 := fpVal f32 (tb j)
    toFp f32 0 (fAdd t0 (fMul fr (fAdd (fpVal f32 (tb (j + 1))) (fNeg t0))))

def lutiV (s : State) (a : Vec) (b : Word) : Vec :=
  let base := bitsN b.toNat 2 19 * 4
  let c := if bitsN b.toNat 32 16 < 2 then 2 else bitsN b.toNat 32 16
  ofElems 32 ((elems 32 a).map (lutiElem (fun j => slotRead s (padAddrs s.cur.toNat (base + 4 * j) 4)) c))

/-! ## Approximations and classes (R121 to R123) -/

def approxElem (g : FVal → Near) (full : Bool) (t x : Nat) : Nat :=
  if t = 8 && !full then nearFp f32short (g (fpVal f32 x)) * 2 ^ 12 else nearFp (fmtOf t) (g (fpVal (fmtOf t) x))

def vApprox (g : FVal → Near) (vs : VSlot) (w : BitVec 1) (d a : BitVec 6) (f : BitVec 1) (t : BitVec 5) (s : State) : State :=
  vec1 vs (if f = 1 then 16 else 8) w d a none
    (fun x _ => ofElems (tyWidth t.toNat) ((elems (tyWidth t.toNat) x).map (approxElem g (f = 1) t.toNat))) s

def fclass (f : FpFmt) (x : Nat) : Nat :=
  match fpVal f x with
  | .nan => 256
  | .inf neg => if neg then 1 else 128
  | .fin neg m _ =>
    if m = 0 then (if neg then 8 else 16)
    else if m < 2 ^ f.fbits then (if neg then 4 else 32)
    else (if neg then 2 else 64)

/-! ## Dot products (R124) -/

def groups (g : Nat) : Nat → List Nat → List (List Nat)
  | 0, _ => []
  | k + 1, l => l.take g :: groups g k (l.drop g)

def dotElem (t : Nat) (xs ys : List Nat) (o : Nat) : Nat :=
  if classI t then wrapN (o + (List.zipWith (fun x y => inT x t * inT y t) xs ys).foldl (fun a b => a + b) 0) 32
  else toFp f32 0 (fAdd (fAdd (fMul (fpVal (fmtOf t) (nthN xs 0)) (fpVal (fmtOf t) (nthN ys 0)))
    (fMul (fpVal (fmtOf t) (nthN xs 1)) (fpVal (fmtOf t) (nthN ys 1)))) (fpVal f32 o))

def dotV (t : Nat) (x y o : Vec) : Vec :=
  let n := tyWidth t
  ofElems 32 (List.zipWith3 (dotElem t) (groups (32 / n) 64 (elems n x)) (groups (32 / n) 64 (elems n y)) (elems 32 o))

/-- A mask result of a V syllable. -/
def maskDest (s : State) (vs : VSlot) (m : BitVec 4) (x : Mask) : State :=
  s.result (vpos vs) 2 (.mask m.toNat) (x.setWidth 2048)


/-! ## The instructions -/

def execVNop (s : State) : Outcome State Fault Refusal := .next s

def execVAdd (vs : VSlot) (w : BitVec 1) (d a b : BitVec 6) (t : BitVec 5) (s : State) : Outcome State Fault Refusal :=
  .next (vElem2 vs (latIF t) w d a b t (byClass t.toNat (fun x y _ => x + y) (fun x y _ => fAdd x y)) s)

def execVSub (vs : VSlot) (w : BitVec 1) (d a b : BitVec 6) (t : BitVec 5) (s : State) : Outcome State Fault Refusal :=
  .next (vElem2 vs (latIF t) w d a b t (byClass t.toNat (fun x y _ => x - y) (fun x y _ => fAdd x (fNeg y))) s)

def execVMul (vs : VSlot) (w : BitVec 1) (d a b : BitVec 6) (t : BitVec 5) (s : State) : Outcome State Fault Refusal :=
  .next (vElem2 vs 4 w d a b t (byClass t.toNat (fun x y _ => x * y) (fun x y _ => fMul x y)) s)

def execVMulh (vs : VSlot) (w : BitVec 1) (d a b : BitVec 6) (t : BitVec 5) (s : State) : Outcome State Fault Refusal :=
  .next (vElem2 vs 4 w d a b t (fun x y _ => wrapN (inT x t.toNat * inT y t.toNat / (2 ^ tyWidth t.toNat : Nat)) (tyWidth t.toNat)) s)

def execVFma (vs : VSlot) (w : BitVec 1) (d a b : BitVec 6) (t : BitVec 5) (s : State) : Outcome State Fault Refusal :=
  .next (vElem2 vs 4 w d a b t (byClass t.toNat (fun x _ _ => x) (fun x y o => fAdd (fMul x y) o)) s)

def execVFms (vs : VSlot) (w : BitVec 1) (d a b : BitVec 6) (t : BitVec 5) (s : State) : Outcome State Fault Refusal :=
  .next (vElem2 vs 4 w d a b t (byClass t.toNat (fun x _ _ => x) (fun x y o => fAdd (fMul x y) (fNeg o))) s)

def execVFnma (vs : VSlot) (w : BitVec 1) (d a b : BitVec 6) (t : BitVec 5) (s : State) : Outcome State Fault Refusal :=
  .next (vElem2 vs 4 w d a b t (byClass t.toNat (fun x _ _ => x) (fun x y o => fAdd o (fNeg (fMul x y)))) s)

def execVMin (vs : VSlot) (w : BitVec 1) (d a b : BitVec 6) (t : BitVec 5) (s : State) : Outcome State Fault Refusal :=
  .next (vElem2 vs (latIF t) w d a b t (byClass t.toNat (fun x y _ => minI x y) (fun x y _ => fMin x y)) s)

def execVMax (vs : VSlot) (w : BitVec 1) (d a b : BitVec 6) (t : BitVec 5) (s : State) : Outcome State Fault Refusal :=
  .next (vElem2 vs (latIF t) w d a b t (byClass t.toNat (fun x y _ => if x ≤ y then y else x) (fun x y _ => fMax x y)) s)

def execVAbs (vs : VSlot) (w : BitVec 1) (d a : BitVec 6) (t : BitVec 5) (s : State) : Outcome State Fault Refusal :=
  .next (vElem1 vs (latIF t) w d a t (fun x => byClass t.toNat (fun x _ _ => absT x t.toNat) (fun x _ _ => fAbs x) x 0 0) s)

def execVNeg (vs : VSlot) (w : BitVec 1) (d a : BitVec 6) (t : BitVec 5) (s : State) : Outcome State Fault Refusal :=
  .next (vElem1 vs (latIF t) w d a t (fun x => byClass t.toNat (fun x _ _ => -x) (fun x _ _ => fNeg x) x 0 0) s)

def execVAdds (vs : VSlot) (w : BitVec 1) (d a b : BitVec 6) (t : BitVec 5) (s : State) : Outcome State Fault Refusal :=
  .next (vElem2 vs 2 w d a b t (fun x y _ => wrapN (clampT (inT x t.toNat + inT y t.toNat) t.toNat) (tyWidth t.toNat)) s)

def execVSubs (vs : VSlot) (w : BitVec 1) (d a b : BitVec 6) (t : BitVec 5) (s : State) : Outcome State Fault Refusal :=
  .next (vElem2 vs 2 w d a b t (fun x y _ => wrapN (clampT (inT x t.toNat - inT y t.toNat) t.toNat) (tyWidth t.toNat)) s)

def execVAvg (vs : VSlot) (w : BitVec 1) (d a b : BitVec 6) (t : BitVec 5) (s : State) : Outcome State Fault Refusal :=
  .next (vElem2 vs 2 w d a b t (fun x y _ => wrapN ((inT x t.toNat + inT y t.toNat + 1) / 2) (tyWidth t.toNat)) s)

def execVMac (vs : VSlot) (w : BitVec 1) (d a b : BitVec 6) (t : BitVec 5) (s : State) : Outcome State Fault Refusal :=
  .next (vElem2 vs 4 w d a b t (fun x y o => (o + x * y) % 2 ^ tyWidth t.toNat) s)

def execVCmp (vs : VSlot) (c : BitVec 2) (m : BitVec 4) (a b : BitVec 6) (h : BitVec 1) (t : BitVec 5) (s : State) :
    Outcome State Fault Refusal :=
  .next (withPops (isPop a + isPop b) (vpos vs) s (fun s =>
    let n := tyWidth t.toNat
    let (x, s1) := srcVE (vpos vs) n a s
    let (y, s2) := srcVE (vpos vs) n b s1
    maskDest s2 vs m (elemMask n (List.zipWith (fun u v =>
      condV (h.toNat * 4 + c.toNat) (elemVal (elemT t.toNat) u) (elemVal (elemT t.toNat) v)) (elems n x) (elems n y)))))

def execVCmpi (vs : VSlot) (c : BitVec 2) (m : BitVec 4) (t : BitVec 3) (v : BitVec 9) (a : BitVec 6) (s : State) :
    Outcome State Fault Refusal :=
  .next (withPops (isPop a) (vpos vs) s (fun s =>
    let n := tyWidth t.toNat
    let (x, s1) := srcVE (vpos vs) n a s
    maskDest s1 vs m (elemMask n ((elems n x).map (fun u => condV c.toNat (fOfInt (inT u t.toNat)) (fOfInt v.toInt))))))


def execVAnd (vs : VSlot) (w : BitVec 1) (d a b : BitVec 6) (s : State) : Outcome State Fault Refusal :=
  .next (vec2 vs 2 w d a b (some 64) (fun x y _ => x &&& y) s)

def execVOr (vs : VSlot) (w : BitVec 1) (d a b : BitVec 6) (s : State) : Outcome State Fault Refusal :=
  .next (vec2 vs 2 w d a b (some 64) (fun x y _ => x ||| y) s)

def execVXor (vs : VSlot) (w : BitVec 1) (d a b : BitVec 6) (s : State) : Outcome State Fault Refusal :=
  .next (vec2 vs 2 w d a b (some 64) (fun x y _ => x ^^^ y) s)

def execVAndn (vs : VSlot) (w : BitVec 1) (d a b : BitVec 6) (s : State) : Outcome State Fault Refusal :=
  .next (vec2 vs 2 w d a b (some 64) (fun x y _ => x &&& ~~~y) s)

def execVNot (vs : VSlot) (w : BitVec 1) (d a : BitVec 6) (s : State) : Outcome State Fault Refusal :=
  .next (vec1 vs 2 w d a (some 64) (fun x _ => ~~~x) s)

def execVShl (vs : VSlot) (w : BitVec 1) (d a b : BitVec 6) (t : BitVec 5) (s : State) : Outcome State Fault Refusal :=
  .next (vElem2 vs 2 w d a b t (fun x y _ => shlN (tyWidth t.toNat) x y) s)

def execVShli (vs : VSlot) (w : BitVec 1) (d : BitVec 6) (t : BitVec 3) (k a : BitVec 6) (s : State) :
    Outcome State Fault Refusal :=
  .next (vec1 vs 2 w d a (some (tyWidth t.toNat)) (fun x _ =>
    ofElems (tyWidth t.toNat) ((elems (tyWidth t.toNat) x).map (fun e => shlN (tyWidth t.toNat) e k.toNat))) s)

def execVShr (vs : VSlot) (w : BitVec 1) (d a b : BitVec 6) (t : BitVec 5) (s : State) : Outcome State Fault Refusal :=
  .next (vElem2 vs 2 w d a b t (fun x y _ => shrN (tyWidth t.toNat) x y) s)

def execVShri (vs : VSlot) (w : BitVec 1) (d : BitVec 6) (t : BitVec 3) (k a : BitVec 6) (s : State) :
    Outcome State Fault Refusal :=
  .next (vec1 vs 2 w d a (some (tyWidth t.toNat)) (fun x _ =>
    ofElems (tyWidth t.toNat) ((elems (tyWidth t.toNat) x).map (fun e => shrN (tyWidth t.toNat) e k.toNat))) s)

def execVSar (vs : VSlot) (w : BitVec 1) (d a b : BitVec 6) (t : BitVec 5) (s : State) : Outcome State Fault Refusal :=
  .next (vElem2 vs 2 w d a b t (fun x y _ => sarN (tyWidth t.toNat) x y) s)

def execVSari (vs : VSlot) (w : BitVec 1) (d : BitVec 6) (t : BitVec 3) (k a : BitVec 6) (s : State) :
    Outcome State Fault Refusal :=
  .next (vec1 vs 2 w d a (some (tyWidth t.toNat)) (fun x _ =>
    ofElems (tyWidth t.toNat) ((elems (tyWidth t.toNat) x).map (fun e => sarN (tyWidth t.toNat) e k.toNat))) s)

def execVRotl (vs : VSlot) (w : BitVec 1) (d a b : BitVec 6) (t : BitVec 5) (s : State) : Outcome State Fault Refusal :=
  .next (vElem2 vs 2 w d a b t (fun x y _ => rotlN (tyWidth t.toNat) x y) s)

def execVFsh (vs : VSlot) (w : BitVec 1) (d a b : BitVec 6) (t : BitVec 5) (s : State) : Outcome State Fault Refusal :=
  .next (vElem2 vs 2 w d a b t (fun x y o => fshN (tyWidth t.toNat) x y o) s)

def execVBfx (vs : VSlot) (w : BitVec 1) (d a b : BitVec 6) (x : BitVec 1) (t : BitVec 5) (s : State) :
    Outcome State Fault Refusal :=
  .next (vec2 vs 2 w d a b none (fun u v _ => ofElems (tyWidth t.toNat) ((elems (tyWidth t.toNat) u).map (fun e =>
    bfxN (tyWidth t.toNat) e (fieldPos (vecWord v)) (fieldLenOf (vecWord v)) (x = 1)))) s)

def execVBfi (vs : VSlot) (w : BitVec 1) (d a b : BitVec 6) (t : BitVec 5) (s : State) : Outcome State Fault Refusal :=
  .next (vec2 vs 2 w d a b none (fun u v o => ofElems (tyWidth t.toNat) (List.zipWith (fun x y =>
    bfiN (tyWidth t.toNat) x y (fieldPos (vecWord v)) (fieldLenOf (vecWord v)))
    (elems (tyWidth t.toNat) o) (elems (tyWidth t.toNat) u))) s)

def execVPcnt (vs : VSlot) (w : BitVec 1) (d a : BitVec 6) (t : BitVec 5) (s : State) : Outcome State Fault Refusal :=
  .next (vElem1 vs 2 w d a t (fun x => popCount (tyWidth t.toNat) x) s)

def execVClz (vs : VSlot) (w : BitVec 1) (d a : BitVec 6) (t : BitVec 5) (s : State) : Outcome State Fault Refusal :=
  .next (vElem1 vs 2 w d a t (fun x => leadZeros (tyWidth t.toNat) x) s)

def execVCvt (vs : VSlot) (w : BitVec 1) (d a : BitVec 6) (r : BitVec 1) (c : BitVec 5) (q : BitVec 1) (t : BitVec 5)
    (s : State) : Outcome State Fault Refusal :=
  .next (vec1 vs 4 w d a none (fun x _ => convert c.toNat t.toNat (2 * r.toNat + q.toNat) false x) s)

def execVCvtn (vs : VSlot) (w : BitVec 1) (d a : BitVec 6) (c : BitVec 5) (h : BitVec 1) (t : BitVec 5) (s : State) :
    Outcome State Fault Refusal :=
  .next (vec1 vs 4 w d a none (fun x _ => convert c.toNat t.toNat 4 (h = 1) x) s)

def execVCvtw (vs : VSlot) (w : BitVec 1) (d a : BitVec 6) (r : BitVec 1) (c : BitVec 5) (q : BitVec 1) (t : BitVec 5)
    (s : State) : Outcome State Fault Refusal :=
  .next (vec1 vs 4 w d a none (fun x _ => convert c.toNat t.toNat (2 * r.toNat + q.toNat) false x) s)

def execVCvth (vs : VSlot) (w : BitVec 1) (d a : BitVec 6) (r : BitVec 1) (c : BitVec 5) (q : BitVec 1) (t : BitVec 5)
    (s : State) : Outcome State Fault Refusal :=
  .next (vec1 vs 4 w d a none (fun x _ => convert c.toNat t.toNat (2 * r.toNat + q.toNat) true x) s)

def execVQblk (vs : VSlot) (w : BitVec 1) (d a : BitVec 6) (r : BitVec 1) (c : BitVec 5) (q : BitVec 1) (t : BitVec 5)
    (s : State) : Outcome State Fault Refusal :=
  .next (vec1 vs 6 w d a none (fun x _ => qblk c.toNat t.toNat (4 * r.toNat) (q = 1) x) s)

def execVPack (vs : VSlot) (w : BitVec 1) (d a b : BitVec 6) (t : BitVec 5) (s : State) : Outcome State Fault Refusal :=
  .next (vec2 vs 6 w d a b none (fun x y _ =>
    natVec (packN 2048 (bitsN y.toNat 0 7) ((elems (tyWidth t.toNat) x).map (fun e => inT e t.toNat)))) s)

def execVPackw (vs : VSlot) (d a b : BitVec 6) (t : BitVec 5) (s : State) : Outcome State Fault Refusal :=
  .next (withPops (isPop b) (vpos vs) s (fun s =>
    let n := tyWidth t.toNat
    let (y, s1) := srcV (vpos vs) b s
    let cs := (elems n (vget s.regs.vec.v a.toNat 0) ++ elems n (vget s.regs.vec.v (a.toNat + 1) 0)).map
      (fun e => inT e t.toNat)
    let r := packN 4096 (bitsN y.toNat 0 7) cs
    (s1.dest (vpos vs) 6 0 d (natVec r)).dest (vpos vs) 6 0 (d + 1) (natVec (r / 2 ^ 2048))))


def execVXtr (vs : VSlot) (w : BitVec 1) (d a b : BitVec 6) (t : BitVec 5) (s : State) : Outcome State Fault Refusal :=
  .next (vec2 vs 6 w d a b none (fun x y _ => xtrN 2048 t.toNat x.toNat (vecWord y)) s)

def execVXtrw (vs : VSlot) (w : BitVec 1) (d a b : BitVec 6) (t : BitVec 5) (s : State) : Outcome State Fault Refusal :=
  .next (withPops (isPop b) (vpos vs) s (fun s =>
    let (y, s1) := srcV (vpos vs) b s
    let p := (vget s.regs.vec.v a.toNat 0).toNat + (vget s.regs.vec.v (a.toNat + 1) 0).toNat * 2 ^ 2048
    s1.dest (vpos vs) 6 w d (xtrN 4096 t.toNat p (vecWord y))))


def execVBcast (vs : VSlot) (w : BitVec 1) (d a b : BitVec 6) (t : BitVec 5) (s : State) : Outcome State Fault Refusal :=
  .next (vec2 vs 3 w d a b none (fun x y _ =>
    if isBridge a then bcastN (tyWidth t.toNat) (vecWord x)
    else shuffle (tyWidth t.toNat) (fun _ => nthN (elems (tyWidth t.toNat) x) ((vecWord y).toNat % (2048 / tyWidth t.toNat)))) s)

def execVBcasti (vs : VSlot) (w : BitVec 1) (d : BitVec 6) (z : BitVec 2) (i : BitVec 8) (a : BitVec 6) (s : State) :
    Outcome State Fault Refusal :=
  .next (vec1 vs 3 w d a none (fun x _ => shuffle (8 * 2 ^ z.toNat) (fun _ => nthN (elems (8 * 2 ^ z.toNat) x) i.toNat)) s)

def execVLane (vs : VSlot) (w : BitVec 1) (d a b : BitVec 6) (t : BitVec 5) (s : State) : Outcome State Fault Refusal :=
  .next (vec2 vs 3 w d a b none (fun x y o =>
    ofElems (tyWidth t.toNat) ((elems (tyWidth t.toNat) o).set ((vecWord y).toNat % (2048 / tyWidth t.toNat))
      (bitsN x.toNat 0 (tyWidth t.toNat)))) s)

def execVPerm (vs : VSlot) (w : BitVec 1) (d a b : BitVec 6) (t : BitVec 5) (s : State) : Outcome State Fault Refusal :=
  .next (vec2 vs 3 w d a b none (fun x y _ =>
    ofElems (tyWidth t.toNat) ((elems (tyWidth t.toNat) y).map (fun i =>
      nthN (elems (tyWidth t.toNat) x) (i % (2048 / tyWidth t.toNat))))) s)

def execVZip (vs : VSlot) (w : BitVec 1) (d a b : BitVec 6) (h : BitVec 1) (t : BitVec 5) (s : State) :
    Outcome State Fault Refusal :=
  .next (vec2 vs 3 w d a b none (fun x y _ =>
    let n := tyWidth t.toNat
    let o := if h = 1 then 2048 / n / 2 else 0
    shuffle n (fun i => nthN (elems n (if i % 2 = 0 then x else y)) (o + i / 2))) s)

def execVUnzip (vs : VSlot) (w : BitVec 1) (d a b : BitVec 6) (h : BitVec 1) (t : BitVec 5) (s : State) :
    Outcome State Fault Refusal :=
  .next (vec2 vs 3 w d a b none (fun x y _ =>
    let n := tyWidth t.toNat
    let m := 2048 / n
    shuffle n (fun i => if i < m / 2 then nthN (elems n x) (2 * i + h.toNat) else nthN (elems n y) (2 * (i - m / 2) + h.toNat))) s)

def execVLrot (vs : VSlot) (w : BitVec 1) (d a b : BitVec 6) (t : BitVec 5) (s : State) : Outcome State Fault Refusal :=
  .next (vec2 vs 3 w d a b none (fun x y _ =>
    let n := tyWidth t.toNat
    shuffle n (fun i => nthN (elems n x) ((i + (vecWord y).toNat) % (2048 / n)))) s)

def execVSlide (vs : VSlot) (w : BitVec 1) (d a b : BitVec 6) (h : BitVec 1) (t : BitVec 5) (s : State) :
    Outcome State Fault Refusal :=
  .next (vec2 vs 3 w d a b none (fun x y _ =>
    let n := tyWidth t.toNat
    let m := 2048 / n
    if h = 1 then ofElems n ((elems n x).drop 1 ++ [nthN (elems n y) 0])
    else ofElems n (nthN (elems n y) (m - 1) :: (elems n x).take (m - 1))) s)

def execVCmpr (vs : VSlot) (w : BitVec 1) (d a : BitVec 6) (m : BitVec 4) (t : BitVec 5) (s : State) :
    Outcome State Fault Refusal :=
  .next (vec1 vs 3 w d a none (fun x _ =>
    ofElems (tyWidth t.toNat) (compress (tyWidth t.toNat) (s.mask (vpos vs) m) (elems (tyWidth t.toNat) x))) s)

def execVExpd (vs : VSlot) (w : BitVec 1) (d a : BitVec 6) (m : BitVec 4) (t : BitVec 5) (s : State) :
    Outcome State Fault Refusal :=
  .next (vec1 vs 3 w d a none (fun x _ =>
    ofElems (tyWidth t.toNat) (expandGo ((List.range (2048 / tyWidth t.toNat)).map
      (elemBit (tyWidth t.toNat) (s.mask (vpos vs) m))) (elems (tyWidth t.toNat) x))) s)

def execVRadd (vs : VSlot) (w : BitVec 1) (d a : BitVec 6) (t : BitVec 5) (s : State) : Outcome State Fault Refusal :=
  .next (vec1 vs 6 w d a none (fun x _ => ofElems (tyWidth t.toNat) [reduceAll (addT t.toNat) (elems (tyWidth t.toNat) x)]) s)

def execVRmax (vs : VSlot) (w : BitVec 1) (d a : BitVec 6) (t : BitVec 5) (s : State) : Outcome State Fault Refusal :=
  .next (vec1 vs 6 w d a none (fun x _ => ofElems (tyWidth t.toNat) [reduceAll (fun x y => byClass t.toNat (fun x y _ => if x ≤ y then y else x) (fun x y _ => fMax x y) x y 0) (elems (tyWidth t.toNat) x)]) s)

def execVRmin (vs : VSlot) (w : BitVec 1) (d a : BitVec 6) (t : BitVec 5) (s : State) : Outcome State Fault Refusal :=
  .next (vec1 vs 6 w d a none (fun x _ => ofElems (tyWidth t.toNat) [reduceAll (fun x y => byClass t.toNat (fun x y _ => minI x y) (fun x y _ => fMin x y) x y 0) (elems (tyWidth t.toNat) x)]) s)

def execVRbor (vs : VSlot) (w : BitVec 1) (d a : BitVec 6) (t : BitVec 5) (s : State) : Outcome State Fault Refusal :=
  .next (vec1 vs 6 w d a none (fun x _ => ofElems (tyWidth t.toNat) [reduceAll (fun x y => x ||| y) (elems (tyWidth t.toNat) x)]) s)

def execVScan (vs : VSlot) (w : BitVec 1) (d a : BitVec 6) (x : BitVec 1) (t : BitVec 5) (s : State) :
    Outcome State Fault Refusal :=
  .next (vec1 vs 8 w d a none (fun v _ =>
    let n := tyWidth t.toNat
    let l := elems n v
    let y := if x = 1 then 0 else byClass t.toNat (fun a _ _ => a) (fun a _ _ => a) (nthN l 0) 0 0
    ofElems n (y :: scanGo (addT t.toNat) y (if x = 1 then l.take (2048 / n - 1) else l.drop 1))) s)

def execVLut (vs : VSlot) (w : BitVec 1) (d a b : BitVec 6) (t : BitVec 5) (s : State) : Outcome State Fault Refusal :=
  .next ((vec2 vs 6 w d a b none (fun x y _ => lutV s t.toNat x (vecWord y)) s).refresh)

def execVLuti (vs : VSlot) (w : BitVec 1) (d a b : BitVec 6) (t : BitVec 5) (s : State) : Outcome State Fault Refusal :=
  .next (let _ := t
    (vec2 vs 8 w d a b none (fun x y _ => lutiV s x (vecWord y)) s).refresh)

def execVRcp (vs : VSlot) (w : BitVec 1) (d a : BitVec 6) (f : BitVec 1) (t : BitVec 5) (s : State) :
    Outcome State Fault Refusal :=
  .next (vApprox rcpV vs w d a f t s)

def execVRsq (vs : VSlot) (w : BitVec 1) (d a : BitVec 6) (f : BitVec 1) (t : BitVec 5) (s : State) :
    Outcome State Fault Refusal :=
  .next (vApprox rsqV vs w d a f t s)

def execVExp2 (vs : VSlot) (w : BitVec 1) (d a : BitVec 6) (f : BitVec 1) (t : BitVec 5) (s : State) :
    Outcome State Fault Refusal :=
  .next (vApprox exp2V vs w d a f t s)

def execVLog2 (vs : VSlot) (w : BitVec 1) (d a : BitVec 6) (f : BitVec 1) (t : BitVec 5) (s : State) :
    Outcome State Fault Refusal :=
  .next (vApprox log2V vs w d a f t s)

def execVSigm (vs : VSlot) (w : BitVec 1) (d a : BitVec 6) (f : BitVec 1) (t : BitVec 5) (s : State) :
    Outcome State Fault Refusal :=
  .next (vApprox sigmV vs w d a f t s)

def execVSel (vs : VSlot) (w : BitVec 1) (d a b : BitVec 6) (m : BitVec 4) (s : State) :
    Outcome State Fault Refusal :=
  .next (vec2 vs 2 w d a b none (fun x y _ =>
    shuffle 8 (fun i => nthN (elems 8 (if (s.mask (vpos vs) m).getLsbD i then x else y)) i)) s)

def execVMand (vs : VSlot) (d a b : BitVec 4) (s : State) : Outcome State Fault Refusal :=
  .next (maskDest s vs d (s.mask (vpos vs) a &&& s.mask (vpos vs) b))

def execVMor (vs : VSlot) (d a b : BitVec 4) (s : State) : Outcome State Fault Refusal :=
  .next (maskDest s vs d (s.mask (vpos vs) a ||| s.mask (vpos vs) b))

def execVMxor (vs : VSlot) (d a b : BitVec 4) (s : State) : Outcome State Fault Refusal :=
  .next (maskDest s vs d (s.mask (vpos vs) a ^^^ s.mask (vpos vs) b))

def execVMnot (vs : VSlot) (d a : BitVec 4) (s : State) : Outcome State Fault Refusal :=
  .next (maskDest s vs d (~~~(s.mask (vpos vs) a)))

def execVMpop (vs : VSlot) (w : BitVec 1) (d : BitVec 6) (m : BitVec 4) (t : BitVec 5) (s : State) :
    Outcome State Fault Refusal :=
  .next (s.dest (vpos vs) 3 w d (natVec
    (((List.range (2048 / tyWidth t.toNat)).filter (elemBit (tyWidth t.toNat) (s.mask (vpos vs) m))).length)))

def execVMfirst (vs : VSlot) (w : BitVec 1) (d : BitVec 6) (m : BitVec 4) (t : BitVec 5) (s : State) :
    Outcome State Fault Refusal :=
  .next (s.dest (vpos vs) 3 w d (natVec
    (((List.range (2048 / tyWidth t.toNat)).takeWhile (fun i => !(elemBit (tyWidth t.toNat) (s.mask (vpos vs) m) i))).length)))

def execVClamp (vs : VSlot) (w : BitVec 1) (d a b : BitVec 6) (t : BitVec 5) (s : State) : Outcome State Fault Refusal :=
  .next (vElem2 vs (latIF t) w d a b t
    (byClass t.toNat (fun x y _ => clampElemI t.toNat x y) (fun x y _ => clampElemF x y)) s)

def execVIota (vs : VSlot) (w : BitVec 1) (d a : BitVec 6) (t : BitVec 5) (s : State) : Outcome State Fault Refusal :=
  .next (vec1 vs 2 w d a none (fun x _ => shuffle (tyWidth t.toNat) (fun i => (vecWord x).toNat + i)) s)

def execVMovi (vs : VSlot) (w : BitVec 1) (d : BitVec 6) (m : BitVec 2) (v : BitVec 16) (s : State) :
    Outcome State Fault Refusal :=
  .next (s.dest (vpos vs) 2 w d
    (match m.toNat with
     | 0 => shuffle 8 (fun _ => v.toNat)
     | 1 => shuffle 16 (fun _ => v.toNat)
     | 2 => shuffle 32 (fun _ => wrapN v.toInt 32)
     | _ => shuffle 32 (fun _ => v.toNat * 2 ^ 16)))

def execVFcls (vs : VSlot) (w : BitVec 1) (d a : BitVec 6) (t : BitVec 5) (s : State) : Outcome State Fault Refusal :=
  .next (vElem1 vs 2 w d a t (fclass (fmtOf t.toNat)) s)

def execVDot (vs : VSlot) (w : BitVec 1) (d a b : BitVec 6) (t : BitVec 5) (s : State) : Outcome State Fault Refusal :=
  .next (vec2 vs 4 w d a b (some (tyWidth t.toNat)) (dotV t.toNat) s)

end Sys2Proof.Machine
end

