-- ==== Sys2Proof/Machine/Dispatch.lean ====
section
/-! DEFINITION. The one dispatch: one arm per constructor of Instr, each a direct call of its meaning. -/

namespace Sys2Proof.Machine

def exec (i : Instr) (s : State) : Host.Outcome State Fault Refusal :=
  match i with
  | .sNop => Sys2Proof.Machine.execSNop s
  | .sAdd w d a b => Sys2Proof.Machine.execSAdd w d a b s
  | .sSub w d a b => Sys2Proof.Machine.execSSub w d a b s
  | .sAddi w d im a => Sys2Proof.Machine.execSAddi w d im a s
  | .sMul w d a b => Sys2Proof.Machine.execSMul w d a b s
  | .sMulh w d a b t => Sys2Proof.Machine.execSMulh w d a b t s
  | .sMin w d a b t => Sys2Proof.Machine.execSMin w d a b t s
  | .sMax w d a b t => Sys2Proof.Machine.execSMax w d a b t s
  | .sAnd w d a b => Sys2Proof.Machine.execSAnd w d a b s
  | .sOr w d a b => Sys2Proof.Machine.execSOr w d a b s
  | .sXor w d a b => Sys2Proof.Machine.execSXor w d a b s
  | .sAndn w d a b => Sys2Proof.Machine.execSAndn w d a b s
  | .sAndi w d im a => Sys2Proof.Machine.execSAndi w d im a s
  | .sOri w d im a => Sys2Proof.Machine.execSOri w d im a s
  | .sXori w d im a => Sys2Proof.Machine.execSXori w d im a s
  | .sShl w d a b => Sys2Proof.Machine.execSShl w d a b s
  | .sShr w d a b => Sys2Proof.Machine.execSShr w d a b s
  | .sSar w d a b => Sys2Proof.Machine.execSSar w d a b s
  | .sShli w d k a => Sys2Proof.Machine.execSShli w d k a s
  | .sShri w d k a => Sys2Proof.Machine.execSShri w d k a s
  | .sSari w d k a => Sys2Proof.Machine.execSSari w d k a s
  | .sFsh w d a b k => Sys2Proof.Machine.execSFsh w d a b k s
  | .sFshi w d k a => Sys2Proof.Machine.execSFshi w d k a s
  | .sBfx w d a b x => Sys2Proof.Machine.execSBfx w d a b x s
  | .sBfxi w d l p a => Sys2Proof.Machine.execSBfxi w d l p a s
  | .sBfi w d a b x => Sys2Proof.Machine.execSBfi w d a b x s
  | .sBfii w d l p a => Sys2Proof.Machine.execSBfii w d l p a s
  | .sPcnt w d a t => Sys2Proof.Machine.execSPcnt w d a t s
  | .sClz w d a t => Sys2Proof.Machine.execSClz w d a t s
  | .sCtz w d a t => Sys2Proof.Machine.execSCtz w d a t s
  | .sBrev w d a t => Sys2Proof.Machine.execSBrev w d a t s
  | .sBitrev w d a t => Sys2Proof.Machine.execSBitrev w d a t s
  | .sSel w d a b m => Sys2Proof.Machine.execSSel w d a b m s
  | .sCmp m a b c => Sys2Proof.Machine.execSCmp m a b c s
  | .sCmpi c m im a => Sys2Proof.Machine.execSCmpi c m im a s
  | .sLi w d im => Sys2Proof.Machine.execSLi w d im s
  | .sLih w d im => Sys2Proof.Machine.execSLih w d im s
  | .sLea w d a b k => Sys2Proof.Machine.execSLea w d a b k s
  | .sLeai w d im a => Sys2Proof.Machine.execSLeai w d im a s
  | .sAbs w d a t => Sys2Proof.Machine.execSAbs w d a t s
  | .sAdds w d a b t => Sys2Proof.Machine.execSAdds w d a b t s
  | .sSubs w d a b t => Sys2Proof.Machine.execSSubs w d a b t s
  | .sSrd w d im => Sys2Proof.Machine.execSSrd w d im s
  | .sSwr im a => Sys2Proof.Machine.execSSwr im a s
  | .sCptr w d im a => Sys2Proof.Machine.execSCptr w d im a s
  | .sExt w d a t => Sys2Proof.Machine.execSExt w d a t s
  | .cNop => Sys2Proof.Machine.execCNop s
  | .cBr m p l => Sys2Proof.Machine.execCBr m p l s
  | .cBrn m p l => Sys2Proof.Machine.execCBrn m p l s
  | .cBrany m p l => Sys2Proof.Machine.execCBrany m p l s
  | .cBrall m p l => Sys2Proof.Machine.execCBrall m p l s
  | .cJmp p l => Sys2Proof.Machine.execCJmp p l s
  | .cJmpi a => Sys2Proof.Machine.execCJmpi a s
  | .cCall x p l => Sys2Proof.Machine.execCCall x p l s
  | .cCalli x a => Sys2Proof.Machine.execCCalli x a s
  | .cRet a => Sys2Proof.Machine.execCRet a s
  | .cLoop l => Sys2Proof.Machine.execCLoop l s
  | .cLoopi e n => Sys2Proof.Machine.execCLoopi e n s
  | .cLend k o => Sys2Proof.Machine.execCLend k o s
  | .cEnter im => Sys2Proof.Machine.execCEnter im s
  | .cLeave im => Sys2Proof.Machine.execCLeave im s
  | .cEnd => Sys2Proof.Machine.execCEnd s
  | .cTrap c => Sys2Proof.Machine.execCTrap c s
  | .cBrk c => Sys2Proof.Machine.execCBrk c s
  | .cResume => Sys2Proof.Machine.execCResume s
  | .cAck => Sys2Proof.Machine.execCAck s
  | .cEscal => Sys2Proof.Machine.execCEscal s
  | .cTkwait l t => Sys2Proof.Machine.execCTkwait l t s
  | .cTkall l a => Sys2Proof.Machine.execCTkall l a s
  | .cTkclr a => Sys2Proof.Machine.execCTkclr a s
  | .cBwait l j => Sys2Proof.Machine.execCBwait l j s
  | .cBtest j p l => Sys2Proof.Machine.execCBtest j p l s
  | .cGleave => Sys2Proof.Machine.execCGleave s
  | .cIfence a => Sys2Proof.Machine.execCIfence a s
  | .cMwait m l => Sys2Proof.Machine.execCMwait m l s
  | .cRot n => Sys2Proof.Machine.execCRot n s
  | .cQset e a => Sys2Proof.Machine.execCQset e a s
  | .cBset j c a => Sys2Proof.Machine.execCBset j c a s
  | .cGap n => Sys2Proof.Machine.execCGap n s
  | .cKick => Sys2Proof.Machine.execCKick s
  | .vNop => Sys2Proof.Machine.execVNop s
  | .vAdd vs w d a b t => Sys2Proof.Machine.execVAdd vs w d a b t s
  | .vSub vs w d a b t => Sys2Proof.Machine.execVSub vs w d a b t s
  | .vMul vs w d a b t => Sys2Proof.Machine.execVMul vs w d a b t s
  | .vMulh vs w d a b t => Sys2Proof.Machine.execVMulh vs w d a b t s
  | .vFma vs w d a b t => Sys2Proof.Machine.execVFma vs w d a b t s
  | .vFms vs w d a b t => Sys2Proof.Machine.execVFms vs w d a b t s
  | .vFnma vs w d a b t => Sys2Proof.Machine.execVFnma vs w d a b t s
  | .vMin vs w d a b t => Sys2Proof.Machine.execVMin vs w d a b t s
  | .vMax vs w d a b t => Sys2Proof.Machine.execVMax vs w d a b t s
  | .vAbs vs w d a t => Sys2Proof.Machine.execVAbs vs w d a t s
  | .vNeg vs w d a t => Sys2Proof.Machine.execVNeg vs w d a t s
  | .vAdds vs w d a b t => Sys2Proof.Machine.execVAdds vs w d a b t s
  | .vSubs vs w d a b t => Sys2Proof.Machine.execVSubs vs w d a b t s
  | .vAvg vs w d a b t => Sys2Proof.Machine.execVAvg vs w d a b t s
  | .vMac vs w d a b t => Sys2Proof.Machine.execVMac vs w d a b t s
  | .vCmp vs c m a b h t => Sys2Proof.Machine.execVCmp vs c m a b h t s
  | .vCmpi vs c m t v a => Sys2Proof.Machine.execVCmpi vs c m t v a s
  | .vAnd vs w d a b => Sys2Proof.Machine.execVAnd vs w d a b s
  | .vOr vs w d a b => Sys2Proof.Machine.execVOr vs w d a b s
  | .vXor vs w d a b => Sys2Proof.Machine.execVXor vs w d a b s
  | .vAndn vs w d a b => Sys2Proof.Machine.execVAndn vs w d a b s
  | .vNot vs w d a => Sys2Proof.Machine.execVNot vs w d a s
  | .vShl vs w d a b t => Sys2Proof.Machine.execVShl vs w d a b t s
  | .vShr vs w d a b t => Sys2Proof.Machine.execVShr vs w d a b t s
  | .vSar vs w d a b t => Sys2Proof.Machine.execVSar vs w d a b t s
  | .vShli vs w d t k a => Sys2Proof.Machine.execVShli vs w d t k a s
  | .vShri vs w d t k a => Sys2Proof.Machine.execVShri vs w d t k a s
  | .vSari vs w d t k a => Sys2Proof.Machine.execVSari vs w d t k a s
  | .vRotl vs w d a b t => Sys2Proof.Machine.execVRotl vs w d a b t s
  | .vFsh vs w d a b t => Sys2Proof.Machine.execVFsh vs w d a b t s
  | .vBfx vs w d a b x t => Sys2Proof.Machine.execVBfx vs w d a b x t s
  | .vBfi vs w d a b t => Sys2Proof.Machine.execVBfi vs w d a b t s
  | .vPcnt vs w d a t => Sys2Proof.Machine.execVPcnt vs w d a t s
  | .vClz vs w d a t => Sys2Proof.Machine.execVClz vs w d a t s
  | .vCvt vs w d a r st q t => Sys2Proof.Machine.execVCvt vs w d a r st q t s
  | .vCvtn vs w d a st h t => Sys2Proof.Machine.execVCvtn vs w d a st h t s
  | .vCvtw vs w d a r st q t => Sys2Proof.Machine.execVCvtw vs w d a r st q t s
  | .vCvth vs w d a r st q t => Sys2Proof.Machine.execVCvth vs w d a r st q t s
  | .vQblk vs w d a r st c t => Sys2Proof.Machine.execVQblk vs w d a r st c t s
  | .vPack vs w d a b t => Sys2Proof.Machine.execVPack vs w d a b t s
  | .vPackw vs d a b t => Sys2Proof.Machine.execVPackw vs d a b t s
  | .vXtr vs w d a b t => Sys2Proof.Machine.execVXtr vs w d a b t s
  | .vXtrw vs w d a b t => Sys2Proof.Machine.execVXtrw vs w d a b t s
  | .vBcast vs w d a b t => Sys2Proof.Machine.execVBcast vs w d a b t s
  | .vBcasti vs w d z im a => Sys2Proof.Machine.execVBcasti vs w d z im a s
  | .vLane vs w d a b t => Sys2Proof.Machine.execVLane vs w d a b t s
  | .vPerm vs w d a b t => Sys2Proof.Machine.execVPerm vs w d a b t s
  | .vZip vs w d a b h t => Sys2Proof.Machine.execVZip vs w d a b h t s
  | .vUnzip vs w d a b c t => Sys2Proof.Machine.execVUnzip vs w d a b c t s
  | .vLrot vs w d a b t => Sys2Proof.Machine.execVLrot vs w d a b t s
  | .vSlide vs w d a b n t => Sys2Proof.Machine.execVSlide vs w d a b n t s
  | .vCmpr vs w d a m t => Sys2Proof.Machine.execVCmpr vs w d a m t s
  | .vExpd vs w d a m t => Sys2Proof.Machine.execVExpd vs w d a m t s
  | .vRadd vs w d a t => Sys2Proof.Machine.execVRadd vs w d a t s
  | .vRmax vs w d a t => Sys2Proof.Machine.execVRmax vs w d a t s
  | .vRmin vs w d a t => Sys2Proof.Machine.execVRmin vs w d a t s
  | .vRbor vs w d a t => Sys2Proof.Machine.execVRbor vs w d a t s
  | .vScan vs w d a x t => Sys2Proof.Machine.execVScan vs w d a x t s
  | .vLut vs w d a b t => Sys2Proof.Machine.execVLut vs w d a b t s
  | .vLuti vs w d a b t => Sys2Proof.Machine.execVLuti vs w d a b t s
  | .vRcp vs w d a f t => Sys2Proof.Machine.execVRcp vs w d a f t s
  | .vRsq vs w d a f t => Sys2Proof.Machine.execVRsq vs w d a f t s
  | .vExp2 vs w d a f t => Sys2Proof.Machine.execVExp2 vs w d a f t s
  | .vLog2 vs w d a f t => Sys2Proof.Machine.execVLog2 vs w d a f t s
  | .vSigm vs w d a f t => Sys2Proof.Machine.execVSigm vs w d a f t s
  | .vSel vs w d a b m => Sys2Proof.Machine.execVSel vs w d a b m s
  | .vMand vs d a b => Sys2Proof.Machine.execVMand vs d a b s
  | .vMor vs d a b => Sys2Proof.Machine.execVMor vs d a b s
  | .vMxor vs d a b => Sys2Proof.Machine.execVMxor vs d a b s
  | .vMnot vs d a => Sys2Proof.Machine.execVMnot vs d a s
  | .vMpop vs w d m t => Sys2Proof.Machine.execVMpop vs w d m t s
  | .vMfirst vs w d m t => Sys2Proof.Machine.execVMfirst vs w d m t s
  | .vClamp vs w d a b t => Sys2Proof.Machine.execVClamp vs w d a b t s
  | .vIota vs w d a t => Sys2Proof.Machine.execVIota vs w d a t s
  | .vMovi vs w d m v => Sys2Proof.Machine.execVMovi vs w d m v s
  | .vFcls vs w d a t => Sys2Proof.Machine.execVFcls vs w d a t s
  | .vDot vs w d a b t => Sys2Proof.Machine.execVDot vs w d a b t s
  | .lNop => Sys2Proof.Machine.execLNop s
  | .lLd a b t => Sys2Proof.Machine.execLLd a b t s
  | .lLdi j p o x => Sys2Proof.Machine.execLLdi j p o x s
  | .lLdst a b t => Sys2Proof.Machine.execLLdst a b t s
  | .lLdx a b => Sys2Proof.Machine.execLLdx a b s
  | .lLdb j p o x => Sys2Proof.Machine.execLLdb j p o x s
  | .lLdsc a b t => Sys2Proof.Machine.execLLdsc a b t s
  | .lLdw m a b => Sys2Proof.Machine.execLLdw m a b s
  | .lLdg a b t => Sys2Proof.Machine.execLLdg a b t s
  | .lLdgi j p o x => Sys2Proof.Machine.execLLdgi j p o x s
  | .lLdgx a b => Sys2Proof.Machine.execLLdgx a b s
  | .lLdgsc a b t => Sys2Proof.Machine.execLLdgsc a b t s
  | .lLdacq st a t => Sys2Proof.Machine.execLLdacq st a t s
  | .lLdr m a b => Sys2Proof.Machine.execLLdr m a b s
  | .lWait st a b t => Sys2Proof.Machine.execLWait st a b t s
  | .lWaitne st a b t => Sys2Proof.Machine.execLWaitne st a b t s
  | .lWadv a n => Sys2Proof.Machine.execLWadv a n s
  | .lWmap a b n => Sys2Proof.Machine.execLWmap a b n s
  | .lWres m a n => Sys2Proof.Machine.execLWres m a n s
  | .lPreq a b => Sys2Proof.Machine.execLPreq a b s
  | .lPf a b => Sys2Proof.Machine.execLPf a b s
  | .lPfl2 a b => Sys2Proof.Machine.execLPfl2 a b s
  | .lLdm m a b => Sys2Proof.Machine.execLLdm m a b s
  | .lLdstamp a b => Sys2Proof.Machine.execLLdstamp a b s
  | .lLdacc a b => Sys2Proof.Machine.execLLdacc a b s
  | .lLdaccw a b => Sys2Proof.Machine.execLLdaccw a b s
  | .lLdz a b => Sys2Proof.Machine.execLLdz a b s
  | .lLds a b => Sys2Proof.Machine.execLLds a b s
  | .lXlat a b => Sys2Proof.Machine.execLXlat a b s
  | .lLdnt a b => Sys2Proof.Machine.execLLdnt a b s
  | .wNop => Sys2Proof.Machine.execWNop s
  | .wSt d a b t => Sys2Proof.Machine.execWSt d a b t s
  | .wSti j p o d => Sys2Proof.Machine.execWSti j p o d s
  | .wStst d a b t => Sys2Proof.Machine.execWStst d a b t s
  | .wStx d a b => Sys2Proof.Machine.execWStx d a b s
  | .wStsc d a b t => Sys2Proof.Machine.execWStsc d a b t s
  | .wStw d a b => Sys2Proof.Machine.execWStw d a b s
  | .wStg d a b t => Sys2Proof.Machine.execWStg d a b t s
  | .wStgi j p o d => Sys2Proof.Machine.execWStgi j p o d s
  | .wStgx d a b => Sys2Proof.Machine.execWStgx d a b s
  | .wStgsc d a b t => Sys2Proof.Machine.execWStgsc d a b t s
  | .wStrel st a b t => Sys2Proof.Machine.execWStrel st a b t s
  | .wStacc d a b x => Sys2Proof.Machine.execWStacc d a b x s
  | .wStm m a b => Sys2Proof.Machine.execWStm m a b s
  | .wAmo n m a b o t => Sys2Proof.Machine.execWAmo n m a b o t s
  | .wAmoacq st n m a b o t => Sys2Proof.Machine.execWAmoacq st n m a b o t s
  | .wAmorel st n m a b o t => Sys2Proof.Machine.execWAmorel st n m a b o t s
  | .wCas n m a b e t => Sys2Proof.Machine.execWCas n m a b e t s
  | .wCasacq st n m a b e t => Sys2Proof.Machine.execWCasacq st n m a b e t s
  | .wCasrel st n m a b e t => Sys2Proof.Machine.execWCasrel st n m a b e t s
  | .wMark => Sys2Proof.Machine.execWMark s
  | .wFence st => Sys2Proof.Machine.execWFence st s
  | .wDiscard a b => Sys2Proof.Machine.execWDiscard a b s
  | .wGo d a b => Sys2Proof.Machine.execWGo d a b s
  | .wApw d a b => Sys2Proof.Machine.execWApw d a b s
  | .wMailw m a b => Sys2Proof.Machine.execWMailw m a b s
  | .wArrive st a j => Sys2Proof.Machine.execWArrive st a j s
  | .wTkset a => Sys2Proof.Machine.execWTkset a s
  | .wWb a b => Sys2Proof.Machine.execWWb a b s
  | .wInv a b => Sys2Proof.Machine.execWInv a b s
  | .wStnt d a b => Sys2Proof.Machine.execWStnt d a b s
  | .wRingDb a b => Sys2Proof.Machine.execWRingDb a b s
  | .wRingWk a b => Sys2Proof.Machine.execWRingWk a b s
  | .wStamp d a b => Sys2Proof.Machine.execWStamp d a b s
  | .wFlushw n => Sys2Proof.Machine.execWFlushw n s
  | .fNop => Sys2Proof.Machine.execFNop s
  | .fLease a => Sys2Proof.Machine.execFLease a s
  | .fLeasew a => Sys2Proof.Machine.execFLeasew a s
  | .fFree => Sys2Proof.Machine.execFFree s
  | .fGuard g => Sys2Proof.Machine.execFGuard g s
  | .fFmt a b => Sys2Proof.Machine.execFFmt a b s
  | .fOuter a b c => Sys2Proof.Machine.execFOuter a b c s
  | .fTaps a b c => Sys2Proof.Machine.execFTaps a b c s
  | .fWide d a b c m => Sys2Proof.Machine.execFWide d a b c m s
  | .fSouter f r => Sys2Proof.Machine.execFSouter f r s
  | .fStaps f r => Sys2Proof.Machine.execFStaps f r s
  | .fDrain k f c => Sys2Proof.Machine.execFDrain k f c s
  | .fDrainz => Sys2Proof.Machine.execFDrainz s
  | .fFset k a => Sys2Proof.Machine.execFFset k a s
  | .fFadd k a => Sys2Proof.Machine.execFFadd k a s
  | .fFstr k a => Sys2Proof.Machine.execFFstr k a s
  | .fFwrap k a => Sys2Proof.Machine.execFFwrap k a s
  | .fStage f c => Sys2Proof.Machine.execFStage f c s
  | .fRoute a b => Sys2Proof.Machine.execFRoute a b s
  | .fCsum n => Sys2Proof.Machine.execFCsum n s
  | .fCscnt r m => Sys2Proof.Machine.execFCscnt r m s
  | .fInject a b => Sys2Proof.Machine.execFInject a b s
  | .fMcast a => Sys2Proof.Machine.execFMcast a s
  | .fFence => Sys2Proof.Machine.execFFence s
  | .fAccsel a b => Sys2Proof.Machine.execFAccsel a b s
  | .fClr => Sys2Proof.Machine.execFClr s
  | .kNop => Sys2Proof.Machine.execKNop s
  | .kLd k a b => Sys2Proof.Machine.execKLd k a b s
  | .kLdi j k p o x => Sys2Proof.Machine.execKLdi j k p o x s
  | .kLdh k a b h => Sys2Proof.Machine.execKLdh k a b h s
  | .kSet k a b => Sys2Proof.Machine.execKSet k a b s
  | .kMov st k => Sys2Proof.Machine.execKMov st k s
  | .kLdmx k a b t => Sys2Proof.Machine.execKLdmx k a b t s
  | .kSt k a b => Sys2Proof.Machine.execKSt k a b s
  | .kRot k b => Sys2Proof.Machine.execKRot k b s
  | .kClr k => Sys2Proof.Machine.execKClr k s
  | .qbNop => Sys2Proof.Machine.execQbNop s
  | .qbLdc im d => Sys2Proof.Machine.execQbLdc im d s
  | .qbLdw w o a d => Sys2Proof.Machine.execQbLdw w o a d s
  | .qbStw w o a d => Sys2Proof.Machine.execQbStw w o a d s
  | .qbAdd im a d => Sys2Proof.Machine.execQbAdd im a d s
  | .qbSub im a d => Sys2Proof.Machine.execQbSub im a d s
  | .qbAnd im a d => Sys2Proof.Machine.execQbAnd im a d s
  | .qbOr im a d => Sys2Proof.Machine.execQbOr im a d s
  | .qbXor im a d => Sys2Proof.Machine.execQbXor im a d s
  | .qbShl im a d => Sys2Proof.Machine.execQbShl im a d s
  | .qbShr im a d => Sys2Proof.Machine.execQbShr im a d s
  | .qbCmp c a d => Sys2Proof.Machine.execQbCmp c a d s
  | .qbSkip n d => Sys2Proof.Machine.execQbSkip n d s
  | .qbLoop n => Sys2Proof.Machine.execQbLoop n s
  | .qbEndl => Sys2Proof.Machine.execQbEndl s
  | .qbLaunch w o a d => Sys2Proof.Machine.execQbLaunch w o a d s
  | .qbChain a => Sys2Proof.Machine.execQbChain a s
  | .qbCopy c d => Sys2Proof.Machine.execQbCopy c d s
  | .qbArrive st n a => Sys2Proof.Machine.execQbArrive st n a s
  | .qbWaitb st n a => Sys2Proof.Machine.execQbWaitb st n a s
  | .qbWaitbWake d => Sys2Proof.Machine.execQbWaitbWake d s
  | .qbSignal a d => Sys2Proof.Machine.execQbSignal a d s
  | .qbArm im a d => Sys2Proof.Machine.execQbArm im a d s
  | .qbCond w o a d => Sys2Proof.Machine.execQbCond w o a d s
  | .qbIrq v => Sys2Proof.Machine.execQbIrq v s
  | .qbDline im a => Sys2Proof.Machine.execQbDline im a s
  | .qbBand b => Sys2Proof.Machine.execQbBand b s
  | .qbFence => Sys2Proof.Machine.execQbFence s
  | .qbRdclk d => Sys2Proof.Machine.execQbRdclk d s
  | .qbDone => Sys2Proof.Machine.execQbDone s
  | .qbFail f => Sys2Proof.Machine.execQbFail f s
  | .bundleDispatch n => Sys2Proof.Machine.execBundleDispatch n s
  | .pageEntry n => Sys2Proof.Machine.execPageEntry n s
  | .resultLanding n => Sys2Proof.Machine.execResultLanding n s
  | .foldStepLanding q => Sys2Proof.Machine.execFoldStepLanding q s
  | .drainAccumulate q => Sys2Proof.Machine.execDrainAccumulate q s
  | .loadReply n im units => Sys2Proof.Machine.execLoadReply n im units s
  | .storePerformed n im units => Sys2Proof.Machine.execStorePerformed n im units s
  | .atomicExecute n im => Sys2Proof.Machine.execAtomicExecute n im s
  | .mailWrite n m en v => Sys2Proof.Machine.execMailWrite n m en v s
  | .waitMonitorWrite pa => Sys2Proof.Machine.execWaitMonitorWrite pa s
  | .hostSnoop pa => Sys2Proof.Machine.execHostSnoop pa s
  | .waitPollTick n im => Sys2Proof.Machine.execWaitPollTick n im s
  | .waitTimeout n im => Sys2Proof.Machine.execWaitTimeout n im s
  | .mailTimeout n => Sys2Proof.Machine.execMailTimeout n s
  | .tokenTimeout n => Sys2Proof.Machine.execTokenTimeout n s
  | .barrierTimeout n => Sys2Proof.Machine.execBarrierTimeout n s
  | .wdogExpired n => Sys2Proof.Machine.execWdogExpired n s
  | .translationWalk w => Sys2Proof.Machine.execTranslationWalk w s
  | .pageRequestTaken q => Sys2Proof.Machine.execPageRequestTaken q s
  | .wake pa => Sys2Proof.Machine.execWake pa s
  | .parkLimitSuspend n => Sys2Proof.Machine.execParkLimitSuspend n s
  | .parkTimeout n => Sys2Proof.Machine.execParkTimeout n s
  | .xshootStart => Sys2Proof.Machine.execXshootStart s
  | .xshootComplete => Sys2Proof.Machine.execXshootComplete s
  | .windowFillDone n w g => Sys2Proof.Machine.execWindowFillDone n w g s
  | .mbreplyContinue n => Sys2Proof.Machine.execMbreplyContinue n s
  | .mbreplyResume n => Sys2Proof.Machine.execMbreplyResume n s
  | .mbreplyRestart n => Sys2Proof.Machine.execMbreplyRestart n s
  | .mbreplyTerminate n => Sys2Proof.Machine.execMbreplyTerminate n s
  | .mbreplyHalt n => Sys2Proof.Machine.execMbreplyHalt n s
  | .ctxCreate => Sys2Proof.Machine.execCtxCreate s
  | .ctxDestroy => Sys2Proof.Machine.execCtxDestroy s
  | .ctxRelease => Sys2Proof.Machine.execCtxRelease s
  | .contextScrubDone t => Sys2Proof.Machine.execContextScrubDone t s
  | .leaseGrant q => Sys2Proof.Machine.execLeaseGrant q s
  | .fctlClr n => Sys2Proof.Machine.execFctlClr n s
  | .fctlSetg n g => Sys2Proof.Machine.execFctlSetg n g s
  | .cmdAccept c => Sys2Proof.Machine.execCmdAccept c s
  | .cmdActivate c => Sys2Proof.Machine.execCmdActivate c s
  | .cmdDone c => Sys2Proof.Machine.execCmdDone c s
  | .cmdFail c => Sys2Proof.Machine.execCmdFail c s
  | .cabort c => Sys2Proof.Machine.execCabort c s
  | .engineParkLimit c => Sys2Proof.Machine.execEngineParkLimit c s
  | .reschedJob d => Sys2Proof.Machine.execReschedJob d s
  | .qcmdDefine => Sys2Proof.Machine.execQcmdDefine s
  | .qcmdDelete => Sys2Proof.Machine.execQcmdDelete s
  | .doorbellTail q v => Sys2Proof.Machine.execDoorbellTail q v s
  | .doorbellWake q v => Sys2Proof.Machine.execDoorbellWake q v s
  | .queueMap q => Sys2Proof.Machine.execQueueMap q s
  | .queueAccept q => Sys2Proof.Machine.execQueueAccept q s
  | .queueRun d => Sys2Proof.Machine.execQueueRun d s
  | .queueUnblock q => Sys2Proof.Machine.execQueueUnblock q s
  | .queueUnmap q => Sys2Proof.Machine.execQueueUnmap q s
  | .irqcoalWrite v x => Sys2Proof.Machine.execIrqcoalWrite v x s
  | .irqTmaxExpiry v => Sys2Proof.Machine.execIrqTmaxExpiry v s
  | .msixUnmask v m => Sys2Proof.Machine.execMsixUnmask v m s
  | .quadClaim h => Sys2Proof.Machine.execQuadClaim h s
  | .reserveRetry h => Sys2Proof.Machine.execReserveRetry h s
  | .nodeCommit h => Sys2Proof.Machine.execNodeCommit h s
  | .taskStart n => Sys2Proof.Machine.execTaskStart n s
  | .taskFinish n => Sys2Proof.Machine.execTaskFinish n s
  | .nodeFinish h => Sys2Proof.Machine.execNodeFinish h s
  | .barrierArrival im => Sys2Proof.Machine.execBarrierArrival im s
  | .barrierCompletion im => Sys2Proof.Machine.execBarrierCompletion im s
  | .bcfgWrite b v => Sys2Proof.Machine.execBcfgWrite b v s
  | .arrivePortWrite p => Sys2Proof.Machine.execArrivePortWrite p s
  | .lctlEnable p m => Sys2Proof.Machine.execLctlEnable p m s
  | .lctlDisable p => Sys2Proof.Machine.execLctlDisable p s
  | .lctlIsolate p => Sys2Proof.Machine.execLctlIsolate p s
  | .lctlUnisolate p => Sys2Proof.Machine.execLctlUnisolate p s
  | .linkTrainingDone p g m r => Sys2Proof.Machine.execLinkTrainingDone p g m r s
  | .linkTrainingTimeout p => Sys2Proof.Machine.execLinkTrainingTimeout p s
  | .linkRetrain p => Sys2Proof.Machine.execLinkRetrain p s
  | .linkRetrainDone p g => Sys2Proof.Machine.execLinkRetrainDone p g s
  | .linkRetrainTimeout p => Sys2Proof.Machine.execLinkRetrainTimeout p s
  | .flitReceive p f => Sys2Proof.Machine.execFlitReceive p f s
  | .replayRequest p l => Sys2Proof.Machine.execReplayRequest p l s
  | .podwinWrite w o v => Sys2Proof.Machine.execPodwinWrite w o v s
  | .podcfgWrite v => Sys2Proof.Machine.execPodcfgWrite v s
  | .uncorrectableError u => Sys2Proof.Machine.execUncorrectableError u s
  | .hbmParityAlert pa => Sys2Proof.Machine.execHbmParityAlert pa s
  | .hbmRefreshLimit k => Sys2Proof.Machine.execHbmRefreshLimit k s
  | .hbmRepair pa => Sys2Proof.Machine.execHbmRepair pa s
  | .tableVoteFail k => Sys2Proof.Machine.execTableVoteFail k s
  | .schedulerRestart d => Sys2Proof.Machine.execSchedulerRestart d s
  | .moduleReset => Sys2Proof.Machine.execModuleReset s
  | .getMeasurements => Sys2Proof.Machine.execGetMeasurements s
  | .getCertificate => Sys2Proof.Machine.execGetCertificate s
  | .swallowUpdate q r c => Sys2Proof.Machine.execSwallowUpdate q r c s
  | .thermalEvent q => Sys2Proof.Machine.execThermalEvent q s
  | .thermalClear q => Sys2Proof.Machine.execThermalClear q s
  | .dbgHaltRequest d v => Sys2Proof.Machine.execDbgHaltRequest d v s
  | .dbgResume d v => Sys2Proof.Machine.execDbgResume d v s
  | .dbgAccessRegister d c => Sys2Proof.Machine.execDbgAccessRegister d c s
  | .dbgAccessMemory d c => Sys2Proof.Machine.execDbgAccessMemory d c s
  | .traceArm d v => Sys2Proof.Machine.execTraceArm d v s
  | .traceStop d v => Sys2Proof.Machine.execTraceStop d v s
  | .traceSample n => Sys2Proof.Machine.execTraceSample n s
  | .monClear d m v => Sys2Proof.Machine.execMonClear d m v s
  | .hostAccess w x pa en v => Sys2Proof.Machine.execHostAccess w x pa en v s
  | .registerWrite pa v => Sys2Proof.Machine.execRegisterWrite pa v s
  | .laneSwapDone k => Sys2Proof.Machine.execLaneSwapDone k s
  | .schedulerRestartDone d => Sys2Proof.Machine.execSchedulerRestartDone d s
  | .traceCycleReached d e => Sys2Proof.Machine.execTraceCycleReached d e s
  | .monitorCycleSample q => Sys2Proof.Machine.execMonitorCycleSample q s

end Sys2Proof.Machine
end

