-- ==== Sys2Proof/Machine/Issue.lean ====
section
/-! DEFINITION. How the slots of a core issue a bundle: the faults at its aligned point, the fixed group, W and F (R10 to R16, R54,
R57 to R66, R79, R80, R90, R94, R99 to R102, R264 to R269, R274). -/

namespace Sys2Proof.Machine

open Host (Outcome)

/-! ## The syllables of a bundle (R54) -/

/-- The next state of an instruction. -/
def run (i : Instr) (s : State) : State :=
  match exec i s with
  | .next s' => s'
  | _ => s

/-! ## Faults at the aligned point (R65, R67, R79, R80, R102, R267) -/

/-- The vector registers that a V syllable reads or writes (R57, R60, R116, R117). -/
def vecRegs (u : BitVec 32) : List Nat :=
  let op := field u 25 7
  let d := if field u 24 1 = 1 then 63 else field u 18 6
  let a := field u 12 6
  let b := field u 6 6
  (if op = 0 ∨ (0x43 ≤ op ∧ op ≤ 0x46) then []
   else if op = 0x10 then [a, b]
   else if op = 0x11 then [field u 0 6]
   else if op ∈ [0x1A, 0x1B, 0x1C, 0x2D] then [d, field u 0 6]
   else if op ∈ [0x47, 0x48, 0x4B] then [d]
   else if op ∈ [0x0A, 0x0B, 0x16, 0x21, 0x22, 0x23, 0x24, 0x25, 0x26, 0x27, 0x34, 0x35, 0x36, 0x37, 0x38, 0x39, 0x3A, 0x3D,
      0x3E, 0x3F, 0x40, 0x41, 0x4A, 0x4C] then [d, a]
   else if op = 0x29 then [d, d + 1, a, b]
   else if op = 0x2B then [d, a, a + 1, b]
   else [d, a, b]).filter (fun r => r < 40)

/-- Every bank of some registers is bound to a slot. -/
def bound (s : State) (o : Owner) (l : List Nat) : Bool := l.all (fun r => vget s.regs.vec.banks (r / 10) .f = o)

/-- The vector registers of a `wide` syllable: its pair and its sources (R57, R180). -/
def wideRegs (u : BitVec 32) : List Nat :=
  if field u 25 7 = 0x08 then [field u 18 6, field u 18 6 + 1, field u 12 6, field u 6 6].filter (fun r => r < 40) else []

/-- F has the lease at the bundle's aligned point: held, or entered there by a SYNC bundle or a landing (R11). -/
def leaseAt (s : State) (b : Bundle) : Bool :=
  s.me.fold.lease = .held || (s.me.fold.lease = .granted && (b.sync || b.land))

/-- A syllable names a register in a bank not bound to its slot. A `wide` without a lease is NO_LEASE instead (R180). -/
def unbound (s : State) (b : Bundle) (p : Pos) (u : BitVec 32) : Bool :=
  match p with
  | .VA => !bound s .va (vecRegs u)
  | .VB => !bound s .vb (vecRegs u)
  | .F => leaseAt s b && !bound s .f (wideRegs u)
  | _ => false

/-- A task may not issue it (R67, R102). -/
def privileged' (i : Instr) : Bool :=
  match i with
  | .cAck | .cEscal | .cResume => true
  | .sSrd _ _ n => !taskReads n.toNat
  | .sSwr n _ => !taskWrites n.toNat
  | _ => false

/-- The causes of one syllable, in the order of R80: whether it is an illegal op, an illegal combination, a privileged or an
unbound one. -/
def sylFault (s : State) (b : Bundle) (p : Pos) (cause : Nat) : Bool :=
  let u := b.syl p
  match decodeFault s.me.outrider p u with
  | some c => cause = c
  | none =>
    match decodeSyl p u with
    | .ok i =>
      !s.me.outrider && ((cause = cPRIVILEGE && privileged' i) || (cause = cBANK_UNBOUND && unbound s b p u))
    | _ => false

/-- The fault a bundle takes at its aligned point: the first cause of R80, at its lowest position. -/
def bundleFault (s : State) (b : Bundle) : Option (Nat × Pos) :=
  [cILLEGAL_OP, cILLEGAL_COMBO, cPRIVILEGE, cBANK_UNBOUND].findSome? (fun c =>
    (posList.find? (fun p => sylFault s b p c)).map (fun p => (c, p)))

/-! ## Alignment (R12, R14, R15, R79, R96, R100, R192, R293, R348) -/

/-- F waits for no lease. -/
def fFree (s : State) : Bool := s.me.outrider || s.me.fold.lease ≠ .waiting

/-- The ops of C that first wait as a SYNC bundle does. -/
def alignsAll (op : Nat) : Bool := op ∈ [0x0C, 0x0F, 0x1A, 0x1B]
def alignsW (op : Nat) : Bool := op ∈ [0x15, 0x16, 0x17, 0x18, 0x19]

/-- A bundle at which every slot waits for the others: a SYNC bundle, a landing, one that faults as a whole, and those of some C
instructions. -/
def stopsAt (s : State) (b : Bundle) : Bool := b.sync || b.land || (bundleFault s b).isSome || alignsAll (cOp b)

/-- The slots are as far as the bundle asks. -/
def aligned (s : State) (b : Bundle) : Bool :=
  let p := s.pipe
  (!(stopsAt s b || alignsW (cOp b)) || p.bn ≤ p.wn) && (!stopsAt s b || (p.bn ≤ p.fn && fFree s))

/-- The next bundle is not yet 16 ahead of the next bundle of W or F (R15). -/
def inSlip (s : State) : Bool := s.pipe.bn < s.pipe.wn + 16 && s.pipe.bn < s.pipe.fn + 16

/-- W or F may issue its syllable of bundle k, which the fixed group has not issued: no slot waits for the others at that bundle
or before it, no C instruction stands between, and no slot is then more than 16 bundles behind (R12, R15; log entry 10). -/
def mayLead (s : State) (k : Nat) : Bool :=
  let p := s.pipe
  p.after.isNone && k < p.dn && k < p.bn + 16 && k < p.wn + 16 && k < p.fn + 16 &&
  (List.range (k - p.bn)).all (fun i =>
    match p.ahead (p.bn + i) with | some b => !stopsAt s b && b.syl .C = 0 | none => true) &&
  (match p.ahead k with | some b => !stopsAt s b | none => true)

/-! ## Captures (R59, R94, R129) -/

/-- A W syllable with its operands as the fixed group issues its bundle; `d` holds a store's data (R59, R266). -/
def captureW (s : State) (b : Bundle) (i : Instr) : WEntry :=
  let e : WEntry := ⟨b.syl .W, b.addr, s.pipe.bn, 0, 0, 0, 0, 0, true, 0⟩
  let x := fun (r : BitVec 6) => srcW r s
  let br := fun (r : BitVec 3) => s.bridge (BitVec.ofNat 6 (48 + r.toNat))
  match i with
  | .wSt d a c _ | .wStst d a c _ | .wStsc d a c _ | .wStg d a c _ | .wStgsc d a c _ => { e with a := x a, b := x c, d := x d }
  | .wStx d a c | .wStw d a c | .wStgx d a c | .wStnt d a c | .wGo d a c | .wApw d a c | .wStamp d a c =>
    { e with a := x a, b := x c, d := x d }
  | .wStacc d a c _ => { e with a := x a, b := x c, d := x d }
  | .wSti j _ _ d | .wStgi j _ _ d => { e with d := x d, base := s.base j, q := s.stage j }
  | .wStm m a c => { e with a := x a, b := x c, d := natVec (s.mask .W m).toNat, mask := s.mask .W m }
  | .wStrel _ a c _ => { e with a := x a, b := x c, d := x c }
  | .wAmo _ _ a c _ _ | .wAmoacq _ _ _ a c _ _ | .wAmorel _ _ _ a c _ _ => { e with a := x a, b := x c }
  | .wCas _ _ a c r _ | .wCasacq _ _ _ a c r _ | .wCasrel _ _ _ a c r _ => { e with a := x a, b := x c, e := br r }
  | .wDiscard a c | .wMailw _ a c | .wWb a c | .wInv a c | .wRingDb a c | .wRingWk a c => { e with a := x a, b := x c }
  | .wArrive _ a _ | .wTkset a => { e with a := x a }
  | _ => e

/-- The W syllable of bundle k in W's queue takes operands. -/
def Pipe.capture (k : Nat) (e : WEntry) (p : Pipe) : Pipe := { p with wq := p.wq.map (fun x => if x.bn = k then e else x) }

/-- The operands of the W syllable are captured, unless W has issued it, and a base form's post-increment is made. -/
def enterW (b : Bundle) (i : Instr) (s : State) : State :=
  let s1 := s.modPipe (fun p => p.capture p.bn (captureW s b i))
  match i with
  | .wNop => s
  | .wSti j p o _ | .wStgi j p o _ => if s.stage j then postInc s1 j p o 256 else s1
  | _ => s1

/-! ## Emulated syllables (R268) -/

/-- What an L opcode that reserves an entry delivers. -/
def deliversAs (i : Instr) : Option Deliver :=
  match i with
  | .lLd _ _ t | .lLdg _ _ t | .lLdacq _ _ t => some (scalarOf t)
  | .lWait _ _ _ t | .lWaitne _ _ _ t => some (.scalar false (tyWidth t.toNat))
  | .lLdb _ _ _ _ | .lLdstamp _ _ | .lXlat _ _ => some (.scalar false 64)
  | .lLdi _ _ _ _ | .lLdst _ _ _ | .lLdx _ _ | .lLdsc _ _ _ | .lLdw _ _ _ | .lLdgi _ _ _ _ | .lLdgx _ _ => some .vec
  | .lLdgsc _ _ _ | .lLdr _ _ _ | .lLdacc _ _ | .lLdaccw _ _ | .lLdz _ _ | .lLds _ _ | .lLdnt _ _ => some .vec
  | _ => none

/-- The post-increment of a base form of L or K. -/
def incOf (i : Instr) (s : State) : State :=
  match i with
  | .lLdi j p o _ | .lLdgi j p o _ | .kLdi j _ p o _ => postInc s j p o 256
  | .lLdb j p o _ => postInc s j p o 8
  | _ => s

/-- A fixed-group syllable that faulted issues with its emulated effect: a load delivers TDBUF at the end of its issue cycle. -/
def emulFixed (i : Instr) (s : State) : State :=
  match deliversAs i with
  | some how => withEntry s (fun s => incOf i (reserveFixed 1 (deliver how s.regs.trap.tdbuf.toNat) none s))
  | none => incOf i s

/-! ## One syllable of the fixed group -/

/-- The outrider has met a fault, or the task has been trapped, since state s0. -/
def faulted (s0 s : State) : Bool :=
  match s.me.regs.out with
  | .double _ _ | .fault _ _ => true
  | .running => s0.me.regs.out = .off
  | _ => false

/-- The bundle can go no further: a syllable holds, trapped, or halted the core, or the core lost its task. -/
def stopped (s0 s : State) : Bool :=
  s.pipe.waits || faulted s0 s || (s.me.halt.halted && !s0.me.halt.halted) || s.regs.run = .idle

/-- Issue the syllable at a position, unless an earlier one of the bundle stopped it. -/
def issueAt (s0 : State) (b : Bundle) (p : Pos) (s : State) : State :=
  if stopped s0 s then s
  else match b.instr p with
    | none => s
    | some i =>
      if p = .W then enterW b i s
      else if p = .F && !s.fGroup then s
      else if p = .L && (deliversAs i).isSome && ldqCap s.me ≤ s0.pipe.ldq.length then fixedTrap s cLDQ_OVERFLOW 0 .L
      else if s.regs.emul.contains p.num then emulFixed i s
      else run i s

/-! ## The bundle -/

/-- A SYNC bundle or a landing: the bridge and the masks are copied, and F joins the fixed group under a lease (R11, R14, R66). -/
def align (s : State) : State :=
  let s1 := s.modPipe (fun p =>
    { p with bridge := Vector.ofFn (fun i => vget p.s i.val 0), pSync := p.p, pOwn := [] })
  if !s1.me.outrider && s1.me.fold.lease = .granted then s1.modMe (fun c => { c with fold := { c.fold with lease := .held } })
  else s1

/-- The bundle of state s0 does not issue: what stays of s is what a trap or a halt leaves, and the caches. A trap withdraws what
W has issued ahead (R264). -/
def retake (s0 s : State) : State :=
  let c := s.me
  let o := s0.me.outrider
  let trapped := !o && faulted s0 s
  let s1 := s0.modMe (fun x =>
    { x with
      regs := { x.regs with
        trap := c.regs.trap
        out := c.regs.out
        task := if trapped then x.regs.task.withdraw else x.regs.task
        outr := if o then x.regs.outr else c.regs.outr
        hold := c.regs.hold }
      fold := { x.fold with fail := c.fold.fail }
      watch := c.watch
      halt := c.halt
      cache := { c.cache with acq := x.cache.acq } })
  { s1.modQuad s.myQuad (fun q => { q with trapRec := (s.quad s.myQuad).trapRec }) with dbg := s.dbg, fresh := s.fresh }

/-- The bundle holds: the walks it asked for stay (R12). -/
def holdBundle (s0 s : State) : State :=
  { s0.modMe (fun x => { x with cache := { s.me.cache with acq := x.cache.acq } }) with fresh := s.fresh }

/-- A cycle of a C wait has passed (R98, R192, R348). -/
def countHold (s : State) : State :=
  s.modRegs (fun r =>
    { r with hold := match r.hold with
      | some h => if h.bn = s.pipe.bn then some { h with cycles := h.cycles + 1 }
          else some ⟨s.pipe.bn, 1, (s.quad s.myQuad).cycle, (regtop r.region).toNat % 2 ^ 16⟩
      | none => some ⟨s.pipe.bn, 1, (s.quad s.myQuad).cycle, (regtop r.region).toNat % 2 ^ 16⟩ })

/-- The fixed group issues its next bundle, or an empty one: an issue count passes; g says that F is one of the group (R11, R99,
R274). -/
def countBundle (n : Nat) (o g : Bool) (s : State) : State :=
  let s1 := s.modPipeOf n o (fun p => { p with count := p.count + 1, bn := p.bn + 1, fn := if g then p.bn + 1 else p.fn })
  if o then s1
  else s1.modCore n (fun c => c.modRegs (fun r =>
    { r with lim := { r.lim with wdcnt := r.lim.wdcnt + 1 }, trap := { r.trap with tstatus := r.trap.tstatus &&& 0x3F } }))

/-- An empty bundle issues in place of the one that waits (R175). -/
def emptyBundle (n : Nat) (o g : Bool) (s : State) : State :=
  countBundle n o g ((s.modPipeOf n o (fun p => p.insert p.bn 1)).modCore n (fun c =>
    { c with watch := { c.watch with reported := c.watch.reported.map (fun r =>
      if (c.pipeOf o).bn ≤ r.1 then (r.1 + 1, r.2) else r) } }))

/-- The bundle has issued: it leaves the queue. -/
def bundleDone (n : Nat) (o g : Bool) (s : State) : State :=
  countBundle n o g ((s.modPipeOf n o (fun p =>
    { p with bq := p.bq.tail, fq := if g then p.fq.filter (fun e => p.bn < e.bn) else p.fq })).modCore n (fun c =>
      c.modRegs (fun r => { r with emul := if o then r.emul else r.emul.filter (fun x => x = 5), hold := none })))

/-- C syllables whose bundle completes though the core is then halted or stops (R97, R268, R384). -/
def actsLast (op : Nat) : Bool := op ∈ [0x0D, 0x0E, 0x14]

/-- C syllables that take effect after every other syllable of their bundle has issued (R101, R268). -/
def actsAfter (op : Nat) : Bool := op ∈ [0x10, 0x11, 0x12]

/-- C syllables that wait, or test the state at the start of the cycle, before any other syllable of the bundle takes effect
(R96, R98, R100, R192, R268, R293, R348). -/
def testsFirst (op : Nat) : Bool := op ∈ [0x0C, 0x0F, 0x12, 0x15, 0x16, 0x18, 0x1A, 0x1B, 0x1C]

/-- Those of them that have their whole effect then. -/
def endsWait (op : Nat) : Bool := op ∈ [0x15, 0x16, 0x18, 0x1C]

/-- The C syllable's effect, once the others of the fixed group have had theirs; t is the state that its test gave. -/
def issueC (s0 t : State) (b : Bundle) (s : State) : State :=
  if endsWait (cOp b) then s
  else if cOp b = 0x0C then s.modRegs (fun r => { r with vec := { r.vec with banks := t.regs.vec.banks } })
  else if actsAfter (cOp b) then s.modPipe (fun p => { p with after := some b })
  else issueAt s0 b .C s

/-- The slots of the fixed group but C issue, and W's operands are captured; s0 is the state at the start of the cycle. -/
def issueSlots (s0 : State) (b : Bundle) (s : State) : State :=
  [Pos.S, .VA, .VB, .L, .W, .F, .K].foldl (fun s p => issueAt s0 b p s) s

/-- A fault of R79 is found at decode: the bundle is decoded again when execution returns to it. -/
def Pipe.redecode (b : Bundle) (p : Pipe) : Pipe :=
  { p with
    bq := []
    wq := p.wq.filter (fun e => e.bn < p.bn)
    fq := p.fq.filter (fun e => e.bn < p.bn)
    pc := b.addr
    land := b.land }

/-- The fixed group issues the bundle at the head of its queue, or it holds, or it traps. -/
def issueBundle (b : Bundle) (s0 : State) : State :=
  let n := s0.cur.toNat
  let o := s0.me.outrider
  match bundleFault s0 b with
  | some (c, p) =>
    takeTrap (if c = cILLEGAL_OP || c = cILLEGAL_COMBO then s0.modPipe (fun x => x.redecode b) else s0) c 0 p.num b.addr false false
  | none =>
    let s1 := if b.sync || b.land then align s0 else s0
    let g := s1.fGroup
    let t := if testsFirst (cOp b) then issueAt s0 b .C s1 else s1
    if faulted s0 t then retake s0 t
    else if t.pipe.waits then (if o then holdBundle s0 t else countHold (holdBundle s0 t))
    else
      let s2 := issueSlots s0 b (if endsWait (cOp b) then t else s1)
      if s2.regs.run = .idle then s2
      else if faulted s0 s2 || (s2.me.halt.halted && !s0.me.halt.halted) then retake s0 s2
      else if s2.pipe.waits then
        (if s2.pipe.empty then emptyBundle n o g (holdBundle s0 s2) else holdBundle s0 s2)
      else
        let s3 := issueC s0 t b (applyInc s2)
        if actsLast (cOp b) then bundleDone n o g s3
        else if faulted s0 s3 then retake s0 s3
        else if s3.pipe.waits then holdBundle s0 s3
        else bundleDone n o g s3

/-- The head bundle of the queue issues if it may: aligned, within the slip, and at a landing with nothing in flight (R12, R14). -/
def issueHead (s : State) : State :=
  match s.pipe.bq with
  | [] => s
  | b :: _ => if aligned s b && inSlip s then issueBundle b s else s

/-! ## W and F outside the fixed group (R12, R15, R264) -/

/-- W passes an empty syllable. -/
def wPass (s : State) : State := s.modPipe (fun p => { p with wn := p.wn + 1 })

/-- W issues the syllable at the head of its queue. -/
def issueWHead (e : WEntry) (s : State) : State :=
  if s.regs.emul.contains 5 && !s.me.outrider then wPop (s.modRegs (fun r => { r with emul := r.emul.filter (fun x => x ≠ 5) }))
  else match decodeSyl .W e.syl with
    | .ok i => run i s
    | _ => wPop s

/-- The syllable may issue before the fixed group issues its bundle: it reads no latch and no base register, orders nothing, and
leaves nothing but its queue entry or its scratchpad write; R189 forbids it of `go`, `apw`, `stamp` and `tkset` (R136, R142, R264;
log entry 10). -/
def leadsW (u : BitVec 32) (i : Instr) : Bool :=
  let sel := fun (lo : Nat) => !(40 ≤ field u lo 6 && field u lo 6 < 48)
  match i with
  | .wSt _ _ _ _ | .wStx _ _ _ | .wStst _ _ _ _ | .wStsc _ _ _ _ | .wStacc _ _ _ _ | .wStg _ _ _ _ | .wStgx _ _ _
  | .wStgsc _ _ _ _ | .wStnt _ _ _ => sel 18 && sel 12 && sel 6
  | .wStm _ _ _ | .wAmo _ _ _ _ _ _ | .wAmoacq _ _ _ _ _ _ _ | .wAmorel _ _ _ _ _ _ _ | .wCas _ _ _ _ _ _
  | .wCasacq _ _ _ _ _ _ _ | .wCasrel _ _ _ _ _ _ _ | .wDiscard _ _ | .wWb _ _ | .wInv _ _ | .wMailw _ _ _ | .wRingDb _ _
  | .wRingWk _ _ => sel 12 && sel 6
  | _ => false

/-- The slot has trapped or halted the core: ahead of the fixed group it holds instead, and traps once its bundle has issued. -/
def unlessStopped (s t : State) : State := if faulted s t || (t.me.halt.halted && !s.me.halt.halted) then s else t

/-- W issues a syllable of a bundle that the fixed group has not issued. -/
def leadW (s : State) : State :=
  let p := s.pipe
  match p.wq, p.ahead p.wn with
  | e :: _, some b =>
    if e.bn = p.wn then
      match b.instr .W with
      | some i =>
        if leadsW e.syl i then
          unlessStopped s (run i (s.modPipe (fun x => x.capture p.wn { captureW s b i with bn := p.wn })))
        else s
      | none => s
    else wPass s
  | _, _ => wPass s

/-- W's turn. -/
def issueW (s : State) : State :=
  let p := s.pipe
  if p.wn < p.bn then
    match p.wq with
    | e :: _ => if e.bn = p.wn then issueWHead e s else wPass s
    | [] => wPass s
  else if mayLead s p.wn then leadW s
  else s

def fPass (s : State) : State := s.modPipe (fun p => { p with fn := p.fn + 1 })

/-- F issues the syllable at the head of its queue. -/
def issueFHead (e : FEntry) (s : State) : State :=
  match decodeSyl .F e.syl with
  | .ok i =>
    let s1 := run i s
    if faulted s s1 || s1.pipe.waits then s1.modPipeOf s.cur.toNat false (fun p => { p with waits := false })
    else fPass (s1.modPipe (fun p => { p with fq := p.fq.tail }))
  | _ => fPass (s.modPipe (fun p => { p with fq := p.fq.tail }))

/-- F's turn outside the fixed group. -/
def issueF (s : State) : State :=
  let p := s.pipe
  if p.fn < p.bn || mayLead s p.fn then
    match p.fq with
    | e :: _ =>
      if e.bn = p.fn then (if p.fn < p.bn then issueFHead e s else unlessStopped s (issueFHead e s)) else fPass s
    | [] => fPass s
  else s

/-- W and F have issued the bundle whose `c.trap`, `c.brk` or `c.resume` waits for them: it takes effect (R101). -/
def afterTurn (s : State) : State :=
  let p := s.pipe
  match p.after with
  | none => s
  | some b =>
    if p.bn ≤ p.wn && p.bn ≤ p.fn then
      match b.instr .C with
      | some i =>
        let t := run i s
        if t.pipe.waits && t.me.outrider then s
        else t.modPipeOf s.cur.toNat s.me.outrider (fun p => { p with after := none })
      | none => s
    else s

end Sys2Proof.Machine
end

