-- ==== Sys2Proof/Machine/Cycle.lean ====
section
/-! DEFINITION. One clock pulse of a quad (R8, R12, R13, R15, R17, R18, R30, R90, R91, R99, R247, R263, R384, R388 to R393). -/

namespace Sys2Proof.Machine

/-! ## Settling (R13, R90, R100) -/

/-- One cycle of a settle: what is in flight advances, and no issue count passes. -/
def Pipe.settle (p : Pipe) : Pipe :=
  { p with
    flight := p.flight.map (fun f => { f with due := f.due - 1 })
    ldq := p.ldq.map (fun e => { e with fixed := e.fixed.map (fun d => d - 1) }) }

/-- The array's results of the core numbered c in its quad. -/
def FoldArray.settle (a : FoldArray) (c : Nat) : FoldArray :=
  { a with
    flight := a.flight.map (fun f => if f.core = c then { f with due := f.due - 1 } else f)
    drains := a.drains.map (fun d => if d.core = c then { d with due := d.due - 1 } else d)
    stNext := if a.holder = some c then a.stNext.map (fun e => (e.1 - 1, e.2)) else a.stNext }

def settleCycle (s : State) : State :=
  let s1 := s.modPipe Pipe.settle
  if s.me.outrider then s1 else s1.modArray s.myQuad (fun a => a.settle s.myPart)

/-- The core leaves its page, ends its task, or has a landing next: results in flight advance without a bundle. -/
def settling (s : State) : Bool :=
  !landed s &&
  (match s.pipe.bq with
   | b :: _ => s.pipe.gap = 0 && b.land && aligned s b
   | [] => s.pipe.gap = 0 &&
      ((match s.pipe.target with | some t => !t.couple | none => false) || (!s.me.outrider && s.regs.run ≠ .running)))

/-! ## Limits and faults that wait for the aligned point -/

/-- The limits of waits and of the watchdog (R98, R192, R274, R348). -/
def limits (s : State) : State :=
  let n := s.cur.toNat
  let ok := fun (x : State) => x.regs.out = s.regs.out
  let s1 := mailTimeout n s
  let s2 := if ok s1 then tokenTimeout n s1 else s1
  let s3 := if ok s2 then barrierTimeout n s2 else s2
  if ok s3 then wdogTrap s3 else s3

/-- A fault found at fetch or past a page's last bundle is taken once every slot has issued. -/
def takeStop (s : State) : State :=
  match s.pipe.stop with
  | none => s
  | some x =>
    let p := s.pipe
    if p.bq.isEmpty && p.gap = 0 && p.after.isNone && p.bn ≤ p.wn && p.bn ≤ p.fn && fFree s then
      let s1 := s.modPipe (fun p => { p with stop := none })
      if x.fetch then takeFetch ⟨x.cause, x.taddr, x.why⟩ x.addr s1 else takeTrap s1 x.cause x.taddr x.slot x.addr false false
    else s

/-! ## One core in one pulse -/

/-- Fetch and dispatch a bundle. -/
def feed (s : State) : State :=
  let s1 := enterPage s
  if s1.me.issues then
    let s2 := dispatchBundle s1
    if (match s2.pipe.target with | some t => t.couple | none => false) then dispatchBundle (enterPage s2) else s2
  else s1

/-- The fixed group's turn. -/
def fixedTurn (s : State) : State :=
  if s.pipe.after.isSome then s
  else if settling s then settleCycle s
  else if s.pipe.refill ≠ 0 then s
  else if s.pipe.gap ≠ 0 then
    (if inSlip s then
      countBundle s.cur.toNat s.me.outrider (s.fGroup && !s.me.outrider) (s.modPipe (fun p => { p with gap := p.gap - 1 })) else s)
  else issueHead s

/-- The fixed group has issued a SYNC bundle or a landing since s0: W and F issue it in the same cycle (R14). -/
def issuedSync (s0 s : State) : Bool :=
  s.pipe.bq.length < s0.pipe.bq.length && (match s0.pipe.bq with | b :: _ => s0.pipe.gap = 0 && (b.sync || b.land) | [] => false)

/-- The core still issues from the same pipelines as in s0. -/
def goesOn (s0 s : State) : Bool := s.me.issues && s.me.outrider = s0.me.outrider

/-- The fixed group has issued or settled since s0. -/
def moved (s0 s : State) : Bool :=
  let p := s.pipe
  let q := s0.pipe
  p.count ≠ q.count || p.flight ≠ q.flight || p.bq.length < q.bq.length || p.refill ≠ 0

def isParkRes (x : Walk) : Bool := match x.res with | some (.park _) => true | _ => false

/-- A request of the load queue, or of the store queue, is parked. -/
def loadsParked (p : Pipe) : Bool := p.lq.any (fun r => r.park.isSome)
def storesParked (p : Pipe) : Bool := p.sq.any (fun r => r.park.isSome)

/-- How many entries of the load data queue the bundle pops. -/
def popsOf (b : Bundle) : Nat := (posList.map (fun p => (sylUses 3 b.bits p).pops)).foldl (· + ·) 0

/-- A pop of the bundle is of an entry that waits for a parked load. -/
def popsParked (p : Pipe) (b : Bundle) : Bool :=
  (p.ldq.take (popsOf b)).any (fun e => !e.out && p.lq.any (fun r => r.entry = some e.id && r.park.isSome))

/-- An L syllable that waits for an entry of the load queue, and a W syllable that takes one of the store queue, or of both (R16). -/
def takesLoad (u : BitVec 32) : Bool :=
  field u 25 7 ∈ [0x08, 0x09, 0x0A, 0x0B, 0x0C, 0x0D, 0x0E, 0x0F, 0x13, 0x17, 0x1B, 0x1C, 0x1D]
def takesStore (u : BitVec 32) : Bool :=
  !(field u 25 7 ∈ [0x00, 0x01, 0x02, 0x03, 0x04, 0x05, 0x06, 0x0C, 0x0D])
def takesBoth (u : BitVec 32) : Bool := 0x0E ≤ field u 25 7 && field u 25 7 ≤ 0x15

/-- The bundle that the fixed group would issue holds on a parked access: at a pop, at a full queue, or under a watchpoint (R12,
R246). -/
def bundleParked (s : State) (b : Bundle) : Bool :=
  let p := s.pipe
  aligned s b && inSlip s &&
    (popsParked p b || s.me.cache.walkL.any isParkRes ||
      (p.lqFull && loadsParked p && takesLoad (b.syl .L)))

/-- W holds at the next syllable of its queue, in a bundle that the fixed group has issued or waits to issue with it (R14), on a
parked access. -/
def wParked (s0 s : State) : Bool :=
  let p := s.pipe
  match p.wq with
  | e :: _ =>
    p.wn = s0.pipe.wn && e.bn = p.wn &&
      (p.wn < p.bn || (p.wn = p.bn && (match p.bq with | b :: _ => p.gap = 0 && (b.sync || b.land) && aligned s b | [] => false))) &&
      (s.me.cache.walkW.any isParkRes || (p.sqFull && storesParked p && takesStore e.syl) ||
        (p.lqFull && loadsParked p && takesBoth e.syl))
  | [] => false

/-- The fixed group or W holds on a parked access or fetch (R247). -/
def onPark (s0 s : State) : Bool :=
  let p := s.pipe
  let cWait := match s.regs.hold with | some h => h.bn = p.bn | none => false
  let fixedHeld := !moved s0 s && !cWait && p.gap = 0 &&
    ((match p.bq with | b :: _ => p.after.isNone && bundleParked s b | [] => s.me.cache.walkF.any isParkRes) ||
      ((s.regs.run ≠ .running || s.me.outrider) && (loadsParked p || storesParked p)))
  fixedHeld || wParked s0 s

/-- The park of a core begins, goes on, or is over. -/
def notePark (s0 s : State) : State :=
  if onPark s0 s then
    s.modRegs (fun r => { r with lim := { r.lim with parkFrom := r.lim.parkFrom.or (some s.now) } })
  else endPark s.cur.toNat s

/-- The task has been held for the outrider, or goes on after it: the walks its slots and its fetch asked for are asked for again. -/
def freshWalks (s0 s : State) : State :=
  if s.me.outrider = s0.me.outrider then s
  else s.modMe (fun c => { c with cache := { c.cache with walkL := [], walkW := [], walkF := [] } })

/-- W and F have issued the bundle numbered k. -/
def issuedAll (k : Nat) (s : State) : Bool := k < s.pipe.wn && k < s.pipe.fn

/-- One pulse of the current core: limits, fetch, the fixed group, W and F; wl and fl say that W or F does not issue. A SYNC bundle
or a landing that W or F cannot issue in the same cycle is held in every slot (R14). -/
def coreTurn (wl fl : Bool) (s : State) : State :=
  if !s.me.issues then s
  else
    let s0 := walkAgain (s.modPipe (fun p => { p with waits := false, empty := false }))
    let sB := badTrap s0
    let s1 := if goesOn s0 sB then feed sB else sB
    let s2 := if goesOn s0 s1 then takeStop s1 else s1
    let s3 := if goesOn s0 s2 then limits s2 else s2
    let s4 := if goesOn s0 s3 then fixedTurn s3 else s3
    let sync := issuedSync s3 s4
    let s5 := if goesOn s0 s4 && (!wl || sync) then issueW s4 else s4
    let sF := if goesOn s0 s5 && (!fl || sync) && (s5.me.outrider || (!s5.fGroup && s5.me.fold.lease ≠ .waiting)) then issueF s5
      else s5
    let s6 := if sync && goesOn s0 sF && !issuedAll s3.pipe.bn sF then holdBundle s3 sF else sF
    let s7 := if goesOn s0 s6 then afterTurn s6 else s6
    let s8 := freshWalks s0 (s7.modPipe (fun p => { p with waits := false, empty := false }))
    if goesOn s0 s8 then notePark s0 s8 else s8

/-- The three cycles between a settle and the first bundle of its target have begun (R90). -/
def refillTurn (s : State) : State :=
  if s.pipe.refill ≠ 0 && (settled s || (match s.pipe.target with | some t => t.couple | none => true)) then
    s.modPipe (fun p => { p with refill := p.refill - 1 })
  else s

/-- The end of a cycle at core n; a core that nothing has touched since reset has nothing to land. -/
def coreEnd (n : Nat) (s : State) : State :=
  if (fget? s.cores n).isNone then s
  else
    let s1 := landHits n true 64 (landHits n false 64 s)
    let s2 := deliverEntries n true (deliverEntries n false s1)
    let s3 := landResults n (landMail n s2)
    let s4 := landWrites n s3
    let s5 := if (s4.core n).issues then atCore n refillTurn s4 else if (s4.core n).live then atCore n leaveTurn s4 else s4
    if (s5.core n).halt.req && heldAtOnce (s5.core n) then haltCore s5 n else s5

/-! ## The quad -/

/-- The end of a cycle of a quad: the array, the samples, and CYCLE. -/
def quadEnd (q : Nat) (s : State) : State :=
  let d := q / 16
  let s1 := leaseGrant q (drainLand q (foldLand q s))
  let s2 := (List.range 4).foldl (fun s c => traceSample (4 * q + c) s) (monitorSample q s1)
  let s3 := if (64 * d + (s2.dbgOf d).trace.tcore.toNat) / 4 = q then cycleSource d true (cycleSource d false s2) else s2
  traceCommit (s3.modQuad q (fun x => refPulse false { x with cycle := x.cycle + 1 })) d

/-- The cores of a quad. -/
def quadCores (q : Nat) : List Nat := [4 * q, 4 * q + 1, 4 * q + 2, 4 * q + 3]

/-- One delivered pulse of a quad. -/
def pulse (q : Nat) (slip : BitVec 8) (s : State) : State :=
  let s1 := (quadCores q).foldl (fun s n =>
    atCore n (coreTurn (slip.getLsbD (2 * (n % 4))) (slip.getLsbD (2 * (n % 4) + 1))) s) s
  quadEnd q ((quadCores q).foldl (fun s n => coreEnd n s) s1)

end Sys2Proof.Machine
end

