-- ==== Sys2Proof/Machine/Place.lean ====
section
/-! DEFINITION. Where a program's instruction is placed so that the next step runs it: a bundle in a code page with its task
running, or a word in a queue's program with its run begun (log entry 4). -/

namespace Sys2Proof.Machine

/-- The positions in the order in which decodeTableWord tries the maps. -/
def tablePositions : List Pos := [.S, .C, .VA, .L, .W, .F, .K]

/-- The position whose map reads a word as a legal instruction. -/
def placeOf (u : BitVec 32) : Option Pos := tablePositions.find? (fun p => (legalOnly (decodeSyl p u)).isSome)

/-- The bundle that holds a syllable at a position and nothing else (R54). -/
def oneSyllable (p : Pos) (u : BitVec 32) : BitVec 256 := BitVec.ofNat 256 (u.toNat * 2 ^ (32 * p.num))

/-- A code page of one bundle: page 1 of the address space, at page 1 of HBM. -/
def placePage : Nat := 1
def placeAt : Nat := placePage * 4096 + 64

/-- The leaf of the code page: valid, resident, read, execute. -/
def placeLeaf (tag : Nat) : Leaf := ⟨tag, placePage, 0, BitVec.ofNat 64 (placePage * 4096 + 0x37)⟩

/-- Core 0 runs a task whose next bundle is the one placed. -/
def placeRun (r : CoreRegs) : CoreRegs :=
  { r with
    run := .running
    out := .off
    task := { r.task with
      pc := BitVec.ofNat 64 placeAt
      span := ⟨placePage, 0x51, false, 0, 0, placePage, 0, 1, none⟩
      target := none, stop := none, bq := [], wq := [], fq := [], gap := 0, wn := r.task.bn, fn := r.task.bn, after := none
      refill := 0, land := false } }

/-- Store a bundle where the next pulse of quad 0 fetches, and let that pulse be the next act. -/
def placeBundle (b : BitVec 256) (s : State) : State :=
  let tag := (s.core 0).regs.id.tag
  let s1 := s.modCore 0 (fun c =>
    { c with
      regs := placeRun c.regs
      halt := ⟨false, false⟩
      cache := { c.cache with icache := [], ctlb := placeLeaf tag :: c.cache.ctlb } })
  { s1 with
    mem := Memory.write s1.mem placeAt b.toNat 32
    acctab := fset s1.acctab tag (fget 0 s1.acctab tag ||| 4)
    agenda := .pulse 0 0 :: s1.agenda }

/-- A packet of queue 0 whose run is at the first word. -/
def placePacket : Packet := ⟨0, 0, 0, 0, 0, 0, false, 0, 0, true, false, none, none⟩

/-- Make a word the program of queue 0 and begin its run. -/
def placeQueue (u : BitVec 32) (s : State) : State :=
  let x := s.queue 0
  { s with
    queues := fset s.queues 0 { x with
      st := .running, home := 0, mapped := true, prog := [u], pc := 0, lvl := 0, lc := [], entered := true
      cur := some 0, pkts := [placePacket], block := .none, deleting := false }
    disps := fset s.disps 0 { (fget Disp.reset s.disps 0) with slots := [0], run := some 0, restart := false } }

end Sys2Proof.Machine
end

