-- ==== Sys2Proof/Machine/Service.lean ====
section
/-! DEFINITION. One turn of the machine left alone: each unit serves what is ready, and then every quad has a pulse (log
entry 5). An occurrence that is not enabled changes nothing, so a turn may offer every one. -/

namespace Sys2Proof.Machine

open Host (Outcome)

abbrev Serve := State → Outcome State Fault Refusal

/-- Do one service. -/
def serve (s : State) (f : Serve) : State := match f s with | .next t => sweep t | _ => s

def serveAll (l : List Serve) (s : State) : State := l.foldl serve s

/-- The places of a queue, the last first, since a request that ends leaves it. -/
def places (n : Nat) : List (BitVec 6) := ((List.range (if n < 64 then n else 64)).reverse).map (BitVec.ofNat 6)

/-- Every unit of a request. -/
def everyUnit : BitVec 33 := 0x100000000

/-- Requests of a core that memory may perform. -/
def serveCore (s : State) (n : Nat) : List Serve :=
  let c := s.core n
  let i := BitVec.ofNat 11 n
  let loads := places (c.regs.task.lq.length + c.regs.outr.lq.length)
  let stores := places (c.regs.task.sq.length + c.regs.outr.sq.length)
  [execTaskStart i, execTranslationWalk (.fetch i), execTranslationWalk (.slotL i), execTranslationWalk (.slotW i)] ++
  loads.map (fun k => execWaitPollTick i k) ++ loads.map (fun k => execWaitTimeout i k) ++ loads.map (fun k => execLoadReply i k everyUnit) ++
  stores.map (fun k => execAtomicExecute i k) ++ stores.map (fun k => execCmdAccept (.core i k)) ++
  stores.map (fun k => execStorePerformed i k everyUnit) ++
  ((List.range 8).map (fun w => (List.range (vget c.regs.wins w Window.reset).ng).map (fun g =>
    execWindowFillDone i (BitVec.ofNat 3 w) (BitVec.ofNat 9 g)))).flatten ++
  [execParkTimeout i, execParkLimitSuspend i, execTaskFinish i]

def serveChan (c : Nat) : List Serve :=
  let i := BitVec.ofNat 9 c
  [execTranslationWalk (.engine (BitVec.ofNat 5 (c / 16)) (BitVec.ofNat 4 c)), execCmdActivate i, execCmdDone i, execCmdFail i, execEngineParkLimit i]

def serveQueue (q : Nat) : List Serve :=
  let i := BitVec.ofNat 12 q
  [execQueueMap i, execQueueAccept i, execQueueUnblock i, execQueueUnmap i]

def serveDie (d : Nat) : List Serve :=
  let i := BitVec.ofNat 5 d
  [execTranslationWalk (.disp i), execQueueRun i, execCmdAccept (.disp i), execReschedJob i]

def serveNode (h : Nat) : List Serve :=
  let i := BitVec.ofNat 37 h
  [execQuadClaim i, execReserveRetry i, execNodeCommit i, execNodeFinish i]

/-- Commands of the module control registers. -/
def serveCommands : List Serve :=
  [execCtxCreate, execCtxDestroy, execCtxRelease, execXshootStart, execXshootComplete, execQcmdDefine, execQcmdDelete]

/-! ### Waking writes and monitored lines (R146, R246, R352) -/

def parkedPipe (p : Pipe) : List Nat := p.lq.filterMap (fun r => r.park) ++ p.sq.filterMap (fun r => r.park)

def parkedWalks (l : List Walk) : List Nat := l.filterMap (fun w => match w.res with | some (.park e) => some e | _ => none)

/-- The entries that a core's missing window slots wait for. -/
def missingEntries (c : Core) : List Nat :=
  (c.regs.wins.toList.map (fun w => w.slots.filterMap (fun x => match x.1 with | .missing e _ _ => some e | _ => none))).flatten

/-- The entries that something is parked on. -/
def parkedEntries (s : State) : List Nat :=
  (s.cores.map (fun e =>
    let c := e.2
    parkedPipe c.regs.task ++ parkedPipe c.regs.outr ++
    parkedWalks (c.cache.walkL ++ c.cache.walkW ++ c.cache.walkF) ++
    (c.susp.filter (fun x => !x.ready)).map (fun x => x.entry) ++ missingEntries c)).flatten ++
  (s.chans.map (fun e => e.2.cmds.filterMap (fun m => m.park))).flatten

/-- Waking writes that have happened. -/
def serveWakes (s : State) : List Serve :=
  (((parkedEntries s).filter (entryLive s)).eraseDups).map (fun e => execWake (BitVec.ofNat 52 e))

/-- Everything that is ready is offered one service. -/
def services (s : State) : List Serve :=
  serveCommands ++ serveWakes s ++
  ((s.queues.map (fun e => serveQueue e.1)).flatten) ++ ((s.disps.map (fun e => serveDie e.1)).flatten) ++
  ((s.nodes.map (fun e => serveNode e.1)).flatten) ++ ((s.cores.map (fun e => serveCore s e.1)).flatten) ++
  ((s.chans.map (fun e => serveChan e.1)).flatten) ++
  ((s.ctxs.filter (fun e => e.2.st = .terminating)).map (fun e => execContextScrubDone (BitVec.ofNat 12 e.1))) ++
  s.irqs.map (fun e => execIrqTmaxExpiry (BitVec.ofNat 11 e.1)) ++
  s.arrivals.map (fun _ => execBarrierArrival 0) ++ s.news.map (fun _ => execBarrierCompletion 0)

/-- System software gives channel c to the context of tag t (R185). -/
def giveChannel (c t : Nat) (s : State) : State := s.modChan c (fun x => { x with tag := t })

/-- The period of the arithmetic clock in ps (R17). -/
def clockPs : Nat := 800

/-- A turn: the module boots first; then every unit serves and every quad with a core at work has a pulse. -/
def turn (s : State) : State :=
  if s.boot.stage = 0 then serve s execModuleReset
  else
    let s1 := serveAll (services s) s
    let s2 := (s1.quads.map (fun e => e.1)).foldl (fun s q => sweep (pulse q 0 s)) s1
    { s2 with now := s2.now + clockPs }

end Sys2Proof.Machine
end

