-- ==== Sys2Proof/Machine/Step.lean ====
section
/-! DEFINITION. One step of the module: the next act of the agenda, or a turn of the machine left alone (log entries 4, 5). -/

namespace Sys2Proof.Machine

open Host (Outcome)

/-- The state after an occurrence, with the contexts that it condemned terminated (R372). -/
def settleDoom (x : Outcome State Fault Refusal) : Outcome State Fault Refusal :=
  match x with
  | .next t => .next (sweep t)
  | y => y

/-- Do one act. -/
def act (a : Act) (s : State) : Outcome State Fault Refusal :=
  match a with
  | .occur i => settleDoom (exec i s)
  | .pulse q slip => .next (sweep (pulse q.toNat slip s))
  | .time ps => .next { s with now := s.now + ps }
  | .swallow q => .next (swallowPulse q.toNat s)
  | .limit q x => .next (setLimit q.toNat x s)
  | .chanTag c t => .next (giveChannel c.toNat t.toNat s)
  | .coachWrite n i v => .next (sweep (coachWrite n.toNat i.toNat v s))
  | .coachRead n i => .next (coachRead n.toNat i.toNat s)
  | .frameDone pa => .next (frameDone (pa.toNat / 65536) s)
  | .evict pa => .next (evictLine pa.toNat s)
  | .config wr a v => .next (configAccess wr a.toNat v s)
  | .mailbox v => .next (mailboxWrite v s)
  | .hostLink x => .next (setHostLink x s)
  | .ideKey k => .next (setIdeKey k s)

def step (s : State) : Outcome State Fault Refusal :=
  match s.agenda with
  | [] => .next (turn s)
  | a :: r => act a { s with agenda := r }

/-- s with the instruction of a word stored where the next step fetches. -/
noncomputable def State.withFetchWord (s : State) (nbits w : Nat) : State :=
  let _ := nbits
  match placeOf (word w) with
  | some p => placeBundle (oneSyllable p (word w)) s
  | none => { placeQueue (word w) s with agenda := .occur (.queueRun 0) :: s.agenda }

end Sys2Proof.Machine
end

