-- ==== Sys2Proof/Safety.lean ====
section
/-! DEFINITION. What counts as a run of the module, and the terms in which the claims speak of one step: what an issued
syllable reads, starts and leaves alone. -/

namespace Sys2Proof.Machine

open Host (Outcome)

/-! ## Runs -/

/-- Some number of steps lead from s to t. -/
inductive Reaches : State → State → Prop where
  | refl (s : State) : Reaches s s
  | step {s t u : State} (h : Machine.step s = .next t) (r : Reaches t u) : Reaches s u

/-- A run that no fault or refusal ends: no rule of the spec ends the module. -/
def NeverStops (s : State) : Prop := ∀ t, Reaches s t → ∃ u, Machine.step t = .next u

/-- exec answers a next state for i at s, and P holds of it. -/
def Completes (i : Instr) (s : State) (P : State → Prop) : Prop := ∃ t, exec i s = .next t ∧ P t

/-! ## What a syllable reads (R57, R58, R133) -/

/-- The n oldest entries of the load data queue have delivered. -/
def CanPop (n : Nat) (s : State) : Prop := n ≤ s.pipe.ldq.length ∧ ∀ e ∈ s.pipe.ldq.take n, e.out = true

/-- The value of entry k of the load data queue, the oldest being entry 0. -/
def popVal (s : State) (k : Nat) : Vec := ((s.pipe.ldq[k]?).map (fun e => e.val)).getD 0

/-- The value of a source of S; k pops of the syllable come before it. -/
def sVal (s : State) (x : BitVec 6) (k : Nat) : Word :=
  if x.toNat < 40 then vget s.pipe.s x.toNat 0
  else if x.toNat < 44 then vget s.pipe.latch (x.toNat - 40) 0
  else if x.toNat < 48 then (vget s.me.mail (x.toNat - 44) ⟨0, false⟩).value
  else if x.toNat = 57 then vecWord (popVal s k)
  else 0

/-- The value of a source of VA or VB. -/
def vVal (s : State) (slot : Pos) (x : BitVec 6) (k : Nat) : Vec :=
  if x.toNat < 40 then vget s.regs.vec.v x.toNat 0
  else if x.toNat < 44 then s.vlatch slot (x.toNat - 40)
  else if x.toNat < 48 then s.vlatch (slotPeer slot) (x.toNat - 44)
  else if x.toNat < 56 then wordVec (s.bridge x)
  else if x.toNat = 57 then popVal s k
  else 0

/-- Element i of width n of a source of an element-wise V opcode: a bridge register is broadcast (R106). -/
def vElem (s : State) (slot : Pos) (n : Nat) (x : BitVec 6) (k i : Nat) : Nat :=
  if isBridge x then (s.bridge x).toNat % 2 ^ n else field (vVal s slot x k) (n * i) n

/-- The mail registers a source of S reads. -/
def mailsOf (x : BitVec 6) : List Nat := if 44 ≤ x.toNat ∧ x.toNat < 48 then [x.toNat - 44] else []

/-- Mail registers whose full bits have been cleared by a read (R23). -/
def mailsRead (v : Vector Mail 4) (ms : List Nat) : Vector Mail 4 :=
  ms.foldl (fun v m => vset v m { (vget v m ⟨0, false⟩) with full := false }) v

/-- s after a syllable has taken its oldest load-data-queue entries and read mail registers; the read of a full one orders
the core's later global accesses (R23, R237). -/
def afterReads (s : State) (pops : Nat) (ms : List Nat) : State :=
  s.modMe (fun c => { c.modPipe (fun p => { p with ldq := p.ldq.drop pops }) with
    mail := mailsRead c.mail ms
    cache := { c.cache with acq := c.cache.acq || ms.any (fun m => (vget c.mail m ⟨0, false⟩).full) } })

/-! ## What a syllable starts (R60, R61) -/

/-- The targets of a result of S, VA or VB. -/
def targets (slot : Pos) (w : BitVec 1) (d : BitVec 6) : List Tgt :=
  if w = 1 then [.latch d.toNat]
  else [if slot = .S then .sreg d.toNat else .vreg d.toNat, .latch (d.toNat % 4)]

/-- Results of one value that start now with latency lat: they land at the end of issue count + lat - 1. -/
def resultsAt (s : State) (slot : Pos) (lat : Nat) (ts : List Tgt) (v : Vec) : List Flight :=
  ts.map (fun t => ⟨slot, s.pipe.count + lat - 1, t, v, s.pipe.bn⟩)

/-- s with results in flight besides, and nothing else changed. -/
def withResults (s : State) (l : List Flight) : State :=
  s.modPipe (fun p => { p with flight := l.foldl (fun f x => addFlight x f) p.flight })

/-! ## The shapes of a syllable whose effect is one result

Each says: whenever the pops of the syllable can be taken, exec answers the state in which its sources have been consumed and
exactly the stated results are in flight besides, with everything else as it was. -/

/-- An S syllable of two sources: f gives the value from the state, the target and the two source values. -/
def Alu2 (mk : BitVec 1 → BitVec 6 → BitVec 6 → BitVec 6 → Instr) (lat : Nat)
    (f : State → BitVec 1 → BitVec 6 → Word → Word → Word) : Prop :=
  ∀ (s : State) (w : BitVec 1) (d a b : BitVec 6), CanPop (isPop a + isPop b) s →
    exec (mk w d a b) s =
      .next (withResults (afterReads s (isPop a + isPop b) (mailsOf a ++ mailsOf b))
        (resultsAt s .S lat (targets .S w d) (wordVec (f s w d (sVal s a 0) (sVal s b (isPop a))))))

/-- An S syllable of one source. -/
def Alu1 (mk : BitVec 1 → BitVec 6 → BitVec 6 → Instr) (lat : Nat) (f : State → BitVec 1 → BitVec 6 → Word → Word) : Prop :=
  ∀ (s : State) (w : BitVec 1) (d a : BitVec 6), CanPop (isPop a) s →
    exec (mk w d a) s =
      .next (withResults (afterReads s (isPop a) (mailsOf a))
        (resultsAt s .S lat (targets .S w d) (wordVec (f s w d (sVal s a 0)))))

/-- A V syllable of two sources; f gives the value from the state, the slot, the two sources and the old target. -/
def Vec2 (mk : VSlot → BitVec 1 → BitVec 6 → BitVec 6 → BitVec 6 → Instr) (lat : Nat)
    (f : State → VSlot → BitVec 6 → Vec → Vec → Vec → Vec) : Prop :=
  ∀ (s : State) (vs : VSlot) (w : BitVec 1) (d a b : BitVec 6), CanPop (isPop a + isPop b) s →
    exec (mk vs w d a b) s =
      .next (withResults (afterReads s (isPop a + isPop b) [])
        (resultsAt s (vpos vs) lat (targets (vpos vs) w d)
          (f s vs a (vVal s (vpos vs) a 0) (vVal s (vpos vs) b (isPop a)) (oldV s (vpos vs) w d))))

/-- A V syllable of one source. -/
def Vec1 (mk : VSlot → BitVec 1 → BitVec 6 → BitVec 6 → Instr) (lat : Nat) (f : State → VSlot → Vec → Vec) : Prop :=
  ∀ (s : State) (vs : VSlot) (w : BitVec 1) (d a : BitVec 6), CanPop (isPop a) s →
    exec (mk vs w d a) s =
      .next (withResults (afterReads s (isPop a) [])
        (resultsAt s (vpos vs) lat (targets (vpos vs) w d) (f s vs (vVal s (vpos vs) a 0))))

/-- An element-wise V syllable of n-bit elements: f gives an element from the two source elements and the old one. -/
def Elem2 (mk : VSlot → BitVec 1 → BitVec 6 → BitVec 6 → BitVec 6 → Instr) (lat n : Nat) (f : Nat → Nat → Nat → Nat) : Prop :=
  ∀ (s : State) (vs : VSlot) (w : BitVec 1) (d a b : BitVec 6), CanPop (isPop a + isPop b) s →
    ∃ v : Vec,
      exec (mk vs w d a b) s =
        .next (withResults (afterReads s (isPop a + isPop b) []) (resultsAt s (vpos vs) lat (targets (vpos vs) w d) v)) ∧
      ∀ i < 2048 / n, field v (n * i) n =
        f (vElem s (vpos vs) n a 0 i) (vElem s (vpos vs) n b (isPop a) i) (field (oldV s (vpos vs) w d) (n * i) n) % 2 ^ n

/-- An element-wise V syllable of one source. -/
def Elem1 (mk : VSlot → BitVec 1 → BitVec 6 → BitVec 6 → Instr) (lat n : Nat) (f : Nat → Nat) : Prop :=
  ∀ (s : State) (vs : VSlot) (w : BitVec 1) (d a : BitVec 6), CanPop (isPop a) s →
    ∃ v : Vec,
      exec (mk vs w d a) s =
        .next (withResults (afterReads s (isPop a) []) (resultsAt s (vpos vs) lat (targets (vpos vs) w d) v)) ∧
      ∀ i < 2048 / n, field v (n * i) n = f (vElem s (vpos vs) n a 0 i) % 2 ^ n

/-! ## The spec's helpers of the S slot, as the claims state them (R34, R82, R84, R85) -/

/-- in(A, T): the low N bits, as two's complement for a signed T. -/
def typedIn (t : BitVec 5) (x : Word) : Int :=
  let n := tyWidth t.toNat
  let y : Int := (x.toNat % 2 ^ n : Nat)
  if tySigned t.toNat ∧ 2 ^ (n - 1) ≤ x.toNat % 2 ^ n then y - 2 ^ n else y

/-- out(y, T): y mod 2^N, sign-extended to 64 bits for a signed T. -/
def typedOut (t : BitVec 5) (y : Int) : Word :=
  let n := tyWidth t.toNat
  let z := y % 2 ^ n
  BitVec.ofInt 64 (if tySigned t.toNat ∧ 2 ^ (n - 1) ≤ z then z - 2 ^ n else z)

/-- lo(T) and hi(T). -/
def typedMin (t : BitVec 5) : Int := if tySigned t.toNat then -2 ^ (tyWidth t.toNat - 1) else 0
def typedMax (t : BitVec 5) : Int := if tySigned t.toNat then 2 ^ (tyWidth t.toNat - 1) - 1 else 2 ^ tyWidth t.toNat - 1

/-- Bits [p + l - 1 : p] of u, cut at bit 64, sign-extended if sx. -/
def cutField (u : Word) (p l : Nat) (sx : Bool) : Word :=
  let n := min l (64 - p)
  let y := u.toNat / 2 ^ p % 2 ^ n
  BitVec.ofInt 64 (if sx ∧ 2 ^ (n - 1) ≤ y then (y : Int) - 2 ^ n else y)

/-- o with bits [p + l - 1 : p] replaced by the low bits of u, and sign-extended from there if sx. -/
def pasteField (o u : Word) (p l : Nat) (sx : Bool) : Word :=
  let n := min l (64 - p)
  let y : Int := o.toNat - o.toNat / 2 ^ p % 2 ^ n * 2 ^ p + u.toNat % 2 ^ n * 2 ^ p
  let z := y % 2 ^ (p + n)
  BitVec.ofInt 64 (if sx then (if 2 ^ (p + n - 1) ≤ z then z - 2 ^ (p + n) else z) else y)

/-- The condition c of cmp: eq, ne, lt, ge, ltu, geu. -/
def scalarCond (c : Nat) (x y : Word) : Bool :=
  match c with
  | 0 => x.toNat == y.toNat
  | 1 => x.toNat != y.toNat
  | 2 => decide (x.toInt < y.toInt)
  | 3 => decide (y.toInt ≤ x.toInt)
  | 4 => decide (x.toNat < y.toNat)
  | _ => decide (y.toNat ≤ x.toNat)

/-! ## The spec's helpers of the vector slots, as the claims state them (R106) -/

/-- The integer that the n-bit container x of an element of type code t stands for. -/
def elemInt (t : BitVec 5) (x : Nat) : Int :=
  if tySigned t.toNat ∧ 2 ^ (tyWidth t.toNat - 1) ≤ x then (x : Int) - 2 ^ tyWidth t.toNat else x

/-- An integer as a container of type code t: mod 2^N. -/
def intElem (t : BitVec 5) (y : Int) : Nat := (y % 2 ^ tyWidth t.toNat).toNat

/-- The value of an element of a floating type code, and a value rounded to one with rne (R41). -/
def elemFp (t : BitVec 5) (x : Nat) : FVal := fpVal (fmtOf t.toNat) x
def fpElem (t : BitVec 5) (y : FVal) : Nat := toFp (fmtOf t.toNat) 0 y

/-- Element i of width n of a register. -/
def lane (n : Nat) (x : Vec) (i : Nat) : Nat := field x (n * i) n

/-- A V syllable of two sources described element by element of width n: f gives element i from the state, the slot, the
selector of the first source, the two sources, the old target and i. -/
def Lanes2 (mk : VSlot → BitVec 1 → BitVec 6 → BitVec 6 → BitVec 6 → Instr) (lat n : Nat)
    (f : State → VSlot → BitVec 6 → Vec → Vec → Vec → Nat → Nat) : Prop :=
  ∀ (s : State) (vs : VSlot) (w : BitVec 1) (d a b : BitVec 6), CanPop (isPop a + isPop b) s →
    ∃ v : Vec,
      exec (mk vs w d a b) s =
        .next (withResults (afterReads s (isPop a + isPop b) []) (resultsAt s (vpos vs) lat (targets (vpos vs) w d) v)) ∧
      ∀ i < 2048 / n, lane n v i =
        f s vs a (vVal s (vpos vs) a 0) (vVal s (vpos vs) b (isPop a)) (oldV s (vpos vs) w d) i % 2 ^ n

/-- The same of one source. -/
def Lanes1 (mk : VSlot → BitVec 1 → BitVec 6 → BitVec 6 → Instr) (lat n : Nat)
    (f : State → VSlot → Vec → Nat → Nat) : Prop :=
  ∀ (s : State) (vs : VSlot) (w : BitVec 1) (d a : BitVec 6), CanPop (isPop a) s →
    ∃ v : Vec,
      exec (mk vs w d a) s =
        .next (withResults (afterReads s (isPop a) []) (resultsAt s (vpos vs) lat (targets (vpos vs) w d) v)) ∧
      ∀ i < 2048 / n, lane n v i = f s vs (vVal s (vpos vs) a 0) i % 2 ^ n

/-- x read as two's complement of n bits. -/
def twos (n x : Nat) : Int := if 2 ^ (n - 1) ≤ x then (x : Int) - 2 ^ n else x

/-- The operations of the reductions on containers of type code t: integers mod 2^N, floating values rounded once. -/
def addElem (t : BitVec 5) (x y : Nat) : Nat :=
  if classI t.toNat then (x + y) % 2 ^ tyWidth t.toNat else fpElem t (fAdd (elemFp t x) (elemFp t y))
def maxElem (t : BitVec 5) (x y : Nat) : Nat :=
  if classI t.toNat then (if elemInt t x ≤ elemInt t y then y else x) else fpElem t (fMax (elemFp t x) (elemFp t y))
def minElem (t : BitVec 5) (x y : Nat) : Nat :=
  if classI t.toNat then (if elemInt t x ≤ elemInt t y then x else y) else fpElem t (fMin (elemFp t x) (elemFp t y))
def oneElem (t : BitVec 5) (x : Nat) : Nat := if classI t.toNat then x else fpElem t (elemFp t x)

/-- One pass of the loop of R119: x[i] := op(x[2i], x[2i+1]). -/
def pairPass (op : Nat → Nat → Nat) (m : Nat) (x : List Nat) : List Nat :=
  (List.range (m / 2)).map (fun i => op (x.getD (2 * i) 0) (x.getD (2 * i + 1) 0))

/-- The loop of R119 over m elements, a power of two up to 2,048. -/
def pairTree (op : Nat → Nat → Nat) (m : Nat) (x : List Nat) : Nat :=
  ((List.range 11).foldl (fun (a : Nat × List Nat) _ => if 1 < a.1 then (a.1 / 2, pairPass op a.1 a.2) else a) (m, x)).2.getD 0 0

/-- Element i of a conversion from type code c to t: the value of the element it takes, rounded; hi takes the upper elements
(R114). -/
def converted (c t : BitVec 5) (mode : Nat) (hi : Bool) (x : Vec) (i : Nat) : Nat :=
  let ms := 2048 / tyWidth c.toNat
  let md := 2048 / tyWidth t.toNat
  let j := if hi ∧ md < ms then i + (ms - md) else i
  if j < ms then valElem (elemT t.toNat) mode (elemVal (elemT c.toNat) (lane (tyWidth c.toNat) x j)) else 0

/-- The packed integer of R47 at width w and stride s; 0 for a stride out of range (R116). -/
def packed (w s : Nat) (l : List Int) : Nat :=
  if s < 2 ∨ 64 < s then 0
  else (((List.range (min (w / s) l.length)).map (fun k => l.getD k 0 * 2 ^ (k * s))).sum % 2 ^ w).toNat

/-- Coefficient k of a packed value of width w at stride s, limited to the type (R48, R117). -/
def unpacked (w : Nat) (t : BitVec 5) (p s k : Nat) : Nat :=
  if s < 2 ∨ 64 < s ∨ w < (k + 1) * s then 0
  else
    let c := twos s ((p / 2 ^ (k * s) % 2 ^ s + (if k = 0 then 0 else p / 2 ^ (k * s - 1) % 2)) % 2 ^ s)
    intElem t (max (typedMin t) (min (typedMax t) c))

/-- A 32-bit lane of `dot`: the old lane plus the products of the short elements (R124). -/
def dotLane (t : BitVec 5) (xs ys : List Nat) (o : Nat) : Nat :=
  if classI t.toNat then
    (((o : Int) + (List.zipWith (fun x y => elemInt t x * elemInt t y) xs ys).sum) % 2 ^ 32).toNat
  else toFp f32 0 (fAdd (fAdd (fMul (elemFp t (xs.getD 0 0)) (elemFp t (ys.getD 0 0)))
    (fMul (elemFp t (xs.getD 1 0)) (elemFp t (ys.getD 1 0)))) (fpVal f32 o))

/-! ## The C slot, as the claims state it (R90, R92, R95) -/

/-- The code pointer of landing l of the page at head + p. -/
def landingPtr (s : State) (p : BitVec 15) (l : BitVec 5) : Word :=
  BitVec.ofNat 64 ((((s.pipe.span.head : Int) + p.toInt) % 2 ^ 48).toNat * 4096 + l.toNat)

/-- s once a transfer to ptr has been taken: later bundles of the slot queues are gone, the fetch will enter ptr after the settle
and three cycles more, and a call will write its return pointer. -/
def entersAt (s : State) (ptr : Word) (link : Option Word) : State :=
  s.modPipe (fun p =>
    { p with
      bq := p.bq.take 1, wq := p.wq.filter (fun e => e.bn ≤ p.bn), fq := p.fq.filter (fun e => e.bn ≤ p.bn), gap := 0, stop := none
      target := some ⟨ptr, false⟩, link := link, tbun := s.bundleAt, refill := 3 })

/-- rotate(v): the stage predicates shift, the bases move up, and base 0 takes the loop step. -/
def Rotated (v : Bool) (l m : LoopState) : Prop :=
  m.q.toNat = (2 * l.q.toNat + v.toNat) % 256 ∧
  vget m.b 0 0 = vget l.b 0 0 + l.loops ∧ (∀ j < 7, vget m.b (j + 1) 0 = vget l.b j 0) ∧ m.loops = l.loops

/-- s with other loop registers. -/
def withLoop (s : State) (l : LoopState) : State := s.modRegs (fun r => { r with loop := l })

/-- The state of token t of the core. -/
def tokenOf (s : State) (t : Nat) : TokState := (vget s.regs.tok t Token.reset).st

/-- The mask of the named tokens of a condition. -/
def tokensIn (s : State) (mask : Word) (f : TokState → Bool) : Word :=
  BitVec.ofNat 64 (((List.range 64).map (fun t => if mask.getLsbD t && f (tokenOf s t) then 2 ^ t else 0)).sum)

/-- The state in which the fixed group holds; s with a wait of C over; and s once a completed wait has emptied the L1. -/
def holds (s : State) : State := s.modPipe (fun p => { p with waits := true })
def waited (s : State) : State := s.modRegs (fun r => { r with hold := none })
def acquired (s : State) : State := s.modMe (fun c => { c with cache := { c.cache with acq := true } })

/-- The trap that a C syllable of the bundle takes, with none of its effect. -/
def cTraps (s : State) (cause : Nat) (addr : Word) : State := takeTrap s cause addr 1 s.bundleAt false false

/-- What the end of a task leaves in the core at once: its later bundles are gone, every dirty byte of its windows is queued or its
slot has failed, and its registers and all memory are as they were. -/
def EndsAfter (s t : State) : Prop :=
  t.pipe.bq = s.pipe.bq.take 1 ∧ t.pipe.wq = s.pipe.wq.filter (fun e => e.bn ≤ s.pipe.bn) ∧
  t.pipe.fq = s.pipe.fq.filter (fun e => e.bn ≤ s.pipe.bn) ∧ t.pipe.s = s.pipe.s ∧ t.pipe.p = s.pipe.p ∧ t.regs.vec = s.regs.vec ∧
  (∀ n < 8, (s.win n).mapped = true → ∀ j ∈ (s.win n).order, ((t.win n).slot j).2 = 0 ∨ ((t.win n).slot j).1 = .failed) ∧
  ∀ a, Memory.get t.mem a = Memory.get s.mem a

/-- The phase an arrival took has completed, as known at its core: the phase seen is 1 to 2^31 ahead of it, mod 2^32 (R348). -/
def PhaseOver (e : ArrEntry) : Prop := ∃ p, e.taken = some p ∧ 1 ≤ (e.seen + 2 ^ 32 - p) % 2 ^ 32 ∧ (e.seen + 2 ^ 32 - p) % 2 ^ 32 ≤ 2 ^ 31

/-! ## Scratchpad and accumulator accesses, as the claims state them (R129 to R136, R160, R261) -/

/-- A byte b that a slot may read at a physical address: memory's, or that of a W store of an earlier bundle still on its way
(R136); 0 in a granule of another context (R261). -/
def MayRead (s : State) (pa : Nat) (b : Byte) : Prop :=
  if padAllowed s s.regs.id.tag pa then
    b = Memory.get s.mem pa ∨ ∃ w ∈ s.pipe.spst, w.bn < s.pipe.bn ∧ (pa, b) ∈ w.bytes
  else b = 0

/-- The same of an accumulator byte: one that a drain in flight writes may be old or new (R160). -/
def MayReadAcc (s : State) (pa : Nat) (b : Byte) : Prop :=
  MayRead s pa b ∨ ∃ k ≤ (s.quad s.myQuad).array.drains.length, MayRead { s with mem := drainedMem s s.myQuad k } pa b

/-- The n bytes from loc 0 to loc (n - 1), as a little-endian number x, are ones that may be read. -/
def ReadsAt (may : Nat → Byte → Prop) (loc : Nat → Nat) (n x : Nat) : Prop :=
  x < 256 ^ n ∧ ∀ i < n, may (loc i) (BitVec.ofNat 8 (x / 256 ^ i))

/-- Byte i from a scratchpad address of the core on, wrapping at 2 MiB; and in its accumulators, and in its quad's (R130). -/
def padAt (s : State) (ea : Word) (i : Nat) : Nat := padOf s.cur.toNat + (ea.toNat + i) % 2 ^ 21
def accAt (s : State) (ea : Word) (i : Nat) : Nat := accOf s.cur.toNat + (ea.toNat + i) % 2 ^ 20
def accWideAt (s : State) (ea : Word) (i : Nat) : Nat := accQuad s.myQuad + (ea.toNat + i) % 2 ^ 22

/-- An entry of the load data queue can be reserved: 32 in a task, 8 in an outrider (R133, R267). -/
def HasRoom (s : State) : Prop := s.pipe.ldq.length < if s.me.outrider then 8 else 32

/-- s with one more entry, which delivers v at the end of its count. -/
def reserves (s : State) (lat : Nat) (v : Vec) : State :=
  s.modPipe (fun p => { p with ldq := p.ldq ++ [⟨p.bn, some (p.count + lat - 1), false, false, v, none, none⟩] })

/-- s with other free choices ahead. -/
def withFresh (s : State) (k : Nat) : State := { s with fresh := k }

/-- i reserves an entry that delivers, after lat counts, a value that V allows for the n bytes read at loc; nothing else
changes. -/
def LoadsPad (i : Instr) (s : State) (lat n : Nat) (may : Nat → Byte → Prop) (loc : Nat → Nat) (V : Nat → Vec → Prop) : Prop :=
  ∃ k x v, exec i s = .next (withFresh (reserves s lat v) k) ∧ ReadsAt may loc n x ∧ V x v

/-- The post-increment of a base form is noted, to be applied before the C syllable of the bundle acts (R94, R129). -/
def stepsBase (s : State) (j : BitVec 3) (p : BitVec 1) (o : BitVec 11) (u : Nat) : State :=
  if p = 1 then s.modPipe (fun x => { x with pinc := x.pinc ++ [(j.toNat, o.signExtend 64 * BitVec.ofNat 64 u)] }) else s

/-- The address of a base form. -/
def baseEa (s : State) (j : BitVec 3) (p : BitVec 1) (o : BitVec 11) (x : BitVec 6) (u : Nat) : Word :=
  vget s.regs.loop.b j.toNat 0 + s.bridge x + if p = 1 then 0 else o.signExtend 64 * BitVec.ofNat 64 u

/-- The fixed group is issuing: it neither waits nor is halted. -/
def Issues (s : State) : Prop := s.pipe.waits = false ∧ s.me.halt.halted = false

/-- Bytes that the core writes at the end of a cycle (R136). -/
def landsAt (s : State) (due bn : Nat) (bytes : List (Nat × Byte)) : State :=
  s.modPipe (fun p => { p with spst := p.spst ++ [⟨due, bn, bytes⟩] })

/-- The n low bytes of x, at loc 0 to loc (n - 1). -/
def bytesAt (loc : Nat → Nat) (n x : Nat) : List (Nat × Byte) :=
  (List.range n).map (fun i => (loc i, BitVec.ofNat 8 (x / 256 ^ i)))

/-- CYCLE of the core's quad. -/
def nowOf (s : State) : Nat := (s.quad s.myQuad).cycle.toNat

/-- s once W has issued the head of its queue. -/
def wIssued (s : State) : State := s.modPipe (fun p => { p with wq := p.wq.tail, wn := p.wn + 1 })

/-- s once a scratchpad store of W, with head e, has issued: its bytes land at the end of the next cycle. -/
def wStores (s : State) (e : WEntry) (loc : Nat → Nat) (n x : Nat) : State :=
  landsAt (wIssued s) (nowOf s + 1) e.bn (bytesAt loc n x)

/-- The effective address of a W entry with operands A and B. -/
def wAddr (e : WEntry) : Word := vecWord e.a + vecWord e.b

/-- s after a W store has trapped: TDBUF holds its data (R266). -/
def wTraps (s : State) (e : WEntry) (cause : Nat) (ea : Word) : State :=
  if s.me.outrider then takeTrap s cause ea 5 e.addr true false
  else (takeTrap s cause ea 5 e.addr true false).modRegs (fun r => { r with trap := { r.trap with tdbuf := e.d } })

/-- The state in which a fixed-group syllable of a slot has trapped at its bundle. -/
def slotTraps (s : State) (cause : Nat) (a : Word) (slot : Pos) : State := takeTrap s cause a slot.num s.bundleAt false false

/-- The scale word of an E8M0 byte: its code, a significand of 1, and the NaN flag (R153). -/
def mxScale (x : Nat) (t : BitVec 5) : Nat :=
  if x = 0xFF then scaleWord 0 0 false true
  else scaleWord x (if t.toNat = 25 then 0x4000 else if t.toNat = 26 then 0x1000 else 0x0800) false false

/-! ## Global accesses, as the claims state them (R129, R139, R140, R387) -/

/-- An access of n bytes at va passes every check of R387: its address, its watchpoints, on each page its translation, and at each
of its words its rights and its opcode's own check. -/
def MayAccess (s : State) (w : Bool) (va n kind : Nat) (own : Nat → Option Nat) : Prop :=
  va + n ≤ 2 ^ 60 ∧ watchHits s.me kind va n = [] ∧
  (∀ a ∈ pagesOf va n, ∃ l, lookAt s s.cur.toNat w a kind = .leaf l) ∧
  ∀ a ∈ wordsOf va n, accessFault s kind (lookPa s s.cur.toNat w a kind) a = none ∧ own (lookPa s s.cur.toNat w a kind) = none

/-- An access whose page is absent, after no page that faults: it waits for table entry e (R246). -/
def MustPark (s : State) (w : Bool) (va n kind e : Nat) : Prop :=
  va + n ≤ 2 ^ 60 ∧ watchHits s.me kind va n = [] ∧
  ∃ pre a post, pagesOf va n = pre ++ a :: post ∧ lookAt s s.cur.toNat w a kind = .park e ∧
    ∀ b ∈ pre, ∃ l, lookAt s s.cur.toNat w b kind = .leaf l

/-- The first page of an access that does not translate faults with a cause. -/
def FaultsAt (s : State) (w : Bool) (va n kind cause : Nat) (a : Word) : Prop :=
  va + n ≤ 2 ^ 60 ∧ ∃ pre x post, pagesOf va n = pre ++ x :: post ∧ lookAt s s.cur.toNat w x kind = .trap cause ∧
    a = BitVec.ofNat 64 x ∧ ∀ b ∈ pre, ∃ l, lookAt s s.cur.toNat w b kind = .leaf l

/-- Channel space admits no access but `l.ldg.n64` and the engine stores (R186). -/
def spaceOf (chan : Bool) (pa : Nat) : Option Nat := if isEngine pa && !chan then some 0x17 else none

/-- The physical addresses of n units of ulen bytes from va on. -/
def unitsAt (s : State) (w : Bool) (va kind ulen n : Nat) : List Nat :=
  (List.range n).map (fun i => lookPa s s.cur.toNat w (va + i * ulen) kind)

/-- Room in the load queue, and in the store queue: fills and write-backs of windows count once their turn has come (R12, R16; log
entry 129). -/
def LoadRoom (s : State) : Prop := taken s.pipe isFill s.pipe.lq < 64
def StoreRoom (s : State) : Prop := taken s.pipe isBack s.pipe.sq < 64

/-- s once a request has entered the load queue, and reserved its entry of the load data queue; an acquire has emptied the L1
before it (R139, R140, R237). -/
def loadEnters (s : State) (r : Req LdOp) (mask : Option (Nat × Mask)) : State := dropWalks false (enterLoad r mask (settleAcq s))

/-- s once W has issued its head, whose request has entered the store queue. -/
def storeEnters (s : State) (r : Req StOp) : State := dropWalks true (enterStore r (settleAcq s))

/-- The forms of a global load: the request's operation and how it delivers, its units and their bytes, its address, and
whether channel space admits it (R128, R137, R146, R150, R187). -/
inductive LoadForm (s : State) : Instr → LdOp → Deliver → Nat → Nat → Word → Bool → Prop where
  | ldg (a b : BitVec 6) (t : BitVec 5) (h : t.toNat ≤ 12) :
      LoadForm s (.lLdg a b t) .plain (.scalar (tySigned t.toNat) (tyWidth t.toNat)) 1 (tyWidth t.toNat / 8)
        (s.bridge a + s.bridge b) (t = 7)
  | ldgx (a b : BitVec 6) : LoadForm s (.lLdgx a b) .plain .vec 32 8 (s.bridge a + s.bridge b) false
  | ldgsc (a b : BitVec 6) (t : BitVec 5) (h : t.toNat ≤ 12) :
      LoadForm s (.lLdgsc a b t) .plain (.splat (tyWidth t.toNat)) 1 (tyWidth t.toNat / 8) (s.bridge a + s.bridge b) false
  | ldnt (a b : BitVec 6) : LoadForm s (.lLdnt a b) .nt .vec 32 8 (s.bridge a + s.bridge b) false
  | ldacq (c : BitVec 3) (a : BitVec 6) (t : BitVec 5) (h : t.toNat ≤ 12) :
      LoadForm s (.lLdacq c a t) (.acq c.toNat) (.scalar (tySigned t.toNat) (tyWidth t.toNat)) 1 (tyWidth t.toNat / 8)
        (s.bridge a) false
  | ldstamp (a b : BitVec 6) : LoadForm s (.lLdstamp a b) .stamp (.scalar false 64) 1 8 (s.bridge a + s.bridge b) false
  | wait (c : BitVec 3) (a b : BitVec 6) (t : BitVec 5) (h : t.toNat ≤ 12) :
      LoadForm s (.lWait c a b t) (.wait false c.toNat ((s.bridge b).toNat % 2 ^ tyWidth t.toNat))
        (.scalar false (tyWidth t.toNat)) 1 (tyWidth t.toNat / 8) (s.bridge a) false
  | waitne (c : BitVec 3) (a b : BitVec 6) (t : BitVec 5) (h : t.toNat ≤ 12) :
      LoadForm s (.lWaitne c a b t) (.wait true c.toNat ((s.bridge b).toNat % 2 ^ tyWidth t.toNat))
        (.scalar false (tyWidth t.toNat)) 1 (tyWidth t.toNat / 8) (s.bridge a) false
  | ldgi (j : BitVec 3) (o : BitVec 11) (x : BitVec 6) (h : s.regs.loop.q.getLsbD j.toNat = true) (g : Issues s) :
      LoadForm s (.lLdgi j 0 o x) .plain .vec 32 8 (baseEa s j 0 o x 256) false

/-- A plain load that hits the L1: its value is there, and it delivers eight cycles later (R140). -/
def HitsL1 (s : State) (r q : Req LdOp) : Prop :=
  r.op = .plain ∧ ∃ v : Vec, q = { r with todo := [], val := v, due := some (nowOf s + 8) } ∧
    ∀ i < r.n, ∃ line, l1Get (settleAcq s).me.cache.l1 (r.units.getD i 0 / 128) = some line ∧
      field v (8 * r.ulen * i) (8 * r.ulen) = line.toNat / 2 ^ (8 * (r.units.getD i 0 % 128)) % 2 ^ (8 * r.ulen)

/-- The forms of a global store of W with head entry e: the request's operation, its units and their bytes, its address and its
data (R138, R142). -/
inductive StoreForm (s : State) (e : WEntry) : Instr → StOp → Nat → Nat → Word → Vec → Prop where
  | stg (d a b : BitVec 6) (t : BitVec 5) (h : t.toNat ≤ 12) :
      StoreForm s e (.wStg d a b t) .plain 1 (tyWidth t.toNat / 8) (wAddr e) e.d
  | stgx (d a b : BitVec 6) : StoreForm s e (.wStgx d a b) .plain 32 8 (wAddr e) e.d
  | stgi (j : BitVec 3) (p : BitVec 1) (o : BitVec 11) (d : BitVec 6) (h : e.q = true) :
      StoreForm s e (.wStgi j p o d) .plain 32 8 (eaBase e.base 0 p o 256) e.d
  | stgsc (d a b : BitVec 6) (t : BitVec 5) (h : t.toNat ≤ 12) (x : Vec)
      (g : ∀ i < 2048 / tyWidth t.toNat, lane (tyWidth t.toNat) x i = lane (tyWidth t.toNat) e.d 0) :
      StoreForm s e (.wStgsc d a b t) .plain 32 8 (wAddr e) x
  | stnt (d a b : BitVec 6) : StoreForm s e (.wStnt d a b) .nt 32 8 (wAddr e) e.d
  | strel (c : BitVec 3) (a b : BitVec 6) (t : BitVec 5) (h : t.toNat ≤ 12)
      (g : c = 0 ∨ allBefore s.pipe (2 * e.bn + 1) = true) :
      StoreForm s e (.wStrel c a b t) (.rel c.toNat) 1 (tyWidth t.toNat / 8) (vecWord e.a) e.b

/-- The forms of an atomic with head entry e: its request's operation, its type and whether it returns no value (R143, R144). -/
inductive AtomicForm (e : WEntry) : Instr → StOp → BitVec 3 → BitVec 1 → Prop where
  | amo (n : BitVec 1) (m : BitVec 2) (a b : BitVec 6) (o t : BitVec 3) :
      AtomicForm e (.wAmo n m a b o t) (.amo o.toNat t.toNat (if n = 1 then none else some m.toNat)
        ((vecWord e.b).toNat % 2 ^ amoWidth t.toNat) none none none) t n
  | amoacq (c : BitVec 3) (n : BitVec 1) (m : BitVec 2) (a b : BitVec 6) (o t : BitVec 3) :
      AtomicForm e (.wAmoacq c n m a b o t) (.amo o.toNat t.toNat (if n = 1 then none else some m.toNat)
        ((vecWord e.b).toNat % 2 ^ amoWidth t.toNat) none (some c.toNat) none) t n
  | amorel (c : BitVec 3) (n : BitVec 1) (m : BitVec 2) (a b : BitVec 6) (o t : BitVec 3) :
      AtomicForm e (.wAmorel c n m a b o t) (.amo o.toNat t.toNat (if n = 1 then none else some m.toNat)
        ((vecWord e.b).toNat % 2 ^ amoWidth t.toNat) none none (some c.toNat)) t n
  | cas (n : BitVec 1) (m : BitVec 2) (a b : BitVec 6) (x t : BitVec 3) :
      AtomicForm e (.wCas n m a b x t) (.amo 6 t.toNat (if n = 1 then none else some m.toNat)
        ((vecWord e.b).toNat % 2 ^ amoWidth t.toNat) (some (e.e.toNat % 2 ^ amoWidth t.toNat)) none none) t n
  | casacq (c : BitVec 3) (n : BitVec 1) (m : BitVec 2) (a b : BitVec 6) (x t : BitVec 3) :
      AtomicForm e (.wCasacq c n m a b x t) (.amo 6 t.toNat (if n = 1 then none else some m.toNat)
        ((vecWord e.b).toNat % 2 ^ amoWidth t.toNat) (some (e.e.toNat % 2 ^ amoWidth t.toNat)) (some c.toNat) none) t n
  | casrel (c : BitVec 3) (n : BitVec 1) (m : BitVec 2) (a b : BitVec 6) (x t : BitVec 3) :
      AtomicForm e (.wCasrel c n m a b x t) (.amo 6 t.toNat (if n = 1 then none else some m.toNat)
        ((vecWord e.b).toNat % 2 ^ amoWidth t.toNat) (some (e.e.toNat % 2 ^ amoWidth t.toNat)) none (some c.toNat)) t n

/-- An address with a home slice, and the trap without one (R144, R147). -/
def homeCheck (pa : Nat) : Option Nat := if hasHome pa then none else some 0x16

/-! ## Windows, as the claims state them (R252 to R256) -/

/-- A descriptor that R252 allows for window n. -/
def GoodDescriptor (s : State) (n d : Nat) : Prop :=
  let rbase := d / 2 ^ 64 % 2 ^ 21
  let len := (d / 2 ^ 96 % 2 ^ 8 + 1) * 4096
  d / 2 ^ 60 % 2 ^ 4 = 0 ∧ d / 2 ^ 85 % 2 ^ 11 = 0 ∧ d / 2 ^ 106 = 0 ∧ d % 2 ^ 60 % 4096 = 0 ∧ rbase % 4096 = 0 ∧
  rbase + len ≤ 2 ^ 21 ∧
  ∀ m < 8, m ≠ n → (s.win m).mapped = true →
    rbase + len ≤ (s.win m).rbase ∨ (s.win m).rbase + (s.win m).ng * 4096 ≤ rbase

/-- The slots that leave window n as it advances by d granules, lowest address first (R253). -/
def leaving (s : State) (n d : Nat) : List Nat := ((s.win n).order).take (min (s.win n).ng d)

/-- No slot among some of a window has failed. -/
def NoneFailed (s : State) (n : Nat) (js : List Nat) : Prop := ∀ j ∈ js, ((s.win n).slot j).1 ≠ .failed

/-- The ring bytes that 256 bytes from an offset touch lie in no failed slot. -/
def NoneFailedAt (s : State) (o : Nat) : Prop :=
  ∀ k ∈ [o, (o + 255) % 2 ^ 21], ∀ n j, ringAt s.regs k = some (n, j) → ((s.win n).slot j).1 ≠ .failed

/-- The first failed slot that 256 bytes from an offset touch is at va. -/
def FailsAt (s : State) (o : Nat) (va : Word) : Prop :=
  (∃ n j, ringAt s.regs o = some (n, j) ∧ ((s.win n).slot j).1 = .failed ∧ va = BitVec.ofNat 64 ((s.win n).slotVa j)) ∨
  ((∀ n j, ringAt s.regs o = some (n, j) → ((s.win n).slot j).1 ≠ .failed) ∧
    ∃ n j, ringAt s.regs ((o + 255) % 2 ^ 21) = some (n, j) ∧ ((s.win n).slot j).1 = .failed ∧
      va = BitVec.ofNat 64 ((s.win n).slotVa j))

/-- A ring byte is present: its slot is resident, or the byte is dirty; a byte of no ring counts as present (R255). -/
def Present (s : State) (o : Nat) : Prop :=
  ∀ n j, ringAt s.regs o = some (n, j) →
    ((s.win n).slot j).1 = .resident ∨ ((s.win n).slot j).2.getLsbD ((o - (s.win n).rbase) % 4096) = true

/-! ## The fold array, as the claims state it (R157, R166 to R176) -/

/-- The core holds its quad's array, and F is in its fixed group (R11, R158). -/
def HoldsLease (s : State) : Prop := s.me.fold.lease = .held

/-- The array of the core's quad. -/
def arrayOf (s : State) : FoldArray := (s.quad s.myQuad).array

/-- s with that array changed. -/
def withArray (s : State) (f : FoldArray → FoldArray) : State := s.modQuad s.myQuad (fun q => { q with array := f q.array })

/-- The address a feed register gives, and the register after a use (R166). -/
def feedOf (s : State) (k : Nat) : Feed := vget s.regs.feed k Feed.reset
def withFeed (s : State) (k : Nat) (f : Feed) : State := s.modRegs (fun r => { r with feed := vset r.feed k f })
def feedUsed (f : Feed) : Feed :=
  if f.wrap ≠ 0 ∧ f.cnt + 1 = f.wrap then { f with addr := f.addr + f.st2.signExtend 21, cnt := 0 }
  else { f with addr := f.addr + f.st1.signExtend 21, cnt := f.cnt + 1 }

/-- l is a string of n elements of block type t at offset o of the scratchpad of core c of the quad (R47, R167). -/
def BlockString (s : State) (c o n : Nat) (t : BitVec 5) (l : List Int) : Prop :=
  ∃ x, ReadsAt (MayRead s) (fun i => padOf (s.myQuad * 4 + c) + (o + i) % 2 ^ 21) ((n * tyWidth t.toNat + 7) / 8) x ∧
    l.length = n ∧ ∀ i < n, l.getD i 0 = twos (blockW t.toNat) (x / 2 ^ (tyWidth t.toNat * i) % 2 ^ blockW t.toNat)

/-- l is a B row of the array's units at offset o: each quarter of 128 units comes from the core the multicast map names (R167). -/
def BlockRow (s : State) (o : Nat) (l : List Int) : Prop :=
  let x := arrayOf s
  ∃ p : Nat → List Int, l = p 0 ++ p 1 ++ p 2 ++ p 3 ∧ ∀ q < 4,
    BlockString s (vget x.mcast q 0).toNat (o + 128 * q * x.lanes * tyWidth x.tb.toNat / 8)
      ((min x.nu (128 * (q + 1)) - 128 * q) * x.lanes) x.tb (p q)

/-- What a step adds to slot (i, j): the outer product of its column and its row, or the taps of unit j (R169). -/
def stepAdds (p : FoldStep) (i j : Nat) : Int :=
  let col := fun (u n : Nat) => (p.a.getD (p.sel.getD u 0) []).getD n 0
  if p.taps then ((List.range p.e).map (fun t => col j (i + t) * p.b.getD (j * p.e + t) 0)).sum
  else col (j / p.e) i * p.b.getD j 0

/-- s with one more step in the array's pipeline, of a family. -/
def stepEnters (s : State) (taps : Bool) (p : FoldStep) : State :=
  withArray s (fun y => { y with fam := some taps, busy := true, flight := y.flight ++ [p] })

/-- A step issued now by the core, which lands at the end of the third count after. -/
def stepOf (s : State) (taps : Bool) (a : List (List Int)) (sel : List Nat) (b : List Int) : FoldStep :=
  let x := arrayOf s
  ⟨s.pipe.count + 3, s.cur.toNat % 4, taps, x.rows, x.lanes, x.nu, x.stride, a, sel, b⟩

/-- s once a drain, or a `drainz`, has used the lease: the last use ends it (R158). -/
def leaseUsed (s : State) : State :=
  if 1 < (arrayOf s).remaining then withArray s (fun a => { a with remaining := a.remaining - 1 })
  else (withArray s (fun a => { a with remaining := 0, holder := none })).modMe
    (fun c => { c with fold := { c.fold with lease := .none } })

/-- The array after `clr`: its integers, checksum lanes and overflow record are zero, and no step has issued. -/
def cleared (a : FoldArray) : FoldArray :=
  { a with slots := [], kr := [], kc := [], ovf := none, steps := 0, busy := false, fam := none }

/-- Scale word of row i of a drain from scale register ka on (R173). -/
def rowScale (s : State) (taps : Bool) (ka i : Nat) : Nat :=
  if taps then lane 32 (vget s.regs.scale ka 0) 0 else lane 32 (vget s.regs.scale (ka + i / 64) 0) (i % 64)

/-! ## The interpreter of a dispatcher, as the claims state it (R309 to R311) -/

/-- The interpreter of the current die runs queue q. -/
def RunsQueue (s : State) (q : Nat) : Prop := (s.disp (s.cur.toNat / 64)).run = some q

/-- A program register of a queue. -/
def xOf (s : State) (q : Nat) (i : BitVec 3) : Word := vget (s.queue q).x i.toNat 0

/-- The run goes on at its next instruction; and with a program register written. -/
def runNext (s : State) (q : Nat) : State := s.modQueue q (fun x => { x with pc := x.pc + 1, block := .none })
def writesX (s : State) (q : Nat) (d : BitVec 3) (v : Word) : State :=
  s.modQueue q (fun x => { x with x := vset x.x d.toNat v, pc := x.pc + 1, block := .none })

/-- The second operand of the arithmetic: A + sext(imm, 16). -/
def qbOperand (s : State) (q : Nat) (i : BitVec 16) (a : BitVec 3) : Word := xOf s q a + BitVec.ofInt 64 i.toInt

/-- Base and bytes of a window of the run: window 0 is its command block. -/
def qbWindow (s : State) (q : Nat) (w : BitVec 2) : Nat × Nat :=
  let x := s.queue q
  if w = 0 then (x.cblk, 8 * x.cbw)
  else ((x.wins.getD (w.toNat - 1) ⟨0, false, 0⟩).base, (x.wins.getD (w.toNat - 1) ⟨0, false, 0⟩).size)

/-- The offset of a window access. -/
def qbOffset (s : State) (q : Nat) (o : BitVec 12) (a : BitVec 3) : Nat := ((xOf s q a).toNat % 2 ^ 16 + o.toNat) * 8

/-- The run has failed with a code and a detail: its packet is journalled failed and its queue is idle (R318). -/
def runFails (s : State) (q code detail : Nat) : State := failRun q code detail s

/-- The run waits at its instruction for something, and its interpreter is free (R306). -/
def runBlocks (s : State) (q : Nat) (b : Block) : State := blockRun q b s

/-- The work of the run's packet is over, and none of it has failed. -/
def WorkDone (s : State) (q : Nat) : Prop :=
  packetWork s q (((s.queue q).cur).getD 0) = false ∧ (runPacket s q).bind (fun p => p.workBad) = none

/-! ## Events at a core, as the claims state them -/

/-- The task's pipelines of a core, and what else is told apart there. -/
def taskOf (s : State) (n : CoreId) : Pipe := (s.core n.toNat).regs.task
def regsOf (s : State) (n : CoreId) : CoreRegs := (s.core n.toNat).regs

/-- Every byte of memory, and every other core, are the same in both states. -/
def MemorySame (s t : State) : Prop := ∀ a, Memory.get t.mem a = Memory.get s.mem a
def OthersSame (s t : State) (n : CoreId) : Prop := ∀ m, m ≠ n.toNat → t.core m = s.core m

/-- A request of one unit at pa, of the task of core n, whose turn it is (R139, R141, R378); ReadyLoad, ReadyStore: its byte is one of
this module, and a load's is not poisoned (R370). -/
def NextLoad (s : State) (n : CoreId) (i : BitVec 6) (r : Req LdOp) (pa : Nat) : Prop :=
  (taskOf s n).lq[i.toNat]? = some r ∧ r.park = none ∧ r.due = none ∧ r.n = 1 ∧ r.units = [pa] ∧ r.todo = [0] ∧ r.val = 0 ∧
  0 < r.ulen ∧ r.ulen ≤ 256 ∧ isPaused s pa = false ∧ mayPerform (taskOf s n) false (keyL r) pa r.ulen = true ∧ poisoned s pa = false
def NextStore (s : State) (n : CoreId) (i : BitVec 6) (r : Req StOp) (pa : Nat) : Prop :=
  (taskOf s n).sq[i.toNat]? = some r ∧ r.park = none ∧ r.n = 1 ∧ r.units = [pa] ∧ r.todo = [0] ∧
  isPaused s pa = false ∧ mayPerform (taskOf s n) true (keyW r) pa r.ulen = true
def ReadyLoad (s : State) (n : CoreId) (i : BitVec 6) (r : Req LdOp) (pa : Nat) : Prop :=
  NextLoad s n i r pa ∧ podOf s pa = none
def ReadyStore (s : State) (n : CoreId) (i : BitVec 6) (r : Req StOp) (pa : Nat) : Prop :=
  NextStore s n i r pa ∧ podOf s pa = none

/-- A load that acquires at a scope wider than the core: it empties the core's L1 (R141). -/
def emptiesL1 (op : LdOp) : Bool :=
  match op with
  | .stamp | .acq (_ + 1) => true
  | _ => false

/-- The request of unit 0 of access r to another module has the reply f. -/
def Answered (s : State) (n : CoreId) (isStore : Bool) (id : Nat) (f : Flit) : Prop :=
  ∃ q, s.podreqs.find? (fun x => x.who = .access n.toNat false isStore id 0) = some q ∧ q.ans = some f
def Unanswered (s : State) (n : CoreId) (isStore : Bool) (id : Nat) : Prop :=
  ∃ q, s.podreqs.find? (fun x => x.who = .access n.toNat false isStore id 0) = some q ∧ q.ans = none
def NotAsked (s : State) (n : CoreId) (isStore : Bool) (id : Nat) : Prop :=
  ∀ x ∈ s.podreqs, x.who ≠ .access n.toNat false isStore id 0

/-- The load data queue once the entry of a request has its value. -/
def delivered (r : Req LdOp) (v : Vec) (l : List LdqEntry) : List LdqEntry :=
  l.map (fun e => if r.entry = some e.id ∧ e.fixed = none ∧ e.got = false then { e with got := true, val := v } else e)

/-- Every byte of [pa, pa + n) is one of this module's memory: HBM or the second tier. -/
def PlainBytes (s : State) (pa n : Nat) : Prop := ∀ k < n, inMemory (pa + k) = true ∧ podOf s (pa + k) = none

/-- The bytes of memory in [pa, pa + n) are the low ones of v, and every other byte is as it was. -/
def WritesBytes (s t : State) (pa n v : Nat) : Prop :=
  (∀ k < n, Memory.get t.mem (pa + k) = BitVec.ofNat 8 (v / 256 ^ k)) ∧
  ∀ a, a < pa ∨ pa + n ≤ a → Memory.get t.mem a = Memory.get s.mem a

/-- Request i has left the store queue of core n, with its entry of the load queue. -/
def LeavesStore (s t : State) (n : CoreId) (i : BitVec 6) (r : Req StOp) : Prop :=
  (taskOf t n).sq = (taskOf s n).sq.eraseIdx i.toNat ∧ (taskOf t n).lq = (taskOf s n).lq.filter (fun x => x.op ≠ .partner r.id)

/-! ## Limits, walks and fetch, as the claims state them -/

/-- Core n has taken a trap of its task (R264, R265): the trap registers say so, its outrider starts at landing frt, and the task's
registers, memory and every other core are as they were. -/
def TrapTaken (s t : State) (n : CoreId) (cause : Nat) (addr : Word) (slot : Nat) (bundle : Word) : Prop :=
  let r := (regsOf t n).trap
  r.tcause.toNat = cause ∧ r.taddr = addr ∧ r.tslot.toNat = slot ∧ r.tbundle = bundle ∧ r.tstatus.getLsbD 0 = true ∧
  r.tstatus.getLsbD 1 = false ∧ (regsOf t n).out = .running ∧
  (regsOf t n).outr.target = some ⟨(s.ctx (regsOf s n).id.tag).frt, false⟩ ∧
  (taskOf t n).s = (taskOf s n).s ∧ (taskOf t n).p = (taskOf s n).p ∧ (regsOf t n).vec = (regsOf s n).vec ∧
  MemorySame s t ∧ OthersSame s t n

/-- The fixed group of the task of core n has held at bundle b, whose C syllable has this op, for its limit at bit lo. -/
def HeldFor (s : State) (n : CoreId) (lo op : Nat) (b : Bundle) : Prop :=
  (s.core n.toNat).issues = true ∧ (regsOf s n).out = .off ∧ (∃ r, (taskOf s n).bq = b :: r) ∧ field b.bits 57 6 = op ∧
  0 < field b.bits (32 + lo) 16 ∧
  ∃ h, (regsOf s n).hold = some h ∧ h.bn = (taskOf s n).bn ∧ field b.bits (32 + lo) 16 ≤ h.cycles

/-- s as core n sees it. -/
def at' (s : State) (n : CoreId) : State := { s with cur := n }

/-- The park of core n has lasted k µs. -/
def ParkedFor (s : State) (n : CoreId) (k : Nat) : Prop :=
  k ≠ 0 ∧ ∃ f, (regsOf s n).lim.parkFrom = some f ∧ k ≤ (s.now - f) / 1000000

/-- The index that level l of a walk takes from an address, and the first byte of the table it reads, given the entries above
(R239, R240). -/
def walkIndex (va l : Nat) : Nat := if l = 1 then va / 2 ^ 48 % 2 ^ 12 else va / 2 ^ (57 - 9 * l) % 2 ^ 9
def walkTable (s : State) (tag : Nat) (e : Nat → Nat) (l : Nat) : Nat :=
  if l = 1 then (s.ctx tag).root else e (l - 1) / 2 ^ 12 % 2 ^ 40 * 2 ^ 12
def walkAt (s : State) (tag va : Nat) (e : Nat → Nat) (l : Nat) : Nat := walkTable s tag e l + 8 * walkIndex va l

/-- The entries e 1 to e k are the ones a walk of va reads, and those above level k lead on. -/
def WalkReads (s : State) (tag va : Nat) (e : Nat → Nat) (k : Nat) : Prop :=
  (∀ l, 1 ≤ l → l ≤ k → e l = Memory.read s.mem (walkAt s tag va e l) 8 ∧ podOf s (walkAt s tag va e l) = none ∧
    poisoned s (walkAt s tag va e l) = false) ∧
  ∀ l, 1 ≤ l → l < k → e l % 2 ^ 12 = 1 ∧ e l < 2 ^ 52 ∧ inMemory (e l / 2 ^ 12 % 2 ^ 40 * 2 ^ 12) = true

/-- A leaf entry at level k of a walk of va, well formed: of 1 GiB at level 3, of 2 MiB at level 4, of 4 KiB or, with bit 6, of
64 KiB at level 5 (R240, R241, R244); and log2 of the bytes it maps. -/
def GoodLeaf (e va k : Nat) : Prop :=
  e % 4 = 3 ∧ e / 2 ^ 7 % 2 ^ 5 = 0 ∧ e < 2 ^ 52 ∧
  ((k = 3 ∧ e.testBit 6 = false ∧ e / 2 ^ 12 % 2 ^ 18 = 0) ∨ (k = 4 ∧ e.testBit 6 = false ∧ e / 2 ^ 12 % 2 ^ 9 = 0) ∨
    (k = 5 ∧ (e.testBit 6 = true → e / 2 ^ 12 % 2 ^ 4 = va / 2 ^ 12 % 2 ^ 4)))
def leafLog (e k : Nat) : Nat := if k = 3 then 30 else if k = 4 then 21 else if e.testBit 6 then 16 else 12

/-- The permission of a leaf entry for a kind of access: 0 read, 1 write, 2 read and write, 3 fetch (R242). -/
def leafPermits (e kind : Nat) : Bool :=
  match kind with
  | 0 => e.testBit 2
  | 1 => e.testBit 3
  | 2 => e.testBit 2 && e.testBit 3
  | _ => e.testBit 4

/-- The result r of the walk of core n for an address enters a state t: a leaf its caches, a page parked on a request. -/
def WalkEnters (s t : State) (n : CoreId) (fetch : Bool) (va kind : Nat) (r : WalkRes) : Prop :=
  (∀ l, r = .leaf l → l ∈ (t.quad (n.toNat / 4)).l2tlb ∧
    l ∈ (if fetch then (t.core n.toNat).cache.ctlb else (t.core n.toNat).cache.dtlb)) ∧
  (∀ e, r = .park e → podOf s e = none → kind < 4 → Memory.read s.mem e 8 % 2 ^ 12 ≠ 0xB24 →
    ∃ x ∈ (t.quad (n.toNat / 4)).pageReq ++ (t.quad (n.toNat / 4)).posters,
      x.page = va / 4096 ∧ x.tag = (regsOf s n).id.tag) ∧
  MemorySame s t ∧ OthersSame s t n

/-- The registers that are 0 as a task starts (R328). -/
def StartsZero (r : CoreRegs) : Prop :=
  r.task.s = Vector.replicate 40 0 ∧ r.task.p = Vector.replicate 16 0 ∧ r.task.latch = Vector.replicate 4 0 ∧
  r.vec.v = Vector.replicate 40 0 ∧ r.vec.la = Vector.replicate 4 0 ∧ r.vec.lb = Vector.replicate 4 0

/-- An access of core n at va that no cached leaf serves walks to a leaf. -/
def WalksTo (s : State) (n : CoreId) (va kind : Nat) (l : Leaf) : Prop :=
  (∀ x ∈ (s.core n.toNat).cache.dtlb ++ (s.quad (n.toNat / 4)).l2tlb, x.hits (regsOf s n).id.tag va = false) ∧
  walkRes (regsOf s n).id.tag va kind (walkCached s (n.toNat / 4) (regsOf s n).id.tag va) = some (.leaf l)

/-- No leaf that core n holds covers the address. -/
def NoLeaf (s : State) (n : CoreId) (fetch : Bool) (va : Nat) : Prop :=
  ∀ l ∈ (if fetch then (s.core n.toNat).cache.ctlb else (s.core n.toNat).cache.dtlb) ++ (s.quad (n.toNat / 4)).l2tlb,
    l.hits (regsOf s n).id.tag va = false

/-! ## Command registers, contexts and queues, as the claims state them -/

/-- A command of this register runs, and no further one is held (R245). -/
def Runs (r : CmdReg) (op opBits : Nat) : Prop := r.busy = true ∧ r.held = [] ∧ r.w8.toNat % 2 ^ opBits = op

/-- The command has ended with a result. -/
def Ended (r : CmdReg) (err : Nat) : Prop := r.busy = false ∧ r.w8.toNat / 2 ^ 56 % 2 ^ 7 = err

/-- Word k of the record that a command names (R259, R301). -/
def recordOf (s : State) (r : CmdReg) (k : Nat) : Nat := Memory.read s.mem (r.arg.toNat / 2 ^ 6 % 2 ^ 46 * 64 + 8 * k) 8

/-- The alignments of a context record; its reserved fields are ignored (R2, R258). -/
def GoodContext (w : Nat → Nat) : Prop := w 1 % 2 ^ 15 = 0 ∧ w 3 % 2 ^ 12 = 0

/-- The alignments of a queue record; its reserved fields are ignored (R2, R300). -/
def GoodQueue (w : Nat → Nat) : Prop :=
  w 2 % 4 = 0 ∧ ∀ k, k = 4 ∨ k = 6 ∨ k = 8 → w k % 8 = 0 ∧ w (k + 1) % 8 = 0

/-- No task of a context runs. -/
def NoTask (s : State) (tag : Nat) : Prop := ∀ m, (s.core m).regs.run ≠ .idle → (s.core m).regs.id.tag ≠ tag

/-- A context from which a destroy is taken (R260). -/
def Bound (s : State) (tag : Nat) : Prop :=
  (s.ctx tag).st = .created ∨ (s.ctx tag).st = .resident ∨ (s.ctx tag).st = .running ∨ (s.ctx tag).st = .saved

/-- The pages that XSHOOT names: a first page and how many (R245). -/
def shotPages (r : CmdReg) : Nat × Nat :=
  let n := min 48 (r.arg.toNat % 2 ^ 6)
  if r.w8.getLsbD 12 then (0, 2 ^ 48) else (r.arg.toNat / 2 ^ 12 % 2 ^ 48 / 2 ^ n * 2 ^ n, 2 ^ n)

/-- A leaf of the tag that translates one of those pages. -/
def Shot (r : CmdReg) (l : Leaf) : Prop :=
  l.tag = r.w8.toNat % 2 ^ 12 ∧ l.vpn < (shotPages r).1 + (shotPages r).2 ∧ (shotPages r).1 < l.vpn + 2 ^ l.size

/-! ## Engines and the rescheduler, as the claims state them -/

/-- Channel c waits with head m and the commands r behind it. -/
def HeadOf (s : State) (c : BitVec 9) (m : Cmd) (r : List Cmd) : Prop := (s.chan c.toNat).cmds = m :: r

/-- The stamp of command m of channel c goes to plain memory at pa (R203). -/
def StampsAt (s : State) (c : BitVec 9) (m : Cmd) (pa : Nat) : Prop :=
  (∃ a, stampAddr s c.toNat m = some a ∧ a % 8 = 0 ∧ engineLook s c.toNat 1 true a = .ok pa) ∧ PlainBytes s pa 8 ∧
  ∀ i < 8, reservedPa s (pa + i) = false

/-- The 8 bytes of a stamp: the sequence number, the code, the channel and the die (R203). -/
def stampOf (c : BitVec 9) (m : Cmd) (code : Nat) : Nat :=
  m.word.toNat / 2 ^ 40 % 2 ^ 16 + 2 ^ 16 * code + 2 ^ 24 * (c.toNat % 16) + 2 ^ 28 * (c.toNat / 16)

/-- Core n's token k belongs to command m and is pending. -/
def OwnsToken (s : State) (n k : Nat) (m : Cmd) : Prop :=
  m.core = some n ∧ tokenField m.word 33 = some k ∧ k < 64 ∧
  vget (s.core n).regs.tok k Token.reset = ⟨.pending, m.owner⟩

/-- A request of the store queue that carries a command, and may reach its channel now (R189). -/
def CommandReady (s : State) (n : CoreId) (i : BitVec 6) (r : Req StOp) (marker : Bool) (token : Option Nat) (owner : Nat) : Prop :=
  (taskOf s n).sq[i.toNat]? = some r ∧ r.op = .go marker token owner ∧ engineTurn (taskOf s n) i.toNat r = true

/-- No window to another module is open and no request to one is unanswered. -/
def NoneFar (s : State) : Prop := s.podwin = [] ∧ s.podreqs = []

/-- The elements of a template's two sides fill whole bytes, and neither side is of a block type (R31, R197). -/
def WholeElements (t : Tmpl) : Prop :=
  isBlock t.st = false ∧ isMx t.st = false ∧ isBlock t.dt = false ∧ isMx t.dt = false ∧
  (typeOf t.st).isSome = true ∧ (typeOf t.dt).isSome = true ∧ tyWidth t.st % 8 = 0 ∧ tyWidth t.dt % 8 = 0

/-- Element k of row r of the source, in the destination's type (R199). -/
def elemAs (rd : Nat → Byte) (t : Tmpl) (r k : Nat) : Nat :=
  let x := elemRaw rd (rowAddr t.src t.ss r) k (tyWidth t.st)
  if t.st = t.dt then x
  else match typeOf t.dt, typeOf t.st with | some d, some e => valElem d t.rm (elemVal e x) | _, _ => 0

/-- Among what a template writes are the bytes of v, as element k of row r of the destination. -/
def Moves (rd : Nat → Byte) (t : Tmpl) (r k v : Nat) : Prop :=
  ∀ j < tyWidth t.dt / 8, (rowAddr t.dst t.ds r + k * (tyWidth t.dt / 8) + j, BitVec.ofNat 8 (v / 2 ^ (8 * j))) ∈ tmplOut rd t

/-- The page of a job: its frame, and its header as memory holds it. -/
def frameOf (j : Job) : Nat := j.leaf.toNat / 2 ^ 12 % 2 ^ 40 * 2 ^ 12
def headerOf (s : State) (j : Job) : Nat := Memory.read s.mem (frameOf j) 64

/-- Job j is the next one of die d, and the module's only one. -/
def OnlyJob (s : State) (d : DieId) (j : Job) : Prop := s.jobs = [j] ∧ j.die = d.toNat

/-! ## Errors, debug and the host, as the claims state them -/

/-- A context that a termination ends; what its termination leaves (R260). -/
def Terminates (s t : State) (tag : Nat) : Prop := Bound s tag → (t.ctx tag).st = .terminating ∧ NoTask t tag

/-- The trace of a die, and a monitor of it. -/
def traceOf (s : State) (d : DieId) : Trace := (s.dbgOf d.toNat).trace
def monOf (s : State) (d : DieId) (m : BitVec 6) : Mon := fget Mon.reset (s.dbgOf d.toNat).mons m.toNat

/-- Nothing but the debug core of die d differs. -/
def OnlyDebug (s t : State) (d : Nat) : Prop :=
  MemorySame s t ∧ t.cores = s.cores ∧ t.quads = s.quads ∧ t.host = s.host ∧ ∀ e, e ≠ d → t.dbgOf e = s.dbgOf e

/-- A core that no trap, park or suspension holds (R384). -/
def NotHeld (s : State) (n : Nat) : Prop :=
  (s.core n).regs.out = .off ∧ (s.core n).regs.lim.parkFrom = none ∧ ((s.core n).regs.run ≠ .idle ∨ (s.core n).susp = [])

/-! ## Where an instruction stands -/

/-- Where a row of the opcode table stands: at a position of a bundle, in a queue program, or as an event of a unit (R54, R309). -/
inductive Home where
  | slot (p : Pos)
  | queue
  | event
  deriving DecidableEq, Repr

/-- The home of an instruction. -/
def rowHome (i : Instr) : Home :=
  match i with
  | .sAdd .. | .sSub .. | .sAddi .. | .sMul .. | .sMulh .. | .sMin .. | .sMax .. | .sAnd .. | .sOr .. | .sXor .. | .sAndn ..
  | .sAndi .. | .sOri .. | .sXori .. | .sShl .. | .sShr .. | .sSar .. | .sShli .. | .sShri .. | .sSari .. | .sFsh ..
  | .sFshi .. | .sBfx .. | .sBfxi .. | .sBfi .. | .sBfii .. | .sPcnt .. | .sClz .. | .sCtz .. | .sBrev .. | .sBitrev ..
  | .sSel .. | .sCmp .. | .sCmpi .. | .sLi .. | .sLih .. | .sLea .. | .sLeai .. | .sAbs .. | .sAdds .. | .sSubs .. | .sSrd ..
  | .sSwr .. | .sCptr .. | .sExt .. | .sNop => .slot .S
  | .cBr .. | .cBrn .. | .cBrany .. | .cBrall .. | .cJmp .. | .cJmpi .. | .cCall .. | .cCalli .. | .cRet .. | .cLoop ..
  | .cLoopi .. | .cLend .. | .cEnter .. | .cLeave .. | .cTrap .. | .cBrk .. | .cTkwait .. | .cTkall .. | .cTkclr ..
  | .cBwait .. | .cBtest .. | .cIfence .. | .cMwait .. | .cRot .. | .cQset .. | .cBset .. | .cGap .. | .cNop | .cEnd | .cResume
  | .cAck | .cEscal | .cGleave | .cKick => .slot .C
  | .vAdd vs .. | .vSub vs .. | .vMul vs .. | .vMulh vs .. | .vFma vs .. | .vFms vs .. | .vFnma vs .. | .vMin vs ..
  | .vMax vs .. | .vAbs vs .. | .vNeg vs .. | .vAdds vs .. | .vSubs vs .. | .vAvg vs .. | .vMac vs .. | .vCmp vs ..
  | .vCmpi vs .. | .vAnd vs .. | .vOr vs .. | .vXor vs .. | .vAndn vs .. | .vNot vs .. | .vShl vs .. | .vShr vs ..
  | .vSar vs .. | .vShli vs .. | .vShri vs .. | .vSari vs .. | .vRotl vs .. | .vFsh vs .. | .vBfx vs .. | .vBfi vs ..
  | .vPcnt vs .. | .vClz vs .. | .vCvt vs .. | .vCvtn vs .. | .vCvtw vs .. | .vCvth vs .. | .vQblk vs .. | .vPack vs ..
  | .vPackw vs .. | .vXtr vs .. | .vXtrw vs .. | .vBcast vs .. | .vBcasti vs .. | .vLane vs .. | .vPerm vs .. | .vZip vs ..
  | .vUnzip vs .. | .vLrot vs .. | .vSlide vs .. | .vCmpr vs .. | .vExpd vs .. | .vRadd vs .. | .vRmax vs .. | .vRmin vs ..
  | .vRbor vs .. | .vScan vs .. | .vLut vs .. | .vLuti vs .. | .vRcp vs .. | .vRsq vs .. | .vExp2 vs .. | .vLog2 vs ..
  | .vSigm vs .. | .vSel vs .. | .vMand vs .. | .vMor vs .. | .vMxor vs .. | .vMnot vs .. | .vMpop vs .. | .vMfirst vs ..
  | .vClamp vs .. | .vIota vs .. | .vMovi vs .. | .vFcls vs .. | .vDot vs ..
    => (match vs with | .va => .slot .VA | .vb => .slot .VB)
  | .vNop => .slot .VA
  | .lLd .. | .lLdi .. | .lLdst .. | .lLdx .. | .lLdb .. | .lLdsc .. | .lLdw .. | .lLdg .. | .lLdgi .. | .lLdgx .. | .lLdgsc ..
  | .lLdacq .. | .lLdr .. | .lWait .. | .lWaitne .. | .lWadv .. | .lWmap .. | .lWres .. | .lPreq .. | .lPf .. | .lPfl2 ..
  | .lLdm .. | .lLdstamp .. | .lLdacc .. | .lLdaccw .. | .lLdz .. | .lLds .. | .lXlat .. | .lLdnt .. | .lNop => .slot .L
  | .wSt .. | .wSti .. | .wStst .. | .wStx .. | .wStsc .. | .wStw .. | .wStg .. | .wStgi .. | .wStgx .. | .wStgsc ..
  | .wStrel .. | .wStacc .. | .wStm .. | .wAmo .. | .wAmoacq .. | .wAmorel .. | .wCas .. | .wCasacq .. | .wCasrel ..
  | .wFence .. | .wDiscard .. | .wGo .. | .wApw .. | .wMailw .. | .wArrive .. | .wTkset .. | .wWb .. | .wInv .. | .wStnt ..
  | .wRingDb .. | .wRingWk .. | .wStamp .. | .wFlushw .. | .wNop | .wMark => .slot .W
  | .fLease .. | .fLeasew .. | .fGuard .. | .fFmt .. | .fOuter .. | .fTaps .. | .fWide .. | .fSouter .. | .fStaps ..
  | .fDrain .. | .fFset .. | .fFadd .. | .fFstr .. | .fFwrap .. | .fStage .. | .fRoute .. | .fCsum .. | .fCscnt ..
  | .fInject .. | .fMcast .. | .fAccsel .. | .fNop | .fFree | .fDrainz | .fFence | .fClr => .slot .F
  | .kLd .. | .kLdi .. | .kLdh .. | .kSet .. | .kMov .. | .kLdmx .. | .kSt .. | .kRot .. | .kClr .. | .kNop => .slot .K
  | .qbNop | .qbLdc .. | .qbLdw .. | .qbStw .. | .qbAdd .. | .qbSub .. | .qbAnd .. | .qbOr .. | .qbXor .. | .qbShl ..
  | .qbShr .. | .qbCmp .. | .qbSkip .. | .qbLoop .. | .qbEndl | .qbLaunch .. | .qbChain .. | .qbCopy .. | .qbArrive ..
  | .qbWaitb .. | .qbWaitbWake .. | .qbSignal .. | .qbArm .. | .qbCond .. | .qbIrq .. | .qbDline .. | .qbBand .. | .qbFence
  | .qbRdclk .. | .qbDone | .qbFail .. => .queue
  | .bundleDispatch .. | .pageEntry .. | .resultLanding .. | .foldStepLanding .. | .drainAccumulate .. | .loadReply ..
  | .storePerformed .. | .atomicExecute .. | .mailWrite .. | .waitMonitorWrite .. | .hostSnoop .. | .waitPollTick ..
  | .waitTimeout .. | .mailTimeout .. | .tokenTimeout .. | .barrierTimeout .. | .wdogExpired .. | .translationWalk ..
  | .pageRequestTaken .. | .wake .. | .parkLimitSuspend .. | .parkTimeout .. | .xshootStart | .xshootComplete
  | .windowFillDone .. | .mbreplyContinue .. | .mbreplyResume .. | .mbreplyRestart .. | .mbreplyTerminate .. | .mbreplyHalt ..
  | .ctxCreate | .ctxDestroy | .ctxRelease | .contextScrubDone .. | .leaseGrant .. | .fctlClr .. | .fctlSetg .. | .cmdAccept ..
  | .cmdActivate .. | .cmdDone .. | .cmdFail .. | .cabort .. | .engineParkLimit .. | .reschedJob .. | .qcmdDefine | .qcmdDelete
  | .doorbellTail .. | .doorbellWake .. | .queueMap .. | .queueAccept .. | .queueRun .. | .queueUnblock .. | .queueUnmap ..
  | .irqcoalWrite .. | .irqTmaxExpiry .. | .msixUnmask .. | .quadClaim .. | .reserveRetry .. | .nodeCommit .. | .taskStart ..
  | .taskFinish .. | .nodeFinish .. | .barrierArrival .. | .barrierCompletion .. | .bcfgWrite .. | .arrivePortWrite ..
  | .lctlEnable .. | .lctlDisable .. | .lctlIsolate .. | .lctlUnisolate .. | .linkTrainingDone .. | .linkTrainingTimeout ..
  | .linkRetrain .. | .linkRetrainDone .. | .linkRetrainTimeout .. | .flitReceive .. | .replayRequest .. | .podwinWrite ..
  | .podcfgWrite .. | .uncorrectableError .. | .hbmParityAlert .. | .hbmRefreshLimit .. | .hbmRepair .. | .tableVoteFail ..
  | .schedulerRestart .. | .moduleReset | .getMeasurements | .getCertificate | .swallowUpdate .. | .thermalEvent ..
  | .thermalClear .. | .dbgHaltRequest .. | .dbgResume .. | .dbgAccessRegister .. | .dbgAccessMemory .. | .traceArm ..
  | .traceStop .. | .traceSample .. | .monClear .. | .hostAccess .. | .registerWrite .. | .laneSwapDone ..
  | .schedulerRestartDone .. | .traceCycleReached .. | .monitorCycleSample .. => .event

/-- The words of a syllable and of a queue program read as an instruction. -/
def ReadsAs (h : Home) (u : BitVec 32) (i : Instr) : Prop :=
  match h with
  | .slot p => decodeSyl p u = .ok i
  | .queue => decodeQb u = .ok i
  | .event => False

/-- A table entry (its tag, level, index and next table) on the way to one of those pages. -/
def ShotTable (r : CmdReg) (w : Nat × Nat × Nat × Nat) : Prop :=
  let n := 2 ^ (levelLo w.2.1 - 12)
  w.1 = r.w8.toNat % 2 ^ 12 ∧ w.2.2.1 * n < (shotPages r).1 + (shotPages r).2 ∧ (shotPages r).1 < w.2.2.1 * n + n

/-! ## Frames -/

/-- Every byte of memory and every other core are the same, and so are the scalar, vector, mask and scale registers, latches,
bridge, loop, region and limits of the core's task and outrider. -/
def FilesSame (s t : State) : Prop :=
  (∀ a, Memory.get t.mem a = Memory.get s.mem a) ∧
  (∀ n, n ≠ s.cur.toNat → t.core n = s.core n) ∧
  t.me.regs.task.s = s.me.regs.task.s ∧ t.me.regs.task.bridge = s.me.regs.task.bridge ∧
  t.me.regs.task.latch = s.me.regs.task.latch ∧ t.me.regs.task.p = s.me.regs.task.p ∧
  t.me.regs.task.pSync = s.me.regs.task.pSync ∧ t.me.regs.task.pOwn = s.me.regs.task.pOwn ∧
  t.me.regs.outr.s = s.me.regs.outr.s ∧ t.me.regs.outr.p = s.me.regs.outr.p ∧
  t.me.regs.vec = s.me.regs.vec ∧ t.me.regs.loop = s.me.regs.loop ∧ t.me.regs.region = s.me.regs.region ∧
  t.me.regs.scale = s.me.regs.scale ∧ t.me.regs.lim = s.me.regs.lim ∧
  t.me.regs.id = s.me.regs.id ∧ t.me.regs.run = s.me.regs.run

/-- The registers of a core's task and outrider, memory and every other core are the same in both states. -/
def SameRegisters (s t : State) : Prop :=
  (∀ a, Memory.get t.mem a = Memory.get s.mem a) ∧
  (∀ n, n ≠ s.cur.toNat → t.core n = s.core n) ∧
  t.me.regs.task.s = s.me.regs.task.s ∧ t.me.regs.task.bridge = s.me.regs.task.bridge ∧
  t.me.regs.task.latch = s.me.regs.task.latch ∧ t.me.regs.task.p = s.me.regs.task.p ∧
  t.me.regs.task.pSync = s.me.regs.task.pSync ∧ t.me.regs.task.pOwn = s.me.regs.task.pOwn ∧
  t.me.regs.task.count = s.me.regs.task.count ∧ t.me.regs.task.pc = s.me.regs.task.pc ∧
  t.me.regs.outr.s = s.me.regs.outr.s ∧ t.me.regs.outr.p = s.me.regs.outr.p ∧
  t.me.regs.vec = s.me.regs.vec ∧ t.me.regs.loop = s.me.regs.loop ∧ t.me.regs.region = s.me.regs.region ∧
  t.me.regs.feed = s.me.regs.feed ∧ t.me.regs.scale = s.me.regs.scale ∧ t.me.regs.tok = s.me.regs.tok ∧
  t.me.regs.arr = s.me.regs.arr ∧ t.me.regs.wins = s.me.regs.wins ∧ t.me.regs.lim = s.me.regs.lim ∧
  t.me.regs.id = s.me.regs.id ∧ t.me.regs.run = s.me.regs.run

end Sys2Proof.Machine
end

