-- ==== Sys2Proof/Certificates/Slice0/Obligations.lean ====
section
/-! DEFINITION. The statements for the provers. Each formalises rules of the spec, named in its docstring; a clause that rests on
a choice of the model names the log entry. A definition Claim.<Name> is a part of the obligation that stands after it. -/

open Sys2Proof Sys2Proof.Machine
open Host (Outcome)

/-! ## The S slot -/

/-- The untyped sums and products of S, its logic and its addresses (R83, R87): every one completes whenever its pops can be
taken, its value is computed mod 2^64, and nothing but its result in flight and what its sources consume changes. -/
def Claim.ScalarSums : Prop :=
  (∀ s : State, exec .sNop s = .next s) ∧
  Alu2 .sAdd 1 (fun _ _ _ x y => BitVec.ofNat 64 (x.toNat + y.toNat)) ∧
  Alu2 .sSub 1 (fun _ _ _ x y => BitVec.ofInt 64 ((x.toNat : Int) - y.toNat)) ∧
  Alu2 .sMul 4 (fun _ _ _ x y => BitVec.ofNat 64 (x.toNat * y.toNat)) ∧
  (∀ i, Alu1 (fun w d a => .sAddi w d i a) 1 (fun _ _ _ x => BitVec.ofInt 64 ((x.toNat : Int) + i.toInt))) ∧
  (∀ k, Alu2 (fun w d a b => .sLea w d a b k) 1 (fun _ _ _ x y => BitVec.ofNat 64 (x.toNat + y.toNat * 2 ^ k.toNat))) ∧
  (∀ i, Alu1 (fun w d a => .sLeai w d i a) 1 (fun _ _ _ x => BitVec.ofInt 64 ((x.toNat : Int) + i.toInt * 256))) ∧
  (∀ i, Alu1 (fun w d a => .sCptr w d i a) 1 (fun _ _ _ x => BitVec.ofNat 64 (x.toNat / 2 ^ 12 % 2 ^ 48 * 2 ^ 12 + i.toNat)))

/-- The logic of S; an immediate is sign-extended (R56, R83). `sel` reads its mask as the S slot sees it (R85). -/
def Claim.ScalarLogic : Prop :=
  Alu2 .sAnd 1 (fun _ _ _ x y => x &&& y) ∧
  Alu2 .sOr 1 (fun _ _ _ x y => x ||| y) ∧
  Alu2 .sXor 1 (fun _ _ _ x y => x ^^^ y) ∧
  Alu2 .sAndn 1 (fun _ _ _ x y => x &&& ~~~y) ∧
  (∀ i, Alu1 (fun w d a => .sAndi w d i a) 1 (fun _ _ _ x => x &&& BitVec.ofInt 64 i.toInt)) ∧
  (∀ i, Alu1 (fun w d a => .sOri w d i a) 1 (fun _ _ _ x => x ||| BitVec.ofInt 64 i.toInt)) ∧
  (∀ i, Alu1 (fun w d a => .sXori w d i a) 1 (fun _ _ _ x => x ^^^ BitVec.ofInt 64 i.toInt)) ∧
  (∀ m, Alu2 (fun w d a b => .sSel w d a b m) 1 (fun s _ _ x y => if (s.mask .S m).getLsbD 0 then x else y))

/-- Shifts, funnel shifts and bit fields of S (R84). -/
def Claim.ScalarShifts : Prop :=
  Alu2 .sShl 1 (fun _ _ _ x y => BitVec.ofNat 64 (x.toNat * 2 ^ y.toNat)) ∧
  Alu2 .sShr 1 (fun _ _ _ x y => BitVec.ofNat 64 (x.toNat / 2 ^ y.toNat)) ∧
  Alu2 .sSar 1 (fun _ _ _ x y => BitVec.ofInt 64 (x.toInt / 2 ^ y.toNat)) ∧
  (∀ k : BitVec 6, Alu1 (fun w d a => .sShli w d k a) 1 (fun _ _ _ x => BitVec.ofNat 64 (x.toNat * 2 ^ k.toNat))) ∧
  (∀ k : BitVec 6, Alu1 (fun w d a => .sShri w d k a) 1 (fun _ _ _ x => BitVec.ofNat 64 (x.toNat / 2 ^ k.toNat))) ∧
  (∀ k : BitVec 6, Alu1 (fun w d a => .sSari w d k a) 1 (fun _ _ _ x => BitVec.ofInt 64 (x.toInt / 2 ^ k.toNat))) ∧
  (∀ k : BitVec 6, Alu2 (fun w d a b => .sFsh w d a b k) 1
    (fun _ _ _ x y => BitVec.ofNat 64 ((x.toNat * 2 ^ 64 + y.toNat) / 2 ^ k.toNat))) ∧
  (∀ k : BitVec 6, Alu1 (fun w d a => .sFshi w d k a) 1 (fun _ _ _ x => x.rotateRight k.toNat)) ∧
  (∀ x : BitVec 1, Alu2 (fun w d a b => .sBfx w d a b x) 1
    (fun _ _ _ u v => cutField u (v.toNat % 64) (v.toNat / 256 % 64 + 1) (x = 1))) ∧
  (∀ l p : BitVec 6, Alu1 (fun w d a => .sBfxi w d l p a) 1 (fun _ _ _ u => cutField u p.toNat (l.toNat + 1) false)) ∧
  (∀ x : BitVec 1, Alu2 (fun w d a b => .sBfi w d a b x) 1
    (fun s w d u v => pasteField (oldS s w d) u (v.toNat % 64) (v.toNat / 256 % 64 + 1) (x = 1))) ∧
  (∀ l p : BitVec 6, Alu1 (fun w d a => .sBfii w d l p a) 1
    (fun s w d u => pasteField (oldS s w d) u p.toNat (l.toNat + 1) false))

/-- The typed group of S (R82, R83): the operands are read at the width and sign of the type, and the result is written so. -/
def Claim.ScalarTyped : Prop :=
  (∀ t, Alu2 (fun w d a b => .sMulh w d a b t) 4
    (fun _ _ _ x y => typedOut t (typedIn t x * typedIn t y / 2 ^ tyWidth t.toNat))) ∧
  (∀ t, Alu2 (fun w d a b => .sMin w d a b t) 1 (fun _ _ _ x y => typedOut t (min (typedIn t x) (typedIn t y)))) ∧
  (∀ t, Alu2 (fun w d a b => .sMax w d a b t) 1 (fun _ _ _ x y => typedOut t (max (typedIn t x) (typedIn t y)))) ∧
  (∀ t, Alu1 (fun w d a => .sAbs w d a t) 1 (fun _ _ _ x => typedOut t (min |typedIn t x| (typedMax t)))) ∧
  (∀ t, Alu2 (fun w d a b => .sAdds w d a b t) 1
    (fun _ _ _ x y => typedOut t (max (typedMin t) (min (typedMax t) (typedIn t x + typedIn t y))))) ∧
  (∀ t, Alu2 (fun w d a b => .sSubs w d a b t) 1
    (fun _ _ _ x y => typedOut t (max (typedMin t) (min (typedMax t) (typedIn t x - typedIn t y))))) ∧
  (∀ t, Alu1 (fun w d a => .sExt w d a t) 1 (fun _ _ _ x => typedOut t (typedIn t x)))

/-- The counts and reversals of S (R82, R83). -/
def Claim.ScalarCounts : Prop :=
  (∀ t, Alu1 (fun w d a => .sPcnt w d a t) 2
    (fun _ _ _ x => BitVec.ofNat 64 ((List.range (tyWidth t.toNat)).countP (fun k => x.getLsbD k)))) ∧
  (∀ t, Alu1 (fun w d a => .sClz w d a t) 2
    (fun _ _ _ x => BitVec.ofNat 64 (((List.range (tyWidth t.toNat)).reverse.takeWhile (fun k => !x.getLsbD k)).length))) ∧
  (∀ t, Alu1 (fun w d a => .sCtz w d a t) 2
    (fun _ _ _ x => BitVec.ofNat 64 (((List.range (tyWidth t.toNat)).takeWhile (fun k => !x.getLsbD k)).length))) ∧
  (∀ t, Alu1 (fun w d a => .sBrev w d a t) 2
    (fun _ _ _ x => typedOut t (((List.range (tyWidth t.toNat / 8)).map (fun k =>
      x.toNat / 256 ^ k % 256 * 256 ^ (tyWidth t.toNat / 8 - 1 - k))).sum : Nat))) ∧
  (∀ t, Alu1 (fun w d a => .sBitrev w d a t) 2
    (fun _ _ _ x => typedOut t (((List.range (tyWidth t.toNat)).map (fun k =>
      if x.getLsbD k then 2 ^ (tyWidth t.toNat - 1 - k) else 0)).sum : Nat)))

/-- Compares of S write all 256 bits of a mask with the outcome, and no latch (R85). -/
def Claim.ScalarCompares : Prop :=
  (∀ (s : State) (m : BitVec 4) (a b : BitVec 6) (c : BitVec 3), CanPop (isPop a + isPop b) s →
    exec (.sCmp m a b c) s =
      .next (withResults (afterReads s (isPop a + isPop b) (mailsOf a ++ mailsOf b))
        (resultsAt s .S 1 [.mask m.toNat] (if scalarCond c.toNat (sVal s a 0) (sVal s b (isPop a))
          then BitVec.ofNat 2048 (2 ^ 256 - 1) else 0)))) ∧
  (∀ (s : State) (c : BitVec 2) (m : BitVec 4) (i : BitVec 12) (a : BitVec 6), CanPop (isPop a) s →
    exec (.sCmpi c m i a) s =
      .next (withResults (afterReads s (isPop a) (mailsOf a))
        (resultsAt s .S 1 [.mask m.toNat] (if scalarCond c.toNat (sVal s a 0) (BitVec.ofInt 64 i.toInt)
          then BitVec.ofNat 2048 (2 ^ 256 - 1) else 0))))

/-- srd reads an assigned system register as of its issue cycle, and swr writes a writable one at the end of its own (R88); of
these, the registers a task may not reach take a trap PRIVILEGE at the bundle instead, and an unassigned number, or a write of a
read-only register, is an ILLEGAL_OP (R67). That a task reads FCTL (0x403) without a trap is log entry 115. -/
def Claim.SystemRegisterMoves : Prop :=
  (∀ (s : State) (w : BitVec 1) (d : BitVec 6) (i : BitVec 12), sysReadable i.toNat = true →
    s.me.outrider = true ∨ i.toNat < 0x100 ∨ 0x200 ≤ i.toNat →
    exec (.sSrd w d i) s =
      .next (withResults s (resultsAt s .S 2 (targets .S w d) (wordVec (sysRead s s.cur.toNat s.pipe i.toNat))))) ∧
  (∀ (s : State) (i : BitVec 12) (a : BitVec 6), sysWritable i.toNat = true → s.me.outrider = true ∨ i.toNat = 0x302 →
    CanPop (isPop a) s →
    exec (.sSwr i a) s =
      .next (withResults (afterReads s (isPop a) (mailsOf a)) (resultsAt s .S 1 [.sys i.toNat] (wordVec (sVal s a 0))))) ∧
  (∀ (s : State) (w : BitVec 1) (d : BitVec 6) (i : BitVec 12), sysReadable i.toNat = true → s.me.outrider = false →
    0x100 ≤ i.toNat → i.toNat < 0x200 → exec (.sSrd w d i) s = .next (takeTrap s 0x03 0 0 s.bundleAt false false)) ∧
  (∀ (s : State) (i : BitVec 12) (a : BitVec 6), sysWritable i.toNat = true → s.me.outrider = false → i.toNat ≠ 0x302 →
    exec (.sSwr i a) s = .next (takeTrap s 0x03 0 0 s.bundleAt false false)) ∧
  (∀ (w : BitVec 1) (d : BitVec 6) (i : BitVec 12), sysReadable i.toNat = false → legality (.sSrd w d i) = .illegalOp) ∧
  (∀ (i : BitVec 12) (a : BitVec 6), sysWritable i.toNat = false → legality (.sSwr i a) = .illegalOp)

/-- The sums, products, addresses and logic of S (R56, R83, R85, R87). -/
def Obligations.ScalarArithmetic : Prop :=
  Claim.ScalarSums ∧ Claim.ScalarLogic

/-- The shifts, bit fields, typed group and counts of S (R82 to R84). -/
def Obligations.ScalarFieldsAndTypes : Prop :=
  Claim.ScalarShifts ∧ Claim.ScalarTyped ∧ Claim.ScalarCounts

/-- The compares and the system register moves of S (R67, R85, R88). -/
def Obligations.ScalarComparesAndMoves : Prop :=
  Claim.ScalarCompares ∧ Claim.SystemRegisterMoves

/-! ## The vector slots -/

/-- Integer arithmetic of VA and VB, element by element (R108, R109): types of class I. -/
def Obligations.VectorIntegers : Prop :=
  (∀ s : State, exec .vNop s = .next s) ∧
  ∀ t : BitVec 5, classI t.toNat = true →
    Elem2 (fun vs w d a b => .vAdd vs w d a b t) 2 (tyWidth t.toNat) (fun x y _ => x + y) ∧
    Elem2 (fun vs w d a b => .vSub vs w d a b t) 2 (tyWidth t.toNat) (fun x y _ => x + (2 ^ tyWidth t.toNat - y)) ∧
    Elem2 (fun vs w d a b => .vMul vs w d a b t) 4 (tyWidth t.toNat) (fun x y _ => x * y) ∧
    Elem2 (fun vs w d a b => .vMulh vs w d a b t) 4 (tyWidth t.toNat)
      (fun x y _ => intElem t (elemInt t x * elemInt t y / 2 ^ tyWidth t.toNat)) ∧
    Elem2 (fun vs w d a b => .vMin vs w d a b t) 2 (tyWidth t.toNat) (fun x y _ => if elemInt t x ≤ elemInt t y then x else y) ∧
    Elem2 (fun vs w d a b => .vMax vs w d a b t) 2 (tyWidth t.toNat) (fun x y _ => if elemInt t x ≤ elemInt t y then y else x) ∧
    Elem1 (fun vs w d a => .vAbs vs w d a t) 2 (tyWidth t.toNat) (fun x => intElem t (min |elemInt t x| (typedMax t))) ∧
    Elem1 (fun vs w d a => .vNeg vs w d a t) 2 (tyWidth t.toNat) (fun x => 2 ^ tyWidth t.toNat - x) ∧
    Elem2 (fun vs w d a b => .vAdds vs w d a b t) 2 (tyWidth t.toNat)
      (fun x y _ => intElem t (max (typedMin t) (min (typedMax t) (elemInt t x + elemInt t y)))) ∧
    Elem2 (fun vs w d a b => .vSubs vs w d a b t) 2 (tyWidth t.toNat)
      (fun x y _ => intElem t (max (typedMin t) (min (typedMax t) (elemInt t x - elemInt t y)))) ∧
    Elem2 (fun vs w d a b => .vAvg vs w d a b t) 2 (tyWidth t.toNat)
      (fun x y _ => intElem t ((elemInt t x + elemInt t y + 1) / 2)) ∧
    Elem2 (fun vs w d a b => .vMac vs w d a b t) 4 (tyWidth t.toNat) (fun x y o => o + x * y) ∧
    Elem2 (fun vs w d a b => .vClamp vs w d a b t) 2 (tyWidth t.toNat)
      (fun x y _ => if tySigned t.toNat
        then intElem t (max (-min |elemInt t y| (typedMax t)) (min (min |elemInt t y| (typedMax t)) (elemInt t x)))
        else min x y)

/-- Floating arithmetic of VA and VB (R37, R39, R41, R108, R109, R112, R123, R124): every sum and product is exact and rounds
once to the type. -/
def Obligations.VectorFloats : Prop :=
  ∀ t : BitVec 5, classF t.toNat = true →
    Elem2 (fun vs w d a b => .vAdd vs w d a b t) 4 (tyWidth t.toNat) (fun x y _ => fpElem t (fAdd (elemFp t x) (elemFp t y))) ∧
    Elem2 (fun vs w d a b => .vSub vs w d a b t) 4 (tyWidth t.toNat)
      (fun x y _ => fpElem t (fAdd (elemFp t x) (fNeg (elemFp t y)))) ∧
    Elem2 (fun vs w d a b => .vMul vs w d a b t) 4 (tyWidth t.toNat) (fun x y _ => fpElem t (fMul (elemFp t x) (elemFp t y))) ∧
    Elem2 (fun vs w d a b => .vFma vs w d a b t) 4 (tyWidth t.toNat)
      (fun x y o => fpElem t (fAdd (fMul (elemFp t x) (elemFp t y)) (elemFp t o))) ∧
    Elem2 (fun vs w d a b => .vFms vs w d a b t) 4 (tyWidth t.toNat)
      (fun x y o => fpElem t (fAdd (fMul (elemFp t x) (elemFp t y)) (fNeg (elemFp t o)))) ∧
    Elem2 (fun vs w d a b => .vFnma vs w d a b t) 4 (tyWidth t.toNat)
      (fun x y o => fpElem t (fAdd (elemFp t o) (fNeg (fMul (elemFp t x) (elemFp t y))))) ∧
    Elem2 (fun vs w d a b => .vMin vs w d a b t) 4 (tyWidth t.toNat) (fun x y _ => fpElem t (fMin (elemFp t x) (elemFp t y))) ∧
    Elem2 (fun vs w d a b => .vMax vs w d a b t) 4 (tyWidth t.toNat) (fun x y _ => fpElem t (fMax (elemFp t x) (elemFp t y))) ∧
    Elem1 (fun vs w d a => .vAbs vs w d a t) 4 (tyWidth t.toNat) (fun x => fpElem t (fAbs (elemFp t x))) ∧
    Elem1 (fun vs w d a => .vNeg vs w d a t) 4 (tyWidth t.toNat) (fun x => fpElem t (fNeg (elemFp t x))) ∧
    Elem2 (fun vs w d a b => .vClamp vs w d a b t) 4 (tyWidth t.toNat)
      (fun x y _ => fpElem t (clampElemF (elemFp t x) (elemFp t y))) ∧
    Elem1 (fun vs w d a => .vFcls vs w d a t) 2 (tyWidth t.toNat) (fun x => fclass (fmtOf t.toNat) x)

/-- The bitwise, shift and bit-field opcodes of VA and VB (R111); the sign of T has no effect in this group. -/
def Claim.VectorBits : Prop :=
  Elem2 .vAnd 2 64 (fun x y _ => x &&& y) ∧
  Elem2 .vOr 2 64 (fun x y _ => x ||| y) ∧
  Elem2 .vXor 2 64 (fun x y _ => x ^^^ y) ∧
  Elem2 .vAndn 2 64 (fun x y _ => x &&& (2 ^ 64 - 1 - y)) ∧
  Elem1 .vNot 2 64 (fun x => 2 ^ 64 - 1 - x) ∧
  (∀ (t : BitVec 3) (k : BitVec 6),
    Elem1 (fun vs w d a => .vShli vs w d t k a) 2 (tyWidth t.toNat) (fun x => x * 2 ^ k.toNat) ∧
    Elem1 (fun vs w d a => .vShri vs w d t k a) 2 (tyWidth t.toNat) (fun x => x / 2 ^ k.toNat) ∧
    Elem1 (fun vs w d a => .vSari vs w d t k a) 2 (tyWidth t.toNat)
      (fun x => (twos (tyWidth t.toNat) x / 2 ^ k.toNat % 2 ^ tyWidth t.toNat).toNat)) ∧
  ∀ t : BitVec 5, classI t.toNat = true →
    Elem2 (fun vs w d a b => .vShl vs w d a b t) 2 (tyWidth t.toNat) (fun x y _ => x * 2 ^ y) ∧
    Elem2 (fun vs w d a b => .vShr vs w d a b t) 2 (tyWidth t.toNat) (fun x y _ => x / 2 ^ y) ∧
    Elem2 (fun vs w d a b => .vSar vs w d a b t) 2 (tyWidth t.toNat)
      (fun x y _ => (twos (tyWidth t.toNat) x / 2 ^ y % 2 ^ tyWidth t.toNat).toNat) ∧
    Elem2 (fun vs w d a b => .vRotl vs w d a b t) 2 (tyWidth t.toNat)
      (fun x y _ => x * 2 ^ (y % tyWidth t.toNat) + x / 2 ^ (tyWidth t.toNat - y % tyWidth t.toNat)) ∧
    Elem2 (fun vs w d a b => .vFsh vs w d a b t) 2 (tyWidth t.toNat)
      (fun x y o => (x * 2 ^ tyWidth t.toNat + y) / 2 ^ (o % tyWidth t.toNat)) ∧
    (∀ sx, Lanes2 (fun vs w d a b => .vBfx vs w d a b sx t) 2 (tyWidth t.toNat) (fun _ _ _ x y _ i =>
      let p := (vecWord y).toNat % 64
      let m := min ((vecWord y).toNat / 256 % 64 + 1) (tyWidth t.toNat - p)
      let z := lane (tyWidth t.toNat) x i / 2 ^ p % 2 ^ m
      if tyWidth t.toNat ≤ p then 0
      else if sx = 1 then (twos m z % 2 ^ tyWidth t.toNat).toNat else z)) ∧
    Lanes2 (fun vs w d a b => .vBfi vs w d a b t) 2 (tyWidth t.toNat) (fun _ _ _ x y o i =>
      let p := (vecWord y).toNat % 64
      let m := min ((vecWord y).toNat / 256 % 64 + 1) (tyWidth t.toNat - p)
      let z := lane (tyWidth t.toNat) o i
      if tyWidth t.toNat ≤ p then z
      else z - z / 2 ^ p % 2 ^ m * 2 ^ p + lane (tyWidth t.toNat) x i % 2 ^ m * 2 ^ p) ∧
    Elem1 (fun vs w d a => .vPcnt vs w d a t) 2 (tyWidth t.toNat)
      (fun x => (List.range (tyWidth t.toNat)).countP (fun k => x.testBit k)) ∧
    Elem1 (fun vs w d a => .vClz vs w d a t) 2 (tyWidth t.toNat)
      (fun x => ((List.range (tyWidth t.toNat)).reverse.takeWhile (fun k => !x.testBit k)).length)

/-- The shuffles of VA and VB move whole elements (R118), `iota` counts up from its operand, `movi` fills (R112). -/
def Claim.VectorShuffles : Prop :=
  (∀ t : BitVec 5, classX t.toNat = true →
    Lanes2 (fun vs w d a b => .vBcast vs w d a b t) 3 (tyWidth t.toNat) (fun _ _ a x y _ _ =>
      if isBridge a then (vecWord x).toNat
      else lane (tyWidth t.toNat) x ((vecWord y).toNat % (2048 / tyWidth t.toNat))) ∧
    Lanes2 (fun vs w d a b => .vLane vs w d a b t) 3 (tyWidth t.toNat) (fun _ _ _ x y o i =>
      if i = (vecWord y).toNat % (2048 / tyWidth t.toNat) then x.toNat else lane (tyWidth t.toNat) o i) ∧
    Lanes2 (fun vs w d a b => .vPerm vs w d a b t) 3 (tyWidth t.toNat) (fun _ _ _ x y _ i =>
      lane (tyWidth t.toNat) x (lane (tyWidth t.toNat) y i % (2048 / tyWidth t.toNat))) ∧
    (∀ h : BitVec 1, Lanes2 (fun vs w d a b => .vZip vs w d a b h t) 3 (tyWidth t.toNat) (fun _ _ _ x y _ i =>
      lane (tyWidth t.toNat) (if i % 2 = 0 then x else y) (h.toNat * (1024 / tyWidth t.toNat) + i / 2))) ∧
    (∀ h : BitVec 1, Lanes2 (fun vs w d a b => .vUnzip vs w d a b h t) 3 (tyWidth t.toNat) (fun _ _ _ x y _ i =>
      if i < 1024 / tyWidth t.toNat then lane (tyWidth t.toNat) x (2 * i + h.toNat)
      else lane (tyWidth t.toNat) y (2 * (i - 1024 / tyWidth t.toNat) + h.toNat))) ∧
    Lanes2 (fun vs w d a b => .vLrot vs w d a b t) 3 (tyWidth t.toNat) (fun _ _ _ x y _ i =>
      lane (tyWidth t.toNat) x ((i + (vecWord y).toNat) % (2048 / tyWidth t.toNat))) ∧
    Lanes2 (fun vs w d a b => .vSlide vs w d a b 0 t) 3 (tyWidth t.toNat) (fun _ _ _ x y _ i =>
      if i = 0 then lane (tyWidth t.toNat) y (2048 / tyWidth t.toNat - 1) else lane (tyWidth t.toNat) x (i - 1)) ∧
    Lanes2 (fun vs w d a b => .vSlide vs w d a b 1 t) 3 (tyWidth t.toNat) (fun _ _ _ x y _ i =>
      if i = 2048 / tyWidth t.toNat - 1 then lane (tyWidth t.toNat) y 0 else lane (tyWidth t.toNat) x (i + 1)) ∧
    (∀ m : BitVec 4, Lanes1 (fun vs w d a => .vCmpr vs w d a m t) 3 (tyWidth t.toNat) (fun s vs x i =>
      match ((List.range (2048 / tyWidth t.toNat)).filter
          (fun j => (s.mask (vpos vs) m).getLsbD (j * (tyWidth t.toNat / 8))))[i]? with
      | some j => lane (tyWidth t.toNat) x j
      | none => 0)) ∧
    (∀ m : BitVec 4, Lanes1 (fun vs w d a => .vExpd vs w d a m t) 3 (tyWidth t.toNat) (fun s vs x i =>
      if (s.mask (vpos vs) m).getLsbD (i * (tyWidth t.toNat / 8)) then
        lane (tyWidth t.toNat) x ((List.range i).countP (fun j => (s.mask (vpos vs) m).getLsbD (j * (tyWidth t.toNat / 8))))
      else 0))) ∧
  (∀ (z : BitVec 2) (k : BitVec 8), Lanes1 (fun vs w d a => .vBcasti vs w d z k a) 3 (8 * 2 ^ z.toNat)
    (fun _ _ x _ => lane (8 * 2 ^ z.toNat) x k.toNat)) ∧
  (∀ t : BitVec 5, classI t.toNat = true →
    Lanes1 (fun vs w d a => .vIota vs w d a t) 2 (tyWidth t.toNat) (fun _ _ x i => (vecWord x).toNat + i)) ∧
  (∀ (s : State) (vs : VSlot) (w : BitVec 1) (d : BitVec 6) (m : BitVec 2) (v : BitVec 16), ∃ x : Vec,
    exec (.vMovi vs w d m v) s = .next (withResults s (resultsAt s (vpos vs) 2 (targets (vpos vs) w d) x)) ∧
    (m = 0 → ∀ i < 256, lane 8 x i = v.toNat % 256) ∧ (m = 1 → ∀ i < 128, lane 16 x i = v.toNat) ∧
    (m = 2 → ∀ i < 64, lane 32 x i = (v.toInt % 2 ^ 32).toNat) ∧ (m = 3 → ∀ i < 64, lane 32 x i = v.toNat * 2 ^ 16))

/-- Masks of VA and VB: compares write every element's outcome to all the bits of its bytes (R110), and the mask opcodes read
masks as their slot sees them (R113). -/
def Claim.VectorMasks : Prop :=
  (∀ (s : State) (vs : VSlot) (c : BitVec 2) (m : BitVec 4) (a b : BitVec 6) (h : BitVec 1) (t : BitVec 5),
    classI t.toNat = true ∨ classF t.toNat = true → CanPop (isPop a + isPop b) s → ∃ x : Mask,
      exec (.vCmp vs c m a b h t) s =
        .next (withResults (afterReads s (isPop a + isPop b) []) (resultsAt s (vpos vs) 2 [.mask m.toNat] (x.setWidth 2048))) ∧
      ∀ i < 2048 / tyWidth t.toNat, ∀ j < tyWidth t.toNat / 8, x.getLsbD (i * (tyWidth t.toNat / 8) + j) =
        condV (h.toNat * 4 + c.toNat) (elemVal (elemT t.toNat) (vElem s (vpos vs) (tyWidth t.toNat) a 0 i))
          (elemVal (elemT t.toNat) (vElem s (vpos vs) (tyWidth t.toNat) b (isPop a) i))) ∧
  (∀ (s : State) (vs : VSlot) (c : BitVec 2) (m : BitVec 4) (t : BitVec 3) (v : BitVec 9) (a : BitVec 6), CanPop (isPop a) s →
    ∃ x : Mask,
      exec (.vCmpi vs c m t v a) s =
        .next (withResults (afterReads s (isPop a) []) (resultsAt s (vpos vs) 2 [.mask m.toNat] (x.setWidth 2048))) ∧
      ∀ i < 2048 / tyWidth t.toNat, ∀ j < tyWidth t.toNat / 8, x.getLsbD (i * (tyWidth t.toNat / 8) + j) =
        condV c.toNat (fOfInt (elemInt (t.setWidth 5) (vElem s (vpos vs) (tyWidth t.toNat) a 0 i))) (fOfInt v.toInt)) ∧
  (∀ (s : State) (vs : VSlot) (d a b : BitVec 4),
    exec (.vMand vs d a b) s = .next (withResults s (resultsAt s (vpos vs) 2 [.mask d.toNat]
      ((s.mask (vpos vs) a &&& s.mask (vpos vs) b).setWidth 2048))) ∧
    exec (.vMor vs d a b) s = .next (withResults s (resultsAt s (vpos vs) 2 [.mask d.toNat]
      ((s.mask (vpos vs) a ||| s.mask (vpos vs) b).setWidth 2048))) ∧
    exec (.vMxor vs d a b) s = .next (withResults s (resultsAt s (vpos vs) 2 [.mask d.toNat]
      ((s.mask (vpos vs) a ^^^ s.mask (vpos vs) b).setWidth 2048))) ∧
    exec (.vMnot vs d a) s = .next (withResults s (resultsAt s (vpos vs) 2 [.mask d.toNat]
      ((~~~(s.mask (vpos vs) a)).setWidth 2048)))) ∧
  (∀ (s : State) (vs : VSlot) (w : BitVec 1) (d : BitVec 6) (m : BitVec 4) (t : BitVec 5),
    exec (.vMpop vs w d m t) s = .next (withResults s (resultsAt s (vpos vs) 3 (targets (vpos vs) w d)
      (BitVec.ofNat 2048 ((List.range (2048 / tyWidth t.toNat)).countP (fun i =>
        (s.mask (vpos vs) m).getLsbD (i * tyWidth t.toNat / 8)))))) ∧
    exec (.vMfirst vs w d m t) s = .next (withResults s (resultsAt s (vpos vs) 3 (targets (vpos vs) w d)
      (BitVec.ofNat 2048 (((List.range (2048 / tyWidth t.toNat)).find? (fun i =>
        (s.mask (vpos vs) m).getLsbD (i * tyWidth t.toNat / 8))).getD (2048 / tyWidth t.toNat)))))) ∧
  (∀ m : BitVec 4, Lanes2 (fun vs w d a b => .vSel vs w d a b m) 2 8 (fun s vs _ x y _ j =>
    if (s.mask (vpos vs) m).getLsbD j then lane 8 x j else lane 8 y j))

/-- Reductions write element 0 and zero every other one, over the fixed pairwise tree; `scan` writes the running results (R119). -/
def Claim.VectorReductions : Prop :=
  (∀ t : BitVec 5, classI t.toNat = true ∨ classF t.toNat = true →
    Lanes1 (fun vs w d a => .vRadd vs w d a t) 6 (tyWidth t.toNat) (fun _ _ x i =>
      if i = 0 then pairTree (addElem t) (2048 / tyWidth t.toNat) ((List.range (2048 / tyWidth t.toNat)).map (lane (tyWidth t.toNat) x)) else 0) ∧
    Lanes1 (fun vs w d a => .vRmax vs w d a t) 6 (tyWidth t.toNat) (fun _ _ x i =>
      if i = 0 then pairTree (maxElem t) (2048 / tyWidth t.toNat) ((List.range (2048 / tyWidth t.toNat)).map (lane (tyWidth t.toNat) x)) else 0) ∧
    Lanes1 (fun vs w d a => .vRmin vs w d a t) 6 (tyWidth t.toNat) (fun _ _ x i =>
      if i = 0 then pairTree (minElem t) (2048 / tyWidth t.toNat) ((List.range (2048 / tyWidth t.toNat)).map (lane (tyWidth t.toNat) x)) else 0) ∧
    (∀ ex : BitVec 1, ∃ f : Vec → Nat → Nat,
      Lanes1 (fun vs w d a => .vScan vs w d a ex t) 8 (tyWidth t.toNat) (fun _ _ x i => f x i) ∧
      ∀ x : Vec, f x 0 = (if ex = 1 then 0 else oneElem t (lane (tyWidth t.toNat) x 0)) ∧
        ∀ i < 2048 / tyWidth t.toNat - 1,
          f x (i + 1) = addElem t (f x i) (lane (tyWidth t.toNat) x (if ex = 1 then i else i + 1)))) ∧
  (∀ t : BitVec 5, classI t.toNat = true →
    Lanes1 (fun vs w d a => .vRbor vs w d a t) 6 (tyWidth t.toNat) (fun _ _ x i =>
      if i = 0 then pairTree (fun a b => a ||| b) (2048 / tyWidth t.toNat)
        ((List.range (2048 / tyWidth t.toNat)).map (lane (tyWidth t.toNat) x)) else 0))

/-- Conversions, block quantisation, packing and unpacking (R42, R44, R47, R48, R114 to R117). -/
def Claim.VectorConversions : Prop :=
  (∀ (r q : BitVec 1) (c t : BitVec 5),
    Lanes1 (fun vs w d a => .vCvt vs w d a r c q t) 4 (tyWidth t.toNat) (fun _ _ x i => converted c t (2 * r.toNat + q.toNat) false x i) ∧
    Lanes1 (fun vs w d a => .vCvtn vs w d a c q t) 4 (tyWidth t.toNat) (fun _ _ x i => converted c t 4 (q = 1) x i) ∧
    Lanes1 (fun vs w d a => .vCvtw vs w d a r c q t) 4 (tyWidth t.toNat) (fun _ _ x i => converted c t (2 * r.toNat + q.toNat) false x i) ∧
    Lanes1 (fun vs w d a => .vCvth vs w d a r c q t) 4 (tyWidth t.toNat) (fun _ _ x i => converted c t (2 * r.toNat + q.toNat) true x i) ∧
    Vec1 (fun vs w d a => .vQblk vs w d a r c q t) 6 (fun _ _ x => qblk c.toNat t.toNat (4 * r.toNat) (q = 1) x)) ∧
  (∀ t : BitVec 5, classI t.toNat = true →
    Vec2 (fun vs w d a b => .vPack vs w d a b t) 6 (fun _ _ _ x y _ =>
      BitVec.ofNat 2048 (packed 2048 ((vecWord y).toNat % 128)
        ((List.range (2048 / tyWidth t.toNat)).map (fun k => elemInt t (lane (tyWidth t.toNat) x k))))) ∧
    (∀ (s : State) (vs : VSlot) (d a b : BitVec 6), CanPop (isPop b) s →
      let y := (vecWord (vVal s (vpos vs) b 0)).toNat % 128
      let l := (List.range (2048 / tyWidth t.toNat)).map (fun k => elemInt t (lane (tyWidth t.toNat) (vget s.regs.vec.v a.toNat 0) k)) ++
        (List.range (2048 / tyWidth t.toNat)).map (fun k => elemInt t (lane (tyWidth t.toNat) (vget s.regs.vec.v (a.toNat + 1) 0) k))
      exec (.vPackw vs d a b t) s =
        .next (withResults (afterReads s (isPop b) [])
          (resultsAt s (vpos vs) 6 (targets (vpos vs) 0 d) (BitVec.ofNat 2048 (packed 4096 y l)) ++
           resultsAt s (vpos vs) 6 (targets (vpos vs) 0 (d + 1)) (BitVec.ofNat 2048 (packed 4096 y l / 2 ^ 2048))))) ∧
    Lanes2 (fun vs w d a b => .vXtr vs w d a b t) 6 (tyWidth t.toNat) (fun _ _ _ x y _ i =>
      unpacked 2048 t x.toNat ((vecWord y).toNat % 128) ((vecWord y).toNat / 256 % 4096 + i)) ∧
    (∀ (s : State) (vs : VSlot) (w : BitVec 1) (d a b : BitVec 6), CanPop (isPop b) s → ∃ v : Vec,
      exec (.vXtrw vs w d a b t) s =
        .next (withResults (afterReads s (isPop b) []) (resultsAt s (vpos vs) 6 (targets (vpos vs) w d) v)) ∧
      ∀ i < 2048 / tyWidth t.toNat, lane (tyWidth t.toNat) v i =
        unpacked 4096 t ((vget s.regs.vec.v a.toNat 0).toNat + (vget s.regs.vec.v (a.toNat + 1) 0).toNat * 2 ^ 2048)
          ((vecWord (vVal s (vpos vs) b 0)).toNat % 128) ((vecWord (vVal s (vpos vs) b 0)).toNat / 256 % 4096 + i)))

/-- Short dot products, table lookups and approximations (R120, R121, R122, R124). A lookup reads the table as of its issue; it takes
a fresh supply of free choices with it (log entry 6). -/
def Claim.VectorTables : Prop :=
  (∀ t : BitVec 5, (classI t.toNat = true ∧ tyWidth t.toNat ≤ 16) ∨ t = 9 ∨ t = 10 →
    ∀ (s : State) (vs : VSlot) (w : BitVec 1) (d a b : BitVec 6), CanPop (isPop a + isPop b) s → ∃ v : Vec,
      exec (.vDot vs w d a b t) s =
        .next (withResults (afterReads s (isPop a + isPop b) []) (resultsAt s (vpos vs) 4 (targets (vpos vs) w d) v)) ∧
      ∀ i < 64, lane 32 v i =
        dotLane t ((List.range (32 / tyWidth t.toNat)).map (fun k => vElem s (vpos vs) (tyWidth t.toNat) a 0 (32 / tyWidth t.toNat * i + k)))
          ((List.range (32 / tyWidth t.toNat)).map (fun k => vElem s (vpos vs) (tyWidth t.toNat) b (isPop a) (32 / tyWidth t.toNat * i + k)))
          (lane 32 (oldV s (vpos vs) w d) i)) ∧
  (∀ t : BitVec 5, classX t.toNat = true →
    ∀ (s : State) (vs : VSlot) (w : BitVec 1) (d a b : BitVec 6), CanPop (isPop a + isPop b) s → ∃ v : Vec,
      exec (.vLut vs w d a b t) s =
        .next (withResults (afterReads s (isPop a + isPop b) []) (resultsAt s (vpos vs) 6 (targets (vpos vs) w d) v)).refresh ∧
      ∀ i < 2048 / tyWidth t.toNat, lane (tyWidth t.toNat) v i =
        slotRead s (padAddrs s.cur.toNat ((vecWord (vVal s (vpos vs) b (isPop a))).toNat % 2 ^ 21 +
          lane (tyWidth t.toNat) (vVal s (vpos vs) a 0) i * (tyWidth t.toNat / 8)) (tyWidth t.toNat / 8))) ∧
  (∀ (s : State) (vs : VSlot) (w : BitVec 1) (d a b : BitVec 6) (t : BitVec 5), CanPop (isPop a + isPop b) s → ∃ v : Vec,
    exec (.vLuti vs w d a b t) s =
      .next (withResults (afterReads s (isPop a + isPop b) []) (resultsAt s (vpos vs) 8 (targets (vpos vs) w d) v)).refresh ∧
    ∀ i < 64, lane 32 v i =
      lutiElem (fun j => slotRead s (padAddrs s.cur.toNat ((vecWord (vVal s (vpos vs) b (isPop a))).toNat / 4 % 2 ^ 19 * 4 + 4 * j) 4))
        (max 2 ((vecWord (vVal s (vpos vs) b (isPop a))).toNat / 2 ^ 32 % 2 ^ 16)) (lane 32 (vVal s (vpos vs) a 0) i)) ∧
  (∀ t : BitVec 5, classF t.toNat = true →
    (∀ f : BitVec 1, Lanes1 (fun vs w d a => .vRcp vs w d a f t) (if f = 1 then 16 else 8) (tyWidth t.toNat)
      (fun _ _ x i => approxElem rcpV (f = 1) t.toNat (lane (tyWidth t.toNat) x i))) ∧
    (∀ f : BitVec 1, Lanes1 (fun vs w d a => .vRsq vs w d a f t) (if f = 1 then 16 else 8) (tyWidth t.toNat)
      (fun _ _ x i => approxElem rsqV (f = 1) t.toNat (lane (tyWidth t.toNat) x i))) ∧
    (∀ f : BitVec 1, Lanes1 (fun vs w d a => .vExp2 vs w d a f t) (if f = 1 then 16 else 8) (tyWidth t.toNat)
      (fun _ _ x i => approxElem exp2V (f = 1) t.toNat (lane (tyWidth t.toNat) x i))) ∧
    (∀ f : BitVec 1, Lanes1 (fun vs w d a => .vLog2 vs w d a f t) (if f = 1 then 16 else 8) (tyWidth t.toNat)
      (fun _ _ x i => approxElem log2V (f = 1) t.toNat (lane (tyWidth t.toNat) x i))) ∧
    (∀ f : BitVec 1, Lanes1 (fun vs w d a => .vSigm vs w d a f t) (if f = 1 then 16 else 8) (tyWidth t.toNat)
      (fun _ _ x i => approxElem sigmV (f = 1) t.toNat (lane (tyWidth t.toNat) x i))))

/-- The bitwise and mask instructions of VA and VB. -/
def Obligations.VectorBitsAndMasks : Prop :=
  Claim.VectorBits ∧ Claim.VectorMasks

/-- The shuffles and table lookups of VA and VB. -/
def Obligations.VectorLookups : Prop :=
  Claim.VectorShuffles ∧ Claim.VectorTables

/-- The reductions and conversions of VA and VB. -/
def Obligations.VectorReductionsAndConversions : Prop :=
  Claim.VectorReductions ∧ Claim.VectorConversions

/-! ## The C slot -/

/-- Transfers of control: what each condition reads, where a taken one goes, and that one not taken changes nothing (R90 to
R93). A bad indirect pointer traps BAD_TARGET. -/
def Claim.Transfers : Prop :=
  (∀ s : State, exec .cNop s = .next s) ∧
  (∀ (s : State) (m : BitVec 4) (p : BitVec 15) (l : BitVec 5),
    exec (.cBr m p l) s = .next (if (s.mask .C m).getLsbD 0 then entersAt s (landingPtr s p l) none else s) ∧
    exec (.cBrn m p l) s = .next (if (s.mask .C m).getLsbD 0 then s else entersAt s (landingPtr s p l) none) ∧
    ((∃ k < 256, (s.mask .C m).getLsbD k = true) → exec (.cBrany m p l) s = .next (entersAt s (landingPtr s p l) none)) ∧
    ((∀ k < 256, (s.mask .C m).getLsbD k = false) → exec (.cBrany m p l) s = .next s) ∧
    ((∀ k < 256, (s.mask .C m).getLsbD k = true) → exec (.cBrall m p l) s = .next (entersAt s (landingPtr s p l) none)) ∧
    ((∃ k < 256, (s.mask .C m).getLsbD k = false) → exec (.cBrall m p l) s = .next s)) ∧
  (∀ (s : State) (p : BitVec 15) (l : BitVec 5), exec (.cJmp p l) s = .next (entersAt s (landingPtr s p l) none)) ∧
  (∀ (s : State) (x : BitVec 5) (p : BitVec 15) (l : BitVec 5), exec (.cCall x p l) s =
    .next (entersAt s (landingPtr s p l) (some (BitVec.ofNat 64 (s.pipe.span.head * 4096 + x.toNat))))) ∧
  (∀ (s : State) (a : BitVec 6), (s.bridge a).toNat < 2 ^ 60 →
    exec (.cJmpi a) s = .next (entersAt s (s.bridge a) none) ∧ exec (.cRet a) s = .next (entersAt s (s.bridge a) none) ∧
    ∀ x : BitVec 5, exec (.cCalli x a) s =
      .next (entersAt s (s.bridge a) (some (BitVec.ofNat 64 (s.pipe.span.head * 4096 + x.toNat))))) ∧
  (∀ (s : State) (a : BitVec 6), 2 ^ 60 ≤ (s.bridge a).toNat →
    exec (.cJmpi a) s = .next (cTraps s 0x06 (s.bridge a)) ∧
    exec (.cRet a) s = .next (cTraps s 0x06 (s.bridge a)) ∧
    ∀ x : BitVec 5, exec (.cCalli x a) s = .next (cTraps s 0x06 (s.bridge a)))

/-- The loop instructions act by the pseudocode of R95. -/
def Claim.ModuloLoops : Prop :=
  (∀ (s : State) (l : BitVec 5), 1 < s.regs.loop.loopc.toNat → ∃ m : LoopState,
    exec (.cLoop l) s = .next (entersAt (withLoop s m) (BitVec.ofNat 64 (s.pipe.span.head * 4096 + l.toNat)) none) ∧
    Rotated true s.regs.loop m ∧ m.loopc.toNat = s.regs.loop.loopc.toNat - 1 ∧ m.loope = s.regs.loop.loope) ∧
  (∀ (s : State) (l : BitVec 5), s.regs.loop.loopc.toNat ≤ 1 → s.regs.loop.loope ≠ 0 → ∃ m : LoopState,
    exec (.cLoop l) s = .next (entersAt (withLoop s m) (BitVec.ofNat 64 (s.pipe.span.head * 4096 + l.toNat)) none) ∧
    Rotated false s.regs.loop m ∧ m.loopc = 0 ∧ m.loope.toNat = s.regs.loop.loope.toNat - 1) ∧
  (∀ (s : State) (l : BitVec 5), s.regs.loop.loopc.toNat ≤ 1 → s.regs.loop.loope = 0 →
    exec (.cLoop l) s = .next (withLoop s { s.regs.loop with loopc := 0, q := 0xFF })) ∧
  (∀ (s : State) (v : BitVec 1), ∃ m : LoopState,
    exec (.cRot v) s = .next (withLoop s m) ∧ Rotated (v = 1) s.regs.loop m ∧
    m.loopc = s.regs.loop.loopc ∧ m.loope = s.regs.loop.loope) ∧
  (∀ (s : State) (e : BitVec 3) (n : BitVec 16), exec (.cLoopi e n) s =
    .next (withLoop s { s.regs.loop with loopc := BitVec.ofNat 32 n.toNat, loope := e, q := if n.toNat = 0 then 0 else 1 })) ∧
  (∀ (s : State) (e : BitVec 3) (a : BitVec 6), exec (.cQset e a) s =
    .next (withLoop s (LoopState.mk (if (s.bridge a).toNat % 2 ^ 32 = 0 then 0 else 1) s.regs.loop.b
      (BitVec.ofNat 32 (s.bridge a).toNat) e s.regs.loop.loops))) ∧
  (∀ (s : State) (j : BitVec 3) (c : BitVec 12) (a : BitVec 6), exec (.cBset j c a) s =
    .next (withLoop s (LoopState.mk s.regs.loop.q (vset s.regs.loop.b j.toNat (s.bridge a)) s.regs.loop.loopc
      s.regs.loop.loope (if j = 0 then BitVec.ofInt 64 c.toInt else s.regs.loop.loops))))

/-- Banks, regions, gaps, the watchdog's kick and the clearing of tokens (R96, R97, R99, R102, R191, R390): what each changes,
and that no byte of memory and no other register of the core changes. -/
def Claim.ControlState : Prop :=
  (∀ (s : State) (k o : BitVec 2),
    (∀ f ∈ s.pipe.flight, ∀ r, f.tgt = .vreg r → r / 10 ≠ k.toNat) ∨ vget s.regs.vec.banks k.toNat .f = ownerOf o →
    Completes (.cLend k o) s (fun t => vget t.regs.vec.banks k.toNat .f = ownerOf o ∧
      t.regs = { s.regs with vec := { s.regs.vec with banks := t.regs.vec.banks } } ∧
      (∀ j < 4, j ≠ k.toNat → vget t.regs.vec.banks j .f = vget s.regs.vec.banks j .f) ∧
      ∀ a, Memory.get t.mem a = Memory.get s.mem a)) ∧
  (∀ (s : State) (k o : BitVec 2) (f : Flight) (r : Nat), f ∈ s.pipe.flight → f.tgt = .vreg r → r / 10 = k.toNat →
    vget s.regs.vec.banks k.toNat .f ≠ ownerOf o →
    exec (.cLend k o) s = .next (cTraps s 0x05 (BitVec.ofNat 64 k.toNat))) ∧
  (∀ (s : State) (i : BitVec 16), Completes (.cEnter i) s (fun t =>
    t.regs = { s.regs with region := if s.regs.region.ids.length < 16 then { s.regs.region with ids := i :: s.regs.region.ids }
      else { s.regs.region with ids := i :: s.regs.region.ids.take 15, isOver := true } } ∧
    ∀ a, Memory.get t.mem a = Memory.get s.mem a)) ∧
  (∀ (s : State) (i : BitVec 16), Completes (.cLeave i) s (fun t =>
    t.regs = { s.regs with region := match s.regs.region.ids with
      | [] => { s.regs.region with isUnder := true }
      | j :: l => { s.regs.region with ids := l, isMism := s.regs.region.isMism || decide (j ≠ i) } } ∧
    ∀ a, Memory.get t.mem a = Memory.get s.mem a)) ∧
  (∀ (s : State) (n : BitVec 6), Completes (.cGap n) s (fun t => t.pipe.gap = n.toNat ∧ t.pipe.bq = s.pipe.bq ∧
    t.pipe.wq = s.pipe.wq.map (fun e => { e with bn := if s.pipe.bn < e.bn then e.bn + n.toNat else e.bn }) ∧
    t.pipe.fq = s.pipe.fq.map (fun e => { e with bn := if s.pipe.bn < e.bn then e.bn + n.toNat else e.bn }) ∧
    t.pipe.s = s.pipe.s ∧ t.pipe.p = s.pipe.p ∧ t.pipe.flight = s.pipe.flight ∧ t.pipe.ldq = s.pipe.ldq ∧ t.regs.vec = s.regs.vec ∧
    t.regs.loop = s.regs.loop ∧ t.regs.tok = s.regs.tok ∧ ∀ a, Memory.get t.mem a = Memory.get s.mem a)) ∧
  (∀ s : State, exec .cKick s =
    .next (if s.regs.lim.kok then s.modRegs (fun r => { r with lim := { r.lim with wdcnt := 0 } }) else s)) ∧
  (∀ (s : State) (a : BitVec 6), Completes (.cTkclr a) s (fun t =>
    (∀ k < 64, vget t.regs.tok k Token.reset =
      if (s.bridge a).getLsbD k ∧ (tokenOf s k = .ready ∨ tokenOf s k = .failed)
      then { vget s.regs.tok k Token.reset with st := .held } else vget s.regs.tok k Token.reset) ∧
    t.regs = { s.regs with tok := t.regs.tok } ∧ ∀ b, Memory.get t.mem b = Memory.get s.mem b))

/-- Software traps are taken after their bundle, and name the next one; `c.brk` halts the core where the debug core has asked for
breaks (R101, R263, R384). -/
def Claim.SoftwareTraps : Prop :=
  (∀ (s : State) (c : BitVec 12), exec (.cTrap c) s =
    .next (takeTrap s 0x09 (BitVec.ofNat 64 c.toNat) 1 s.nextBundle false false)) ∧
  (∀ (s : State) (c : BitVec 12), (s.dbgOf (s.cur.toNat / 64)).brk = false → exec (.cBrk c) s =
    .next (takeTrap s 0x0A (BitVec.ofNat 64 c.toNat) 1 s.nextBundle false false)) ∧
  (∀ (s : State) (c : BitVec 12), (s.dbgOf (s.cur.toNat / 64)).brk = true →
    Completes (.cBrk c) s (fun t => t.me.halt = ⟨true, false⟩ ∧ t.regs = s.regs ∧ ∀ a, Memory.get t.mem a = Memory.get s.mem a))

/-- The outrider's own C instructions (R268, R269); in a task each traps PRIVILEGE (R102). A resume waits for the outrider's accesses,
then continues the task as TSTATUS says: a redirection discards the unissued bundles and enters TTARGET. -/
def Obligations.OutriderControl : Prop :=
  (∀ s : State, s.me.outrider = false →
    exec .cAck s = .next (cTraps s 0x03 0) ∧
    exec .cEscal s = .next (cTraps s 0x03 0) ∧
    exec .cResume s = .next (cTraps s 0x03 0)) ∧
  (∀ s : State, s.me.outrider = true → Completes .cAck s (fun t =>
    t.regs.trap.tstatus.getLsbD 1 = true ∧ t.regs = { s.regs with trap := { s.regs.trap with tstatus := t.regs.trap.tstatus } } ∧
    (∀ k < 7, k ≠ 1 → t.regs.trap.tstatus.getLsbD k = s.regs.trap.tstatus.getLsbD k) ∧
    ∀ a, Memory.get t.mem a = Memory.get s.mem a)) ∧
  (∀ s : State, s.me.outrider = true → Completes .cEscal s (fun t =>
    t.regs.out = .escal ∧ t.regs.task = s.regs.task ∧ t.regs.trap = s.regs.trap ∧
    (t.quad s.myQuad).trapRec = (s.quad s.myQuad).trapRec ++ [trapRecord s 1 0 0] ∧
    ∀ a, Memory.get t.mem a = Memory.get s.mem a)) ∧
  (∀ s : State, s.me.outrider = true → s.pipe.lq = [] → s.pipe.sq = [] → s.pipe.bn ≤ s.pipe.wn →
    (s.regs.trap.tstatus.getLsbD 3 = true → ∃ pg h, (redirLook s).1 = .ok pg h) →
    Completes .cResume s (fun t =>
      t.regs.out = .off ∧ t.regs.trap.tstatus = 0 ∧ t.regs.vec = s.regs.vec ∧ t.regs.task.s = s.regs.task.s ∧
      t.regs.task.p = s.regs.task.p ∧ t.regs.task.flight = s.regs.task.flight ∧
      (s.regs.trap.tstatus.getLsbD 3 = true →
        t.regs.task.target = some ⟨s.regs.trap.ttarget, false⟩ ∧ t.regs.task.refill = 3 ∧
        (s.regs.trap.behind = none → t.regs.task.bq = [])) ∧
      (s.regs.trap.tstatus.getLsbD 3 = false → s.regs.trap.tstatus.getLsbD 2 = false → s.regs.trap.parked = none →
        s.regs.trap.tcause ≠ 0x09 → s.regs.trap.tcause ≠ 0x0A → t.regs.task = s.regs.task ∧ t.regs.emul = s.regs.emul) ∧
      ∀ a, Memory.get t.mem a = Memory.get s.mem a)) ∧
  (∀ s : State, s.me.outrider = true → s.pipe.lq = [] → s.pipe.sq = [] → s.pipe.bn ≤ s.pipe.wn →
    s.regs.trap.tstatus.getLsbD 3 = true → 2 ^ 60 ≤ s.regs.trap.ttarget.toNat →
    exec .cResume s = .next (outriderFault s 0x06 s.regs.trap.ttarget)) ∧
  (∀ s : State, s.me.outrider = true → s.pipe.lq ≠ [] ∨ s.pipe.sq ≠ [] ∨ s.pipe.wn < s.pipe.bn →
    exec .cResume s = .next (holds s))

/-- Waits of C: each goes on once what it waits for is so, takes the trap of its rule where a token, a barrier or an arrival entry
is bad, and otherwise holds the fixed group with no other effect (R98, R192, R293, R348); what their limits do, LimitsTrap says. -/
def Claim.Waits : Prop :=
  (∀ (s : State) (m : BitVec 2) (l : BitVec 16), (vget s.me.mail m.toNat ⟨0, false⟩).full = true →
    exec (.cMwait m l) s = .next (waited s)) ∧
  (∀ (s : State) (m : BitVec 2) (l : BitVec 16), (vget s.me.mail m.toNat ⟨0, false⟩).full = false →
    exec (.cMwait m l) s = .next (holds s)) ∧
  (∀ (s : State) (l : BitVec 16) (a : BitVec 6), (∀ t < 64, (s.bridge a).getLsbD t = true → tokenOf s t = .ready) →
    exec (.cTkall l a) s = .next (waited s)) ∧
  (∀ (s : State) (l : BitVec 16) (a : BitVec 6), (∃ t < 64, (s.bridge a).getLsbD t = true ∧ tokenOf s t = .failed) →
    exec (.cTkall l a) s = .next (cTraps s 0x23 (tokensIn s (s.bridge a) (fun t => t = .failed)))) ∧
  (∀ (s : State) (l : BitVec 16) (a : BitVec 6), (∀ t < 64, (s.bridge a).getLsbD t = true → tokenOf s t ≠ .failed) →
    (∃ t < 64, (s.bridge a).getLsbD t = true ∧ tokenOf s t ≠ .ready) → exec (.cTkall l a) s = .next (holds s)) ∧
  (∀ (s : State) (l : BitVec 16) (k : BitVec 6), tokenOf s k.toNat = .ready → exec (.cTkwait l k) s = .next (waited s)) ∧
  (∀ (s : State) (l : BitVec 16) (k : BitVec 6), tokenOf s k.toNat = .failed →
    exec (.cTkwait l k) s = .next (cTraps s 0x23 (BitVec.ofNat 64 (2 ^ k.toNat)))) ∧
  (∀ (s : State) (l : BitVec 16) (k : BitVec 6), tokenOf s k.toNat ≠ .ready → tokenOf s k.toNat ≠ .failed →
    exec (.cTkwait l k) s = .next (holds s)) ∧
  (∀ (s : State) (l : BitVec 16) (j : BitVec 4), (vget s.regs.arr j.toNat ArrEntry.reset).armed = true →
    (vget s.regs.arr j.toNat ArrEntry.reset).refused = none → PhaseOver (vget s.regs.arr j.toNat ArrEntry.reset) →
    Completes (.cBwait l j) s (fun t => t.regs = { s.regs with hold := none } ∧ t.me.cache.acq = true ∧
      ∀ a, Memory.get t.mem a = Memory.get s.mem a)) ∧
  (∀ (s : State) (j : BitVec 4) (p : BitVec 15) (x : BitVec 5), (vget s.regs.arr j.toNat ArrEntry.reset).armed = true →
    (vget s.regs.arr j.toNat ArrEntry.reset).refused = none → PhaseOver (vget s.regs.arr j.toNat ArrEntry.reset) →
    exec (.cBtest j p x) s = .next (entersAt (acquired s) (landingPtr s p x) none)) ∧
  (∀ (s : State) (l : BitVec 16) (j : BitVec 4) (p : BitVec 15) (x : BitVec 5),
    let e := vget s.regs.arr j.toNat ArrEntry.reset
    (e.armed = true → e.refused = none → ¬PhaseOver e → exec (.cBtest j p x) s = .next s) ∧
    (e.armed = true → e.refused = none → ¬PhaseOver e → e.fail = none → exec (.cBwait l j) s = .next (holds s)) ∧
    (∀ r, e.armed = true → e.refused = none → ¬PhaseOver e → e.fail = some r →
      exec (.cBwait l j) s = .next (cTraps s 0x29 (BitVec.ofNat 64 (e.name + 2 ^ 20 * r)))) ∧
    (∀ r, e.armed = true → e.refused = some r →
      exec (.cBwait l j) s = .next (cTraps s 0x29 (BitVec.ofNat 64 (e.name + 2 ^ 20 * r))) ∧
      exec (.cBtest j p x) s = .next (cTraps s 0x29 (BitVec.ofNat 64 (e.name + 2 ^ 20 * r)))) ∧
    (e.armed = false →
      exec (.cBwait l j) s = .next (cTraps s 0x29 (BitVec.ofNat 64 (e.name + 2 ^ 20 * 7))) ∧
      exec (.cBtest j p x) s = .next (cTraps s 0x29 (BitVec.ofNat 64 (e.name + 2 ^ 20 * 7))))) ∧
  (∀ (s : State) (a : BitVec 6), (∀ x ∈ s.regs.task.sq, some (true, x.id) = s.regs.trap.parked) → s.regs.outr.sq = [] →
    Completes (.cIfence a) s (fun t =>
      (∀ i, i ∈ t.me.cache.icache ↔ i ∈ s.me.cache.icache ∧ a ≠ 56 ∧ i.vline / 32 ≠ (s.bridge a).toNat / 4096 % 2 ^ 48) ∧
      (∀ l, l ∈ t.me.cache.ctlb ↔ l ∈ s.me.cache.ctlb ∧ a ≠ 56 ∧
        ¬(l.vpn ≤ (s.bridge a).toNat / 4096 % 2 ^ 48 ∧ (s.bridge a).toNat / 4096 % 2 ^ 48 < l.vpn + 2 ^ l.size)) ∧
      t.regs = s.regs ∧ ∀ b, Memory.get t.mem b = Memory.get s.mem b)) ∧
  (∀ (s : State) (a : BitVec 6), (∃ x ∈ s.regs.task.sq, some (true, x.id) ≠ s.regs.trap.parked) ∨ s.regs.outr.sq ≠ [] →
    exec (.cIfence a) s = .next (holds s))

/-- The end of a task: under a lease it traps LEASE_HELD; else later bundles are discarded and the core works through its waits, with
no window left mapped and dirty and unfailed: its dirty bytes are queued for writing back (R100, R256, R341). -/
def Claim.TaskEnds : Prop :=
  (∀ s : State, s.me.fold.lease = .granted ∨ s.me.fold.lease = .held →
    exec .cEnd s = .next (cTraps s 0x0B 0) ∧ exec .cGleave s = .next (cTraps s 0x0B 0)) ∧
  (∀ s : State, s.me.fold.lease = .none ∨ s.me.fold.lease = .waiting →
    Completes .cEnd s (fun t => t.regs.run = .ending false ∧ EndsAfter s t) ∧
    Completes .cGleave s (fun t => t.regs.run = .ending true ∧ EndsAfter s t))

/-- The transfers of control and the loop instructions of C (R90 to R95). -/
def Obligations.TransfersAndLoops : Prop :=
  Claim.Transfers ∧ Claim.ModuloLoops

/-- The state instructions and the software traps of C (R96 to R102, R191, R384). -/
def Obligations.ControlStateAndTraps : Prop :=
  Claim.ControlState ∧ Claim.SoftwareTraps

/-- The waits of C and the end of a task (R98, R100, R192, R293, R341, R348). -/
def Obligations.WaitsAndEnds : Prop :=
  Claim.Waits ∧ Claim.TaskEnds

/-! ## Scratchpad accesses: L, K and W -/

/-- Loads of the scratchpad and of the accumulators read in their issue cycle and deliver, in the order and at the latency the
spec gives, exactly the bytes at their address (R129 to R134, R160). -/
def Claim.ScratchpadLoads : Prop :=
  (∀ s : State, exec .lNop s = .next s) ∧
  (∀ (s : State) (a b : BitVec 6) (t : BitVec 5), HasRoom s → t.toNat ≤ 12 →
    (s.bridge a + s.bridge b).toNat % (tyWidth t.toNat / 8) = 0 →
    LoadsPad (.lLd a b t) s 6 (tyWidth t.toNat / 8) (MayRead s) (padAt s (s.bridge a + s.bridge b))
      (fun x v => v = wordVec (typedOut t x)) ∧
    LoadsPad (.lLdsc a b t) s 6 (tyWidth t.toNat / 8) (MayRead s) (padAt s (s.bridge a + s.bridge b))
      (fun x v => ∀ i < 2048 / tyWidth t.toNat, lane (tyWidth t.toNat) v i = x)) ∧
  (∀ (s : State) (a b : BitVec 6), HasRoom s → (s.bridge a + s.bridge b).toNat % 8 = 0 →
    LoadsPad (.lLdx a b) s 6 256 (MayRead s) (padAt s (s.bridge a + s.bridge b)) (fun x v => v.toNat = x) ∧
    LoadsPad (.lLdacc a b) s 6 256 (MayReadAcc s) (accAt s (s.bridge a + s.bridge b)) (fun x v => v.toNat = x) ∧
    (s.me.fold.lease = .held → s.me.fold.wide = true →
      LoadsPad (.lLdaccw a b) s 6 256 (MayReadAcc s) (accWideAt s (s.bridge a + s.bridge b)) (fun x v => v.toNat = x))) ∧
  (∀ (s : State) (a b : BitVec 6) (t : BitVec 5), HasRoom s → t.toNat ≤ 12 →
    (∀ i < 2048 / tyWidth t.toNat, (strideEa (s.bridge a) (s.bridge b) i).toNat % (tyWidth t.toNat / 8) = 0) →
    ∃ k v, exec (.lLdst a b t) s = .next (withFresh (reserves s 8 v) k) ∧
      ∀ i < 2048 / tyWidth t.toNat,
        ReadsAt (MayRead s) (padAt s (strideEa (s.bridge a) (s.bridge b) i)) (tyWidth t.toNat / 8) (lane (tyWidth t.toNat) v i)) ∧
  (∀ (s : State) (a b : BitVec 6), HasRoom s → (s.bridge a + s.bridge b).toNat % 8 = 0 →
    ∃ k v, exec (.lLdz a b) s = .next (withFresh (landsAt (reserves s 6 v) (nowOf s) s.pipe.bn
        (bytesAt (padAt s (s.bridge a + s.bridge b)) 256 0)) k) ∧
      ReadsAt (MayRead s) (padAt s (s.bridge a + s.bridge b)) 256 v.toNat) ∧
  (∀ (s : State) (m : BitVec 4) (a b : BitVec 6), (s.bridge a + s.bridge b).toNat % 8 = 0 →
    ∃ k v, exec (.lLdm m a b) s = .next (withFresh (withResults s (resultsAt s .L 6 [.mask m.toNat] v)) k) ∧
      ReadsAt (MayRead s) (padAt s (s.bridge a + s.bridge b)) 32 v.toNat) ∧
  (∀ (s : State) (j : BitVec 3) (p : BitVec 1) (o : BitVec 11) (x : BitVec 6), HasRoom s → Issues s →
    s.regs.loop.q.getLsbD j.toNat = true →
    ((baseEa s j p o x 256).toNat % 8 = 0 → ∃ k v,
      exec (.lLdi j p o x) s = .next (stepsBase (withFresh (reserves s 6 v) k) j p o 256) ∧
      ReadsAt (MayRead s) (padAt s (baseEa s j p o x 256)) 256 v.toNat) ∧
    ((baseEa s j p o x 8).toNat % 8 = 0 → ∃ k v,
      exec (.lLdb j p o x) s = .next (stepsBase (withFresh (reserves s 6 (natVec v)) k) j p o 8) ∧
      ReadsAt (MayRead s) (padAt s (baseEa s j p o x 8)) 8 v)) ∧
  (∀ (s : State) (j : BitVec 3) (p : BitVec 1) (o : BitVec 11) (x : BitVec 6), HasRoom s →
    s.regs.loop.q.getLsbD j.toNat = false →
    exec (.lLdi j p o x) s = .next (reserves s 6 0) ∧ exec (.lLdb j p o x) s = .next (reserves s 6 0))

/-- Where a scratchpad or accumulator load traps: with no entry to reserve, LDQ_OVERFLOW; off its alignment, MISALIGNED; `ldaccw`
without a wide lease held, NOT_WIDE (R131, R133, R160). -/
def Claim.ScratchpadLoadTraps : Prop :=
  (∀ (s : State) (a b : BitVec 6) (t : BitVec 5), ¬HasRoom s → ∀ i ∈
    [Instr.lLd a b t, .lLdsc a b t, .lLdst a b t, .lLdx a b, .lLdz a b, .lLdacc a b, .lLdaccw a b],
    exec i s = .next (slotTraps s 0x0F 0 .L)) ∧
  (∀ (s : State) (m : BitVec 4) (a b : BitVec 6), ¬HasRoom s → exec (.lLdw m a b) s = .next (slotTraps s 0x0F 0 .L)) ∧
  (∀ (s : State) (j : BitVec 3) (p : BitVec 1) (o : BitVec 11) (x : BitVec 6), ¬HasRoom s →
    s.me.outrider = false ∨ s.regs.loop.q.getLsbD j.toNat = false →
    exec (.lLdi j p o x) s = .next (slotTraps s 0x0F 0 .L) ∧ exec (.lLdb j p o x) s = .next (slotTraps s 0x0F 0 .L)) ∧
  (∀ (s : State) (j : BitVec 3) (p : BitVec 1) (o : BitVec 11) (x : BitVec 6), HasRoom s → s.me.outrider = false →
    s.regs.loop.q.getLsbD j.toNat = true →
    ((baseEa s j p o x 256).toNat % 8 ≠ 0 → exec (.lLdi j p o x) s = .next (slotTraps s 0x15 (baseEa s j p o x 256) .L)) ∧
    ((baseEa s j p o x 8).toNat % 8 ≠ 0 → exec (.lLdb j p o x) s = .next (slotTraps s 0x15 (baseEa s j p o x 8) .L))) ∧
  (∀ (s : State) (a b : BitVec 6), HasRoom s → (s.bridge a + s.bridge b).toNat % 8 ≠ 0 → ∀ i ∈
    [Instr.lLdx a b, .lLdz a b, .lLdacc a b], exec i s = .next (slotTraps s 0x15 (s.bridge a + s.bridge b) .L)) ∧
  (∀ (s : State) (m : BitVec 4) (a b : BitVec 6), (s.bridge a + s.bridge b).toNat % 8 ≠ 0 →
    exec (.lLdm m a b) s = .next (slotTraps s 0x15 (s.bridge a + s.bridge b) .L)) ∧
  (∀ (s : State) (a b : BitVec 6) (t : BitVec 5), HasRoom s → t.toNat ≤ 12 →
    ((s.bridge a + s.bridge b).toNat % (tyWidth t.toNat / 8) ≠ 0 →
      exec (.lLd a b t) s = .next (slotTraps s 0x15 (s.bridge a + s.bridge b) .L) ∧
      exec (.lLdsc a b t) s = .next (slotTraps s 0x15 (s.bridge a + s.bridge b) .L)) ∧
    ((∃ i < 2048 / tyWidth t.toNat, (strideEa (s.bridge a) (s.bridge b) i).toNat % (tyWidth t.toNat / 8) ≠ 0) →
      exec (.lLdst a b t) s = .next (slotTraps s 0x15 (s.bridge a) .L))) ∧
  (∀ (s : State) (a b : BitVec 6), HasRoom s → s.me.fold.lease ≠ .held ∨ s.me.fold.wide = false →
    exec (.lLdaccw a b) s = .next (slotTraps s 0x18 0 .L)) ∧
  (∀ (s : State) (a b : BitVec 6), HasRoom s → s.me.fold.lease = .held → s.me.fold.wide = true →
    (s.bridge a + s.bridge b).toNat % 8 ≠ 0 → exec (.lLdaccw a b) s = .next (slotTraps s 0x15 (s.bridge a + s.bridge b) .L))

/-- The scale registers: each K form writes what R152 gives, at its latency, and a store of one lands at the end of its cycle
(R152 to R154). -/
def Claim.ScaleRegisters : Prop :=
  (∀ s : State, exec .kNop s = .next s) ∧
  (∀ (s : State) (k : BitVec 3) (a b : BitVec 6), (s.bridge a + s.bridge b).toNat % 8 = 0 →
    (∃ f v, exec (.kLd k a b) s = .next (withFresh (withResults s (resultsAt s .K 5 [.scale k.toNat 0 2048] v)) f) ∧
      ReadsAt (MayRead s) (padAt s (s.bridge a + s.bridge b)) 256 v.toNat) ∧
    (∀ h : BitVec 1, ∃ f v,
      exec (.kLdh k a b h) s = .next (withFresh (withResults s (resultsAt s .K 5 [.scale k.toNat (1024 * h.toNat) 1024] v)) f) ∧
      ReadsAt (MayRead s) (padAt s (s.bridge a + s.bridge b)) 128 v.toNat) ∧
    exec (.kSt k a b) s = .next (landsAt s (nowOf s) s.pipe.bn
      (bytesAt (padAt s (s.bridge a + s.bridge b)) 256 (vget s.regs.scale k.toNat 0).toNat))) ∧
  (∀ (s : State) (k : BitVec 3) (a b : BitVec 6), (s.bridge a + s.bridge b).toNat % 8 ≠ 0 →
    exec (.kLd k a b) s = .next (slotTraps s 0x15 (s.bridge a + s.bridge b) .K) ∧
    (∀ h : BitVec 1, exec (.kLdh k a b h) s = .next (slotTraps s 0x15 (s.bridge a + s.bridge b) .K)) ∧
    exec (.kSt k a b) s = .next (slotTraps s 0x15 (s.bridge a + s.bridge b) .K)) ∧
  (∀ (s : State) (j k : BitVec 3) (p : BitVec 1) (o : BitVec 11) (x : BitVec 6), Issues s →
    s.regs.loop.q.getLsbD j.toNat = true → (baseEa s j p o x 256).toNat % 8 = 0 → ∃ f v,
      exec (.kLdi j k p o x) s =
        .next (stepsBase (withFresh (withResults s (resultsAt s .K 5 [.scale k.toNat 0 2048] v)) f) j p o 256) ∧
      ReadsAt (MayRead s) (padAt s (baseEa s j p o x 256)) 256 v.toNat) ∧
  (∀ (s : State) (j k : BitVec 3) (p : BitVec 1) (o : BitVec 11) (x : BitVec 6), s.me.outrider = false →
    s.regs.loop.q.getLsbD j.toNat = true → (baseEa s j p o x 256).toNat % 8 ≠ 0 →
    exec (.kLdi j k p o x) s = .next (slotTraps s 0x15 (baseEa s j p o x 256) .K)) ∧
  (∀ (s : State) (j k : BitVec 3) (p : BitVec 1) (o : BitVec 11) (x : BitVec 6),
    s.regs.loop.q.getLsbD j.toNat = false → exec (.kLdi j k p o x) s = .next s) ∧
  (∀ (s : State) (k : BitVec 3) (a b : BitVec 6) (t : BitVec 5), t.toNat ∈ [25, 26, 27] → ∃ f v,
    exec (.kLdmx k a b t) s = .next (withFresh (withResults s (resultsAt s .K 5 [.scale k.toNat 0 2048] v)) f) ∧
    ∀ i < 64, ∃ x : Byte, MayRead s (padAt s (s.bridge a + s.bridge b) i) x ∧ lane 32 v i = mxScale x.toNat t) ∧
  (∀ (s : State) (k : BitVec 3) (a b : BitVec 6), exec (.kSet k a b) s =
    .next (withResults s (resultsAt s .K 2 [.scale k.toNat (32 * ((s.bridge b).toNat % 64)) 32] (wordVec (s.bridge a))))) ∧
  (∀ (s : State) (c k : BitVec 3), exec (.kMov c k) s =
    .next (withResults s (resultsAt s .K 2 [.scale k.toNat 0 2048] (vget s.regs.scale c.toNat 0)))) ∧
  (∀ (s : State) (k : BitVec 3) (b : BitVec 6), ∃ v,
    exec (.kRot k b) s = .next (withResults s (resultsAt s .K 2 [.scale k.toNat 0 2048] v)) ∧
    ∀ i < 64, lane 32 v i = lane 32 (vget s.regs.scale k.toNat 0) ((i + (s.bridge b).toNat) % 64)) ∧
  (∀ (s : State) (k : BitVec 3), ∃ v,
    exec (.kClr k) s = .next (withResults s (resultsAt s .K 2 [.scale k.toNat 0 2048] v)) ∧ ∀ i < 64, lane 32 v i = 0x01000000)

/-- The scratchpad and accumulator stores of W: with its head entry e, each writes the bytes of its data at its address at the
end of the next cycle, or traps off its alignment with its data in TDBUF (R135, R136, R160, R266). -/
def Obligations.ScratchpadStores : Prop :=
  (∀ s : State, exec .wNop s = .next (wIssued s)) ∧
  (∀ (s : State) (e : WEntry) (r : List WEntry) (d a b : BitVec 6) (t : BitVec 5), s.pipe.wq = e :: r → t.toNat ≤ 12 →
    (wAddr e).toNat % (tyWidth t.toNat / 8) = 0 →
    exec (.wSt d a b t) s = .next (wStores s e (padAt s (wAddr e)) (tyWidth t.toNat / 8) e.d.toNat)) ∧
  (∀ (s : State) (e : WEntry) (r : List WEntry) (d a b : BitVec 6), s.pipe.wq = e :: r → (wAddr e).toNat % 8 = 0 →
    exec (.wStx d a b) s = .next (wStores s e (padAt s (wAddr e)) 256 e.d.toNat) ∧
    exec (.wStacc d a b 0) s = .next (wStores s e (accAt s (wAddr e)) 256 e.d.toNat) ∧
    (s.me.fold.lease = .held → s.me.fold.wide = true →
      exec (.wStacc d a b 1) s = .next (wStores s e (accWideAt s (wAddr e)) 256 e.d.toNat)) ∧
    (∀ t : BitVec 5, t.toNat ≤ 12 → ∃ x : Vec, exec (.wStsc d a b t) s = .next (wStores s e (padAt s (wAddr e)) 256 x.toNat) ∧
      ∀ i < 2048 / tyWidth t.toNat, lane (tyWidth t.toNat) x i = lane (tyWidth t.toNat) e.d 0) ∧
    (∀ m : BitVec 4, exec (.wStm m a b) s = .next (wStores s e (padAt s (wAddr e)) 32 e.mask.toNat))) ∧
  (∀ (s : State) (e : WEntry) (r : List WEntry) (j : BitVec 3) (p : BitVec 1) (o : BitVec 11) (d : BitVec 6),
    s.pipe.wq = e :: r →
    (e.q = false → exec (.wSti j p o d) s = .next (wIssued s)) ∧
    (e.q = true → (eaBase e.base 0 p o 256).toNat % 8 = 0 →
      exec (.wSti j p o d) s = .next (wStores s e (padAt s (eaBase e.base 0 p o 256)) 256 e.d.toNat)) ∧
    (e.q = true → (eaBase e.base 0 p o 256).toNat % 8 ≠ 0 →
      exec (.wSti j p o d) s = .next (wTraps s e 0x15 (eaBase e.base 0 p o 256)))) ∧
  (∀ (s : State) (e : WEntry) (r : List WEntry) (d a b : BitVec 6) (t : BitVec 5), s.pipe.wq = e :: r → t.toNat ≤ 12 →
    (∀ i < 2048 / tyWidth t.toNat, (strideEa (vecWord e.a) (vecWord e.b) i).toNat % (tyWidth t.toNat / 8) = 0) →
    ∃ l : List (Nat × Byte), exec (.wStst d a b t) s = .next (landsAt (wIssued s) (nowOf s + 1) e.bn l) ∧
      l = ((List.range (2048 / tyWidth t.toNat)).map (fun i =>
        bytesAt (padAt s (strideEa (vecWord e.a) (vecWord e.b) i)) (tyWidth t.toNat / 8) (lane (tyWidth t.toNat) e.d i))).flatten) ∧
  (∀ (s : State) (e : WEntry) (r : List WEntry) (d a b : BitVec 6), s.pipe.wq = e :: r → (wAddr e).toNat % 8 ≠ 0 →
    exec (.wStx d a b) s = .next (wTraps s e 0x15 (wAddr e)) ∧
    exec (.wStacc d a b 0) s = .next (wTraps s e 0x15 (wAddr e)) ∧
    (∀ t : BitVec 5, exec (.wStsc d a b t) s = .next (wTraps s e 0x15 (wAddr e))) ∧
    (∀ m : BitVec 4, exec (.wStm m a b) s = .next (wTraps s e 0x15 (wAddr e)))) ∧
  (∀ (s : State) (e : WEntry) (r : List WEntry) (d a b : BitVec 6) (t : BitVec 5), s.pipe.wq = e :: r → t.toNat ≤ 12 →
    (wAddr e).toNat % (tyWidth t.toNat / 8) ≠ 0 → exec (.wSt d a b t) s = .next (wTraps s e 0x15 (wAddr e))) ∧
  (∀ (s : State) (e : WEntry) (r : List WEntry) (d a b : BitVec 6) (t : BitVec 5), s.pipe.wq = e :: r → t.toNat ≤ 12 →
    (∃ i < 2048 / tyWidth t.toNat, (strideEa (vecWord e.a) (vecWord e.b) i).toNat % (tyWidth t.toNat / 8) ≠ 0) →
    exec (.wStst d a b t) s = .next (wTraps s e 0x15 (vecWord e.a))) ∧
  (∀ (s : State) (e : WEntry) (r : List WEntry) (d a b : BitVec 6), s.pipe.wq = e :: r → s.me.fold.lease = .held →
    s.me.fold.wide = true → (wAddr e).toNat % 8 ≠ 0 → exec (.wStacc d a b 1) s = .next (wTraps s e 0x15 (wAddr e))) ∧
  (∀ (s : State) (e : WEntry) (r : List WEntry) (d a b : BitVec 6), s.pipe.wq = e :: r →
    s.me.fold.lease ≠ .held ∨ s.me.fold.wide = false → exec (.wStacc d a b 1) s = .next (wTraps s e 0x18 0))

/-- The scratchpad loads of L and the scale registers of K, and where they trap (R12, R128 to R133, R151 to R154, R264). -/
def Obligations.ScratchpadReads : Prop :=
  Claim.ScratchpadLoads ∧ Claim.ScratchpadLoadTraps ∧ Claim.ScaleRegisters

/-- The window opcodes: a good descriptor maps its window six counts later, a bad one traps WIN_BAD; an advance moves the ring on;
`wres` gives the slots that are not resident; `ldw` delivers zeros for bytes not present and says which; `stw` marks its bytes
dirty; `flushw` queues the dirty bytes (R149, R252 to R256). Model's choices: an advance of an unmapped window does nothing (log
entry 119), which forms meet WIN_FAULT at a failed slot (log entry 89), and the offsets of `wres` do not wrap (log entry 147). -/
def Obligations.Windows : Prop :=
  (∀ (s : State) (a b : BitVec 6) (n : BitVec 3), (s.bridge a + s.bridge b).toNat % 8 = 0 →
    ((∀ d, ReadsAt (MayRead s) (padAt s (s.bridge a + s.bridge b)) 32 d → GoodDescriptor s n.toNat d) →
      ∃ k d, ReadsAt (MayRead s) (padAt s (s.bridge a + s.bridge b)) 32 d ∧
        exec (.lWmap a b n) s = .next (withFresh (withResults s (resultsAt s .L 6 [.win n.toNat s.pipe.bn s.bundleAt] (natVec d))) k)) ∧
    ((∀ d, ReadsAt (MayRead s) (padAt s (s.bridge a + s.bridge b)) 32 d → ¬GoodDescriptor s n.toNat d) →
      exec (.lWmap a b n) s = .next (slotTraps s 0x19 (s.bridge a + s.bridge b) .L))) ∧
  (∀ (s : State) (a : BitVec 6) (n : BitVec 3),
    ((s.bridge a).toNat < 4096 ∨ (s.win n.toNat).mapped = false → exec (.lWadv a n) s = .next s) ∧
    (4096 ≤ (s.bridge a).toNat → (s.win n.toNat).mapped = true →
      NoneFailed s n.toNat (leaving s n.toNat ((s.bridge a).toNat / 4096)) →
      Completes (.lWadv a n) s (fun t =>
        (t.win n.toNat).adv = (s.win n.toNat).adv + (s.bridge a).toNat / 4096 ∧
        (t.win n.toNat).org = (s.win n.toNat).org ∧ (t.win n.toNat).ng = (s.win n.toNat).ng ∧
        (∀ m < 8, m ≠ n.toNat → t.win m = s.win m) ∧ ∀ x, Memory.get t.mem x = Memory.get s.mem x)) ∧
    (∀ pre j post, 4096 ≤ (s.bridge a).toNat → (s.win n.toNat).mapped = true →
      leaving s n.toNat ((s.bridge a).toNat / 4096) = pre ++ j :: post → NoneFailed s n.toNat pre →
      ((s.win n.toNat).slot j).1 = .failed →
      exec (.lWadv a n) s = .next (slotTraps s 0x1B (BitVec.ofNat 64 ((s.win n.toNat).slotVa j)) .L))) ∧
  (∀ (s : State) (m : BitVec 4) (a : BitVec 6) (n : BitVec 3), NoneFailed s n.toNat (List.range (s.win n.toNat).ng) →
    ∃ v, exec (.lWres m a n) s = .next (withResults s (resultsAt s .L 6 [.mask m.toNat] v)) ∧ v.toNat < 2 ^ 256 ∧
      ∀ k < 256, v.getLsbD k = true ↔
        (((s.bridge a).toNat + 4096 * k) / 4096 < (s.win n.toNat).ng ∧
          ((s.win n.toNat).slot (((s.bridge a).toNat + 4096 * k) / 4096)).1 ≠ .resident)) ∧
  (∀ (s : State) (m : BitVec 4) (a : BitVec 6) (n : BitVec 3) (k : Nat), k < 256 →
    (∀ i < k, ((s.win n.toNat).slot (((s.bridge a).toNat + 4096 * i) / 4096)).1 ≠ .failed) →
    ((s.bridge a).toNat + 4096 * k) / 4096 < (s.win n.toNat).ng →
    ((s.win n.toNat).slot (((s.bridge a).toNat + 4096 * k) / 4096)).1 = .failed →
    exec (.lWres m a n) s =
      .next (slotTraps s 0x1B (BitVec.ofNat 64 ((s.win n.toNat).slotVa (((s.bridge a).toNat + 4096 * k) / 4096))) .L)) ∧
  (∀ (s : State) (m : BitVec 4) (a b : BitVec 6) (va : Word), HasRoom s → (s.bridge a + s.bridge b).toNat % 8 = 0 →
    FailsAt s ((s.bridge a + s.bridge b).toNat % 2 ^ 21) va → exec (.lLdw m a b) s = .next (slotTraps s 0x1B va .L)) ∧
  (∀ (s : State) (m : BitVec 4) (a b : BitVec 6), HasRoom s → (s.bridge a + s.bridge b).toNat % 8 ≠ 0 →
    exec (.lLdw m a b) s = .next (slotTraps s 0x15 (s.bridge a + s.bridge b) .L)) ∧
  (∀ (s : State) (m : BitVec 4) (a b : BitVec 6), HasRoom s → (s.bridge a + s.bridge b).toNat % 8 = 0 →
    NoneFailedAt s ((s.bridge a + s.bridge b).toNat % 2 ^ 21) →
    Completes (.lLdw m a b) s (fun t => ∃ v k : Vec,
      t.pipe.ldq = (reserves s 6 v).pipe.ldq ∧
      t.pipe.flight = (withResults s (resultsAt s .L 6 [.mask m.toNat] k)).pipe.flight ∧ k.toNat < 2 ^ 256 ∧
      (∀ x, Memory.get t.mem x = Memory.get s.mem x) ∧
      ∀ i < 256,
        (Present s (((s.bridge a + s.bridge b).toNat + i) % 2 ^ 21) →
          k.getLsbD i = false ∧ MayRead s (padAt s (s.bridge a + s.bridge b) i) (BitVec.ofNat 8 (lane 8 v i))) ∧
        (¬Present s (((s.bridge a + s.bridge b).toNat + i) % 2 ^ 21) → k.getLsbD i = true ∧ lane 8 v i = 0))) ∧
  (∀ (s : State) (e : WEntry) (r : List WEntry) (d a b : BitVec 6), s.pipe.wq = e :: r → (wAddr e).toNat % 8 = 0 →
    (∀ x ∈ touched s.regs ((wAddr e).toNat % 2 ^ 21), (s.win x.1).ro = false) →
    NoneFailedAt s ((wAddr e).toNat % 2 ^ 21) →
    exec (.wStw d a b) s = .next (wStores (touchFill ((wAddr e).toNat % 2 ^ 21) e.bn e.addr (markDirty ((wAddr e).toNat % 2 ^ 21) s)) e
      (padAt s (wAddr e)) 256 e.d.toNat)) ∧
  (∀ (s : State) (n j o : Nat), n < 8 → j < (s.win n).slots.length → touched s.regs o = [(n, j)] →
    ∀ i < 256, ringAt s.regs ((o + i) % 2 ^ 21) = some (n, j) →
      (((markDirty o s).win n).slot j).2.getLsbD (((o + i) % 2 ^ 21 - (s.win n).rbase) % 4096) = true) ∧
  (∀ (s : State) (e : WEntry) (r : List WEntry) (d a b : BitVec 6), s.pipe.wq = e :: r → (wAddr e).toNat % 8 = 0 →
    (∃ x ∈ touched s.regs ((wAddr e).toNat % 2 ^ 21), (s.win x.1).ro = true) →
    exec (.wStw d a b) s = .next (wTraps s e 0x1A (wAddr e))) ∧
  (∀ (s : State) (e : WEntry) (r : List WEntry) (d a b : BitVec 6) (va : Word), s.pipe.wq = e :: r → (wAddr e).toNat % 8 = 0 →
    (∀ x ∈ touched s.regs ((wAddr e).toNat % 2 ^ 21), (s.win x.1).ro = false) → FailsAt s ((wAddr e).toNat % 2 ^ 21) va →
    exec (.wStw d a b) s = .next (wTraps s e 0x1B va)) ∧
  (∀ (s : State) (e : WEntry) (r : List WEntry) (d a b : BitVec 6), s.pipe.wq = e :: r → (wAddr e).toNat % 8 ≠ 0 →
    exec (.wStw d a b) s = .next (wTraps s e 0x15 (wAddr e))) ∧
  (∀ (s : State) (e : WEntry) (r : List WEntry) (n : BitVec 3) (pre : List Nat) (j : Nat) (post : List Nat), s.pipe.wq = e :: r →
    (s.win n.toNat).order = pre ++ j :: post →
    (∀ i ∈ pre, ((s.win n.toNat).slot i).2 ≠ 0 → ((s.win n.toNat).slot i).1 ≠ .failed) →
    ((s.win n.toNat).slot j).2 ≠ 0 → ((s.win n.toNat).slot j).1 = .failed →
    exec (.wFlushw n) s = .next (takeTrap s 0x1B (BitVec.ofNat 64 ((s.win n.toNat).slotVa j)) 5 e.addr true false)) ∧
  (∀ (s : State) (e : WEntry) (r : List WEntry) (n : BitVec 3), s.pipe.wq = e :: r → StoreRoom s →
    ((∀ j ∈ (s.win n.toNat).order, ((s.win n.toNat).slot j).2 = 0) →
      exec (.wFlushw n) s = .next (wIssued (settleAcq s))) ∧
    ((∀ j ∈ (s.win n.toNat).order, ((s.win n.toNat).slot j).2 ≠ 0 → ((s.win n.toNat).slot j).1 ≠ .failed) →
      Completes (.wFlushw n) s (fun t => t.pipe.wq = r ∧ ∀ x, Memory.get t.mem x = Memory.get s.mem x)))

/-! ## Global accesses of L and W, and windows -/

/-- A global load that passes its checks enters the load queue with the units it reads and reserves an entry of the load data
queue, which it will deliver; one that hits the L1 has its value at once. One whose page is absent parks there (R128, R131, R139,
R140, R246). -/
def Claim.GlobalLoads : Prop :=
  (∀ (s : State) (i : Instr) (op : LdOp) (how : Deliver) (n ulen : Nat) (ea : Word) (chan : Bool),
    LoadForm s i op how n ulen ea chan → HasRoom s → LoadRoom s → ea.toNat % ulen = 0 →
    (MayAccess s false ea.toNat (n * ulen) 0 (spaceOf chan) →
      let r := newLoad s op ea n ulen (unitsAt s false ea.toNat 0 ulen n) (List.range n) none how true
      ∃ q, exec i s = .next (loadEnters s q none) ∧ (q = r ∨ HitsL1 s r q)) ∧
    (∀ e, MustPark s false ea.toNat (n * ulen) 0 e →
      exec i s = .next (loadEnters s (newLoad s op ea n ulen [] (List.range n) (some e) how true) none))) ∧
  (∀ (s : State) (j : BitVec 3) (o : BitVec 11) (x : BitVec 6), s.regs.loop.q.getLsbD j.toNat = true → Issues s → HasRoom s →
    LoadRoom s → (baseEa s j 1 o x 256).toNat % 8 = 0 →
    MayAccess s false (baseEa s j 1 o x 256).toNat 256 0 (spaceOf false) →
    let r := newLoad s .plain (baseEa s j 1 o x 256) 32 8 (unitsAt s false (baseEa s j 1 o x 256).toNat 0 8 32) (List.range 32)
      none .vec true
    ∃ q, exec (.lLdgi j 1 o x) s = .next (stepsBase (loadEnters s q none) j 1 o 256) ∧ (q = r ∨ HitsL1 s r q)) ∧
  (∀ (s : State) (j : BitVec 3) (p : BitVec 1) (o : BitVec 11) (x : BitVec 6), s.regs.loop.q.getLsbD j.toNat = false → HasRoom s →
    exec (.lLdgi j p o x) s = .next (s.modPipe (fun q => { q with ldq := q.ldq ++ [⟨q.bn, none, true, false, 0, none, none⟩] })))

/-- Where a global load does not go ahead: with no entry to reserve it traps LDQ_OVERFLOW; with the load queue full it holds; its
address, its translation and its alignment trap in the order of R387. BAD_VA for bytes that pass 2^60 and the TADDR of each fault
are the model's choices, log entries 83 and 84. -/
def Claim.GlobalLoadTraps : Prop :=
  ∀ (s : State) (i : Instr) (op : LdOp) (how : Deliver) (n ulen : Nat) (ea : Word) (chan : Bool),
    LoadForm s i op how n ulen ea chan → Issues s →
    (¬HasRoom s → exec i s = .next (slotTraps s 0x0F 0 .L)) ∧
    (HasRoom s → ¬LoadRoom s → exec i s = .next (holds s)) ∧
    (HasRoom s → LoadRoom s →
      (2 ^ 60 < ea.toNat + n * ulen → exec i s = .next (slotTraps (dropWalks false s) 0x10 ea .L)) ∧
      (∀ c a, FaultsAt s false ea.toNat (n * ulen) 0 c a → exec i s = .next (slotTraps (dropWalks false s) c a .L)) ∧
      (MayAccess s false ea.toNat (n * ulen) 0 (fun _ => none) → ea.toNat % ulen ≠ 0 →
        exec i s = .next (slotTraps (dropWalks false s) 0x15 ea .L)))

/-- The other opcodes of L that enter the load queue: `lds` reads a scratchpad of the quad, `ldr` reads absent bytes as zero and
marks them, `preq` requests pages, `xlat` walks, and a prefetch is dropped rather than fault (R137, R149, R150, R396 to R398). -/
def Obligations.OtherLoads : Prop :=
  (∀ (s : State) (a b : BitVec 6), HasRoom s → LoadRoom s → (s.bridge a).toNat % 8 = 0 →
    exec (.lLds a b) s = .next (enterLoad (newLoad s .lds (s.bridge a) 32 8
      ((List.range 32).map (fun i => padOf (s.myQuad * 4 + (s.bridge b).toNat % 4) + ((s.bridge a).toNat + 8 * i) % 2 ^ 21))
      (List.range 32) none .vec true) none (settleAcq s))) ∧
  (∀ (s : State) (a b : BitVec 6), HasRoom s → LoadRoom s →
    exec (.lXlat a b) s = .next (enterLoad (newLoad s .xlat (s.bridge a + s.bridge b) 1 8 [] [0] none (.scalar false 64) true) none
      (settleAcq s))) ∧
  (∀ (s : State) (a b : BitVec 6), LoadRoom s →
    (s.bridge b ≠ 0 → (s.bridge a).toNat < 2 ^ 60 →
      exec (.lPreq a b) s = .next (enterLoad (newLoad s
        (.preq ((min ((s.bridge a).toNat + (s.bridge b).toNat) (2 ^ 60) - 1) / 4096))
        (BitVec.ofNat 64 ((s.bridge a).toNat / 4096)) 1 0 [] [0] none .vec false) none (settleAcq s))) ∧
    (s.bridge b = 0 ∨ 2 ^ 60 ≤ (s.bridge a).toNat → exec (.lPreq a b) s = .next (settleAcq s))) ∧
  (∀ (s : State) (a b : BitVec 6) (m : BitVec 4), HasRoom s → LoadRoom s →
    (s.bridge a + s.bridge b).toNat % 8 = 0 →
    MayAccess s false (s.bridge a + s.bridge b).toNat 256 4 (spaceOf false) →
    exec (.lLdr m a b) s = .next (loadEnters s (newLoad s (.ldr m.toNat) (s.bridge a + s.bridge b) 32 8
      (unitsAt s false (s.bridge a + s.bridge b).toNat 4 8 32) (List.range 32) none .vec true) (some (m.toNat, 0)))) ∧
  (∀ (s : State) (a b : BitVec 6) (m : BitVec 4), HasRoom s → LoadRoom s →
    (s.bridge a + s.bridge b).toNat % 8 = 0 → (s.bridge a + s.bridge b).toNat + 256 ≤ 2 ^ 60 →
    watchHits s.me 0 (s.bridge a + s.bridge b).toNat 256 = [] →
    (∀ x ∈ pagesOf (s.bridge a + s.bridge b).toNat 256,
      lookAt s s.cur.toNat false x 4 = .trap 0x12 ∨ ∃ e, lookAt s s.cur.toNat false x 4 = .park e) →
    ∃ r, exec (.lLdr m a b) s = .next (loadEnters s r (some (m.toNat, BitVec.allOnes 256))) ∧ r.op = .ldr m.toNat ∧
      r.todo = [] ∧ r.val = 0 ∧ r.entry = some s.pipe.bn) ∧
  (∀ (s : State) (a b : BitVec 6) (m : BitVec 4), ¬HasRoom s →
    exec (.lLds a b) s = .next (slotTraps s 0x0F 0 .L) ∧ exec (.lXlat a b) s = .next (slotTraps s 0x0F 0 .L) ∧
    exec (.lLdr m a b) s = .next (slotTraps s 0x0F 0 .L)) ∧
  (∀ (s : State) (a b : BitVec 6) (m : BitVec 4), ¬LoadRoom s → exec (.lPreq a b) s = .next (holds s) ∧
    (HasRoom s → exec (.lLds a b) s = .next (holds s) ∧ exec (.lXlat a b) s = .next (holds s) ∧
      exec (.lLdr m a b) s = .next (holds s))) ∧
  (∀ (s : State) (a b : BitVec 6), HasRoom s → LoadRoom s → (s.bridge a).toNat % 8 ≠ 0 →
    exec (.lLds a b) s = .next (slotTraps s 0x15 (s.bridge a) .L)) ∧
  (∀ (s : State) (a b : BitVec 6) (m : BitVec 4) (c : Nat) (x : Word), HasRoom s → LoadRoom s → c ≠ 0x12 →
    FaultsAt s false (s.bridge a + s.bridge b).toNat 256 4 c x →
    exec (.lLdr m a b) s = .next (slotTraps (dropWalks false s) c x .L)) ∧
  (∀ (s : State) (a b : BitVec 6), ¬LoadRoom s ∨ 2 ^ 60 ≤ (s.bridge a + s.bridge b).toNat →
    exec (.lPf a b) s = .next s ∧ exec (.lPfl2 a b) s = .next s) ∧
  (∀ (s : State) (a b : BitVec 6), LoadRoom s → (s.bridge a + s.bridge b).toNat < 2 ^ 60 →
    let ea := s.bridge a + s.bridge b
    let w := walkNow s.cur.toNat ea.toNat 0 none s
    (∀ l, w.1 = some (.leaf l) → hasHome (l.pa ea.toNat / 128 * 128) = true →
      accessFault w.2 0 (l.pa ea.toNat / 128 * 128) ea.toNat = none →
      exec (.lPf a b) s = .next (enterLoad (newLoad w.2 (.pf true) ea 1 128 [l.pa ea.toNat / 128 * 128] [0] none .vec false) none
        (settleAcq w.2)) ∧
      exec (.lPfl2 a b) s = .next (enterLoad (newLoad w.2 (.pf false) ea 1 128 [l.pa ea.toNat / 128 * 128] [0] none .vec false) none
        (settleAcq w.2))) ∧
    ((∀ l, w.1 = some (.leaf l) → hasHome (l.pa ea.toNat / 128 * 128) = false ∨
        accessFault w.2 0 (l.pa ea.toNat / 128 * 128) ea.toNat ≠ none) →
      exec (.lPf a b) s = .next w.2 ∧ exec (.lPfl2 a b) s = .next w.2))

/-- A global store that passes its checks enters the store queue with the units it writes and its data; one whose page is absent
parks there; with the queue full, or a release before its turn, W holds it; a bad address, translation or alignment traps, with
the data in TDBUF (R12, R138, R139, R142, R246, R266, R387). BAD_VA for bytes that pass 2^60 and the TADDR of each fault are the
model's choices, log entries 83 and 84; when the queue is full while fills and write-backs wait, log entry 129. -/
def Obligations.GlobalStores : Prop :=
  (∀ (s : State) (e : WEntry) (r : List WEntry) (i : Instr) (op : StOp) (n ulen : Nat) (ea : Word) (x : Vec),
    s.pipe.wq = e :: r → StoreForm s e i op n ulen ea x → StoreRoom s →
    (ea.toNat % ulen = 0 → MayAccess s true ea.toNat (n * ulen) 1 (spaceOf false) →
      exec i s = .next (storeEnters s (newStore s op ea n ulen (unitsAt s true ea.toNat 1 ulen n) none x.toNat))) ∧
    (∀ k, ea.toNat % ulen = 0 → MustPark s true ea.toNat (n * ulen) 1 k →
      exec i s = .next (storeEnters s (newStore s op ea n ulen [] (some k) x.toNat))) ∧
    (2 ^ 60 < ea.toNat + n * ulen → exec i s = .next (wTraps (dropWalks true s) e 0x10 ea)) ∧
    (∀ c a, FaultsAt s true ea.toNat (n * ulen) 1 c a → exec i s = .next (wTraps (dropWalks true s) e c a)) ∧
    (ea.toNat % ulen ≠ 0 → MayAccess s true ea.toNat (n * ulen) 1 (fun _ => none) →
      exec i s = .next (wTraps (dropWalks true s) e 0x15 ea))) ∧
  (∀ (s : State) (e : WEntry) (r : List WEntry) (i : Instr) (op : StOp) (n ulen : Nat) (ea : Word) (x : Vec),
    s.pipe.wq = e :: r → StoreForm s e i op n ulen ea x → ¬StoreRoom s → exec i s = .next s) ∧
  (∀ (s : State) (e : WEntry) (r : List WEntry) (j : BitVec 3) (p : BitVec 1) (o : BitVec 11) (d : BitVec 6),
    s.pipe.wq = e :: r → e.q = false → exec (.wStgi j p o d) s = .next (wIssued s)) ∧
  (∀ (s : State) (e : WEntry) (r : List WEntry) (c : BitVec 3) (a b : BitVec 6) (t : BitVec 5),
    s.pipe.wq = e :: r → c ≠ 0 → allBefore s.pipe (2 * e.bn + 1) = false → exec (.wStrel c a b t) s = .next s)

/-- Marks, fences and atomics: each enters the store queue in its order, and the load queue besides where R142 and R143 say so;
a fence or a mark at no address and an atomic at a home address (R141 to R144). That a mark, and a fence at scope core, enter
without waiting for earlier accesses is the model's reading, log entry 88; BAD_VA and TADDR are log entries 83 and 84. -/
def Obligations.OrderingAndAtomics : Prop :=
  (∀ (s : State) (e : WEntry) (r : List WEntry), s.pipe.wq = e :: r → StoreRoom s → LoadRoom s →
    exec .wMark s = .next (enterStore (newStore s .mark 0 1 0 [] none 0) (addPartner (settleAcq s))) ∧
    ∀ c : BitVec 3, c = 0 ∨ allBefore s.pipe (2 * e.bn + 1) = true →
      exec (.wFence c) s = .next (enterStore (newStore s (.fence c.toNat) 0 1 0 [] none 0) (addPartner (settleAcq s)))) ∧
  (∀ (s : State) (e : WEntry) (r : List WEntry), s.pipe.wq = e :: r → ¬StoreRoom s ∨ ¬LoadRoom s → exec .wMark s = .next s) ∧
  (∀ (s : State) (e : WEntry) (r : List WEntry) (c : BitVec 3), s.pipe.wq = e :: r →
    ¬StoreRoom s ∨ ¬LoadRoom s ∨ (c ≠ 0 ∧ allBefore s.pipe (2 * e.bn + 1) = false) → exec (.wFence c) s = .next s) ∧
  (∀ (s : State) (e : WEntry) (r : List WEntry) (i : Instr) (op : StOp) (t : BitVec 3) (n : BitVec 1),
    s.pipe.wq = e :: r → AtomicForm e i op t n → StoreRoom s → n = 1 ∨ LoadRoom s →
    (vecWord e.a).toNat % (amoWidth t.toNat / 8) = 0 →
    MayAccess s true (vecWord e.a).toNat (amoWidth t.toNat / 8) 2 homeCheck →
    exec i s = .next (dropWalks true (enterStore
      (newStore s op (vecWord e.a) 1 (amoWidth t.toNat / 8) (unitsAt s true (vecWord e.a).toNat 2 (amoWidth t.toNat / 8) 1) none 0)
      (if n = 1 then settleAcq s else addPartner (settleAcq s))))) ∧
  (∀ (s : State) (e : WEntry) (r : List WEntry) (i : Instr) (op : StOp) (t : BitVec 3) (n : BitVec 1) (k : Nat),
    s.pipe.wq = e :: r → AtomicForm e i op t n → StoreRoom s → n = 1 ∨ LoadRoom s →
    (vecWord e.a).toNat % (amoWidth t.toNat / 8) = 0 → MustPark s true (vecWord e.a).toNat (amoWidth t.toNat / 8) 2 k →
    exec i s = .next (dropWalks true (enterStore (newStore s op (vecWord e.a) 1 (amoWidth t.toNat / 8) [] (some k) 0)
      (if n = 1 then settleAcq s else addPartner (settleAcq s))))) ∧
  (∀ (s : State) (e : WEntry) (r : List WEntry) (i : Instr) (op : StOp) (t : BitVec 3) (n : BitVec 1),
    s.pipe.wq = e :: r → AtomicForm e i op t n → StoreRoom s → n = 1 ∨ LoadRoom s →
    (2 ^ 60 < (vecWord e.a).toNat + amoWidth t.toNat / 8 →
      exec i s = .next (takeTrap (dropWalks true s) 0x10 (vecWord e.a) 5 e.addr true false)) ∧
    (∀ c a, FaultsAt s true (vecWord e.a).toNat (amoWidth t.toNat / 8) 2 c a →
      exec i s = .next (takeTrap (dropWalks true s) c a 5 e.addr true false)) ∧
    ((vecWord e.a).toNat % (amoWidth t.toNat / 8) ≠ 0 →
      MayAccess s true (vecWord e.a).toNat (amoWidth t.toNat / 8) 2 (fun _ => none) →
      exec i s = .next (takeTrap (dropWalks true s) 0x15 (vecWord e.a) 5 e.addr true false))) ∧
  (∀ (s : State) (e : WEntry) (r : List WEntry) (i : Instr) (op : StOp) (t : BitVec 3) (n : BitVec 1) (l : Leaf),
    s.pipe.wq = e :: r → AtomicForm e i op t n → StoreRoom s → n = 1 ∨ LoadRoom s →
    (vecWord e.a).toNat % (amoWidth t.toNat / 8) = 0 → (vecWord e.a).toNat + amoWidth t.toNat / 8 ≤ 2 ^ 60 →
    watchHits s.me 2 (vecWord e.a).toNat (amoWidth t.toNat / 8) = [] →
    lookAt s s.cur.toNat true (vecWord e.a).toNat 2 = .leaf l → reservedPa s (l.pa (vecWord e.a).toNat) = false →
    hasHome (l.pa (vecWord e.a).toNat) = false →
    exec i s = .next (takeTrap (dropWalks true s) 0x16 (vecWord e.a) 5 e.addr true false))

/-- Discard and the cache-line opcodes act on the 128-byte line of their address; `wb` and `inv` are dropped where it has no
translation (R147, R148, R248). The other faults of `wb` and `inv` are the model's choice, log entry 118. -/
def Claim.LineOpcodes : Prop :=
  (∀ (s : State) (e : WEntry) (r : List WEntry) (a b : BitVec 6), s.pipe.wq = e :: r → StoreRoom s →
    MayAccess s true ((wAddr e).toNat / 128 * 128) 128 1 homeCheck →
    exec (.wDiscard a b) s = .next (storeEnters s (newStore s .discard (BitVec.ofNat 64 ((wAddr e).toNat / 128 * 128)) 1 128
      (unitsAt s true ((wAddr e).toNat / 128 * 128) 1 128 1) none 0))) ∧
  (∀ (s : State) (e : WEntry) (r : List WEntry) (a b : BitVec 6) (l : Leaf), s.pipe.wq = e :: r → StoreRoom s →
    (wAddr e).toNat < 2 ^ 60 → lookAt s s.cur.toNat true ((wAddr e).toNat / 128 * 128) 4 = .leaf l →
    accessFault s 0 (l.pa ((wAddr e).toNat / 128 * 128)) (wAddr e).toNat = none →
    exec (.wWb a b) s = .next (storeEnters s (newStore s .wb (BitVec.ofNat 64 ((wAddr e).toNat / 128 * 128)) 1 128
      [l.pa ((wAddr e).toNat / 128 * 128)] none 0)) ∧
    exec (.wInv a b) s = .next (storeEnters s (newStore s .inv (BitVec.ofNat 64 ((wAddr e).toNat / 128 * 128)) 1 128
      [l.pa ((wAddr e).toNat / 128 * 128)] none 0))) ∧
  (∀ (s : State) (e : WEntry) (r : List WEntry) (a b : BitVec 6), s.pipe.wq = e :: r → StoreRoom s →
    (wAddr e).toNat < 2 ^ 60 →
    (∃ k, lookAt s s.cur.toNat true ((wAddr e).toNat / 128 * 128) 4 = .park k) ∨
      lookAt s s.cur.toNat true ((wAddr e).toNat / 128 * 128) 4 = .trap 0x12 →
    exec (.wWb a b) s = .next (dropWalks true (wIssued s)) ∧ exec (.wInv a b) s = .next (dropWalks true (wIssued s))) ∧
  (∀ (s : State) (e : WEntry) (r : List WEntry) (a b : BitVec 6) (c : Nat), s.pipe.wq = e :: r → StoreRoom s →
    (wAddr e).toNat < 2 ^ 60 → c ≠ 0x12 → lookAt s s.cur.toNat true ((wAddr e).toNat / 128 * 128) 4 = .trap c →
    exec (.wWb a b) s = .next (takeTrap (dropWalks true s) c (wAddr e) 5 e.addr true false) ∧
    exec (.wInv a b) s = .next (takeTrap (dropWalks true s) c (wAddr e) 5 e.addr true false)) ∧
  (∀ (s : State) (e : WEntry) (r : List WEntry) (a b : BitVec 6), s.pipe.wq = e :: r → ¬StoreRoom s →
    exec (.wWb a b) s = .next s ∧ exec (.wInv a b) s = .next s ∧ exec (.wDiscard a b) s = .next s) ∧
  (∀ (s : State) (e : WEntry) (r : List WEntry) (a b : BitVec 6), s.pipe.wq = e :: r → StoreRoom s →
    2 ^ 60 ≤ (wAddr e).toNat →
    exec (.wWb a b) s = .next (takeTrap s 0x10 (wAddr e) 5 e.addr true false) ∧
    exec (.wInv a b) s = .next (takeTrap s 0x10 (wAddr e) 5 e.addr true false) ∧
    exec (.wDiscard a b) s = .next (takeTrap (dropWalks true s) 0x10 (wAddr e) 5 e.addr true false))

/-- Mail, doorbells, tokens, arrivals and engine stores of W: each takes one store-queue entry; an arrival arms its entry; `go` and
`stamp` make the token they produce pending, unless it is pending already (R145, R155, R186 to R191, R305, R347). The k rights that
`ring` and `arrive` need, and any TADDR where one is denied, are the model's reading of R375, log entry 34; that TOKEN_BUSY comes
after every other check of the store is its choice, log entry 133. -/
def Claim.SignalsAndCommands : Prop :=
  (∀ (s : State) (e : WEntry) (r : List WEntry) (a b : BitVec 6), s.pipe.wq = e :: r → StoreRoom s →
    (∀ m : BitVec 2, (vecWord e.b).toNat < 2048 → exec (.wMailw m a b) s = .next (enterStore
      (newStore s (.mailw (vecWord e.b).toNat m.toNat) 0 1 0 [] none (vecWord e.a).toNat) (settleAcq s))) ∧
    ((vecWord e.a).toNat < 4096 → hasRight s s.regs.id.tag 0 5 3 = true →
      exec (.wRingDb a b) s = .next (enterStore
        (newStore s (.ring false (vecWord e.a).toNat) 0 1 0 [] none (vecWord e.b).toNat) (settleAcq s)) ∧
      exec (.wRingWk a b) s = .next (enterStore
        (newStore s (.ring true (vecWord e.a).toNat) 0 1 0 [] none (vecWord e.b).toNat) (settleAcq s))) ∧
    exec (.wTkset a) s = .next (enterStore (newStore s (.tkset (vecWord e.a).toNat) 0 1 0 [] none 0) (settleAcq s)) ∧
    ((vecWord e.a).toNat < 4096 → hasRight s s.regs.id.tag 0 5 3 = false → ∃ x : Word,
      exec (.wRingDb a b) s = .next (withFresh (takeTrap s 0x14 x 5 e.addr true false) (s.fresh + 1)) ∧
      exec (.wRingWk a b) s = .next (withFresh (takeTrap s 0x14 x 5 e.addr true false) (s.fresh + 1))) ∧
    (∀ (c : BitVec 3) (j : BitVec 4), hasRight s s.regs.id.tag 0 4 3 = false → ∃ x : Word,
      exec (.wArrive c a j) s = .next (withFresh (takeTrap s 0x14 x 5 e.addr true false) (s.fresh + 1))) ∧
    (∀ (c : BitVec 3) (j : BitVec 4), hasRight s s.regs.id.tag 0 4 3 = true → Completes (.wArrive c a j) s (fun t =>
      vget t.regs.arr j.toNat ArrEntry.reset =
        ⟨true, barrierName c.toNat ((vecWord e.a).toNat % 256) s.cur.toNat, none, 0, none, none, s.fresh⟩ ∧
      (∀ k < 16, k ≠ j.toNat → vget t.regs.arr k ArrEntry.reset = vget s.regs.arr k ArrEntry.reset) ∧
      t.pipe.wq = r ∧ t.regs.tok = s.regs.tok ∧
      ∃ q : Req StOp, t.pipe.sq = s.pipe.sq ++ [q] ∧
        q.op = .arrive c.toNat (barrierName c.toNat ((vecWord e.a).toNat % 256) s.cur.toNat) j.toNat))) ∧
  (∀ (s : State) (e : WEntry) (r : List WEntry) (a b : BitVec 6), s.pipe.wq = e :: r →
    (∀ m : BitVec 2, 2048 ≤ (vecWord e.b).toNat →
      exec (.wMailw m a b) s = .next (takeTrap s 0x11 (vecWord e.b) 5 e.addr true false)) ∧
    (4096 ≤ (vecWord e.a).toNat → exec (.wRingDb a b) s = .next (takeTrap s 0x11 (vecWord e.a) 5 e.addr true false) ∧
      exec (.wRingWk a b) s = .next (takeTrap s 0x11 (vecWord e.a) 5 e.addr true false))) ∧
  (∀ (s : State) (e : WEntry) (r : List WEntry) (d a b : BitVec 6) (l : Leaf), s.pipe.wq = e :: r → StoreRoom s →
    (wAddr e).toNat + 8 ≤ 2 ^ 60 → (wAddr e).toNat % 8 = 0 → watchHits s.me 1 (wAddr e).toNat 8 = [] →
    lookAt s s.cur.toNat true (wAddr e).toNat 1 = .leaf l → reservedPa s (l.pa (wAddr e).toNat) = false →
    (apwOnly (l.pa (wAddr e).toNat) = none → exec (.wApw d a b) s = .next (storeEnters s
      (newStore s .apw (wAddr e) 1 8 [l.pa (wAddr e).toNat] none (vecWord e.d).toNat))) ∧
    (cmdOnly (l.pa (wAddr e).toNat) = none → tokenField (vecWord e.d) 33 = none →
      exec (.wGo d a b) s = .next (withFresh (storeEnters s (newStore s (.go false none s.fresh) (wAddr e) 1 8
        [l.pa (wAddr e).toNat] none (vecWord e.d).toNat)) (s.fresh + 1)) ∧
      exec (.wStamp d a b) s = .next (withFresh (storeEnters s (newStore s (.go true none s.fresh) (wAddr e) 1 8
        [l.pa (wAddr e).toNat] none (vecWord e.d).toNat)) (s.fresh + 1))) ∧
    (∀ k, cmdOnly (l.pa (wAddr e).toNat) = none → tokenField (vecWord e.d) 33 = some k → tokenOf s k ≠ .pending →
      exec (.wGo d a b) s = .next (withFresh ((storeEnters s (newStore s (.go false (some k) s.fresh) (wAddr e) 1 8
        [l.pa (wAddr e).toNat] none (vecWord e.d).toNat)).modRegs
          (fun x => { x with tok := vset x.tok k ⟨.pending, s.fresh⟩ })) (s.fresh + 1)) ∧
      exec (.wStamp d a b) s = .next (withFresh ((storeEnters s (newStore s (.go true (some k) s.fresh) (wAddr e) 1 8
        [l.pa (wAddr e).toNat] none (vecWord e.d).toNat)).modRegs
          (fun x => { x with tok := vset x.tok k ⟨.pending, s.fresh⟩ })) (s.fresh + 1))) ∧
    (apwOnly (l.pa (wAddr e).toNat) ≠ none → exec (.wApw d a b) s = .next (wTraps (dropWalks true s) e 0x17 (wAddr e))) ∧
    (cmdOnly (l.pa (wAddr e).toNat) ≠ none →
      exec (.wGo d a b) s = .next (wTraps (dropWalks true s) e 0x17 (wAddr e)) ∧
      exec (.wStamp d a b) s = .next (wTraps (dropWalks true s) e 0x17 (wAddr e))) ∧
    (∀ k, cmdOnly (l.pa (wAddr e).toNat) = none → tokenField (vecWord e.d) 33 = some k → tokenOf s k = .pending →
      exec (.wGo d a b) s = .next (wTraps (dropWalks true s) e 0x22 (BitVec.ofNat 64 k)) ∧
      exec (.wStamp d a b) s = .next (wTraps (dropWalks true s) e 0x22 (BitVec.ofNat 64 k)))) ∧
  (∀ (s : State) (e : WEntry) (r : List WEntry) (d a b : BitVec 6), s.pipe.wq = e :: r → ¬StoreRoom s →
    exec (.wGo d a b) s = .next s ∧ exec (.wStamp d a b) s = .next s ∧ exec (.wApw d a b) s = .next s)

/-- The global loads of L, and where they trap or hold (R128, R131, R139, R140, R246, R387). -/
def Obligations.GlobalLoadsAndTraps : Prop :=
  Claim.GlobalLoads ∧ Claim.GlobalLoadTraps

/-- The line opcodes, mail, tokens, arrivals, doorbells and commands of W. -/
def Obligations.LinesAndSignals : Prop :=
  Claim.LineOpcodes ∧ Claim.SignalsAndCommands

/-! ## The F slot -/

/-- The lease: a request is noted with its drain count and waits for its grant; at a grant or while held a second one traps
FOLD_BUSY; `free` leaves one drain (R158, R160, R164). -/
def Claim.FoldLease : Prop :=
  (∀ s : State, exec .fNop s = .next s) ∧
  (∀ (s : State) (a : BitVec 6), s.me.fold.lease = .none →
    let n := (s.bridge a).toNat % 512
    let asks := fun (w : Bool) => s.modMe (fun c => { c with fold := { c.fold with
      lease := .waiting, drains := if n = 0 then 16 else min n 256, wide := w, asked := (s.quad s.myQuad).cycle } })
    exec (.fLease a) s = .next (asks false) ∧
    ((∀ c < 4, ∀ t, fget? s.acctag (s.myQuad * 4 + c) = some t → t = s.regs.id.tag) →
      exec (.fLeasew a) s = .next (asks true)) ∧
    ((∃ c < 4, ∃ t, fget? s.acctag (s.myQuad * 4 + c) = some t ∧ t ≠ s.regs.id.tag) →
      exec (.fLeasew a) s = .next (fTrap s 0x1E 0))) ∧
  (∀ (s : State) (a : BitVec 6), s.me.fold.lease = .waiting →
    exec (.fLease a) s = .next (holds s) ∧ exec (.fLeasew a) s = .next (holds s)) ∧
  (∀ (s : State) (a : BitVec 6), s.me.fold.lease = .granted ∨ s.me.fold.lease = .held →
    exec (.fLease a) s = .next (fTrap s 0x1D 0) ∧ exec (.fLeasew a) s = .next (fTrap s 0x1D 0) ∧
    exec .fFree s = .next (withArray s (fun x => { x with remaining := 1 }))) ∧
  (∀ s : State, s.me.fold.lease = .none ∨ s.me.fold.lease = .waiting → exec .fFree s = .next s)

/-- Every array opcode traps NO_LEASE unless the core holds the lease (R161). -/
def Claim.ArrayOpcodesNeedLease : Prop :=
  ∀ (s : State) (i : Instr) (a b c : BitVec 6) (x y z : BitVec 3) (v : BitVec 5) (w : BitVec 5) (p : BitVec 2) (r : BitVec 12)
    (n : BitVec 1), ¬HoldsLease s →
    i ∈ [Instr.fGuard a, .fFmt v w, .fCsum n, .fAccsel a b, .fMcast a, .fRoute a b, .fStage x p, .fOuter x y p, .fTaps x y p,
      .fSouter x r, .fStaps x r, .fWide c a b n z, .fDrain x y p, .fDrainz, .fClr, .fFence, .fInject a b] →
    exec i s = .next (fTrap s 0x1C 0)

/-- The configuration of the array: what each opcode sets, under a lease held; those that change the meaning of the slot integers
trap FOLD_BUSY once a step has issued (R161, R165). -/
def Claim.FoldConfiguration : Prop :=
  (∀ (s : State) (g a b : BitVec 6) (t u : BitVec 5) (n : BitVec 1), HoldsLease s → (arrayOf s).busy = false →
    exec (.fGuard g) s = .next (withArray s (fun x => { x with g := g.toNat })) ∧
    exec (.fFmt t u) s = .next (withArray s (fun x => { x with ta := t, tb := u })) ∧
    exec (.fCsum n) s = .next (withArray s (fun x => { x with csum := n = 1 })) ∧
    exec (.fAccsel a b) s = .next (withArray s (fun x =>
      { x with base := (s.bridge a).toNat / 256 % 2 ^ 14 * 256,
               nu := if (s.bridge b).toNat % 1024 = 0 then 512 else min ((s.bridge b).toNat % 1024) 512 }))) ∧
  (∀ (s : State) (i : Instr) (g a b : BitVec 6) (t u : BitVec 5) (n : BitVec 1), HoldsLease s → (arrayOf s).busy = true →
    i ∈ [Instr.fGuard g, .fFmt t u, .fCsum n, .fAccsel a b] → exec i s = .next (slotTraps s 0x1D 0 .F)) ∧
  (∀ (s : State) (a b : BitVec 6), HoldsLease s →
    (∃ m : Vector (BitVec 2) 4, exec (.fMcast a) s = .next (withArray s (fun x => { x with mcast := m })) ∧
      ∀ q < 4, (vget m q 0).toNat = (s.bridge a).toNat / 4 ^ q % 4) ∧
    exec (.fRoute a b) s = .next (withArray s (fun x =>
      { x with rbase := (s.bridge a).toNat / 128 % 2 ^ 14 * 128, rcore := (s.bridge b).toNat % 4 })) ∧
    exec .fClr s = .next (withArray s cleared) ∧
    exec .fDrainz s = .next (leaseUsed (withArray s cleared)))

/-- The feed registers are set by R166. -/
def Claim.FeedRegisters : Prop :=
  ∀ (s : State) (k : BitVec 3) (a : BitVec 6),
    let f := feedOf s k.toNat
    exec (.fFset k a) s = .next (withFeed s k.toNat { f with addr := BitVec.ofNat 21 (s.bridge a).toNat, cnt := 0 }) ∧
    exec (.fFadd k a) s = .next (withFeed s k.toNat { f with addr := f.addr + BitVec.ofNat 21 (s.bridge a).toNat }) ∧
    exec (.fFstr k a) s = .next (withFeed s k.toNat { f with
      st1 := BitVec.ofNat 20 (s.bridge a).toNat, st2 := BitVec.ofNat 20 ((s.bridge a).toNat / 2 ^ 32) }) ∧
    exec (.fFwrap k a) s = .next (withFeed s k.toNat { f with wrap := BitVec.ofNat 12 (s.bridge a).toNat, cnt := 0 })

/-- Steps: under a lease held, with the family and the stride in order, a step takes its column and its row from the scratchpads of
the quad at its feed registers, which step, and enters the pipeline; a sparse one takes the staged words its route row selects;
`stage` stages four columns, to be used two counts later (R167 to R170). That the staged elements stay decoded as they were when `stage`
issued is log entry 122, and that F reads bytes of other masters as memory holds them log entry 121. -/
def Claim.FoldSteps : Prop :=
  (∀ (s : State) (a b : BitVec 3) (c : BitVec 2) (taps : Bool), HoldsLease s → (arrayOf s).fam ≠ some (!taps) →
    (arrayOf s).stride ≤ 48 → ∃ k col row,
    let f := feedOf s a.toNat
    let s1 := withFeed s a.toNat (feedUsed f)
    let g := feedOf s1 b.toNat
    exec (if taps then .fTaps a b c else .fOuter a b c) s =
      .next (withFresh (stepEnters (withFeed s1 b.toNat (feedUsed g)) taps (stepOf s taps [col] [] row)) k) ∧
    BlockString s c.toNat f.addr.toNat ((arrayOf s).rows + if taps then (arrayOf s).lanes - 1 else 0) (arrayOf s).ta col ∧
    BlockRow s g.addr.toNat row) ∧
  (∀ (s : State) (b : BitVec 3) (r : BitVec 12) (taps : Bool), HoldsLease s → (arrayOf s).fam ≠ some (!taps) →
    (arrayOf s).stride ≤ 48 → ∃ k x row,
    let g := feedOf s b.toNat
    exec (if taps then .fStaps b r else .fSouter b r) s =
      .next (withFresh (stepEnters (withFeed s b.toNat (feedUsed g)) taps
        (stepOf s taps (stagedAt (arrayOf s) s.pipe.count).toList
          ((List.range (arrayOf s).nu).map (fun u => x / 4 ^ u % 4)) row)) k) ∧
    ReadsAt (MayRead s) (fun i => padOf (s.myQuad * 4 + (arrayOf s).rcore) + ((arrayOf s).rbase + 128 * r.toNat + i) % 2 ^ 21)
      128 x ∧
    BlockRow s g.addr.toNat row) ∧
  (∀ (s : State) (f : BitVec 3) (c : BitVec 2), HoldsLease s →
    Completes (.fStage f c) s (fun t => ∃ l : Nat → List Int,
      (arrayOf t).st = stagedAt (arrayOf s) s.pipe.count ∧
      (arrayOf t).stNext = (arrayOf s).stNext.filter (fun e => s.pipe.count < e.1) ++
        [(s.pipe.count + 2, [l 0, l 1, l 2, l 3])] ∧
      BlockString s c.toNat (feedOf s f.toNat).addr.toNat ((arrayOf s).rows + 11) (arrayOf s).ta (l 0) ∧
      BlockString s c.toNat (feedUsed (feedOf s f.toNat)).addr.toNat ((arrayOf s).rows + 11) (arrayOf s).ta (l 1) ∧
      BlockString s c.toNat (feedUsed (feedUsed (feedOf s f.toNat))).addr.toNat ((arrayOf s).rows + 11) (arrayOf s).ta (l 2) ∧
      BlockString s c.toNat (feedUsed (feedUsed (feedUsed (feedOf s f.toNat)))).addr.toNat ((arrayOf s).rows + 11)
        (arrayOf s).ta (l 3) ∧
      feedOf t f.toNat = feedUsed (feedUsed (feedUsed (feedUsed (feedOf s f.toNat)))) ∧
      (arrayOf t).slots = (arrayOf s).slots ∧ ∀ x, Memory.get t.mem x = Memory.get s.mem x)) ∧
  (∀ (s : State) (a b : BitVec 3) (c : BitVec 2) (r : BitVec 12) (taps : Bool), HoldsLease s →
    ∀ i ∈ [if taps then Instr.fTaps a b c else .fOuter a b c, if taps then .fStaps b r else .fSouter b r],
      ((arrayOf s).fam = some (!taps) → exec i s = .next (slotTraps s 0x1D 0 .F)) ∧
      ((arrayOf s).fam ≠ some (!taps) → 48 < (arrayOf s).stride → exec i s = .next (slotTraps s 0x02 0 .F)))

/-- A step lands once its count is over: each slot of its rows and columns takes what the step adds, and nothing else of the array
but its checksum lanes and overflow record changes (R169, R170). -/
def Claim.FoldStepsLand : Prop :=
  (∀ (s : State) (q : QuadId) (p : FoldStep) (rest : List FoldStep),
    let a := (s.quad q.toNat).array
    a.flight = p :: rest → p.due < (s.core (q.toNat * 4 + p.core)).regs.task.count →
    (∀ x ∈ rest, (s.core (q.toNat * 4 + x.core)).regs.task.count ≤ x.due) →
    a.slots.Pairwise (fun x y => x.1 < y.1) → (if p.taps then p.nu else p.nu * p.e) ≤ 8192 →
    Completes (.foldStepLanding q) s (fun t =>
      let b := (t.quad q.toNat).array
      b.flight = rest ∧ b.steps = a.steps + 1 ∧ b.busy = a.busy ∧ b.fam = a.fam ∧ b.drains = a.drains ∧ b.holder = a.holder ∧
      (∀ i j, j < 8192 → fget 0 b.slots (i * 8192 + j) = fget 0 a.slots (i * 8192 + j) +
        if i < p.rows ∧ j < (if p.taps then p.nu else p.nu * p.e) then stepAdds p i j else 0) ∧
      (∀ n, t.core n = s.core n) ∧ t.mem = s.mem)) ∧
  (∀ (s : State) (q : QuadId),
    (∀ x ∈ (s.quad q.toNat).array.flight, (s.core (q.toNat * 4 + x.core)).regs.task.count ≤ x.due) →
    Completes (.foldStepLanding q) s (fun t => (t.quad q.toNat).array = (s.quad q.toNat).array ∧ t.mem = s.mem))

/-- A drain takes the slot integers with the scale words of its rows and columns, clears the array and uses the lease; with
checksums on it corrects one mismatching slot, counts a mismatching lane, and traps on anything else (R173 to R177, R180). -/
def Claim.FoldDrains : Prop :=
  (∀ (s : State) (k f : BitVec 3) (c : BitVec 2) (vals : FMap Int) (count : FoldCore → FoldCore), HoldsLease s →
    let a := arrayOf s
    k.toNat + (a.rows + 63) / 64 ≤ 8 → a.ovf = none →
    a.base + 4 * a.rows * a.cols ≤ (if a.wide then 2 ^ 22 else 2 ^ 20) →
    (a.check = .clean ∧ vals = a.slots ∧ count = id) ∨
      (a.check = .lane ∧ vals = a.slots ∧ count = fun x => { x with lane := x.lane + 1 }) ∨
      (∃ i d, a.check = .fix i d ∧ vals = setInt a.slots i (fget 0 a.slots i + d) ∧
        count = fun x => { x with corr := x.corr + 1 }) →
    ∃ n x, exec (.fDrain k f c) s = .next (withFresh (leaseUsed (withArray
        (withFeed (s.modMe (fun m => { m with fold := count m.fold })) f.toNat (feedUsed (feedOf s f.toNat)))
        (fun y => { cleared y with drains := y.drains ++ [⟨s.pipe.count + 33, vals,
          (List.range a.rows).map (rowScale s (a.fam = some true) k.toNat),
          (List.range a.cols).map (fun j => x / 2 ^ (32 * j) % 2 ^ 32), a.rows, a.cols, a.base, a.wide, s.cur.toNat % 4⟩] }))) n) ∧
      ReadsAt (MayRead s) (fun i => padOf (s.myQuad * 4 + c.toNat) + ((feedOf s f.toNat).addr.toNat + i) % 2 ^ 21) (4 * a.cols) x) ∧
  (∀ (s : State) (k f : BitVec 3) (c : BitVec 2), HoldsLease s →
    let a := arrayOf s
    (8 < k.toNat + (a.rows + 63) / 64 → exec (.fDrain k f c) s = .next (slotTraps s 0x02 0 .F)) ∧
    (k.toNat + (a.rows + 63) / 64 ≤ 8 → a.ovf ≠ none → exec (.fDrain k f c) s = .next (slotTraps s 0x1F (foldOvf a) .F)) ∧
    (k.toNat + (a.rows + 63) / 64 ≤ 8 → a.ovf = none → a.check = .fail →
      exec (.fDrain k f c) s = .next (slotTraps
        (s.modMe (fun m => { m with fold := { m.fold with fail := m.fold.fail + 1 } })) 0x20 0x10 .F)) ∧
    (k.toNat + (a.rows + 63) / 64 ≤ 8 → a.ovf = none → a.check = .clean →
      (if a.wide then 2 ^ 22 else 2 ^ 20) < a.base + 4 * a.rows * a.cols →
      exec (.fDrain k f c) s = .next (slotTraps s 0x21 (BitVec.ofNat 64 (a.base + 4 * a.rows * a.cols)) .F)))

/-- A drain whose count is over adds each slot integer, scaled, to the f32 at its accumulator, row by row; no other byte of
memory changes (R51, R173, R174). -/
def Claim.DrainsLand : Prop :=
  (∀ (s : State) (q : QuadId) (d : Drain) (rest : List Drain), Memory.wf s.mem = true →
    (s.quad q.toNat).array.drains = d :: rest →
    d.due < (s.core (q.toNat * 4 + d.core)).regs.task.count →
    (∀ x ∈ rest, (s.core (q.toNat * 4 + x.core)).regs.task.count ≤ x.due) →
    Completes (.drainAccumulate q) s (fun t =>
      (t.quad q.toNat).array = { (s.quad q.toNat).array with drains := rest } ∧ (∀ n, t.core n = s.core n) ∧
      (∀ i < d.rows, ∀ j < d.cols,
        Memory.read t.mem (drainAddr q.toNat d (d.base + 4 * (i * d.cols + j))) 4 =
          drainOne (fget 0 d.vals (i * 8192 + j)) (d.sa.getD i 0) (d.sb.getD j 0)
            (Memory.read s.mem (drainAddr q.toNat d (d.base + 4 * (i * d.cols + j))) 4)) ∧
      ∀ x, (x < drainAddr q.toNat d d.base ∨ drainAddr q.toNat d d.base + 4 * d.rows * d.cols ≤ x) →
        Memory.get t.mem x = Memory.get s.mem x)) ∧
  (∀ (s : State) (q : QuadId),
    (∀ x ∈ (s.quad q.toNat).array.drains, (s.core (q.toNat * 4 + x.core)).regs.task.count ≤ x.due) →
    Completes (.drainAccumulate q) s (fun t => t.mem = s.mem ∧ (t.quad q.toNat).array = (s.quad q.toNat).array))

/-- The remaining array opcodes: `wide` multiplies and adds on a register pair bound to F; `fence` waits while empty bundles
issue; `inject` adds to a slot or a lane once the steps of its cycle have landed; `cscnt` reads the checksum counts, which the end of
its cycle, or of its result's, writes to a mail register (R62, R172, R175, R178, R179). -/
def Claim.FoldOther : Prop :=
  (∀ (s : State) (d a b : BitVec 6) (c : BitVec 1) (m : BitVec 3), HoldsLease s → d.toNat < 39 →
    (∀ x ∈ [d, d + 1, a, b], 40 ≤ x.toNat ∨ vget s.regs.vec.banks (x.toNat / 10) .va = .f) →
    let v := fun (x : BitVec 6) => (if x.toNat < 40 then vget s.regs.vec.v x.toNat 0 else wordVec (s.bridge x)).toNat
    let n := 64 * (m.toNat + 1)
    let old : Nat := (vget s.regs.vec.v (d.toNat + 1) 0).toNat * 2 ^ 2048 + (vget s.regs.vec.v d.toNat 0).toNat
    let z : Int := if c = 1 then old else 0
    let y := Int.toNat ((twos 2048 (v a) * twos n (v b % 2 ^ n) + z) % 2 ^ 4096)
    exec (.fWide d a b c m) s = .next (withResults s (resultsAt s .F 10 [.vreg d.toNat] (natVec y) ++
      resultsAt s .F 10 [.vreg (d.toNat + 1)] (natVec (y / 2 ^ 2048))))) ∧
  (∀ s : State, HoldsLease s →
    ((∀ p ∈ (arrayOf s).flight, p.core ≠ s.cur.toNat % 4) → (∀ d ∈ (arrayOf s).drains, d.core ≠ s.cur.toNat % 4) →
      (∀ f ∈ s.pipe.flight, f.slot = .F → ∀ r, f.tgt ≠ .vreg r) → exec .fFence s = .next s) ∧
    ((∃ p ∈ (arrayOf s).flight, p.core = s.cur.toNat % 4) ∨ (∃ d ∈ (arrayOf s).drains, d.core = s.cur.toNat % 4) ∨
        (∃ f ∈ s.pipe.flight, f.slot = .F ∧ ∃ r, f.tgt = .vreg r) →
      exec .fFence s = .next (s.modPipe (fun p => { p with waits := true, empty := true })))) ∧
  (∀ (s : State) (a b : BitVec 6), HoldsLease s → s.me.fold.inj = true →
    (∀ p ∈ (arrayOf s).flight, s.pipe.count < p.due) →
    let i := (s.bridge a).toNat % 2 ^ 16
    let j := (s.bridge a).toNat / 2 ^ 16 % 2 ^ 16
    let d := (s.bridge b).toInt
    let x := arrayOf s
    exec (.fInject a b) s = .next (withArray s (fun _ =>
      if i < x.rows ∧ j < x.cols then { x with slots := setInt x.slots (i * 8192 + j) (fget 0 x.slots (i * 8192 + j) + d) }
      else if i = 0xFFFF ∧ j < x.cols then { x with kr := setInt x.kr j (fget 0 x.kr j + d) }
      else if j = 0xFFFF ∧ i < x.rows then { x with kc := setInt x.kc i (fget 0 x.kc i + d) }
      else x))) ∧
  (∀ (s : State) (a b : BitVec 6), HoldsLease s → s.me.fold.inj = false →
    exec (.fInject a b) s = .next (slotTraps s 0x03 0 .F)) ∧
  (∀ (s : State) (r : BitVec 1) (m : BitVec 2),
    let f := s.me.fold
    let v := BitVec.ofNat 64 (f.corr.toNat + 2 ^ 32 * f.lane.toNat + 2 ^ 48 * f.fail.toNat)
    let s1 := if r = 1 then s.modMe (fun c => { c with fold := { c.fold with corr := 0, lane := 0, fail := 0 } }) else s
    (f.lease = .held → exec (.fCscnt r m) s = .next (withResults s1 (resultsAt s .F 1 [.mail m.toNat] (wordVec v)))) ∧
    (f.lease ≠ .held → exec (.fCscnt r m) s = .next (s1.modMe (fun c => { c with olds := fset c.olds (4 + m.toNat) v }))))

/-- The lease of the fold array, and the opcodes that need it (R158 to R161, R164). -/
def Obligations.FoldLeases : Prop :=
  Claim.FoldLease ∧ Claim.ArrayOpcodesNeedLease

/-- The configuration, feed registers and other opcodes of F. -/
def Obligations.FoldSettings : Prop :=
  Claim.FoldConfiguration ∧ Claim.FeedRegisters ∧ Claim.FoldOther

/-- The steps of the fold array, as they issue and as they land (R166 to R170). -/
def Obligations.FoldStepsIssueAndLand : Prop :=
  Claim.FoldSteps ∧ Claim.FoldStepsLand

/-- The drains of the fold array, as they issue and as they land (R171 to R174). -/
def Obligations.FoldDrainsIssueAndLand : Prop :=
  Claim.FoldDrains ∧ Claim.DrainsLand

/-! ## Bytecode -/

/-- Arithmetic, comparison, skips and loops of a run: the program register and the next instruction R310 gives; an instruction
of an interpreter that runs no queue changes nothing. -/
def Obligations.BytecodeArithmetic : Prop :=
  (∀ (s : State) (q : Nat), RunsQueue s q →
    exec .qbNop s = .next (runNext s q) ∧
    (∀ (i : BitVec 16) (d : BitVec 3), exec (.qbLdc i d) s = .next (writesX s q d (BitVec.ofInt 64 i.toInt))) ∧
    (∀ (i : BitVec 16) (a d : BitVec 3),
      let x := xOf s q d
      let y := qbOperand s q i a
      exec (.qbAdd i a d) s = .next (writesX s q d (x + y)) ∧
      exec (.qbSub i a d) s = .next (writesX s q d (x - y)) ∧
      exec (.qbAnd i a d) s = .next (writesX s q d (x &&& y)) ∧
      exec (.qbOr i a d) s = .next (writesX s q d (x ||| y)) ∧
      exec (.qbXor i a d) s = .next (writesX s q d (x ^^^ y)) ∧
      exec (.qbShl i a d) s = .next (writesX s q d (x <<< (y.toNat % 64))) ∧
      exec (.qbShr i a d) s = .next (writesX s q d (BitVec.ofNat 64 (x.toNat / 2 ^ (y.toNat % 64))))) ∧
    (∀ c a d : BitVec 3, exec (.qbCmp c a d) s =
      .next (writesX s q d (if scalarCond c.toNat (xOf s q d) (xOf s q a) then 1 else 0))) ∧
    (∀ (n : BitVec 8) (d : BitVec 3),
      (xOf s q d = 0 → exec (.qbSkip n d) s = .next (s.modQueue q (fun x => { x with pc := x.pc + 1 + n.toNat }))) ∧
      (xOf s q d ≠ 0 → exec (.qbSkip n d) s = .next (runNext s q))) ∧
    (∀ n : BitVec 9, exec (.qbLoop n) s =
      .next (s.modQueue q (fun x => { x with lc := (x.pc, n.toNat) :: x.lc, pc := x.pc + 1 }))) ∧
    (∀ i k r, (s.queue q).lc = (i, k) :: r →
      (1 < k → exec .qbEndl s = .next (s.modQueue q (fun x => { x with lc := (i, k - 1) :: r, pc := i + 1 }))) ∧
      (k ≤ 1 → exec .qbEndl s = .next (s.modQueue q (fun x => { x with lc := r, pc := x.pc + 1 })))) ∧
    (∀ d : BitVec 3, exec (.qbRdclk d) s = .next (writesX s q d (BitVec.ofNat 64 ((s.now - s.boot.since) / 1000)))) ∧
    (∀ b : BitVec 4, exec (.qbBand b) s = .next (runNext (s.modQueue q (fun x => { x with lband := min b.toNat x.band })) q)) ∧
    (∀ (i : BitVec 16) (a : BitVec 3), exec (.qbDline i a) s = .next (runNext (s.modQueue q (fun x =>
      { x with ldl := some (s.now + ((xOf s q a).toNat % 2 ^ 32 + i.toNat) * 1000000) })) q)) ∧
    (∀ (i : BitVec 16) (a d : BitVec 3), exec (.qbArm i a d) s = .next (runNext (s.modQueue q (fun x =>
      { x with arm := some (BitVec.ofNat 128 (i.toNat + 2 ^ 16 + (xOf s q d).toNat % 2 ^ 32 * 2 ^ 32 +
        (xOf s q a).toNat * 2 ^ 64)) })) q))) ∧
  (∀ s : State, (s.disp (s.cur.toNat / 64)).run = none → ∀ i ∈
    [Instr.qbNop, .qbLdc 0 0, .qbLdw 0 0 0 0, .qbStw 0 0 0 0, .qbEndl, .qbLaunch 0 0 0 0, .qbChain 0, .qbCopy 0 0,
      .qbArrive 0 0 0, .qbWaitb 0 0 0, .qbWaitbWake 0, .qbSignal 0 0, .qbIrq 0, .qbFence, .qbCond 0 0 0 0, .qbDone, .qbFail 0],
    exec i s = .next s)

/-- Window accesses of a run: inside the window, through the context's translation, they read and write 8 bytes; past its end
the run fails with code 1; a page that is absent blocks the run, a fault or a poisoned line fails it (R310, R311, R318). A line of
another module is asked for first, and blocks the run until its home has answered; that a missing route fails the run as a poisoned
line does is the model's choice, log entry 141. -/
def Obligations.BytecodeMemory : Prop :=
  ∀ (s : State) (q : Nat) (w : BitVec 2) (o : BitVec 12) (a d : BitVec 3), RunsQueue s q →
    let x := s.queue q
    let va := (qbWindow s q w).1 + qbOffset s q o a
    let r := dispEnter x.home x.tag 0 va 8 s
    (qbOffset s q o a + 8 ≤ (qbWindow s q w).2 →
      (∀ pa, dispTry s q x.home x.tag 0 va 8 = .ok pa →
        exec (.qbLdw w o a d) s = .next (writesX r q d (BitVec.ofNat 64 (dispRead r q x.home x.tag va 8))) ∧
        (WorkDone s q → exec (.qbCond w o a d) s =
          .next (writesX r q d (BitVec.ofNat 64 (dispRead r q x.home x.tag va 8))))) ∧
      (∀ pa, dispTry s q x.home x.tag 1 va 8 = .ok pa →
        exec (.qbStw w o a d) s = .next (runNext
          (dispWrite x.home x.tag va 8 (xOf s q d).toNat (dispEnter x.home x.tag 1 va 8 s)) q)) ∧
      (∀ e, dispTry s q x.home x.tag 1 va 8 = .park e →
        exec (.qbStw w o a d) s = .next (postUnit x.home 7 x.tag (dispAt s x.home x.tag 1 va 8) e (runBlocks s q (.park e)))) ∧
      (∀ c, dispTry s q x.home x.tag 1 va 8 = .fault c → exec (.qbStw w o a d) s = .next (runFails s q 2 0)) ∧
      (dispTry s q x.home x.tag 1 va 8 = .poison → exec (.qbStw w o a d) s = .next (runFails s q 9 0)) ∧
      (∀ e, dispTry s q x.home x.tag 0 va 8 = .park e →
        exec (.qbLdw w o a d) s = .next (postUnit x.home 7 x.tag (dispAt s x.home x.tag 0 va 8) e (runBlocks s q (.park e)))) ∧
      (∀ c, dispTry s q x.home x.tag 0 va 8 = .fault c → exec (.qbLdw w o a d) s = .next (runFails s q 2 0)) ∧
      (dispTry s q x.home x.tag 0 va 8 = .poison → exec (.qbLdw w o a d) s = .next (runFails s q 9 0))) ∧
    ((qbWindow s q w).2 < qbOffset s q o a + 8 →
      exec (.qbLdw w o a d) s = .next (runFails s q 1 0) ∧ exec (.qbStw w o a d) s = .next (runFails s q 1 0)) ∧
    (WorkDone s q → exec .qbFence s = .next (runNext s q)) ∧
    (packetWork s q ((x.cur).getD 0) = true →
      exec .qbFence s = .next (runBlocks s q .work) ∧ exec (.qbCond w o a d) s = .next (runBlocks s q .work)) ∧
    (∀ c, packetWork s q ((x.cur).getD 0) = false → (runPacket s q).bind (fun p => p.workBad) = some c →
      exec .qbFence s = .next (runFails s q 11 c) ∧ exec (.qbCond w o a d) s = .next (runFails s q 11 c))

/-- Launches, chains, copies, barriers, wakes, signals, interrupts and ends of a run (R310, R317 to R319, R349, R356). Model's
readings: the flits and answers of a pod barrier of another module, log entry 35, and the k rights of class 2 that copies, signals and
interrupts need, log entry 54. -/
def Obligations.BytecodeControl : Prop :=
  (∀ (s : State) (q : Nat) (w : BitVec 2) (o : BitVec 12) (a d : BitVec 3), RunsQueue s q →
    let x := s.queue q
    let va := (qbWindow s q w).1 + qbOffset s q o a
    let r := dispEnter x.home x.tag 0 va 64 s
    qbOffset s q o a + 64 ≤ (qbWindow s q w).2 → (∃ pa, dispTry s q x.home x.tag 0 va 64 = .ok pa) →
    (∀ h t, launch q ((r.queue q).cur.getD 0) (launchRec r q va) r = (.inl h, t) →
      exec (.qbLaunch w o a d) s = .next (writesX t q d (BitVec.ofNat 64 h))) ∧
    (∀ c t, launch q ((r.queue q).cur.getD 0) (launchRec r q va) r = (.inr (.refuse c), t) →
      exec (.qbLaunch w o a d) s = .next (runFails t q 6 c)) ∧
    (∀ y e t, launch q ((r.queue q).cur.getD 0) (launchRec r q va) r = (.inr (.stop y (.park e)), t) →
      exec (.qbLaunch w o a d) s =
        .next (postUnit (t.queue q).home 7 (t.queue q).tag y e (runBlocks t q (.park e))))) ∧
  (∀ (s : State) (q : Nat) (w : BitVec 2) (o : BitVec 12) (a d : BitVec 3) (e : Nat), RunsQueue s q →
    let x := s.queue q
    let va := (qbWindow s q w).1 + qbOffset s q o a
    qbOffset s q o a + 64 ≤ (qbWindow s q w).2 → dispTry s q x.home x.tag 0 va 64 = .park e →
    exec (.qbLaunch w o a d) s =
      .next (postUnit x.home 7 x.tag (dispAt s x.home x.tag 0 va 64) e (runBlocks s q (.park e)))) ∧
  (∀ (s : State) (q : Nat) (w : BitVec 2) (o : BitVec 12) (a d : BitVec 3), RunsQueue s q →
    (qbWindow s q w).2 < qbOffset s q o a + 64 → exec (.qbLaunch w o a d) s = .next (runFails s q 1 0)) ∧
  (∀ (s : State) (q : Nat) (a : BitVec 3), RunsQueue s q →
    ((xOf s q a).toNat % 8 = 0 → (s.queue q).lvl < 4 → exec (.qbChain a) s =
      .next (runNext (s.modQueue q (fun x => { x with cblk := (xOf s q a).toNat, lvl := x.lvl + 1 })) q)) ∧
    ((xOf s q a).toNat % 8 = 0 → 4 ≤ (s.queue q).lvl → exec (.qbChain a) s = .next (runFails s q 3 0)) ∧
    ((xOf s q a).toNat % 8 ≠ 0 → exec (.qbChain a) s = .next (runFails s q 1 0))) ∧
  (∀ (s : State) (q : Nat) (c : BitVec 9) (d : BitVec 3), RunsQueue s q →
    let x := s.queue q
    ((s.chan c.toNat).tag = x.tag → hasRight s x.tag 2 3 3 = true → exec (.qbCopy c d) s =
      .next (runNext (s.modDisp x.home (fun y => { y with copies := y.copies ++ [(c.toNat, xOf s q d, q, (x.cur).getD 0)] })) q)) ∧
    ((s.chan c.toNat).tag ≠ x.tag ∨ hasRight s x.tag 2 3 3 = false → exec (.qbCopy c d) s = .next (runFails s q 10 0))) ∧
  (∀ (s : State) (q : Nat) (sc : BitVec 3) (n : BitVec 8) (a : BitVec 3), RunsQueue s q →
    let x := s.queue q
    let name := n.toNat + 2 ^ 8 * sc.toNat + 2 ^ 11 * ((xOf s q a).toNat % 2 ^ 9)
    (∀ b, farBar s name = false → arrRefused s name x.tag none none = none → barrierIndex name = some b →
      exec (.qbArrive sc n a) s = .next (runNext ((countArrival b none none (blast s 4 0 0)
        (BitVec.ofNat 64 ((s.now - s.boot.since) / 1000)) s).modQueue q
        (fun y => { y with arrived := (name, (s.bar b).phase.toNat) :: y.arrived.filter (fun e => e.1 ≠ name) })) q)) ∧
    (∀ r, farBar s name = false → arrRefused s name x.tag none none = some r → exec (.qbArrive sc n a) s = .next (runFails s q 10 r)) ∧
    (farBar s name = true → x.block ≠ .arrival name →
      exec (.qbArrive sc n a) s = .next (sendFar name x.tag
        (setView name { podView s name with fail := none } (runBlocks s q (.arrival name))))) ∧
    (farBar s name = true → x.block = .arrival name →
      exec (.qbArrive sc n a) s = .next (runFails s q 10 ((podView s name).fail.getD 6))) ∧
    (∀ b, barrierIndex name = some b → farBar s name = false → seenBar s name = some ((s.bar b).phase.toNat,
      if (s.bar b).on = false then some 5 else if (s.bar b).fail then some 6 else none)) ∧
    (barrierIndex name = none → exec (.qbWaitb sc n a) s = .next (runFails s q 10 1)) ∧
    (∀ b r, barrierIndex name = some b → x.block = .failed r → exec (.qbWaitb sc n a) s = .next (runFails s q 10 r)) ∧
    (farBar s name = true → x.block = .ask name →
      exec (.qbWaitb sc n a) s = .next (runFails s q 10 ((podView s name).fail.getD 6))) ∧
    (farBar s name = true → x.block = .none → x.arrived.any (fun e => e.1 = name) = false →
      exec (.qbWaitb sc n a) s = .next (sendFar name x.tag
        (setView name { podView s name with fail := none } (runBlocks s q (.ask name))))) ∧
    (∀ k f, seenBar s name = some (k, f) → (∃ p, x.block = .barrier name p) ∨
        (x.block = .none ∧ (farBar s name = true → x.arrived.any (fun e => e.1 = name) = true)) →
      let p := waitPhase x name k
      (pastBy k p = true → exec (.qbWaitb sc n a) s = .next (runNext s q)) ∧
      (pastBy k p = false → f = none → exec (.qbWaitb sc n a) s = .next (runBlocks s q (.barrier name p))) ∧
      (∀ r, pastBy k p = false → f = some r → exec (.qbWaitb sc n a) s = .next (runFails s q 10 r)))) ∧
  (∀ (s : State) (q : Nat) (d : BitVec 3), RunsQueue s q →
    ((s.queue q).wakep = true → exec (.qbWaitbWake d) s =
      .next (writesX (s.modQueue q (fun y => { y with wakep := false })) q d (s.queue q).wake)) ∧
    ((s.queue q).wakep = false → exec (.qbWaitbWake d) s = .next (runBlocks s q .wake))) ∧
  (∀ (s : State) (q : Nat) (a d : BitVec 3), RunsQueue s q →
    let t := (xOf s q a).toNat % 2 ^ 12
    let x := s.queue q
    (hasRight s x.tag 2 5 3 = true → (s.queue t).st = .undefined ∨ (s.queue t).tag = x.tag →
      exec (.qbSignal a d) s = .next (doorbell t (some (xOf s q d)) none (runNext s q))) ∧
    (hasRight s x.tag 2 5 3 = false ∨ ((s.queue t).st ≠ .undefined ∧ (s.queue t).tag ≠ x.tag) →
      exec (.qbSignal a d) s = .next (runFails s q 10 0))) ∧
  (∀ (s : State) (q : Nat) (v : BitVec 11), RunsQueue s q →
    (hasRight s (s.queue q).tag 2 5 3 = true → exec (.qbIrq v) s = .next (irqRequest v.toNat (runNext s q))) ∧
    (hasRight s (s.queue q).tag 2 5 3 = false → exec (.qbIrq v) s = .next (runFails s q 10 0))) ∧
  (∀ (s : State) (q : Nat) (f : BitVec 8), RunsQueue s q → exec (.qbFail f) s = .next (runFails s q 7 f.toNat)) ∧
  (∀ (s : State) (q : Nat), RunsQueue s q → Completes .qbDone s (fun t =>
    (t.queue q).st = .idle ∧ (t.queue q).cur = none ∧ (t.queue q).block = .none ∧ (t.disp (s.queue q).home).run ≠ some q)) ∧
  (∀ (s : State) (q code detail : Nat), (s.disp (s.queue q).home).run = some q →
    (((runFails s q code detail).queue q).st = .idle ∧ ((runFails s q code detail).queue q).cur = none))

/-! ## Results, loads, stores and atomics -/

/-- A result lands once its count is over, in the register its target names; one whose count is not over stays in flight. A write
of mail reaches its bytes, and sets full; the reserved bits [31:26] of a scale word read as zero (R2, R43); the old value of an atomic, or the value of a `cscnt`, reaches its register at the end of
the cycle (R23, R60 to R62, R66). -/
def Obligations.ResultsLand : Prop :=
  (∀ (s : State) (n : CoreId) (f : Flight), (regsOf s n).outr.flight = [] → (taskOf s n).flight = [f] →
    f.due < (taskOf s n).count → (∀ i, f.tgt ≠ .sys i) →
    Completes (.resultLanding n) s (fun t =>
      (taskOf t n).flight = [] ∧ MemorySame s t ∧ OthersSame s t n ∧
      (∀ r, f.tgt = .sreg r → (taskOf t n).s = vset (taskOf s n).s r (vecWord f.val) ∧ (regsOf t n).vec = (regsOf s n).vec) ∧
      (∀ r, f.tgt = .vreg r → (regsOf t n).vec = { (regsOf s n).vec with v := vset (regsOf s n).vec.v r f.val } ∧
        (taskOf t n).s = (taskOf s n).s) ∧
      (∀ r, f.tgt = .latch r → f.slot = .S → (taskOf t n).latch = vset (taskOf s n).latch r (vecWord f.val)) ∧
      (∀ r, f.tgt = .latch r → f.slot = .VA → (regsOf t n).vec.la = vset (regsOf s n).vec.la r f.val) ∧
      (∀ r, f.tgt = .latch r → f.slot = .VB → (regsOf t n).vec.lb = vset (regsOf s n).vec.lb r f.val) ∧
      (∀ m, f.tgt = .mask m → (taskOf t n).p = vset (taskOf s n).p m (BitVec.ofNat 256 f.val.toNat) ∧
        (f.slot, m, BitVec.ofNat 256 f.val.toNat) ∈ (taskOf t n).pOwn) ∧
      (∀ m, f.tgt = .mail m → (t.core n.toNat).mail = vset (s.core n.toNat).mail m ⟨vecWord f.val, true⟩) ∧
      (∀ k lo w, f.tgt = .scale k lo w → k < 8 → lo + w ≤ 2048 → ∀ b < 2048,
        (vget (regsOf t n).scale k 0).getLsbD b =
          (decide (b % 32 < 26) && if lo ≤ b ∧ b < lo + w then f.val.getLsbD (b - lo) else (vget (regsOf s n).scale k 0).getLsbD b)))) ∧
  (∀ (s : State) (n : CoreId) (f : Flight) (i : Nat), (regsOf s n).outr.flight = [] → (taskOf s n).flight = [f] →
    f.due < (taskOf s n).count → f.tgt = .sys i → i ≠ 0x1F0 →
    exec (.resultLanding n) s = .next (sysWrite n.toNat i (vecWord f.val) (s.modPipeOf n.toNat false (fun p => { p with flight := [] })))) ∧
  (∀ (s : State) (n : CoreId), (∀ f ∈ (taskOf s n).flight, (taskOf s n).count ≤ f.due) →
    (∀ f ∈ (regsOf s n).outr.flight, (regsOf s n).outr.count ≤ f.due) →
    Completes (.resultLanding n) s (fun t => regsOf t n = regsOf s n ∧ MemorySame s t ∧ OthersSame s t n)) ∧
  (∀ (s : State) (n : CoreId) (m : BitVec 2) (en : BitVec 8) (v : Word),
    let o := vget (s.core n.toNat).mail m.toNat ⟨0, false⟩
    Completes (.mailWrite n m en v) s (fun t =>
      let x := vget (t.core n.toNat).mail m.toNat ⟨0, false⟩
      (x.full = if en = 0 then o.full else true) ∧
      (∀ i < 8, lane 8 (wordVec x.value) i = if en.getLsbD i then lane 8 (wordVec v) i else lane 8 (wordVec o.value) i) ∧
      (∀ k < 4, k ≠ m.toNat → vget (t.core n.toNat).mail k ⟨0, false⟩ = vget (s.core n.toNat).mail k ⟨0, false⟩) ∧
      regsOf t n = regsOf s n ∧ MemorySame s t ∧ OthersSame s t n)) ∧
  (∀ (s : State) (n m : Nat) (v : Word), (s.core n).olds = [(m, v)] →
    let t := landMail n s
    (t.core n).mail = vset (s.core n).mail (m % 4) ⟨v, true⟩ ∧ (t.core n).olds = [] ∧ (t.core n).regs = (s.core n).regs ∧
    t.mem = s.mem ∧ ∀ k, k ≠ n → t.core k = s.core k)

/-- The reply to a load that may be performed delivers what its home, or for a plain load its own L1, holds, and the load leaves
the queue; any other load drops that L1's copy, and an acquire wider than the core empties the L1; a probe delivers its walk; a page
is requested; a prefetched line enters the L1. A load of another module's memory sends a request over the links, waits for its reply,
and traps XLAT_PERM where that refuses it (R133, R137, R140, R150, R230, R249, R359, R368, R397, R398). -/
def Obligations.LoadsReply : Prop :=
  (∀ (s : State) (n : CoreId) (i : BitVec 6) (r : Req LdOp) (pa : Nat) (units : BitVec 33), ReadyLoad s n i r pa →
    units.getLsbD 32 = true →
    ((∃ c, r.op = .acq c) ∨ r.op = .nt ∨ r.op = .stamp ∨ r.op = .lds ∨ (∃ m, r.op = .ldr m) ∨
        (r.op = .plain ∧ (hasHome pa = false ∨ l1Get (s.core n.toNat).cache.l1 (pa / 128) = none)) →
      let u := if emptiesL1 r.op then s.modL1 n.toNat (fun _ => []) else s
      Completes (.loadReply n i units) s (fun t =>
        (taskOf t n).lq = (taskOf s n).lq.eraseIdx i.toNat ∧
        (taskOf t n).ldq = delivered r (deliver r.how (busRead u (regsOf s n).id.tag pa r.ulen)) (taskOf s n).ldq ∧
        (emptiesL1 r.op = true → (t.core n.toNat).cache.l1 = []) ∧
        (r.op ≠ .plain → fget? (t.core n.toNat).cache.l1 (pa / 128) = none) ∧
        (r.op = .plain → hasHome pa = true → (l1Get (t.core n.toNat).cache.l1 (pa / 128)).isSome = true) ∧
        MemorySame s t ∧ OthersSame s t n))) ∧
  (∀ (s : State) (n : CoreId) (i : BitVec 6) (r : Req LdOp) (pa : Nat) (units : BitVec 33), NextLoad s n i r pa →
    units.getLsbD 32 = true →
    (∀ line, r.op = .plain → hasHome pa = true → l1Get (s.core n.toNat).cache.l1 (pa / 128) = some line →
      Completes (.loadReply n i units) s (fun t =>
        (taskOf t n).lq = (taskOf s n).lq.eraseIdx i.toNat ∧
        (taskOf t n).ldq = delivered r
          (deliver r.how (line.toNat / 2 ^ (8 * (pa % 128)) % 2 ^ (8 * r.ulen))) (taskOf s n).ldq ∧
        MemorySame s t ∧ OthersSame s t n))) ∧
  (∀ (s : State) (pa : Nat) (t : Nat), PlainBytes s pa 1 → busRead s t pa 1 = (Memory.get s.mem pa).toNat) ∧
  (∀ (s : State) (n : CoreId) (i : BitVec 6) (r : Req LdOp) (units : BitVec 33), (taskOf s n).lq[i.toNat]? = some r →
    r.park = none → r.due = none →
    (r.op = .xlat → Completes (.loadReply n i units) s (fun t =>
      (taskOf t n).lq = (taskOf s n).lq.eraseIdx i.toNat ∧
      (taskOf t n).ldq = delivered r (natVec (probe n.toNat r.va.toNat s).1) (taskOf s n).ldq ∧
      MemorySame s t ∧ OthersSame s t n)) ∧
    (∀ last, r.op = .preq last → (s.quad (n.toNat / 4)).pageReq.length < 64 → Completes (.loadReply n i units) s (fun t =>
      (∃ x ∈ (t.quad (n.toNat / 4)).pageReq ++ (t.quad (n.toNat / 4)).posters,
        x.page = r.va.toNat ∧ x.tag = (regsOf s n).id.tag) ∧
      (last ≤ r.va.toNat → (taskOf t n).lq = (taskOf s n).lq.eraseIdx i.toNat) ∧
      (r.va.toNat < last → (taskOf t n).lq[i.toNat]? = some { r with va := r.va + 1 }) ∧ MemorySame s t ∧ OthersSame s t n)) ∧
    (∀ l1, r.op = .pf l1 → Completes (.loadReply n i units) s (fun t =>
      (taskOf t n).lq = (taskOf s n).lq.eraseIdx i.toNat ∧ (taskOf t n).ldq = (taskOf s n).ldq ∧
      (l1 = true → poisoned s (r.units.getD 0 0) = false → podOf s (r.units.getD 0 0) = none →
        (l1Get (t.core n.toNat).cache.l1 (r.units.getD 0 0 / 128)).isSome = true) ∧ MemorySame s t ∧ OthersSame s t n))) ∧
  (∀ (s : State) (n : CoreId) (i : BitVec 6) (r : Req LdOp) (pa : Nat) (units : BitVec 33), NextLoad s n i r pa →
    (podOf s pa).isSome = true → units.getLsbD 32 = true →
    r.op = .nt ∨ (∃ m, r.op = .ldr m) ∨ (∃ c, r.op = .acq c) ∨ r.op = .stamp ∨
      (r.op = .plain ∧ (hasHome pa = false ∨ l1Get (s.core n.toNat).cache.l1 (pa / 128) = none)) →
    let u := if emptiesL1 r.op then s.modL1 n.toNat (fun _ => []) else s
    let w := PodWho.access n.toNat false false r.id 0
    (NotAsked s n false r.id → exec (.loadReply n i units) s =
      .next (if r.op = .plain then awaitCopy n.toNat pa w s (podSend w (regsOf s n).id.tag 0 pa s)
        else podSend w (regsOf s n).id.tag 0 pa u)) ∧
    (Unanswered s n false r.id → exec (.loadReply n i units) s = .next u) ∧
    (∀ f, Answered s n false r.id f → Completes (.loadReply n i units) s (fun t =>
      (if Config.flitRefused f = true then
        (∃ x, (taskOf t n).lq[i.toNat]? = some x ∧ x.bad = some (cXLAT_PERM, r.va) ∧ x.park.isSome = true) ∧
        (taskOf t n).ldq = (taskOf s n).ldq
      else (taskOf t n).lq = (taskOf s n).lq.eraseIdx i.toNat ∧
        (taskOf t n).ldq = delivered r (deliver r.how (replyBytes f pa r.ulen)) (taskOf s n).ldq ∧
        (r.op ≠ .plain → fget? (t.core n.toNat).cache.l1 (pa / 128) = none)) ∧
      (emptiesL1 r.op = true → (t.core n.toNat).cache.l1 = []) ∧
      (r.op = .plain → (t.core n.toNat).cache.l1 = (s.core n.toNat).cache.l1) ∧
      NotAsked t n false r.id ∧ MemorySame s t ∧ OthersSame s t n)))

/-- The kinds of request of the store queue as they are performed: a store writes its bytes; `wb` and `inv` act on their line; a
discarded line reads as zeros; a mark or fence ends once the accesses before it are performed; mail, tokens, arrivals and
doorbells take effect after the stores before them and the acquires before them. A store to another module's memory sends a
request, and ends with its reply (R138, R139, R141, R145, R147, R148, R191, R305, R347). -/
def Obligations.StoresPerformed : Prop :=
  (∀ (s : State) (n : CoreId) (i : BitVec 6) (r : Req StOp) (pa : Nat) (units : BitVec 33), Memory.wf s.mem = true →
    ReadyStore s n i r pa → units.getLsbD 32 = true → PlainBytes s pa r.ulen → r.ulen ≤ 256 →
    r.op = .plain ∨ r.op = .nt ∨ (∃ c, r.op = .rel c) → (r.op = .rel 0 → allBefore (taskOf s n) (keyW r) = true) →
    Completes (.storePerformed n i units) s (fun t =>
      LeavesStore s t n i r ∧ WritesBytes s t pa r.ulen r.val.toNat ∧ (r.op = .nt → 0 < r.ulen → t.dirty = s.dirty) ∧ (∀ m, (t.core m).regs.task.s = (s.core m).regs.task.s) ∧
      OthersSame s t n)) ∧
  (∀ (s : State) (n : CoreId) (i : BitVec 6) (r : Req StOp) (pa : Nat) (units : BitVec 33), ReadyStore s n i r pa → r.ulen = 128 →
    (r.op = .wb → Completes (.storePerformed n i units) s (fun t =>
      LeavesStore s t n i r ∧ t.dirty = s.dirty.filter (fun x => x ≠ pa / 128) ∧ MemorySame s t ∧ OthersSame s t n)) ∧
    (r.op = .inv → Completes (.storePerformed n i units) s (fun t =>
      LeavesStore s t n i r ∧ (t.core n.toNat).cache.l1 = fdel (s.core n.toNat).cache.l1 (pa / 128) ∧ MemorySame s t ∧
      OthersSame s t n)) ∧
    (r.op = .discard → Memory.wf s.mem = true → pa % 128 = 0 → PlainBytes s pa 128 → Completes (.storePerformed n i units) s (fun t =>
      LeavesStore s t n i r ∧ WritesBytes s t pa 128 0 ∧ pa / 128 ∉ t.dirty ∧ pa / 128 ∉ t.poison ∧ OthersSame s t n))) ∧
  (∀ (s : State) (n : CoreId) (i : BitVec 6) (r : Req StOp) (units : BitVec 33), (taskOf s n).sq[i.toNat]? = some r →
    (r.op = .mark ∨ (∃ c, r.op = .fence c) → sent (taskOf s n) (keyW r) = true → allBefore (taskOf s n) (keyW r) = true →
      Completes (.storePerformed n i units) s (fun t =>
      LeavesStore s t n i r ∧ MemorySame s t ∧ OthersSame s t n)) ∧
    (∀ c m, r.op = .mailw c m → sent (taskOf s n) (keyW r) = true → storesBefore (taskOf s n) i.toNat = true →
      inOrderPlain (taskOf s n) (keyW r) = true → Completes (.storePerformed n i units) s (fun t =>
      LeavesStore s t n i r ∧ (t.core c).mail = vset (s.core c).mail m ⟨vecWord r.val, true⟩ ∧
      (∀ k, k ≠ c → (t.core k).mail = (s.core k).mail) ∧ MemorySame s t)) ∧
    (∀ mask, r.op = .tkset mask → sent (taskOf s n) (keyW r) = true → storesBefore (taskOf s n) i.toNat = true →
      inOrderPlain (taskOf s n) (keyW r) = true → Completes (.storePerformed n i units) s (fun t =>
      LeavesStore s t n i r ∧ MemorySame s t ∧ ∀ k < 64, (vget (regsOf t n).tok k Token.reset).st =
        if mask.testBit k ∧ ((vget (regsOf s n).tok k Token.reset).st = .held ∨ (vget (regsOf s n).tok k Token.reset).st = .failed)
        then .ready else (vget (regsOf s n).tok k Token.reset).st)) ∧
    (∀ c name j, r.op = .arrive c name j → sent (taskOf s n) (keyW r) = true → releases (s.core n.toNat) false r = true →
      Completes (.storePerformed n i units) s (fun t =>
        LeavesStore s t n i r ∧ MemorySame s t ∧ OthersSame s t n ∧
        ∃ x : Arrival, t.arrivals = s.arrivals ++ [x] ∧ x.what = .arrival ∧ x.name = name ∧ x.tag = (regsOf s n).id.tag)) ∧
    (∀ wake q, r.op = .ring wake q → sent (taskOf s n) (keyW r) = true → storesBefore (taskOf s n) i.toNat = true →
      inOrderPlain (taskOf s n) (keyW r) = true →
      (s.queue q).st = .undefined ∨ (s.queue q).tag = (regsOf s n).id.tag →
      exec (.storePerformed n i units) s = .next (doorbell q (if wake then some (vecWord r.val) else none)
        (if wake then none else some (BitVec.ofNat 32 (vecWord r.val).toNat)) (endStore n.toNat false i.toNat r s))) ∧
    (∀ pa, r.op = .apw → r.units.getD 0 0 = pa → engineTurn (taskOf s n) i.toNat r = true →
      (s.chan (chanOf pa)).tag = (regsOf s n).id.tag → hasRight s (regsOf s n).id.tag 0 3 1 = true →
      pa % 0x10000 < 0x200 ∨ shadowBusy (s.chan (chanOf pa)) = false →
      exec (.storePerformed n i units) s = .next (chanWrite (chanOf pa) (pa % 0x10000) (vecWord r.val)
        (endStore n.toNat false i.toNat r s)))) ∧
  (∀ (s : State) (n : CoreId) (i : BitVec 6) (r : Req StOp) (pa : Nat) (units : BitVec 33), NextStore s n i r pa →
    (podOf s pa).isSome = true → isArrive pa = false → units.getLsbD 32 = true → r.op = .plain ∨ r.op = .nt ∨ (∃ c, r.op = .rel c) →
    (r.op = .rel 0 → allBefore (taskOf s n) (keyW r) = true) →
    (NotAsked s n true r.id → exec (.storePerformed n i units) s =
      .next (podSend (.access n.toNat false true r.id 0) (regsOf s n).id.tag 1 pa s)) ∧
    (Unanswered s n true r.id → exec (.storePerformed n i units) s = .next s) ∧
    (∀ f, Answered s n true r.id f → Completes (.storePerformed n i units) s (fun t =>
      (if Config.flitRefused f = true then
        ∃ x, (taskOf t n).sq[i.toNat]? = some x ∧ x.bad = some (cXLAT_PERM, r.va) ∧ x.park.isSome = true
      else LeavesStore s t n i r) ∧
      NotAsked t n true r.id ∧ MemorySame s t ∧ OthersSame s t n)))

/-- An atomic executes at its home in one step: memory takes the new value, and the mail register will take the old one at the end of
the cycle; it drops the core's own copy of the line, and an acquire wider than the core all of its L1; `add`, `min` and `max` of f32
round as R41 and R39 say. An atomic on another module's memory sends a request, whose reply carries the old value (R143, R144, R368). -/
def Obligations.AtomicsExecute : Prop :=
  (∀ (s : State) (n : CoreId) (i : BitVec 6) (r : Req StOp) (pa op ty b : Nat) (ret cas acq rel : Option Nat),
    Memory.wf s.mem = true → ReadyStore s n i r pa → r.op = .amo op ty ret b cas acq rel → poisoned s pa = false → r.ulen = amoWidth ty / 8 →
    PlainBytes s pa r.ulen → (∀ k, rel = some (k + 1) → allBefore (taskOf s n) (keyW r) = true) →
    (∀ m, ret = some m → m < 4) →
    let old := Memory.read s.mem pa r.ulen
    Completes (.atomicExecute n i) s (fun t =>
      LeavesStore s t n i r ∧ OthersSame s t n ∧
      WritesBytes s t pa r.ulen (match cas with | some e => if old = e then b else old | none => atomicNew op ty old b) ∧
      (∀ m, ret = some m → (t.core n.toNat).olds = fset (s.core n.toNat).olds m (BitVec.ofNat 64 old)) ∧
      (ret = none → (t.core n.toNat).olds = (s.core n.toNat).olds) ∧ (t.core n.toNat).mail = (s.core n.toNat).mail ∧
      fget? (t.core n.toNat).cache.l1 (pa / 128) = none ∧
      (∀ k, acq = some (k + 1) → (t.core n.toNat).cache.l1 = []))) ∧
  (∀ (s : State) (n : CoreId) (i : BitVec 6) (r : Req StOp) (pa op ty b : Nat) (ret cas acq rel : Option Nat),
    NextStore s n i r pa → r.op = .amo op ty ret b cas acq rel → r.ulen = amoWidth ty / 8 → (podOf s pa).isSome = true →
    poisoned s pa = false → (∀ k, rel = some (k + 1) → allBefore (taskOf s n) (keyW r) = true) → (∀ m, ret = some m → m < 4) →
    (NotAsked s n true r.id → exec (.atomicExecute n i) s =
      .next (podSend (.access n.toNat false true r.id 0) (regsOf s n).id.tag 2 pa s)) ∧
    (Unanswered s n true r.id → exec (.atomicExecute n i) s = .next s) ∧
    (∀ f, Answered s n true r.id f → Completes (.atomicExecute n i) s (fun t =>
      (if Config.flitRefused f = true then
        ∃ x, (taskOf t n).sq[i.toNat]? = some x ∧ x.bad = some (cXLAT_PERM, r.va) ∧ x.park.isSome = true
      else LeavesStore s t n i r ∧ fget? (t.core n.toNat).cache.l1 (pa / 128) = none ∧
        (∀ m, ret = some m →
          (t.core n.toNat).olds = fset (s.core n.toNat).olds m (BitVec.ofNat 64 (replyBytes f pa r.ulen))) ∧
        (∀ k, acq = some (k + 1) → (t.core n.toNat).cache.l1 = [])) ∧ OthersSame s t n))) ∧
  (∀ ty old b : Nat, old < 2 ^ amoWidth ty → b < 2 ^ amoWidth ty →
    (ty ≠ 4 → atomicNew 0 ty old b = (old + b) % 2 ^ amoWidth ty) ∧
    (ty ≠ 4 → ∀ k, (atomicNew 1 ty old b).testBit k = (old.testBit k && b.testBit k) ∧
      (atomicNew 2 ty old b).testBit k = (old.testBit k || b.testBit k) ∧
      (atomicNew 3 ty old b).testBit k = (old.testBit k ^^ b.testBit k)) ∧
    (ty = 0 ∨ ty = 2 → twos (amoWidth ty) (atomicNew 4 ty old b) = min (twos (amoWidth ty) old) (twos (amoWidth ty) b) ∧
      twos (amoWidth ty) (atomicNew 5 ty old b) = max (twos (amoWidth ty) old) (twos (amoWidth ty) b)) ∧
    (ty = 1 ∨ ty = 3 → atomicNew 4 ty old b = min old b ∧ atomicNew 5 ty old b = max old b) ∧
    (ty = 4 → atomicNew 0 ty old b = fpElem 8 (fAdd (elemFp 8 old) (elemFp 8 b)) ∧
      atomicNew 4 ty old b = fpElem 8 (fMin (elemFp 8 old) (elemFp 8 b)) ∧
      atomicNew 5 ty old b = fpElem 8 (fMax (elemFp 8 old) (elemFp 8 b))) ∧
    atomicNew 6 ty old b = b)

/-- A wait reads its word when its line is written, snooped or polled, and at its limit: where the condition holds the word is
delivered as by an acquire, past the limit as it stands, and the wait leaves the queue; else it goes on. A wait first reads at its
reply, then when a monitored line is written or snooped, or without a monitor 1 µs after it last has (R146, R352, R353). Which lines
have a monitor is the model's choice, log entry 110. -/
def Obligations.WaitsDeliver : Prop :=
  (∀ (s : State) (n : CoreId) (i : BitVec 6) (r : Req LdOp) (pa cmp c : Nat) (ne : Bool), ReadyLoad s n i r pa →
    r.op = .wait ne c cmp →
    let v := busRead s (regsOf s n).id.tag pa r.ulen
    let tick := Instr.waitPollTick n i
    let key := waitKey n.toNat false r.id
    let due := ∃ t, fget? s.polled key = some t ∧ t + 1000000 ≤ s.now ∧ monitored s pa = false
    (∀ e, (e = tick ∧ due) ∨ (∃ units, e = .loadReply n i units ∧ fget? s.polled key = none) →
      ((if ne then v ≠ cmp else v = cmp) → Completes e s (fun t =>
        (taskOf t n).lq = (taskOf s n).lq.eraseIdx i.toNat ∧ (taskOf t n).ldq = delivered r (deliver r.how v) (taskOf s n).ldq ∧
        (c ≠ 0 → (t.core n.toNat).cache.l1 = []) ∧ MemorySame s t ∧ OthersSame s t n)) ∧
      (¬(if ne then v ≠ cmp else v = cmp) →
        (regsOf s n).lim.waitlim.toNat = 0 ∨ s.now < r.since + (regsOf s n).lim.waitlim.toNat * 1000000 →
        exec e s = .next (noteTest key pa s))) ∧
    (¬due → exec tick s = .next s) ∧
    (∀ units t, fget? s.polled key = some t → exec (.loadReply n i units) s = .next s) ∧
    ((regsOf s n).lim.waitlim.toNat ≠ 0 → r.since + (regsOf s n).lim.waitlim.toNat * 1000000 ≤ s.now →
      Completes (.waitTimeout n i) s (fun t =>
        (taskOf t n).lq = (taskOf s n).lq.eraseIdx i.toNat ∧ (taskOf t n).ldq = delivered r (deliver r.how v) (taskOf s n).ldq ∧
        ((if ne then v ≠ cmp else v = cmp) → c ≠ 0 → (t.core n.toNat).cache.l1 = []) ∧ MemorySame s t ∧ OthersSame s t n)) ∧
    ((regsOf s n).lim.waitlim.toNat = 0 ∨ s.now < r.since + (regsOf s n).lim.waitlim.toNat * 1000000 →
      exec (.waitTimeout n i) s = .next s)) ∧
  (∀ (s : State) (pa : Pa) (n : CoreId) (r : Req LdOp) (cmp c : Nat) (ne : Bool) (x : Core), s.cores = [(n.toNat, x)] →
    x.regs.outr.lq = [] → x.regs.task.lq = [r] → ReadyLoad s n 0 r pa.toNat → r.op = .wait ne c cmp → pa.toNat / 128 ∈ s.monitors →
    let v := busRead s (regsOf s n).id.tag pa.toNat r.ulen
    (if ne then v ≠ cmp else v = cmp) →
    Completes (.waitMonitorWrite pa) s (fun t =>
      (taskOf t n).lq = [] ∧ (taskOf t n).ldq = delivered r (deliver r.how v) (taskOf s n).ldq ∧ MemorySame s t) ∧
    (isHost pa.toNat = true → Completes (.hostSnoop pa) s (fun t =>
      (taskOf t n).lq = [] ∧ (taskOf t n).ldq = delivered r (deliver r.how v) (taskOf s n).ldq ∧ MemorySame s t))) ∧
  (∀ (s : State) (pa : Pa), pa.toNat / 128 ∉ s.monitors ∨ (∀ e ∈ s.cores, e.2.regs.task.lq = [] ∧ e.2.regs.outr.lq = []) →
    exec (.waitMonitorWrite pa) s = .next s ∧ exec (.hostSnoop pa) s = .next s)

/-! ## Limits -/

/-- The limits of waits, of the watchdog and of parks end in the traps that the spec gives them, or suspend the task; a core with
no wait, watchdog or park is left alone (R98, R192, R247, R263, R272, R274, R348). TSLOT 0 of WDOG_EXPIRED, the parked access that
PARK_TIMEOUT names and what the image of a suspended task holds are the model's readings, log entries 63, 56 and 58. -/
def Obligations.LimitsTrap : Prop :=
  (∀ (s : State) (n : CoreId) (b : Bundle), HeldFor s n 0 0x1C b →
    (vget (s.core n.toNat).mail (field b.bits 48 2) ⟨0, false⟩).full = false →
    Completes (.mailTimeout n) s (fun t => TrapTaken s t n 0x0C (BitVec.ofNat 64 (field b.bits 48 2)) 1 b.addr)) ∧
  (∀ (s : State) (n : CoreId) (b : Bundle) (mask : Word),
    (HeldFor s n 6 0x15 b ∧ mask = BitVec.ofNat 64 (2 ^ field b.bits 32 6)) ∨
    (HeldFor s n 6 0x16 b ∧ 48 ≤ field b.bits 32 6 ∧ field b.bits 32 6 < 56 ∧
      mask = if b.land = true ∨ b.bits.getLsbD 63 = true then vget (taskOf s n).s (field b.bits 32 6 - 48) 0
        else vget (taskOf s n).bridge (field b.bits 32 6 - 48) 0) →
    tokensIn (at' s n) mask (fun t => t = .failed) = 0 → tokensIn (at' s n) mask (fun t => t ≠ .ready) ≠ 0 →
    Completes (.tokenTimeout n) s (fun t => TrapTaken s t n 0x24 (tokensIn (at' s n) mask (fun t => t ≠ .ready)) 1 b.addr)) ∧
  (∀ (s : State) (n : CoreId) (b : Bundle), HeldFor s n 6 0x18 b →
    let e := vget (regsOf s n).arr (field b.bits 32 4) ArrEntry.reset
    e.armed = true → e.refused = none → e.fail = none → ¬PhaseOver e →
    Completes (.barrierTimeout n) s (fun t => TrapTaken s t n 0x28 (BitVec.ofNat 64 e.name) 1 b.addr)) ∧
  (∀ (s : State) (n : CoreId), (regsOf s n).hold = none →
    exec (.mailTimeout n) s = .next s ∧ exec (.tokenTimeout n) s = .next s ∧ exec (.barrierTimeout n) s = .next s) ∧
  (∀ (s : State) (n : CoreId) (b : Bundle) (r : List Bundle), (s.core n.toNat).issues = true → (regsOf s n).out = .off →
    (taskOf s n).bq = b :: r → (taskOf s n).after = none → (regsOf s n).lim.wdLimit ≠ 0 → (regsOf s n).lim.fired = false →
    (regsOf s n).lim.wdLimit.toNat < (regsOf s n).lim.wdcnt.toNat + 1 →
    Completes (.wdogExpired n) s (fun t =>
      TrapTaken s t n 0x25 ((regsOf s n).lim.wdcnt.setWidth 64) 0 b.addr ∧ (regsOf t n).lim.fired = true)) ∧
  (∀ (s : State) (n : CoreId), (regsOf s n).lim.wdLimit = 0 → exec (.wdogExpired n) s = .next s) ∧
  (∀ (s : State) (n : CoreId) (r : Req LdOp) (l : List (Req LdOp)), (s.core n.toNat).issues = true → (regsOf s n).out = .off →
    (regsOf s n).run = .running → ParkedFor s n (regsOf s n).lim.parkWd.toNat → (s.core n.toNat).cache.walkF = [] →
    (taskOf s n).lq = r :: l → r.park.isSome = true →
    Completes (.parkTimeout n) s (fun t => TrapTaken s t n 0x26 r.va 4 r.addr ∧ (regsOf t n).lim.parkFrom = none)) ∧
  (∀ (s : State) (n : CoreId), (regsOf s n).lim.parkWd = 0 → (s.core n.toNat).susp = [] →
    exec (.parkTimeout n) s = .next s) ∧
  (∀ (s : State) (n : CoreId) (e : Nat), (s.core n.toNat).live = true → (regsOf s n).out = .off →
    ParkedFor s n (regsOf s n).lim.parkLimit.toNat → parkedOn (s.core n.toNat) = some e →
    holdsArray (s.core n.toNat) = false → suspCount s (regsOf s n).id.tag < (s.ctx (regsOf s n).id.tag).maxsusp →
    (∀ x ∈ (s.core n.toNat).susp, x.ready = false) →
    Completes (.parkLimitSuspend n) s (fun t =>
      regsOf t n = CoreRegs.reset ∧ MemorySame s t ∧ OthersSame s t n ∧
      ∃ x : Susp, (t.core n.toNat).susp = (s.core n.toNat).susp ++ [x] ∧ x.entry = e ∧ x.ready = false ∧
        x.image = { regsOf s n with task := (taskOf s n).resend, outr := (regsOf s n).outr.resend } ∧ x.fold = (s.core n.toNat).fold ∧
        x.watch = (s.core n.toNat).watch ∧ x.mail = (s.core n.toNat).mail)) ∧
  (∀ (s : State) (n : CoreId), (regsOf s n).lim.parkLimit = 0 → exec (.parkLimitSuspend n) s = .next s)

/-! ## Walks, wakes, fetch and page entry -/

/-- A walk reads one entry of each level and ends in a leaf of 1 GiB, 2 MiB, 64 KiB or 4 KiB, a trap or a park as the entries say
(R239 to R242, R244). -/
def Obligations.WalksFollowTables : Prop :=
  (∀ (s : State) (tag va kind k : Nat) (e : Nat → Nat), va < 2 ^ 60 → kind < 4 → WalkReads s tag va e k → GoodLeaf (e k) va k →
    let n := leafLog (e k) k
    (leafPermits (e k) kind = true → (e k).testBit 5 = true → ∃ l : Leaf,
      walkRes tag va kind (walkRoot s tag va) = some (.leaf l) ∧
      ∀ x, x / 2 ^ n = va / 2 ^ n → l.hits tag x = true ∧ l.pa x = e k % 2 ^ 52 / 2 ^ n * 2 ^ n + x % 2 ^ n) ∧
    (leafPermits (e k) kind = false → walkRes tag va kind (walkRoot s tag va) = some (.trap 0x14)) ∧
    (leafPermits (e k) kind = true → (e k).testBit 5 = false →
      walkRes tag va kind (walkRoot s tag va) = some (.park (walkAt s tag va e k)))) ∧
  (∀ (s : State) (tag va kind k : Nat) (e : Nat → Nat), 1 ≤ k → k ≤ 5 → WalkReads s tag va e k →
    (e k % 4 = 0 → walkRes tag va kind (walkRoot s tag va) = some (.park (walkAt s tag va e k))) ∧
    (e k % 4 = 2 → walkRes tag va kind (walkRoot s tag va) = some (.trap 0x12)) ∧
    (e k % 2 = 1 → 2 ^ 52 ≤ e k → walkRes tag va kind (walkRoot s tag va) = some (.trap 0x13)))

/-- Events of translation and fetch: a walk gives its result to the access that asked for it and enters the caches; a page request
leaves its mailbox; a waking write lets a parked load walk again; a window's fill copies its page; a bundle is fetched as memory
holds it, and a landing is entered where its page's header places it (R20, R90, R242, R246, R249, R253, R279, R281, R282). That a
fill takes its queue entry in bundle order is the model's choice, log entry 129. -/
def Obligations.WalksAndFetch : Prop :=
  (∀ (s : State) (n : CoreId) (w : Walk) (r : WalkRes), w.res = none →
    walkRes (regsOf s n).id.tag w.va.toNat w.kind (walkCached s (n.toNat / 4) (regsOf s n).id.tag w.va.toNat) = some r →
    ((s.core n.toNat).cache.walkL = [w] → NoLeaf s n false w.va.toNat → Completes (.translationWalk (.slotL n)) s (fun t =>
      (t.core n.toNat).cache.walkL = [{ w with res := some r }] ∧ WalkEnters s t n false w.va.toNat w.kind r)) ∧
    ((s.core n.toNat).cache.walkW = [w] → NoLeaf s n false w.va.toNat → Completes (.translationWalk (.slotW n)) s (fun t =>
      (t.core n.toNat).cache.walkW = [{ w with res := some r }] ∧ WalkEnters s t n false w.va.toNat w.kind r)) ∧
    ((s.core n.toNat).cache.walkF = [w] → NoLeaf s n true w.va.toNat → Completes (.translationWalk (.fetch n)) s (fun t =>
      (t.core n.toNat).cache.walkF = [{ w with res := some r }] ∧ WalkEnters s t n true w.va.toNat w.kind r))) ∧
  (∀ (s : State) (q : Nat) (tag va : Nat), (s.quad q).walks = [] → walkCached s q tag va = walkRoot s tag va) ∧
  (∀ (s : State) (q : QuadId), Completes (.pageRequestTaken q) s (fun t =>
    (t.quad q.toNat).pageReq = (s.quad q.toNat).pageReq.tail ++ (s.quad q.toNat).posters.take 1 ∧
    (t.quad q.toNat).posters = (s.quad q.toNat).posters.drop 1 ∧ MemorySame s t ∧ ∀ m, t.core m = s.core m)) ∧
  (∀ (s : State) (pa : Pa) (n : CoreId) (x : Core) (r : Req LdOp) (e : Nat) (l : Leaf), s.cores = [(n.toNat, x)] → x.susp = [] →
    x.regs.outr.lq = [] → x.regs.outr.sq = [] → x.regs.out = .off → x.regs.task.lq = [r] → x.regs.task.sq = [] →
    (∀ w ∈ x.regs.wins.toList, ∀ y ∈ w.slots, ∀ k b a, y.1 ≠ .missing k b a) → r.park = some e → r.n = 1 → 0 < r.ulen → (∀ m, r.op ≠ .ldr m) →
    podOf s e = none →
    r.va.toNat / 4096 = (r.va.toNat + r.ulen - 1) / 4096 → e / 128 = pa.toNat / 128 →
    (Memory.read s.mem e 8).testBit 0 = true → (Memory.read s.mem e 8).testBit 1 = false ∨ (Memory.read s.mem e 8).testBit 5 = true →
    WalksTo s n r.va.toNat 0 l →
    (∀ a ∈ wordsOf r.va.toNat r.ulen, accessFaultOf s x.regs.id.tag 0 (l.pa a) a = none ∧ loadOwn r (l.pa a) = none) →
    Completes (.wake pa) s (fun t =>
      (taskOf t n).lq = [{ r with park := none, bad := none, again := false, units := [l.pa r.va.toNat] }] ∧
      (t.core n.toNat).cache.l1 = [] ∧ (taskOf t n).s = (taskOf s n).s ∧ MemorySame s t)) ∧
  (∀ (s : State) (n : CoreId) (w : BitVec 3) (g : BitVec 9) (i : Nat) (r : Req LdOp) (l : Leaf),
    let u := at' s n
    let va := (u.win w.toNat).slotVa g.toNat
    Memory.wf s.mem = true → (taskOf s n).lq[i]? = some r → r.op = .fill w.toNat g.toNat →
    (∀ x ∈ (taskOf s n).lq.eraseIdx i ++ (regsOf s n).outr.lq, x.op ≠ .fill w.toNat g.toNat) →
    hasEntry (taskOf s n) isFill (taskOf s n).lq i = true → r.units = [] ∨ r.units = fillLines l va → (∀ k ∈ r.todo, k < 32) →
    va + 4096 ≤ 2 ^ 60 → va % 4096 = 0 →
    (u.win w.toNat).rbase + 4096 * g.toNat + 4096 ≤ 2 ^ 21 → g.toNat < (u.win w.toNat).slots.length →
    WalksTo s n va 0 l → (∀ k < 32, isPaused s (l.pa va + 128 * k) = false ∧
      mayPerform (taskOf s n) false (keyL r) (l.pa va + 128 * k) 128 = true) → accessFaultOf s (regsOf s n).id.tag 0 (l.pa va) va = none →
    (∀ k < 32, poisoned s (l.pa va + 128 * k) = false) →
    (∀ k < 2 ^ 21, granTag s (padOf n.toNat + k) = some (regsOf s n).id.tag) → PlainBytes s (l.pa va) 4096 → l.pa va % 4096 = 0 →
    Completes (.windowFillDone n w g) s (fun t =>
      (((at' t n).win w.toNat).slot g.toNat).1 = .resident ∧
      (∀ i < 4096, Memory.get t.mem (padOf n.toNat + (u.win w.toNat).rbase + 4096 * g.toNat + i) =
        if ((u.win w.toNat).slot g.toNat).2.getLsbD i = true ∨ i / 128 ∉ r.todo
        then Memory.get s.mem (padOf n.toNat + (u.win w.toNat).rbase + 4096 * g.toNat + i)
        else Memory.get s.mem (l.pa (va + i))) ∧
      (∀ a, a < padOf n.toNat + (u.win w.toNat).rbase + 4096 * g.toNat ∨
          padOf n.toNat + (u.win w.toNat).rbase + 4096 * g.toNat + 4096 ≤ a → Memory.get t.mem a = Memory.get s.mem a) ∧
      OthersSame s t n)) ∧
  (∀ (s : State) (n : CoreId) (l : Leaf), (s.core n.toNat).issues = true → (regsOf s n).out = .off → (regsOf s n).run = .running →
    (taskOf s n).target = none → (taskOf s n).stop = none → (taskOf s n).room = true → badDecode (at' s n) = false →
    let p := taskOf s n
    p.pc.toNat - 4096 * p.span.page < 32 * (p.span.count + 2) → p.pc.toNat % 32 = 0 →
    fetchLook (at' s n) p.pc.toNat = .leaf l → reservedPa s (l.pa p.pc.toNat) = false →
    accessOk s (regsOf s n).id.tag 0 2 (l.pa p.pc.toNat) = true → poisoned s (l.pa p.pc.toNat) = false →
    l.pa p.pc.toNat % 4096 = p.pc.toNat % 4096 → PlainBytes s (l.pa p.pc.toNat / 128 * 128) 128 →
    (∀ i ∈ (s.core n.toNat).cache.icache, ¬(i.tag = (regsOf s n).id.tag ∧ i.vline = p.pc.toNat / 128)) →
    Completes (.bundleDispatch n) s (fun t =>
      (∃ b : Bundle, (taskOf t n).bq = p.bq ++ [b] ∧ b.addr = p.pc ∧
        b.bits = BitVec.ofNat 256 (Memory.read s.mem (l.pa p.pc.toNat) 32)) ∧
      (taskOf t n).pc = p.pc + 32 ∧ (taskOf t n).s = p.s ∧ MemorySame s t ∧ OthersSame s t n)) ∧
  (∀ (s : State) (n : CoreId), (s.core n.toNat).issues = true → (taskOf s n).target = none → (regsOf s n).out = .off →
    exec (.pageEntry n) s = .next s) ∧
  (∀ (s u : State) (n : CoreId) (x : Target) (h : Nat), (s.core n.toNat).issues = true → (regsOf s n).out = .off →
    (taskOf s n).target = some x → x.couple = false → x.ptr.toNat < 2 ^ 60 → (taskOf s n).link = none → settled (at' s n) = true →
    fetchBytes (x.ptr.toNat / 4096 * 4096) 64 (at' s n) = (.ok h, u) →
    h % 2 ^ 16 = 0x5043 → h / 2 ^ 16 % 2 ^ 8 = 0x51 → h / 2 ^ 35 % 2 = 0 → x.ptr.toNat % 4096 < h / 2 ^ 48 % 2 ^ 5 →
    h / 2 ^ (192 + 12 * (x.ptr.toNat % 4096) + 7) % 2 ^ 4 = 0 → x.ptr.toNat % 4096 < 24 →
    Completes (.pageEntry n) s (fun t =>
      (taskOf t n).target = none ∧ (taskOf t n).land = true ∧
      (taskOf t n).pc.toNat = (x.ptr.toNat / 4096 * 4096 + 32 * (h / 2 ^ (192 + 12 * (x.ptr.toNat % 4096)) % 2 ^ 7)) % 2 ^ 64 ∧
      (taskOf t n).span.head = x.ptr.toNat / 4096 ∧ (taskOf t n).s = (taskOf s n).s ∧ MemorySame s t))

/-! ## Tasks, nodes and the coachman's replies -/

/-- A task starts with its argument words in s0 to s7, its other registers 0, and runs; at its end its node counts it, and its core
takes the next tile or is at rest (R100, R191, R328, R329, R331, R336, R401). That the words are read one by one and a read that has
parked goes on at its word is the model's reading, log entry 126. -/
def Obligations.TasksStartAndEnd : Prop :=
  (∀ (s : State) (n : CoreId) (l : Leaf),
    let a := (regsOf s n).id.args.toNat
    let tag := (regsOf s n).id.tag
    (regsOf s n).run = .starting → (s.core n.toNat).cache.walkL = [] → a % 8 = 0 → a + 64 ≤ 2 ^ 60 → a / 4096 = (a + 63) / 4096 →
    WalksTo s n a 0 l →
    (∀ k < 8, accessFaultOf s tag 0 (l.pa (a + 8 * k)) (a + 8 * k) = none ∧ poisoned s (l.pa (a + 8 * k)) = false ∧
      isPaused s (l.pa (a + 8 * k)) = false ∧ PlainBytes s (l.pa (a + 8 * k)) 8) →
    Completes (.taskStart n) s (fun t =>
      (regsOf t n).run = .running ∧
      (∀ k < 8, (regsOf s n).id.argNext ≤ k →
        vget (taskOf t n).s k 0 = BitVec.ofNat 64 (Memory.read s.mem (l.pa (a + 8 * k)) 8)) ∧
      (∀ k < 40, 8 ≤ k ∨ k < (regsOf s n).id.argNext → vget (taskOf t n).s k 0 = vget (taskOf s n).s k 0) ∧
      (taskOf t n).p = (taskOf s n).p ∧ (taskOf t n).latch = (taskOf s n).latch ∧ (regsOf t n).vec = (regsOf s n).vec ∧
      (∀ k < 64, (vget (regsOf t n).tok k Token.reset).st = .ready) ∧
      fget? t.sptag n.toNat = some tag ∧ fget? t.acctag n.toNat = some tag ∧ (t.ctx tag).st = .running ∧
      MemorySame s t ∧ OthersSame s t n)) ∧
  (∀ (s : State) (n : CoreId), (regsOf s n).run ≠ .starting → exec (.taskStart n) s = .next s) ∧
  (∀ (s : State) (n : CoreId) (leave : Bool),
    let h := (regsOf s n).id.node
    let x := s.node h
    (regsOf s n).run = .ending leave → (s.core n.toNat).halt = ⟨false, false⟩ → (regsOf s n).out = .off →
    endReady leave (at' s n) = true → (s.core n.toNat).susp = [] → (∀ e ∈ s.podseen, h ∉ e.2.nodes) → claimOf s n.toNat = some h →
    (x.tasks ≤ x.next → Completes (.taskFinish n) s (fun t =>
      regsOf t n = CoreRegs.reset ∧ (t.node h).ended = x.ended + 1 ∧ claimOf t n.toNat = none ∧ MemorySame s t ∧
      ∀ m, m ≠ n.toNat → (t.core m).regs = (s.core m).regs)) ∧
    (x.next < x.tasks → Completes (.taskFinish n) s (fun t =>
      (regsOf t n).run = .starting ∧ (regsOf t n).id.tile = tileOf x x.next ∧ (regsOf t n).id.node = h ∧
      (taskOf t n).target = some ⟨x.entry, false⟩ ∧ StartsZero (regsOf t n) ∧ (t.node h).next = x.next + 1 ∧ (t.node h).ended = x.ended + 1 ∧
      MemorySame s t ∧ ∀ m, m ≠ n.toNat → (t.core m).regs = (s.core m).regs))) ∧
  (∀ (s : State) (n : CoreId), (regsOf s n).run = .running → exec (.taskFinish n) s = .next s) ∧
  (∀ (x : Node) (i : Nat), 0 < x.gx → 0 < x.gy → x.gx < 2 ^ 16 → x.gy < 2 ^ 16 → x.gz < 2 ^ 16 → i < x.gx * x.gy * x.gz →
    (tileOf x i).toNat % 2 ^ 16 + x.gx * ((tileOf x i).toNat / 2 ^ 16 % 2 ^ 16) +
      x.gx * x.gy * ((tileOf x i).toNat / 2 ^ 32) = i)

/-- A node claims its quads one by one, or rolls all of its claims back where it cannot or where a node that precedes it waits; it
commits when it holds them all and starts its first wave; it finishes when its tasks have ended, with its handle in its finish word (R329, R330, R333 to R335). -/
def Obligations.NodesClaimCommitFinish : Prop :=
  (∀ (s : State) (h : BitVec 37) (q : Nat),
    let x := s.node h.toNat
    x.st = .reserving → x.waits = none → x.quads[x.claimed.length]? = some q →
    (∀ w, waitedFor s h.toNat = some w → Completes (.quadClaim h) s (fun t =>
      (t.node h.toNat).claimed = [] ∧ (t.node h.toNat).waits = some w ∧ (∀ n ∈ x.cores, claimOf t n ≠ some h.toNat) ∧
      MemorySame s t ∧ ∀ m, t.core m = s.core m)) ∧
    (waitedFor s h.toNat = none → (∀ n ∈ x.coresIn q, (s.core n).regs.run = .idle ∧ claimOf s n = none) → x.pins = [] →
        (s.ctx x.tag).st = .resident ∨ (s.ctx x.tag).st = .running →
      Completes (.quadClaim h) s (fun t =>
        (t.node h.toNat).claimed = x.claimed ++ [q] ∧ (∀ n ∈ x.coresIn q, claimOf t n = some h.toNat) ∧
        MemorySame s t ∧ ∀ m, t.core m = s.core m)) ∧
    (waitedFor s h.toNat = none → (∃ n ∈ x.coresIn q, (s.core n).regs.run = .running ∧ (s.core n).regs.lim.parkFrom = none) →
      Completes (.quadClaim h) s (fun t =>
        (t.node h.toNat).claimed = [] ∧ (t.node h.toNat).waits = some q ∧ (∀ n ∈ x.cores, claimOf t n ≠ some h.toNat) ∧
        MemorySame s t ∧ ∀ m, t.core m = s.core m))) ∧
  (∀ (s : State) (h g : BitVec 37) (x y : Node), h ≠ g → s.nodes = [(h.toNat, x), (g.toNat, y)] → x.st = .reserving → y.st = .reserving →
    x.waits.isSome = true → y.waits.isSome = true → x.retry = true → y.retry = true →
    x.die < y.die ∨ (x.die = y.die ∧ y.band < x.band) →
    Completes (.reserveRetry h) s (fun t => t.node h.toNat = { x with waits := none, retry := false } ∧ t.node g.toNat = y) ∧
    exec (.reserveRetry g) s = .next s) ∧
  (∀ (s : State) (h : BitVec 37),
    let x := s.node h.toNat
    x.st = .reserving → x.waits = none → x.claimed.length = x.quads.length → (∀ q ∈ x.quads, (s.quad q).hot = false) →
    (∀ n ∈ x.cores, (s.core n).regs.run = .idle) → x.cores.Nodup → x.pins = [] →
    (s.ctx x.tag).st = .resident ∨ (s.ctx x.tag).st = .running → (∀ q ∈ x.quads, quadClear s x.tag q = true) →
    Completes (.nodeCommit h) s (fun t =>
      (t.node h.toNat).st = .committed ∧ (t.node h.toNat).next = min x.tasks x.cores.length ∧
      (∀ i n, x.cores[i]? = some n → i < x.tasks →
        (t.core n).regs.run = .starting ∧ (t.core n).regs.id.tile = tileOf x i ∧ (t.core n).regs.id.node = h.toNat ∧
        (t.core n).regs.id.tag = x.tag ∧ (t.core n).regs.lim.wdLimit = BitVec.ofNat 48 x.cycles ∧
        (t.core n).regs.task.target = some ⟨x.entry, false⟩ ∧ StartsZero (t.core n).regs) ∧
      (∀ i n, x.cores[i]? = some n → x.tasks ≤ i → claimOf t n = none) ∧
      (∀ m, m ∉ x.cores → t.core m = s.core m) ∧ MemorySame s t)) ∧
  (∀ (s : State) (h : BitVec 37),
    let x := s.node h.toNat
    x.st = .running ∨ x.st = .committed → x.ended = x.tasks → x.active = [] → x.parkFin = none → (s.queue x.queue).pkts = [] →
    (x.fin = 0 → Completes (.nodeFinish h) s (fun t =>
      (t.node h.toNat).st = .finished ∧ (∀ b, (t.bar b).node ≠ some h.toNat) ∧ MemorySame s t)) ∧
    (∀ pa, x.fin ≠ 0 → x.fin % 8 = 0 → dispTry s x.queue x.die x.tag 1 x.fin 8 = .ok pa → PlainBytes s pa 8 →
      (∀ i < 8, reservedPa s (pa + i) = false) → Memory.wf s.mem = true →
      Completes (.nodeFinish h) s (fun t => (t.node h.toNat).st = .finished ∧ WritesBytes s t pa 8 h.toNat))) ∧
  (∀ (s : State) (h : BitVec 37), (s.node h.toNat).ended ≠ (s.node h.toNat).tasks → exec (.nodeFinish h) s = .next s)

/-- The coachman's replies: an escalated or faulting outrider goes on, ends its routine once its accesses are performed or starts
again; the context of the record is terminated; the core halts, with a task or without; else the record of a suspended task is
answered (R270, R271, R273). That a reply of 0 to 2 answers a PARK_WD record, and the context that a reply of 3 names, are the
model's readings, log entries 60 and 61. -/
def Obligations.CoachmanReplies : Prop :=
  (∀ (s : State) (n : CoreId) (r : TrapRec), r ∈ (s.quad (n.toNat / 4)).trapRec → r.core = n.toNat % 4 → r.kind = 1 ∨ r.kind = 3 →
    (regsOf s n).out ≠ .off →
    Completes (.mbreplyContinue n) s (fun t => (regsOf t n).out = .running ∧ taskOf t n = taskOf s n ∧
      (regsOf t n).outr = (regsOf s n).outr ∧ r ∉ (t.quad (n.toNat / 4)).trapRec ∧ MemorySame s t ∧ OthersSame s t n)) ∧
  (∀ (s : State) (n : CoreId), (∀ r ∈ (s.quad (n.toNat / 4)).trapRec, r.core ≠ n.toNat % 4) →
    exec (.mbreplyContinue n) s = .next s) ∧
  (∀ (s : State) (n : CoreId), (regsOf s n).trap.tstatus.getLsbD 0 = true → (regsOf s n).out ≠ .off →
    ((regsOf s n).outr.lq = [] → (regsOf s n).outr.sq = [] → (regsOf s n).trap.tstatus.getLsbD 3 = false →
      Completes (.mbreplyResume n) s (fun t => (regsOf t n).out = .off ∧ (regsOf t n).trap.tstatus = 0 ∧
        (taskOf t n).s = (taskOf s n).s ∧ (regsOf t n).vec = (regsOf s n).vec ∧ MemorySame s t ∧ OthersSame s t n)) ∧
    ((regsOf s n).outr.lq ≠ [] ∨ (regsOf s n).outr.sq ≠ [] →
      Completes (.mbreplyResume n) s (fun t => (regsOf t n).out = .leaving ∧ (regsOf t n).trap = (regsOf s n).trap ∧
        taskOf t n = taskOf s n ∧ MemorySame s t ∧ OthersSame s t n))) ∧
  (∀ (s : State) (n : CoreId), (regsOf s n).trap.tstatus.getLsbD 0 = true → (regsOf s n).out ≠ .off →
    (∀ r ∈ (s.quad (n.toNat / 4)).trapRec, r.core = n.toNat % 4 → r.kind ≠ 2) →
    Completes (.mbreplyRestart n) s (fun t => (regsOf t n).out = .running ∧ (regsOf t n).trap.tstatus.getLsbD 1 = false ∧
      (regsOf t n).trap.tstatus.getLsbD 0 = true ∧ (regsOf t n).outr.target = some ⟨(s.ctx (regsOf s n).id.tag).frt, false⟩ ∧
      taskOf t n = taskOf s n ∧ MemorySame s t ∧ OthersSame s t n)) ∧
  (∀ (s : State) (n : CoreId), (regsOf s n).trap.tstatus.getLsbD 0 = false →
    ((∀ r ∈ (s.quad (n.toNat / 4)).trapRec, r.core = n.toNat % 4 → r.kind ≠ 4) →
      exec (.mbreplyResume n) s = .next s ∧ exec (.mbreplyRestart n) s = .next s) ∧
    ((∃ r ∈ (s.quad (n.toNat / 4)).trapRec, r.core = n.toNat % 4 ∧ r.kind = 4) → (regsOf s n).run ≠ .idle →
      ∀ i, i = .mbreplyResume n ∨ i = .mbreplyRestart n → Completes i s (fun t =>
        (∀ r ∈ (t.quad (n.toNat / 4)).trapRec, r.core = n.toNat % 4 → r.kind ≠ 4) ∧ regsOf t n = regsOf s n ∧
        (∀ x ∈ (t.core n.toNat).susp, x.wdRec ≠ some true) ∧ MemorySame s t ∧ OthersSame s t n))) ∧
  (∀ (s : State) (n : CoreId) (r : TrapRec), (s.quad (n.toNat / 4)).trapRec = [r] → r.core = n.toNat % 4 →
    (s.ctx r.tag).st = .resident ∨ (s.ctx r.tag).st = .running →
    Completes (.mbreplyTerminate n) s (fun t => (t.ctx r.tag).st = .terminating ∧
      ∀ m, (t.core m).regs.run ≠ .idle → (t.core m).regs.id.tag ≠ r.tag)) ∧
  (∀ (s : State) (n : CoreId), (s.core n.toNat).halt.halted = false →
    Completes (.mbreplyHalt n) s (fun t => (t.core n.toNat).halt.halted = true ∧ regsOf t n = regsOf s n ∧ MemorySame s t ∧
      OthersSame s t n)) ∧
  (∀ (s : State) (n : CoreId), (s.core n.toNat).halt.halted = true → exec (.mbreplyHalt n) s = .next s)

/-! ## Contexts and shootdowns -/

/-- CTXCMD and XSHOOT: a context is created from a good record, destroyed (its queues dead, its channels without a command, its
barriers off) and released once it is dead; a scrub leaves no leaf, table entry, code line, idle core's L1 line, granule, partition,
mailbox record, page request, link flit, right or key of the tag; a shootdown removes every leaf and table entry of its range (R245,
R258 to R260, R374). That err 1 comes before 2 and 2 before 3 is log entry 149, that a release waits for the held records log entry
132. -/
def Obligations.ContextsAndShootdowns : Prop :=
  (∀ (s : State),
    let w := recordOf s s.ctxcmd
    let tag := w 0 % 2 ^ 12
    Runs s.ctxcmd 0 2 → s.boot.stage = 8 →
    ((s.ctx tag).st ≠ .free → Completes .ctxCreate s (fun t => Ended t.ctxcmd 1 ∧ t.ctxs = s.ctxs ∧ MemorySame s t)) ∧
    ((s.ctx tag).st = .free → ¬GoodContext w → Completes .ctxCreate s (fun t =>
      Ended t.ctxcmd 2 ∧ t.ctxs = s.ctxs ∧ MemorySame s t)) ∧
    ((s.ctx tag).st = .free → GoodContext w → w 4 < 4096 + 3 * 2 ^ 20 * (w 0 / 2 ^ 16 % 2 ^ 8) → Completes .ctxCreate s (fun t =>
      Ended t.ctxcmd 3 ∧ t.ctxs = s.ctxs ∧ MemorySame s t)) ∧
    ((s.ctx tag).st = .free → GoodContext w → 4096 + 3 * 2 ^ 20 * (w 0 / 2 ^ 16 % 2 ^ 8) ≤ w 4 → Completes .ctxCreate s (fun t =>
      let c := t.ctx tag
      Ended t.ctxcmd 0 ∧ c.st = .created ∧ c.band.toNat = w 0 / 2 ^ 12 % 2 ^ 4 ∧ c.maxsusp = w 0 / 2 ^ 16 % 2 ^ 8 ∧
      c.kok = (w 0).testBit 24 ∧ c.inj = (w 0).testBit 25 ∧ c.dvec = w 0 / 2 ^ 26 % 2 ^ 11 ∧
      c.root = w 1 % 2 ^ 52 ∧ c.frt.toNat = w 2 ∧ c.save = w 3 % 2 ^ 60 ∧ c.ssize = w 4 ∧ c.park.toNat = w 5 ∧
      c.jrnl = w 6 % 2 ^ 60 ∧
      (∀ u, u ≠ tag → t.ctx u = s.ctx u) ∧ MemorySame s t ∧ ∀ m, t.core m = s.core m))) ∧
  (∀ (s : State),
    let tag := s.ctxcmd.w8.toNat / 2 ^ 2 % 2 ^ 12
    Runs s.ctxcmd 1 2 →
    (Bound s tag → Completes .ctxDestroy s (fun t => Ended t.ctxcmd 0 ∧ (t.ctx tag).st = .terminating ∧ NoTask t tag ∧
      (∀ q, (s.queue q).tag = tag → (t.queue q).st = .dead ∨ (t.queue q).st = .undefined) ∧
      (∀ c, (s.chan c).tag = tag → (t.chan c).cmds = []) ∧
      ∀ b, (s.bar b).tag = tag → (t.bar b).on = false ∧ (t.bar b).phase = 0 ∧ (t.bar b).arrived = 0)) ∧
    (¬Bound s tag → Completes .ctxDestroy s (fun t => Ended t.ctxcmd 4 ∧ t.ctxs = s.ctxs ∧ MemorySame s t))) ∧
  (∀ (s : State),
    let tag := s.ctxcmd.w8.toNat / 2 ^ 2 % 2 ^ 12
    Runs s.ctxcmd 2 2 →
    ((s.ctx tag).st = .dead → (s.ctx tag).jheld = [] → Completes .ctxRelease s (fun t => Ended t.ctxcmd 0 ∧ t.ctx tag = Ctx.reset)) ∧
    ((s.ctx tag).st = .dead → (s.ctx tag).jheld ≠ [] → Completes .ctxRelease s (fun t =>
      (Ended t.ctxcmd 0 ∧ t.ctx tag = Ctx.reset) ∨ (t.ctxcmd.busy = true ∧ (t.ctx tag).jheld ≠ []))) ∧
    ((s.ctx tag).st ≠ .dead → Completes .ctxRelease s (fun t => Ended t.ctxcmd 4 ∧ t.ctxs = s.ctxs ∧ MemorySame s t))) ∧
  (∀ (s : State), s.ctxcmd.busy = false →
    exec .ctxCreate s = .next s ∧ exec .ctxDestroy s = .next s ∧ exec .ctxRelease s = .next s) ∧
  (∀ (s : State) (g : BitVec 12), (s.ctx g.toNat).st = .terminating → (∀ j ∈ s.jobs, j.tag ≠ g.toNat) →
    Completes (.contextScrubDone g) s (fun t =>
      (t.ctx g.toNat).st = .dead ∧ (∀ x ∈ t.pins, x.tag ≠ g.toNat) ∧
      (∀ k < 7, fget 0 t.acctab (k * 4096 + g.toNat) = 0) ∧
      (∀ n, (∀ l ∈ (t.core n).cache.dtlb ++ (t.core n).cache.ctlb, l.tag ≠ g.toNat) ∧
        ∀ l ∈ (t.core n).cache.icache, l.tag ≠ g.toNat) ∧
      (∀ d, ∀ l ∈ (t.disp d).tlb, l.tag ≠ g.toNat) ∧ (∀ e ∈ t.etlb, ∀ l ∈ e.2, l.tag ≠ g.toNat) ∧
      (∀ q, (∀ l ∈ (t.quad q).l2tlb, l.tag ≠ g.toNat) ∧ (∀ w ∈ (t.quad q).walks, w.1 ≠ g.toNat) ∧ (∀ x ∈ (t.quad q).trapRec, x.tag ≠ g.toNat) ∧
        ∀ x ∈ (t.quad q).pageReq ++ (t.quad q).posters, x.tag ≠ g.toNat))) ∧
  (∀ (s : State) (g : BitVec 12) (pa : Nat), isPad pa = true → granTag s pa = some g.toNat →
    Memory.get (scrubCtx g.toNat s).mem pa = 0) ∧
  (∀ (s : State) (g : BitVec 12),
    let u := scrubCtx g.toNat s
    (∀ n, fget? u.sptag n ≠ some g.toNat ∧ fget? u.acctag n ≠ some g.toNat ∧
      ((u.core n).last = some g.toNat → (u.core n).regs.run = .idle → (u.core n).cache.l1 = []) ∧
      (fget? s.acctag n = some g.toNat → ∀ a, a < 2 ^ 20 → Memory.get u.mem (accOf n + a) = 0)) ∧
    (∀ e ∈ u.keyh, e.2.getLsbD 12 = true → e.2.toNat % 2 ^ 12 ≠ g.toNat) ∧
    ∀ e ∈ u.links, ∀ f ∈ e.2.out ++ e.2.replay, Flit.tag f ≠ g.toNat) ∧
  (∀ (s : State) (g : BitVec 12), (s.ctx g.toNat).st ≠ .terminating → exec (.contextScrubDone g) s = .next s) ∧
  (∀ (s : State), s.xshoot.busy = true → s.xshoot.going = false → Completes .xshootStart s (fun t =>
    t.xshoot.going = true ∧ MemorySame s t ∧
    (∀ n l, l ∈ (t.core n).cache.dtlb ↔ l ∈ (s.core n).cache.dtlb ∧ ¬Shot s.xshoot l) ∧
    (∀ n l, l ∈ (t.core n).cache.ctlb ↔ l ∈ (s.core n).cache.ctlb ∧ ¬Shot s.xshoot l) ∧
    (∀ q l, l ∈ (t.quad q).l2tlb ↔ l ∈ (s.quad q).l2tlb ∧ ¬Shot s.xshoot l) ∧
    (∀ d l, l ∈ (t.disp d).tlb ↔ l ∈ (s.disp d).tlb ∧ ¬Shot s.xshoot l) ∧
    (∀ k l, l ∈ fget [] t.etlb k ↔ l ∈ fget [] s.etlb k ∧ ¬Shot s.xshoot l) ∧
    (∀ q w, w ∈ (t.quad q).walks ↔ w ∈ (s.quad q).walks ∧ ¬ShotTable s.xshoot w) ∧ ∀ n, (t.core n).regs = (s.core n).regs)) ∧
  (∀ (s : State), s.xshoot.busy = true → s.xshoot.going = true → s.xshoot.held = [] →
    (∀ e ∈ s.cores, e.2.regs.id.tag = s.xshoot.w8.toNat % 2 ^ 12 →
      e.2.regs.task.lq = [] ∧ e.2.regs.task.sq = [] ∧ e.2.regs.outr.lq = [] ∧ e.2.regs.outr.sq = []) →
    Completes .xshootComplete s (fun t => Ended t.xshoot 0 ∧ MemorySame s t ∧ t.cores = s.cores)) ∧
  (∀ (s : State), s.xshoot.busy = false → exec .xshootStart s = .next s ∧ exec .xshootComplete s = .next s)

/-! ## Queues -/

/-- QCMD, doorbells, mapping, acceptance and runs of queues, and their deletes (R300 to R308, R310, R314, R317, R349, R402). That a
queue failed by its tail loses its slot is log entry 44. -/
def Obligations.QueuesServeTheirPackets : Prop :=
  (∀ (s : State),
    let w := recordOf s s.qcmd
    let q := w 0 / 2 ^ 12 % 2 ^ 12
    Runs s.qcmd 0 1 →
    ((s.queue q).st ≠ .undefined → Completes .qcmdDefine s (fun t => Ended t.qcmd 1 ∧ t.queues = s.queues ∧ MemorySame s t)) ∧
    ((s.queue q).st = .undefined → ¬GoodQueue w → Completes .qcmdDefine s (fun t =>
      Ended t.qcmd 2 ∧ t.queues = s.queues ∧ MemorySame s t)) ∧
    ((s.queue q).st = .undefined → GoodQueue w → ¬Bound s (w 0 % 2 ^ 12) ∨ (s.ctx (w 0 % 2 ^ 12)).band.toNat < w 0 / 2 ^ 24 % 2 ^ 4 →
      Completes .qcmdDefine s (fun t => Ended t.qcmd 3 ∧ t.queues = s.queues ∧ MemorySame s t)) ∧
    (∀ p, (s.queue q).st = .undefined → GoodQueue w → Bound s (w 0 % 2 ^ 12) →
      w 0 / 2 ^ 24 % 2 ^ 4 ≤ (s.ctx (w 0 % 2 ^ 12)).band.toNat → recordProg s w = some p →
      (verify p (recordWins w) ≠ 0 → Completes .qcmdDefine s (fun t =>
        Ended t.qcmd (verify p (recordWins w)) ∧ t.queues = s.queues ∧ MemorySame s t)) ∧
      (verify p (recordWins w) = 0 → Completes .qcmdDefine s (fun t =>
        let x := t.queue q
        Ended t.qcmd 0 ∧ x.st = .idle ∧ x.tag = w 0 % 2 ^ 12 ∧ x.band = w 0 / 2 ^ 24 % 2 ^ 4 ∧ x.dl = w 0 / 2 ^ 32 ∧
        x.lsz = w 1 % 2 ^ 4 ∧ x.home = w 1 / 2 ^ 4 % 2 ^ 5 ∧ x.ring = w 1 / 2 ^ 12 % 2 ^ 48 * 4096 ∧ x.evec = w 3 / 2 ^ 16 % 2 ^ 11 ∧
        x.prog = p ∧ x.head = 0 ∧ x.tail = 0 ∧ x.mapped = false ∧ ∀ r, r ≠ q → t.queue r = s.queue r)))) ∧
  (∀ (s : State),
    let q := s.qcmd.w8.toNat / 2 % 2 ^ 12
    Runs s.qcmd 1 1 →
    ((s.queue q).st = .undefined → Completes .qcmdDelete s (fun t => Ended t.qcmd 4 ∧ t.queues = s.queues ∧ MemorySame s t)) ∧
    ((s.queue q).st = .failed ∨ (s.queue q).st = .dead ∨ ((s.queue q).st = .idle ∧ (s.queue q).mapped = false) →
      Completes .qcmdDelete s (fun t => Ended t.qcmd 0 ∧ (t.queue q).st = .undefined ∧ ((s.queue q).pkts = [] → MemorySame s t) ∧
        ∀ p ∈ (s.queue q).pkts, packetWork s q p.serial = true →
          ∃ p' ∈ (t.queue q).pkts, p'.serial = p.serial ∧ p'.bits = p.bits ∧ p'.finish = true)) ∧
    ((s.queue q).mapped = true → (s.queue q).st = .idle ∨ (s.queue q).st = .blocked → Completes .qcmdDelete s (fun t =>
      t.qcmd.busy = true ∧ (t.queue q).st = .unmapping ∧ (t.queue q).deleting = true ∧ (t.queue q).pkts = (s.queue q).pkts)) ∧
    ((s.queue q).st = .ready ∨ (s.queue q).st = .running ∨ (s.queue q).st = .unmapping → Completes .qcmdDelete s (fun t =>
      t.qcmd.busy = true ∧ (t.queue q).st = (s.queue q).st ∧ (t.queue q).deleting = true ∧ (t.queue q).pkts = (s.queue q).pkts ∧
      (t.queue q).pc = (s.queue q).pc ∧ MemorySame s t)) ∧
    ((s.queue q).st = .blocked → (s.queue q).mapped = false → Completes .qcmdDelete s (fun t =>
      Ended t.qcmd 0 ∧ (t.queue q).st = .undefined))) ∧
  (∀ (s : State) (q : BitVec 12) (v : BitVec 32) (x : Word),
    ((s.queue q.toNat).st = .undefined → exec (.doorbellTail q v) s = .next s ∧ exec (.doorbellWake q x) s = .next s) ∧
    ((s.queue q.toNat).st = .idle ∨ (s.queue q.toNat).st = .ready ∨ (s.queue q.toNat).st = .running ∨
        (s.queue q.toNat).st = .blocked ∨ (s.queue q.toNat).st = .failed → (s.disp (s.queue q.toNat).home).restart = false →
      Completes (.doorbellWake q x) s (fun t => (t.queue q.toNat).wake = x ∧ (t.queue q.toNat).wakep = true ∧
        (t.queue q.toNat).st = (s.queue q.toNat).st ∧ (t.queue q.toNat).tail = (s.queue q.toNat).tail) ∧
      ((v - (s.queue q.toNat).head).toNat ≤ 2 ^ ((s.queue q.toNat).lsz + 4) → Completes (.doorbellTail q v) s (fun t =>
        (t.queue q.toNat).tail = v ∧ (t.queue q.toNat).st = (s.queue q.toNat).st ∧
        (t.queue q.toNat).wake = (s.queue q.toNat).wake)) ∧
      (2 ^ ((s.queue q.toNat).lsz + 4) < (v - (s.queue q.toNat).head).toNat → Completes (.doorbellTail q v) s (fun t =>
        (t.queue q.toNat).st = .failed ∧ (t.queue q.toNat).mapped = false)))) ∧
  (∀ (s : State) (q : BitVec 12),
    let x := s.queue q.toNat
    x.st = .idle ∨ x.st = .blocked → x.mapped = false → x.deleting = false → x.tail ≠ x.head → (s.disp x.home).restart = false →
    (s.ctx x.tag).st = .resident ∨ (s.ctx x.tag).st = .running →
    ((s.disp x.home).slots.length < 16 → Completes (.queueMap q) s (fun t => (t.queue q.toNat).mapped = true ∧
      (t.disp x.home).slots = (s.disp x.home).slots ++ [q.toNat] ∧ (t.queue q.toNat).st = x.st)) ∧
    (∀ v, 16 ≤ (s.disp x.home).slots.length → victimQueue s x.home = some v → v ≠ q.toNat →
      (∀ e ∈ s.queues, e.2.home = x.home → e.2.mapped = true → e.2.st = .unmapping → e.2.deleting = true) →
      Completes (.queueMap q) s (fun t => (t.queue v).st = .unmapping ∧ (t.queue q.toNat).mapped = false)) ∧
    (16 ≤ (s.disp x.home).slots.length →
      (∃ e ∈ s.queues, e.2.home = x.home ∧ e.2.mapped = true ∧ e.2.st = .unmapping ∧ e.2.deleting = false) →
      exec (.queueMap q) s = .next s)) ∧
  (∀ (s : State) (q : BitVec 12), (s.queue q.toNat).mapped = true → exec (.queueMap q) s = .next s) ∧
  (∀ (s : State) (q : BitVec 12), (s.queue q.toNat).st = .unmapping → (s.queue q.toNat).latched = [] →
    Completes (.queueUnmap q) s (fun t => (t.queue q.toNat).mapped = false ∧
      (t.queue q.toNat).st = (if (s.queue q.toNat).cur.isSome then .blocked else .idle) ∧
      (t.queue q.toNat).head = (s.queue q.toNat).head ∧ (t.queue q.toNat).tail = (s.queue q.toNat).tail ∧
      q.toNat ∉ (t.disp (s.queue q.toNat).home).slots)) ∧
  (∀ (s : State) (q : BitVec 12) (b : BitVec 128),
    let x := s.queue q.toNat
    x.st = .idle → x.mapped = true → x.deleting = false → x.block = .none → x.arm = some b → (s.ctx x.tag).jheld = [] →
    hasRoom s q.toNat x = true → field b 16 4 = 1 →
    Completes (.queueAccept q) s (fun t => (t.queue q.toNat).st = .ready ∧ (t.queue q.toNat).arm = none ∧
      (t.queue q.toNat).head = x.head ∧ (t.queue q.toNat).cur = some x.serial ∧
      ∃ p : Packet, p ∈ (t.queue q.toNat).pkts ∧ p.serial = x.serial ∧ p.bits = b)) ∧
  (∀ (s : State) (q : BitVec 12), (s.queue q.toNat).mapped = false ∨ (s.queue q.toNat).deleting = true →
    (s.ctx (s.queue q.toNat).tag).jheld = [] →
    Completes (.queueAccept q) s (fun t => t.queues = s.queues ∧ MemorySame s t)) ∧
  (∀ (s : State) (d : DieId) (q : Nat), (s.disp d.toNat).run = none → (s.disp d.toNat).restart = false → (s.queue q).home = d.toNat →
    (∃ n p, (s.queue q).cur = some n ∧ (s.queue q).packet n = some p ∧ p.started = true) →
    nextQueue s d.toNat = some q →
    Completes (.queueRun d) s (fun t => (t.queue q).st = .running ∧ (t.disp d.toNat).run = some q ∧ (t.queue q).pc = (s.queue q).pc)) ∧
  (∀ (s : State) (d : DieId), (s.disp d.toNat).run = none → nextQueue s d.toNat = none → exec (.queueRun d) s = .next s) ∧
  (∀ (s : State) (d q r : Nat) (a b : Queue), s.queues = [(q, a), (r, b)] → q < r → a.home = d → b.home = d → a.st = .ready → b.st = .ready →
    a.mapped = true → b.mapped = true →
    (b.band < a.band → nextQueue s d = some q) ∧ (a.band < b.band → nextQueue s d = some r) ∧
    (a.band = b.band → queueDl a = queueDl b → nextQueue s d = some q) ∧
    (∀ m n, a.band = b.band → queueDl a = some m → queueDl b = some n → n < m → nextQueue s d = some r) ∧
    (∀ n, a.band = b.band → queueDl a = none → queueDl b = some n → nextQueue s d = some r)) ∧
  (∀ (s : State) (q : BitVec 12), (s.queue q.toNat).st = .blocked → (s.queue q.toNat).mapped = true →
    (((s.queue q.toNat).block = .wake ∧ (s.queue q.toNat).wakep = true) ∨
      (∃ e, e < 2 ^ 60 ∧ podOf s e = none ∧ (s.queue q.toNat).block = .park e ∧ (Memory.read s.mem e 8).testBit 0 = true ∧ (Memory.read s.mem e 8).testBit 1 = false) ∨
      (∃ b n p, p < 2 ^ 32 ∧ (s.queue q.toNat).block = .barrier n p ∧ barrierIndex n = some b ∧ farBar s n = false ∧
        (s.bar b).phase.toNat = (p + 1) % 2 ^ 32) →
      Completes (.queueUnblock q) s (fun t => (t.queue q.toNat).st = .ready ∧ (t.queue q.toNat).pc = (s.queue q.toNat).pc ∧
        (t.queue q.toNat).x = (s.queue q.toNat).x)) ∧
    ((s.queue q.toNat).block = .wake → (s.queue q.toNat).wakep = false → exec (.queueUnblock q) s = .next s))

/-! ## Copy engines and the rescheduler -/

/-- Commands of the copy engines: acceptance or refusal, activation with the template, completion with payload, stamp and token,
failure, abort and the limit of a park (R185, R191, R194 to R196, R198, R201, R203 to R207, R310). -/
def Claim.CopyCommands : Prop :=
  (∀ (s : State) (n : CoreId) (i : BitVec 6) (r : Req StOp) (marker : Bool) (token : Option Nat) (owner : Nat),
    CommandReady s n i r marker token owner →
    let c := chanOf (r.units.getD 0 0)
    ((s.chan c).tag = (regsOf s n).id.tag → hasRight s (regsOf s n).id.tag 0 3 3 = true →
      (8 ≤ (s.chan c).cmds.length → exec (.cmdAccept (.core n i)) s = .next s) ∧
      ((s.chan c).cmds.length < 8 → marker = true ∨ (vecWord r.val).toNat % 2 ^ 12 ≠ 0xFFF →
        Completes (.cmdAccept (.core n i)) s (fun t =>
          (taskOf t n).sq = (taskOf s n).sq.eraseIdx i.toNat ∧ MemorySame s t ∧ OthersSame s t n ∧
          ∃ m : Cmd, (t.chan c).cmds = (s.chan c).cmds ++ [m] ∧ m.word = vecWord r.val ∧ m.marker = marker ∧
            m.core = some n.toNat ∧ m.owner = owner ∧ m.tmpl = none ∧ m.result = none ∧ m.tbase = (s.chan c).tbase))) ∧
    ((s.chan c).tag ≠ (regsOf s n).id.tag ∨ hasRight s (regsOf s n).id.tag 0 3 3 = false →
      Completes (.cmdAccept (.core n i)) s (fun t =>
        (taskOf t n).sq = (taskOf s n).sq.eraseIdx i.toNat ∧ (t.core n.toNat).refuse = (s.core n.toNat).refuse + 1 ∧
        (t.core n.toNat).refCode = 7 ∧ MemorySame s t ∧ OthersSame s t n ∧
        ∀ k, token = some k → k < 64 → vget (regsOf s n).tok k Token.reset = ⟨.pending, owner⟩ →
          (vget (regsOf t n).tok k Token.reset).st = .failed))) ∧
  (∀ (s : State) (d : DieId) (c : Nat) (w : Word) (q k : Nat) (l : List (Nat × Word × Nat × Nat)),
    (s.disp d.toNat).copies = (c, w, q, k) :: l → (s.chan c).cmds.length < 8 → w.toNat % 2 ^ 12 ≠ 0xFFF →
    Completes (.cmdAccept (.disp d)) s (fun t => (t.disp d.toNat).copies = l ∧ MemorySame s t ∧
      ∃ m : Cmd, (t.chan c).cmds = (s.chan c).cmds ++ [m] ∧ m.word = w ∧ m.packet = some (q, k) ∧ m.core = none ∧
        m.result = if consumed w = [] ∧ tokenField w 33 = none then none else some 0x0B)) ∧
  (∀ (s : State) (c : BitVec 9), (s.chan c.toNat).cmds = [] →
    exec (.cmdActivate c) s = .next s ∧ exec (.cmdDone c) s = .next s ∧ exec (.cmdFail c) s = .next s ∧
    exec (.engineParkLimit c) s = .next s) ∧
  (∀ (s : State) (c : BitVec 9) (m : Cmd) (r : List Cmd), HeadOf s c m r → NoneFar s → m.tmpl = none → m.result = none → m.park = none →
    ((∃ e ∈ consumed m.word, m.seen.getLsbD e.1 = false) → exec (.cmdActivate c) s = .next s) ∧
    ((∀ e ∈ consumed m.word, m.seen.getLsbD e.1 = true) →
      (m.marker = true → Completes (.cmdActivate c) s (fun t => MemorySame s t ∧
        ∃ x, (t.chan c.toNat).cmds = { m with tmpl := some x, old := s.mem } :: r)) ∧
      (m.marker = false → m.word.toNat % 2 ^ 12 = 0xFFF → Completes (.cmdActivate c) s (fun t => MemorySame s t ∧
        (t.chan c.toNat).cmds = { m with tmpl := some (s.chan c.toNat).shadow, old := s.mem } :: r)) ∧
      (∀ pa, m.marker = false → m.word.toNat % 2 ^ 12 ≠ 0xFFF → m.tbase.toNat % 128 = 0 →
        engineLook s c.toNat 0 false ((m.tbase.toNat + 128 * (m.word.toNat % 2 ^ 12)) % 2 ^ 64) = .ok pa → PlainBytes s pa 128 →
        (∀ i < 128, reservedPa s (pa + i) = false) → poisoned s pa = false →
        Completes (.cmdActivate c) s (fun t => MemorySame s t ∧
          (t.chan c.toNat).cmds = { m with
            tmpl := some (BitVec.ofNat 1024 (Memory.read s.mem pa 128)), old := s.mem } :: r)))) ∧
  (∀ (s : State) (c : BitVec 9) (m : Cmd) (r : List Cmd) (x : Tmpl), HeadOf s c m r → m.marker = false → m.result = none →
    m.park = none → m.tmpl = some x → payloadLook s c.toNat x = .ready →
    (payloadFar s c.toNat x = none → exec (.cmdDone c) s = .next (tryStamp c.toNat (headResult c.toNat 0
      (if x.empty then s else payloadWrite c.toNat x s)))) ∧
    (∀ wr l, payloadFar s c.toNat x = some (wr, l) → Completes (.cmdDone c) s (fun t =>
      t.chans = s.chans ∧ MemorySame s t ∧ ∀ n, t.core n = s.core n))) ∧
  (∀ (s : State) (c : BitVec 9) (m : Cmd) (r : List Cmd) (x : Tmpl) (f pa : Nat), HeadOf s c m r → NoneFar s → m.marker = false →
    m.result = none → m.park = none → m.packet = none → m.tmpl = some x → tmplFault s (s.chan c.toNat).tag x = some f →
    StampsAt s c m pa → Memory.wf s.mem = true → Completes (.cmdFail c) s (fun t => (t.chan c.toNat).cmds.length = r.length ∧
      (t.chan c.toNat).fails = (s.chan c.toNat).fails + 1 ∧ WritesBytes s t pa 8 (stampOf c m f))) ∧
  (∀ (s : State) (c : Nat) (x : Tmpl) (n ps pd : Nat), Memory.wf s.mem = true → x.kind = 0 → x.st = 4 → x.dt = 4 → x.kd = 0 → x.rm = 0 →
    x.n0 = n → x.n1 = 1 → 0 < n → x.src + n ≤ 2 ^ 60 → x.dst + n ≤ 2 ^ 60 →
    (∀ k < n, engineLook s c 0 false (x.src + k) = .ok (ps + k) ∧ engineLook s c 1 false (x.dst + k) = .ok (pd + k)) →
    PlainBytes s ps n → PlainBytes s pd n → ps + n ≤ pd ∨ pd + n ≤ ps →
    (∀ k < n, Memory.get (headOld s c) (ps + k) = Memory.get s.mem (ps + k)) →
    (∀ k < n, Memory.get (payloadWrite c x s).mem (pd + k) = Memory.get s.mem (ps + k)) ∧
    ∀ a, a < pd ∨ pd + n ≤ a → Memory.get (payloadWrite c x s).mem a = Memory.get s.mem a) ∧
  (∀ (s : State) (c : BitVec 9) (m : Cmd) (r : List Cmd) (pa : Nat), HeadOf s c m r → NoneFar s → m.result = some 0 → m.park = none →
    m.packet = none → StampsAt s c m pa → Memory.wf s.mem = true →
    Completes (.cmdDone c) s (fun t => (t.chan c.toNat).cmds.length = r.length ∧ (t.chan c.toNat).fails = (s.chan c.toNat).fails ∧
      WritesBytes s t pa 8 (stampOf c m 0) ∧
      ∀ n k, OwnsToken s n k m → (vget (t.core n).regs.tok k Token.reset).st = .ready)) ∧
  (∀ (s : State) (c : BitVec 9) (m : Cmd) (r : List Cmd) (pa code : Nat), HeadOf s c m r → NoneFar s → m.result = some code → 0 < code → code < 2 ^ 8 →
    m.park = none → m.packet = none → StampsAt s c m pa → Memory.wf s.mem = true →
    Completes (.cmdFail c) s (fun t => (t.chan c.toNat).cmds.length = r.length ∧
      (t.chan c.toNat).fails = (s.chan c.toNat).fails + 1 ∧ (t.chan c.toNat).code.toNat = code ∧
      WritesBytes s t pa 8 (stampOf c m code) ∧
      ∀ n k, OwnsToken s n k m → (vget (t.core n).regs.tok k Token.reset).st = .failed)) ∧
  (∀ (s : State) (c : BitVec 9), Completes (.cabort c) s (fun t =>
    (t.chan c.toNat).cmds = (s.chan c.toNat).cmds.map (fun m =>
      { m with result := some (m.result.getD 0x0C), park := if m.result = none then none else m.park }) ∧
    (t.chan c.toNat).tag = (s.chan c.toNat).tag ∧ (t.chan c.toNat).fails = (s.chan c.toNat).fails)) ∧
  (∀ (s : State) (c : BitVec 9) (m : Cmd) (r : List Cmd), HeadOf s c m r → NoneFar s → m.park.isSome = true → m.limit ≠ 0 →
    m.packet = none →
    (m.parked + m.limit * 1000000 ≤ s.now → m.result = none → m.tmpl = none → m.marker = false →
      ((∃ f, tmplLook s c.toNat m = .fail f) → Completes (.engineParkLimit c) s (fun t =>
        (t.chan c.toNat).cmds.length = r.length ∧ (t.chan c.toNat).fails = (s.chan c.toNat).fails + 1 ∧
        (t.chan c.toNat).code = 4 ∧ MemorySame s t ∧
        ∀ n k, OwnsToken s n k m → (vget (t.core n).regs.tok k Token.reset).st = .failed)) ∧
      ((∃ e a, tmplLook s c.toNat m = .park e a) → Completes (.engineParkLimit c) s (fun t =>
        (t.chan c.toNat).cmds = { m with result := some 4, park := none } :: r ∧ MemorySame s t))) ∧
    (∀ code, m.parked + m.limit * 1000000 ≤ s.now → m.result = some code → 0 < code → code < 2 ^ 8 →
      Completes (.engineParkLimit c) s (fun t => (t.chan c.toNat).cmds.length = r.length ∧
        (t.chan c.toNat).fails = (s.chan c.toNat).fails + 1 ∧ (t.chan c.toNat).code.toNat = code ∧ MemorySame s t ∧
        ∀ n k, OwnsToken s n k m → (vget (t.core n).regs.tok k Token.reset).st = .failed)) ∧
    (s.now < m.parked + m.limit * 1000000 → exec (.engineParkLimit c) s = .next s))

/-- What a command writes, by its template (R44, R198 to R200, R376): `lin` and `tile` rows with conversion and padding, the rows that
a `gath` list names, the sums of `radd` over the stored element (log entry 137 where it is encrypted), the blocks of a block-integer
type with their scale words, and the units of an encrypted row. -/
def Claim.CopyValues : Prop :=
  (∀ (rd : Nat → Byte) (t : Tmpl) (r k : Nat), WholeElements t → t.kd = 0 → t.empty = false → r < t.rows → k < t.cols →
    (t.kind = 0 → Moves rd t r k (elemAs rd t r k)) ∧
    (t.kind = 1 →
      let y : Int := t.y0 - t.h1 + r
      let x : Int := t.x0 - t.h0 + k
      (0 ≤ y ∧ y < t.th ∧ 0 ≤ x ∧ x < t.tw → Moves rd t r k (elemAs rd t y.toNat x.toNat)) ∧
      (¬(0 ≤ y ∧ y < t.th ∧ 0 ≤ x ∧ x < t.tw) → Moves rd t r k (padRaw t))) ∧
    (t.kind = 2 →
      let i := readLe rd (t.idx + 4 * r) 4
      (i < t.gh → Moves rd t r k (elemAs rd t i k)) ∧ (t.gh ≤ i → Moves rd t r k 0)) ∧
    (t.kind = 3 → t.ns = 0 → t.st = 8 → t.dt = 8 →
      Moves rd t r k (toFp f32 0 (fAdd (fpVal f32 (elemRaw rd (rowAddr t.dst t.ds r) k 32))
        (fpVal f32 (elemRaw rd (rowAddr t.src t.ss r) k 32))))) ∧
    (t.kind = 3 → t.ns = 1 → t.st = 2 → t.dt = 2 →
      Moves rd t r k ((elemRaw rd (rowAddr t.dst t.ds r) k 32 + elemRaw rd (rowAddr t.src t.ss r) k 32 +
        elemRaw rd (rowAddr (t.srcN 1) t.ss r) k 32) % 2 ^ 32))) ∧
  (∀ (rd : Nat → Byte) (t : Tmpl) (r b : Nat), t.kind = 0 → t.kd = 0 → t.st = 8 → t.dt = 22 → t.empty = false → t.n0 % 32 = 0 →
    r < t.n1 → b < t.n0 / 32 →
    let q := quantBlock 8 t.rm ((List.range 32).map (fun i => fpVal f32 (elemRaw rd (rowAddr t.src t.ss r) (32 * b + i) 32)))
    (∀ i m, q.1[i]? = some m → Moves rd t r (32 * b + i) (wrapN m 8)) ∧
    ∀ j < 4, (t.scd + 4 * (r * (t.n0 / 32) + b) + j, BitVec.ofNat 8 (q.2 / 2 ^ (8 * j))) ∈ tmplOut rd t) ∧
  (∀ (rd : Nat → Byte) (t : Tmpl) (r i : Nat), t.kind = 0 → t.st = 4 → t.dt = 4 → t.empty = false → t.n0 % 4096 = 0 → r < t.n1 → i < t.n0 →
    (∀ r < t.n1, rowAddr t.src t.ss r % 4096 = 0 ∧ rowAddr t.dst t.ds r % 4096 = 0) →
    let a := rowAddr t.src t.ss r + i / 4096 * 4096
    let d := rowAddr t.dst t.ds r + i / 4096 * 4096
    let unit := BitVec.ofNat 32768 (readLe rd a 4096)
    (t.kd = 2 → (d + i % 4096, BitVec.ofNat 8 ((Config.xts true t.key (d / 4096) unit).toNat / 2 ^ (8 * (i % 4096)))) ∈ tmplOut rd t) ∧
    (t.kd = 1 → (d + i % 4096, BitVec.ofNat 8 ((Config.xts false t.key (a / 4096) unit).toNat / 2 ^ (8 * (i % 4096)))) ∈ tmplOut rd t))

/-- The copy engines: their commands, and what a command writes (R185, R191, R194 to R207, R310, R376). -/
def Obligations.CopyEngines : Prop :=
  Claim.CopyCommands ∧ Claim.CopyValues

/-- A rescheduling job waits for the accesses that used the leaves it shoots down, and ends with its leaf as it was; a page that is
rewritten or rejected already stays; one whose check fails, or that lacks shadows, is rejected with its reason;
otherwise, in stretch mode, the stored page is of generation 0x51 with a good check (R278, R285, R287, R289, R292). -/
def Obligations.Rescheduling : Prop :=
  (∀ (s : State) (d : DieId), (∀ j ∈ s.jobs, j.die ≠ d.toNat) → exec (.reschedJob d) s = .next s) ∧
  (∀ (s : State) (d : DieId) (j : Job), OnlyJob s d j → Memory.wf s.mem = true → PlainBytes s j.entry 8 → PlainBytes s (frameOf j) 4096 →
    (j.entry + 8 ≤ frameOf j ∨ frameOf j + 4096 ≤ j.entry) → (∀ e ∈ s.cores, e.2.susp = []) →
    (shootBusy ⟨j.tag, j.page, 1⟩ s = true → Completes (.reschedJob d) s (fun t =>
      t.jobs = [{ j with shot := true }] ∧ MemorySame s t ∧ ∀ n, (t.core n).regs = (s.core n).regs)) ∧
    (shootBusy ⟨j.tag, j.page, 1⟩ s = false →
      ¬Bound s j.tag ∨ ((headerOf s j / 2 ^ 16 % 2 ^ 8 = 0x51 ∨ headerOf s j / 2 ^ 35 % 2 = 1) ∧ poisoned s (frameOf j) = false) →
      Completes (.reschedJob d) s (fun t => t.jobs = [] ∧ WritesBytes s t j.entry 8 j.leaf.toNat)) ∧
    (shootBusy ⟨j.tag, j.page, 1⟩ s = false → Bound s j.tag → headerOf s j / 2 ^ 16 % 2 ^ 8 ≠ 0x51 → headerOf s j / 2 ^ 35 % 2 = 0 →
      (∀ k < 32, poisoned s (frameOf j + 128 * k) = false) →
      headerOf s j / 2 ^ 480 ≠ headerCheck (headerOf s j) (pageBundles s (frameOf j) (headerOf s j)) →
      Completes (.reschedJob d) s (fun t =>
        t.jobs = [] ∧ Memory.read t.mem j.entry 8 = j.leaf.toNat ∧
        headerOf t j / 2 ^ 35 % 2 = 1 ∧ headerOf t j / 2 ^ 36 % 2 ^ 4 = 1 ∧
        headerOf t j % 2 ^ 35 = headerOf s j % 2 ^ 35 ∧
        headerOf t j / 2 ^ 480 = headerCheck (headerOf t j) (pageBundles t (frameOf j) (headerOf t j)) ∧
        ∀ a, frameOf j + 64 ≤ a → a < frameOf j + 4096 → Memory.get t.mem a = Memory.get s.mem a)) ∧
    (shootBusy ⟨j.tag, j.page, 1⟩ s = false → Bound s j.tag → headerOf s j / 2 ^ 16 % 2 ^ 8 ≠ 0x51 → headerOf s j / 2 ^ 35 % 2 = 0 →
      let runs := (pageRuns s (frameOf j) (headerOf s j)).map stretchRun
      (fget RsPool.reset s.rspool j.tag).compact = false → runs.flatten.length ≤ 126 → 0 < runs.flatten.length → jobWhy s j (frameOf j) (headerOf s j) [runs.flatten] = none →
      Completes (.reschedJob d) s (fun t =>
        t.jobs = [] ∧ Memory.read t.mem j.entry 8 = j.leaf.toNat ∧
        headerOf t j % 2 ^ 16 = 0x5043 ∧ headerOf t j / 2 ^ 16 % 2 ^ 8 = 0x51 ∧ headerOf t j / 2 ^ 35 % 2 = 0 ∧
        headerOf t j / 2 ^ 40 % 2 ^ 7 = runs.flatten.length ∧
        headerOf t j / 2 ^ 480 = headerCheck (headerOf t j) runs.flatten ∧
        ∀ i b, runs.flatten[i]? = some b → Memory.read t.mem (frameOf j + 64 + 32 * i) 32 = b.toNat)))

/-! ## Interrupts, barriers and links -/

/-- Interrupt vectors coalesce requests, wait out their time limit, and hold their message while masked (R320, R357). -/
def Obligations.InterruptVectors : Prop :=
  (∀ (s : State) (v : BitVec 11) (x : BitVec 32),
    let o := s.irq v.toNat
    let c := max 1 (x.toNat % 2 ^ 8)
    Completes (.irqcoalWrite v x) s (fun t =>
      (t.irq v.toNat).cnt.toNat = x.toNat % 2 ^ 8 ∧ (t.irq v.toNat).tmax.toNat = x.toNat / 2 ^ 16 ∧
      (o.pend = 0 ∨ o.pend.toNat < c → (t.irq v.toNat).pend = o.pend ∧ t.host = s.host) ∧
      (o.pend ≠ 0 → c ≤ o.pend.toNat → (t.irq v.toNat).pend = 0 ∧
        (o.masked = false → t.host = s.host ++ [.msix v.toNat]) ∧
        (o.masked = true → t.host = s.host ∧ (t.irq v.toNat).msg = true)) ∧
      MemorySame s t ∧ t.cores = s.cores)) ∧
  (∀ (s : State) (v : BitVec 11),
    let o := s.irq v.toNat
    (o.tmax ≠ 0 → o.pend ≠ 0 → o.first + o.tmax.toNat * 1000000 ≤ s.now →
      Completes (.irqTmaxExpiry v) s (fun t => (t.irq v.toNat).pend = 0 ∧
        (o.masked = false → t.host = s.host ++ [.msix v.toNat]) ∧
        (o.masked = true → t.host = s.host ∧ (t.irq v.toNat).msg = true) ∧ MemorySame s t ∧ t.cores = s.cores)) ∧
    (o.tmax = 0 ∨ o.pend = 0 ∨ s.now < o.first + o.tmax.toNat * 1000000 → exec (.irqTmaxExpiry v) s = .next s)) ∧
  (∀ (s : State) (v : BitVec 11),
    Completes (.msixUnmask v 1) s (fun t => (t.irq v.toNat).masked = true ∧ (t.irq v.toNat).pend = (s.irq v.toNat).pend ∧
      t.host = s.host ∧ MemorySame s t) ∧
    Completes (.msixUnmask v 0) s (fun t => (t.irq v.toNat).masked = false ∧ (t.irq v.toNat).msg = false ∧
      t.host = (if (s.irq v.toNat).msg = true then s.host ++ [.msix v.toNat] else s.host) ∧ MemorySame s t))

/-- A barrier counts its arrivals and completes its phase; news reaches the cores, and fails the waits of the bytecode; BCFG and the
arrive aperture act as their words say (R343 to R348, R350, R351). That a write of BCFG is an event with a completion test is log entry
98; how pod barriers speak over the links is log entry 35. -/
def Claim.BarrierHomes : Prop :=
  (∀ (s : State) (i : BitVec 16) (a : Arrival) (b : Nat), s.arrivals[i.toNat]? = some a →
    a.name / 2 ^ 8 % 2 ^ 3 ≠ 4 ∨ s.podmod = 0 → a.module = s.podmod.toNat → a.what = .arrival →
    barrierIndex a.name = some b →
    let x := s.bar b
    (a.tag = x.tag → x.on = true → x.fail = false → x.gm = false → x.arrived + 1 < 2 ^ 24 →
      (x.arrived + 1 < x.cnt.toNat → Completes (.barrierArrival i) s (fun t =>
        (t.bar b).arrived = x.arrived + 1 ∧ (t.bar b).phase = x.phase ∧ t.news = s.news ∧
        t.arrivals = s.arrivals.eraseIdx i.toNat ∧ MemorySame s t)) ∧
      (x.cnt.toNat ≤ x.arrived + 1 → Completes (.barrierArrival i) s (fun t =>
        (t.bar b).arrived = 0 ∧ (t.bar b).phase = x.phase + 1 ∧
        (t.bar b).last = BitVec.ofNat 64 (a.core + 2 ^ 11 * a.module + 2 ^ 19 * a.src + 2 ^ 22 * a.rtop) ∧
        (t.bar b).lastC = a.cycle ∧ t.arrivals = s.arrivals.eraseIdx i.toNat ∧ MemorySame s t ∧
        ∀ n x', fget? s.cores n = some x' → (∃ j < 16, (vget x'.regs.arr j ArrEntry.reset).armed = true ∧
          (vget x'.regs.arr j ArrEntry.reset).name = nameOfBarrier b) →
          ∃ y ∈ t.news, y.core = n ∧ y.name = nameOfBarrier b ∧ y.phase = (x.phase + 1).toNat ∧ y.fail = none)) ∧
      (∀ j k, a.entry = some (j, k) → j < 16 → (vget (s.core a.core).regs.arr j ArrEntry.reset).armed = true →
        (vget (s.core a.core).regs.arr j ArrEntry.reset).serial = k → Completes (.barrierArrival i) s (fun t =>
          (vget (t.core a.core).regs.arr j ArrEntry.reset).taken = some x.phase.toNat))) ∧
    (∀ why, (a.tag ≠ x.tag ∧ why = 4) ∨ (a.tag = x.tag ∧ x.on = false ∧ why = 5) ∨
        (a.tag = x.tag ∧ x.on = true ∧ x.fail = true ∧ why = 6) →
      Completes (.barrierArrival i) s (fun t => t.bars = s.bars ∧ t.arrivals = s.arrivals.eraseIdx i.toNat ∧ MemorySame s t ∧
        ∀ j k, a.entry = some (j, k) → j < 16 → (vget (s.core a.core).regs.arr j ArrEntry.reset).armed = true →
          (vget (s.core a.core).regs.arr j ArrEntry.reset).serial = k →
          (vget (t.core a.core).regs.arr j ArrEntry.reset).refused = some why))) ∧
  (∀ (s : State) (i : BitVec 16) (a : Arrival), s.arrivals[i.toNat]? = some a → a.what = .arrival → farBar s a.name = true →
    Completes (.barrierArrival i) s (fun t => t.arrivals = s.arrivals.eraseIdx i.toNat ∧ t.bars = s.bars ∧ MemorySame s t)) ∧
  (∀ (s : State) (i : BitVec 16), s.arrivals[i.toNat]? = none → exec (.barrierArrival i) s = .next s) ∧
  (∀ b < 41280, barrierIndex (nameOfBarrier b) = some b) ∧
  (∀ (s : State) (i : BitVec 16) (x : News), s.news[i.toNat]? = some x →
    (∀ y ∈ s.news.take i.toNat, ¬(y.core = x.core ∧ y.name = x.name)) →
    (x.fail = none → failsNow (s.core x.core) x.name = true → exec (.barrierCompletion i) s = .next s) ∧
    (x.fail.isSome = true ∨ failsNow (s.core x.core) x.name = false → Completes (.barrierCompletion i) s (fun t => t.news = s.news.eraseIdx i.toNat ∧ MemorySame s t ∧
      (∀ m, m ≠ x.core → t.core m = s.core m) ∧
      ∀ j < 16,
        let e := vget (s.core x.core).regs.arr j ArrEntry.reset
        vget (t.core x.core).regs.arr j ArrEntry.reset =
          if e.armed = true ∧ e.name = x.name then
            (match x.fail with
             | none => { e with seen := x.phase, fail := none }
             | some r => if e.taken = some x.phase then { e with fail := some r } else e)
          else e))) ∧
  (∀ (s : State) (i : BitVec 16), s.news[i.toNat]? = none → exec (.barrierCompletion i) s = .next s) ∧
  (∀ (s : State) (b : BitVec 16) (v : Word), b.toNat < 41280 →
    let o := s.bar b.toNat
    Completes (.bcfgWrite b v) s (fun t => let x := t.bar b.toNat
      x.on = v.getLsbD 25 ∧ x.gm = v.getLsbD 24 ∧ x.cnt.toNat = v.toNat % 2 ^ 24 ∧ x.tag = v.toNat / 2 ^ 26 % 2 ^ 12 ∧
      x.node = o.node ∧ MemorySame s t ∧ ∀ m, (t.core m).regs = (s.core m).regs) ∧
    (v.getLsbD 25 = false → Completes (.bcfgWrite b v) s (fun t => let x := t.bar b.toNat
      x.fail = false ∧ x.arrived = o.arrived ∧ x.phase = o.phase ∧
      (o.on = false → t.news = s.news) ∧
      (o.on = true → ∀ n x', fget? s.cores n = some x' → (∃ j < 16, (vget x'.regs.arr j ArrEntry.reset).armed = true ∧
        (vget x'.regs.arr j ArrEntry.reset).name = nameOfBarrier b.toNat) →
        ∃ y ∈ t.news, y.core = n ∧ y.name = nameOfBarrier b.toNat ∧ y.phase = o.phase.toNat ∧ y.fail = some 5) ∧
      (o.on = true → ∀ q, (s.queue q).block = .barrier (nameOfBarrier b.toNat) o.phase.toNat → (t.queue q).block = .failed 5))) ∧
    (v.getLsbD 25 = true → o.on = false ∨ o.fail = true → o.mods = [] → v.toNat % 2 ^ 24 ≠ 0 → Completes (.bcfgWrite b v) s (fun t =>
      let x := t.bar b.toNat
      x.fail = false ∧ x.arrived = 0 ∧ x.phase = o.phase ∧
      ∀ n x', fget? s.cores n = some x' → (∃ j < 16, (vget x'.regs.arr j ArrEntry.reset).armed = true ∧
        (vget x'.regs.arr j ArrEntry.reset).name = nameOfBarrier b.toNat) →
        ∃ y ∈ t.news, y.core = n ∧ y.name = nameOfBarrier b.toNat ∧ y.phase = o.phase.toNat ∧ y.fail = none)) ∧
    (∀ k, v.getLsbD 25 = true → v.getLsbD 24 = false → o.mods = [] →
      k = (if o.on = true ∧ o.fail = false then o.arrived else 0) → Completes (.bcfgWrite b v) s (fun t => let x := t.bar b.toNat
        if v.toNat % 2 ^ 24 ≤ k then
          x.arrived = 0 ∧ x.phase = o.phase + 1 ∧ x.last = BitVec.ofNat 64 (5 * 2 ^ 19) ∧ x.lastC = BitVec.ofNat 64 s.ns
        else x.arrived = k ∧ x.phase = o.phase ∧ x.last = o.last))) ∧
  (∀ (s : State) (b : BitVec 16) (v : Word), 41280 ≤ b.toNat → exec (.bcfgWrite b v) s = .next s) ∧
  (∀ (s : State) (p : BitVec 13),
    let x := fget Port.reset s.ports p.toNat
    (∀ b, x.en = true → barrierIndex x.name = some b → Completes (.arrivePortWrite p) s (fun t =>
      (∃ a : Arrival, t.arrivals = s.arrivals ++ [a] ∧ a.what = .arrival ∧ a.name = x.name ∧ a.tag = x.tag ∧ a.port = some p.toNat ∧
        a.src = 3 ∧ a.node = none ∧ a.module = s.podmod.toNat) ∧
      t.ports = s.ports ∧ MemorySame s t)) ∧
    (x.en = false ∨ barrierIndex x.name = none → Completes (.arrivePortWrite p) s (fun t =>
      t.arrivals = s.arrivals ∧ (fget Port.reset t.ports p.toNat).drop.toNat = min 0xFFFF (x.drop.toNat + 1) ∧ MemorySame s t)))

/-- Gang mode (R341, R345, R350): an arrival of a task binds the barrier to its node while that lives, is refused outside a gang and
from another node, and counts against T − g and cnt; a withdrawal lowers that and may complete the phase; the end of the node's last
task unbinds. What other modules tell of their nodes comes as log entry 35 says. -/
def Claim.BarrierGangs : Prop :=
  (∀ (s : State) (i : BitVec 16) (a : Arrival) (b h : Nat), s.arrivals[i.toNat]? = some a → farBar s a.name = false →
    a.module = s.podmod.toNat → a.what = .arrival → a.away = none → barrierIndex a.name = some b → a.node = some h → h < 2 ^ 37 →
    let x := s.bar b
    let e := (s.node h).tasks - (s.node h).left + x.cnt.toNat
    a.tag = x.tag → x.on = true → x.fail = false → x.gm = true → x.arrived + 1 < 2 ^ 24 →
    (∀ why, ((s.node h).gang = false ∧ why = 2) ∨ ((s.node h).gang = true ∧ (∃ k, x.node = some k ∧ k ≠ h) ∧ why = 3) →
      Completes (.barrierArrival i) s (fun t => t.bars = s.bars ∧ t.arrivals = s.arrivals.eraseIdx i.toNat ∧ MemorySame s t ∧
        ∀ j k, a.entry = some (j, k) → j < 16 → (vget (s.core a.core).regs.arr j ArrEntry.reset).armed = true →
          (vget (s.core a.core).regs.arr j ArrEntry.reset).serial = k →
          (vget (t.core a.core).regs.arr j ArrEntry.reset).refused = some why)) ∧
    ((s.node h).gang = true → x.node = some h ∨ (x.node = none ∧ (s.node h).ended < (s.node h).tasks) →
      (x.arrived + 1 < e → Completes (.barrierArrival i) s (fun t => (t.bar b).node = some h ∧ (t.bar b).arrived = x.arrived + 1 ∧
        (t.bar b).phase = x.phase ∧ t.news = s.news ∧ t.arrivals = s.arrivals.eraseIdx i.toNat ∧ MemorySame s t)) ∧
      (e ≤ x.arrived + 1 → Completes (.barrierArrival i) s (fun t => (t.bar b).node = some h ∧ (t.bar b).arrived = 0 ∧
        (t.bar b).phase = x.phase + 1 ∧ t.arrivals = s.arrivals.eraseIdx i.toNat ∧ MemorySame s t))) ∧
    ((s.node h).gang = true → x.node = none → (s.node h).tasks ≤ (s.node h).ended → x.arrived + 1 < x.cnt.toNat →
      Completes (.barrierArrival i) s (fun t => (t.bar b).node = none ∧ (t.bar b).arrived = x.arrived + 1))) ∧
  (∀ (s : State) (i : BitVec 16) (a : Arrival) (b : Nat), s.arrivals[i.toNat]? = some a → farBar s a.name = false →
    a.module = s.podmod.toNat → a.what = .arrival → barrierIndex a.name = some b → a.node = none →
    let x := s.bar b
    a.tag = x.tag → x.on = true → x.fail = false → x.gm = true → x.node = none → x.arrived + 1 < x.cnt.toNat →
    Completes (.barrierArrival i) s (fun t => (t.bar b).node = none ∧ (t.bar b).arrived = x.arrived + 1 ∧ (t.bar b).phase = x.phase)) ∧
  (∀ (s : State) (h core rtop b : Nat) (c : Word),
    let x := s.bar b
    let e := (s.node h).tasks - (s.node h).left + x.cnt.toNat
    (s.bars.map Prod.fst).Nodup → x.node = some h → h < 2 ^ 37 → x.on = true → x.fail = false → x.gm = true →
    (e ≤ x.arrived → ((withdraw h core rtop c s).bar b).phase = x.phase + 1 ∧ ((withdraw h core rtop c s).bar b).arrived = 0) ∧
    (x.arrived < e → ((withdraw h core rtop c s).bar b).phase = x.phase ∧ ((withdraw h core rtop c s).bar b).arrived = x.arrived)) ∧
  (∀ (s : State) (h b : Nat), (s.bar b).node = some h → ((unbind h s).bar b).node = none ∧
    ((unbind h s).bar b).phase = (s.bar b).phase ∧ ((unbind h s).bar b).arrived = (s.bar b).arrived) ∧
  (∀ (s : State) (i : BitVec 16) (a : Arrival) (b h : Nat), s.arrivals[i.toNat]? = some a → farBar s a.name = false →
    (∀ y ∈ s.arrivals.take i.toNat, ¬(y.module = a.module ∧ y.name = a.name)) → barrierIndex a.name = some b → a.node = some h →
    let x := s.bar b
    (a.what = .ended → x.node = some h → Completes (.barrierArrival i) s (fun t => (t.bar b).node = none ∧
      (t.bar b).phase = x.phase ∧ (t.bar b).arrived = x.arrived ∧ MemorySame s t)) ∧
    (a.what = .ended ∨ a.what = .leave → x.node ≠ some h → Completes (.barrierArrival i) s (fun t =>
      t.bars = s.bars ∧ t.arrivals = s.arrivals.eraseIdx i.toNat ∧ MemorySame s t)) ∧
    (∀ g m, a.what = .leave → x.node = some h → 2 ^ 37 ≤ h → a.away = some (g, m) → x.on = true → x.fail = false → x.gm = true →
      Completes (.barrierArrival i) s (fun t => MemorySame s t ∧
        (m + x.cnt.toNat ≤ x.arrived → (t.bar b).phase = x.phase + 1 ∧ (t.bar b).arrived = 0) ∧
        (x.arrived < m + x.cnt.toNat → (t.bar b).phase = x.phase ∧ (t.bar b).arrived = x.arrived))))

/-- Barriers: their homes, and gang mode (R341, R343 to R348, R350, R351). -/
def Obligations.Barriers : Prop :=
  Claim.BarrierHomes ∧ Claim.BarrierGangs

/-- Link ports move between their states as R361 says; flits are accepted in order, wait for the peer's credits, and are answered;
the pod's registers act as their words say (R26, R360 to R364, R367, R368). That minw 3 keeps the old value is log entry 27; that a
control flit's fields are free is log entry 35. -/
def Obligations.LinkPorts : Prop :=
  (∀ (s : State) (p : BitVec 6), 36 ≤ p.toNat → ∀ (m : BitVec 2) (g k : BitVec 8) (r : BitVec 6) (l : BitVec 16) (f : BitVec 2048),
    exec (.lctlEnable p m) s = .next s ∧ exec (.lctlDisable p) s = .next s ∧ exec (.lctlIsolate p) s = .next s ∧
    exec (.lctlUnisolate p) s = .next s ∧ exec (.linkTrainingDone p g k r) s = .next s ∧ exec (.linkTrainingTimeout p) s = .next s ∧
    exec (.linkRetrain p) s = .next s ∧ exec (.linkRetrainDone p g) s = .next s ∧ exec (.linkRetrainTimeout p) s = .next s ∧
    exec (.flitReceive p f) s = .next s ∧ exec (.replayRequest p l) s = .next s) ∧
  (∀ (s : State) (p : BitVec 6), p.toNat < 36 →
    let x := s.link p.toNat
    (∀ m : BitVec 2, Completes (.lctlEnable p m) s (fun t =>
      let y := t.link p.toNat
      y.en = true ∧ y.minw = (if m = 3 then x.minw else m) ∧
      y.st = (if x.st = .down then .training else x.st) ∧
      (x.st = .down → y.width = 0 ∧ y.since = s.now ∧ y.sendSeq = 0 ∧ y.wantSeq = 0) ∧ MemorySame s t)) ∧
    Completes (.lctlDisable p) s (fun t => (t.link p.toNat).st = .down ∧ (t.link p.toNat).en = false ∧
      (t.link p.toNat).width = 0 ∧ (t.link p.toNat).replay = [] ∧
      (x.replay = [] → x.out = [] → s.podheld = [] → s.podwin = [] → MemorySame s t ∧ t.cores = s.cores)) ∧
    Completes (.lctlIsolate p) s (fun t => (t.link p.toNat).st = .isolated ∧ (t.link p.toNat).en = x.en ∧
      (t.link p.toNat).replay = [] ∧ (x.replay = [] → x.out = [] → s.podheld = [] → s.podwin = [] → MemorySame s t ∧ t.cores = s.cores)) ∧
    (x.st = .isolated → x.en = true → Completes (.lctlUnisolate p) s (fun t => (t.link p.toNat).st = .training ∧ MemorySame s t)) ∧
    (x.st ≠ .isolated ∨ x.en = false → exec (.lctlUnisolate p) s = .next s) ∧
    (∀ (g k : BitVec 8) (r : BitVec 6), x.st = .training → s.now < x.since + 10000000000 →
      Completes (.linkTrainingDone p g k r) s (fun t =>
        let y := t.link p.toNat
        y.good = g ∧ y.pmod = k ∧ y.pport = r ∧ (s.podheld = [] → MemorySame s t) ∧
        (g = 0xFF → y.st = .up ∧ y.width = 8) ∧
        (g = 0x0F ∨ g = 0xF0 ∨ g = 0x3C → x.minw = 1 ∨ x.minw = 2 → y.st = .degraded ∧ y.width = 4) ∧
        (g = 0x03 → x.minw = 2 → y.st = .degraded ∧ y.width = 2) ∧
        (g ≠ 0xFF → x.minw = 0 → y.st = .isolated ∧ y.width = 0))) ∧
    (x.st ≠ .training → (∀ (g k : BitVec 8) (r : BitVec 6), exec (.linkTrainingDone p g k r) s = .next s) ∧
      exec (.linkTrainingTimeout p) s = .next s) ∧
    (x.st = .training → x.since + 10000000000 ≤ s.now → Completes (.linkTrainingTimeout p) s (fun t =>
      (t.link p.toNat).st = .isolated ∧ (t.link p.toNat).en = x.en)) ∧
    (x.st = .up ∨ x.st = .degraded → x.retrains = [] → Completes (.linkRetrain p) s (fun t =>
      (t.link p.toNat).st = .retraining ∧ (t.link p.toNat).rtr.toNat = min 255 (x.rtr.toNat + 1) ∧
      (t.link p.toNat).replay = x.replay ∧ MemorySame s t)) ∧
    (x.st = .up ∨ x.st = .degraded → (∃ a b, x.retrains = [a, b] ∧ s.now < a + 1000000000000 ∧ s.now < b + 1000000000000) →
      Completes (.linkRetrain p) s (fun t => (t.link p.toNat).st = .isolated)) ∧
    (x.st ≠ .up → x.st ≠ .degraded → exec (.linkRetrain p) s = .next s) ∧
    (∀ g : BitVec 8, x.st = .retraining → s.now < x.since + 200000000 → g = 0xFF →
      Completes (.linkRetrainDone p g) s (fun t => (t.link p.toNat).st = .up ∧ (t.link p.toNat).width = 8 ∧
        (s.podheld = [] → MemorySame s t ∧ (x.out = [] → (t.link p.toNat).replay = x.replay)))) ∧
    (x.st = .retraining → x.since + 200000000 ≤ s.now → Completes (.linkRetrainTimeout p) s (fun t =>
      (t.link p.toNat).st = .isolated)) ∧
    (x.st ≠ .retraining → (∀ g, exec (.linkRetrainDone p g) s = .next s) ∧ exec (.linkRetrainTimeout p) s = .next s) ∧
    (∀ f : BitVec 2048, x.st = .up ∨ x.st = .degraded → flitOk f = true →
      (Flit.cls f = 0 ∨ Flit.cls f = 1 ∨ Flit.cls f = 2) →
      x.out = [] → s.podheld = [] →
      (Flit.lseq f ≠ x.wantSeq → Completes (.flitReceive p f) s (fun t => (t.link p.toNat).wantSeq = x.wantSeq ∧
        (t.link p.toNat).asked = true ∧ (t.link p.toNat).replay = x.replay.filter (fun g => 2 ^ 15 ≤ (Flit.lack f - Flit.lseq g).toNat) ∧ MemorySame s t)) ∧
      (Flit.lseq f = x.wantSeq → Flit.cls f = 1 → Flit.dst f = s.podmod.toNat → Completes (.flitReceive p f) s (fun t =>
        (t.link p.toNat).wantSeq = x.wantSeq + 1 ∧
        (t.link p.toNat).replay = x.replay.filter (fun g => 2 ^ 15 ≤ (Flit.lack f - Flit.lseq g).toNat) ∧ MemorySame s t ∧
        ∀ r ∈ s.podreqs, r.isOwn = true → r.tid = Flit.tid f → r.mod = Flit.src f → r.ans = none → Flit.kind f = r.kind + 3 →
          r.who ≠ .gone → { r with ans := some f } ∈ t.podreqs)) ∧
      (Flit.lseq f = x.wantSeq → Flit.kind f = 6 → Flit.dst f = s.podmod.toNat → Completes (.flitReceive p f) s (fun t =>
        (t.link p.toNat).wantSeq = x.wantSeq + 1 ∧ MemorySame s t ∧
        ∃ a : Arrival, t.arrivals = s.arrivals ++ [a] ∧ a.name = Flit.pa f % 2 ^ 20 ∧ a.tag = Flit.tag f ∧ a.module = Flit.src f))) ∧
    (∀ f : BitVec 2048, x.st ≠ .up → x.st ≠ .degraded → exec (.flitReceive p f) s = .next s) ∧
    (∀ f : BitVec 2048, x.st = .up ∨ x.st = .degraded → flitOk f = false → Completes (.flitReceive p f) s (fun t =>
      (t.link p.toNat).asked = true ∧ (t.link p.toNat).wantSeq = x.wantSeq ∧ (t.link p.toNat).replay = x.replay ∧ MemorySame s t)) ∧
    (∀ l : BitVec 16, x.st = .up ∨ x.st = .degraded → x.replays = [] → (∃ f ∈ x.replay, (Flit.lseq f - l).toNat < 2 ^ 15) →
      Completes (.replayRequest p l) s (fun t => (t.link p.toNat).rpl = x.rpl + 1 ∧ (t.link p.toNat).replay = x.replay ∧
        (t.link p.toNat).st = x.st ∧ MemorySame s t)) ∧
    (∀ l : BitVec 16, x.replay = [] → exec (.replayRequest p l) s = .next s)) ∧
  (∀ (x : Link) (f : Flit), x.st.usable = true → x.out = [f] → Flit.cls f ≤ 2 → x.replay.length < 512 →
    let c := vget x.credits (chanIx f) 0
    (c = 0 → pumpOne x = x) ∧
    (0 < c → (pumpOne x).out = [] ∧ (pumpOne x).replay = x.replay ++ [sealFlit x f] ∧ (pumpOne x).sendSeq = x.sendSeq + 1 ∧
      vget (pumpOne x).credits (chanIx f) 0 = c - 1)) ∧
  (∀ (x : Link), 512 ≤ x.replay.length ∨ x.st.usable = false → pumpOne x = x) ∧
  (∀ (x : Link) (v : BitVec 96) (k : Nat), k < 6 → vget (addCredits v x).credits k 0 = vget x.credits k 0 + field v (16 * k) 16) ∧
  (∀ (s : State) (f : Flit),
    (Flit.dst f = s.podmod.toNat → Flit.kind f ≤ 2 → ∃ g, answerTo s f = some g ∧ Flit.kind g = Flit.kind f + 3 ∧
      Flit.dst g = Flit.src f ∧ Flit.src g = s.podmod.toNat ∧ Flit.tag g = Flit.tag f ∧ Flit.tid g = Flit.tid f ∧ Flit.hop g = 0) ∧
    (Flit.dst f ≠ s.podmod.toNat → Flit.hop f = 0 → answerTo s f = some (f ||| 4)) ∧
    (Flit.dst f ≠ s.podmod.toNat → Flit.hop f = 1 → answerTo s f = none) ∧
    (Flit.kind f = 0 ∨ requestOk s f = false → flitRequest f s = s)) ∧
  (∀ (s : State) (w : BitVec 6) (v : Word),
    Completes (.podwinWrite w 1 v) s (fun t =>
      fget PodWin.reset t.podwin w.toNat = { fget PodWin.reset s.podwin w.toNat with
        mod := v.toNat % 2 ^ 8, rbase := v.toNat / 2 ^ 30 % 2 ^ 22 * 2 ^ 30 } ∧ MemorySame s t) ∧
    Completes (.podwinWrite w 0 v) s (fun t =>
      let x := fget PodWin.reset t.podwin w.toNat
      let o := fget PodWin.reset s.podwin w.toNat
      let sz := v.toNat / 2 % 2 ^ 5
      let a := v.toNat / 2 ^ 30 % 2 ^ 22 * 2 ^ 30
      let n := 2 ^ (sz + 30)
      let good := sz ≤ 11 ∧ a % n = 0 ∧ o.rbase % n = 0 ∧ 2 ^ 42 + s.flash.tier ≤ a ∧
        a + n ≤ 2 ^ 43 ∧ (o.rbase + n ≤ 2 ^ 41 ∨ (2 ^ 42 ≤ o.rbase ∧ o.rbase + n ≤ 2 ^ 43)) ∧ o.mod ≠ s.podmod.toNat ∧
        ∀ e ∈ s.podwin, e.1 ≠ w.toNat → e.2.en = true → a + n ≤ e.2.lbase ∨ e.2.lbase + 2 ^ (e.2.sz + 30) ≤ a
      MemorySame s t ∧ (v.getLsbD 0 = false ∨ good → x = { o with en := v.getLsbD 0, sz := sz, lbase := a }) ∧
      (v.getLsbD 0 = true → ¬good → x = { o with en := false })))

/-! ## Errors, repair, power -/

/-- Uncorrectable errors are contained as R372 and R380 say, HBM is repaired and its frames retired, and heat and power act on
their quad (R8, R18, R30, R251, R372, R377 to R380). Log entry 23 says which alerts are of one command and which lines it addresses,
entry 32 when the frames of an offline pseudo-channel join the bad-frame list, entry 37 where a window of pulses begins, entry 124 what
measures a limit, and entry 134 who consumes an accumulator error under a wide lease. -/
def Obligations.ErrorsAndRepair : Prop :=
  (∀ (s : State) (pa : Pa),
    (inMemory pa.toNat = true → podOf s pa.toNat = none → Completes (.uncorrectableError (.line pa)) s (fun t =>
      poisoned t pa.toNat = true ∧ MemorySame s t ∧ t.cores = s.cores)) ∧
    (pa.toNat / 128 ∉ s.dirty → exec (.uncorrectableError (.slice pa)) s = .next s) ∧
    (∀ tag, pa.toNat / 128 ∈ s.dirty → fget? s.writer (pa.toNat / 128) = some tag →
      Completes (.uncorrectableError (.slice pa)) s (fun t => Terminates s t tag)) ∧
    (∀ tag, isPad pa.toNat = true → granTag s pa.toNat = some tag →
      Completes (.uncorrectableError (.pad pa)) s (fun t => Terminates s t tag))) ∧
  (∀ (s : State) (n : CoreId),
    ((regsOf s n).run ≠ .idle → Completes (.uncorrectableError (.regs n)) s (fun t => Terminates s t (regsOf s n).id.tag)) ∧
    ((regsOf s n).run = .idle → exec (.uncorrectableError (.regs n)) s = .next s) ∧
    (∀ tag, (s.quad (n.toNat / 4)).array.holder = none → fget? s.acctag n.toNat = some tag →
      Completes (.uncorrectableError (.acc n)) s (fun t => Terminates s t tag)) ∧
    (∀ h, (s.quad (n.toNat / 4)).array.holder = some h → (s.quad (n.toNat / 4)).array.wide = true →
      Completes (.uncorrectableError (.acc n)) s (fun t => Terminates s t (s.core (4 * (n.toNat / 4) + h)).regs.id.tag)) ∧
    Completes (.uncorrectableError (.cache n)) s (fun t => MemorySame s t ∧ OthersSame s t n ∧ regsOf t n = regsOf s n ∧
      (∀ x ∈ (t.core n.toNat).cache.l1, x ∈ (s.core n.toNat).cache.l1) ∧
      ∀ x ∈ (t.core n.toNat).cache.icache, x ∈ (s.core n.toNat).cache.icache)) ∧
  (∀ (s : State) (q : QuadId) (c : BitVec 9) (b : BitVec 16) (d : DieId) (m : Cmd) (r : List Cmd) (x : BitVec 6),
    Completes (.uncorrectableError (.quadTlb q)) s (fun t => MemorySame s t ∧ t.cores = s.cores ∧
      (∀ k, (∀ l ∈ (t.quad k).l2tlb, l ∈ (s.quad k).l2tlb) ∧ ∀ w ∈ (t.quad k).walks, w ∈ (s.quad k).walks) ∧
      (∀ k, ∀ l ∈ fget [] t.etlb k, l ∈ fget [] s.etlb k) ∧ ∀ k, ∀ l ∈ (t.disp k).tlb, l ∈ (s.disp k).tlb) ∧
    ((s.quad q.toNat).array.holder = none → exec (.uncorrectableError (.fold q)) s = .next s) ∧
    (∀ h, (s.quad q.toNat).array.holder = some h → (s.quad q.toNat).array.csum = false →
      Completes (.uncorrectableError (.fold q)) s (fun t => Terminates s t (s.core (4 * q.toNat + h)).regs.id.tag)) ∧
    (HeadOf s c m r → m.result = none → m.tmpl = none → Completes (.uncorrectableError (.channel c)) s (fun t =>
      (t.chan c.toNat).cmds = { m with result := some 0x0A, park := none } :: r ∧ MemorySame s t)) ∧
    (b.toNat < 41280 → Completes (.uncorrectableError (.barrier b)) s (fun t => Terminates s t (s.bar b.toNat).tag)) ∧
    ((s.link x.toNat).replay = [] → (s.link x.toNat).out = [] → exec (.uncorrectableError (.link x)) s = .next s) ∧
    Completes (.uncorrectableError (.imem d)) s (fun t => (t.disp d.toNat).restart = true ∧ MemorySame s t) ∧
    (∀ (y : BitVec 10) (e : List (Nat × Nat) × Nat),
      (∀ i : Fin 3, (fget [] s.flash.tables[i].rows y.toNat, fget 0 s.flash.tables[i].lanes y.toNat) = e) →
      Completes (.uncorrectableError (.remap y)) s (fun t => MemorySame s t ∧ t.cores = s.cores ∧
        ∀ i : Fin 3, (fget [] t.flash.tables[i].rows y.toNat, fget 0 t.flash.tables[i].lanes y.toNat) = e))) ∧
  (∀ (s : State) (pa : Pa),
    (hbmEnd ≤ pa.toNat → exec (.hbmParityAlert pa) s = .next s ∧ exec (.hbmRepair pa) s = .next s) ∧
    (pa.toNat < hbmEnd → alertsOf s pa.toNat < 2 → Completes (.hbmParityAlert pa) s (fun t =>
      alertsOf t pa.toNat = alertsOf s pa.toNat + 1 ∧ t.poison = s.poison ∧ MemorySame s t ∧
      ∀ a, pcOf a = pcOf pa.toNat → a / 128 ≠ pa.toNat / 128 → alertsOf t a = 0)) ∧
    (pa.toNat < hbmEnd → alertsOf s pa.toNat = 2 → Completes (.hbmParityAlert pa) s (fun t =>
      poisoned t pa.toNat = true ∧ alertsOf t pa.toNat = 0 ∧ MemorySame s t ∧
      ∀ l ∈ t.poison, l ∈ s.poison ∨ l / 512 = pa.toNat / 65536)) ∧
    (let r := fget 0 s.repcfg (pa.toNat / 2 ^ 16 % 2 ^ 5)
     let k := pa.toNat / 2 ^ 16 % 2 ^ 5 * 32 + pa.toNat / 2 ^ 21 % 2 ^ 5
     let full := 16384 ≤ s.flash.badFrames.length ∧ 4096 ≤ s.flash.overflow.length
     (full → exec (.hbmRepair pa) s = .next s) ∧
     (pa.toNat < hbmEnd → r.toNat / 2 % 2 ^ 15 ≠ 0 → ¬full →
      (r.getLsbD 0 = true → r.toNat / 2 ^ 16 % 2 ^ 16 ≠ 0 → Completes (.hbmRepair pa) s (fun t => isPaused t pa.toNat = true ∧
        (fget 0 t.repcfg (pa.toNat / 2 ^ 16 % 2 ^ 5)).toNat = r.toNat - 2 ^ 16 ∧
        fget 0 t.flash.lanes k = fget 0 s.flash.lanes k + 1 ∧ MemorySame s t ∧
        ∀ i : Fin 3, fget 0 t.flash.tables[i].lanes k = fget 0 s.flash.lanes k + 1)) ∧
      (r.getLsbD 0 = false ∨ r.toNat / 2 ^ 16 % 2 ^ 16 = 0 → pa.toNat / 65536 ∉ s.flash.leaving → Completes (.hbmRepair pa) s (fun t =>
        t.flash.leaving = s.flash.leaving ++ [pa.toNat / 65536] ∧ t.flash.badFrames = s.flash.badFrames ∧ t.poison = s.poison ∧
        t.host = s.host ++ [.frame (pa.toNat / 65536 * 65536)] ∧ MemorySame s t))))) ∧
  (∀ (s : State) (f : Nat), f ∈ s.flash.leaving →
    let t := frameDone f s
    f ∉ t.flash.leaving ∧ (∀ l ∈ t.poison, l / 512 ≠ f) ∧ (∀ l ∈ s.poison, l / 512 ≠ f → l ∈ t.poison) ∧ MemorySame s t ∧
    t.cores = s.cores ∧
    (s.flash.badFrames.length < 16384 → f ∈ t.flash.badFrames ∧ t.flash.overflow = s.flash.overflow) ∧
    (16384 ≤ s.flash.badFrames.length → s.flash.overflow.length < 4096 → t.flash.badFrames = s.flash.badFrames ∧
      f ∈ t.flash.overflow ∧ t.host = s.host ++ [.listFull])) ∧
  (∀ (s : State) (k : BitVec 10),
    exec (.hbmRefreshLimit k) s = .next s ∧
    Completes (.laneSwapDone k) s (fun t => k.toNat ∉ t.flash.paused ∧ MemorySame s t ∧
      ∀ j, j ≠ k.toNat → (j ∈ t.flash.paused ↔ j ∈ s.flash.paused)) ∧
    (k.toNat ∉ s.flash.offline → s.flash.presence = [] → Completes (.tableVoteFail k) s (fun t =>
      k.toNat ∈ t.flash.offline ∧ MemorySame s t ∧ t.cores = s.cores ∧
      ∀ pa, pa < hbmEnd → pcOf pa = k.toNat → poisoned t pa = true ∧ pa / 65536 ∈ t.flash.badFrames)) ∧
    (∀ tag, k.toNat ∉ s.flash.offline → s.flash.presence = [(k.toNat, tag)] → Completes (.tableVoteFail k) s (fun t =>
      Terminates s t tag)) ∧
    (k.toNat ∈ s.flash.offline → exec (.tableVoteFail k) s = .next s)) ∧
  (∀ (s : State) (d : DieId),
    Completes (.schedulerRestart d) s (fun t => (t.disp d.toNat).restart = true ∧ MemorySame s t ∧ t.queues = s.queues ∧
      t.cores = s.cores) ∧
    ((s.disp d.toNat).restart = false → exec (.schedulerRestartDone d) s = .next s) ∧
    (∀ q x, (s.disp d.toNat).restart = true → s.queues = [(q, x)] → x.home = d.toNat → x.st = .idle →
      (∀ v, x.latched = [(some v, none)] → Completes (.schedulerRestartDone d) s (fun t =>
        (t.disp d.toNat).restart = false ∧ (t.queue q).wake = v ∧ (t.queue q).wakep = true ∧ (t.queue q).latched = [])) ∧
      (∀ v : BitVec 32, x.latched = [(none, some v)] → (v - x.head).toNat ≤ 2 ^ (x.lsz + 4) →
        Completes (.schedulerRestartDone d) s (fun t => (t.disp d.toNat).restart = false ∧ (t.queue q).tail = v)))) ∧
  (∀ (s : State) (q : QuadId) (r c : BitVec 16),
    let y := s.quad q.toNat
    (∀ w, y.limOver = true → y.limAt + 10 ^ 10 ≤ s.now → y.ceilAt = some w → w + 10 ^ 10 ≤ s.now →
      Completes (.thermalEvent q) s (fun t => (t.quad q.toNat).hot = true ∧ (t.quad q.toNat).swSet = 57344 ∧
        t.host = s.host ++ [.thermal q.toNat] ∧ MemorySame s t ∧ t.cores = s.cores)) ∧
    (y.limOver = false ∨ s.now < y.limAt + 10 ^ 10 ∨ y.ceilAt = none → exec (.thermalEvent q) s = .next s) ∧
    (y.limOver = false → y.limAt + 10 ^ 10 ≤ s.now → Completes (.thermalClear q) s (fun t =>
      (t.quad q.toNat).hot = false ∧ t.host = s.host ∧ MemorySame s t ∧ t.cores = s.cores)) ∧
    (y.limOver = true ∨ s.now < y.limAt + 10 ^ 10 → exec (.thermalClear q) s = .next s) ∧
    Completes (.swallowUpdate q r c) s (fun t =>
      (t.quad q.toNat).swCeil.toNat = min 57344 c.toNat ∧
      (t.quad q.toNat).swSet.toNat = (if y.hot = true then 57344 else min r.toNat (min 57344 c.toNat)) ∧
      (t.quad q.toNat).swTotal = y.swTotal ∧ (t.quad q.toNat).swRatio = y.swRatio ∧
      (t.quad q.toNat).cycle = y.cycle ∧ MemorySame s t ∧ t.cores = s.cores)) ∧
  (∀ (s : State) (q : Nat),
    let y := s.quad q
    let u := (swallowPulse q s).quad q
    (y.swNow < y.swSet.toNat → y.swRef ≠ 65535 → u.swTotal = y.swTotal + 1 ∧ u.swRatio = y.swRatio ∧ u.swNow = y.swNow + 1 ∧
      u.swRef = y.swRef + 1 ∧ u.cycle = y.cycle) ∧
    (y.swNow < y.swSet.toNat → y.swRef = 65535 → u.swTotal = y.swTotal + 1 ∧ u.swRatio.toNat = (y.swNow + 1) % 2 ^ 16 ∧
      u.swNow = 0 ∧ u.swRef = 0 ∧ u.cycle = y.cycle) ∧
    (y.swSet.toNat ≤ y.swNow → swallowPulse q s = s))

/-! ## The debug core, the trace and the monitors -/

/-- Halts and resumes, abstract commands, the trace and the monitors (R384, R385, R388 to R394). Log entry 31 says what an access to a
read-only register and a later error do to cmderr, and log entry 128 at which counts a sample falls. -/
def Obligations.DebugAndTrace : Prop :=
  (∀ (s : State) (d : DieId) (k : Nat), k < 64 →
    let n := 64 * d.toNat + k
    ((s.core n).halt.halted = false → NotHeld s n → Completes (.dbgHaltRequest d (BitVec.ofNat 64 (2 ^ k))) s (fun t =>
      (t.core n).halt.req = true ∧ (t.core n).halt.halted = false ∧ (t.core n).regs = (s.core n).regs ∧ MemorySame s t ∧
      ∀ m, m ≠ n → t.core m = s.core m)) ∧
    ((s.core n).halt.halted = false → (s.core n).regs.out ≠ .off → Completes (.dbgHaltRequest d (BitVec.ofNat 64 (2 ^ k))) s
      (fun t => (t.core n).halt.halted = true ∧ (t.core n).regs = (s.core n).regs ∧ MemorySame s t ∧
        ∀ m, m ≠ n → t.core m = s.core m)) ∧
    Completes (.dbgResume d (BitVec.ofNat 64 (2 ^ k))) s (fun t => (t.core n).halt.halted = false ∧
      (t.core n).halt.req = (s.core n).halt.req ∧ (t.core n).regs = (s.core n).regs ∧ MemorySame s t ∧
      ∀ m, m ≠ n → t.core m = s.core m)) ∧
  (∀ (s : State) (d : DieId) (r : Nat), r < 40 →
    let n := 64 * d.toNat + (s.dbgOf d.toNat).sel.toNat
    let g := (s.core n).regs.task
    let rd : BitVec 32 := BitVec.ofNat 32 (0x320000 + 0x1000 + r)
    let wr : BitVec 32 := BitVec.ofNat 32 (0x330000 + 0x1000 + r)
    ((s.core n).halt.halted = true →
      Completes (.dbgAccessRegister d rd) s (fun t => (t.dbgOf d.toNat).data0 = vget g.s r 0 ∧ MemorySame s t ∧ t.cores = s.cores) ∧
      Completes (.dbgAccessRegister d wr) s (fun t => (t.core n).regs.task.s = vset g.s r (s.dbgOf d.toNat).data0 ∧
        (t.core n).regs.vec = (s.core n).regs.vec ∧ MemorySame s t ∧ ∀ m, m ≠ n → t.core m = s.core m)) ∧
    ((s.core n).halt.halted = false → Completes (.dbgAccessRegister d rd) s (fun t => (t.dbgOf d.toNat).cmderr = 4 ∧
      (t.dbgOf d.toNat).data0 = (s.dbgOf d.toNat).data0 ∧ OnlyDebug s t d.toNat))) ∧
  (∀ (s : State) (d : DieId) (c : BitVec 32), c.getLsbD 17 = false ∨ c.getLsbD 18 = true ∨ c.getLsbD 23 = true →
    Completes (.dbgAccessRegister d c) s (fun t => (t.dbgOf d.toNat).cmderr = 2 ∧ OnlyDebug s t d.toNat)) ∧
  (∀ (s : State) (d : DieId) (z : Nat), z < 4 →
    let a := (s.dbgOf d.toNat).data1.toNat
    let rd : BitVec 32 := BitVec.ofNat 32 (0x100000 * z)
    let wr : BitVec 32 := BitVec.ofNat 32 (0x100000 * z + 0x10000)
    PlainBytes s a (2 ^ z) → (∀ i < 2 ^ z, reservedPa s (a + i) = false ∧ poisoned s (a + i) = false) →
    Completes (.dbgAccessMemory d rd) s (fun t => (t.dbgOf d.toNat).data0.toNat = Memory.read s.mem a (2 ^ z) ∧ MemorySame s t) ∧
    (Memory.wf s.mem = true → Completes (.dbgAccessMemory d wr) s (fun t =>
      WritesBytes s t a (2 ^ z) (s.dbgOf d.toNat).data0.toNat ∧ t.cores = s.cores))) ∧
  (∀ (s : State) (f d : Nat) (busy : List Nat) (c : BitVec 32), d ∈ busy → dbgcmdRun (f + 1) busy d c s = cmdErr d 1 s) ∧
  (∀ (s : State) (d : DieId) (c : BitVec 32), c.toNat / 2 ^ 17 % 4 ≠ 0 ∨ c.toNat % 2 ^ 16 ≠ 0 ∨ 3 < c.toNat / 2 ^ 20 % 8 →
    Completes (.dbgAccessMemory d c) s (fun t => (t.dbgOf d.toNat).cmderr = 2 ∧ OnlyDebug s t d.toNat)) ∧
  (∀ (s : State) (d : DieId) (v : Word),
    Completes (.traceArm d v) s (fun t => (traceOf t d).armed = true ∧ (traceOf t d).state = 0 ∧ (traceOf t d).idx = 0 ∧
      (traceOf t d).wrap = v.getLsbD 1 ∧ (traceOf t d).start.toNat = v.toNat / 2 ^ 4 % 2 ^ 4 ∧
      (traceOf t d).stop.toNat = v.toNat / 2 ^ 8 % 2 ^ 4 ∧ (traceOf t d).tcore.toNat = v.toNat / 2 ^ 12 % 2 ^ 6 ∧ OnlyDebug s t d.toNat) ∧
    Completes (.traceStop d v) s (fun t => (traceOf t d).armed = false ∧ (traceOf t d).state = 2 ∧
      (traceOf t d).idx = (traceOf s d).idx ∧ OnlyDebug s t d.toNat)) ∧
  (∀ (s : State) (n : CoreId),
    let d := n.toNat / 64
    let x := (s.dbgOf d).trace
    let c := (s.quad (n.toNat / 4)).cycle.toNat
    (x.per ≠ 0 → c % x.per.toNat = 0 → fget? x.sampled n.toNat ≠ some c → x.mask.getLsbD (n.toNat % 64) = true →
      Completes (.traceSample n) s (fun t => OnlyDebug s t d ∧
        ∃ r : TraceRec, (t.dbgOf d).trace.pend = x.pend ++ [r] ∧ r.kind = 1 ∧ r.core = n.toNat ∧ r.cycle = c % 2 ^ 48)) ∧
    (x.per = 0 ∨ c % x.per.toNat ≠ 0 ∨ x.mask.getLsbD (n.toNat % 64) = false → exec (.traceSample n) s = .next s)) ∧
  (∀ (s : State) (d : DieId),
    let x := traceOf s d
    let c := (s.quad ((64 * d.toNat + x.tcore.toNat) / 4)).cycle
    (x.start = 5 → c = x.startV → Completes (.traceCycleReached d 0) s (fun t => (traceOf t d).hitStart = true ∧ OnlyDebug s t d.toNat)) ∧
    (x.stop = 5 → c = x.stopV → Completes (.traceCycleReached d 1) s (fun t => (traceOf t d).hitStop = true ∧ OnlyDebug s t d.toNat)) ∧
    (x.start ≠ 5 ∨ c ≠ x.startV → exec (.traceCycleReached d 0) s = .next s) ∧
    (x.stop ≠ 5 ∨ c ≠ x.stopV → exec (.traceCycleReached d 1) s = .next s)) ∧
  (∀ (s : State) (d : DieId) (m : BitVec 6) (v : Word), Completes (.monClear d m v) s (fun t =>
    (monOf t d m).min = BitVec.allOnes 48 ∧ (monOf t d m).max = 0 ∧ (monOf t d m).cnt = 0 ∧
    (∀ i < 16, vget (monOf t d m).bins i 0 = 0) ∧ (monOf t d m).base = (monOf s d m).base ∧
    ((monOf t d m).cfg.getLsbD 12 = true ↔ v.getLsbD 12 = true ∧ 1 ≤ v.toNat % 2 ^ 5 ∧ v.toNat % 2 ^ 5 ≤ 10) ∧
    (monOf t d m).cfg.getLsbD 14 = false ∧ OnlyDebug s t d.toNat)) ∧
  (∀ (s : State) (q : QuadId),
    ((s.quad q.toNat).monAt = some (s.quad q.toNat).cycle.toNat → exec (.monitorCycleSample q) s = .next s) ∧
    ((s.quad q.toNat).monAt ≠ some (s.quad q.toNat).cycle.toNat → (s.dbgOf (q.toNat / 16)).mons = [] →
      Completes (.monitorCycleSample q) s (fun t => (t.quad q.toNat).monAt = some (s.quad q.toNat).cycle.toNat ∧ MemorySame s t ∧
        t.cores = s.cores))) ∧
  (∀ (m : Mon) (v : Nat), v < 2 ^ 48 →
    (monUpdate m v).min.toNat = min m.min.toNat v ∧ (monUpdate m v).max.toNat = max m.max.toNat v ∧
    (monUpdate m v).cnt = m.cnt + 1)

/-! ## The host, registers and reset -/

/-- Host accesses, writes of system software, module reset, attestation, and the fold array's grant and control registers (R28,
R29, R158, R159, R181, R352, R356, R375, R381, R382, R400). Log entry 22 orders the checks of a host access, entry 102 says when the
boot steps happen, entry 131 that drains of a suspended task hold the grant, and entry 145 which stores the host may not see yet. -/
def Obligations.HostRegistersReset : Prop :=
  (∀ (s : State) (w x : BitVec 1) (pa : Pa) (en : BitVec 8) (v : Word),
    s.boot.stage ≠ 8 ∨ s.boot.recovery = true → exec (.hostAccess w x pa en v) s = .next { s with host := s.host ++ [.unsupported] }) ∧
  (∀ (s : State) (pa : Pa) (en : BitVec 8) (v : Word), s.boot.stage = 8 → s.boot.recovery = false → Memory.wf s.mem = true →
    let a := pa.toNat / 8 * 8
    (∀ i < 8, podOf s (a + i) = none) → reservedPa s a = false →
    (isHost a = true ∧ hasRight s 0 4 2 1 = true ∨ a < hbmEnd ∧ (s.port.cxl = true ∨ isRecord s a = true ∨ hasRight s 0 4 0 1 = true) →
    ∃ u, exec (.hostAccess 1 0 pa en v) s = .next (testWaits a u) ∧ (monitored s a = false → testWaits a u = u) ∧
      u.host = s.host ∧ u.cores = s.cores ∧
      ∀ b, Memory.get u.mem b =
        if a ≤ b ∧ b < a + 8 ∧ en.getLsbD (b - a) = true then BitVec.ofNat 8 (v.toNat / 256 ^ (b - a)) else Memory.get s.mem b) ∧
    (isHost a = true ∧ hasRight s 0 4 2 0 = true ∨ a < hbmEnd ∧ (s.port.cxl = true ∨ isRecord s a = true ∨ hasRight s 0 4 0 0 = true) →
      (∀ e ∈ s.hostlag, ¬(a ≤ e.2.1 ∧ e.2.1 < a + 8)) →
    Completes (.hostAccess 0 0 pa en v) s (fun t => t.mem = s.mem ∧ t.cores = s.cores ∧
      ∃ x : Word, t.host = s.host ++ [.read x] ∧ ∀ i < 8,
        lane 8 (wordVec x) i = if en.getLsbD i = true then (Memory.get s.mem (a + i)).toNat else 0)) ∧
    (a < hbmEnd → s.port.cxl = false → isRecord s a = false → hasRight s 0 4 0 1 = false →
      exec (.hostAccess 1 0 pa en v) s = .next { s with host := s.host ++ [.unsupported] })) ∧
  (∀ (s : State) (a : Nat), hostByte s a = dbgByte s a ∨ ∃ e ∈ s.hostlag, e.2.1 = a ∧ hostByte s a = e.2.2) ∧
  (∀ (s : State) (k : BitVec 11) (v : Word),
    let pa : Pa := BitVec.ofNat 52 (0xF0001B0030000 + 8 * k.toNat)
    Completes (.registerWrite pa v) s (fun t => (t.irq k.toNat).cnt.toNat = v.toNat % 2 ^ 8 ∧
      (t.irq k.toNat).tmax.toNat = v.toNat / 2 ^ 16 % 2 ^ 16 ∧ MemorySame s t ∧ t.cores = s.cores)) ∧
  (∀ (s : State) (k : BitVec 12) (v : Word),
    let pa : Pa := BitVec.ofNat 52 (0xF0001B0040000 + 8 * k.toNat)
    Completes (.registerWrite pa v) s (fun t => (fget 0 t.ctxbud k.toNat).toNat = v.toNat % 2 ^ 53 ∧ MemorySame s t ∧
      t.cores = s.cores)) ∧
  (∀ (s : State) (pa : Pa) (v : Word), pa.toNat < engBase → exec (.registerWrite pa v) s = .next s) ∧
  (∀ (s : State),
    (s.flash.factoryOk = true → s.flash.fieldOk = true → Completes .moduleReset s (fun t =>
      t.cores = [] ∧ t.quads = [] ∧ t.ctxs = [] ∧ t.queues = [] ∧ t.nodes = [] ∧ t.bars = [] ∧ t.links = [] ∧ t.poison = [] ∧
      t.boot.stage = 8 ∧ t.boot.recovery = false ∧ t.host = s.host ∧ t.now = s.now ∧ t.flash.badFrames = s.flash.badFrames ∧
      t.flash.remaps = s.flash.remaps ∧ t.flash.lanes = s.flash.lanes ∧
      (∀ (i : Fin 8) x, s.flash.images[i.val]? = some x → t.boot.measures[i] = Config.sha512 x) ∧
      (∃ g, t.boot.golden = some g ∧ g % 2 ^ 28 = 0 ∧ g + 2 ^ 28 ≤ hbmEnd ∧
        ∀ p, g ≤ p → p < g + 2 ^ 28 → reservedPa t p = true) ∧
      ∀ a, Memory.get t.mem a = if isHost a = true then Memory.get s.mem a else 0)) ∧
    (s.flash.factoryOk = true → s.flash.fieldOk = false → Completes .moduleReset s (fun t => t.boot.stage = 8 ∧
      t.host = s.host ++ [.fieldFail] ∧ t.flash.badFrames = [] ∧ t.flash.remaps = [] ∧ t.flash.lanes = [])) ∧
    (s.flash.factoryOk = false → Completes .moduleReset s (fun t => t.boot.stage = 2 ∧ t.boot.recovery = true ∧ t.cores = []))) ∧
  (∀ (s : State), s.boot.stage = 8 → s.boot.recovery = false →
    exec .getCertificate s = .next { s with host := s.host ++ [.certificate s.flash.cert] } ∧
    exec .getMeasurements s = .next { s with host := s.host ++ [.measurements s.boot.measures (Config.sign s.boot.measures)] }) ∧
  (∀ (s : State), s.boot.stage ≠ 8 → exec .getCertificate s = .next s ∧ exec .getMeasurements s = .next s) ∧
  (∀ (s : State) (q : QuadId) (k : Nat), (s.quad q.toNat).array.holder = none → (s.quad q.toNat).array.drains = [] → k < 4 →
    (s.quad q.toNat).array.lastHolder < 4 →
    (s.core (q.toNat * 4 + k)).fold.lease = .waiting → (∀ i < 4, ∀ x ∈ (s.core (q.toNat * 4 + i)).susp, x.drains = []) →
    (∀ i < (k + 3 - (s.quad q.toNat).array.lastHolder) % 4,
      (s.core (q.toNat * 4 + ((s.quad q.toNat).array.lastHolder + 1 + i) % 4)).fold.lease ≠ .waiting) →
    Completes (.leaseGrant q) s (fun t =>
      let a := (t.quad q.toNat).array
      a.holder = some k ∧ a.lastHolder = k ∧ a.slots = [] ∧ a.steps = 0 ∧ a.flight = [] ∧
      a.remaining = (s.core (q.toNat * 4 + k)).fold.drains ∧ a.wide = (s.core (q.toNat * 4 + k)).fold.wide ∧
      (t.core (q.toNat * 4 + k)).fold.lease = .granted ∧ (∀ m, (t.core m).regs = (s.core m).regs) ∧ MemorySame s t)) ∧
  (∀ (s : State) (q : QuadId), (s.quad q.toNat).array.holder.isSome = true ∨
      (∃ k < 4, ∃ x ∈ (s.core (q.toNat * 4 + k)).susp, x.drains ≠ []) ∨
      (∀ k < 4, (s.core (q.toNat * 4 + k)).fold.lease ≠ .waiting) → exec (.leaseGrant q) s = .next s) ∧
  (∀ (s : State) (n : CoreId) (g : BitVec 5),
    ((s.core n.toNat).fold.lease = .granted ∨ (s.core n.toNat).fold.lease = .held →
      Completes (.fctlClr n) s (fun t => (t.quad (n.toNat / 4)).array = { cleared (s.quad (n.toNat / 4)).array with flight := [] } ∧
        t.cores = s.cores ∧ MemorySame s t) ∧
      (4 ≤ g.toNat → g.toNat ≤ 16 → Completes (.fctlSetg n g) s (fun t =>
        (t.quad (n.toNat / 4)).array = { (s.quad (n.toNat / 4)).array with g := g.toNat } ∧ t.cores = s.cores ∧ MemorySame s t)) ∧
      (g.toNat < 4 ∨ 16 < g.toNat → exec (.fctlSetg n g) s = .next s)) ∧
    ((s.core n.toNat).fold.lease = .none ∨ (s.core n.toNat).fold.lease = .waiting →
      exec (.fctlClr n) s = .next s ∧ exec (.fctlSetg n g) s = .next s))

/-! ## The machine as a whole -/

/-- What the machine holds after reset, and its first step: nothing runs, memory lists nothing and reads 0, counters are 0, and left
alone the module boots (R29, R381). The value of an unwritten byte and the outcome of the images' checks are the model's choice
(log entries 1, 2 and 7). -/
def Obligations.ResetState : Prop :=
  Memory.wf State.reset.mem = true ∧ (∀ a, Memory.get State.reset.mem a = 0) ∧
  (∀ n, (State.reset.core n).regs.run = .idle ∧ (State.reset.core n).regs.out = .off ∧ (State.reset.core n).fold.lease = .none ∧
    (State.reset.core n).halt = ⟨false, false⟩ ∧ (State.reset.core n).regs.task.lq = [] ∧ (State.reset.core n).regs.task.sq = []) ∧
  (∀ q, (State.reset.quad q).cycle = 0 ∧ (State.reset.quad q).swTotal = 0 ∧ (State.reset.quad q).hot = false ∧
    (State.reset.quad q).array.holder = none) ∧
  (∀ t, (State.reset.ctx t).st = .free) ∧ (∀ q, (State.reset.queue q).st = .undefined) ∧ State.reset.now = 0 ∧
  ∃ t, step State.reset = .next t ∧ t.boot.stage = 8 ∧ t.boot.recovery = false ∧ t.cores = [] ∧ t.mem = []

/-- One step does the next act of the agenda, or a turn of the machine left alone (log entry 5); a context condemned in it is then
terminated (R372). Within it a dispatched bundle's syllables enter the slot queues, and the fixed group issues the bundle at the head
of its queue when the slots are aligned and the slip allows: a bundle whose only syllable is i does what exec says of i and leaves the
queue. A C syllable that waits or tests acts on the state at the start of the cycle; one that acts last acts once W and F have issued
its bundle. W and F run what they decode at the heads of their queues; and a dispatcher runs the decoded word of its queue program
(R10 to R12, R15, R54, R101, R309). -/
def Obligations.StepRunsInstruction : Prop :=
  (∀ (s : State) (r : List Act),
    (s.agenda = [] → step s = .next (turn s)) ∧
    (∀ i t, s.agenda = .occur i :: r → exec i { s with agenda := r } = .next t →
      step s = .next (sweep t) ∧ (t.doom = [] → step s = .next t)) ∧
    (∀ q slip, s.agenda = .pulse q slip :: r → step s = .next (sweep (pulse q.toNat slip { s with agenda := r }))) ∧
    (∀ ps, s.agenda = .time ps :: r → step s = .next { s with agenda := r, now := s.now + ps })) ∧
  (∀ (p : Pipe) (b : Bundle), p.dispatch b = { p with
    bq := p.bq ++ [b]
    wq := p.wq ++ (if b.syl .W = 0 then [] else [⟨b.syl .W, b.addr, p.bn + p.gap + p.bq.length, 0, 0, 0, 0, 0, true, 0⟩])
    fq := p.fq ++ (if b.syl .F = 0 then [] else [⟨b.syl .F, b.addr, p.bn + p.gap + p.bq.length⟩]) }) ∧
  (∀ (s : State) (b : Bundle) (r : List Bundle), s.pipe.bq = b :: r →
    (aligned s b = true → inSlip s = true → issueHead s = issueBundle b s) ∧
    (aligned s b = false ∨ inSlip s = false → issueHead s = s)) ∧
  (∀ (s : State) (b : Bundle) (p : Pos) (i : Instr), decodeSyl p (b.syl p) = .ok i → (∀ q, q ≠ p → b.syl q = 0) →
    b.sync = false → b.land = false → bundleFault s b = none → s.regs.emul = [] → stopped s s = false →
    (p = .L → s.pipe.ldq.length < ldqCap s.me) →
    let done := bundleDone s.cur.toNat s.me.outrider s.fGroup
    (∀ t, p ≠ .W → p ≠ .F → p ≠ .C → exec i s = .next t → stopped s t = false → issueBundle b s = done (applyInc t)) ∧
    (∀ t, p = .C → endsWait (cOp b) = true → exec i s = .next t → stopped s t = false → issueBundle b s = done (applyInc t)) ∧
    (∀ t, p = .C → cOp b = 0x0C → exec i s = .next t → faulted s t = false → t.pipe.waits = false →
      issueBundle b s = done ((applyInc s).modRegs (fun r => { r with vec := { r.vec with banks := t.regs.vec.banks } }))) ∧
    (p = .C → actsAfter (cOp b) = true →
      (testsFirst (cOp b) = true → ∃ t, exec i s = .next t ∧ faulted s t = false ∧ t.pipe.waits = false) →
      issueBundle b s = done ((applyInc s).modPipe (fun x => { x with after := some b }))) ∧
    (∀ u, p = .C → endsWait (cOp b) = false → cOp b ≠ 0x0C → actsAfter (cOp b) = false →
      (testsFirst (cOp b) = true → ∃ t, exec i s = .next t ∧ faulted s t = false ∧ t.pipe.waits = false) →
      exec i (applyInc s) = .next u → actsLast (cOp b) = true ∨ (faulted s u = false ∧ u.pipe.waits = false) →
      issueBundle b s = done u) ∧
    (p = .W → issueBundle b s = done (applyInc (enterW b i s))) ∧
    (p = .F → s.fGroup = false → issueBundle b s = done (applyInc s)) ∧
    (∀ t, p = .F → s.fGroup = true → exec i s = .next t → stopped s t = false → issueBundle b s = done (applyInc t))) ∧
  (∀ (s t : State) (b : Bundle) (i : Instr), s.pipe.after = some b → decodeSyl .C (b.syl .C) = .ok i → exec i s = .next t →
    (s.pipe.bn ≤ s.pipe.wn → s.pipe.bn ≤ s.pipe.fn → ¬(t.pipe.waits = true ∧ t.me.outrider = true) →
      afterTurn s = t.modPipeOf s.cur.toNat s.me.outrider (fun p => { p with after := none })) ∧
    (s.pipe.wn < s.pipe.bn ∨ s.pipe.fn < s.pipe.bn → afterTurn s = s)) ∧
  (∀ (s : State) (e : WEntry) (r : List WEntry) (i : Instr) (t : State), s.pipe.wn < s.pipe.bn → s.pipe.wq = e :: r →
    e.bn = s.pipe.wn → s.regs.emul.contains 5 = false ∨ s.me.outrider = true →
    decodeSyl .W e.syl = .ok i → exec i s = .next t → issueW s = t) ∧
  (∀ (s : State) (e : FEntry) (r : List FEntry) (i : Instr) (t : State), s.pipe.fn < s.pipe.bn → s.pipe.fq = e :: r →
    e.bn = s.pipe.fn → decodeSyl .F e.syl = .ok i → exec i s = .next t → faulted s t = false → t.pipe.waits = false →
    issueF s = t.modPipe (fun p => { p with fq := p.fq.tail, fn := p.fn + 1 })) ∧
  (∀ s : State, (s.pipe.bn ≤ s.pipe.wn → mayLead s s.pipe.wn = false → issueW s = s) ∧
    (s.pipe.bn ≤ s.pipe.fn → mayLead s s.pipe.fn = false → issueF s = s)) ∧
  (∀ (s : State) (d : DieId) (q : Nat) (i : Instr) (t : State), (s.disp d.toNat).run = some q → (s.queue q).entered = true →
    decodeQb ((s.queue q).prog.getD (s.queue q).pc 0x1C) = .ok i →
    exec i { s with cur := BitVec.ofNat 11 (64 * d.toNat) } = .next t →
    exec (.queueRun d) s = .next (saveChanged s { t with cur := s.cur }))

/-- Words that the spec writes out decode to the instruction they stand for, one or more of each map; an op value no map assigns
is illegal (R54, R79). -/
def Obligations.DecodeWords : Prop :=
  decodeSyl .S 0x0613FD04 = .ok (.sAddi 0 4 0xFF4 4) ∧
  decodeSyl .S 0x404D1E03 = .ok (.sSel 0 19 17 56 3) ∧
  decodeSyl .C 0x2A000007 = .ok (.cTkwait 0 7) ∧
  decodeSyl .C 0x3000FA03 = .ok (.cBwait 1000 3) ∧
  decodeSyl .VA 0x020C1A82 = .ok (.vAdd .va 0 3 1 42 2) ∧
  decodeSyl .VB 0x07055B08 = .ok (.vMul .vb 1 1 21 44 8) ∧
  decodeSyl .L 0x04420078 = .ok (.lLdi 2 1 1 56) ∧
  decodeSyl .W 0x08A71C80 = .ok (.wStx 41 49 50) ∧
  decodeSyl .F 0x107A0880 = .ok (.fWide 30 32 34 0 0) ∧
  decodeSyl .K 0x020F1E00 = .ok (.kLd 3 49 56) ∧
  decodeQb 0x10000216 = .ok (.qbCond 1 0 0 2) ∧
  (∀ u : BitVec 32,
    (46 ≤ u.toNat / 2 ^ 25 → decodeSyl .S u = .illegalOp) ∧
    (34 ≤ u.toNat / 2 ^ 25 % 2 ^ 6 → decodeSyl .C u = .illegalOp) ∧
    (78 ≤ u.toNat / 2 ^ 25 → decodeSyl .VA u = .illegalOp ∧ decodeSyl .VB u = .illegalOp) ∧
    (30 ≤ u.toNat / 2 ^ 25 → decodeSyl .L u = .illegalOp) ∧
    (34 ≤ u.toNat / 2 ^ 25 → decodeSyl .W u = .illegalOp) ∧
    (26 ≤ u.toNat / 2 ^ 25 → decodeSyl .F u = .illegalOp) ∧
    (10 ≤ u.toNat / 2 ^ 25 → decodeSyl .K u = .illegalOp) ∧
    (30 ≤ u.toNat % 2 ^ 8 → decodeQb u = .illegalOp))

/-- Decoding what the encoder writes gives every well-formed instruction back, at every value of its fields; and a word that
decodes is the one its instruction encodes to, but for the SYNC bit above a C syllable: each word has one meaning (R54, R55, R79,
R309). -/
def Obligations.RoundTrip : Prop :=
  (∀ i : Instr, i.WellFormed → rowHome i ≠ .event → ReadsAs (rowHome i) (encode i) i) ∧
  (∀ i : Instr, rowHome i = .slot .C → (encode i).getLsbD 31 = false) ∧
  (∀ (p : Pos) (u : BitVec 32) (i : Instr), decodeSyl p u = .ok i →
    encode i = (if p = .C then u &&& 0x7FFFFFFF else u) ∧ i.WellFormed) ∧
  (∀ (u : BitVec 32) (i : Instr), decodeQb u = .ok i → encode i = u ∧ i.WellFormed)

/-- Memory: a read of bytes just written gives them, little-endian (R1); a write changes no other byte; and two canonical memories
that read alike are the same data. -/
def Obligations.MemoryReadsBack : Prop :=
  (∀ (m : List Host.Cell) (a v n : Nat), Memory.wf m = true → Memory.read (Memory.write m a v n) a n = v % 256 ^ n) ∧
  (∀ (m : List Host.Cell) (a v n b : Nat), Memory.wf m = true → b < a ∨ a + n ≤ b →
    Memory.get (Memory.write m a v n) b = Memory.get m b) ∧
  (∀ (m : List Host.Cell) (a n k : Nat), Memory.read m a (n + k) = Memory.read m a n + 256 ^ n * Memory.read m (a + n) k) ∧
  (∀ (m l : List Host.Cell), Memory.wf m = true → Memory.wf l = true → (∀ a, Memory.get m a = Memory.get l a) → m = l)

/-- Taking a trap: the task's pipelines stand as they were, but for what W has issued ahead of the fixed group, which is withdrawn
unless the trap is a slipped slot's; the trap registers say what happened and the outrider starts at landing
frt; in the outrider it is DOUBLE before `c.ack` and OUTRIDER after it. A bundle that a cause of R80 meets takes it at its lowest
position, and none of its syllables has an effect (R80, R263 to R266, R269). -/
def Obligations.TrapsEnter : Prop :=
  (∀ (s : State) (cause : Nat) (a : Word) (slot : Nat) (b : Word) (slip fetch : Bool), s.me.outrider = false → cause < 256 → slot < 8 →
    let t := takeTrap s cause a slot b slip fetch
    TrapTaken s t s.cur cause a slot b ∧ t.regs.task = (if slip then s.regs.task else s.regs.task.withdraw) ∧
    t.regs.trap.tdbuf = s.regs.trap.tdbuf ∧
    t.regs.trap.ttarget = s.regs.trap.ttarget ∧ t.regs.trap.tstatus.getLsbD 2 = false ∧ t.regs.trap.tstatus.getLsbD 3 = false ∧
    t.regs.trap.tstatus.getLsbD 4 = slip ∧ t.regs.trap.tstatus.getLsbD 5 = fetch ∧
    t.regs.trap.tstatus.getLsbD 6 = s.regs.trap.tstatus.getLsbD 6 ∧ t.me.mail = s.me.mail ∧ t.me.fold = s.me.fold) ∧
  (∀ (s : State) (cause : Nat) (a : Word) (slot : Nat) (b : Word) (slip fetch : Bool), s.me.outrider = true →
    let t := takeTrap s cause a slot b slip fetch
    let k := if s.regs.trap.tstatus.getLsbD 1 then 3 else 2
    t.regs = { s.regs with out := if s.regs.trap.tstatus.getLsbD 1 then .fault cause a else .double cause a } ∧
    (t.quad s.myQuad).trapRec = (s.quad s.myQuad).trapRec ++ [trapRecord s k cause a] ∧ MemorySame s t ∧ OthersSame s t s.cur) ∧
  (∀ p : Pipe, let w := p.withdraw
    (p.wn ≤ p.bn → w = p) ∧ w.bq = p.bq ∧ w.fq = p.fq ∧ w.s = p.s ∧ w.p = p.p ∧ w.latch = p.latch ∧ w.ldq = p.ldq ∧
    (p.bn < p.wn → w.wn = p.bn ∧ w.sq = p.sq.filter (fun r => r.bn < p.bn) ∧ w.lq = p.lq.filter (fun r => r.bn < p.bn) ∧
      w.spst = p.spst.filter (fun x => x.bn < p.bn))) ∧
  (∀ (s : State) (b : Bundle) (c : Nat) (p : Pos), bundleFault s b = some (c, p) →
    issueBundle b s = takeTrap (if c = 1 ∨ c = 2 then s.modPipe (fun x => x.redecode b) else s) c 0 p.num b.addr false false ∧
    sylFault s b p c = true ∧
    (∀ q, sylFault s b q c = true → p.num ≤ q.num) ∧ (∀ q k, k < c → sylFault s b q k = false))

/-- The frame of issue: a syllable of S, VA, VB, L, W, F or K changes at its issue no byte of memory, no other core and no register
file of its own: its results land later, its stores are performed later (R60, R61, R136, R139). One of S, VA, VB or K changes no
feed, token, arrival or window register either. -/
def Obligations.IssueFrames : Prop :=
  (∀ (i : Instr) (p : Pos) (s t : State), rowHome i = .slot p → p ≠ .C → exec i s = .next t → t.cur = s.cur ∧ FilesSame s t) ∧
  (∀ (i : Instr) (p : Pos) (s t : State), rowHome i = .slot p → p ∈ [Pos.S, .VA, .VB, .K] → exec i s = .next t →
    SameRegisters s t)

/-- Every step and every occurrence answers a next state, so no run ends, and keeps memory's canonical form. -/
def Obligations.MemoryInvariant : Prop :=
  (∀ s : State, NeverStops s) ∧
  (∀ s t : State, Memory.wf s.mem = true → step s = .next t → Memory.wf t.mem = true) ∧
  (∀ (i : Instr) (s t : State), Memory.wf s.mem = true → exec i s = .next t → Memory.wf t.mem = true)

/-! ## Rules stated whole -/

/-- R86: what `li` and `lih` write, how a `li` and three `lih` build any constant, and the values of the example. -/
def Obligations.ConstantsBuild : Prop :=
  let li : BitVec 18 → Word := fun i => BitVec.ofInt 64 i.toInt
  let lih : Word → BitVec 18 → Word := fun o i => BitVec.ofNat 64 (o.toNat * 2 ^ 18 + i.toNat)
  (∀ (s : State) (w : BitVec 1) (d : BitVec 6) (i : BitVec 18),
    exec (.sLi w d i) s = .next (withResults s (resultsAt s .S 1 (targets .S w d) (wordVec (li i)))) ∧
    exec (.sLih w d i) s = .next (withResults s (resultsAt s .S 1 (targets .S w d) (wordVec (lih (oldS s w d) i))))) ∧
  (∀ v : Word,
    lih (lih (lih (li (BitVec.ofInt 18 (BitVec.ofNat 10 (v.toNat / 2 ^ 54)).toInt)) (BitVec.ofNat 18 (v.toNat / 2 ^ 36)))
      (BitVec.ofNat 18 (v.toNat / 2 ^ 18))) (BitVec.ofNat 18 v.toNat) = v) ∧
  li 0x4 = 0x4 ∧ lih 0x4 0x23456 = 0x123456 ∧ lih 0x123456 0x1E26A = 0x48D159E26A ∧
  lih 0x48D159E26A 0x3CDEF = 0x0123456789ABCDEF

/-- R297 and R400: a write of FCTL of core n. -/
def Obligations.FctlWrites : Prop :=
  (∀ (s : State) (n : CoreId) (v : Word),
    let t := sysWrite n.toNat 0x403 v s
    let a := (s.quad (n.toNat / 4)).array
    let g := v.toNat / 2 ^ 4 % 2 ^ 5
    let holds := (s.core n.toNat).fold.lease = .granted ∨ (s.core n.toNat).fold.lease = .held
    (t.core n.toNat).fold.inj = v.getLsbD 9 ∧
    (∀ m, (t.core m).fold.lease = (s.core m).fold.lease ∧ (m ≠ n.toNat → (t.core m).fold.inj = (s.core m).fold.inj)) ∧
    (∀ q, q ≠ n.toNat / 4 → (t.quad q).array = (s.quad q).array) ∧
    (v.getLsbD 0 = false → v.getLsbD 1 = false → (t.quad (n.toNat / 4)).array = a) ∧
    (¬holds → (t.quad (n.toNat / 4)).array = a) ∧
    (holds → v.getLsbD 0 = true → v.getLsbD 1 = false → (t.quad (n.toNat / 4)).array = { cleared a with flight := [] }) ∧
    (holds → v.getLsbD 0 = false → v.getLsbD 1 = true → 4 ≤ g → g ≤ 16 → (t.quad (n.toNat / 4)).array = { a with g := g }) ∧
    (holds → v.getLsbD 0 = true → v.getLsbD 1 = true → 4 ≤ g → g ≤ 16 →
      (t.quad (n.toNat / 4)).array = { cleared a with flight := [], g := g })) ∧
  (∀ (s : State) (v : Word) (a b : BitVec 6), HoldsLease s → v.getLsbD 9 = false →
    exec (.fInject a b) (sysWrite s.cur.toNat 0x403 v s) = .next (slotTraps (sysWrite s.cur.toNat 0x403 v s) 0x03 0 .F))

/-- R7 and R369: the numbers of a core that HWID gives, the number of its quad, and the module's number, set by PODCFG while every
port is down or isolated. -/
def Obligations.HardwareNumbers : Prop :=
  (∀ (s : State) (p : Pipe) (d q c : Nat), d < 32 → q < 16 → c < 4 →
    let n := d * 64 + q * 4 + c
    let h := (sysRead s n p 0x001).toNat
    n < 2048 ∧ h % 2 ^ 2 = c ∧ h / 2 ^ 2 % 2 ^ 4 = q ∧ h / 2 ^ 6 % 2 ^ 5 = d ∧ h / 2 ^ 11 % 2 ^ 8 = s.podmod.toNat ∧
    sysRead s n p 0x010 = (s.quad (d * 16 + q)).cycle) ∧
  (∀ (s : State) (v : BitVec 8),
    ((∀ p < 36, (s.link p).st = .down ∨ (s.link p).st = .isolated) →
      Completes (.podcfgWrite v) s (fun t => t.podmod = v ∧ MemorySame s t ∧ t.links = s.links)) ∧
    ((∃ p < 36, (s.link p).st ≠ .down ∧ (s.link p).st ≠ .isolated) → exec (.podcfgWrite v) s = .next s)) ∧
  (∀ (s : State) (v : Word), (∀ p < 36, (s.link p).st = .down ∨ (s.link p).st = .isolated) →
    Completes (.registerWrite 0xF0001B0080800 v) s (fun t => t.podmod.toNat = v.toNat % 2 ^ 8))
end

