-- ==== Sys2Proof/Laws/State.lean ====
section
/-! SUPPORT. Laws of the maps and of the accessors of State: one lemma per field per update, and what an accessor reads after
an update through another. -/

namespace Sys2Proof.Machine

/-! ## Finite maps -/

@[simp] theorem fget_nil {α : Type} (d : α) (n : Nat) : fget d [] n = d := rfl

@[simp] theorem fget_fset_same {α : Type} (d x : α) (m : FMap α) (n : Nat) : fget d (fset m n x) n = x := by
  induction m with
  | nil => simp [fset, fget]
  | cons e r ih =>
    obtain ⟨k, v⟩ := e
    simp only [fset]
    split
    · simp [fget]
    · split
      · simp [fget]
      · simp only [fget, if_neg ‹¬k = n›, ih]

theorem fget_fset_ne {α : Type} (d x : α) (m : FMap α) {n k : Nat} (h : k ≠ n) : fget d (fset m n x) k = fget d m k := by
  induction m with
  | nil => simp [fset, fget, Ne.symm h]
  | cons e r ih =>
    obtain ⟨j, v⟩ := e
    simp only [fset]
    split
    · simp [fget, Ne.symm h]
    · split
      · next h2 => subst h2; simp [fget, Ne.symm h]
      · simp only [fget, ih]

theorem fget_fset {α : Type} (d x : α) (m : FMap α) (n k : Nat) :
    fget d (fset m n x) k = if k = n then x else fget d m k := by
  split
  · next h => subst h; exact fget_fset_same ..
  · next h => exact fget_fset_ne _ _ _ h

@[simp] theorem fset_fset {α : Type} (x y : α) (m : FMap α) (n : Nat) : fset (fset m n x) n y = fset m n y := by
  induction m with
  | nil => simp [fset]
  | cons e r ih =>
    obtain ⟨k, v⟩ := e
    simp only [fset]
    split
    · simp [fset]
    · split
      · simp [fset]
      · simp only [fset, if_neg ‹¬n < k›, if_neg ‹¬k = n›, ih]

/-! ## Register files -/

@[simp] theorem vget_vset_same {α : Type} {n : Nat} (v : Vector α n) (i : Nat) (x d : α) (h : i < n) :
    vget (vset v i x) i d = x := by
  simp [vget, vset, h]

theorem vget_vset_ne {α : Type} {n : Nat} (v : Vector α n) {i j : Nat} (x d : α) (h : j ≠ i) :
    vget (vset v i x) j d = vget v j d := by
  unfold vget vset
  split
  · rw [Vector.getElem_setIfInBounds_ne _ (Ne.symm h)]
  · rfl

/-! ## Fields of State -/

@[simp] theorem setCore_mem (s : State) (n : Nat) (c : Core) : (s.setCore n c).mem = s.mem := rfl
@[simp] theorem modCore_mem (s : State) (n : Nat) (f : Core → Core) : (s.modCore n f).mem = s.mem := rfl
@[simp] theorem modMe_mem (s : State) (f : Core → Core) : (s.modMe f).mem = s.mem := rfl
@[simp] theorem modPipe_mem (s : State) (f : Pipe → Pipe) : (s.modPipe f).mem = s.mem := rfl
@[simp] theorem modRegs_mem (s : State) (f : CoreRegs → CoreRegs) : (s.modRegs f).mem = s.mem := rfl
@[simp] theorem setQuad_mem (s : State) (n : Nat) (c : Quad) : (s.setQuad n c).mem = s.mem := rfl
@[simp] theorem modQuad_mem (s : State) (n : Nat) (f : Quad → Quad) : (s.modQuad n f).mem = s.mem := rfl
@[simp] theorem setCtx_mem (s : State) (n : Nat) (c : Ctx) : (s.setCtx n c).mem = s.mem := rfl
@[simp] theorem modDbg_mem (s : State) (n : Nat) (f : Dbg → Dbg) : (s.modDbg n f).mem = s.mem := rfl
@[simp] theorem setCore_poison (s : State) (n : Nat) (c : Core) : (s.setCore n c).poison = s.poison := rfl
@[simp] theorem modCore_poison (s : State) (n : Nat) (f : Core → Core) : (s.modCore n f).poison = s.poison := rfl
@[simp] theorem modMe_poison (s : State) (f : Core → Core) : (s.modMe f).poison = s.poison := rfl
@[simp] theorem modPipe_poison (s : State) (f : Pipe → Pipe) : (s.modPipe f).poison = s.poison := rfl
@[simp] theorem modRegs_poison (s : State) (f : CoreRegs → CoreRegs) : (s.modRegs f).poison = s.poison := rfl
@[simp] theorem setQuad_poison (s : State) (n : Nat) (c : Quad) : (s.setQuad n c).poison = s.poison := rfl
@[simp] theorem modQuad_poison (s : State) (n : Nat) (f : Quad → Quad) : (s.modQuad n f).poison = s.poison := rfl
@[simp] theorem setCtx_poison (s : State) (n : Nat) (c : Ctx) : (s.setCtx n c).poison = s.poison := rfl
@[simp] theorem modDbg_poison (s : State) (n : Nat) (f : Dbg → Dbg) : (s.modDbg n f).poison = s.poison := rfl
@[simp] theorem setCore_writer (s : State) (n : Nat) (c : Core) : (s.setCore n c).writer = s.writer := rfl
@[simp] theorem modCore_writer (s : State) (n : Nat) (f : Core → Core) : (s.modCore n f).writer = s.writer := rfl
@[simp] theorem modMe_writer (s : State) (f : Core → Core) : (s.modMe f).writer = s.writer := rfl
@[simp] theorem modPipe_writer (s : State) (f : Pipe → Pipe) : (s.modPipe f).writer = s.writer := rfl
@[simp] theorem modRegs_writer (s : State) (f : CoreRegs → CoreRegs) : (s.modRegs f).writer = s.writer := rfl
@[simp] theorem setQuad_writer (s : State) (n : Nat) (c : Quad) : (s.setQuad n c).writer = s.writer := rfl
@[simp] theorem modQuad_writer (s : State) (n : Nat) (f : Quad → Quad) : (s.modQuad n f).writer = s.writer := rfl
@[simp] theorem setCtx_writer (s : State) (n : Nat) (c : Ctx) : (s.setCtx n c).writer = s.writer := rfl
@[simp] theorem modDbg_writer (s : State) (n : Nat) (f : Dbg → Dbg) : (s.modDbg n f).writer = s.writer := rfl
@[simp] theorem setCore_dirty (s : State) (n : Nat) (c : Core) : (s.setCore n c).dirty = s.dirty := rfl
@[simp] theorem modCore_dirty (s : State) (n : Nat) (f : Core → Core) : (s.modCore n f).dirty = s.dirty := rfl
@[simp] theorem modMe_dirty (s : State) (f : Core → Core) : (s.modMe f).dirty = s.dirty := rfl
@[simp] theorem modPipe_dirty (s : State) (f : Pipe → Pipe) : (s.modPipe f).dirty = s.dirty := rfl
@[simp] theorem modRegs_dirty (s : State) (f : CoreRegs → CoreRegs) : (s.modRegs f).dirty = s.dirty := rfl
@[simp] theorem setQuad_dirty (s : State) (n : Nat) (c : Quad) : (s.setQuad n c).dirty = s.dirty := rfl
@[simp] theorem modQuad_dirty (s : State) (n : Nat) (f : Quad → Quad) : (s.modQuad n f).dirty = s.dirty := rfl
@[simp] theorem setCtx_dirty (s : State) (n : Nat) (c : Ctx) : (s.setCtx n c).dirty = s.dirty := rfl
@[simp] theorem modDbg_dirty (s : State) (n : Nat) (f : Dbg → Dbg) : (s.modDbg n f).dirty = s.dirty := rfl
@[simp] theorem setCore_sptag (s : State) (n : Nat) (c : Core) : (s.setCore n c).sptag = s.sptag := rfl
@[simp] theorem modCore_sptag (s : State) (n : Nat) (f : Core → Core) : (s.modCore n f).sptag = s.sptag := rfl
@[simp] theorem modMe_sptag (s : State) (f : Core → Core) : (s.modMe f).sptag = s.sptag := rfl
@[simp] theorem modPipe_sptag (s : State) (f : Pipe → Pipe) : (s.modPipe f).sptag = s.sptag := rfl
@[simp] theorem modRegs_sptag (s : State) (f : CoreRegs → CoreRegs) : (s.modRegs f).sptag = s.sptag := rfl
@[simp] theorem setQuad_sptag (s : State) (n : Nat) (c : Quad) : (s.setQuad n c).sptag = s.sptag := rfl
@[simp] theorem modQuad_sptag (s : State) (n : Nat) (f : Quad → Quad) : (s.modQuad n f).sptag = s.sptag := rfl
@[simp] theorem setCtx_sptag (s : State) (n : Nat) (c : Ctx) : (s.setCtx n c).sptag = s.sptag := rfl
@[simp] theorem modDbg_sptag (s : State) (n : Nat) (f : Dbg → Dbg) : (s.modDbg n f).sptag = s.sptag := rfl
@[simp] theorem setCore_acctag (s : State) (n : Nat) (c : Core) : (s.setCore n c).acctag = s.acctag := rfl
@[simp] theorem modCore_acctag (s : State) (n : Nat) (f : Core → Core) : (s.modCore n f).acctag = s.acctag := rfl
@[simp] theorem modMe_acctag (s : State) (f : Core → Core) : (s.modMe f).acctag = s.acctag := rfl
@[simp] theorem modPipe_acctag (s : State) (f : Pipe → Pipe) : (s.modPipe f).acctag = s.acctag := rfl
@[simp] theorem modRegs_acctag (s : State) (f : CoreRegs → CoreRegs) : (s.modRegs f).acctag = s.acctag := rfl
@[simp] theorem setQuad_acctag (s : State) (n : Nat) (c : Quad) : (s.setQuad n c).acctag = s.acctag := rfl
@[simp] theorem modQuad_acctag (s : State) (n : Nat) (f : Quad → Quad) : (s.modQuad n f).acctag = s.acctag := rfl
@[simp] theorem setCtx_acctag (s : State) (n : Nat) (c : Ctx) : (s.setCtx n c).acctag = s.acctag := rfl
@[simp] theorem modDbg_acctag (s : State) (n : Nat) (f : Dbg → Dbg) : (s.modDbg n f).acctag = s.acctag := rfl
@[simp] theorem setCore_now (s : State) (n : Nat) (c : Core) : (s.setCore n c).now = s.now := rfl
@[simp] theorem modCore_now (s : State) (n : Nat) (f : Core → Core) : (s.modCore n f).now = s.now := rfl
@[simp] theorem modMe_now (s : State) (f : Core → Core) : (s.modMe f).now = s.now := rfl
@[simp] theorem modPipe_now (s : State) (f : Pipe → Pipe) : (s.modPipe f).now = s.now := rfl
@[simp] theorem modRegs_now (s : State) (f : CoreRegs → CoreRegs) : (s.modRegs f).now = s.now := rfl
@[simp] theorem setQuad_now (s : State) (n : Nat) (c : Quad) : (s.setQuad n c).now = s.now := rfl
@[simp] theorem modQuad_now (s : State) (n : Nat) (f : Quad → Quad) : (s.modQuad n f).now = s.now := rfl
@[simp] theorem setCtx_now (s : State) (n : Nat) (c : Ctx) : (s.setCtx n c).now = s.now := rfl
@[simp] theorem modDbg_now (s : State) (n : Nat) (f : Dbg → Dbg) : (s.modDbg n f).now = s.now := rfl
@[simp] theorem setCore_agenda (s : State) (n : Nat) (c : Core) : (s.setCore n c).agenda = s.agenda := rfl
@[simp] theorem modCore_agenda (s : State) (n : Nat) (f : Core → Core) : (s.modCore n f).agenda = s.agenda := rfl
@[simp] theorem modMe_agenda (s : State) (f : Core → Core) : (s.modMe f).agenda = s.agenda := rfl
@[simp] theorem modPipe_agenda (s : State) (f : Pipe → Pipe) : (s.modPipe f).agenda = s.agenda := rfl
@[simp] theorem modRegs_agenda (s : State) (f : CoreRegs → CoreRegs) : (s.modRegs f).agenda = s.agenda := rfl
@[simp] theorem setQuad_agenda (s : State) (n : Nat) (c : Quad) : (s.setQuad n c).agenda = s.agenda := rfl
@[simp] theorem modQuad_agenda (s : State) (n : Nat) (f : Quad → Quad) : (s.modQuad n f).agenda = s.agenda := rfl
@[simp] theorem setCtx_agenda (s : State) (n : Nat) (c : Ctx) : (s.setCtx n c).agenda = s.agenda := rfl
@[simp] theorem modDbg_agenda (s : State) (n : Nat) (f : Dbg → Dbg) : (s.modDbg n f).agenda = s.agenda := rfl
@[simp] theorem setCore_doom (s : State) (n : Nat) (c : Core) : (s.setCore n c).doom = s.doom := rfl
@[simp] theorem modCore_doom (s : State) (n : Nat) (f : Core → Core) : (s.modCore n f).doom = s.doom := rfl
@[simp] theorem modMe_doom (s : State) (f : Core → Core) : (s.modMe f).doom = s.doom := rfl
@[simp] theorem modPipe_doom (s : State) (f : Pipe → Pipe) : (s.modPipe f).doom = s.doom := rfl
@[simp] theorem modRegs_doom (s : State) (f : CoreRegs → CoreRegs) : (s.modRegs f).doom = s.doom := rfl
@[simp] theorem setQuad_doom (s : State) (n : Nat) (c : Quad) : (s.setQuad n c).doom = s.doom := rfl
@[simp] theorem modQuad_doom (s : State) (n : Nat) (f : Quad → Quad) : (s.modQuad n f).doom = s.doom := rfl
@[simp] theorem setCtx_doom (s : State) (n : Nat) (c : Ctx) : (s.setCtx n c).doom = s.doom := rfl
@[simp] theorem modDbg_doom (s : State) (n : Nat) (f : Dbg → Dbg) : (s.modDbg n f).doom = s.doom := rfl
@[simp] theorem setCore_fresh (s : State) (n : Nat) (c : Core) : (s.setCore n c).fresh = s.fresh := rfl
@[simp] theorem modCore_fresh (s : State) (n : Nat) (f : Core → Core) : (s.modCore n f).fresh = s.fresh := rfl
@[simp] theorem modMe_fresh (s : State) (f : Core → Core) : (s.modMe f).fresh = s.fresh := rfl
@[simp] theorem modPipe_fresh (s : State) (f : Pipe → Pipe) : (s.modPipe f).fresh = s.fresh := rfl
@[simp] theorem modRegs_fresh (s : State) (f : CoreRegs → CoreRegs) : (s.modRegs f).fresh = s.fresh := rfl
@[simp] theorem setQuad_fresh (s : State) (n : Nat) (c : Quad) : (s.setQuad n c).fresh = s.fresh := rfl
@[simp] theorem modQuad_fresh (s : State) (n : Nat) (f : Quad → Quad) : (s.modQuad n f).fresh = s.fresh := rfl
@[simp] theorem setCtx_fresh (s : State) (n : Nat) (c : Ctx) : (s.setCtx n c).fresh = s.fresh := rfl
@[simp] theorem modDbg_fresh (s : State) (n : Nat) (f : Dbg → Dbg) : (s.modDbg n f).fresh = s.fresh := rfl
@[simp] theorem setCore_cur (s : State) (n : Nat) (c : Core) : (s.setCore n c).cur = s.cur := rfl
@[simp] theorem modCore_cur (s : State) (n : Nat) (f : Core → Core) : (s.modCore n f).cur = s.cur := rfl
@[simp] theorem modMe_cur (s : State) (f : Core → Core) : (s.modMe f).cur = s.cur := rfl
@[simp] theorem modPipe_cur (s : State) (f : Pipe → Pipe) : (s.modPipe f).cur = s.cur := rfl
@[simp] theorem modRegs_cur (s : State) (f : CoreRegs → CoreRegs) : (s.modRegs f).cur = s.cur := rfl
@[simp] theorem setQuad_cur (s : State) (n : Nat) (c : Quad) : (s.setQuad n c).cur = s.cur := rfl
@[simp] theorem modQuad_cur (s : State) (n : Nat) (f : Quad → Quad) : (s.modQuad n f).cur = s.cur := rfl
@[simp] theorem setCtx_cur (s : State) (n : Nat) (c : Ctx) : (s.setCtx n c).cur = s.cur := rfl
@[simp] theorem modDbg_cur (s : State) (n : Nat) (f : Dbg → Dbg) : (s.modDbg n f).cur = s.cur := rfl
@[simp] theorem setQuad_cores (s : State) (n : Nat) (c : Quad) : (s.setQuad n c).cores = s.cores := rfl
@[simp] theorem modQuad_cores (s : State) (n : Nat) (f : Quad → Quad) : (s.modQuad n f).cores = s.cores := rfl
@[simp] theorem setCtx_cores (s : State) (n : Nat) (c : Ctx) : (s.setCtx n c).cores = s.cores := rfl
@[simp] theorem modDbg_cores (s : State) (n : Nat) (f : Dbg → Dbg) : (s.modDbg n f).cores = s.cores := rfl
@[simp] theorem setCore_quads (s : State) (n : Nat) (c : Core) : (s.setCore n c).quads = s.quads := rfl
@[simp] theorem modCore_quads (s : State) (n : Nat) (f : Core → Core) : (s.modCore n f).quads = s.quads := rfl
@[simp] theorem modMe_quads (s : State) (f : Core → Core) : (s.modMe f).quads = s.quads := rfl
@[simp] theorem modPipe_quads (s : State) (f : Pipe → Pipe) : (s.modPipe f).quads = s.quads := rfl
@[simp] theorem modRegs_quads (s : State) (f : CoreRegs → CoreRegs) : (s.modRegs f).quads = s.quads := rfl
@[simp] theorem setCtx_quads (s : State) (n : Nat) (c : Ctx) : (s.setCtx n c).quads = s.quads := rfl
@[simp] theorem modDbg_quads (s : State) (n : Nat) (f : Dbg → Dbg) : (s.modDbg n f).quads = s.quads := rfl
@[simp] theorem setCore_ctxs (s : State) (n : Nat) (c : Core) : (s.setCore n c).ctxs = s.ctxs := rfl
@[simp] theorem modCore_ctxs (s : State) (n : Nat) (f : Core → Core) : (s.modCore n f).ctxs = s.ctxs := rfl
@[simp] theorem modMe_ctxs (s : State) (f : Core → Core) : (s.modMe f).ctxs = s.ctxs := rfl
@[simp] theorem modPipe_ctxs (s : State) (f : Pipe → Pipe) : (s.modPipe f).ctxs = s.ctxs := rfl
@[simp] theorem modRegs_ctxs (s : State) (f : CoreRegs → CoreRegs) : (s.modRegs f).ctxs = s.ctxs := rfl
@[simp] theorem setQuad_ctxs (s : State) (n : Nat) (c : Quad) : (s.setQuad n c).ctxs = s.ctxs := rfl
@[simp] theorem modQuad_ctxs (s : State) (n : Nat) (f : Quad → Quad) : (s.modQuad n f).ctxs = s.ctxs := rfl
@[simp] theorem modDbg_ctxs (s : State) (n : Nat) (f : Dbg → Dbg) : (s.modDbg n f).ctxs = s.ctxs := rfl
@[simp] theorem setCore_dbg (s : State) (n : Nat) (c : Core) : (s.setCore n c).dbg = s.dbg := rfl
@[simp] theorem modCore_dbg (s : State) (n : Nat) (f : Core → Core) : (s.modCore n f).dbg = s.dbg := rfl
@[simp] theorem modMe_dbg (s : State) (f : Core → Core) : (s.modMe f).dbg = s.dbg := rfl
@[simp] theorem modPipe_dbg (s : State) (f : Pipe → Pipe) : (s.modPipe f).dbg = s.dbg := rfl
@[simp] theorem modRegs_dbg (s : State) (f : CoreRegs → CoreRegs) : (s.modRegs f).dbg = s.dbg := rfl
@[simp] theorem setQuad_dbg (s : State) (n : Nat) (c : Quad) : (s.setQuad n c).dbg = s.dbg := rfl
@[simp] theorem modQuad_dbg (s : State) (n : Nat) (f : Quad → Quad) : (s.modQuad n f).dbg = s.dbg := rfl
@[simp] theorem setCtx_dbg (s : State) (n : Nat) (c : Ctx) : (s.setCtx n c).dbg = s.dbg := rfl
@[simp] theorem setCore_chans (s : State) (n : Nat) (c : Core) : (s.setCore n c).chans = s.chans := rfl
@[simp] theorem modCore_chans (s : State) (n : Nat) (f : Core → Core) : (s.modCore n f).chans = s.chans := rfl
@[simp] theorem modMe_chans (s : State) (f : Core → Core) : (s.modMe f).chans = s.chans := rfl
@[simp] theorem modPipe_chans (s : State) (f : Pipe → Pipe) : (s.modPipe f).chans = s.chans := rfl
@[simp] theorem modRegs_chans (s : State) (f : CoreRegs → CoreRegs) : (s.modRegs f).chans = s.chans := rfl
@[simp] theorem setQuad_chans (s : State) (n : Nat) (c : Quad) : (s.setQuad n c).chans = s.chans := rfl
@[simp] theorem modQuad_chans (s : State) (n : Nat) (f : Quad → Quad) : (s.modQuad n f).chans = s.chans := rfl
@[simp] theorem setCtx_chans (s : State) (n : Nat) (c : Ctx) : (s.setCtx n c).chans = s.chans := rfl
@[simp] theorem modDbg_chans (s : State) (n : Nat) (f : Dbg → Dbg) : (s.modDbg n f).chans = s.chans := rfl
@[simp] theorem setCore_etlb (s : State) (n : Nat) (c : Core) : (s.setCore n c).etlb = s.etlb := rfl
@[simp] theorem modCore_etlb (s : State) (n : Nat) (f : Core → Core) : (s.modCore n f).etlb = s.etlb := rfl
@[simp] theorem modMe_etlb (s : State) (f : Core → Core) : (s.modMe f).etlb = s.etlb := rfl
@[simp] theorem modPipe_etlb (s : State) (f : Pipe → Pipe) : (s.modPipe f).etlb = s.etlb := rfl
@[simp] theorem modRegs_etlb (s : State) (f : CoreRegs → CoreRegs) : (s.modRegs f).etlb = s.etlb := rfl
@[simp] theorem setQuad_etlb (s : State) (n : Nat) (c : Quad) : (s.setQuad n c).etlb = s.etlb := rfl
@[simp] theorem modQuad_etlb (s : State) (n : Nat) (f : Quad → Quad) : (s.modQuad n f).etlb = s.etlb := rfl
@[simp] theorem setCtx_etlb (s : State) (n : Nat) (c : Ctx) : (s.setCtx n c).etlb = s.etlb := rfl
@[simp] theorem modDbg_etlb (s : State) (n : Nat) (f : Dbg → Dbg) : (s.modDbg n f).etlb = s.etlb := rfl
@[simp] theorem setCore_jobs (s : State) (n : Nat) (c : Core) : (s.setCore n c).jobs = s.jobs := rfl
@[simp] theorem modCore_jobs (s : State) (n : Nat) (f : Core → Core) : (s.modCore n f).jobs = s.jobs := rfl
@[simp] theorem modMe_jobs (s : State) (f : Core → Core) : (s.modMe f).jobs = s.jobs := rfl
@[simp] theorem modPipe_jobs (s : State) (f : Pipe → Pipe) : (s.modPipe f).jobs = s.jobs := rfl
@[simp] theorem modRegs_jobs (s : State) (f : CoreRegs → CoreRegs) : (s.modRegs f).jobs = s.jobs := rfl
@[simp] theorem setQuad_jobs (s : State) (n : Nat) (c : Quad) : (s.setQuad n c).jobs = s.jobs := rfl
@[simp] theorem modQuad_jobs (s : State) (n : Nat) (f : Quad → Quad) : (s.modQuad n f).jobs = s.jobs := rfl
@[simp] theorem setCtx_jobs (s : State) (n : Nat) (c : Ctx) : (s.setCtx n c).jobs = s.jobs := rfl
@[simp] theorem modDbg_jobs (s : State) (n : Nat) (f : Dbg → Dbg) : (s.modDbg n f).jobs = s.jobs := rfl
@[simp] theorem setCore_rspool (s : State) (n : Nat) (c : Core) : (s.setCore n c).rspool = s.rspool := rfl
@[simp] theorem modCore_rspool (s : State) (n : Nat) (f : Core → Core) : (s.modCore n f).rspool = s.rspool := rfl
@[simp] theorem modMe_rspool (s : State) (f : Core → Core) : (s.modMe f).rspool = s.rspool := rfl
@[simp] theorem modPipe_rspool (s : State) (f : Pipe → Pipe) : (s.modPipe f).rspool = s.rspool := rfl
@[simp] theorem modRegs_rspool (s : State) (f : CoreRegs → CoreRegs) : (s.modRegs f).rspool = s.rspool := rfl
@[simp] theorem setQuad_rspool (s : State) (n : Nat) (c : Quad) : (s.setQuad n c).rspool = s.rspool := rfl
@[simp] theorem modQuad_rspool (s : State) (n : Nat) (f : Quad → Quad) : (s.modQuad n f).rspool = s.rspool := rfl
@[simp] theorem setCtx_rspool (s : State) (n : Nat) (c : Ctx) : (s.setCtx n c).rspool = s.rspool := rfl
@[simp] theorem modDbg_rspool (s : State) (n : Nat) (f : Dbg → Dbg) : (s.modDbg n f).rspool = s.rspool := rfl
@[simp] theorem setCore_queues (s : State) (n : Nat) (c : Core) : (s.setCore n c).queues = s.queues := rfl
@[simp] theorem modCore_queues (s : State) (n : Nat) (f : Core → Core) : (s.modCore n f).queues = s.queues := rfl
@[simp] theorem modMe_queues (s : State) (f : Core → Core) : (s.modMe f).queues = s.queues := rfl
@[simp] theorem modPipe_queues (s : State) (f : Pipe → Pipe) : (s.modPipe f).queues = s.queues := rfl
@[simp] theorem modRegs_queues (s : State) (f : CoreRegs → CoreRegs) : (s.modRegs f).queues = s.queues := rfl
@[simp] theorem setQuad_queues (s : State) (n : Nat) (c : Quad) : (s.setQuad n c).queues = s.queues := rfl
@[simp] theorem modQuad_queues (s : State) (n : Nat) (f : Quad → Quad) : (s.modQuad n f).queues = s.queues := rfl
@[simp] theorem setCtx_queues (s : State) (n : Nat) (c : Ctx) : (s.setCtx n c).queues = s.queues := rfl
@[simp] theorem modDbg_queues (s : State) (n : Nat) (f : Dbg → Dbg) : (s.modDbg n f).queues = s.queues := rfl
@[simp] theorem setCore_disps (s : State) (n : Nat) (c : Core) : (s.setCore n c).disps = s.disps := rfl
@[simp] theorem modCore_disps (s : State) (n : Nat) (f : Core → Core) : (s.modCore n f).disps = s.disps := rfl
@[simp] theorem modMe_disps (s : State) (f : Core → Core) : (s.modMe f).disps = s.disps := rfl
@[simp] theorem modPipe_disps (s : State) (f : Pipe → Pipe) : (s.modPipe f).disps = s.disps := rfl
@[simp] theorem modRegs_disps (s : State) (f : CoreRegs → CoreRegs) : (s.modRegs f).disps = s.disps := rfl
@[simp] theorem setQuad_disps (s : State) (n : Nat) (c : Quad) : (s.setQuad n c).disps = s.disps := rfl
@[simp] theorem modQuad_disps (s : State) (n : Nat) (f : Quad → Quad) : (s.modQuad n f).disps = s.disps := rfl
@[simp] theorem setCtx_disps (s : State) (n : Nat) (c : Ctx) : (s.setCtx n c).disps = s.disps := rfl
@[simp] theorem modDbg_disps (s : State) (n : Nat) (f : Dbg → Dbg) : (s.modDbg n f).disps = s.disps := rfl
@[simp] theorem setCore_nodes (s : State) (n : Nat) (c : Core) : (s.setCore n c).nodes = s.nodes := rfl
@[simp] theorem modCore_nodes (s : State) (n : Nat) (f : Core → Core) : (s.modCore n f).nodes = s.nodes := rfl
@[simp] theorem modMe_nodes (s : State) (f : Core → Core) : (s.modMe f).nodes = s.nodes := rfl
@[simp] theorem modPipe_nodes (s : State) (f : Pipe → Pipe) : (s.modPipe f).nodes = s.nodes := rfl
@[simp] theorem modRegs_nodes (s : State) (f : CoreRegs → CoreRegs) : (s.modRegs f).nodes = s.nodes := rfl
@[simp] theorem setQuad_nodes (s : State) (n : Nat) (c : Quad) : (s.setQuad n c).nodes = s.nodes := rfl
@[simp] theorem modQuad_nodes (s : State) (n : Nat) (f : Quad → Quad) : (s.modQuad n f).nodes = s.nodes := rfl
@[simp] theorem setCtx_nodes (s : State) (n : Nat) (c : Ctx) : (s.setCtx n c).nodes = s.nodes := rfl
@[simp] theorem modDbg_nodes (s : State) (n : Nat) (f : Dbg → Dbg) : (s.modDbg n f).nodes = s.nodes := rfl
@[simp] theorem setCore_pins (s : State) (n : Nat) (c : Core) : (s.setCore n c).pins = s.pins := rfl
@[simp] theorem modCore_pins (s : State) (n : Nat) (f : Core → Core) : (s.modCore n f).pins = s.pins := rfl
@[simp] theorem modMe_pins (s : State) (f : Core → Core) : (s.modMe f).pins = s.pins := rfl
@[simp] theorem modPipe_pins (s : State) (f : Pipe → Pipe) : (s.modPipe f).pins = s.pins := rfl
@[simp] theorem modRegs_pins (s : State) (f : CoreRegs → CoreRegs) : (s.modRegs f).pins = s.pins := rfl
@[simp] theorem setQuad_pins (s : State) (n : Nat) (c : Quad) : (s.setQuad n c).pins = s.pins := rfl
@[simp] theorem modQuad_pins (s : State) (n : Nat) (f : Quad → Quad) : (s.modQuad n f).pins = s.pins := rfl
@[simp] theorem setCtx_pins (s : State) (n : Nat) (c : Ctx) : (s.setCtx n c).pins = s.pins := rfl
@[simp] theorem modDbg_pins (s : State) (n : Nat) (f : Dbg → Dbg) : (s.modDbg n f).pins = s.pins := rfl
@[simp] theorem setCore_bars (s : State) (n : Nat) (c : Core) : (s.setCore n c).bars = s.bars := rfl
@[simp] theorem modCore_bars (s : State) (n : Nat) (f : Core → Core) : (s.modCore n f).bars = s.bars := rfl
@[simp] theorem modMe_bars (s : State) (f : Core → Core) : (s.modMe f).bars = s.bars := rfl
@[simp] theorem modPipe_bars (s : State) (f : Pipe → Pipe) : (s.modPipe f).bars = s.bars := rfl
@[simp] theorem modRegs_bars (s : State) (f : CoreRegs → CoreRegs) : (s.modRegs f).bars = s.bars := rfl
@[simp] theorem setQuad_bars (s : State) (n : Nat) (c : Quad) : (s.setQuad n c).bars = s.bars := rfl
@[simp] theorem modQuad_bars (s : State) (n : Nat) (f : Quad → Quad) : (s.modQuad n f).bars = s.bars := rfl
@[simp] theorem setCtx_bars (s : State) (n : Nat) (c : Ctx) : (s.setCtx n c).bars = s.bars := rfl
@[simp] theorem modDbg_bars (s : State) (n : Nat) (f : Dbg → Dbg) : (s.modDbg n f).bars = s.bars := rfl
@[simp] theorem setCore_arrivals (s : State) (n : Nat) (c : Core) : (s.setCore n c).arrivals = s.arrivals := rfl
@[simp] theorem modCore_arrivals (s : State) (n : Nat) (f : Core → Core) : (s.modCore n f).arrivals = s.arrivals := rfl
@[simp] theorem modMe_arrivals (s : State) (f : Core → Core) : (s.modMe f).arrivals = s.arrivals := rfl
@[simp] theorem modPipe_arrivals (s : State) (f : Pipe → Pipe) : (s.modPipe f).arrivals = s.arrivals := rfl
@[simp] theorem modRegs_arrivals (s : State) (f : CoreRegs → CoreRegs) : (s.modRegs f).arrivals = s.arrivals := rfl
@[simp] theorem setQuad_arrivals (s : State) (n : Nat) (c : Quad) : (s.setQuad n c).arrivals = s.arrivals := rfl
@[simp] theorem modQuad_arrivals (s : State) (n : Nat) (f : Quad → Quad) : (s.modQuad n f).arrivals = s.arrivals := rfl
@[simp] theorem setCtx_arrivals (s : State) (n : Nat) (c : Ctx) : (s.setCtx n c).arrivals = s.arrivals := rfl
@[simp] theorem modDbg_arrivals (s : State) (n : Nat) (f : Dbg → Dbg) : (s.modDbg n f).arrivals = s.arrivals := rfl
@[simp] theorem setCore_news (s : State) (n : Nat) (c : Core) : (s.setCore n c).news = s.news := rfl
@[simp] theorem modCore_news (s : State) (n : Nat) (f : Core → Core) : (s.modCore n f).news = s.news := rfl
@[simp] theorem modMe_news (s : State) (f : Core → Core) : (s.modMe f).news = s.news := rfl
@[simp] theorem modPipe_news (s : State) (f : Pipe → Pipe) : (s.modPipe f).news = s.news := rfl
@[simp] theorem modRegs_news (s : State) (f : CoreRegs → CoreRegs) : (s.modRegs f).news = s.news := rfl
@[simp] theorem setQuad_news (s : State) (n : Nat) (c : Quad) : (s.setQuad n c).news = s.news := rfl
@[simp] theorem modQuad_news (s : State) (n : Nat) (f : Quad → Quad) : (s.modQuad n f).news = s.news := rfl
@[simp] theorem setCtx_news (s : State) (n : Nat) (c : Ctx) : (s.setCtx n c).news = s.news := rfl
@[simp] theorem modDbg_news (s : State) (n : Nat) (f : Dbg → Dbg) : (s.modDbg n f).news = s.news := rfl
@[simp] theorem setCore_podseen (s : State) (n : Nat) (c : Core) : (s.setCore n c).podseen = s.podseen := rfl
@[simp] theorem modCore_podseen (s : State) (n : Nat) (f : Core → Core) : (s.modCore n f).podseen = s.podseen := rfl
@[simp] theorem modMe_podseen (s : State) (f : Core → Core) : (s.modMe f).podseen = s.podseen := rfl
@[simp] theorem modPipe_podseen (s : State) (f : Pipe → Pipe) : (s.modPipe f).podseen = s.podseen := rfl
@[simp] theorem modRegs_podseen (s : State) (f : CoreRegs → CoreRegs) : (s.modRegs f).podseen = s.podseen := rfl
@[simp] theorem setQuad_podseen (s : State) (n : Nat) (c : Quad) : (s.setQuad n c).podseen = s.podseen := rfl
@[simp] theorem modQuad_podseen (s : State) (n : Nat) (f : Quad → Quad) : (s.modQuad n f).podseen = s.podseen := rfl
@[simp] theorem setCtx_podseen (s : State) (n : Nat) (c : Ctx) : (s.setCtx n c).podseen = s.podseen := rfl
@[simp] theorem modDbg_podseen (s : State) (n : Nat) (f : Dbg → Dbg) : (s.modDbg n f).podseen = s.podseen := rfl
@[simp] theorem setCore_ports (s : State) (n : Nat) (c : Core) : (s.setCore n c).ports = s.ports := rfl
@[simp] theorem modCore_ports (s : State) (n : Nat) (f : Core → Core) : (s.modCore n f).ports = s.ports := rfl
@[simp] theorem modMe_ports (s : State) (f : Core → Core) : (s.modMe f).ports = s.ports := rfl
@[simp] theorem modPipe_ports (s : State) (f : Pipe → Pipe) : (s.modPipe f).ports = s.ports := rfl
@[simp] theorem modRegs_ports (s : State) (f : CoreRegs → CoreRegs) : (s.modRegs f).ports = s.ports := rfl
@[simp] theorem setQuad_ports (s : State) (n : Nat) (c : Quad) : (s.setQuad n c).ports = s.ports := rfl
@[simp] theorem modQuad_ports (s : State) (n : Nat) (f : Quad → Quad) : (s.modQuad n f).ports = s.ports := rfl
@[simp] theorem setCtx_ports (s : State) (n : Nat) (c : Ctx) : (s.setCtx n c).ports = s.ports := rfl
@[simp] theorem modDbg_ports (s : State) (n : Nat) (f : Dbg → Dbg) : (s.modDbg n f).ports = s.ports := rfl
@[simp] theorem setCore_irqs (s : State) (n : Nat) (c : Core) : (s.setCore n c).irqs = s.irqs := rfl
@[simp] theorem modCore_irqs (s : State) (n : Nat) (f : Core → Core) : (s.modCore n f).irqs = s.irqs := rfl
@[simp] theorem modMe_irqs (s : State) (f : Core → Core) : (s.modMe f).irqs = s.irqs := rfl
@[simp] theorem modPipe_irqs (s : State) (f : Pipe → Pipe) : (s.modPipe f).irqs = s.irqs := rfl
@[simp] theorem modRegs_irqs (s : State) (f : CoreRegs → CoreRegs) : (s.modRegs f).irqs = s.irqs := rfl
@[simp] theorem setQuad_irqs (s : State) (n : Nat) (c : Quad) : (s.setQuad n c).irqs = s.irqs := rfl
@[simp] theorem modQuad_irqs (s : State) (n : Nat) (f : Quad → Quad) : (s.modQuad n f).irqs = s.irqs := rfl
@[simp] theorem setCtx_irqs (s : State) (n : Nat) (c : Ctx) : (s.setCtx n c).irqs = s.irqs := rfl
@[simp] theorem modDbg_irqs (s : State) (n : Nat) (f : Dbg → Dbg) : (s.modDbg n f).irqs = s.irqs := rfl
@[simp] theorem setCore_links (s : State) (n : Nat) (c : Core) : (s.setCore n c).links = s.links := rfl
@[simp] theorem modCore_links (s : State) (n : Nat) (f : Core → Core) : (s.modCore n f).links = s.links := rfl
@[simp] theorem modMe_links (s : State) (f : Core → Core) : (s.modMe f).links = s.links := rfl
@[simp] theorem modPipe_links (s : State) (f : Pipe → Pipe) : (s.modPipe f).links = s.links := rfl
@[simp] theorem modRegs_links (s : State) (f : CoreRegs → CoreRegs) : (s.modRegs f).links = s.links := rfl
@[simp] theorem setQuad_links (s : State) (n : Nat) (c : Quad) : (s.setQuad n c).links = s.links := rfl
@[simp] theorem modQuad_links (s : State) (n : Nat) (f : Quad → Quad) : (s.modQuad n f).links = s.links := rfl
@[simp] theorem setCtx_links (s : State) (n : Nat) (c : Ctx) : (s.setCtx n c).links = s.links := rfl
@[simp] theorem modDbg_links (s : State) (n : Nat) (f : Dbg → Dbg) : (s.modDbg n f).links = s.links := rfl
@[simp] theorem setCore_podwin (s : State) (n : Nat) (c : Core) : (s.setCore n c).podwin = s.podwin := rfl
@[simp] theorem modCore_podwin (s : State) (n : Nat) (f : Core → Core) : (s.modCore n f).podwin = s.podwin := rfl
@[simp] theorem modMe_podwin (s : State) (f : Core → Core) : (s.modMe f).podwin = s.podwin := rfl
@[simp] theorem modPipe_podwin (s : State) (f : Pipe → Pipe) : (s.modPipe f).podwin = s.podwin := rfl
@[simp] theorem modRegs_podwin (s : State) (f : CoreRegs → CoreRegs) : (s.modRegs f).podwin = s.podwin := rfl
@[simp] theorem setQuad_podwin (s : State) (n : Nat) (c : Quad) : (s.setQuad n c).podwin = s.podwin := rfl
@[simp] theorem modQuad_podwin (s : State) (n : Nat) (f : Quad → Quad) : (s.modQuad n f).podwin = s.podwin := rfl
@[simp] theorem setCtx_podwin (s : State) (n : Nat) (c : Ctx) : (s.setCtx n c).podwin = s.podwin := rfl
@[simp] theorem modDbg_podwin (s : State) (n : Nat) (f : Dbg → Dbg) : (s.modDbg n f).podwin = s.podwin := rfl
@[simp] theorem setCore_podreqs (s : State) (n : Nat) (c : Core) : (s.setCore n c).podreqs = s.podreqs := rfl
@[simp] theorem modCore_podreqs (s : State) (n : Nat) (f : Core → Core) : (s.modCore n f).podreqs = s.podreqs := rfl
@[simp] theorem modMe_podreqs (s : State) (f : Core → Core) : (s.modMe f).podreqs = s.podreqs := rfl
@[simp] theorem modPipe_podreqs (s : State) (f : Pipe → Pipe) : (s.modPipe f).podreqs = s.podreqs := rfl
@[simp] theorem modRegs_podreqs (s : State) (f : CoreRegs → CoreRegs) : (s.modRegs f).podreqs = s.podreqs := rfl
@[simp] theorem setQuad_podreqs (s : State) (n : Nat) (c : Quad) : (s.setQuad n c).podreqs = s.podreqs := rfl
@[simp] theorem modQuad_podreqs (s : State) (n : Nat) (f : Quad → Quad) : (s.modQuad n f).podreqs = s.podreqs := rfl
@[simp] theorem setCtx_podreqs (s : State) (n : Nat) (c : Ctx) : (s.setCtx n c).podreqs = s.podreqs := rfl
@[simp] theorem modDbg_podreqs (s : State) (n : Nat) (f : Dbg → Dbg) : (s.modDbg n f).podreqs = s.podreqs := rfl
@[simp] theorem setCore_podheld (s : State) (n : Nat) (c : Core) : (s.setCore n c).podheld = s.podheld := rfl
@[simp] theorem modCore_podheld (s : State) (n : Nat) (f : Core → Core) : (s.modCore n f).podheld = s.podheld := rfl
@[simp] theorem modMe_podheld (s : State) (f : Core → Core) : (s.modMe f).podheld = s.podheld := rfl
@[simp] theorem modPipe_podheld (s : State) (f : Pipe → Pipe) : (s.modPipe f).podheld = s.podheld := rfl
@[simp] theorem modRegs_podheld (s : State) (f : CoreRegs → CoreRegs) : (s.modRegs f).podheld = s.podheld := rfl
@[simp] theorem setQuad_podheld (s : State) (n : Nat) (c : Quad) : (s.setQuad n c).podheld = s.podheld := rfl
@[simp] theorem modQuad_podheld (s : State) (n : Nat) (f : Quad → Quad) : (s.modQuad n f).podheld = s.podheld := rfl
@[simp] theorem setCtx_podheld (s : State) (n : Nat) (c : Ctx) : (s.setCtx n c).podheld = s.podheld := rfl
@[simp] theorem modDbg_podheld (s : State) (n : Nat) (f : Dbg → Dbg) : (s.modDbg n f).podheld = s.podheld := rfl
@[simp] theorem setCore_hostlag (s : State) (n : Nat) (c : Core) : (s.setCore n c).hostlag = s.hostlag := rfl
@[simp] theorem modCore_hostlag (s : State) (n : Nat) (f : Core → Core) : (s.modCore n f).hostlag = s.hostlag := rfl
@[simp] theorem modMe_hostlag (s : State) (f : Core → Core) : (s.modMe f).hostlag = s.hostlag := rfl
@[simp] theorem modPipe_hostlag (s : State) (f : Pipe → Pipe) : (s.modPipe f).hostlag = s.hostlag := rfl
@[simp] theorem modRegs_hostlag (s : State) (f : CoreRegs → CoreRegs) : (s.modRegs f).hostlag = s.hostlag := rfl
@[simp] theorem setQuad_hostlag (s : State) (n : Nat) (c : Quad) : (s.setQuad n c).hostlag = s.hostlag := rfl
@[simp] theorem modQuad_hostlag (s : State) (n : Nat) (f : Quad → Quad) : (s.modQuad n f).hostlag = s.hostlag := rfl
@[simp] theorem setCtx_hostlag (s : State) (n : Nat) (c : Ctx) : (s.setCtx n c).hostlag = s.hostlag := rfl
@[simp] theorem modDbg_hostlag (s : State) (n : Nat) (f : Dbg → Dbg) : (s.modDbg n f).hostlag = s.hostlag := rfl
@[simp] theorem setCore_monitors (s : State) (n : Nat) (c : Core) : (s.setCore n c).monitors = s.monitors := rfl
@[simp] theorem modCore_monitors (s : State) (n : Nat) (f : Core → Core) : (s.modCore n f).monitors = s.monitors := rfl
@[simp] theorem modMe_monitors (s : State) (f : Core → Core) : (s.modMe f).monitors = s.monitors := rfl
@[simp] theorem modPipe_monitors (s : State) (f : Pipe → Pipe) : (s.modPipe f).monitors = s.monitors := rfl
@[simp] theorem modRegs_monitors (s : State) (f : CoreRegs → CoreRegs) : (s.modRegs f).monitors = s.monitors := rfl
@[simp] theorem setQuad_monitors (s : State) (n : Nat) (c : Quad) : (s.setQuad n c).monitors = s.monitors := rfl
@[simp] theorem modQuad_monitors (s : State) (n : Nat) (f : Quad → Quad) : (s.modQuad n f).monitors = s.monitors := rfl
@[simp] theorem setCtx_monitors (s : State) (n : Nat) (c : Ctx) : (s.setCtx n c).monitors = s.monitors := rfl
@[simp] theorem modDbg_monitors (s : State) (n : Nat) (f : Dbg → Dbg) : (s.modDbg n f).monitors = s.monitors := rfl
@[simp] theorem setCore_polled (s : State) (n : Nat) (c : Core) : (s.setCore n c).polled = s.polled := rfl
@[simp] theorem modCore_polled (s : State) (n : Nat) (f : Core → Core) : (s.modCore n f).polled = s.polled := rfl
@[simp] theorem modMe_polled (s : State) (f : Core → Core) : (s.modMe f).polled = s.polled := rfl
@[simp] theorem modPipe_polled (s : State) (f : Pipe → Pipe) : (s.modPipe f).polled = s.polled := rfl
@[simp] theorem modRegs_polled (s : State) (f : CoreRegs → CoreRegs) : (s.modRegs f).polled = s.polled := rfl
@[simp] theorem setQuad_polled (s : State) (n : Nat) (c : Quad) : (s.setQuad n c).polled = s.polled := rfl
@[simp] theorem modQuad_polled (s : State) (n : Nat) (f : Quad → Quad) : (s.modQuad n f).polled = s.polled := rfl
@[simp] theorem setCtx_polled (s : State) (n : Nat) (c : Ctx) : (s.setCtx n c).polled = s.polled := rfl
@[simp] theorem modDbg_polled (s : State) (n : Nat) (f : Dbg → Dbg) : (s.modDbg n f).polled = s.polled := rfl
@[simp] theorem setCore_route (s : State) (n : Nat) (c : Core) : (s.setCore n c).route = s.route := rfl
@[simp] theorem modCore_route (s : State) (n : Nat) (f : Core → Core) : (s.modCore n f).route = s.route := rfl
@[simp] theorem modMe_route (s : State) (f : Core → Core) : (s.modMe f).route = s.route := rfl
@[simp] theorem modPipe_route (s : State) (f : Pipe → Pipe) : (s.modPipe f).route = s.route := rfl
@[simp] theorem modRegs_route (s : State) (f : CoreRegs → CoreRegs) : (s.modRegs f).route = s.route := rfl
@[simp] theorem setQuad_route (s : State) (n : Nat) (c : Quad) : (s.setQuad n c).route = s.route := rfl
@[simp] theorem modQuad_route (s : State) (n : Nat) (f : Quad → Quad) : (s.modQuad n f).route = s.route := rfl
@[simp] theorem setCtx_route (s : State) (n : Nat) (c : Ctx) : (s.setCtx n c).route = s.route := rfl
@[simp] theorem modDbg_route (s : State) (n : Nat) (f : Dbg → Dbg) : (s.modDbg n f).route = s.route := rfl
@[simp] theorem setCore_podmod (s : State) (n : Nat) (c : Core) : (s.setCore n c).podmod = s.podmod := rfl
@[simp] theorem modCore_podmod (s : State) (n : Nat) (f : Core → Core) : (s.modCore n f).podmod = s.podmod := rfl
@[simp] theorem modMe_podmod (s : State) (f : Core → Core) : (s.modMe f).podmod = s.podmod := rfl
@[simp] theorem modPipe_podmod (s : State) (f : Pipe → Pipe) : (s.modPipe f).podmod = s.podmod := rfl
@[simp] theorem modRegs_podmod (s : State) (f : CoreRegs → CoreRegs) : (s.modRegs f).podmod = s.podmod := rfl
@[simp] theorem setQuad_podmod (s : State) (n : Nat) (c : Quad) : (s.setQuad n c).podmod = s.podmod := rfl
@[simp] theorem modQuad_podmod (s : State) (n : Nat) (f : Quad → Quad) : (s.modQuad n f).podmod = s.podmod := rfl
@[simp] theorem setCtx_podmod (s : State) (n : Nat) (c : Ctx) : (s.setCtx n c).podmod = s.podmod := rfl
@[simp] theorem modDbg_podmod (s : State) (n : Nat) (f : Dbg → Dbg) : (s.modDbg n f).podmod = s.podmod := rfl
@[simp] theorem setCore_xshoot (s : State) (n : Nat) (c : Core) : (s.setCore n c).xshoot = s.xshoot := rfl
@[simp] theorem modCore_xshoot (s : State) (n : Nat) (f : Core → Core) : (s.modCore n f).xshoot = s.xshoot := rfl
@[simp] theorem modMe_xshoot (s : State) (f : Core → Core) : (s.modMe f).xshoot = s.xshoot := rfl
@[simp] theorem modPipe_xshoot (s : State) (f : Pipe → Pipe) : (s.modPipe f).xshoot = s.xshoot := rfl
@[simp] theorem modRegs_xshoot (s : State) (f : CoreRegs → CoreRegs) : (s.modRegs f).xshoot = s.xshoot := rfl
@[simp] theorem setQuad_xshoot (s : State) (n : Nat) (c : Quad) : (s.setQuad n c).xshoot = s.xshoot := rfl
@[simp] theorem modQuad_xshoot (s : State) (n : Nat) (f : Quad → Quad) : (s.modQuad n f).xshoot = s.xshoot := rfl
@[simp] theorem setCtx_xshoot (s : State) (n : Nat) (c : Ctx) : (s.setCtx n c).xshoot = s.xshoot := rfl
@[simp] theorem modDbg_xshoot (s : State) (n : Nat) (f : Dbg → Dbg) : (s.modDbg n f).xshoot = s.xshoot := rfl
@[simp] theorem setCore_ctxcmd (s : State) (n : Nat) (c : Core) : (s.setCore n c).ctxcmd = s.ctxcmd := rfl
@[simp] theorem modCore_ctxcmd (s : State) (n : Nat) (f : Core → Core) : (s.modCore n f).ctxcmd = s.ctxcmd := rfl
@[simp] theorem modMe_ctxcmd (s : State) (f : Core → Core) : (s.modMe f).ctxcmd = s.ctxcmd := rfl
@[simp] theorem modPipe_ctxcmd (s : State) (f : Pipe → Pipe) : (s.modPipe f).ctxcmd = s.ctxcmd := rfl
@[simp] theorem modRegs_ctxcmd (s : State) (f : CoreRegs → CoreRegs) : (s.modRegs f).ctxcmd = s.ctxcmd := rfl
@[simp] theorem setQuad_ctxcmd (s : State) (n : Nat) (c : Quad) : (s.setQuad n c).ctxcmd = s.ctxcmd := rfl
@[simp] theorem modQuad_ctxcmd (s : State) (n : Nat) (f : Quad → Quad) : (s.modQuad n f).ctxcmd = s.ctxcmd := rfl
@[simp] theorem setCtx_ctxcmd (s : State) (n : Nat) (c : Ctx) : (s.setCtx n c).ctxcmd = s.ctxcmd := rfl
@[simp] theorem modDbg_ctxcmd (s : State) (n : Nat) (f : Dbg → Dbg) : (s.modDbg n f).ctxcmd = s.ctxcmd := rfl
@[simp] theorem setCore_qcmd (s : State) (n : Nat) (c : Core) : (s.setCore n c).qcmd = s.qcmd := rfl
@[simp] theorem modCore_qcmd (s : State) (n : Nat) (f : Core → Core) : (s.modCore n f).qcmd = s.qcmd := rfl
@[simp] theorem modMe_qcmd (s : State) (f : Core → Core) : (s.modMe f).qcmd = s.qcmd := rfl
@[simp] theorem modPipe_qcmd (s : State) (f : Pipe → Pipe) : (s.modPipe f).qcmd = s.qcmd := rfl
@[simp] theorem modRegs_qcmd (s : State) (f : CoreRegs → CoreRegs) : (s.modRegs f).qcmd = s.qcmd := rfl
@[simp] theorem setQuad_qcmd (s : State) (n : Nat) (c : Quad) : (s.setQuad n c).qcmd = s.qcmd := rfl
@[simp] theorem modQuad_qcmd (s : State) (n : Nat) (f : Quad → Quad) : (s.modQuad n f).qcmd = s.qcmd := rfl
@[simp] theorem setCtx_qcmd (s : State) (n : Nat) (c : Ctx) : (s.setCtx n c).qcmd = s.qcmd := rfl
@[simp] theorem modDbg_qcmd (s : State) (n : Nat) (f : Dbg → Dbg) : (s.modDbg n f).qcmd = s.qcmd := rfl
@[simp] theorem setCore_ctxbud (s : State) (n : Nat) (c : Core) : (s.setCore n c).ctxbud = s.ctxbud := rfl
@[simp] theorem modCore_ctxbud (s : State) (n : Nat) (f : Core → Core) : (s.modCore n f).ctxbud = s.ctxbud := rfl
@[simp] theorem modMe_ctxbud (s : State) (f : Core → Core) : (s.modMe f).ctxbud = s.ctxbud := rfl
@[simp] theorem modPipe_ctxbud (s : State) (f : Pipe → Pipe) : (s.modPipe f).ctxbud = s.ctxbud := rfl
@[simp] theorem modRegs_ctxbud (s : State) (f : CoreRegs → CoreRegs) : (s.modRegs f).ctxbud = s.ctxbud := rfl
@[simp] theorem setQuad_ctxbud (s : State) (n : Nat) (c : Quad) : (s.setQuad n c).ctxbud = s.ctxbud := rfl
@[simp] theorem modQuad_ctxbud (s : State) (n : Nat) (f : Quad → Quad) : (s.modQuad n f).ctxbud = s.ctxbud := rfl
@[simp] theorem setCtx_ctxbud (s : State) (n : Nat) (c : Ctx) : (s.setCtx n c).ctxbud = s.ctxbud := rfl
@[simp] theorem modDbg_ctxbud (s : State) (n : Nat) (f : Dbg → Dbg) : (s.modDbg n f).ctxbud = s.ctxbud := rfl
@[simp] theorem setCore_acctab (s : State) (n : Nat) (c : Core) : (s.setCore n c).acctab = s.acctab := rfl
@[simp] theorem modCore_acctab (s : State) (n : Nat) (f : Core → Core) : (s.modCore n f).acctab = s.acctab := rfl
@[simp] theorem modMe_acctab (s : State) (f : Core → Core) : (s.modMe f).acctab = s.acctab := rfl
@[simp] theorem modPipe_acctab (s : State) (f : Pipe → Pipe) : (s.modPipe f).acctab = s.acctab := rfl
@[simp] theorem modRegs_acctab (s : State) (f : CoreRegs → CoreRegs) : (s.modRegs f).acctab = s.acctab := rfl
@[simp] theorem setQuad_acctab (s : State) (n : Nat) (c : Quad) : (s.setQuad n c).acctab = s.acctab := rfl
@[simp] theorem modQuad_acctab (s : State) (n : Nat) (f : Quad → Quad) : (s.modQuad n f).acctab = s.acctab := rfl
@[simp] theorem setCtx_acctab (s : State) (n : Nat) (c : Ctx) : (s.setCtx n c).acctab = s.acctab := rfl
@[simp] theorem modDbg_acctab (s : State) (n : Nat) (f : Dbg → Dbg) : (s.modDbg n f).acctab = s.acctab := rfl
@[simp] theorem setCore_keyh (s : State) (n : Nat) (c : Core) : (s.setCore n c).keyh = s.keyh := rfl
@[simp] theorem modCore_keyh (s : State) (n : Nat) (f : Core → Core) : (s.modCore n f).keyh = s.keyh := rfl
@[simp] theorem modMe_keyh (s : State) (f : Core → Core) : (s.modMe f).keyh = s.keyh := rfl
@[simp] theorem modPipe_keyh (s : State) (f : Pipe → Pipe) : (s.modPipe f).keyh = s.keyh := rfl
@[simp] theorem modRegs_keyh (s : State) (f : CoreRegs → CoreRegs) : (s.modRegs f).keyh = s.keyh := rfl
@[simp] theorem setQuad_keyh (s : State) (n : Nat) (c : Quad) : (s.setQuad n c).keyh = s.keyh := rfl
@[simp] theorem modQuad_keyh (s : State) (n : Nat) (f : Quad → Quad) : (s.modQuad n f).keyh = s.keyh := rfl
@[simp] theorem setCtx_keyh (s : State) (n : Nat) (c : Ctx) : (s.setCtx n c).keyh = s.keyh := rfl
@[simp] theorem modDbg_keyh (s : State) (n : Nat) (f : Dbg → Dbg) : (s.modDbg n f).keyh = s.keyh := rfl
@[simp] theorem setCore_repcfg (s : State) (n : Nat) (c : Core) : (s.setCore n c).repcfg = s.repcfg := rfl
@[simp] theorem modCore_repcfg (s : State) (n : Nat) (f : Core → Core) : (s.modCore n f).repcfg = s.repcfg := rfl
@[simp] theorem modMe_repcfg (s : State) (f : Core → Core) : (s.modMe f).repcfg = s.repcfg := rfl
@[simp] theorem modPipe_repcfg (s : State) (f : Pipe → Pipe) : (s.modPipe f).repcfg = s.repcfg := rfl
@[simp] theorem modRegs_repcfg (s : State) (f : CoreRegs → CoreRegs) : (s.modRegs f).repcfg = s.repcfg := rfl
@[simp] theorem setQuad_repcfg (s : State) (n : Nat) (c : Quad) : (s.setQuad n c).repcfg = s.repcfg := rfl
@[simp] theorem modQuad_repcfg (s : State) (n : Nat) (f : Quad → Quad) : (s.modQuad n f).repcfg = s.repcfg := rfl
@[simp] theorem setCtx_repcfg (s : State) (n : Nat) (c : Ctx) : (s.setCtx n c).repcfg = s.repcfg := rfl
@[simp] theorem modDbg_repcfg (s : State) (n : Nat) (f : Dbg → Dbg) : (s.modDbg n f).repcfg = s.repcfg := rfl
@[simp] theorem setCore_flash (s : State) (n : Nat) (c : Core) : (s.setCore n c).flash = s.flash := rfl
@[simp] theorem modCore_flash (s : State) (n : Nat) (f : Core → Core) : (s.modCore n f).flash = s.flash := rfl
@[simp] theorem modMe_flash (s : State) (f : Core → Core) : (s.modMe f).flash = s.flash := rfl
@[simp] theorem modPipe_flash (s : State) (f : Pipe → Pipe) : (s.modPipe f).flash = s.flash := rfl
@[simp] theorem modRegs_flash (s : State) (f : CoreRegs → CoreRegs) : (s.modRegs f).flash = s.flash := rfl
@[simp] theorem setQuad_flash (s : State) (n : Nat) (c : Quad) : (s.setQuad n c).flash = s.flash := rfl
@[simp] theorem modQuad_flash (s : State) (n : Nat) (f : Quad → Quad) : (s.modQuad n f).flash = s.flash := rfl
@[simp] theorem setCtx_flash (s : State) (n : Nat) (c : Ctx) : (s.setCtx n c).flash = s.flash := rfl
@[simp] theorem modDbg_flash (s : State) (n : Nat) (f : Dbg → Dbg) : (s.modDbg n f).flash = s.flash := rfl
@[simp] theorem setCore_boot (s : State) (n : Nat) (c : Core) : (s.setCore n c).boot = s.boot := rfl
@[simp] theorem modCore_boot (s : State) (n : Nat) (f : Core → Core) : (s.modCore n f).boot = s.boot := rfl
@[simp] theorem modMe_boot (s : State) (f : Core → Core) : (s.modMe f).boot = s.boot := rfl
@[simp] theorem modPipe_boot (s : State) (f : Pipe → Pipe) : (s.modPipe f).boot = s.boot := rfl
@[simp] theorem modRegs_boot (s : State) (f : CoreRegs → CoreRegs) : (s.modRegs f).boot = s.boot := rfl
@[simp] theorem setQuad_boot (s : State) (n : Nat) (c : Quad) : (s.setQuad n c).boot = s.boot := rfl
@[simp] theorem modQuad_boot (s : State) (n : Nat) (f : Quad → Quad) : (s.modQuad n f).boot = s.boot := rfl
@[simp] theorem setCtx_boot (s : State) (n : Nat) (c : Ctx) : (s.setCtx n c).boot = s.boot := rfl
@[simp] theorem modDbg_boot (s : State) (n : Nat) (f : Dbg → Dbg) : (s.modDbg n f).boot = s.boot := rfl
@[simp] theorem setCore_port (s : State) (n : Nat) (c : Core) : (s.setCore n c).port = s.port := rfl
@[simp] theorem modCore_port (s : State) (n : Nat) (f : Core → Core) : (s.modCore n f).port = s.port := rfl
@[simp] theorem modMe_port (s : State) (f : Core → Core) : (s.modMe f).port = s.port := rfl
@[simp] theorem modPipe_port (s : State) (f : Pipe → Pipe) : (s.modPipe f).port = s.port := rfl
@[simp] theorem modRegs_port (s : State) (f : CoreRegs → CoreRegs) : (s.modRegs f).port = s.port := rfl
@[simp] theorem setQuad_port (s : State) (n : Nat) (c : Quad) : (s.setQuad n c).port = s.port := rfl
@[simp] theorem modQuad_port (s : State) (n : Nat) (f : Quad → Quad) : (s.modQuad n f).port = s.port := rfl
@[simp] theorem setCtx_port (s : State) (n : Nat) (c : Ctx) : (s.setCtx n c).port = s.port := rfl
@[simp] theorem modDbg_port (s : State) (n : Nat) (f : Dbg → Dbg) : (s.modDbg n f).port = s.port := rfl
@[simp] theorem setCore_host (s : State) (n : Nat) (c : Core) : (s.setCore n c).host = s.host := rfl
@[simp] theorem modCore_host (s : State) (n : Nat) (f : Core → Core) : (s.modCore n f).host = s.host := rfl
@[simp] theorem modMe_host (s : State) (f : Core → Core) : (s.modMe f).host = s.host := rfl
@[simp] theorem modPipe_host (s : State) (f : Pipe → Pipe) : (s.modPipe f).host = s.host := rfl
@[simp] theorem modRegs_host (s : State) (f : CoreRegs → CoreRegs) : (s.modRegs f).host = s.host := rfl
@[simp] theorem setQuad_host (s : State) (n : Nat) (c : Quad) : (s.setQuad n c).host = s.host := rfl
@[simp] theorem modQuad_host (s : State) (n : Nat) (f : Quad → Quad) : (s.modQuad n f).host = s.host := rfl
@[simp] theorem setCtx_host (s : State) (n : Nat) (c : Ctx) : (s.setCtx n c).host = s.host := rfl
@[simp] theorem modDbg_host (s : State) (n : Nat) (f : Dbg → Dbg) : (s.modDbg n f).host = s.host := rfl

/-! ## Cores -/

@[simp] theorem core_setCore_same (s : State) (n : Nat) (c : Core) : (s.setCore n c).core n = c := by
  simp [State.core, State.setCore]
theorem core_setCore_ne (s : State) (c : Core) {n k : Nat} (h : k ≠ n) : (s.setCore n c).core k = s.core k := by
  simp [State.core, State.setCore, fget_fset_ne _ _ _ h]
@[simp] theorem core_modCore_same (s : State) (n : Nat) (f : Core → Core) : (s.modCore n f).core n = f (s.core n) := by
  simp [State.modCore]
theorem core_modCore_ne (s : State) (f : Core → Core) {n k : Nat} (h : k ≠ n) : (s.modCore n f).core k = s.core k :=
  core_setCore_ne s _ h
@[simp] theorem modCore_modCore (s : State) (n : Nat) (f g : Core → Core) :
    (s.modCore n f).modCore n g = s.modCore n (fun c => g (f c)) := by
  simp [State.modCore, State.setCore, State.core]
@[simp] theorem me_modMe (s : State) (f : Core → Core) : (s.modMe f).me = f s.me := by simp [State.modMe, State.me]
theorem core_modMe_ne (s : State) (f : Core → Core) {k : Nat} (h : k ≠ s.cur.toNat) : (s.modMe f).core k = s.core k :=
  core_setCore_ne s _ h
@[simp] theorem modMe_modMe (s : State) (f g : Core → Core) : (s.modMe f).modMe g = s.modMe (fun c => g (f c)) := by
  simp [State.modMe]
@[simp] theorem quad_modMe (s : State) (f : Core → Core) (q : Nat) : (s.modMe f).quad q = s.quad q := rfl
@[simp] theorem quad_setQuad_same (s : State) (n : Nat) (c : Quad) : (s.setQuad n c).quad n = c := by
  simp [State.quad, State.setQuad]
@[simp] theorem quad_modQuad_same (s : State) (n : Nat) (f : Quad → Quad) : (s.modQuad n f).quad n = f (s.quad n) := by
  simp [State.modQuad]
theorem quad_modQuad_ne (s : State) (f : Quad → Quad) {n k : Nat} (h : k ≠ n) : (s.modQuad n f).quad k = s.quad k := by
  simp [State.modQuad, State.setQuad, State.quad, fget_fset_ne _ _ _ h]
@[simp] theorem core_modQuad (s : State) (n k : Nat) (f : Quad → Quad) : (s.modQuad n f).core k = s.core k := rfl
@[simp] theorem core_modDbg (s : State) (n k : Nat) (f : Dbg → Dbg) : (s.modDbg n f).core k = s.core k := rfl
@[simp] theorem me_modQuad (s : State) (n : Nat) (f : Quad → Quad) : (s.modQuad n f).me = s.me := rfl
@[simp] theorem me_modDbg (s : State) (n : Nat) (f : Dbg → Dbg) : (s.modDbg n f).me = s.me := rfl
@[simp] theorem quad_modDbg (s : State) (n k : Nat) (f : Dbg → Dbg) : (s.modDbg n f).quad k = s.quad k := rfl
@[simp] theorem ctx_setCtx_same (s : State) (n : Nat) (c : Ctx) : (s.setCtx n c).ctx n = c := by
  simp [State.ctx, State.setCtx]
@[simp] theorem dbgOf_modDbg_same (s : State) (n : Nat) (f : Dbg → Dbg) : (s.modDbg n f).dbgOf n = f (s.dbgOf n) := by
  simp [State.dbgOf, State.modDbg]

/-! ## The pipelines that issue -/

@[simp] theorem outrider_modPipe (c : Core) (f : Pipe → Pipe) : (c.modPipe f).outrider = c.outrider := by
  unfold Core.modPipe
  split <;> rfl
@[simp] theorem pipe_modPipe (c : Core) (f : Pipe → Pipe) : (c.modPipe f).pipe = f c.pipe := by
  unfold Core.modPipe Core.pipe
  split <;> simp_all [Core.outrider, Core.modRegs]
@[simp] theorem modPipe_modPipe (c : Core) (f g : Pipe → Pipe) : (c.modPipe f).modPipe g = c.modPipe (fun p => g (f p)) := by
  unfold Core.modPipe
  split <;> simp_all [Core.outrider, Core.modRegs]
@[simp] theorem statePipe_modPipe (s : State) (f : Pipe → Pipe) : (s.modPipe f).pipe = f s.pipe := by
  simp [State.modPipe, State.pipe]
@[simp] theorem stateModPipe_modPipe (s : State) (f g : Pipe → Pipe) :
    (s.modPipe f).modPipe g = s.modPipe (fun p => g (f p)) := by
  simp [State.modPipe]
@[simp] theorem me_modPipe (s : State) (f : Pipe → Pipe) : (s.modPipe f).me = s.me.modPipe f := by simp [State.modPipe]
@[simp] theorem me_modRegs (s : State) (f : CoreRegs → CoreRegs) : (s.modRegs f).me = s.me.modRegs f := by simp [State.modRegs]
@[simp] theorem regs_modRegs (s : State) (f : CoreRegs → CoreRegs) : (s.modRegs f).regs = f s.regs := by
  simp [State.modRegs, State.regs, Core.modRegs]
@[simp] theorem modRegs_modRegs (s : State) (f g : CoreRegs → CoreRegs) :
    (s.modRegs f).modRegs g = s.modRegs (fun r => g (f r)) := by
  simp [State.modRegs, Core.modRegs]
@[simp] theorem modRegs_regs (c : Core) (f : CoreRegs → CoreRegs) : (c.modRegs f).regs = f c.regs := rfl

@[simp] theorem coreModRegs_mail (c : Core) (f : CoreRegs → CoreRegs) : (c.modRegs f).mail = c.mail := rfl
@[simp] theorem coreModPipe_mail (c : Core) (f : Pipe → Pipe) : (c.modPipe f).mail = c.mail := by
  unfold Core.modPipe; split <;> rfl
@[simp] theorem coreModRegs_refuse (c : Core) (f : CoreRegs → CoreRegs) : (c.modRegs f).refuse = c.refuse := rfl
@[simp] theorem coreModPipe_refuse (c : Core) (f : Pipe → Pipe) : (c.modPipe f).refuse = c.refuse := by
  unfold Core.modPipe; split <;> rfl
@[simp] theorem coreModRegs_refCode (c : Core) (f : CoreRegs → CoreRegs) : (c.modRegs f).refCode = c.refCode := rfl
@[simp] theorem coreModPipe_refCode (c : Core) (f : Pipe → Pipe) : (c.modPipe f).refCode = c.refCode := by
  unfold Core.modPipe; split <;> rfl
@[simp] theorem coreModRegs_fold (c : Core) (f : CoreRegs → CoreRegs) : (c.modRegs f).fold = c.fold := rfl
@[simp] theorem coreModPipe_fold (c : Core) (f : Pipe → Pipe) : (c.modPipe f).fold = c.fold := by
  unfold Core.modPipe; split <;> rfl
@[simp] theorem coreModRegs_watch (c : Core) (f : CoreRegs → CoreRegs) : (c.modRegs f).watch = c.watch := rfl
@[simp] theorem coreModPipe_watch (c : Core) (f : Pipe → Pipe) : (c.modPipe f).watch = c.watch := by
  unfold Core.modPipe; split <;> rfl
@[simp] theorem coreModRegs_cache (c : Core) (f : CoreRegs → CoreRegs) : (c.modRegs f).cache = c.cache := rfl
@[simp] theorem coreModPipe_cache (c : Core) (f : Pipe → Pipe) : (c.modPipe f).cache = c.cache := by
  unfold Core.modPipe; split <;> rfl
@[simp] theorem coreModRegs_halt (c : Core) (f : CoreRegs → CoreRegs) : (c.modRegs f).halt = c.halt := rfl
@[simp] theorem coreModPipe_halt (c : Core) (f : Pipe → Pipe) : (c.modPipe f).halt = c.halt := by
  unfold Core.modPipe; split <;> rfl
@[simp] theorem coreModRegs_last (c : Core) (f : CoreRegs → CoreRegs) : (c.modRegs f).last = c.last := rfl
@[simp] theorem coreModPipe_last (c : Core) (f : Pipe → Pipe) : (c.modPipe f).last = c.last := by
  unfold Core.modPipe; split <;> rfl
@[simp] theorem coreModRegs_pinbase (c : Core) (f : CoreRegs → CoreRegs) : (c.modRegs f).pinbase = c.pinbase := rfl
@[simp] theorem coreModPipe_pinbase (c : Core) (f : Pipe → Pipe) : (c.modPipe f).pinbase = c.pinbase := by
  unfold Core.modPipe; split <;> rfl
@[simp] theorem coreModRegs_olds (c : Core) (f : CoreRegs → CoreRegs) : (c.modRegs f).olds = c.olds := rfl
@[simp] theorem coreModPipe_olds (c : Core) (f : Pipe → Pipe) : (c.modPipe f).olds = c.olds := by
  unfold Core.modPipe; split <;> rfl
@[simp] theorem coreModRegs_susp (c : Core) (f : CoreRegs → CoreRegs) : (c.modRegs f).susp = c.susp := rfl
@[simp] theorem coreModPipe_susp (c : Core) (f : Pipe → Pipe) : (c.modPipe f).susp = c.susp := by
  unfold Core.modPipe; split <;> rfl
@[simp] theorem coreModPipe_regs_vec (c : Core) (f : Pipe → Pipe) : (c.modPipe f).regs.vec = c.regs.vec := by
  unfold Core.modPipe; split <;> rfl
@[simp] theorem regs_modPipe_vec (s : State) (f : Pipe → Pipe) : (s.modPipe f).regs.vec = s.regs.vec := by
  simp [State.regs]
@[simp] theorem coreModPipe_regs_loop (c : Core) (f : Pipe → Pipe) : (c.modPipe f).regs.loop = c.regs.loop := by
  unfold Core.modPipe; split <;> rfl
@[simp] theorem regs_modPipe_loop (s : State) (f : Pipe → Pipe) : (s.modPipe f).regs.loop = s.regs.loop := by
  simp [State.regs]
@[simp] theorem coreModPipe_regs_region (c : Core) (f : Pipe → Pipe) : (c.modPipe f).regs.region = c.regs.region := by
  unfold Core.modPipe; split <;> rfl
@[simp] theorem regs_modPipe_region (s : State) (f : Pipe → Pipe) : (s.modPipe f).regs.region = s.regs.region := by
  simp [State.regs]
@[simp] theorem coreModPipe_regs_feed (c : Core) (f : Pipe → Pipe) : (c.modPipe f).regs.feed = c.regs.feed := by
  unfold Core.modPipe; split <;> rfl
@[simp] theorem regs_modPipe_feed (s : State) (f : Pipe → Pipe) : (s.modPipe f).regs.feed = s.regs.feed := by
  simp [State.regs]
@[simp] theorem coreModPipe_regs_scale (c : Core) (f : Pipe → Pipe) : (c.modPipe f).regs.scale = c.regs.scale := by
  unfold Core.modPipe; split <;> rfl
@[simp] theorem regs_modPipe_scale (s : State) (f : Pipe → Pipe) : (s.modPipe f).regs.scale = s.regs.scale := by
  simp [State.regs]
@[simp] theorem coreModPipe_regs_tok (c : Core) (f : Pipe → Pipe) : (c.modPipe f).regs.tok = c.regs.tok := by
  unfold Core.modPipe; split <;> rfl
@[simp] theorem regs_modPipe_tok (s : State) (f : Pipe → Pipe) : (s.modPipe f).regs.tok = s.regs.tok := by
  simp [State.regs]
@[simp] theorem coreModPipe_regs_arr (c : Core) (f : Pipe → Pipe) : (c.modPipe f).regs.arr = c.regs.arr := by
  unfold Core.modPipe; split <;> rfl
@[simp] theorem regs_modPipe_arr (s : State) (f : Pipe → Pipe) : (s.modPipe f).regs.arr = s.regs.arr := by
  simp [State.regs]
@[simp] theorem coreModPipe_regs_wins (c : Core) (f : Pipe → Pipe) : (c.modPipe f).regs.wins = c.regs.wins := by
  unfold Core.modPipe; split <;> rfl
@[simp] theorem regs_modPipe_wins (s : State) (f : Pipe → Pipe) : (s.modPipe f).regs.wins = s.regs.wins := by
  simp [State.regs]
@[simp] theorem coreModPipe_regs_trap (c : Core) (f : Pipe → Pipe) : (c.modPipe f).regs.trap = c.regs.trap := by
  unfold Core.modPipe; split <;> rfl
@[simp] theorem regs_modPipe_trap (s : State) (f : Pipe → Pipe) : (s.modPipe f).regs.trap = s.regs.trap := by
  simp [State.regs]
@[simp] theorem coreModPipe_regs_lim (c : Core) (f : Pipe → Pipe) : (c.modPipe f).regs.lim = c.regs.lim := by
  unfold Core.modPipe; split <;> rfl
@[simp] theorem regs_modPipe_lim (s : State) (f : Pipe → Pipe) : (s.modPipe f).regs.lim = s.regs.lim := by
  simp [State.regs]
@[simp] theorem coreModPipe_regs_id (c : Core) (f : Pipe → Pipe) : (c.modPipe f).regs.id = c.regs.id := by
  unfold Core.modPipe; split <;> rfl
@[simp] theorem regs_modPipe_id (s : State) (f : Pipe → Pipe) : (s.modPipe f).regs.id = s.regs.id := by
  simp [State.regs]
@[simp] theorem coreModPipe_regs_run (c : Core) (f : Pipe → Pipe) : (c.modPipe f).regs.run = c.regs.run := by
  unfold Core.modPipe; split <;> rfl
@[simp] theorem regs_modPipe_run (s : State) (f : Pipe → Pipe) : (s.modPipe f).regs.run = s.regs.run := by
  simp [State.regs]
@[simp] theorem coreModPipe_regs_out (c : Core) (f : Pipe → Pipe) : (c.modPipe f).regs.out = c.regs.out := by
  unfold Core.modPipe; split <;> rfl
@[simp] theorem regs_modPipe_out (s : State) (f : Pipe → Pipe) : (s.modPipe f).regs.out = s.regs.out := by
  simp [State.regs]
@[simp] theorem coreModPipe_regs_hold (c : Core) (f : Pipe → Pipe) : (c.modPipe f).regs.hold = c.regs.hold := by
  unfold Core.modPipe; split <;> rfl
@[simp] theorem regs_modPipe_hold (s : State) (f : Pipe → Pipe) : (s.modPipe f).regs.hold = s.regs.hold := by
  simp [State.regs]
@[simp] theorem coreModPipe_regs_emul (c : Core) (f : Pipe → Pipe) : (c.modPipe f).regs.emul = c.regs.emul := by
  unfold Core.modPipe; split <;> rfl
@[simp] theorem regs_modPipe_emul (s : State) (f : Pipe → Pipe) : (s.modPipe f).regs.emul = s.regs.emul := by
  simp [State.regs]

/-! ## Derived numbers -/

@[simp] theorem myQuad_modMe (s : State) (f : Core → Core) : (s.modMe f).myQuad = s.myQuad := rfl
@[simp] theorem myQuad_modPipe (s : State) (f : Pipe → Pipe) : (s.modPipe f).myQuad = s.myQuad := rfl
@[simp] theorem myQuad_modRegs (s : State) (f : CoreRegs → CoreRegs) : (s.modRegs f).myQuad = s.myQuad := rfl
@[simp] theorem quad_modPipe (s : State) (f : Pipe → Pipe) (q : Nat) : (s.modPipe f).quad q = s.quad q := rfl
@[simp] theorem quad_modRegs (s : State) (f : CoreRegs → CoreRegs) (q : Nat) : (s.modRegs f).quad q = s.quad q := rfl

end Sys2Proof.Machine
end

