-- ==== Sys2Proof/Laws/Issue.lean ====
section
/-! SUPPORT. Laws of issue: what the sources of a syllable read and consume, and what the shared shapes of the S, VA and VB
slots start. -/

namespace Sys2Proof.Machine

/-! ## Results -/

/-- The registers of a core after a syllable has consumed its sources. -/
def readsCore (pops : Nat) (ms : List Nat) (c : Core) : Core :=
  { c.modPipe (fun p => { p with ldq := p.ldq.drop pops }) with
    mail := mailsRead c.mail ms
    cache := { c.cache with acq := c.cache.acq || ms.any (fun m => (vget c.mail m ⟨0, false⟩).full) } }

theorem afterReads_eq (s : State) (pops : Nat) (ms : List Nat) : afterReads s pops ms = s.modMe (readsCore pops ms) := rfl

theorem modPipe_id (c : Core) : c.modPipe (fun p => p) = c := by
  unfold Core.modPipe Core.modRegs; split <;> rfl

@[simp] theorem readsCore_none (c : Core) : readsCore 0 [] c = c := by
  simp [readsCore, mailsRead, modPipe_id]

/-- Starting one result. -/
theorem result_eq (s : State) (slot : Pos) (lat : Nat) (t : Tgt) (v : Vec) :
    s.result slot lat t v = withResults s (resultsAt s slot lat [t] v) := by
  simp only [State.result, Pipe.result, withResults, resultsAt, State.modPipe, State.modMe, State.modCore]
  congr 1
  simp only [Core.modPipe, State.pipe, State.me, Core.pipe]
  split <;> simp_all [Core.modRegs]

theorem withResults_withResults (s : State) (l k : List Flight) :
    withResults (withResults s l) k = withResults s (l ++ k) := by
  simp [withResults, List.foldl_append]

@[simp] theorem pipe_withResults (s : State) (l : List Flight) :
    (withResults s l).pipe = { s.pipe with flight := l.foldl (fun f x => addFlight x f) s.pipe.flight } := by
  simp [withResults]

/-- Starting a result of S, VA or VB at its two targets, or at its latch alone (R60). -/
theorem dest_eq (s : State) (slot : Pos) (lat : Nat) (w : BitVec 1) (d : BitVec 6) (v : Vec) :
    s.dest slot lat w d v = withResults s (resultsAt s slot lat (targets slot w d) v) := by
  unfold State.dest targets
  split
  · exact result_eq ..
  · rw [result_eq, result_eq, withResults_withResults]
    simp [resultsAt]

/-! ## Pops -/

theorem popsRes_go {n : Nat} {l : List LdqEntry} (h : n ≤ l.length) (g : ∀ e ∈ l.take n, e.out = true) :
    popsRes n l = .go := by
  induction n generalizing l with
  | zero => rfl
  | succ n ih =>
    cases l with
    | nil => simp at h
    | cons e r =>
      simp only [popsRes, g e (by simp), if_true]
      exact ih (by simpa using h) (fun x hx => g x (by simp [hx]))

theorem withPops_go {n : Nat} {s : State} (h : CanPop n s) (slot : Pos) (k : State → State) :
    withPops n slot s k = k s := by
  simp [withPops, popsRes_go h.1 h.2]

theorem canPop_zero (s : State) : CanPop 0 s := ⟨Nat.zero_le _, by simp⟩

theorem CanPop.mono {m n : Nat} {s : State} (h : CanPop n s) (k : m ≤ n) : CanPop m s :=
  ⟨Nat.le_trans k h.1, fun e he => h.2 e (List.take_subset_take_left _ k he)⟩

/-! ## Sources of S -/

theorem isPop_eq_zero {x : BitVec 6} (h : x ≠ 57) : isPop x = 0 := if_neg h

theorem isPop_57 (x : BitVec 6) (h : x.toNat = 57) : isPop x = 1 := by
  have : x = 57 := by apply BitVec.eq_of_toNat_eq; simpa using h
  simp [isPop, this]

theorem ne57 {x : BitVec 6} (h : x.toNat ≠ 57) : x ≠ 57 := fun e => h (by simp [e])

theorem popLdq_fst (s : State) : (popLdq s).1 = popVal s 0 := by
  unfold popLdq popVal
  split <;> simp_all

theorem popLdq_snd (s : State) (h : CanPop 1 s) : (popLdq s).2 = s.modMe (readsCore 1 []) := by
  obtain ⟨e, r, hl⟩ : ∃ e r, s.pipe.ldq = e :: r := by
    have := h.1
    cases hl : s.pipe.ldq with
    | nil => simp [hl] at this
    | cons e r => exact ⟨e, r, rfl⟩
  unfold popLdq
  rw [hl]
  simp only [State.modPipe, State.modMe, State.modCore]
  congr 1
  show (s.me).modPipe _ = readsCore 1 [] s.me
  have hp : s.me.pipe.ldq = e :: r := hl
  unfold readsCore Core.modPipe
  unfold Core.pipe at hp
  split <;> simp_all [Core.modRegs, mailsRead]

theorem srcS_fst (s : State) (x : BitVec 6) : (srcS x s).1 = sVal s x 0 := by
  unfold srcS sVal
  simp only
  split
  · rfl
  · split
    · rfl
    · split
      · rfl
      · split
        · simp [popLdq_fst]
        · rfl

theorem modMe_congr {s : State} {f g : Core → Core} (h : f s.me = g s.me) : s.modMe f = s.modMe g := by
  simp only [State.modMe, State.modCore, State.me] at *
  rw [h]

/-- What reading a source of S consumes, as later changes of the core see it. -/
theorem srcS_snd (s : State) (x : BitVec 6) (h : CanPop (isPop x) s) (g : Core → Core) :
    (srcS x s).2.modMe g = s.modMe (fun c => g (readsCore (isPop x) (mailsOf x) c)) := by
  unfold srcS
  simp only
  by_cases h1 : x.toNat < 40
  · have n : x ≠ 57 := ne57 (by omega)
    rw [isPop_eq_zero n]
    simp [h1, mailsOf, show ¬ (44 ≤ x.toNat ∧ x.toNat < 48) by omega]
  · by_cases h2 : x.toNat < 44
    · have n : x ≠ 57 := ne57 (by omega)
      rw [isPop_eq_zero n]
      simp [h1, h2, mailsOf, show ¬ (44 ≤ x.toNat ∧ x.toNat < 48) by omega]
    · by_cases h3 : x.toNat < 48
      · have n : x ≠ 57 := ne57 (by omega)
        simp only [h1, h2, h3, if_true, if_false, readMail, modMe_modMe, isPop_eq_zero n]
        refine modMe_congr ?_
        simp [readsCore, mailsOf, mailsRead, show (44 ≤ x.toNat ∧ x.toNat < 48) by omega, modPipe_id]
      · by_cases h4 : x.toNat = 57
        · rw [isPop_57 x h4] at h ⊢
          simp only [h4, popLdq_snd s h]
          simp [mailsOf, h4]
        · have n : x ≠ 57 := ne57 h4
          rw [isPop_eq_zero n]
          simp [h1, h2, h3, h4, mailsOf]

theorem modMe_id (s : State) (g : Core → Core) : s.modMe (fun c => g c) = s.modMe g := rfl

theorem mailsRead_value (v : Vector Mail 4) (ms : List Nat) (m : Nat) :
    (vget (mailsRead v ms) m ⟨0, false⟩).value = (vget v m ⟨0, false⟩).value := by
  unfold mailsRead
  induction ms generalizing v with
  | nil => rfl
  | cons k r ih =>
    simp only [List.foldl_cons, ih]
    by_cases hk : m = k
    · subst hk
      by_cases hm : m < 4
      · rw [vget_vset_same _ _ _ _ hm]
      · simp [vget, hm]
    · rw [vget_vset_ne _ _ _ hk]

theorem me_srcS (s : State) (x : BitVec 6) (h : CanPop (isPop x) s) :
    (srcS x s).2.me = readsCore (isPop x) (mailsOf x) s.me := by
  have := congrArg State.me (srcS_snd s x h id)
  simpa using this

theorem pipe_readsCore (pops : Nat) (ms : List Nat) (c : Core) :
    (readsCore pops ms c).pipe = { c.pipe with ldq := c.pipe.ldq.drop pops } := by
  have e : (readsCore pops ms c).pipe = (c.modPipe (fun p => { p with ldq := p.ldq.drop pops })).pipe := rfl
  rw [e, pipe_modPipe]

theorem sVal_reads {s t : State} {n : Nat} {ms : List Nat} (h : t.me = readsCore n ms s.me) (x : BitVec 6) (k : Nat) :
    sVal t x k = sVal s x (n + k) := by
  have hp : t.pipe = { s.pipe with ldq := s.pipe.ldq.drop n } := by
    rw [State.pipe, h, pipe_readsCore]; rfl
  have hm : t.me.mail = mailsRead s.me.mail ms := by rw [h]; rfl
  simp only [sVal, popVal, hp, hm, mailsRead_value, List.getElem?_drop]

theorem canPop_reads {s t : State} {n m : Nat} {ms : List Nat} (h : t.me = readsCore n ms s.me)
    (k : CanPop (n + m) s) : CanPop m t := by
  have hp : t.pipe = { s.pipe with ldq := s.pipe.ldq.drop n } := by
    rw [State.pipe, h, pipe_readsCore]; rfl
  unfold CanPop at *
  rw [hp]
  refine ⟨by simp; omega, fun e he => k.2 e ?_⟩
  rw [List.take_add]
  exact List.mem_append_right _ he

theorem mailsRead_append (v : Vector Mail 4) (a b : List Nat) : mailsRead v (a ++ b) = mailsRead (mailsRead v a) b := by
  simp [mailsRead]

theorem mailsRead_full (v : Vector Mail 4) (ms : List Nat) (m : Nat) :
    (vget (mailsRead v ms) m ⟨0, false⟩).full = ((vget v m ⟨0, false⟩).full && !ms.contains m) := by
  unfold mailsRead
  induction ms generalizing v with
  | nil => simp
  | cons k r ih =>
    simp only [List.foldl_cons, ih]
    by_cases hk : m = k
    · subst hk
      by_cases hm : m < 4
      · rw [vget_vset_same _ _ _ _ hm]; simp
      · simp [vget, hm]
    · rw [vget_vset_ne _ _ _ hk]; simp [hk]

theorem fullAny (v : Vector Mail 4) (a b : List Nat) (q : Bool) :
    ((q || a.any (fun m => (vget v m ⟨0, false⟩).full)) || b.any (fun m => (vget (mailsRead v a) m ⟨0, false⟩).full)) =
      (q || (a ++ b).any (fun m => (vget v m ⟨0, false⟩).full)) := by
  simp only [mailsRead_full, List.any_append, Bool.or_assoc]
  congr 1
  rw [Bool.eq_iff_iff]
  simp only [Bool.or_eq_true, List.any_eq_true, Bool.and_eq_true, Bool.not_eq_true', List.contains_eq_mem,
    decide_eq_false_iff_not]
  constructor
  · rintro (h | ⟨m, hm, h, -⟩)
    · exact .inl h
    · exact .inr ⟨m, hm, h⟩
  · rintro (h | ⟨m, hm, h⟩)
    · exact .inl h
    · by_cases hc : m ∈ a
      · exact .inl ⟨m, hc, h⟩
      · exact .inr ⟨m, hm, h, hc⟩

theorem readsCore_readsCore (m n : Nat) (a b : List Nat) (c : Core) :
    readsCore m b (readsCore n a c) = readsCore (n + m) (a ++ b) c := by
  unfold readsCore
  simp only [mailsRead_append, fullAny]
  unfold Core.modPipe
  by_cases h : c.outrider = true
  · have h2 : c.regs.out ≠ .off := by simpa [Core.outrider] using h
    simp [h2, Core.outrider, Core.modRegs, Nat.add_comm]
  · have h2 : c.regs.out = .off := by simpa [Core.outrider] using h
    simp [h2, Core.outrider, Core.modRegs, Nat.add_comm]

theorem regs_out_readsCore (n : Nat) (ms : List Nat) (c : Core) : (readsCore n ms c).outrider = c.outrider := by
  show (c.modPipe _).outrider = _
  exact outrider_modPipe ..

/-! ## The shapes of S -/

/-- Results started after reads. -/
theorem withResults_reads {s t : State} {n : Nat} {ms : List Nat}
    (h : ∀ g, t.modMe g = s.modMe (fun c => g (readsCore n ms c))) (l : List Flight) :
    withResults t l = withResults (afterReads s n ms) l := by
  rw [afterReads_eq]
  simp only [withResults, State.modPipe, h, modMe_modMe]

theorem count_reads {s t : State} {n : Nat} {ms : List Nat} (h : t.me = readsCore n ms s.me) :
    t.pipe.count = s.pipe.count := by
  rw [State.pipe, h, pipe_readsCore]; rfl

theorem bn_reads {s t : State} {n : Nat} {ms : List Nat} (h : t.me = readsCore n ms s.me) : t.pipe.bn = s.pipe.bn := by
  rw [State.pipe, h, pipe_readsCore]; rfl

/-- An S syllable of two sources. -/
theorem aluS_eq {lat : Nat} {w : BitVec 1} {d a b : BitVec 6} {f : Word → Word → Word} {s : State}
    (h : CanPop (isPop a + isPop b) s) :
    aluS lat w d a b f s =
      withResults (afterReads s (isPop a + isPop b) (mailsOf a ++ mailsOf b))
        (resultsAt s .S lat (targets .S w d) (wordVec (f (sVal s a 0) (sVal s b (isPop a))))) := by
  unfold aluS
  rw [withPops_go h]
  have ha : CanPop (isPop a) s := h.mono (Nat.le_add_right _ _)
  have h1 := me_srcS s a ha
  have hb : CanPop (isPop b) (srcS a s).2 := canPop_reads h1 h
  have h2 := me_srcS _ b hb
  rw [h1, readsCore_readsCore] at h2
  have hg : ∀ g, (srcS b (srcS a s).2).2.modMe g =
      s.modMe (fun c => g (readsCore (isPop a + isPop b) (mailsOf a ++ mailsOf b) c)) := by
    intro g
    rw [srcS_snd _ b hb, srcS_snd _ a ha]
    simp only [readsCore_readsCore]
  show (srcS b (srcS a s).2).2.dest .S lat w d (wordVec (f (srcS a s).1 (srcS b (srcS a s).2).1)) = _
  rw [dest_eq, withResults_reads hg]
  simp only [resultsAt, count_reads h2, bn_reads h2, srcS_fst, sVal_reads h1, Nat.add_zero]

/-- An S syllable of one source. -/
theorem aluS1_eq {lat : Nat} {w : BitVec 1} {d a : BitVec 6} {f : Word → Word} {s : State} (h : CanPop (isPop a) s) :
    aluS1 lat w d a f s =
      withResults (afterReads s (isPop a) (mailsOf a))
        (resultsAt s .S lat (targets .S w d) (wordVec (f (sVal s a 0)))) := by
  unfold aluS1
  rw [withPops_go h]
  show (srcS a s).2.dest .S lat w d (wordVec (f (srcS a s).1)) = _
  rw [dest_eq, withResults_reads (srcS_snd s a h)]
  simp only [resultsAt, count_reads (me_srcS s a h), bn_reads (me_srcS s a h), srcS_fst]

theorem alu2_intro {mk : BitVec 1 → BitVec 6 → BitVec 6 → BitVec 6 → Instr} {lat : Nat}
    {f : State → BitVec 1 → BitVec 6 → Word → Word → Word} (g : State → BitVec 1 → BitVec 6 → Word → Word → Word)
    (h : ∀ s w d a b, exec (mk w d a b) s = .next (aluS lat w d a b (g s w d) s))
    (e : ∀ s w d x y, g s w d x y = f s w d x y) : Alu2 mk lat f := by
  intro s w d a b hp
  rw [h, aluS_eq hp, e]

theorem alu1_intro {mk : BitVec 1 → BitVec 6 → BitVec 6 → Instr} {lat : Nat}
    {f : State → BitVec 1 → BitVec 6 → Word → Word} (g : State → BitVec 1 → BitVec 6 → Word → Word)
    (h : ∀ s w d a, exec (mk w d a) s = .next (aluS1 lat w d a (g s w d) s))
    (e : ∀ s w d x, g s w d x = f s w d x) : Alu1 mk lat f := by
  intro s w d a hp
  rw [h, aluS1_eq hp, e]

end Sys2Proof.Machine
end

