-- ==== Sys2Proof/Laws/Memory.lean ====
section
/-! SUPPORT. Laws of memory: its canonical form, what a byte reads as after a write, and that every operation that writes memory
keeps the form. -/

namespace Sys2Proof.Machine

variable {m : List Host.Cell} {lo : Nat}

/-! ## The canonical form -/

theorem Memory.above_of_le {hi : Nat} (h : lo ≤ hi) : Memory.above hi m = true → Memory.above lo m = true := by
  cases m with
  | nil => simp [Memory.above]
  | cons e r => simp only [Memory.above, Bool.and_eq_true, decide_eq_true_eq]; exact fun g => ⟨⟨by omega, g.1.2⟩, g.2⟩

theorem Memory.above_put {a : Nat} {b : Byte} (k : lo ≤ a) (h : Memory.above lo m = true) :
    Memory.above lo (Memory.put m a b) = true := by
  induction m generalizing lo with
  | nil =>
    simp only [Memory.put]
    split
    · rfl
    · simp only [Memory.above, Bool.and_eq_true, decide_eq_true_eq, ne_eq, and_true]
      exact ⟨k, by simpa using ‹¬b = 0›⟩
  | cons e r ih =>
    simp only [Memory.above, Bool.and_eq_true, decide_eq_true_eq] at h
    simp only [Memory.put]
    split
    · split
      · simpa [Memory.above] using ⟨⟨h.1.1, by simpa using h.1.2⟩, h.2⟩
      · simp only [Memory.above, Bool.and_eq_true, decide_eq_true_eq, ne_eq, decide_not]
        exact ⟨⟨k, by simpa using ‹¬b = 0›⟩, ⟨⟨by omega, by simpa using h.1.2⟩, h.2⟩⟩
    · split
      · subst_vars
        split
        · exact above_of_le (by omega) h.2
        · simp only [Memory.above, Bool.and_eq_true, decide_eq_true_eq, ne_eq, decide_not]
          exact ⟨⟨k, by simpa using ‹¬b = 0›⟩, h.2⟩
      · simp only [Memory.above, Bool.and_eq_true, decide_eq_true_eq]
        exact ⟨h.1, ih (by omega) h.2⟩

theorem Memory.above_filter {p : Host.Cell → Bool} (h : Memory.above lo m = true) : Memory.above lo (m.filter p) = true := by
  induction m generalizing lo with
  | nil => exact h
  | cons e r ih =>
    simp only [Memory.above, Bool.and_eq_true, decide_eq_true_eq] at h
    cases c : p e with
    | true =>
      simp only [List.filter, c, Memory.above, Bool.and_eq_true, decide_eq_true_eq]
      exact ⟨h.1, ih h.2⟩
    | false =>
      simp only [List.filter, c]
      exact above_of_le (by omega) (ih h.2)

theorem Memory.wf_put {a : Nat} {b : Byte} (h : Memory.wf m = true) : Memory.wf (Memory.put m a b) = true :=
  above_put (Nat.zero_le a) h

theorem Memory.wf_filter {p : Host.Cell → Bool} (h : Memory.wf m = true) : Memory.wf (m.filter p) = true := above_filter h

theorem Memory.wf_write {a v n : Nat} (h : Memory.wf m = true) : Memory.wf (Memory.write m a v n) = true := by
  induction n generalizing m a v with
  | zero => exact h
  | succ n ih => exact ih (wf_put h)

theorem Memory.wf_puts {α : Type} (l : List α) (f : α → Nat) (g : α → Byte) (h : Memory.wf m = true) :
    Memory.wf (l.foldl (fun m x => Memory.put m (f x) (g x)) m) = true := by
  induction l generalizing m with
  | nil => exact h
  | cons x r ih => exact ih (wf_put h)

/-- A fold keeps what each of its steps keeps. -/
theorem foldl_keeps {α β : Type} {P : β → Prop} {f : β → α → β} (g : ∀ b x, P b → P (f b x)) (l : List α) {b : β} (h : P b) :
    P (l.foldl f b) := by
  induction l generalizing b with
  | nil => exact h
  | cons x r ih => exact ih (g b x h)

/-! ## What a byte reads as after a write -/

theorem Memory.get_below {a : Nat} (h : Memory.above lo m = true) (k : a < lo) : Memory.get m a = 0 := by
  induction m generalizing lo with
  | nil => rfl
  | cons e r ih =>
    simp only [Memory.above, Bool.and_eq_true, decide_eq_true_eq] at h
    simp only [Memory.get]
    rw [if_neg (by omega)]
    exact ih h.2 (by omega)

theorem Memory.get_put {a c : Nat} {b : Byte} (h : Memory.wf m = true) :
    Memory.get (Memory.put m a b) c = if c = a then b else Memory.get m c := by
  have key : ∀ (m : List Host.Cell) (lo : Nat), Memory.above lo m = true →
      Memory.get (Memory.put m a b) c = if c = a then b else Memory.get m c := by
    intro m
    induction m with
    | nil =>
      intro lo _
      simp only [Memory.put]
      by_cases f : c = a
      · subst f; split <;> simp_all [Memory.get]
      · split <;> simp [Memory.get, show ¬a = c from fun g => f g.symm]
    | cons e r ih =>
      intro lo h
      simp only [Memory.above, Bool.and_eq_true, decide_eq_true_eq] at h
      have hr : a ≤ e.1 → Memory.get r a = 0 := fun k => get_below h.2 (by omega)
      simp only [Memory.put]
      split
      · rename_i lt
        by_cases f : c = a
        · subst f; split <;> simp_all [Memory.get, show ¬e.1 = c by omega, hr (by omega)]
        · split <;> simp [Memory.get, show ¬a = c from fun g => f g.symm]
      · split
        · rename_i eq
          by_cases f : c = a
          · subst f; split <;> simp_all [Memory.get, hr (by omega)]
          · split <;> simp [Memory.get, show ¬a = c from fun g => f g.symm, show ¬e.1 = c by omega]
        · by_cases f : c = a
          · subst f; simp [Memory.get, show ¬e.1 = c by omega, ih _ h.2]
          · simp [Memory.get, ih _ h.2, f]
  exact key m 0 h

/-! ## The operations that write memory -/

theorem wf_reset : Memory.wf State.reset.mem = true := rfl

theorem wf_writeByteAs {s : State} {t a : Nat} {b : Byte} (h : Memory.wf s.mem = true) :
    Memory.wf (writeByteAs s t a b).mem = true := by
  unfold writeByteAs
  split
  · exact Memory.wf_put h
  · exact h

theorem wf_writeBytesAs (l : List (Nat × Byte)) {s : State} {t : Nat} (h : Memory.wf s.mem = true) :
    Memory.wf (writeBytesAs s t l).mem = true := by
  induction l generalizing s with
  | nil => exact h
  | cons e r ih => exact ih (wf_writeByteAs h)

theorem wf_traceWrite (l : List TraceRec) {s : State} {d : Nat} (h : Memory.wf s.mem = true) :
    Memory.wf (traceWrite s d l).mem = true := by
  induction l generalizing s with
  | nil => exact h
  | cons e r ih =>
    simp only [traceWrite]
    split
    · exact h
    · refine ih ?_
      simp only [modDbg_mem]
      exact Memory.wf_write h

theorem wf_drainRow {q : Nat} {d : Drain} {i : Nat} (l : List Nat) (h : Memory.wf m = true) :
    Memory.wf (drainRow q d i l m) = true := by
  induction l generalizing m with
  | nil => exact h
  | cons j r ih => exact ih (Memory.wf_write h)

theorem wf_drainMem {q : Nat} {d : Drain} (h : Memory.wf m = true) : Memory.wf (drainMem q d m) = true :=
  foldl_keeps (P := fun m => Memory.wf m = true) (fun _ _ g => wf_drainRow _ g) _ h

theorem wf_zeroBytes {s : State} {a n : Nat} (h : Memory.wf s.mem = true) : Memory.wf (zeroBytes a n s).mem = true :=
  Memory.wf_filter h

theorem wf_freeBytes {s : State} {a n : Nat} (h : Memory.wf s.mem = true) : Memory.wf (freeBytes a n s).mem = true :=
  Memory.wf_puts _ _ _ h

theorem wf_restorePad {s : State} {n : Nat} {x : Susp} (h : Memory.wf s.mem = true) : Memory.wf (restorePad n x s).mem = true := by
  unfold restorePad
  split
  · exact h
  · exact Memory.wf_puts _ _ _ (Memory.wf_filter h)

theorem wf_scrubCore {s : State} {tag n : Nat} (h : Memory.wf s.mem = true) : Memory.wf (scrubCore tag n s).mem = true := by
  have key : ∀ (c : Prop) [Decidable c] (x y : State), Memory.wf x.mem = true → Memory.wf y.mem = true →
      Memory.wf (if c then x else y).mem = true := fun c _ x y hx hy => by split <;> assumption
  have h2 := fun (p : Host.Cell → Bool) => Memory.wf_filter (p := p) h
  exact key _ _ _ (Memory.wf_filter (key _ _ _ (h2 _) (h2 _))) (key _ _ _ (h2 _) (h2 _))

theorem wf_drainLand {s : State} {q : Nat} (h : Memory.wf s.mem = true) : Memory.wf (drainLand q s).mem = true :=
  foldl_keeps (P := fun m => Memory.wf m = true) (fun _ _ g => wf_drainMem g) _ h

theorem wf_resetModule {s : State} (h : Memory.wf s.mem = true) : Memory.wf (resetModule s).mem = true := by
  unfold resetModule
  split
  · exact Memory.wf_filter h
  · split <;> exact Memory.wf_filter h

end Sys2Proof.Machine
end

