-- ==== Sys2Proof/Laws/Pod.lean ====
section
/-! SUPPORT. Laws of accesses to other modules: without a window to one and without a request to one, the accesses of dispatchers and
engines are those of this module, and no flit is waited for. -/

namespace Sys2Proof.Machine

variable {s : State}

/-- Without a window every address is this module's. -/
theorem podOf_none (h : s.podwin = []) (pa : Nat) : podOf s pa = none := by simp [podOf, h]

theorem podPort_none (h : s.podwin = []) (pa : Nat) : podPort s pa = none := by simp [podPort, podOf_none h]

theorem noRoute_false (h : s.podwin = []) (pa : Nat) : noRoute s pa = false := by simp [noRoute, podPort_none h]

theorem farRefused_false (h : s.podreqs = []) (u : Nat) : farRefused s u = false := by simp [farRefused, h]

theorem farOpen_nil (h : s.podwin = []) (u : Nat) (wr : Bool) (l : List Nat) : farOpen s u wr l = [] := by
  have e : l.filter (fun a => (podOf s a).isSome) = [] := by simp [podOf_none h]
  simp [farOpen, e]

/-- A dispatcher's access, without a window, is its look at the translation. -/
theorem dispTry_near (h : s.podwin = []) (g : s.podreqs = []) (q d tag kind va n : Nat) :
    dispTry s q d tag kind va n = dispLook s d tag kind va n := by
  unfold dispTry
  split
  · simp [*, farOpen, farRefused_false g]
  · rfl

theorem farRest_near (g : s.podreqs = []) (q : Nat) : farRest q s = s := by simp [farRest, g]

theorem farAsk_nil (u tag : Nat) (wr : Bool) (t : State) : farAsk u tag wr [] t = t := rfl

/-- A command of an engine, without a window, waits for no line. -/
theorem engineFar_nil (h : s.podwin = []) (c kind : Nat) (stamp : Bool) (l : List (Nat × Nat)) : engineFar s c kind stamp l = [] := by
  simp [engineFar, h]

theorem payloadFar_near (h : s.podwin = []) (c : Nat) (t : Tmpl) : payloadFar s c t = none := by
  simp [payloadFar, engineFar_nil h]

/-- A port without credit for its one waiting flit, or with a full replay buffer, sends nothing. -/
theorem pumpOne_full {x : Link} (h : 512 ≤ x.replay.length) : pumpOne x = x := by simp [pumpOne, h]

theorem pumpOne_unusable {x : Link} (h : x.st.usable = false) : pumpOne x = x := by simp [pumpOne, h]

end Sys2Proof.Machine
end

