-- ==== Sys2Proof/Laws/Vector.lean ====
section
/-! SUPPORT. Laws of the vector slots: the elements of a register, and the shapes of VA and VB. -/

namespace Sys2Proof.Machine

/-! ## Elements -/

theorem elemsGo_length (n m x : Nat) : (elemsGo n m x).length = m := by
  induction m generalizing x with
  | zero => rfl
  | succ m ih => simp [elemsGo, ih]

theorem elemsGo_get (n m x i : Nat) (h : i < m) : (elemsGo n m x).getD i 0 = x / 2 ^ (n * i) % 2 ^ n := by
  induction m generalizing x i with
  | zero => omega
  | succ m ih =>
    cases i with
    | zero => simp [elemsGo]
    | succ i =>
      simp only [elemsGo, List.getD_cons_succ]
      rw [ih _ _ (by omega), Nat.div_div_eq_div_mul, ← Nat.pow_add, Nat.mul_succ, Nat.add_comm n]

@[simp] theorem elems_length (n : Nat) (v : Vec) : (elems n v).length = 2048 / n := elemsGo_length ..

/-- Element i of a register is its field of n bits at bit n * i. -/
theorem nth_elems {n i : Nat} (v : Vec) (h : i < 2048 / n) : nthN (elems n v) i = field v (n * i) n :=
  elemsGo_get n _ _ _ h

theorem bits_ofElemsN (n : Nat) (l : List Nat) (i : Nat) : bitsN (ofElemsN n l) (n * i) n = nthN l i % 2 ^ n := by
  induction l generalizing i with
  | nil => simp [ofElemsN, bitsN, nthN]
  | cons e r ih =>
    have hp : 0 < 2 ^ n := Nat.two_pow_pos n
    have he : e % 2 ^ n < 2 ^ n := Nat.mod_lt _ hp
    have hd : (e % 2 ^ n + 2 ^ n * ofElemsN n r) / 2 ^ n = ofElemsN n r := by
      rw [Nat.add_mul_div_left _ _ hp, Nat.div_eq_of_lt he, Nat.zero_add]
    have hc : ofElemsN n (e :: r) = e % 2 ^ n + 2 ^ n * ofElemsN n r := rfl
    cases i with
    | zero => simp [bitsN, hc, nthN]
    | succ i =>
      have := ih i
      simp only [bitsN, nthN, List.getD_cons_succ] at this ⊢
      rw [← this, hc, Nat.mul_succ, Nat.add_comm (n * i) n, Nat.pow_add, ← Nat.div_div_eq_div_mul, hd]

theorem field_natVec {n i : Nat} (x : Nat) (h : i < 2048 / n) : field (natVec x) (n * i) n = bitsN x (n * i) n := by
  have hn : 0 < n := by
    rcases Nat.eq_zero_or_pos n with h0 | h0
    · subst h0; simp at h
    · exact h0
  have hle : n * i + n ≤ 2048 := by
    have : n * (i + 1) ≤ n * (2048 / n) := Nat.mul_le_mul_left _ h
    have := Nat.mul_div_le 2048 n
    rw [Nat.mul_succ] at *
    omega
  simp only [field, natVec, bitsN, BitVec.toNat_ofNat]
  obtain ⟨k, hk⟩ := Nat.exists_eq_add_of_le hle
  generalize 2048 = m at hk
  rw [hk, Nat.pow_add, Nat.pow_add, Nat.mul_assoc, Nat.mod_mul_right_div_self, Nat.mod_mul_right_mod]

/-- Element i of a register built from a list. -/
theorem field_ofElems {n i : Nat} (l : List Nat) (h : i < 2048 / n) : field (ofElems n l) (n * i) n = nthN l i % 2 ^ n := by
  rw [ofElems, field_natVec _ h, bits_ofElemsN]

theorem nth_map {l : List Nat} (f : Nat → Nat) {i : Nat} (h : i < l.length) : nthN (l.map f) i = f (nthN l i) := by
  simp [nthN, List.getD_eq_getElem?_getD, List.getElem?_map, List.getElem?_eq_getElem h]

theorem nth_replicate {m i x : Nat} (h : i < m) : nthN (List.replicate m x) i = x := by
  simp [nthN, List.getD_eq_getElem?_getD, h]

theorem nth_zipWith {f : Nat → Nat → Nat} {l k : List Nat} {i : Nat} (h : i < l.length) (g : i < k.length) :
    nthN (List.zipWith f l k) i = f (nthN l i) (nthN k i) := by
  simp [nthN, List.getD_eq_getElem?_getD, List.getElem?_zipWith, List.getElem?_eq_getElem h, List.getElem?_eq_getElem g]

theorem nth_zipWith3 {f : Nat → Nat → Nat → Nat} {l k m : List Nat} {i : Nat} (h : i < l.length) (g : i < k.length)
    (j : i < m.length) : nthN (List.zipWith3 f l k m) i = f (nthN l i) (nthN k i) (nthN m i) := by
  induction l generalizing k m i with
  | nil => simp at h
  | cons x l ih =>
    cases k with
    | nil => simp at g
    | cons y k =>
      cases m with
      | nil => simp at j
      | cons z m =>
        cases i with
        | zero => simp [List.zipWith3, nthN]
        | succ i =>
          have := ih (i := i) (k := k) (m := m) (by simpa using h) (by simpa using g) (by simpa using j)
          simpa [List.zipWith3, nthN] using this

theorem nth_range_map {f : Nat → Nat} {m i : Nat} (h : i < m) : nthN ((List.range m).map f) i = f i := by
  rw [nthN, List.getD_eq_getElem?_getD, List.getElem?_map, List.getElem?_range h]; rfl

theorem field_shuffle {n i : Nat} (f : Nat → Nat) (h : i < 2048 / n) : field (shuffle n f) (n * i) n = f i % 2 ^ n := by
  rw [shuffle, field_ofElems _ h, nth_range_map h]

theorem field_bcastN {n i : Nat} (x : Word) (h : i < 2048 / n) : field (bcastN n x) (n * i) n = x.toNat % 2 ^ n := by
  rw [bcastN, field_ofElems _ h, nth_replicate h, Nat.mod_mod]

theorem field_lt {w : Nat} (x : BitVec w) (lo n : Nat) : field x lo n < 2 ^ n := Nat.mod_lt _ (Nat.two_pow_pos n)

theorem field_zip3 {n i : Nat} (f : Nat → Nat → Nat → Nat) (x y o : Vec) (h : i < 2048 / n) :
    field (zip3 n f x y o) (n * i) n = f (field x (n * i) n) (field y (n * i) n) (field o (n * i) n) % 2 ^ n := by
  rw [zip3, field_ofElems _ h, nth_zipWith3 (by simpa) (by simpa) (by simpa)]
  simp only [nth_elems _ h]

/-! ## Sources of VA and VB -/

/-- The value of a source: a bridge register of an element-wise opcode of n-bit elements is broadcast. -/
def vSrc (bc : Option Nat) (s : State) (slot : Pos) (x : BitVec 6) (k : Nat) : Vec :=
  match bc with
  | some n => if isBridge x then bcastN n (s.bridge x) else vVal s slot x k
  | none => vVal s slot x k

/-- The reader of a source. -/
def vRead (bc : Option Nat) (slot : Pos) (x : BitVec 6) (s : State) : Vec × State :=
  match bc with
  | some n => srcVE slot n x s
  | none => srcV slot x s

theorem field_vSrc (n : Nat) (s : State) (slot : Pos) (x : BitVec 6) (k : Nat) {i : Nat} (h : i < 2048 / n) :
    field (vSrc (some n) s slot x k) (n * i) n = vElem s slot n x k i := by
  unfold vSrc vElem
  simp only
  split
  · exact field_bcastN _ h
  · rfl

theorem srcV_fst (s : State) (slot : Pos) (x : BitVec 6) : (srcV slot x s).1 = vVal s slot x 0 := by
  unfold srcV vVal
  simp only
  repeat' split
  all_goals first | rfl | simp [popLdq_fst]

theorem vRead_fst (bc : Option Nat) (s : State) (slot : Pos) (x : BitVec 6) : (vRead bc slot x s).1 = vSrc bc s slot x 0 := by
  unfold vRead vSrc
  cases bc with
  | none => exact srcV_fst ..
  | some n =>
    simp only [srcVE]
    split
    · rfl
    · exact srcV_fst ..

theorem srcV_snd (s : State) (slot : Pos) (x : BitVec 6) (h : CanPop (isPop x) s) (g : Core → Core) :
    (srcV slot x s).2.modMe g = s.modMe (fun c => g (readsCore (isPop x) [] c)) := by
  unfold srcV
  simp only
  by_cases h4 : x.toNat = 57
  · rw [isPop_57 x h4] at h ⊢
    simp [h4, popLdq_snd s h]
  · rw [isPop_eq_zero (ne57 h4)]
    simp only [readsCore_none]
    repeat' split
    all_goals rfl

theorem vRead_snd (bc : Option Nat) (s : State) (slot : Pos) (x : BitVec 6) (h : CanPop (isPop x) s) (g : Core → Core) :
    (vRead bc slot x s).2.modMe g = s.modMe (fun c => g (readsCore (isPop x) [] c)) := by
  unfold vRead
  cases bc with
  | none => exact srcV_snd _ _ _ h g
  | some n =>
    simp only [srcVE]
    split
    · next hb =>
      have : x.toNat ≠ 57 := by simp [isBridge] at hb; omega
      rw [isPop_eq_zero (ne57 this)]
      simp
    · exact srcV_snd _ _ _ h g

theorem me_vRead (bc : Option Nat) (s : State) (slot : Pos) (x : BitVec 6) (h : CanPop (isPop x) s) :
    (vRead bc slot x s).2.me = readsCore (isPop x) [] s.me := by
  have := congrArg State.me (vRead_snd bc s slot x h id)
  simpa using this

theorem regs_vec_readsCore (n : Nat) (ms : List Nat) (c : Core) : (readsCore n ms c).regs.vec = c.regs.vec := by
  show (c.modPipe _).regs.vec = _
  exact coreModPipe_regs_vec ..

theorem bridge_reads {s t : State} {n : Nat} {ms : List Nat} (h : t.me = readsCore n ms s.me) (x : BitVec 6) :
    t.bridge x = s.bridge x := by
  have hp : t.pipe = { s.pipe with ldq := s.pipe.ldq.drop n } := by
    rw [State.pipe, h, pipe_readsCore]; rfl
  simp [State.bridge, hp]

theorem vVal_reads {s t : State} {n : Nat} {ms : List Nat} (h : t.me = readsCore n ms s.me) (slot : Pos) (x : BitVec 6)
    (k : Nat) : vVal t slot x k = vVal s slot x (n + k) := by
  have hp : t.pipe = { s.pipe with ldq := s.pipe.ldq.drop n } := by
    rw [State.pipe, h, pipe_readsCore]; rfl
  have hv : t.regs.vec = s.regs.vec := by rw [State.regs, h, regs_vec_readsCore]; rfl
  simp only [vVal, popVal, bridge_reads h, hp, hv, State.vlatch, List.getElem?_drop]

theorem vSrc_reads (bc : Option Nat) {s t : State} {n : Nat} {ms : List Nat} (h : t.me = readsCore n ms s.me) (slot : Pos)
    (x : BitVec 6) (k : Nat) : vSrc bc t slot x k = vSrc bc s slot x (n + k) := by
  simp only [vSrc, bridge_reads h, vVal_reads h]

/-! ## The shapes of VA and VB -/

/-- A V syllable of two sources. -/
theorem vec2_eq {vs : VSlot} {lat : Nat} {w : BitVec 1} {d a b : BitVec 6} {bc : Option Nat} {f : Vec → Vec → Vec → Vec}
    {s : State} (h : CanPop (isPop a + isPop b) s) :
    vec2 vs lat w d a b bc f s =
      withResults (afterReads s (isPop a + isPop b) [])
        (resultsAt s (vpos vs) lat (targets (vpos vs) w d)
          (f (vSrc bc s (vpos vs) a 0) (vSrc bc s (vpos vs) b (isPop a)) (oldV s (vpos vs) w d))) := by
  unfold vec2
  rw [withPops_go h]
  have ha : CanPop (isPop a) s := h.mono (Nat.le_add_right _ _)
  have h1 := me_vRead bc s (vpos vs) a ha
  have hb : CanPop (isPop b) (vRead bc (vpos vs) a s).2 := canPop_reads h1 h
  have h2 := me_vRead bc _ (vpos vs) b hb
  rw [h1, readsCore_readsCore] at h2
  have hg : ∀ g, (vRead bc (vpos vs) b (vRead bc (vpos vs) a s).2).2.modMe g =
      s.modMe (fun c => g (readsCore (isPop a + isPop b) [] c)) := by
    intro g
    rw [vRead_snd bc _ _ b hb, vRead_snd bc s _ a ha]
    simp only [readsCore_readsCore, List.append_nil]
  have hd : ∀ v, (vRead bc (vpos vs) b (vRead bc (vpos vs) a s).2).2.dest (vpos vs) lat w d v =
      withResults (afterReads s (isPop a + isPop b) []) (resultsAt s (vpos vs) lat (targets (vpos vs) w d) v) := by
    intro v
    rw [dest_eq, withResults_reads hg]
    simp only [resultsAt, count_reads h2, bn_reads h2]
  have e1 := vRead_fst bc s (vpos vs) a
  have e2 := vRead_fst bc (vRead bc (vpos vs) a s).2 (vpos vs) b
  rw [vSrc_reads bc h1] at e2
  simp only [Nat.add_zero] at e2
  rw [← e1, ← e2, ← hd]
  cases bc <;> rfl

/-- A V syllable of one source. -/
theorem vec1_eq {vs : VSlot} {lat : Nat} {w : BitVec 1} {d a : BitVec 6} {bc : Option Nat} {f : Vec → Vec → Vec}
    {s : State} (h : CanPop (isPop a) s) :
    vec1 vs lat w d a bc f s =
      withResults (afterReads s (isPop a) [])
        (resultsAt s (vpos vs) lat (targets (vpos vs) w d) (f (vSrc bc s (vpos vs) a 0) (oldV s (vpos vs) w d))) := by
  unfold vec1
  rw [withPops_go h]
  have h1 := me_vRead bc s (vpos vs) a h
  have hd : ∀ v, (vRead bc (vpos vs) a s).2.dest (vpos vs) lat w d v =
      withResults (afterReads s (isPop a) []) (resultsAt s (vpos vs) lat (targets (vpos vs) w d) v) := by
    intro v
    rw [dest_eq, withResults_reads (vRead_snd bc s (vpos vs) a h)]
    simp only [resultsAt, count_reads h1, bn_reads h1]
  rw [← vRead_fst, ← hd]
  cases bc <;> rfl

/-- A mask result. -/
theorem maskDest_eq (s : State) (vs : VSlot) (m : BitVec 4) (x : Mask) :
    maskDest s vs m x = withResults s (resultsAt s (vpos vs) 2 [.mask m.toNat] (x.setWidth 2048)) := result_eq ..

end Sys2Proof.Machine
end

