-- ==== Sys2Proof/Tests/Slice0.lean ====
section
/-! SUPPORT. Tests: words of the spec decode to their instructions, ill-formed terms are refused, the hypotheses of every statement
are met by a state, and a few single steps. -/

namespace Sys2Proof.Tests

set_option Elab.async false

open Sys2Proof.Machine
open Host (Outcome)

/-- Core 0 as f makes it, beside what reset leaves. -/
def on (f : Core → Core) : State := State.reset.modCore 0 f
def withRegs (f : CoreRegs → CoreRegs) : State := on (fun c => { c with regs := f c.regs })
def withTask (f : Pipe → Pipe) : State := withRegs (fun r => { r with task := f r.task })

/-- Two delivered entries in the load data queue. -/
def popped (v : Vec) : LdqEntry := ⟨0, none, true, true, v, none, none⟩
def queued : State := withTask (fun p => { p with ldq := [popped 5, popped 7] })

/-! ## Words the spec writes out -/

theorem test_words_S :
    decodeSyl .S 0x0613FD04 = .ok (.sAddi 0 4 0xFF4 4) ∧ decodeSyl .S 0x0617FFC5 = .ok (.sAddi 0 5 0xFFF 5) ∧
    decodeSyl .S 0x44440005 = .ok (.sCmpi 1 1 0 5) ∧ decodeSyl .S 0x54200C78 = .ok (.sSrd 0 8 0x031) ∧
    decodeSyl .S 0x54540CB8 = .ok (.sSrd 0 21 0x032) ∧ decodeSyl .S 0x5A555005 = .ok (.sExt 0 21 21 5) ∧
    decodeSyl .S 0x0838A540 = .ok (.sMul 0 14 10 21) ∧ decodeSyl .S 0x404D1E03 = .ok (.sSel 0 19 17 56 3) ∧
    decodeSyl .S 0x4A182383 = .ok (.sLea 0 6 2 14 3) ∧ decodeSyl .S 0 = .ok .sNop := by decide +kernel

theorem test_words_C :
    decodeSyl .C 0x2A000007 = .ok (.cTkwait 0 7) ∧ decodeSyl .C 0x06100000 = .ok (.cBrany 1 0 0) ∧
    decodeSyl .C 0x0E100000 = .ok (.cCall 1 0 0) ∧ decodeSyl .C 0x1E000000 = .ok .cEnd ∧
    decodeSyl .C 0x36000033 = .ok (.cIfence 51) ∧ decodeSyl .C 0x36000038 = .ok (.cIfence 56) ∧
    decodeSyl .C 0x34000000 = .ok .cGleave ∧ decodeSyl .C 0x30000000 = .ok (.cBwait 0 0) ∧
    decodeSyl .C 0x3000FA03 = .ok (.cBwait 1000 3) ∧ decodeSyl .C 0x32300001 = .ok (.cBtest 3 0 1) ∧
    decodeSyl .C 0x06200003 = .ok (.cBrany 2 0 3) := by decide +kernel

theorem test_words_V :
    decodeSyl .VA 0x020C1A82 = .ok (.vAdd .va 0 3 1 42 2) ∧ decodeSyl .VB 0x07055B08 = .ok (.vMul .vb 1 1 21 44 8) ∧
    decodeSyl .VA 0x0A101088 = .ok (.vFma .va 0 4 1 2 8) ∧ decodeSyl .VA 0x50141C42 = .ok (.vPack .va 0 5 1 49 2) ∧
    decodeSyl .VA 0x54185C82 = .ok (.vXtr .va 0 6 5 50 2) := by decide +kernel

theorem test_words_L :
    decodeSyl .L 0x04420078 = .ok (.lLdi 2 1 1 56) ∧ decodeSyl .L 0x08032E00 = .ok (.lLdx 50 56) ∧
    decodeSyl .L 0x18633E07 = .ok (.lLdacq 3 51 7) := by decide +kernel

theorem test_words_W :
    decodeSyl .W 0x08A71C80 = .ok (.wStx 41 49 50) ∧ decodeSyl .W 0x2ECF1C80 = .ok (.wGo 51 49 50) ∧
    decodeSyl .W 0x3E032CC0 = .ok (.wRingDb 50 51) ∧ decodeSyl .W 0x0EDF6E07 = .ok (.wStg 55 54 56 7) ∧
    decodeSyl .W 0x34634000 = .ok (.wArrive 3 52 0) ∧ decodeSyl .W 0x2AA00000 = .ok (.wFence 5) := by decide +kernel

theorem test_words_F :
    decodeSyl .F 0x107A0880 = .ok (.fWide 30 32 34 0 0) ∧ decodeSyl .F 0x0A480012 = .ok (.fFmt 18 18) ∧
    decodeSyl .F 0x08200000 = .ok (.fGuard 8) ∧ decodeSyl .F 0x0C040000 = .ok (.fOuter 0 1 0) ∧
    decodeSyl .F 0x16080000 = .ok (.fDrain 0 2 0) := by decide +kernel

theorem test_words_K : decodeSyl .K 0x020F1E00 = .ok (.kLd 3 49 56) := by decide +kernel

theorem test_words_Q :
    decodeQb 0x00000201 = .ok (.qbLdc 0 2) ∧ decodeQb 0x0004000D = .ok (.qbLoop 4) ∧
    decodeQb 0x0000210F = .ok (.qbLaunch 0 0 2 1) ∧ decodeQb 0x00003204 = .ok (.qbAdd 0 3 2) ∧
    decodeQb 0x0000000E = .ok .qbEndl ∧ decodeQb 0x0000001C = .ok .qbDone ∧ decodeQb 0x10000216 = .ok (.qbCond 1 0 0 2) ∧
    decodeQb 0x0002020C = .ok (.qbSkip 2 2) ∧ decodeQb 0x00080302 = .ok (.qbLdw 0 8 0 3) ∧
    decodeQb 0x00073015 = .ok (.qbArm 7 3 0) ∧ decodeQb 0x00280017 = .ok (.qbIrq 40) := by decide +kernel

theorem test_first_map : decodeTableWord 32 0x0838A540 = some (.sMul 0 14 10 21) ∧
    decodeTableWord 32 0x107A0880 = some (.sAnd 0 30 32 34) ∧ decodeTableWord 32 0x0000210F = some (.qbLaunch 0 0 2 1) := by
  decide +kernel

/-! ## Each check of well-formedness refuses a term (R57, R60, R79, R80) -/

theorem test_refuses_S :
    ¬(Instr.sAdd 0 40 1 2).WellFormed ∧ ¬(Instr.sAdd 1 4 1 2).WellFormed ∧ ¬(Instr.sAdd 0 1 48 2).WellFormed ∧
    ¬(Instr.sAddi 0 1 0 58).WellFormed ∧ ¬(Instr.sMulh 0 1 1 2 8).WellFormed ∧ ¬(Instr.sMin 0 1 1 2 13).WellFormed ∧
    ¬(Instr.sAbs 0 1 1 9).WellFormed ∧ ¬(Instr.sCmp 0 1 2 6).WellFormed ∧ ¬(Instr.sCmpi 0 0 0 63).WellFormed ∧
    ¬(Instr.sLi 0 40 0).WellFormed ∧ ¬(Instr.sSrd 0 1 0x002).WellFormed ∧ ¬(Instr.sSwr 0x010 1).WellFormed ∧
    ¬(Instr.sSwr 0x302 50).WellFormed := by decide +kernel

theorem test_refuses_C :
    ¬(Instr.cJmpi 56).WellFormed ∧ ¬(Instr.cBset 1 1 48).WellFormed ∧ ¬(Instr.cBset 0 0 57).WellFormed ∧
    ¬(Instr.cLend 0 3).WellFormed ∧ ¬(Instr.cIfence 57).WellFormed ∧ ¬(Instr.cGap 0).WellFormed := by decide +kernel

theorem test_refuses_V :
    ¬(Instr.vAdd .va 0 1 58 2 0).WellFormed ∧ ¬(Instr.vAdd .va 0 1 1 2 11).WellFormed ∧ ¬(Instr.vAdd .vb 0 1 1 2 14).WellFormed ∧
    ¬(Instr.vMulh .va 0 1 1 2 8).WellFormed ∧ ¬(Instr.vFma .va 0 1 1 2 0).WellFormed ∧ ¬(Instr.vNeg .va 0 1 1 12).WellFormed ∧
    ¬(Instr.vPcnt .va 0 1 1 8).WellFormed ∧ ¬(Instr.vFcls .va 0 1 1 0).WellFormed ∧ ¬(Instr.vCmp .va 3 0 1 2 1 8).WellFormed ∧
    ¬(Instr.vCmp .va 2 0 1 2 1 0).WellFormed ∧ ¬(Instr.vNot .va 1 4 1).WellFormed ∧ ¬(Instr.vAnd .va 0 1 1 60).WellFormed ∧
    ¬(Instr.vPackw .va 39 0 1 0).WellFormed ∧ ¬(Instr.vXtrw .va 0 1 1 2 0).WellFormed ∧ ¬(Instr.vBcast .va 0 1 48 1 0).WellFormed ∧
    ¬(Instr.vDot .va 0 1 1 2 2).WellFormed ∧ ¬(Instr.vRcp .va 0 1 1 1 9).WellFormed ∧ ¬(Instr.vLuti .va 0 1 1 2 9).WellFormed ∧
    ¬(Instr.vMpop .va 0 1 0 30).WellFormed := by decide +kernel

theorem test_refuses_LWFK :
    ¬(Instr.lLd 47 56 0).WellFormed ∧ ¬(Instr.lLd 48 56 31).WellFormed ∧ ¬(Instr.lLdx 48 57).WellFormed ∧
    ¬(Instr.lLdacq 6 48 7).WellFormed ∧ ¬(Instr.lLdacq 0 48 9).WellFormed ∧ ¬(Instr.lWait 0 48 48 8).WellFormed ∧
    ¬(Instr.wSt 39 48 48 0).WellFormed ∧ ¬(Instr.wStrel 6 48 48 7).WellFormed ∧ ¬(Instr.wAmo 1 1 48 48 0 3).WellFormed ∧
    ¬(Instr.wAmo 0 0 48 48 7 3).WellFormed ∧ ¬(Instr.wAmo 0 0 48 48 1 4).WellFormed ∧ ¬(Instr.wCas 0 0 48 48 0 5).WellFormed ∧
    ¬(Instr.wFence 6).WellFormed ∧ ¬(Instr.wArrive 0 48 0).WellFormed ∧ ¬(Instr.wGo 48 41 48).WellFormed ∧
    ¬(Instr.fLease 47).WellFormed ∧ ¬(Instr.fGuard 17).WellFormed ∧ ¬(Instr.fFmt 0 18).WellFormed ∧
    ¬(Instr.fOuter 1 1 0).WellFormed ∧ ¬(Instr.fWide 31 0 0 0 0).WellFormed ∧ ¬(Instr.kLd 0 47 48).WellFormed ∧
    ¬(Instr.kLdmx 0 48 48 28).WellFormed ∧ ¬(Instr.kRot 0 57).WellFormed := by decide +kernel

/-! ## The hypotheses of the statements are met: S, VA and VB -/

theorem witness_pops : CanPop (isPop 57 + isPop 57) queued ∧ CanPop (isPop 57) queued ∧ CanPop (isPop 3) State.reset := by
  unfold CanPop; decide +kernel

theorem witness_ScalarArithmetic_ScalarSums : CanPop (isPop 57 + isPop 4) queued := by unfold CanPop; decide +kernel
theorem witness_ScalarArithmetic_ScalarLogic : CanPop (isPop 57 + isPop 57) queued := witness_pops.1
theorem witness_ScalarFieldsAndTypes_ScalarShifts : CanPop (isPop 0 + isPop 57) queued := by unfold CanPop; decide +kernel
theorem witness_ScalarFieldsAndTypes_ScalarTyped : CanPop (isPop 57 + isPop 57) queued := witness_pops.1
theorem witness_ScalarFieldsAndTypes_ScalarCounts : CanPop (isPop 57) queued := witness_pops.2.1
theorem witness_ScalarComparesAndMoves_ScalarCompares : CanPop (isPop 57 + isPop 57) queued ∧ CanPop (isPop 57) queued := ⟨witness_pops.1, witness_pops.2.1⟩

/-- Core 0 in its outrider. -/
def inOutrider (f : CoreRegs → CoreRegs) : State := withRegs (fun r => f { r with out := .running })

theorem witness_ScalarComparesAndMoves_SystemRegisterMoves :
    (sysReadable 0x001 = true ∧ (0x001 : BitVec 12).toNat < 0x100 ∧ sysReadable 0x403 = true ∧ 0x200 ≤ (0x403 : BitVec 12).toNat) ∧
    (sysReadable 0x100 = true ∧ (inOutrider id).me.outrider = true ∧ State.reset.me.outrider = false) ∧
    (sysWritable 0x302 = true ∧ CanPop (isPop 57) queued) ∧
    (sysWritable 0x403 = true ∧ (0x403 : BitVec 12).toNat ≠ 0x302 ∧ CanPop (isPop 4) (inOutrider id)) ∧
    (sysReadable 0xFFF = false ∧ sysWritable 0x001 = false) := by unfold CanPop; decide +kernel

theorem witness_VectorIntegers : ∀ t ∈ [(0 : BitVec 5), 7], classI t.toNat = true ∧ CanPop (isPop 57 + isPop 57) queued := by
  unfold CanPop; decide +kernel
theorem witness_VectorFloats : ∀ t ∈ [(8 : BitVec 5), 10], classF t.toNat = true ∧ CanPop (isPop 57 + isPop 57) queued := by
  unfold CanPop; decide +kernel
theorem witness_VectorBitsAndMasks_VectorBits : classI (6 : BitVec 5).toNat = true ∧ CanPop (isPop 57 + isPop 57) queued := by
  unfold CanPop; decide +kernel
theorem witness_VectorLookups_VectorShuffles : ∀ t ∈ [(0 : BitVec 5), 12], classX t.toNat = true ∧ CanPop (isPop 57 + isPop 57) queued := by
  unfold CanPop; decide +kernel
theorem witness_VectorBitsAndMasks_VectorMasks : (classI (1 : BitVec 5).toNat = true ∧ classF (9 : BitVec 5).toNat = true) ∧
    CanPop (isPop 57 + isPop 57) queued ∧ CanPop (isPop 57) queued := by unfold CanPop; decide +kernel
theorem witness_VectorReductionsAndConversions_VectorReductions : classI (5 : BitVec 5).toNat = true ∧ classF (10 : BitVec 5).toNat = true ∧
    CanPop (isPop 57) queued := by unfold CanPop; decide +kernel
theorem witness_VectorReductionsAndConversions_VectorConversions : classI (2 : BitVec 5).toNat = true ∧ CanPop (isPop 57 + isPop 57) queued ∧
    CanPop (isPop 57) queued := by unfold CanPop; decide +kernel
theorem witness_VectorLookups_VectorTables : (classI (5 : BitVec 5).toNat = true ∧ tyWidth (5 : BitVec 5).toNat ≤ 16) ∧
    classX (11 : BitVec 5).toNat = true ∧ classF (8 : BitVec 5).toNat = true ∧ CanPop (isPop 57 + isPop 57) queued := by
  unfold CanPop; decide +kernel

/-! ## C -/

/-- Bridge register s0 holds v. -/
def bridged (v : Word) : State := withTask (fun p => { p with bridge := vset p.bridge 0 v })
/-- Masks p1, p2 and p3 as a slot sees them: one bit, all, none. -/
def masked : State := withTask (fun p => { p with pSync := vset (vset p.pSync 1 1) 2 (BitVec.allOnes 256) })

theorem witness_TransfersAndLoops_Transfers :
    ((masked.mask .C 1).getLsbD 0 = true ∧ (masked.mask .C 3).getLsbD 0 = false) ∧
    ((∃ k < 256, (masked.mask .C 1).getLsbD k = true) ∧ (∃ k < 256, (masked.mask .C 1).getLsbD k = false)) ∧
    ((∀ k < 256, (masked.mask .C 2).getLsbD k = true) ∧ (∀ k < 256, (masked.mask .C 3).getLsbD k = false)) ∧
    ((bridged (2 ^ 60 - 1)).bridge 48).toNat < 2 ^ 60 ∧ 2 ^ 60 ≤ ((bridged (2 ^ 60)).bridge 48).toNat := by decide +kernel

def looping (c : BitVec 32) (e : BitVec 3) : State := withRegs (fun r => { r with loop := { r.loop with loopc := c, loope := e } })

theorem witness_TransfersAndLoops_ModuloLoops :
    1 < (looping 2 0).regs.loop.loopc.toNat ∧
    ((looping 1 1).regs.loop.loopc.toNat ≤ 1 ∧ (looping 1 1).regs.loop.loope ≠ 0) ∧
    ((looping 0 0).regs.loop.loopc.toNat ≤ 1 ∧ (looping 0 0).regs.loop.loope = 0) := by decide +kernel

/-- A result in flight for v10, in bank 1, which VA owns. -/
def flying : State := withTask (fun p => { p with flight := [⟨.VA, 3, .vreg 10, 9, 0⟩] })

theorem witness_ControlStateAndTraps_ControlState :
    ((∀ f ∈ flying.pipe.flight, f.tgt = .vreg 10) ∧ vget flying.regs.vec.banks 1 .f = ownerOf 0) ∧
    ((∀ f ∈ State.reset.pipe.flight, ∀ r, f.tgt = .vreg r → r / 10 ≠ (0 : BitVec 2).toNat)) ∧
    (∃ f ∈ flying.pipe.flight, f.tgt = .vreg 10 ∧ 10 / 10 = (1 : BitVec 2).toNat ∧ vget flying.regs.vec.banks 1 .f ≠ ownerOf 1) := by
  refine ⟨by decide +kernel, ?_, by decide +kernel⟩
  have h : State.reset.pipe.flight = [] := by decide +kernel
  simp [h]

theorem witness_ControlStateAndTraps_SoftwareTraps :
    (State.reset.dbgOf (State.reset.cur.toNat / 64)).brk = false ∧
    ((State.reset.modDbg 0 (fun d => { d with brk := true })).dbgOf 0).brk = true := by decide +kernel

def aReq {α : Type} (o : α) : Req α := ⟨0, 0, 0, o, 0x1000, 1, 8, [0x1000], [0], 0, .scalar false 8, none, none, 0, none, none, false⟩

theorem witness_OutriderControl :
    State.reset.me.outrider = false ∧ (inOutrider id).me.outrider = true ∧
    ((inOutrider id).pipe.lq = [] ∧ (inOutrider id).pipe.sq = [] ∧ (inOutrider id).pipe.bn ≤ (inOutrider id).pipe.wn ∧
      (inOutrider id).regs.trap.tstatus.getLsbD 3 = false ∧ (inOutrider id).regs.trap.tstatus.getLsbD 2 = false ∧
      (inOutrider id).regs.trap.parked = none ∧ (inOutrider id).regs.trap.tcause ≠ 0x09 ∧ (inOutrider id).regs.trap.tcause ≠ 0x0A) ∧
    (let s := inOutrider (fun r => { r with trap := { r.trap with tstatus := 8, ttarget := 2 ^ 60 } });
      s.me.outrider = true ∧ s.pipe.lq = [] ∧ s.pipe.sq = [] ∧ s.pipe.bn ≤ s.pipe.wn ∧ s.regs.trap.tstatus.getLsbD 3 = true ∧
      2 ^ 60 ≤ s.regs.trap.ttarget.toNat) ∧
    (let s := inOutrider (fun r => { r with outr := { r.outr with lq := [aReq .plain] } });
      s.me.outrider = true ∧ s.pipe.lq ≠ []) ∧
    (let s := inOutrider (fun r => { r with outr := { r.outr with bn := 1 } });
      s.me.outrider = true ∧ s.pipe.wn < s.pipe.bn) := by decide +kernel

/-- The header of a page of code with one landing and one bundle; such a page at page 1, of which the context may fetch. -/
def aPage : Nat := 0x5043 + 0x51 * 2 ^ 16 + 2 ^ 48 + 2 * 2 ^ 192
def withCode (s : State) : State :=
  { s.modCore 0 (fun c => { c with cache := { c.cache with ctlb := [placeLeaf 0] } }) with
    mem := Memory.write [] 0x1000 aPage 64
    acctab := fset [] 0 (BitVec.allOnes 32) }
/-- A redirection to its landing. -/
def redirected : State := withCode (inOutrider (fun r => { r with trap := { r.trap with tstatus := 8, ttarget := 0x1000 } }))

theorem witness_OutriderControl_redirect :
    (redirected.me.outrider = true ∧ redirected.pipe.lq = [] ∧ redirected.pipe.sq = [] ∧ redirected.pipe.bn ≤ redirected.pipe.wn) ∧
    redirected.regs.trap.tstatus.getLsbD 3 = true ∧ ∃ pg h, (redirLook redirected).1 = .ok pg h :=
  ⟨by decide +kernel, by decide +kernel, 1, aPage, by decide +kernel⟩

/-- Token 0 in a state; mail 0 full or not; an arrival entry. -/
def tokened (x : TokState) : State := withRegs (fun r => { r with tok := vset r.tok 0 ⟨x, 0⟩ })
def arrived (e : ArrEntry) : State := withRegs (fun r => { r with arr := vset r.arr 0 e })

theorem witness_WaitsAndEnds_Waits_tokens :
    (let s := (tokened .ready).modPipe (fun p => { p with bridge := vset p.bridge 0 1 });
      (∀ t < 64, (s.bridge 48).getLsbD t = true → tokenOf s t = .ready) ∧ tokenOf s (0 : BitVec 6).toNat = .ready) ∧
    (let s := (tokened .failed).modPipe (fun p => { p with bridge := vset p.bridge 0 1 });
      (∃ t < 64, (s.bridge 48).getLsbD t = true ∧ tokenOf s t = .failed) ∧ tokenOf s (0 : BitVec 6).toNat = .failed) ∧
    (let s := (tokened .held).modPipe (fun p => { p with bridge := vset p.bridge 0 1 });
      (∀ t < 64, (s.bridge 48).getLsbD t = true → tokenOf s t ≠ .failed) ∧
      (∃ t < 64, (s.bridge 48).getLsbD t = true ∧ tokenOf s t ≠ .ready) ∧ tokenOf s (0 : BitVec 6).toNat ≠ .ready) := by
  decide +kernel

theorem witness_WaitsAndEnds_Waits :
    (vget (on (fun c => { c with mail := vset c.mail 0 ⟨1, true⟩ })).me.mail 0 ⟨0, false⟩).full = true ∧
    (vget State.reset.me.mail 0 ⟨0, false⟩).full = false ∧
    (let e := vget (arrived ⟨true, 0, some 4, 5, none, none, 0⟩).regs.arr 0 ArrEntry.reset;
      e.armed = true ∧ e.refused = none ∧ PhaseOver e) ∧
    (let e := vget (arrived ⟨true, 0, some 4, 4, none, none, 0⟩).regs.arr 0 ArrEntry.reset;
      e.armed = true ∧ e.refused = none ∧ ¬PhaseOver e ∧ e.fail = none) ∧
    (let e := vget (arrived ⟨true, 0, some 4, 4, none, some 6, 0⟩).regs.arr 0 ArrEntry.reset;
      e.armed = true ∧ e.refused = none ∧ ¬PhaseOver e ∧ e.fail = some 6) ∧
    (let e := vget (arrived ⟨true, 0, none, 0, some 2, none, 0⟩).regs.arr 0 ArrEntry.reset; e.armed = true ∧ e.refused = some 2) ∧
    (vget State.reset.regs.arr 0 ArrEntry.reset).armed = false ∧
    ((∀ x ∈ State.reset.regs.task.sq, some (true, x.id) = State.reset.regs.trap.parked) ∧ State.reset.regs.outr.sq = []) ∧
    (∃ x ∈ (withTask (fun p => { p with sq := [aReq .plain] })).regs.task.sq,
      some (true, x.id) ≠ (withTask (fun p => { p with sq := [aReq .plain] })).regs.trap.parked) := by
  have wait : ∀ e : ArrEntry, (vget (arrived e).regs.arr 0 ArrEntry.reset) = e → e.taken = some 4 → e.seen = 4 →
      ¬PhaseOver (vget (arrived e).regs.arr 0 ArrEntry.reset) := by
    rintro e he ht hs ⟨p, h, h1, h2⟩
    rw [he] at h h1
    rw [ht] at h
    cases h
    rw [hs] at h1
    revert h1
    decide +kernel
  exact ⟨by decide +kernel, by decide +kernel, ⟨by decide +kernel, by decide +kernel, 4, by decide +kernel, by decide +kernel,
      by decide +kernel⟩, ⟨by decide +kernel, by decide +kernel, wait _ (by decide +kernel) rfl rfl, by decide +kernel⟩,
    ⟨by decide +kernel, by decide +kernel, wait _ (by decide +kernel) rfl rfl, by decide +kernel⟩, by decide +kernel, by decide +kernel,
    by decide +kernel, by decide +kernel⟩
def leased (x : LeaseSt) (wide : Bool) : State := on (fun c => { c with fold := { c.fold with lease := x, wide := wide } })

theorem witness_WaitsAndEnds_TaskEnds :
    (leased .granted false).me.fold.lease = .granted ∧ (leased .held false).me.fold.lease = .held ∧
    State.reset.me.fold.lease = .none ∧ (leased .waiting false).me.fold.lease = .waiting ∧
    (∀ n < 8, (State.reset.win n).mapped = false) := by decide +kernel

/-! ## L, K and W on the scratchpad -/

/-- A full load data queue. -/
def full : State := withTask (fun p => { p with ldq := List.replicate 32 (popped 0) })
def based (b : Word) : State := withRegs (fun r => { r with loop := { r.loop with b := vset r.loop.b 0 b } })
def unstaged : State := withRegs (fun r => { r with loop := { r.loop with q := 0xFE } })

theorem witness_ScratchpadReads_ScratchpadLoads :
    HasRoom State.reset ∧ HasRoom (withTask (fun p => { p with ldq := List.replicate 31 (popped 0) })) ∧
    ((12 : BitVec 5).toNat ≤ 12 ∧ (State.reset.bridge 48 + State.reset.bridge 49).toNat % (tyWidth (12 : BitVec 5).toNat / 8) = 0 ∧
      (State.reset.bridge 48 + State.reset.bridge 49).toNat % 8 = 0) ∧
    (∀ i < 2048 / tyWidth (7 : BitVec 5).toNat,
      (strideEa ((bridged 0x100).bridge 48) ((bridged 0x100).bridge 49) i).toNat % (tyWidth (7 : BitVec 5).toNat / 8) = 0) ∧
    ((leased .held true).me.fold.lease = .held ∧ (leased .held true).me.fold.wide = true ∧ HasRoom (leased .held true)) ∧
    (Issues State.reset ∧ State.reset.regs.loop.q.getLsbD (0 : BitVec 3).toNat = true ∧
      (baseEa (based 8) 0 0 1 56 256).toNat % 8 = 0 ∧ (baseEa (based 8) 0 1 1 56 8).toNat % 8 = 0) ∧
    (HasRoom unstaged ∧ unstaged.regs.loop.q.getLsbD (0 : BitVec 3).toNat = false) := by
  unfold HasRoom Issues; decide +kernel

theorem witness_ScratchpadReads_ScratchpadLoadTraps :
    ¬HasRoom full ∧ (HasRoom (bridged 4) ∧ ((bridged 4).bridge 48 + (bridged 4).bridge 49).toNat % 8 ≠ 0) ∧
    ((bridged 4).bridge 48 + (bridged 4).bridge 49).toNat % (tyWidth (7 : BitVec 5).toNat / 8) ≠ 0 ∧
    (∃ i < 2048 / tyWidth (7 : BitVec 5).toNat,
      (strideEa ((bridged 4).bridge 48) ((bridged 4).bridge 49) i).toNat % (tyWidth (7 : BitVec 5).toNat / 8) ≠ 0) ∧
    (State.reset.me.fold.lease ≠ .held ∧ (leased .held false).me.fold.wide = false) ∧
    (full.me.outrider = false ∧ HasRoom (based 4) ∧ (based 4).me.outrider = false ∧
      (based 4).regs.loop.q.getLsbD (0 : BitVec 3).toNat = true ∧ (baseEa (based 4) 0 0 1 56 256).toNat % 8 ≠ 0 ∧
      (baseEa (based 4) 0 1 1 56 8).toNat % 8 ≠ 0) ∧
    (let s := (leased .held true).modPipe (fun p => { p with bridge := vset p.bridge 0 4 });
      HasRoom s ∧ s.me.fold.lease = .held ∧ s.me.fold.wide = true ∧ (s.bridge 48 + s.bridge 49).toNat % 8 ≠ 0) := by
  unfold HasRoom; decide +kernel

theorem witness_ScratchpadReads_ScaleRegisters :
    (State.reset.bridge 48 + State.reset.bridge 49).toNat % 8 = 0 ∧ ((bridged 7).bridge 48 + (bridged 7).bridge 49).toNat % 8 ≠ 0 ∧
    (Issues (based 16) ∧ (based 16).regs.loop.q.getLsbD (0 : BitVec 3).toNat = true ∧ (baseEa (based 16) 0 0 1 56 256).toNat % 8 = 0) ∧
    ((based 4).me.outrider = false ∧ (based 4).regs.loop.q.getLsbD (0 : BitVec 3).toNat = true ∧
      (baseEa (based 4) 0 0 1 56 256).toNat % 8 ≠ 0) ∧
    unstaged.regs.loop.q.getLsbD (0 : BitVec 3).toNat = false ∧
    (∀ t ∈ [(25 : BitVec 5), 26, 27], t.toNat ∈ [25, 26, 27]) := by unfold Issues; decide +kernel

/-- A W syllable whose operands are A = a, B = b, D = d, with its stage predicate q. -/
def entry (a b d : Vec) (base : Word) (q : Bool) : WEntry := ⟨0, 0, 0, a, b, d, 0, base, q, 0⟩
def wHead (e : WEntry) (f : Pipe → Pipe) : State := withTask (fun p => f { p with wq := [e] })

theorem witness_ScratchpadStores :
    ((wHead (entry 8 8 1 0 true) id).pipe.wq = [entry 8 8 1 0 true] ∧ (12 : BitVec 5).toNat ≤ 12 ∧
      (wAddr (entry 8 8 1 0 true)).toNat % (tyWidth (12 : BitVec 5).toNat / 8) = 0 ∧ (wAddr (entry 8 8 1 0 true)).toNat % 8 = 0) ∧
    (let s := (wHead (entry 8 8 1 0 true) id).modMe (fun c => { c with fold := { c.fold with lease := .held, wide := true } });
      s.pipe.wq = [entry 8 8 1 0 true] ∧ s.me.fold.lease = .held ∧ s.me.fold.wide = true) ∧
    ((entry 0 0 0 8 false).q = false ∧ (eaBase (entry 0 0 0 8 true).base 0 0 1 256).toNat % 8 = 0 ∧
      (eaBase (entry 0 0 0 4 true).base 0 0 1 256).toNat % 8 ≠ 0) ∧
    (∀ i < 2048 / tyWidth (7 : BitVec 5).toNat,
      (strideEa (vecWord (entry 8 8 1 0 true).a) (vecWord (entry 8 8 1 0 true).b) i).toNat % (tyWidth (7 : BitVec 5).toNat / 8) = 0) ∧
    ((wAddr (entry 8 4 1 0 true)).toNat % 8 ≠ 0 ∧ (wAddr (entry 8 4 1 0 true)).toNat % (tyWidth (7 : BitVec 5).toNat / 8) ≠ 0) ∧
    (∃ i < 2048 / tyWidth (7 : BitVec 5).toNat, (strideEa (vecWord (entry 8 4 1 0 true).a) (vecWord (entry 8 4 1 0 true).b) i).toNat %
      (tyWidth (7 : BitVec 5).toNat / 8) ≠ 0) ∧
    (let s := (wHead (entry 8 4 1 0 true) id).modMe (fun c => { c with fold := { c.fold with lease := .held, wide := true } });
      s.pipe.wq = [entry 8 4 1 0 true] ∧ s.me.fold.lease = .held ∧ s.me.fold.wide = true) ∧
    ((wHead (entry 8 8 1 0 true) id).me.fold.lease ≠ .held ∧ (leased .held false).me.fold.wide = false) := by decide +kernel
/-! ## Global accesses and windows -/

/-- Virtual page 1 is page 1 of HBM and page 2 the channel space of channel 0; the context has every right. -/
def mapped (f : Core → Core) : State :=
  { on (fun c => f { c with cache := { c.cache with
      dtlb := [⟨0, 1, 0, BitVec.ofNat 64 0x103F⟩, ⟨0, 2, 0, BitVec.ofNat 64 (engBase + 0x3F)⟩] } }) with
    acctab := fset State.reset.acctab 0 (BitVec.allOnes _) }
def mappedTask (f : Pipe → Pipe) : State := mapped (fun c => { c with regs := { c.regs with task := f c.regs.task } })
def mappedAt (v : Word) : State := mappedTask (fun p => { p with bridge := vset p.bridge 0 v })

/-- Page 3 has been found absent, waiting for the entry at 0x8000, and page 4 not mapped. -/
def walked (f : Pipe → Pipe) : State :=
  on (fun c => { c with
    cache := { c.cache with
      walkL := [⟨0x3000, 0, some (.park 0x8000), 0⟩, ⟨0x3000, 4, some (.park 0x8000), 0⟩, ⟨0x4000, 0, some (.trap 0x12), 0⟩]
      walkW := [⟨0x3000, 1, some (.park 0x8000), 0⟩, ⟨0x3000, 4, some (.park 0x8000), 0⟩, ⟨0x4000, 1, some (.trap 0x12), 0⟩] }
    regs := { c.regs with task := f c.regs.task } })
def walkedAt (v : Word) : State := walked (fun p => { p with bridge := vset p.bridge 0 v })

/-- An access that stays on one page, which translates. -/
theorem mayAccess_page (s : State) (w : Bool) (va n kind x : Nat) (own : Nat → Option Nat) (l : Leaf)
    (h : va + n ≤ 2 ^ 60 ∧ watchHits s.me kind va n = [] ∧ pagesOf va n = [x] ∧ lookAt s s.cur.toNat w x kind = .leaf l)
    (g : ∀ a ∈ wordsOf va n, accessFault s kind (lookPa s s.cur.toNat w a kind) a = none ∧ own (lookPa s s.cur.toNat w a kind) = none) :
    MayAccess s w va n kind own :=
  ⟨h.1, h.2.1, fun a ha => ⟨l, by rw [h.2.2.1, List.mem_singleton] at ha; rw [ha]; exact h.2.2.2⟩, g⟩

theorem mayAccess_mapped : ∀ w : Bool, ∀ kind ∈ [0, 1, 2, 4], MayAccess (mappedAt 0x1000) w 0x1000 256 kind (spaceOf false) := by
  intro w k hk
  refine mayAccess_page _ _ _ _ _ 0x1000 _ ⟨0, 1, 0, BitVec.ofNat 64 0x103F⟩ ?_ ?_ <;> revert w <;> revert k <;> decide +kernel

theorem mustPark_walked : ∀ x ∈ [(false, 0), (true, 1)], MustPark (walkedAt 0x3000) x.1 0x3000 256 x.2 0x8000 := by
  intro x hx
  refine ⟨by decide +kernel, ?_, [], 0x3000, [], by decide +kernel, ?_, by simp⟩ <;> revert x <;> decide +kernel

theorem faultsAt_walked : ∀ x ∈ [(false, 0), (true, 1)], FaultsAt (walkedAt 0x4000) x.1 0x4000 256 x.2 0x12 0x4000 := by
  intro x hx
  refine ⟨by decide +kernel, [], 0x4000, [], by decide +kernel, ?_, by decide +kernel, by simp⟩
  revert x; decide +kernel

theorem witness_GlobalLoadsAndTraps_GlobalLoads :
    (HasRoom (mappedAt 0x1000) ∧ LoadRoom (mappedAt 0x1000) ∧
      LoadForm (mappedAt 0x1000) (.lLdgx 48 56) .plain .vec 32 8 ((mappedAt 0x1000).bridge 48 + (mappedAt 0x1000).bridge 56) false ∧
      ((mappedAt 0x1000).bridge 48 + (mappedAt 0x1000).bridge 56).toNat % 8 = 0 ∧
      MayAccess (mappedAt 0x1000) false ((mappedAt 0x1000).bridge 48 + (mappedAt 0x1000).bridge 56).toNat (32 * 8) 0 (spaceOf false)) ∧
    (HasRoom (walkedAt 0x3000) ∧ LoadRoom (walkedAt 0x3000) ∧
      MustPark (walkedAt 0x3000) false ((walkedAt 0x3000).bridge 48 + (walkedAt 0x3000).bridge 56).toNat (32 * 8) 0 0x8000) ∧
    (let s := mappedAt 0x1000;
      s.regs.loop.q.getLsbD (0 : BitVec 3).toNat = true ∧ Issues s ∧ HasRoom s ∧ LoadRoom s ∧ (baseEa s 0 1 0 48 256).toNat % 8 = 0 ∧
      MayAccess s false (baseEa s 0 1 0 48 256).toNat 256 0 (spaceOf false)) ∧
    (unstaged.regs.loop.q.getLsbD (0 : BitVec 3).toNat = false ∧ HasRoom unstaged) := by
  have e1 : ((mappedAt 0x1000).bridge 48 + (mappedAt 0x1000).bridge 56).toNat = 0x1000 := by decide +kernel
  have e2 : ((walkedAt 0x3000).bridge 48 + (walkedAt 0x3000).bridge 56).toNat = 0x3000 := by decide +kernel
  have e3 : (baseEa (mappedAt 0x1000) 0 1 0 48 256).toNat = 0x1000 := by decide +kernel
  have r1 : HasRoom (mappedAt 0x1000) := by unfold HasRoom; decide +kernel
  have r2 : LoadRoom (mappedAt 0x1000) := by unfold LoadRoom; decide +kernel
  have r3 : HasRoom (walkedAt 0x3000) := by unfold HasRoom; decide +kernel
  have r4 : LoadRoom (walkedAt 0x3000) := by unfold LoadRoom; decide +kernel
  refine ⟨⟨r1, r2, .ldgx 48 56, by rw [e1], ?_⟩, ⟨r3, r4, ?_⟩, ⟨by decide +kernel, by unfold Issues; decide +kernel, r1, r2, by rw [e3], ?_⟩,
    by unfold HasRoom; decide +kernel⟩
  · rw [e1]; exact mayAccess_mapped false 0 (by decide +kernel)
  · rw [e2]; exact mustPark_walked (false, 0) (by decide +kernel)
  · rw [e3]; exact mayAccess_mapped false 0 (by decide +kernel)

/-- A full load queue, and a full store queue. -/
def lqFull : State := withTask (fun p => { p with lq := List.replicate 64 (aReq .plain) })
def sqFull (e : WEntry) : State := wHead e (fun p => { p with sq := List.replicate 64 (aReq .plain) })

theorem witness_GlobalLoadsAndTraps_GlobalLoadTraps :
    (Issues full ∧ ¬HasRoom full) ∧ (Issues lqFull ∧ HasRoom lqFull ∧ ¬LoadRoom lqFull) ∧
    (let s := bridged (2 ^ 60 - 4); Issues s ∧ HasRoom s ∧ LoadRoom s ∧ 2 ^ 60 < (s.bridge 48 + s.bridge 56).toNat + 1 * 8) ∧
    (Issues (walkedAt 0x4000) ∧ ((walkedAt 0x4000).bridge 48 + (walkedAt 0x4000).bridge 56).toNat = 0x4000) ∧
    FaultsAt (walkedAt 0x4000) false 0x4000 (32 * 8) 0 0x12 0x4000 ∧
    (((mappedAt 0x1004).bridge 48 + (mappedAt 0x1004).bridge 56).toNat = 0x1004 ∧ 0x1004 % 8 ≠ 0 ∧
      MayAccess (mappedAt 0x1004) false 0x1004 (1 * 8) 0 (fun _ => none)) := by
  refine ⟨by unfold Issues HasRoom; decide +kernel, by unfold Issues HasRoom LoadRoom; decide +kernel,
    by unfold Issues HasRoom LoadRoom; decide +kernel, by unfold Issues; decide +kernel, faultsAt_walked (false, 0) (by decide +kernel),
    by decide +kernel, by decide +kernel, ?_⟩
  exact mayAccess_page _ _ _ _ _ 0x1004 _ ⟨0, 1, 0, BitVec.ofNat 64 0x103F⟩ (by decide +kernel) (by decide +kernel)

theorem witness_OtherLoads :
    (HasRoom State.reset ∧ LoadRoom State.reset ∧ (State.reset.bridge 48).toNat % 8 = 0) ∧
    ((bridged 4096).bridge 48 ≠ 0 ∧ ((bridged 4096).bridge 49).toNat < 2 ^ 60) ∧
    (State.reset.bridge 49 = 0 ∧ 2 ^ 60 ≤ ((bridged (2 ^ 60)).bridge 48).toNat) ∧
    MayAccess (mappedAt 0x1000) false 0x1000 256 4 (spaceOf false) ∧
    ((walkedAt 0x3000).bridge 48 + (walkedAt 0x3000).bridge 56 = 0x3000 ∧ watchHits (walkedAt 0x3000).me 0 0x3000 256 = [] ∧
      ∀ x ∈ pagesOf 0x3000 256, lookAt (walkedAt 0x3000) 0 false x 4 = .park 0x8000) ∧
    (¬LoadRoom lqFull ∧ HasRoom lqFull ∧ ¬HasRoom full ∧ ((bridged 4).bridge 48).toNat % 8 ≠ 0 ∧ HasRoom (bridged 4) ∧ LoadRoom (bridged 4)) ∧
    (let s := mappedAt 0x1000
     let w := walkNow s.cur.toNat 0x1000 0 none s;
      s.bridge 48 + s.bridge 56 = 0x1000 ∧ LoadRoom s ∧ w.1 = some (.leaf ⟨0, 1, 0, 0x103F⟩) ∧
      hasHome (Leaf.pa ⟨0, 1, 0, 0x103F⟩ 0x1000 / 128 * 128) = true ∧
      accessFault w.2 0 (Leaf.pa ⟨0, 1, 0, 0x103F⟩ 0x1000 / 128 * 128) 0x1000 = none) ∧
    (let s := mappedAt 0x2000
     let w := walkNow s.cur.toNat 0x2000 0 none s;
      s.bridge 48 + s.bridge 56 = 0x2000 ∧ LoadRoom s ∧ w.1 = some (.leaf ⟨0, 2, 0, BitVec.ofNat 64 (engBase + 0x3F)⟩) ∧
      hasHome (Leaf.pa ⟨0, 2, 0, BitVec.ofNat 64 (engBase + 0x3F)⟩ 0x2000 / 128 * 128) = false) := by
  unfold HasRoom LoadRoom
  exact ⟨by decide +kernel, by decide +kernel, by decide +kernel, mayAccess_mapped false 4 (by decide +kernel), by decide +kernel,
    by decide +kernel, by decide +kernel, by decide +kernel⟩

/-- Page 5 may not be read: a walk of an `ldr` has met it. -/
def denied : State :=
  (bridged 0x5000).modCore 0 (fun c => { c with cache := { c.cache with walkL := [⟨0x5000, 4, some (.trap 0x14), 0⟩] } })

theorem witness_OtherLoads_trap :
    (denied.bridge 48 + denied.bridge 56).toNat = 0x5000 ∧ FaultsAt denied false 0x5000 256 4 0x14 0x5000 ∧ HasRoom denied ∧ LoadRoom denied := by
  unfold HasRoom LoadRoom
  exact ⟨by decide +kernel, ⟨by decide +kernel, [], 0x5000, [], by decide +kernel, by decide +kernel, by decide +kernel, by simp⟩,
    by decide +kernel, by decide +kernel⟩

def storing (e : WEntry) : State := mappedTask (fun p => { p with wq := [e] })
def storingAbsent (e : WEntry) : State := walked (fun p => { p with wq := [e] })

/-- W heads: 0x1000 in A; the misaligned 0x1004; absent and unmapped pages; above 2^60; channel space. -/
def atPage : WEntry := entry 0x1000 0 5 0 true
def offPage : WEntry := entry 0x1004 0 5 0 true
def atAbsent : WEntry := entry 0x3000 0 5 0 true
def atUnmapped : WEntry := entry 0x4000 0 5 0 true
def atTop : WEntry := entry (2 ^ 60) 0 5 0 true
def atChannel : WEntry := entry 0x2000 0 5 0 true

theorem mayAccess_storing (n kind : Nat) (h : n ∈ [1, 2, 4, 8, 128, 256]) (g : kind ∈ [1, 2]) :
    MayAccess (storing atPage) true 0x1000 n kind (spaceOf false) ∧ MayAccess (storing atPage) true 0x1000 n kind homeCheck := by
  constructor <;> refine mayAccess_page _ _ _ _ _ 0x1000 _ ⟨0, 1, 0, 0x103F⟩ ?_ ?_ <;> revert kind <;> revert n <;> decide +kernel

theorem witness_GlobalStores :
    ((storing atPage).pipe.wq = [atPage] ∧ StoreForm (storing atPage) atPage (.wStg 0 48 48 7) .plain 1 8 (wAddr atPage) atPage.d ∧
      StoreRoom (storing atPage) ∧ (wAddr atPage).toNat % 8 = 0 ∧
      MayAccess (storing atPage) true (wAddr atPage).toNat (1 * 8) 1 (spaceOf false)) ∧
    (StoreRoom (storingAbsent atAbsent) ∧ MustPark (storingAbsent atAbsent) true (wAddr atAbsent).toNat (32 * 8) 1 0x8000) ∧
    2 ^ 60 < (wAddr atTop).toNat + 1 * 8 ∧
    FaultsAt (storingAbsent atUnmapped) true (wAddr atUnmapped).toNat (32 * 8) 1 0x12 0x4000 ∧
    ((wAddr offPage).toNat % 8 ≠ 0 ∧ MayAccess (storing offPage) true (wAddr offPage).toNat (1 * 8) 1 (fun _ => none)) ∧
    (¬StoreRoom (sqFull atPage) ∧ (sqFull atPage).pipe.wq = [atPage]) ∧
    ((entry 0 0 0 0 false).q = false ∧ (wHead (entry 0 0 0 0 false) id).pipe.wq = [entry 0 0 0 0 false]) ∧
    (let s := wHead atPage (fun p => { p with lq := [aReq .plain] });
      s.pipe.wq = [atPage] ∧ (1 : BitVec 3) ≠ 0 ∧ allBefore s.pipe (2 * atPage.bn + 1) = false) := by
  have e1 : (wAddr atPage).toNat = 0x1000 := by decide +kernel
  have e2 : (wAddr atAbsent).toNat = 0x3000 := by decide +kernel
  have e3 : (wAddr atUnmapped).toNat = 0x4000 := by decide +kernel
  refine ⟨⟨by decide +kernel, .stg 0 48 48 7 (by decide +kernel), by unfold StoreRoom; decide +kernel, by decide +kernel, ?_⟩,
    ⟨by unfold StoreRoom; decide +kernel, ?_⟩, by decide +kernel, ?_, ⟨by decide +kernel, ?_⟩,
    by unfold StoreRoom; decide +kernel, by decide +kernel, by decide +kernel⟩
  · rw [e1]; exact (mayAccess_storing 8 1 (by decide +kernel) (by decide +kernel)).1
  · rw [e2]; exact ⟨by decide +kernel, by decide +kernel, [], 0x3000, [], by decide +kernel, by decide +kernel, by simp⟩
  · rw [e3]; exact ⟨by decide +kernel, [], 0x4000, [], by decide +kernel, by decide +kernel, by decide +kernel, by simp⟩
  · exact mayAccess_page _ _ _ _ _ 0x1004 _ ⟨0, 1, 0, 0x103F⟩ (by decide +kernel) (by decide +kernel)

theorem witness_OrderingAndAtomics :
    ((storing atPage).pipe.wq = [atPage] ∧ StoreRoom (storing atPage) ∧ LoadRoom (storing atPage) ∧
      allBefore (storing atPage).pipe (2 * atPage.bn + 1) = true) ∧
    (¬StoreRoom (sqFull atPage)) ∧ (¬LoadRoom (wHead atPage (fun p => { p with lq := lqFull.pipe.lq }))) ∧
    (let s := wHead atPage (fun p => { p with lq := [aReq .plain] });
      s.pipe.wq = [atPage] ∧ (1 : BitVec 3) ≠ 0 ∧ allBefore s.pipe (2 * atPage.bn + 1) = false) := by
  unfold StoreRoom LoadRoom; decide +kernel

/-- Pages 3 and 4 as `walked` has them, met by an atomic. -/
def atomicAbsent (e : WEntry) : State :=
  wHead e id |>.modCore 0 (fun c => { c with cache := { c.cache with
    walkW := [⟨0x3000, 2, some (.park 0x8000), 0⟩, ⟨0x4000, 2, some (.trap 0x12), 0⟩] } })

theorem witness_OrderingAndAtomics_atomics :
    (∃ op, AtomicForm atPage (.wAmo 1 0 48 48 0 3) op 3 1) ∧ amoWidth (3 : BitVec 3).toNat / 8 = 8 ∧
    ((storing atPage).pipe.wq = [atPage] ∧ StoreRoom (storing atPage) ∧ (vecWord atPage.a).toNat % 8 = 0 ∧
      MayAccess (storing atPage) true (vecWord atPage.a).toNat 8 2 homeCheck) ∧
    ((atomicAbsent atAbsent).pipe.wq = [atAbsent] ∧ StoreRoom (atomicAbsent atAbsent) ∧ (vecWord atAbsent.a).toNat % 8 = 0 ∧
      MustPark (atomicAbsent atAbsent) true (vecWord atAbsent.a).toNat 8 2 0x8000) ∧
    FaultsAt (atomicAbsent atUnmapped) true (vecWord atUnmapped.a).toNat 8 2 0x12 0x4000 ∧ 2 ^ 60 < (vecWord atTop.a).toNat + 8 ∧
    ((vecWord offPage.a).toNat % 8 ≠ 0 ∧ MayAccess (storing offPage) true (vecWord offPage.a).toNat 8 2 (fun _ => none)) ∧
    ((storing atChannel).pipe.wq = [atChannel] ∧ StoreRoom (storing atChannel) ∧ (vecWord atChannel.a).toNat % 8 = 0 ∧
      (vecWord atChannel.a).toNat + 8 ≤ 2 ^ 60 ∧ watchHits (storing atChannel).me 2 (vecWord atChannel.a).toNat 8 = [] ∧
      ∃ l, lookAt (storing atChannel) 0 true (vecWord atChannel.a).toNat 2 = .leaf l ∧
        reservedPa (storing atChannel) (l.pa (vecWord atChannel.a).toNat) = false ∧
        hasHome (l.pa (vecWord atChannel.a).toNat) = false) := by
  have e1 : (vecWord atPage.a).toNat = 0x1000 := by decide +kernel
  unfold StoreRoom
  refine ⟨⟨_, AtomicForm.amo 1 0 48 48 0 3⟩, by decide +kernel, ⟨by decide +kernel, by decide +kernel, by decide +kernel, ?_⟩,
    ⟨by decide +kernel, by decide +kernel, by decide +kernel,
      ⟨by decide +kernel, by decide +kernel, [], 0x3000, [], by decide +kernel, by decide +kernel, by simp⟩⟩,
    ⟨by decide +kernel, [], 0x4000, [], by decide +kernel, by decide +kernel, by decide +kernel, by simp⟩, by decide +kernel,
    ⟨by decide +kernel, mayAccess_page _ _ _ _ _ 0x1004 _ ⟨0, 1, 0, 0x103F⟩ (by decide +kernel) (by decide +kernel)⟩,
    by decide +kernel, by decide +kernel, by decide +kernel, by decide +kernel, by decide +kernel,
    ⟨0, 2, 0, BitVec.ofNat 64 (engBase + 0x3F)⟩, by decide +kernel⟩
  rw [e1]; exact (mayAccess_storing 8 2 (by decide +kernel) (by decide +kernel)).2

theorem witness_LinesAndSignals_LineOpcodes :
    ((storing atPage).pipe.wq = [atPage] ∧ StoreRoom (storing atPage) ∧
      MayAccess (storing atPage) true ((wAddr atPage).toNat / 128 * 128) 128 1 homeCheck) ∧
    ((wAddr atPage).toNat < 2 ^ 60 ∧ ∃ l, lookAt (storing atPage) 0 true ((wAddr atPage).toNat / 128 * 128) 4 = .leaf l ∧
      accessFault (storing atPage) 0 (l.pa ((wAddr atPage).toNat / 128 * 128)) (wAddr atPage).toNat = none) ∧
    ((storingAbsent atAbsent).pipe.wq = [atAbsent] ∧ StoreRoom (storingAbsent atAbsent) ∧
      lookAt (storingAbsent atAbsent) 0 true ((wAddr atAbsent).toNat / 128 * 128) 4 = .park 0x8000) ∧
    ((wHead atTop id).pipe.wq = [atTop] ∧ StoreRoom (wHead atTop id) ∧ 2 ^ 60 ≤ (wAddr atTop).toNat) ∧
    (¬StoreRoom (sqFull atPage) ∧ (sqFull atPage).pipe.wq = [atPage]) ∧
    (let s := (wHead atPage id).modCore 0 (fun c => { c with cache := { c.cache with walkW := [⟨0x1000, 4, some (.trap 0x14), 0⟩] } });
      s.pipe.wq = [atPage] ∧ StoreRoom s ∧ (wAddr atPage).toNat < 2 ^ 60 ∧
      lookAt s s.cur.toNat true ((wAddr atPage).toNat / 128 * 128) 4 = .trap 0x14) := by
  have e1 : (wAddr atPage).toNat / 128 * 128 = 0x1000 := by decide +kernel
  refine ⟨⟨by decide +kernel, by unfold StoreRoom; decide +kernel, ?_⟩, ⟨by decide +kernel, ⟨0, 1, 0, 0x103F⟩, by decide +kernel⟩,
    by unfold StoreRoom; decide +kernel, by unfold StoreRoom; decide +kernel, by unfold StoreRoom; decide +kernel,
    by unfold StoreRoom; decide +kernel⟩
  rw [e1]; exact (mayAccess_storing 128 1 (by decide +kernel) (by decide +kernel)).2

/-- Commands at a channel's command register, without a token and with token 0; a plain register at 0x100. -/
def go : WEntry := entry 0x2000 0 0 0 true
def goToken : WEntry := entry 0x2000 0 (2 ^ 39) 0 true
def apw : WEntry := entry 0x2100 0 0 0 true

theorem witness_LinesAndSignals_SignalsAndCommands :
    ((storing atPage).pipe.wq = [atPage] ∧ StoreRoom (storing atPage) ∧ (vecWord (entry 0 2047 0 0 true).b).toNat < 2048 ∧
      (vecWord (entry 4095 0 0 0 true).a).toNat < 4096) ∧
    (2048 ≤ (vecWord (entry 0 2048 0 0 true).b).toNat ∧ 4096 ≤ (vecWord (entry 4096 0 0 0 true).a).toNat) ∧
    (∀ e ∈ [go, goToken, apw], (storing e).pipe.wq = [e] ∧ (storing e).pipe.sq.length < 64 ∧ (wAddr e).toNat + 8 ≤ 2 ^ 60 ∧
      (wAddr e).toNat % 8 = 0 ∧ watchHits (storing e).me 1 (wAddr e).toNat 8 = [] ∧
      lookAt (storing e) 0 true (wAddr e).toNat 1 = .leaf ⟨0, 2, 0, BitVec.ofNat 64 (engBase + 0x3F)⟩ ∧
      reservedPa (storing e) (Leaf.pa ⟨0, 2, 0, BitVec.ofNat 64 (engBase + 0x3F)⟩ (wAddr e).toNat) = false) ∧
    apwOnly (Leaf.pa ⟨0, 2, 0, BitVec.ofNat 64 (engBase + 0x3F)⟩ (wAddr apw).toNat) = none ∧
    (apwOnly (Leaf.pa ⟨0, 2, 0, BitVec.ofNat 64 (engBase + 0x3F)⟩ (wAddr go).toNat) ≠ none ∧
      cmdOnly (Leaf.pa ⟨0, 2, 0, BitVec.ofNat 64 (engBase + 0x3F)⟩ (wAddr apw).toNat) ≠ none ∧
      ∀ k < 64, tokenField (vecWord apw.d) 33 = some k → tokenOf (storing apw) k ≠ .pending) ∧
    (cmdOnly (Leaf.pa ⟨0, 2, 0, BitVec.ofNat 64 (engBase + 0x3F)⟩ (wAddr go).toNat) = none ∧ tokenField (vecWord go.d) 33 = none) ∧
    (tokenField (vecWord goToken.d) 33 = some 0 ∧ tokenOf (storing goToken) 0 ≠ .pending) ∧
    (let s := (storing goToken).modRegs (fun r => { r with tok := vset r.tok 0 ⟨.pending, 0⟩ });
      s.pipe.wq = [goToken] ∧ StoreRoom s ∧ watchHits s.me 1 (wAddr goToken).toNat 8 = [] ∧
      lookAt s 0 true (wAddr goToken).toNat 1 = .leaf ⟨0, 2, 0, BitVec.ofNat 64 (engBase + 0x3F)⟩ ∧
      reservedPa s (Leaf.pa ⟨0, 2, 0, BitVec.ofNat 64 (engBase + 0x3F)⟩ (wAddr goToken).toNat) = false ∧ tokenOf s 0 = .pending) ∧
    ((sqFull go).pipe.wq = [go] ∧ ¬StoreRoom (sqFull go)) := by
  unfold StoreRoom; decide +kernel

/-- The task of core 0 may ring doorbells and arrive. -/
def entitled (e : WEntry) : State := { storing e with acctab := [(4 * 4096, 8), (5 * 4096, 8)] }

theorem witness_LinesAndSignals_rights :
    (let e := entry 5 0 0 0 true;
      (entitled e).pipe.wq = [e] ∧ StoreRoom (entitled e) ∧ (vecWord e.a).toNat < 4096 ∧
      hasRight (entitled e) (entitled e).regs.id.tag 0 5 3 = true ∧ hasRight (entitled e) (entitled e).regs.id.tag 0 4 3 = true ∧
      hasRight (storing e) (storing e).regs.id.tag 0 5 3 = false ∧ hasRight (storing e) (storing e).regs.id.tag 0 4 3 = false) := by
  unfold StoreRoom; decide +kernel

/-! ## Windows -/

/-- Window 0 of four granules at scratchpad offset 0, its slots as given. -/
def windowed (ro : Bool) (l : List (SlotSt × BitVec 4096)) (f : Pipe → Pipe) : State :=
  withRegs (fun r => { r with wins := vset r.wins 0 ⟨true, 0x4000, 0, 4, ro, false, 0, l⟩, task := f r.task })
def resident4 : List (SlotSt × BitVec 4096) := List.replicate 4 (.resident, 0)
def failedFirst : List (SlotSt × BitVec 4096) := [(.failed, 0), (.resident, 0), (.resident, 0), (.resident, 0)]

/-- A descriptor in the scratchpad: all zero, or with a reserved bit set. -/
def described (b : Byte) : State := { State.reset with mem := Memory.put [] (padOf 0 + 7) b }

theorem zero_of_bytes : ∀ (n x : Nat), x < 256 ^ n → (∀ i < n, (BitVec.ofNat 8 (x / 256 ^ i)) = 0) → x = 0
  | 0, x, h, _ => by simpa using h
  | n + 1, x, h, g => by
    have h0 := g 0 (by omega)
    have m : x % 256 = 0 := by simpa [BitVec.toNat_eq] using congrArg BitVec.toNat h0
    have r : x / 256 = 0 := zero_of_bytes n (x / 256) (by rw [Nat.pow_succ] at h; omega) (fun i hi => by
      have := g (i + 1) (by omega)
      rwa [Nat.pow_succ', ← Nat.div_div_eq_div_mul] at this)
    omega

theorem witness_Windows_map :
    ((State.reset.bridge 48 + State.reset.bridge 49).toNat % 8 = 0 ∧
      ∀ d, ReadsAt (MayRead State.reset) (padAt State.reset (State.reset.bridge 48 + State.reset.bridge 49)) 32 d →
        GoodDescriptor State.reset 0 d) ∧
    (((described 0x10).bridge 48 + (described 0x10).bridge 49).toNat % 8 = 0 ∧
      ∀ d, ReadsAt (MayRead (described 0x10)) (padAt (described 0x10) ((described 0x10).bridge 48 + (described 0x10).bridge 49)) 32 d →
        ¬GoodDescriptor (described 0x10) 0 d) := by
  refine ⟨⟨by decide +kernel, ?_⟩, by decide +kernel, ?_⟩
  · rintro d ⟨h, g⟩
    have z : d = 0 := zero_of_bytes 32 d h (fun i hi => by
      have := g i hi
      have e : State.reset.pipe.spst = [] := by decide +kernel
      have m : State.reset.mem = [] := rfl
      simpa [MayRead, e, m, Memory.get] using this)
    subst z
    unfold GoodDescriptor; decide +kernel
  · rintro d ⟨h, g⟩ ⟨a, -⟩
    have := g 7 (by decide +kernel)
    have e : (described 0x10).pipe.spst = [] := by decide +kernel
    have p : padAllowed (described 0x10) (described 0x10).regs.id.tag
      (padAt (described 0x10) ((described 0x10).bridge 48 + (described 0x10).bridge 49) 7) = true := by decide +kernel
    have m : Memory.get (described 0x10).mem
      (padAt (described 0x10) ((described 0x10).bridge 48 + (described 0x10).bridge 49) 7) = 0x10 := by decide +kernel
    rw [MayRead, p, m, e] at this
    have t : d / 256 ^ 7 % 256 = 16 := by
      have u : BitVec.ofNat 8 (d / 256 ^ 7) = 0x10 := by simpa using this
      have v := congrArg BitVec.toNat u
      rwa [BitVec.toNat_ofNat] at v
    have q : d / 2 ^ 60 = d / 256 ^ 7 / 16 := by rw [Nat.div_div_eq_div_mul]; norm_num
    omega

theorem witness_Windows :
    (((bridged 4095).bridge 48).toNat < 4096 ∧ (State.reset.win 0).mapped = false) ∧
    (let s := windowed false resident4 (fun p => { p with bridge := vset p.bridge 0 4096 });
      4096 ≤ (s.bridge 48).toNat ∧ (s.win 0).mapped = true ∧ (∀ j ∈ leaving s 0 ((s.bridge 48).toNat / 4096), ((s.win 0).slot j).1 ≠ .failed)) ∧
    (let s := windowed false failedFirst (fun p => { p with bridge := vset p.bridge 0 4096 });
      4096 ≤ (s.bridge 48).toNat ∧ (s.win 0).mapped = true ∧ leaving s 0 ((s.bridge 48).toNat / 4096) = [] ++ 0 :: [] ∧
      ((s.win 0).slot 0).1 = .failed) ∧
    (let s := windowed false resident4 id;
      (∀ j ∈ List.range (s.win 0).ng, ((s.win 0).slot j).1 ≠ .failed) ∧ s.pipe.ldq.length < 32 ∧
      (s.bridge 48 + s.bridge 49).toNat % 8 = 0 ∧ (∀ k ∈ [0, (0 + 255) % 2 ^ 21], ringAt s.regs k = some (0, 0)) ∧
      ((s.win 0).slot 0).1 ≠ .failed) ∧
    (let s := windowed false resident4 (fun p => { p with wq := [entry 8 8 1 0 true] });
      s.pipe.wq = [entry 8 8 1 0 true] ∧ (wAddr (entry 8 8 1 0 true)).toNat % 8 = 0 ∧
      (∀ x ∈ touched s.regs ((wAddr (entry 8 8 1 0 true)).toNat % 2 ^ 21), (s.win x.1).ro = false) ∧
      (∀ j ∈ (s.win 0).order, ((s.win 0).slot j).2 = 0) ∧
      0 < (s.win 0).slots.length ∧ touched s.regs 16 = [(0, 0)] ∧ ringAt s.regs ((16 + 255) % 2 ^ 21) = some (0, 0)) ∧
    (let s := windowed false failedFirst id;
      HasRoom s ∧ (s.bridge 48 + s.bridge 49).toNat % 8 = 0 ∧ FailsAt s 0 0x4000 ∧ ((s.bridge 48).toNat + 4096 * 0) / 4096 < (s.win 0).ng ∧
      ((s.win 0).slot (((s.bridge 48).toNat + 4096 * 0) / 4096)).1 = .failed) ∧
    (let s := windowed false resident4 (fun p => { p with bridge := vset p.bridge 0 4 });
      HasRoom s ∧ (s.bridge 48 + s.bridge 49).toNat % 8 ≠ 0 ∧ (wAddr (entry 8 4 1 0 true)).toNat % 8 ≠ 0) ∧
    (let s := windowed false failedFirst (fun p => { p with wq := [entry 8 8 1 0 true] });
      s.pipe.wq = [entry 8 8 1 0 true] ∧ (∀ x ∈ touched s.regs 16, (s.win x.1).ro = false) ∧ FailsAt s 16 0x4000) ∧
    (let s := windowed false [(.failed, 1), (.resident, 0), (.resident, 0), (.resident, 0)] (fun p => { p with wq := [entry 8 8 1 0 true] });
      s.pipe.wq = [entry 8 8 1 0 true] ∧ (s.win 0).order = [] ++ 0 :: [1, 2, 3] ∧ ((s.win 0).slot 0).2 ≠ 0 ∧
      ((s.win 0).slot 0).1 = .failed) ∧
    (let s := windowed true resident4 (fun p => { p with wq := [entry 8 8 1 0 true] });
      s.pipe.wq = [entry 8 8 1 0 true] ∧
      ∃ x ∈ touched s.regs ((wAddr (entry 8 8 1 0 true)).toNat % 2 ^ 21), (s.win x.1).ro = true) ∧
    (let s := windowed false (List.replicate 4 (.resident, 1)) (fun p => { p with wq := [entry 8 8 1 0 true] });
      s.pipe.wq = [entry 8 8 1 0 true] ∧ s.pipe.sq.length < 64 ∧
      ∀ j ∈ (s.win 0).order, ((s.win 0).slot j).2 ≠ 0 ∧ ((s.win 0).slot j).1 ≠ .failed) := by
  unfold HasRoom
  refine ⟨by decide +kernel, by decide +kernel, by decide +kernel, by decide +kernel, by decide +kernel,
    ⟨by decide +kernel, by decide +kernel, .inl ⟨0, 0, by decide +kernel⟩, by decide +kernel⟩, by decide +kernel,
    ⟨by decide +kernel, by decide +kernel, .inl ⟨0, 0, by decide +kernel⟩⟩, by decide +kernel, by decide +kernel, by decide +kernel⟩
/-! ## F -/

/-- Core 0 holds the array of its quad, which f makes. -/
def held (f : FoldArray → FoldArray) : State :=
  (leased .held false).modQuad 0 (fun q => { q with array := f q.array })

theorem witness_FoldLeases_FoldLease :
    State.reset.me.fold.lease = .none ∧
    (∀ c < 4, fget? State.reset.acctag (State.reset.myQuad * 4 + c) = none) ∧
    (let s := { State.reset with acctag := fset State.reset.acctag 3 7 };
      s.me.fold.lease = .none ∧ ∃ c < 4, fget? s.acctag (s.myQuad * 4 + c) = some 7 ∧ 7 ≠ s.regs.id.tag) ∧
    (leased .waiting false).me.fold.lease = .waiting ∧ (leased .granted false).me.fold.lease = .granted ∧
    (leased .held false).me.fold.lease = .held := by decide +kernel

theorem witness_FoldLeases_ArrayOpcodesNeedLease :
    (¬HoldsLease State.reset ∧ ¬HoldsLease (leased .waiting false)) ∧ Instr.fClr ∈ [Instr.fGuard 0, .fFmt 0 0, .fClr] := by
  unfold HoldsLease; decide +kernel

theorem witness_FoldSettings_FoldConfiguration :
    (HoldsLease (held id) ∧ (arrayOf (held id)).busy = false) ∧
    (HoldsLease (held (fun a => { a with busy := true })) ∧ (arrayOf (held (fun a => { a with busy := true }))).busy = true ∧
      Instr.fGuard 3 ∈ [Instr.fGuard 3, .fFmt 0 0, .fCsum 0, .fAccsel 0 0]) := by unfold HoldsLease; decide +kernel

theorem witness_FoldStepsIssueAndLand_FoldSteps :
    (∀ taps : Bool, HoldsLease (held id) ∧ (arrayOf (held id)).fam ≠ some (!taps) ∧ (arrayOf (held id)).stride ≤ 48) ∧
    (∀ taps : Bool, HoldsLease (held (fun a => { a with fam := some (!taps) })) ∧
      (arrayOf (held (fun a => { a with fam := some (!taps) }))).fam = some (!taps)) ∧
    (∀ taps : Bool, let s := held (fun a => { a with g := 47 });
      HoldsLease s ∧ (arrayOf s).fam ≠ some (!taps) ∧ 48 < (arrayOf s).stride) := by unfold HoldsLease; decide +kernel

/-- A step of two rows and two units whose count is over or not. -/
def aStep (due : Nat) : FoldStep := ⟨due, 0, false, 2, 1, 2, 16, [[1, 2]], [], [3, 4]⟩
def stepped (l : List FoldStep) (n : Nat) : State :=
  (withTask (fun p => { p with count := n })).modQuad 0 (fun q => { q with array := { q.array with flight := l } })

theorem witness_FoldStepsIssueAndLand_FoldStepsLand :
    (let a := ((stepped [aStep 3, aStep 4] 4).quad 0).array;
      a.flight = aStep 3 :: [aStep 4] ∧ (aStep 3).due < ((stepped [aStep 3, aStep 4] 4).core (0 * 4 + 0)).regs.task.count ∧
      (∀ x ∈ [aStep 4], ((stepped [aStep 3, aStep 4] 4).core (0 * 4 + x.core)).regs.task.count ≤ x.due) ∧
      a.slots.Pairwise (fun x y => x.1 < y.1) ∧ (if (aStep 3).taps then (aStep 3).nu else (aStep 3).nu * (aStep 3).e) ≤ 8192) ∧
    (∀ x ∈ ((stepped [aStep 4] 4).quad 0).array.flight, ((stepped [aStep 4] 4).core (0 * 4 + x.core)).regs.task.count ≤ x.due) := by
  decide +kernel

def small (a : FoldArray) : FoldArray := { a with nu := 4, fam := some true }

theorem witness_FoldDrainsIssueAndLand_FoldDrains :
    (let s := held small;
      HoldsLease s ∧ (0 : BitVec 3).toNat + ((arrayOf s).rows + 63) / 64 ≤ 8 ∧ (arrayOf s).ovf = none ∧
      (arrayOf s).base + 4 * (arrayOf s).rows * (arrayOf s).cols ≤ (if (arrayOf s).wide then 2 ^ 22 else 2 ^ 20) ∧
      (arrayOf s).check = .clean) ∧
    (arrayOf (held (fun a => { small a with csum := true, kc := setInt [] 1 5 }))).check = .lane ∧
    (∃ i d, (arrayOf (held (fun a => { small a with csum := true, kc := setInt [] 1 5, kr := setInt [] 1 5 }))).check = .fix i d) ∧
    (let s := held (fun a => { small a with csum := true, kc := setInt [] 1 5, kr := setInt [] 1 4 });
      HoldsLease s ∧ (0 : BitVec 3).toNat + ((arrayOf s).rows + 63) / 64 ≤ 8 ∧ (arrayOf s).ovf = none ∧ (arrayOf s).check = .fail) ∧
    (let s := held (fun a => { small a with g := 0, ta := 18, tb := 18 });
      HoldsLease s ∧ 8 < (7 : BitVec 3).toNat + ((arrayOf s).rows + 63) / 64) ∧
    (let s := held (fun a => { small a with ovf := some (0, 0, 0) });
      HoldsLease s ∧ (0 : BitVec 3).toNat + ((arrayOf s).rows + 63) / 64 ≤ 8 ∧ (arrayOf s).ovf ≠ none) ∧
    (let s := held (fun a => { small a with base := 2 ^ 20 - 256 });
      HoldsLease s ∧ (0 : BitVec 3).toNat + ((arrayOf s).rows + 63) / 64 ≤ 8 ∧ (arrayOf s).ovf = none ∧ (arrayOf s).check = .clean ∧
      (if (arrayOf s).wide then 2 ^ 22 else 2 ^ 20) < (arrayOf s).base + 4 * (arrayOf s).rows * (arrayOf s).cols) := by
  refine ⟨by unfold HoldsLease; decide +kernel, by decide +kernel, ⟨8193, 5, by decide +kernel⟩, ?_⟩
  unfold HoldsLease; decide +kernel

def aDrain (due : Nat) : Drain := ⟨due, [(0, 3)], [0x01000000], [0x01000000], 1, 1, 0, false, 0⟩
def drained (l : List Drain) (n : Nat) : State :=
  (withTask (fun p => { p with count := n })).modQuad 0 (fun q => { q with array := { q.array with drains := l } })

theorem witness_FoldDrainsIssueAndLand_DrainsLand :
    (let s := drained [aDrain 3, aDrain 4] 4;
      Memory.wf s.mem = true ∧ (s.quad 0).array.drains = aDrain 3 :: [aDrain 4] ∧
      (aDrain 3).due < (s.core (0 * 4 + 0)).regs.task.count ∧
      (∀ x ∈ [aDrain 4], (s.core (0 * 4 + x.core)).regs.task.count ≤ x.due)) ∧
    (∀ x ∈ ((drained [aDrain 4] 4).quad 0).array.drains, ((drained [aDrain 4] 4).core (0 * 4 + x.core)).regs.task.count ≤ x.due) := by
  decide +kernel

theorem witness_FoldSettings_FoldOther :
    (let s := (held id).modRegs (fun r => { r with vec := { r.vec with banks := Vector.replicate 4 .f } });
      HoldsLease s ∧ (38 : BitVec 6).toNat < 39 ∧
      ∀ x ∈ [(38 : BitVec 6), 39, 0, 48], 40 ≤ x.toNat ∨ vget s.regs.vec.banks (x.toNat / 10) .va = .f) ∧
    ((∀ p ∈ (arrayOf (held id)).flight, p.core ≠ (held id).cur.toNat % 4) ∧
      (∀ d ∈ (arrayOf (held id)).drains, d.core ≠ (held id).cur.toNat % 4) ∧ (held id).pipe.flight = []) ∧
    (let s := held (fun a => { a with flight := [aStep 3] });
      HoldsLease s ∧ ∃ p ∈ (arrayOf s).flight, p.core = s.cur.toNat % 4) ∧
    (let s := (held (fun a => { a with flight := [aStep 3] })).modMe (fun c => { c with fold := { c.fold with inj := true } });
      HoldsLease s ∧ s.me.fold.inj = true ∧ ∀ p ∈ (arrayOf s).flight, s.pipe.count < p.due) ∧
    (HoldsLease (held id) ∧ (held id).me.fold.inj = false) ∧
    ((held id).me.fold.lease = .held ∧ State.reset.me.fold.lease ≠ .held) := by unfold HoldsLease; decide +kernel
/-! ## Bytecode -/

/-- The interpreter of die 0 runs queue 0, which f makes. Its dispatcher has page 1 in its TLB, and the context every right. -/
def interpreting (f : Queue → Queue) : State :=
  { State.reset with
    queues := fset State.reset.queues 0 (f { Queue.reset with st := .running, cur := some 0, pkts := [placePacket] })
    disps := fset State.reset.disps 0 { Disp.reset with slots := [0], run := some 0, tlb := [⟨0, 1, 0, 0x103F⟩] }
    acctab := fset (fset (fset State.reset.acctab 0 (BitVec.allOnes 32)) (3 * 4096) (BitVec.allOnes 32)) (5 * 4096) (BitVec.allOnes 32) }

/-- Window 1 is the 4,096 bytes from va on, and x[0] is v. -/
def overWindow (va v : Nat) : State :=
  interpreting (fun q => { q with wins := [⟨va, true, 4096⟩], x := vset q.x 0 (BitVec.ofNat 64 v) })

theorem witness_BytecodeArithmetic :
    (RunsQueue (interpreting id) 0 ∧ xOf (interpreting id) 0 0 = 0 ∧ xOf (overWindow 0x1000 1) 0 0 ≠ 0) ∧
    (((interpreting (fun q => { q with lc := [(3, 2)] })).queue 0).lc = (3, 2) :: [] ∧ 1 < 2) ∧
    (((interpreting (fun q => { q with lc := [(3, 1)] })).queue 0).lc = (3, 1) :: [] ∧ 1 ≤ 1) ∧
    ((State.reset.disp (State.reset.cur.toNat / 64)).run = none ∧ Instr.qbFence ∈ [Instr.qbNop, .qbFence]) := by
  unfold RunsQueue; decide +kernel

theorem witness_BytecodeMemory :
    (let s := overWindow 0x1000 511;
      RunsQueue s 0 ∧ qbOffset s 0 0 0 + 8 ≤ (qbWindow s 0 1).2 ∧
      (∀ kind ∈ [0, 1], dispTry s 0 (s.queue 0).home (s.queue 0).tag kind ((qbWindow s 0 1).1 + qbOffset s 0 0 0) 8 = .ok 0x1FF8) ∧
      packetWork s 0 (((s.queue 0).cur).getD 0) = false ∧ (runPacket s 0).bind (fun p => p.workBad) = none) ∧
    (let s := overWindow 0x3000 0;
      RunsQueue s 0 ∧ dispTry s 0 (s.queue 0).home (s.queue 0).tag 0 ((qbWindow s 0 1).1 + qbOffset s 0 0 0) 8 = .park 0) ∧
    (let s := overWindow (2 ^ 60) 0;
      RunsQueue s 0 ∧ dispTry s 0 (s.queue 0).home (s.queue 0).tag 0 ((qbWindow s 0 1).1 + qbOffset s 0 0 0) 8 = .fault 0x10) ∧
    (let s := { overWindow 0x1000 0 with poison := [0x1000 / 128] };
      RunsQueue s 0 ∧ dispTry s 0 (s.queue 0).home (s.queue 0).tag 0 ((qbWindow s 0 1).1 + qbOffset s 0 0 0) 8 = .poison) ∧
    (let s := overWindow 0x1000 512; RunsQueue s 0 ∧ (qbWindow s 0 1).2 < qbOffset s 0 0 0 + 8) ∧
    (let s := (interpreting id).modDisp 0 (fun d => { d with copies := [(0, 0, 0, 0)] });
      RunsQueue s 0 ∧ packetWork s 0 (((s.queue 0).cur).getD 0) = true) ∧
    (let s := interpreting (fun q => { q with pkts := [{ placePacket with workBad := some 8 }] });
      RunsQueue s 0 ∧ packetWork s 0 (((s.queue 0).cur).getD 0) = false ∧ (runPacket s 0).bind (fun p => p.workBad) = some 8) := by
  unfold RunsQueue
  decide +kernel

/-- The same with the first GiB of HBM a window on module 1, which has a route or none. -/
def farWindow (routed : Bool) : State :=
  { overWindow 0x1000 0 with
    podwin := fset [] 0 ⟨true, 0, 0, 1, 0⟩
    links := if routed then fset [] 35 { Link.reset with st := .up } else []
    route := fset [] 1 ⟨1 <<< 35, 0, false⟩ }

theorem witness_BytecodeMemory_pod :
    (∀ kind ∈ [0, 1], ∃ e, dispTry (farWindow true) 0 ((farWindow true).queue 0).home ((farWindow true).queue 0).tag kind
      ((qbWindow (farWindow true) 0 1).1 + qbOffset (farWindow true) 0 0 0) 8 = .park e) ∧
    (∀ kind ∈ [0, 1], dispTry (farWindow false) 0 ((farWindow false).queue 0).home ((farWindow false).queue 0).tag kind
      ((qbWindow (farWindow false) 0 1).1 + qbOffset (farWindow false) 0 0 0) 8 = .poison) := by
  exact ⟨fun kind h => ⟨farEntry 512 32 (kind = 1), by revert h kind; decide +kernel⟩, by decide +kernel⟩

/-- A launch record at 0x1000, of the one variant at va. -/
def launchingAt (va : Nat) : State :=
  { overWindow 0x1000 0 with
    mem := [(0x1000, va), (0x1008, 2 ^ 32), (0x1010, 0x80200), (0x1018, 0x100010001), (0x1020, 0x1200), (0x1100, 0x5100000000),
      (0x1120, 1)].foldl (fun m e => Memory.write m e.1 e.2 8) []
    ctxs := fset State.reset.ctxs 0 { (State.reset.ctx 0) with ssize := 2 ^ 24 } }

def launching : State := launchingAt 0x1100

def barred (b : Barrier) : State := { interpreting id with bars := fset State.reset.bars 0 b }

theorem witness_BytecodeControl :
    (let s := launching;
      let va := (qbWindow s 0 1).1 + qbOffset s 0 0 0;
      let r := dispEnter 0 0 0 va 64 s;
      RunsQueue s 0 ∧ qbOffset s 0 0 0 + 64 ≤ (qbWindow s 0 1).2 ∧ dispTry s 0 0 0 0 va 64 = .ok 0x1000 ∧
      (match (launch 0 ((r.queue 0).cur.getD 0) (launchRec r 0 va) r).1 with | .inl _ => true | _ => false) = true) ∧
    (let s := overWindow 0x1000 0;
      let va := (qbWindow s 0 1).1 + qbOffset s 0 0 0;
      let r := dispEnter 0 0 0 va 64 s;
      dispTry s 0 0 0 0 va 64 = .ok 0x1000 ∧
      (match (launch 0 ((r.queue 0).cur.getD 0) (launchRec r 0 va) r).1 with | .inr (.refuse _) => true | _ => false) = true) ∧
    (let s := launchingAt 0x3000;
      let va := (qbWindow s 0 1).1 + qbOffset s 0 0 0;
      let r := dispEnter 0 0 0 va 64 s;
      dispTry s 0 0 0 0 va 64 = .ok 0x1000 ∧
      (match (launch 0 ((r.queue 0).cur.getD 0) (launchRec r 0 va) r).1 with | .inr (.stop _ (.park _)) => true | _ => false) = true) ∧
    (qbWindow (overWindow 0x1000 512) 0 1).2 < qbOffset (overWindow 0x1000 512) 0 0 0 + 64 ∧
    ((xOf (overWindow 0x1000 8) 0 0).toNat % 8 = 0 ∧ ((overWindow 0x1000 8).queue 0).lvl < 4 ∧
      4 ≤ ((interpreting (fun q => { q with lvl := 4 })).queue 0).lvl ∧ (xOf (overWindow 0x1000 9) 0 0).toNat % 8 ≠ 0) ∧
    (((interpreting id).chan 0).tag = ((interpreting id).queue 0).tag ∧ hasRight (interpreting id) 0 2 3 3 = true ∧
      hasRight { interpreting id with acctab := [] } 0 2 3 3 = false) ∧
    (let s := barred { Barrier.reset with on := true, cnt := 2, phase := 1 };
      barrierIndex 0x100 = some 0 ∧ arrRefused s 0x100 0 none none = none ∧ arrRefused (interpreting id) 0x100 0 none none = some 5 ∧
      farBar s 0x100 = false ∧ seenBar s 0x100 = some (1, none) ∧ (s.queue 0).block = .none ∧ pastBy 1 0 = true ∧ pastBy 1 (waitPhase (s.queue 0) 0x100 1) = false) ∧
    (let s := barred { Barrier.reset with on := true, fail := true };
      seenBar s 0x100 = some (0, some 6) ∧ pastBy 0 (waitPhase (s.queue 0) 0x100 0) = false) ∧
    (let s := { interpreting id with podmod := 1 };
      farBar s 0x400 = true ∧ (s.queue 0).block ≠ .arrival 0x400 ∧
      ((s.modQueue 0 (fun x => { x with block := .arrival 0x400 })).queue 0).block = .arrival 0x400) ∧
    barrierIndex 0x700 = none ∧
    (((interpreting (fun q => { q with wakep := true })).queue 0).wakep = true ∧ ((interpreting id).queue 0).wakep = false) ∧
    (hasRight (interpreting id) 0 2 5 3 = true ∧ ((interpreting id).queue 1).st = .undefined ∧
      hasRight { interpreting id with acctab := [] } 0 2 5 3 = false) ∧
    RunsQueue (interpreting id) 0 := by unfold RunsQueue; decide +kernel

/-- Queue 0 as it stands in its block. -/
def blockedIn (b : Block) : State := (barred { Barrier.reset with on := true, cnt := 2, phase := 1 }).modQueue 0 (fun x => { x with block := b })

theorem witness_BytecodeControl_waits :
    (∃ e, qbOffset (farWindow true) 0 0 0 + 64 ≤ (qbWindow (farWindow true) 0 1).2 ∧ dispTry (farWindow true) 0
      ((farWindow true).queue 0).home ((farWindow true).queue 0).tag 0 ((qbWindow (farWindow true) 0 1).1 + qbOffset (farWindow true) 0 0 0) 64 =
      .park e) ∧
    (let s := blockedIn (.failed 5); RunsQueue s 0 ∧ barrierIndex 0x100 = some 0 ∧ (s.queue 0).block = .failed 5) ∧
    (∀ k ∈ [0, 1], let s := blockedIn (.barrier 0x100 k);
      RunsQueue s 0 ∧ seenBar s 0x100 = some (1, none) ∧ (s.queue 0).block = .barrier 0x100 k ∧
      pastBy 1 (waitPhase (s.queue 0) 0x100 1) = (k = 0)) ∧
    (∀ b ∈ [Block.none, .ask 0x400], let s := { blockedIn b with podmod := 1 };
      RunsQueue s 0 ∧ farBar s 0x400 = true ∧ (s.queue 0).block = b ∧ (s.queue 0).arrived.any (fun e => e.1 = 0x400) = false) ∧
    (let s := { (blockedIn .none).modQueue 0 (fun x => { x with arrived := [(0x400, 0)] }) with podmod := 1 };
      farBar s 0x400 = true ∧ (s.queue 0).arrived.any (fun e => e.1 = 0x400) = true ∧ (seenBar s 0x400).isSome = true) := by
  refine ⟨⟨farEntry 512 32 false, by decide +kernel⟩, ?_⟩
  unfold RunsQueue; decide +kernel

/-! ## Events at a core -/

/-- The task of core 0 as f makes it, at module time now, with memory as reset leaves it. -/
def loadReq (o : LdOp) : Req LdOp := ⟨5, 0, 0, o, 0x1000, 1, 8, [0x1000], [0], 0, .scalar false 64, none, some 5, 0, none, none, false⟩
def storeReq (o : StOp) (n : Nat) : Req StOp := ⟨5, 0, 0, o, 0x1000, 1, n, [0x1000], [0], 7, .vec, none, none, 0, none, none, false⟩
def loading (o : LdOp) : State := withTask (fun p => { p with bn := 1, lq := [loadReq o] })
def performing (r : Req StOp) : State := withTask (fun p => { p with bn := 1, sq := [r] })
def flightOf (t : Tgt) (slot : Pos) : State := withTask (fun p => { p with count := 4, flight := [⟨slot, 3, t, 9, 0⟩] })

theorem witness_ResultsLand :
    (∀ x ∈ [(Tgt.sreg 3, Pos.S), (.vreg 39, .VA), (.latch 3, .S), (.latch 0, .VA), (.latch 0, .VB), (.mask 15, .VA), (.mail 3, .F),
        (.scale 7 2016 32, .K), (.sys 0x302, .S)],
      (regsOf (flightOf x.1 x.2) 0).outr.flight = [] ∧ (taskOf (flightOf x.1 x.2) 0).flight = [⟨x.2, 3, x.1, 9, 0⟩] ∧
      3 < (taskOf (flightOf x.1 x.2) 0).count ∧ (x.1 = .sys 0x302 ∨ (∀ f ∈ (taskOf (flightOf x.1 x.2) 0).flight, f.tgt ≠ .sys 0x302))) ∧
    ((on (fun c => { c with olds := [(2, 7)] })).core 0).olds = [(2, 7)] ∧
    (let s := withTask (fun p => { p with count := 3, flight := [⟨.S, 3, .sreg 0, 9, 0⟩] });
      (∀ f ∈ (taskOf s 0).flight, (taskOf s 0).count ≤ f.due) ∧ ∀ f ∈ (regsOf s 0).outr.flight, (regsOf s 0).outr.count ≤ f.due) := by
  decide +kernel

theorem witness_LoadsReply :
    (∀ o ∈ [LdOp.acq 3, .nt, .stamp, .lds, .ldr 2, .plain], ReadyLoad (loading o) 0 0 (loadReq o) 0x1000) ∧
    (BitVec.allOnes 33).getLsbD 32 = true ∧ l1Get ((loading .plain).core 0).cache.l1 (0x1000 / 128) = none ∧
    (let s := (loading .plain).modCore 0 (fun c => { c with cache := { c.cache with l1 := [(0x1000 / 128, .here 1)] } });
      NextLoad s 0 0 (loadReq .plain) 0x1000 ∧ hasHome 0x1000 = true ∧ l1Get (s.core 0).cache.l1 (0x1000 / 128) = some 1) ∧
    PlainBytes State.reset 0x1000 1 ∧
    (∀ o ∈ [LdOp.xlat, .preq 0x1000, .pf true], (taskOf (loading o) 0).lq[(0 : BitVec 6).toNat]? = some (loadReq o) ∧
      (loadReq o).park = none ∧ (loadReq o).due = none ∧ ((loading o).quad ((0 : CoreId).toNat / 4)).pageReq.length < 64) := by
  unfold ReadyLoad NextLoad PlainBytes; decide +kernel

/-- The first GiB of HBM is a window on module 1; the requests sent there. -/
def podded (who : Option (PodWho × Option (BitVec 2048))) (s : State) : State :=
  { s with
    podwin := fset [] 0 ⟨true, 0, 0, 1, 0⟩
    podreqs := (who.map (fun w => (⟨0, 1, 0, 0, [], w.1, w.2⟩ : PodReq))).toList }

theorem witness_LoadsReply_pod :
    (∀ o ∈ [LdOp.nt, .ldr 2, .acq 0, .acq 3, .stamp, .plain], NextLoad (podded none (loading o)) 0 0 (loadReq o) 0x1000 ∧
      (podOf (podded none (loading o)) 0x1000).isSome = true ∧ NotAsked (podded none (loading o)) 0 false 5 ∧
      l1Get ((podded none (loading o)).core 0).cache.l1 (0x1000 / 128) = none) ∧
    Unanswered (podded (some (.access 0 false false 5 0, none)) (loading .nt)) 0 false 5 ∧
    Answered (podded (some (.access 0 false false 5 0, some 9)) (loading .nt)) 0 false 5 9 := by
  unfold NextLoad NotAsked
  exact ⟨by decide +kernel, ⟨_, rfl, rfl⟩, ⟨_, rfl, rfl⟩⟩

theorem witness_StoresPerformed_pod :
    (∀ o ∈ [StOp.plain, .nt, .rel 0, .rel 3], NextStore (podded none (performing (storeReq o 8))) 0 0 (storeReq o 8) 0x1000 ∧
      allBefore (taskOf (podded none (performing (storeReq o 8))) 0) (keyW (storeReq o 8)) = true ∧
      (podOf (podded none (performing (storeReq o 8))) 0x1000).isSome = true ∧ isArrive 0x1000 = false ∧
      NotAsked (podded none (performing (storeReq o 8))) 0 true 5) ∧
    Unanswered (podded (some (.access 0 false true 5 0, none)) (performing (storeReq .nt 8))) 0 true 5 ∧
    Answered (podded (some (.access 0 false true 5 0, some 9)) (performing (storeReq .nt 8))) 0 true 5 9 := by
  unfold NextStore NotAsked
  exact ⟨by decide +kernel, ⟨_, rfl, rfl⟩, ⟨_, rfl, rfl⟩⟩

theorem witness_StoresPerformed :
    (∀ o ∈ [StOp.plain, .nt, .rel 0, .rel 3], allBefore (taskOf (performing (storeReq o 8)) 0) (keyW (storeReq o 8)) = true ∧ Memory.wf (performing (storeReq o 8)).mem = true ∧
      ReadyStore (performing (storeReq o 8)) 0 0 (storeReq o 8) 0x1000 ∧ PlainBytes (performing (storeReq o 8)) 0x1000 8) ∧
    (∀ o ∈ [StOp.wb, .inv, .discard], ReadyStore (performing (storeReq o 128)) 0 0 (storeReq o 128) 0x1000 ∧ 0x1000 % 128 = 0 ∧
      PlainBytes (performing (storeReq o 128)) 0x1000 128) ∧
    (∀ o ∈ [StOp.mark, .fence 5], (taskOf (performing (storeReq o 8)) 0).sq[(0 : BitVec 6).toNat]? = some (storeReq o 8) ∧
      sent (taskOf (performing (storeReq o 8)) 0) (keyW (storeReq o 8)) = true ∧
      allBefore (taskOf (performing (storeReq o 8)) 0) (keyW (storeReq o 8)) = true) ∧
    (let r := storeReq (.arrive 1 0 15) 8;
      (taskOf (performing r) 0).sq[(0 : BitVec 6).toNat]? = some r ∧ sent (taskOf (performing r) 0) (keyW r) = true ∧
      releases ((performing r).core (0 : CoreId).toNat) false r = true) ∧
    (∀ o ∈ [StOp.mailw 2047 3, .tkset 1, .ring true 0], (taskOf (performing (storeReq o 8)) 0).sq[(0 : BitVec 6).toNat]? = some (storeReq o 8) ∧
      sent (taskOf (performing (storeReq o 8)) 0) (keyW (storeReq o 8)) = true ∧
      storesBefore (taskOf (performing (storeReq o 8)) 0) 0 = true ∧
      inOrderPlain (taskOf (performing (storeReq o 8)) 0) (keyW (storeReq o 8)) = true ∧
      ((performing (storeReq o 8)).queue 0).st = .undefined) ∧
    (let r : Req StOp := { storeReq .apw 8 with units := [engBase + 0x100] };
      let s := { performing r with acctab := fset [] (3 * 4096) 0xF };
      (taskOf s 0).sq[(0 : BitVec 6).toNat]? = some r ∧ engineTurn (taskOf s 0) 0 r = true ∧
      (s.chan (chanOf (engBase + 0x100))).tag = (regsOf s 0).id.tag ∧ hasRight s (regsOf s 0).id.tag 0 3 1 = true ∧
      (engBase + 0x100) % 0x10000 < 0x200 ∧ shadowBusy (s.chan (chanOf (engBase + 0x200))) = false) := by
  unfold ReadyStore NextStore PlainBytes; decide +kernel

theorem witness_AtomicsExecute :
    (∀ o ∈ [StOp.amo 0 3 (some 3) 1 none (some 2) none, .amo 6 3 none 1 (some 0) none (some 2)],
      let r := storeReq o (amoWidth 3 / 8);
      let s := performing r;
      Memory.wf s.mem = true ∧ ReadyStore s 0 0 r 0x1000 ∧ poisoned s 0x1000 = false ∧ r.ulen = amoWidth 3 / 8 ∧
      PlainBytes s 0x1000 r.ulen ∧ allBefore (taskOf s 0) (keyW r) = true) ∧
    (∀ ty ∈ [0, 1, 2, 3, 4], 0 < 2 ^ amoWidth ty ∧ 2 ^ amoWidth ty - 1 < 2 ^ amoWidth ty) := by
  unfold ReadyStore NextStore PlainBytes; decide +kernel

theorem witness_AtomicsExecute_pod :
    (let r := storeReq (.amo 0 3 (some 3) 1 none (some 2) (some 2)) (amoWidth 3 / 8);
      let s := podded none (performing r);
      NextStore s 0 0 r 0x1000 ∧ r.ulen = amoWidth 3 / 8 ∧ (podOf s 0x1000).isSome = true ∧ poisoned s 0x1000 = false ∧
      allBefore (taskOf s 0) (keyW r) = true ∧ NotAsked s 0 true 5 ∧
      Unanswered (podded (some (.access 0 false true 5 0, none)) (performing r)) 0 true 5 ∧
      Answered (podded (some (.access 0 false true 5 0, some 9)) (performing r)) 0 true 5 9) := by
  unfold NextStore NotAsked
  exact ⟨by decide +kernel, by decide +kernel, by decide +kernel, by decide +kernel, by decide +kernel, by decide +kernel,
    ⟨_, rfl, rfl⟩, ⟨_, rfl, rfl⟩⟩

/-- A wait for 0, met, and one for 1, at its limit or with none. -/
def waiting (lim : BitVec 32) (cmp : Nat) : State :=
  { withRegs (fun r => { r with lim := { r.lim with waitlim := lim }, task := { r.task with bn := 1, lq := [loadReq (.wait false 1 cmp)] } }) with
    now := 10 ^ 9 }

theorem witness_WaitsDeliver :
    (∀ c ∈ [0, 1], ReadyLoad (waiting 1 c) 0 0 (loadReq (.wait false 1 c)) 0x1000 ∧ podOf (waiting 1 c) 0x1000 = none) ∧
    busRead (waiting 1 0) 0 0x1000 8 = 0 ∧
    ((regsOf (waiting 1 1) 0).lim.waitlim.toNat ≠ 0 ∧
      (loadReq (.wait false 1 1)).since + (regsOf (waiting 1 1) 0).lim.waitlim.toNat * 1000000 ≤ (waiting 1 1).now) ∧
    (regsOf (waiting 0 1) 0).lim.waitlim.toNat = 0 ∧
    (∃ x, (waiting 1 0).cores = [((0 : CoreId).toNat, x)] ∧ x.regs.outr.lq = [] ∧ x.regs.task.lq = [loadReq (.wait false 1 0)]) ∧
    (isHost hostBase = true ∧ podOf State.reset hostBase = none) ∧
    (∀ e ∈ State.reset.cores, e.2.regs.task.lq = [] ∧ e.2.regs.outr.lq = []) := by
  refine ⟨by unfold ReadyLoad NextLoad; decide +kernel, by decide +kernel, by decide +kernel, by decide +kernel,
    ⟨(waiting 1 0).core 0, by decide +kernel⟩, by decide +kernel⟩

theorem witness_WaitsDeliver_polled :
    (∀ t ∈ [10 ^ 9 - 1000000, 10 ^ 9], let s := { waiting 1 0 with polled := [(waitKey 0 false 5, t)] };
      ReadyLoad s 0 0 (loadReq (.wait false 1 0)) 0x1000 ∧ fget? s.polled (waitKey 0 false 5) = some t ∧ monitored s 0x1000 = false ∧
      (t + 1000000 ≤ s.now ↔ t = 10 ^ 9 - 1000000)) ∧
    fget? (waiting 1 0).polled (waitKey 0 false 5) = none ∧
    (let s := { waiting 1 0 with monitors := [0x1000 / 128] };
      ReadyLoad s 0 0 (loadReq (.wait false 1 0)) 0x1000 ∧ 0x1000 / 128 ∈ s.monitors ∧ monitored s 0x1000 = true ∧
      s.cores = [((0 : CoreId).toNat, s.core 0)]) ∧
    (0x1000 : Pa).toNat / 128 ∉ (waiting 1 0).monitors := by
  unfold ReadyLoad NextLoad; decide +kernel

/-! ## Limits, walks and fetch -/

/-- A bundle whose C syllable has an opcode and fields x, with the rest of its bits from y. -/
def cBundle (op x : Nat) : Bundle := ⟨0x2000, BitVec.ofNat 256 (op * 2 ^ 57 + x * 2 ^ 32), false, 0x2020⟩
/-- Core 0 runs, has held for 100 cycles at the bundle, and f makes its registers. -/
def heldAt (b : Bundle) (f : CoreRegs → CoreRegs) : State :=
  withRegs (fun r => f { r with run := .running, hold := some ⟨0, 100, 0, 0⟩, task := { r.task with bq := [b] } })

theorem heldFor_at (lo op x : Nat) (f : CoreRegs → CoreRegs)
    (h : let s := heldAt (cBundle op x) f
      (s.core 0).issues = true ∧ (regsOf s 0).out = .off ∧ (taskOf s 0).bq = [cBundle op x] ∧ field (cBundle op x).bits 57 6 = op ∧
      0 < field (cBundle op x).bits (32 + lo) 16 ∧ (regsOf s 0).hold = some ⟨(taskOf s 0).bn, 100, 0, 0⟩ ∧
      field (cBundle op x).bits (32 + lo) 16 ≤ 100) : HeldFor (heldAt (cBundle op x) f) 0 lo op (cBundle op x) := by
  obtain ⟨a, b, c, d, e, g, i⟩ := h
  exact ⟨a, b, ⟨[], c⟩, d, e, ⟨_, g, rfl, i⟩⟩

def holding (c : BitVec 64) (f : TokState) (r : CoreRegs) : CoreRegs :=
  { r with tok := vset r.tok 0 ⟨f, 0⟩, arr := vset r.arr 0 ⟨true, 0, some 4, 4, none, none, 0⟩, task := { r.task with bridge := vset r.task.bridge 0 c } }

def parked (r : CoreRegs) : CoreRegs :=
  { r with run := .running, lim := { r.lim with parkFrom := some 0, parkWd := 5, parkLimit := 5 },
           task := { r.task with lq := [{ loadReq .plain with units := [], park := some 0x8000 }] } }

theorem witness_LimitsTrap :
    (HeldFor (heldAt (cBundle 0x1C 100) id) 0 0 0x1C (cBundle 0x1C 100) ∧
      (vget ((heldAt (cBundle 0x1C 100) id).core 0).mail (field (cBundle 0x1C 100).bits 48 2) ⟨0, false⟩).full = false) ∧
    (let s := heldAt (cBundle 0x15 (100 * 64)) (holding 0 .held);
      HeldFor s 0 6 0x15 (cBundle 0x15 (100 * 64)) ∧
      tokensIn (at' s 0) (BitVec.ofNat 64 (2 ^ field (cBundle 0x15 (100 * 64)).bits 32 6)) (fun t => t = .failed) = 0 ∧
      tokensIn (at' s 0) (BitVec.ofNat 64 (2 ^ field (cBundle 0x15 (100 * 64)).bits 32 6)) (fun t => t ≠ .ready) ≠ 0) ∧
    (let s := heldAt (cBundle 0x16 (100 * 64 + 48)) (holding 1 .pending);
      HeldFor s 0 6 0x16 (cBundle 0x16 (100 * 64 + 48)) ∧ 48 ≤ field (cBundle 0x16 (100 * 64 + 48)).bits 32 6 ∧
      field (cBundle 0x16 (100 * 64 + 48)).bits 32 6 < 56 ∧ (cBundle 0x16 (100 * 64 + 48)).land = false ∧
      vget (taskOf s 0).bridge (field (cBundle 0x16 (100 * 64 + 48)).bits 32 6 - 48) 0 = 1 ∧
      tokensIn (at' s 0) 1 (fun t => t = .failed) = 0 ∧ tokensIn (at' s 0) 1 (fun t => t ≠ .ready) ≠ 0) ∧
    (let s := heldAt (cBundle 0x18 (100 * 64)) (holding 0 .ready);
      HeldFor s 0 6 0x18 (cBundle 0x18 (100 * 64)) ∧ vget (regsOf s 0).arr (field (cBundle 0x18 (100 * 64)).bits 32 4) ArrEntry.reset =
        ⟨true, 0, some 4, 4, none, none, 0⟩ ∧ ¬PhaseOver ⟨true, 0, some 4, 4, none, none, 0⟩) ∧
    (regsOf State.reset 0).hold = none ∧
    (let s := heldAt (cBundle 0 0) (fun r => { r with lim := { r.lim with wdLimit := 9, wdcnt := 9 } });
      (s.core 0).issues = true ∧ (regsOf s 0).out = .off ∧ (taskOf s 0).bq = cBundle 0 0 :: [] ∧ (taskOf s 0).after = none ∧ (regsOf s 0).lim.wdLimit ≠ 0 ∧
      (regsOf s 0).lim.fired = false ∧ (regsOf s 0).lim.wdLimit.toNat < (regsOf s 0).lim.wdcnt.toNat + 1) ∧
    (regsOf State.reset 0).lim.wdLimit = 0 ∧
    (let s := { withRegs parked with now := 5000000, ctxs := fset [] 0 { (State.reset.ctx 0) with maxsusp := 1 } };
      ((s.core 0).issues = true ∧ (s.core 0).live = true ∧ (regsOf s 0).out = .off ∧ (regsOf s 0).run = .running) ∧
      ParkedFor s 0 (regsOf s 0).lim.parkWd.toNat ∧ ParkedFor s 0 (regsOf s 0).lim.parkLimit.toNat ∧ (s.core 0).cache.walkF = [] ∧
      (∃ r l, (taskOf s 0).lq = r :: l ∧ r.park.isSome = true) ∧ parkedOn (s.core 0) = some 0x8000 ∧
      holdsArray (s.core 0) = false ∧ suspCount s (regsOf s 0).id.tag < (s.ctx (regsOf s 0).id.tag).maxsusp ∧
      ∀ x ∈ (s.core 0).susp, x.ready = false) ∧
    ((regsOf State.reset 0).lim.parkWd = 0 ∧ (regsOf State.reset 0).lim.parkLimit = 0 ∧ (State.reset.core 0).susp = []) := by
  refine ⟨⟨heldFor_at _ _ _ _ (by decide +kernel), by decide +kernel⟩, ⟨heldFor_at _ _ _ _ (by decide +kernel), by decide +kernel⟩,
    ⟨heldFor_at _ _ _ _ (by decide +kernel), by decide +kernel⟩, ⟨heldFor_at _ _ _ _ (by decide +kernel), by decide +kernel, ?_⟩,
    by decide +kernel, by decide +kernel, by decide +kernel,
    ⟨by decide +kernel, ⟨by decide +kernel, 0, by decide +kernel⟩, ⟨by decide +kernel, 0, by decide +kernel⟩, by decide +kernel,
      ⟨{ loadReq .plain with units := [], park := some 0x8000 }, [], by decide +kernel⟩, by decide +kernel⟩, by decide +kernel⟩
  rintro ⟨p, h, h1, -⟩
  cases h
  revert h1
  decide +kernel

/-- Five levels of tables from 0x10000 on that end in the entry e for page 0; an entry e at the first level only. -/
def tables (e : Nat) : State :=
  { State.reset with
    mem := [(0x10000, 0x11001), (0x11000, 0x12001), (0x12000, 0x13001), (0x13000, 0x14001), (0x14000, e)].foldl
      (fun m x => Memory.write m x.1 x.2 8) []
    ctxs := fset State.reset.ctxs 0 { (State.reset.ctx 0) with root := 0x10000 } }
def entries (e l : Nat) : Nat := if l = 5 then e else 0x10001 + 0x1000 * l
def rooted (e : Nat) : State :=
  { State.reset with
    mem := Memory.write [] 0x10000 e 8
    ctxs := fset State.reset.ctxs 0 { (State.reset.ctx 0) with root := 0x10000 } }

theorem walkReads_tables : ∀ e ∈ [0x3F, 0x3B, 0x1F], WalkReads (tables e) 0 0 (entries e) 5 := by
  intro e he
  refine ⟨fun l h1 h2 => ?_, fun l h1 h2 => ?_⟩ <;> interval_cases l <;> revert e <;> decide +kernel
theorem walkReads_rooted : ∀ e ∈ [0, 2, 2 ^ 52 + 1], WalkReads (rooted e) 0 0 (fun _ => e) 1 := by
  intro e he
  refine ⟨fun l h1 h2 => ?_, fun l h1 h2 => by omega⟩
  interval_cases l; revert e; decide +kernel

theorem witness_WalksFollowTables :
    (∀ e ∈ [0x3F, 0x3B, 0x1F], WalkReads (tables e) 0 0 (entries e) 5 ∧ GoodLeaf (entries e 5) 0 5) ∧
    (leafPermits (entries 0x3F 5) 0 = true ∧ (entries 0x3F 5).testBit 5 = true) ∧ leafPermits (entries 0x3B 5) 0 = false ∧
    (leafPermits (entries 0x1F 5) 0 = true ∧ (entries 0x1F 5).testBit 5 = false) ∧
    (∀ e ∈ [0, 2, 2 ^ 52 + 1], WalkReads (rooted e) 0 0 (fun _ => e) 1) ∧
    ((0 % 4 = 0) ∧ (2 % 4 = 2) ∧ ((2 ^ 52 + 1) % 2 = 1 ∧ 2 ^ 52 ≤ 2 ^ 52 + 1)) := by
  refine ⟨fun e he => ⟨walkReads_tables e he, ?_⟩, by decide, by decide, by decide, walkReads_rooted, by decide⟩
  revert e; unfold GoodLeaf; decide

/-- k levels of tables from 0x10000 on that end in the leaf e for address 0, and the entries that a walk reads. -/
def leafAt (k e : Nat) : State :=
  { State.reset with
    mem := (List.range k).foldl (fun m i => Memory.write m (0x10000 + 0x1000 * i) (if i + 1 = k then e else 0x11001 + 0x1000 * i) 8) []
    ctxs := fset State.reset.ctxs 0 { (State.reset.ctx 0) with root := 0x10000 } }
def entriesTo (k e l : Nat) : Nat := if l = k then e else 0x10001 + 0x1000 * l

/-- Leaves of 1 GiB, 2 MiB and 64 KiB. -/
theorem witness_WalksFollowTables_sizes :
    ∀ x ∈ [(3, 0x4000002F), (4, 0x20002F), (5, 0x1006F)],
      WalkReads (leafAt x.1 x.2) 0 0 (entriesTo x.1 x.2) x.1 ∧ GoodLeaf (entriesTo x.1 x.2 x.1) 0 x.1 ∧
      leafPermits (entriesTo x.1 x.2 x.1) 0 = true ∧ (entriesTo x.1 x.2 x.1).testBit 5 = true ∧
      leafLog (entriesTo x.1 x.2 x.1) x.1 = (if x.1 = 3 then 30 else if x.1 = 4 then 21 else 16) := by
  intro x hx
  refine ⟨⟨fun l h1 h2 => ?_, fun l h1 h2 => ?_⟩, ?_⟩
  · simp only [List.mem_cons, List.not_mem_nil, or_false] at hx
    rcases hx with rfl | rfl | rfl <;> (simp only at h2; interval_cases l <;> decide +kernel)
  · simp only [List.mem_cons, List.not_mem_nil, or_false] at hx
    rcases hx with rfl | rfl | rfl <;> (simp only at h2; interval_cases l <;> decide +kernel)
  · revert x; unfold GoodLeaf; decide +kernel

/-- The tables lead to page 1 for address 0; f makes core 0. -/
def translating (f : Core → Core) : State := (tables 0x103F).modCore 0 f
def aWalk (k : Nat) : Walk := ⟨0, k, none, 0⟩
def page1 : Leaf := ⟨0, 0, 0, 0x103F⟩

/-- A code page at page 1, of which the context may fetch: one bundle, one landing, number 0, at bundle 2. -/
def coded (f : CoreRegs → CoreRegs) : State :=
  { on (fun c => { c with regs := f { c.regs with run := .running }, cache := { c.cache with ctlb := [placeLeaf 0] } }) with
    mem := Memory.write [] 0x1000 (0x5043 + 0x51 * 2 ^ 16 + 2 ^ 48 + 2 * 2 ^ 192) 64
    acctab := fset [] 0 (BitVec.allOnes 32) }

theorem witness_WalksAndFetch :
    ((aWalk 0).res = none ∧
      walkRes (regsOf (translating id) 0).id.tag (aWalk 0).va.toNat 0 (walkCached (translating id) 0 0 (aWalk 0).va.toNat) = some (.leaf page1) ∧
      walkRes 0 (aWalk 3).va.toNat 3 (walkCached (translating id) 0 0 (aWalk 3).va.toNat) = some (.leaf page1) ∧
      ((translating (fun c => { c with cache := { c.cache with walkL := [aWalk 0] } })).core 0).cache.walkL = [aWalk 0] ∧
      ((translating (fun c => { c with cache := { c.cache with walkW := [aWalk 0] } })).core 0).cache.walkW = [aWalk 0] ∧
      ((translating (fun c => { c with cache := { c.cache with walkF := [aWalk 3] } })).core 0).cache.walkF = [aWalk 3] ∧
      NoLeaf (translating id) 0 false 0 ∧ NoLeaf (translating id) 0 true 0) ∧
    (State.reset.quad 0).walks = [] ∧
    (let s := translating (fun c => { c with regs := { c.regs with task := { c.regs.task with
        lq := [{ loadReq .plain with va := 0, units := [], park := some 0x14000 }] } } });
      let s := { s with acctab := fset [] 0 (BitVec.allOnes 32) };
      (∃ x, s.cores = [((0 : CoreId).toNat, x)] ∧ x.susp = [] ∧ x.regs.outr.lq = [] ∧ x.regs.outr.sq = [] ∧ x.regs.out = .off ∧
        x.regs.task.lq = [{ loadReq .plain with va := 0, units := [], park := some 0x14000 }] ∧ x.regs.task.sq = [] ∧
        (∀ w ∈ x.regs.wins.toList, w.slots = []) ∧ podOf s 0x14000 = none ∧ WalksTo s 0 0 0 page1 ∧
        (loadReq .plain).op = .plain ∧
        ∀ a ∈ wordsOf 0 8, accessFaultOf s x.regs.id.tag 0 (page1.pa a) a = none ∧
          loadOwn { loadReq .plain with va := 0, units := [], park := some 0x14000 } (page1.pa a) = none) ∧
      0x14000 / 128 = (0x14000 : Pa).toNat / 128 ∧ (Memory.read s.mem 0x14000 8).testBit 0 = true ∧
      (Memory.read s.mem 0x14000 8).testBit 5 = true) ∧
    (let s := coded (fun r => { r with task := { r.task with pc := 0x1040, span := ⟨1, 0x51, false, 1, 0, 1, 0, 1, none⟩ } });
      (s.core 0).issues = true ∧ (regsOf s 0).out = .off ∧ (regsOf s 0).run = .running ∧ (taskOf s 0).target = none ∧
      (taskOf s 0).stop = none ∧ (taskOf s 0).room = true ∧ badDecode (at' s 0) = false ∧
      (taskOf s 0).pc.toNat - 4096 * (taskOf s 0).span.page < 32 * ((taskOf s 0).span.count + 2) ∧ (taskOf s 0).pc.toNat % 32 = 0 ∧
      fetchLook (at' s 0) (taskOf s 0).pc.toNat = .leaf (placeLeaf 0) ∧ reservedPa s ((placeLeaf 0).pa 0x1040) = false ∧
      accessOk s (regsOf s 0).id.tag 0 2 ((placeLeaf 0).pa 0x1040) = true ∧ poisoned s ((placeLeaf 0).pa 0x1040) = false ∧
      (placeLeaf 0).pa 0x1040 % 4096 = 0x1040 % 4096 ∧ PlainBytes s ((placeLeaf 0).pa 0x1040 / 128 * 128) 128 ∧
      ∀ i ∈ (s.core 0).cache.icache, ¬(i.tag = (regsOf s 0).id.tag ∧ i.vline = (taskOf s 0).pc.toNat / 128)) ∧
    (let s := coded id; (s.core 0).issues = true ∧ (taskOf s 0).target = none ∧ (regsOf s 0).out = .off) ∧
    (let s := coded (fun r => { r with task := { r.task with target := some ⟨0x1000, false⟩ } });
      (s.core 0).issues = true ∧ (regsOf s 0).out = .off ∧ (taskOf s 0).target = some ⟨0x1000, false⟩ ∧ (taskOf s 0).link = none ∧
      settled (at' s 0) = true ∧
      (match (fetchBytes (0x1000 / 4096 * 4096) 64 (at' s 0)).1 with
        | .ok h => h % 2 ^ 16 = 0x5043 && h / 2 ^ 16 % 2 ^ 8 = 0x51 && h / 2 ^ 35 % 2 = 0 && 0 < h / 2 ^ 48 % 2 ^ 5 &&
            h / 2 ^ (192 + 7) % 2 ^ 4 = 0
        | _ => false) = true) := by
  unfold NoLeaf PlainBytes WalksTo
  refine ⟨by decide +kernel, by decide +kernel, ⟨⟨_, rfl, ?_⟩, by decide +kernel⟩, by decide +kernel⟩
  decide +kernel

/-- Window 0 of core 0, of one granule at address 0, whose slot is being filled. -/
def filling : State :=
  { translating (fun c => { c with regs := { c.regs with
      wins := vset c.regs.wins 0 ⟨true, 0, 0, 1, false, false, 0, [(.filling, 0)]⟩
      task := { c.regs.task with bn := 1, lq := [{ loadReq (.fill 0 0) with va := 0, ulen := 4096, units := [], entry := none, todo := List.range 32 }] } } }) with
    acctab := fset [] 0 (BitVec.allOnes 32)
    sptag := fset [] 0 0 }

theorem plainBytes_low {s : State} {pa n : Nat} (h : s.podwin = []) (l : pa + n ≤ 2 ^ 30) : PlainBytes s pa n := fun k hk =>
  ⟨by have : pa + k < hbmEnd := by unfold hbmEnd; omega
      simp [inMemory, this], by simp [podOf, h]⟩

theorem witness_windowFillDone :
    (Memory.wf filling.mem = true ∧ (∃ r, (taskOf filling 0).lq[0]? = some r ∧ r.op = .fill 0 0 ∧ r.units = [] ∧ r.todo = List.range 32 ∧
        ∀ k < 32, mayPerform (taskOf filling 0) false (keyL r) (page1.pa 0 + 128 * k) 128 = true) ∧
      (∀ x ∈ (taskOf filling 0).lq.eraseIdx 0 ++ (regsOf filling 0).outr.lq, x.op ≠ .fill 0 0) ∧
      hasEntry (taskOf filling 0) isFill (taskOf filling 0).lq 0 = true ∧ (∀ k ∈ List.range 32, k < 32) ∧
      (∀ k < 32, isPaused filling (page1.pa 0 + 128 * k) = false) ∧ ((at' filling 0).win 0).slotVa 0 + 4096 ≤ 2 ^ 60 ∧
      ((at' filling 0).win 0).slotVa 0 % 4096 = 0 ∧ ((at' filling 0).win 0).rbase + 4096 * 0 + 4096 ≤ 2 ^ 21 ∧
      0 < ((at' filling 0).win 0).slots.length ∧
      WalksTo filling 0 (((at' filling 0).win 0).slotVa 0) 0 page1 ∧
      accessFaultOf filling (regsOf filling 0).id.tag 0 (page1.pa 0) 0 = none ∧ (∀ k < 32, poisoned filling (page1.pa 0 + 128 * k) = false) ∧
      PlainBytes filling (page1.pa 0) 4096 ∧ page1.pa 0 % 4096 = 0) ∧
    ∀ k < 2 ^ 21, granTag filling (padOf (0 : CoreId).toNat + k) = some (regsOf filling 0).id.tag := by
  refine ⟨⟨by decide +kernel, ⟨_, rfl, rfl, rfl, rfl, by decide +kernel⟩, by decide +kernel, by decide +kernel, by decide +kernel,
    by decide +kernel, by decide +kernel, by decide +kernel, by decide +kernel, by decide +kernel, by unfold WalksTo; decide +kernel,
    by decide +kernel, by decide +kernel, plainBytes_low rfl (by decide +kernel), by decide +kernel⟩, fun k hk => ?_⟩
  have e : (padOf (0 : CoreId).toNat + k - padBase) / 0x200000 = 0 := by
    have : padOf (0 : CoreId).toNat = padBase := by decide +kernel
    omega
  have t : (regsOf filling 0).id.tag = 0 := by decide +kernel
  have p : filling.pins = [] := by decide +kernel
  have g : fget? filling.sptag 0 = some 0 := by decide +kernel
  unfold granTag
  simp only [e, p, List.find?_nil]
  rw [g, t]

/-! ## Tasks, nodes, the coachman's replies, contexts and queues -/

/-- Context 0 is resident, its tables lead address 0 to page 1, and it has every right. -/
def resident (f : State → State) : State :=
  f { translating id with
    acctab := fset [] 0 (BitVec.allOnes 32)
    ctxs := fset [] 0 { (State.reset.ctx 0) with root := 0x10000, st := .resident } }
def aNode : Node :=
  { Node.reset with st := .running, cores := [0, 1], gx := 3, gy := 1, gz := 1, entry := 0x1000, cycles := 9 }

theorem witness_TasksStartAndEnd :
    (let s := resident (fun s => s.modCore 0 (fun c => { c with regs := { c.regs with run := .starting } }));
      (regsOf s 0).run = .starting ∧ (s.core 0).cache.walkL = [] ∧ (regsOf s 0).id.args.toNat = 0 ∧ WalksTo s 0 0 0 page1 ∧
      ∀ k < 8, accessFaultOf s 0 0 (page1.pa (0 + 8 * k)) (0 + 8 * k) = none ∧ poisoned s (page1.pa (0 + 8 * k)) = false ∧
        isPaused s (page1.pa (0 + 8 * k)) = false ∧ PlainBytes s (page1.pa (0 + 8 * k)) 8) ∧
    (regsOf State.reset 0).run ≠ .starting ∧
    (∀ n ∈ [2, 3], let s := resident (fun s =>
        { (s.modCore 0 (fun c => { c with regs := { c.regs with run := .ending false } })).modQuad 0 (fun q =>
            { q with claims := fset [] 0 0 }) with nodes := [(0, { aNode with next := n, active := [0] })] });
      (regsOf s 0).run = .ending false ∧ (s.core 0).halt = ⟨false, false⟩ ∧ (regsOf s 0).out = .off ∧ endReady false (at' s 0) = true ∧ s.podseen = [] ∧
      (s.core 0).susp = [] ∧ claimOf s 0 = some (regsOf s 0).id.node ∧
      (if n = 3 then (s.node 0).tasks ≤ (s.node 0).next else (s.node 0).next < (s.node 0).tasks)) ∧
    (regsOf (coded id) 0).run = .running ∧
    (0 < aNode.gx ∧ 0 < aNode.gy ∧ aNode.gx < 2 ^ 16 ∧ aNode.gy < 2 ^ 16 ∧ aNode.gz < 2 ^ 16 ∧ 2 < aNode.gx * aNode.gy * aNode.gz) := by
  unfold WalksTo PlainBytes; decide +kernel

def noded (l : FMap Node) : State := resident (fun s => { s with nodes := l })

theorem witness_NodesClaimCommitFinish :
    (let s := noded [(0, { aNode with st := .reserving })];
      (s.node 0).st = .reserving ∧ (s.node 0).waits = none ∧ (s.node 0).quads[(s.node 0).claimed.length]? = some 0 ∧ waitedFor s 0 = none ∧
      (∀ n ∈ (s.node 0).coresIn 0, (s.core n).regs.run = .idle ∧ claimOf s n = none) ∧ (s.node 0).pins = [] ∧
      (s.ctx (s.node 0).tag).st = .resident) ∧
    (let s := (noded [(0, { aNode with st := .reserving })]).modCore 1 (fun c => { c with regs := { c.regs with run := .running } });
      (s.node 0).quads[(s.node 0).claimed.length]? = some 0 ∧ waitedFor s 0 = none ∧
      ∃ n ∈ (s.node 0).coresIn 0, (s.core n).regs.run = .running ∧ (s.core n).regs.lim.parkFrom = none) ∧
    (let x := { aNode with st := .reserving, waits := some 0, retry := true, band := 1 };
      let y := { x with band := 0 };
      let z := { x with die := 1, band := 2 };
      (noded [(0, x), (1, y)]).nodes = [((0 : BitVec 37).toNat, x), ((1 : BitVec 37).toNat, y)] ∧ x.st = .reserving ∧
      x.waits.isSome = true ∧ x.retry = true ∧ x.die = y.die ∧ y.band < x.band ∧ x.die < z.die) ∧
    (let s := noded [(0, { aNode with st := .reserving }), (1, { aNode with st := .reserving, waits := some 0, band := 1 })];
      (s.node 0).waits = none ∧ (s.node 0).quads[(s.node 0).claimed.length]? = some 0 ∧ waitedFor s 0 = some 0) ∧
    (let s := noded [(0, { aNode with st := .reserving, claimed := [0] })];
      (s.node 0).claimed.length = (s.node 0).quads.length ∧ (∀ q ∈ (s.node 0).quads, (s.quad q).hot = false) ∧
      (∀ n ∈ (s.node 0).cores, (s.core n).regs.run = .idle) ∧ (s.node 0).cores.Nodup ∧ (s.node 0).pins = [] ∧
      (s.ctx (s.node 0).tag).st = .resident ∧ ∀ q ∈ (s.node 0).quads, quadClear s (s.node 0).tag q = true) ∧
    (∀ f ∈ [0, 8], let s := noded [(0, { aNode with ended := 3, fin := f })];
      (s.node 0).st = .running ∧ (s.node 0).ended = (s.node 0).tasks ∧ (s.node 0).active = [] ∧ (s.node 0).parkFin = none ∧
      (s.queue (s.node 0).queue).pkts = [] ∧ (s.node 0).fin = f) ∧
    (let s := { noded [(0, { aNode with ended := 3, fin := 8 })] with acctab := fset [] 0 (BitVec.allOnes 32) };
      8 % 8 = 0 ∧ dispTry s (s.node 0).queue 0 0 1 8 8 = .ok 0x1008 ∧ PlainBytes s 0x1008 8 ∧ (∀ i < 8, reservedPa s (0x1008 + i) = false) ∧
      Memory.wf s.mem = true) ∧
    ((noded [(0, aNode)]).node 0).ended ≠ ((noded [(0, aNode)]).node 0).tasks := by unfold PlainBytes; decide +kernel

def aRecord (k : Nat) : TrapRec := ⟨k, 0, 0, 0, 0, 0, 0, 0, 0, 0⟩
/-- Core 0 in a trap of its task, with its outrider in a state and the coachman's records of quad 0. -/
def trapped (o : OutSt) (st : BitVec 7) (l : List TrapRec) : State :=
  resident (fun s => (s.modCore 0 (fun c => { c with regs := { c.regs with run := .running, out := o, trap := { c.regs.trap with
    tstatus := st, ttarget := 2 ^ 60 - 1 } } })).modQuad 0 (fun q => { q with trapRec := l }))

theorem witness_CoachmanReplies :
    (∀ k ∈ [1, 3], aRecord k ∈ ((trapped .escal 1 [aRecord k]).quad 0).trapRec ∧ (aRecord k).core = (0 : CoreId).toNat % 4 ∧
      (regsOf (trapped .escal 1 [aRecord k]) 0).out ≠ .off) ∧
    (∀ r ∈ (State.reset.quad 0).trapRec, r.core ≠ (0 : CoreId).toNat % 4) ∧
    (let s := trapped .escal 1 [aRecord 1];
      (regsOf s 0).trap.tstatus.getLsbD 0 = true ∧ (regsOf s 0).out ≠ .off ∧ (regsOf s 0).outr.lq = [] ∧ (regsOf s 0).outr.sq = [] ∧
      (regsOf s 0).trap.tstatus.getLsbD 3 = false ∧ ∀ r ∈ (s.quad 0).trapRec, r.core = (0 : CoreId).toNat % 4 → r.kind ≠ 2) ∧
    (let s := (trapped .escal 1 []).modCore 0 (fun c => c.modRegs (fun r => { r with outr := { r.outr with lq := [aReq .plain] } }));
      (regsOf s 0).trap.tstatus.getLsbD 0 = true ∧ (regsOf s 0).out ≠ .off ∧ (regsOf s 0).outr.lq ≠ []) ∧
    ((regsOf State.reset 0).trap.tstatus.getLsbD 0 = false ∧ ∀ r ∈ (State.reset.quad 0).trapRec, r.core = (0 : CoreId).toNat % 4 → r.kind ≠ 4) ∧
    (let s := trapped .off 0 [aRecord 4];
      (regsOf s 0).trap.tstatus.getLsbD 0 = false ∧ (∃ r ∈ (s.quad 0).trapRec, r.core = (0 : CoreId).toNat % 4 ∧ r.kind = 4) ∧
      (regsOf s 0).run ≠ .idle) ∧
    (let s := trapped (.fault 0x12 0) 3 [aRecord 3]; (s.quad 0).trapRec = [aRecord 3] ∧ (s.ctx (aRecord 3).tag).st = .resident) ∧
    (∀ s ∈ [coded id, State.reset], (s.core 0).halt.halted = false) ∧ (regsOf (coded id) 0).run ≠ .idle ∧ (regsOf State.reset 0).run = .idle ∧
    ((on (fun c => { c with halt := ⟨true, false⟩ })).core 0).halt.halted = true := by
  decide +kernel

/-- CTXCMD or QCMD runs a command with the record at 0x200, whose words are given. -/
def commanded (w8 : Word) (l : List (Nat × Nat)) (st : CtxSt) : State :=
  { State.reset with
    mem := l.foldl (fun m x => Memory.write m (0x200 + 8 * x.1) x.2 8) []
    ctxcmd := ⟨0x200, w8, 0x200, true, false, []⟩
    qcmd := ⟨0x200, w8, 0x200, true, false, []⟩
    boot := { State.reset.boot with stage := 8 }
    acctab := fset [] 0 (BitVec.allOnes 32)
    ctxs := fset [] 0 { (State.reset.ctx 0) with st := st } }

theorem witness_ContextsAndShootdowns :
    (∀ st ∈ [CtxSt.free, .created], let s := commanded 0 [(4, 4096)] st;
      Runs s.ctxcmd 0 2 ∧ s.boot.stage = 8 ∧ recordOf s s.ctxcmd 0 % 2 ^ 12 = 0 ∧ (s.ctx 0).st = st ∧ GoodContext (recordOf s s.ctxcmd) ∧
      4096 + 3 * 2 ^ 20 * (recordOf s s.ctxcmd 0 / 2 ^ 16 % 2 ^ 8) ≤ recordOf s s.ctxcmd 4) ∧
    ¬GoodContext (recordOf (commanded 0 [(1, 1)] .free) (commanded 0 [(1, 1)] .free).ctxcmd) ∧
    (let s := commanded 0 [(4, 4095)] .free;
      GoodContext (recordOf s s.ctxcmd) ∧ recordOf s s.ctxcmd 4 < 4096 + 3 * 2 ^ 20 * (recordOf s s.ctxcmd 0 / 2 ^ 16 % 2 ^ 8)) ∧
    ((Runs (commanded 1 [] .created).ctxcmd 1 2 ∧ Bound (commanded 1 [] .created) 0) ∧ ¬Bound (commanded 1 [] .dead) 0) ∧
    (Runs (commanded 2 [] .dead).ctxcmd 2 2 ∧ ((commanded 2 [] .dead).ctx 0).st = .dead ∧ ((commanded 2 [] .dead).ctx 0).jheld = [] ∧ ((commanded 2 [] .free).ctx 0).st ≠ .dead) ∧
    (let s := commanded 2 [] .dead;
      let s := { s with ctxs := fset [] 0 { s.ctx 0 with jheld := [5] } };
      Runs s.ctxcmd 2 2 ∧ (s.ctx 0).st = .dead ∧ (s.ctx 0).jheld ≠ []) ∧
    State.reset.ctxcmd.busy = false ∧
    (((commanded 0 [] .terminating).ctx 0).st = .terminating ∧ (∀ j ∈ (commanded 0 [] .terminating).jobs, j.tag ≠ (0 : BitVec 12).toNat)) ∧
    (isPad (padOf 0) = true ∧ granTag { State.reset with sptag := fset [] 0 0 } (padOf 0) = some (0 : BitVec 12).toNat) ∧
    (State.reset.ctx 0).st ≠ .terminating ∧
    (let s := { State.reset with xshoot := ⟨0, 0, 0, true, false, []⟩ }; s.xshoot.busy = true ∧ s.xshoot.going = false) ∧
    (let s := { State.reset with xshoot := ⟨0, 0, 0, true, true, []⟩ };
      s.xshoot.busy = true ∧ s.xshoot.going = true ∧ s.xshoot.held = [] ∧
      ∀ e ∈ s.cores, e.2.regs.id.tag = s.xshoot.w8.toNat % 2 ^ 12 →
        e.2.regs.task.lq = [] ∧ e.2.regs.task.sq = [] ∧ e.2.regs.outr.lq = [] ∧ e.2.regs.outr.sq = []) ∧
    State.reset.xshoot.busy = false := by
  unfold Runs GoodContext Bound
  refine ⟨?_, ?_, ?_, ?_, ?_, ?_, ?_, ?_, ?_, ?_, ?_, ?_, ?_⟩ <;> decide +kernel

/-- Queue 0 as f makes it, mapped on die 0, and the dispatcher as g makes it. -/
def queueing (f : Queue → Queue) (g : Disp → Disp) : State :=
  resident (fun s => { s with queues := fset [] 0 (f { Queue.reset with st := .idle }), disps := fset [] 0 (g Disp.reset) })

theorem witness_QueuesServeTheirPackets_define :
    (let s := commanded 0 [(2, 0x1000)] .created;
      Runs s.qcmd 0 1 ∧ (s.queue (recordOf s s.qcmd 0 / 2 ^ 12 % 2 ^ 12)).st = .undefined ∧ GoodQueue (recordOf s s.qcmd) ∧
      Bound s (recordOf s s.qcmd 0 % 2 ^ 12) ∧
      recordOf s s.qcmd 0 / 2 ^ 24 % 2 ^ 4 ≤ (s.ctx (recordOf s s.qcmd 0 % 2 ^ 12)).band.toNat) ∧
    (let s := { commanded 0 [(2, 0x1000)] .created with queues := fset [] 0 { Queue.reset with st := .idle } };
      (s.queue (recordOf s s.qcmd 0 / 2 ^ 12 % 2 ^ 12)).st ≠ .undefined) ∧
    ¬GoodQueue (recordOf (commanded 0 [(2, 1)] .created) (commanded 0 [(2, 1)] .created).qcmd) ∧
    (let s := commanded 0 [(0, 2 ^ 24), (2, 0x1000)] .created;
      GoodQueue (recordOf s s.qcmd) ∧ (s.ctx (recordOf s s.qcmd 0 % 2 ^ 12)).band.toNat < recordOf s s.qcmd 0 / 2 ^ 24 % 2 ^ 4) ∧
    ¬Bound (commanded 0 [] .free) 0 ∧
    (∀ p ∈ [0x1C, 0x1E], let s := { commanded 0 [(2, 0x1000)] .created with
        mem := Memory.write (commanded 0 [(2, 0x1000)] .created).mem 0x1000 p 4
        disps := fset [] 0 { Disp.reset with tlb := [⟨0, 1, 0, 0x103F⟩] } };
      recordProg s (recordOf s s.qcmd) = some [BitVec.ofNat 32 p] ∧
      (verify [BitVec.ofNat 32 p] (recordWins (recordOf s s.qcmd)) = 0 ↔ p = 0x1C)) ∧
    (Runs (commanded 1 [] .created).qcmd 1 1 ∧ ((commanded 1 [] .created).queue 0).pkts = [] ∧
      ((commanded 1 [] .created).queue 0).st = .undefined) ∧
    (((queueing id id).queue 0).st = .idle ∧ ((queueing id id).queue 0).mapped = false ∧ ((queueing id id).queue 0).pkts = []) := by
  unfold Runs GoodQueue Bound
  refine ⟨?_, by decide +kernel, ?_, ?_, by decide +kernel, by decide +kernel, by decide +kernel, by decide +kernel⟩
  · refine ⟨by decide +kernel, by decide +kernel, ?_, by decide +kernel⟩
    exact ⟨by decide +kernel, by rintro k (rfl | rfl | rfl) <;> decide +kernel⟩
  · rintro ⟨h, -⟩
    revert h; decide +kernel
  · refine ⟨?_, by decide +kernel⟩
    exact ⟨by decide +kernel, by rintro k (rfl | rfl | rfl) <;> decide +kernel⟩

def started : Packet := { placePacket with started := true }

theorem witness_QueuesServeTheirPackets :
    (State.reset.queue 0).st = .undefined ∧
    (let s := queueing (fun q => { q with tail := 1 }) id;
      (s.queue 0).st = .idle ∧ (s.disp (s.queue 0).home).restart = false ∧ ((1 : BitVec 32) - (s.queue 0).head).toNat ≤ 2 ^ ((s.queue 0).lsz + 4) ∧
      2 ^ ((s.queue 0).lsz + 4) < ((17 : BitVec 32) - (s.queue 0).head).toNat ∧ (s.queue 0).mapped = false ∧ (s.queue 0).deleting = false ∧
      (s.queue 0).tail ≠ (s.queue 0).head ∧ (s.ctx (s.queue 0).tag).st = .resident ∧ (s.disp (s.queue 0).home).slots.length < 16) ∧
    (let s := { queueing (fun q => { q with tail := 1 }) (fun d => { d with slots := List.range' 1 16 }) with
        queues := [(0, { Queue.reset with st := .idle, tail := 1 }), (1, { Queue.reset with st := .idle, mapped := true })] };
      16 ≤ (s.disp (s.queue 0).home).slots.length ∧ victimQueue s (s.queue 0).home = some 1 ∧
      ∀ e ∈ s.queues, e.2.home = (s.queue 0).home → e.2.mapped = true → e.2.st = .unmapping → e.2.deleting = true) ∧
    (let s := { queueing (fun q => { q with tail := 1 }) (fun d => { d with slots := List.range' 1 16 }) with
        queues := [(0, { Queue.reset with st := .idle, tail := 1 }), (1, { Queue.reset with st := .unmapping, mapped := true })] };
      16 ≤ (s.disp (s.queue 0).home).slots.length ∧
      ∃ e ∈ s.queues, e.2.home = (s.queue 0).home ∧ e.2.mapped = true ∧ e.2.st = .unmapping ∧ e.2.deleting = false) ∧
    ((queueing (fun q => { q with mapped := true }) id).queue 0).mapped = true ∧
    (let s := queueing (fun q => { q with st := .unmapping, mapped := true }) (fun d => { d with slots := [0] });
      (s.queue 0).st = .unmapping ∧ (s.queue 0).latched = []) ∧
    (let b : BitVec 128 := 1 <<< 16;
      let s := resident (fun s => { s with
        queues := fset [] 0 { Queue.reset with st := .idle, mapped := true, arm := some b }
        disps := fset [] 0 { Disp.reset with slots := [0], tlb := [⟨0, 0, 0, 0x103F⟩] }
        mem := Memory.write [] 0x1000 8 8 });
      (s.queue 0).st = .idle ∧ (s.queue 0).mapped = true ∧ (s.queue 0).deleting = false ∧ (s.queue 0).block = .none ∧
      (s.queue 0).arm = some b ∧ (s.ctx (s.queue 0).tag).jheld = [] ∧ hasRoom s 0 (s.queue 0) = true ∧ field b 16 4 = 1) ∧
    (let s := queueing (fun q => { q with mapped := true, deleting := true }) id;
      (s.queue 0).deleting = true ∧ (s.ctx (s.queue 0).tag).jheld = []) ∧
    (((queueing id id).queue 0).mapped = false ∧ ((queueing id id).ctx ((queueing id id).queue 0).tag).jheld = []) ∧
    (let s := queueing (fun q => { q with st := .ready, mapped := true, cur := some 0, pkts := [started] }) (fun d => { d with slots := [0] });
      (s.disp (0 : DieId).toNat).run = none ∧ (s.disp (0 : DieId).toNat).restart = false ∧ (s.queue 0).home = (0 : DieId).toNat ∧
      (s.queue 0).cur = some 0 ∧ (s.queue 0).packet 0 = some started ∧ started.started = true ∧ nextQueue s (0 : DieId).toNat = some 0) ∧
    nextQueue State.reset 0 = none ∧
    (let s := { queueing id id with queues := [(0, { Queue.reset with st := .ready, mapped := true }), (1, { Queue.reset with
        st := .ready, mapped := true, band := 1 })] };
      s.queues = [(0, s.queue 0), (1, s.queue 1)] ∧ (s.queue 0).home = 0 ∧ (s.queue 1).home = 0 ∧ (s.queue 0).st = .ready ∧
      (s.queue 0).band < (s.queue 1).band) ∧
    (let s := queueing (fun q => { q with st := .blocked, mapped := true, block := .wake, wakep := true }) id;
      (s.queue 0).st = .blocked ∧ (s.queue 0).mapped = true ∧ (s.queue 0).block = .wake ∧ (s.queue 0).wakep = true) ∧
    (let s := queueing (fun q => { q with st := .blocked, mapped := true, block := .park 0x10000 }) id;
      0x10000 < 2 ^ 60 ∧ podOf s 0x10000 = none ∧ (s.queue 0).block = .park 0x10000 ∧ (Memory.read s.mem 0x10000 8).testBit 0 = true ∧ (Memory.read s.mem 0x10000 8).testBit 1 = false) ∧
    (let s := { queueing (fun q => { q with st := .blocked, mapped := true, block := .barrier 0x100 (2 ^ 32 - 1) }) id with
        bars := fset [] 0 { Barrier.reset with phase := 0 } };
      (s.queue 0).block = .barrier 0x100 (2 ^ 32 - 1) ∧ barrierIndex 0x100 = some 0 ∧ farBar s 0x100 = false ∧ (s.bar 0).phase.toNat = (2 ^ 32 - 1 + 1) % 2 ^ 32) ∧
    (queueing (fun q => { q with st := .blocked, mapped := true, block := .wake }) id).queue 0 =
      { Queue.reset with st := .blocked, mapped := true, block := .wake } := by
  refine ⟨?_, ?_, ?_, ?_, ?_, ?_, ?_, ?_, ?_, ?_, ?_, ?_, ?_, ?_, ?_, ?_⟩ <;> decide +kernel

/-- QCMD deletes queue 0, in a state and mapped or not. -/
def deleting (st : QueueSt) (mapped : Bool) : State :=
  { queueing (fun q => { q with st := st, mapped := mapped, pkts := [started] }) id with qcmd := ⟨0, 1, 0, true, false, []⟩ }

theorem witness_QueuesServeTheirPackets_delete :
    ∀ x ∈ [(QueueSt.failed, false), (.dead, false), (.idle, false), (.idle, true), (.blocked, true), (.ready, true), (.running, true),
      (.unmapping, true), (.blocked, false)],
      Runs (deleting x.1 x.2).qcmd 1 1 ∧ (deleting x.1 x.2).qcmd.w8.toNat / 2 % 2 ^ 12 = 0 ∧
      ((deleting x.1 x.2).queue 0).st = x.1 ∧ ((deleting x.1 x.2).queue 0).mapped = x.2 := by
  unfold Runs; decide +kernel

/-! ## Copy engines and the rescheduler -/

/-- Channel 0 of context 0 as f makes it; the engines of die 0 translate the first 4 MiB to themselves, and may reach memory. -/
def engined (f : Chan → Chan) : State :=
  { State.reset with
    chans := fset [] 0 (f Chan.reset)
    etlb := fset [] 0 [⟨0, 0, 10, 0x3F⟩]
    acctab := fset (fset [] 0 (BitVec.allOnes 32)) (3 * 4096) (BitVec.allOnes 32)
    now := 10 ^ 9 }
/-- A command of core 0 that produces token 5; the word of a template in memory, and of the shadow. -/
def aCmd (w : Word) : Cmd := ⟨w, false, some 0, (0, 0), none, 9, 0x1000, 5, 0, none, none, 0, none, 0, []⟩
def makes : Word := BitVec.ofNat 64 (2 ^ 33 * (64 + 5) + 2 ^ 40 * 3)
def headed (m : Cmd) : State :=
  { engined (fun c => { c with cmds := [m, aCmd 0] }) with
    cores := fset [] 0 { (State.reset.core 0) with regs := { (State.reset.core 0).regs with
      tok := vset (State.reset.core 0).regs.tok 5 ⟨.pending, 9⟩ } } }
/-- A copy of 64 bytes of type 4 from 0x2000 to 0x3000, with its stamp at 0x4000. -/
def aTmpl : Tmpl :=
  BitVec.ofNat 1024 ([4 * 2 ^ 4 + 4 * 2 ^ 9, 0x2000, 0x3000, 0x4000, 64 + 2 ^ 32, 64, 64].foldr (fun w a => w + 2 ^ 64 * a) 0)
def commanding (units : List Nat) : Req StOp := { storeReq (.go true (some 5) 9) 8 with units := units }

def ended (code : Nat) : Cmd := { aCmd makes with tmpl := some aTmpl, result := some code }

theorem stampsAt_ended : ∀ code ∈ [0, 1, 0x0C, 0xFF], StampsAt (headed (ended code)) 0 (ended code) 0x4000 := by
  have h : ∀ code ∈ [0, 1, 0x0C, 0xFF], (stampAddr (headed (ended code)) (0 : BitVec 9).toNat (ended code) = some 0x4000 ∧ 0x4000 % 8 = 0 ∧
      engineLook (headed (ended code)) (0 : BitVec 9).toNat 1 true 0x4000 = .ok 0x4000) ∧
      (∀ k < 8, inMemory (0x4000 + k) = true ∧ podOf (headed (ended code)) (0x4000 + k) = none) ∧
      ∀ i < 8, reservedPa (headed (ended code)) (0x4000 + i) = false := by decide +kernel
  exact fun code hc => ⟨⟨_, (h code hc).1⟩, (h code hc).2.1, (h code hc).2.2⟩

theorem witness_CopyEngines_CopyCommands :
    (let r := commanding [engBase]
     let s := { engined id with cores := (performing r).cores };
      CommandReady s 0 0 r true (some 5) 9 ∧ (s.chan (chanOf (r.units.getD 0 0))).tag = (regsOf s 0).id.tag ∧
      hasRight s (regsOf s 0).id.tag 0 3 3 = true ∧ (s.chan (chanOf (r.units.getD 0 0))).cmds.length < 8) ∧
    (let r := commanding [engBase]
     let s := { engined (fun c => { c with cmds := List.replicate 8 (aCmd 0) }) with cores := (performing r).cores };
      CommandReady s 0 0 r true (some 5) 9 ∧ 8 ≤ (s.chan (chanOf (r.units.getD 0 0))).cmds.length) ∧
    (let r := commanding [engBase]
     let s := { engined (fun c => { c with tag := 1 }) with cores := (headed (aCmd 0)).cores }
     let s := s.modCore 0 (fun c => { c with regs := { c.regs with task := { c.regs.task with bn := 1, sq := [r] } } });
      CommandReady s 0 0 r true (some 5) 9 ∧ (s.chan (chanOf (r.units.getD 0 0))).tag ≠ (regsOf s 0).id.tag ∧
      vget (regsOf s 0).tok 5 Token.reset = ⟨.pending, 9⟩) ∧
    (let s := { engined id with disps := fset [] 0 { Disp.reset with copies := [(0, makes, 0, 0)] } };
      (s.disp (0 : DieId).toNat).copies = [(0, makes, 0, 0)] ∧ (s.chan 0).cmds.length < 8 ∧ makes.toNat % 2 ^ 12 ≠ 0xFFF) ∧
    (State.reset.chan (0 : BitVec 9).toNat).cmds = [] ∧
    (let m := aCmd (BitVec.ofNat 64 (2 ^ 12 * 64));
      HeadOf (headed m) 0 m [aCmd 0] ∧ NoneFar (headed m) ∧ m.tmpl = none ∧ m.result = none ∧ m.park = none ∧
      ∃ e ∈ consumed m.word, m.seen.getLsbD e.1 = false) ∧
    (∀ c ∈ [0, 0xFFF], let m := aCmd (BitVec.ofNat 64 (2 ^ 33 * (64 + 5) + c));
      HeadOf (headed m) 0 m [aCmd 0] ∧ (∀ e ∈ consumed m.word, m.seen.getLsbD e.1 = true) ∧ m.tbase.toNat % 128 = 0) ∧
    (let s := headed (aCmd makes);
      engineLook s 0 0 false (((aCmd makes).tbase.toNat + 128 * ((aCmd makes).word.toNat % 2 ^ 12)) % 2 ^ 64) = .ok 0x1000 ∧
      PlainBytes s 0x1000 128 ∧ (∀ i < 128, reservedPa s (0x1000 + i) = false) ∧ poisoned s 0x1000 = false) := by
  unfold CommandReady HeadOf PlainBytes NoneFar
  refine ⟨?_, ?_, ?_, ?_, ?_, ?_, ?_, ?_⟩ <;> decide +kernel

theorem witness_CopyEngines_CopyCommands_complete :
    (let m := { aCmd makes with tmpl := some aTmpl };
      HeadOf (headed m) 0 m [aCmd 0] ∧ payloadLook (headed m) (0 : BitVec 9).toNat aTmpl = .ready ∧
      payloadFar (headed m) (0 : BitVec 9).toNat aTmpl = none ∧ aTmpl.empty = false) ∧
    (Memory.wf (headed (aCmd 0)).mem = true ∧ aTmpl.kind = 0 ∧ aTmpl.st = 4 ∧ aTmpl.dt = 4 ∧ aTmpl.kd = 0 ∧ aTmpl.rm = 0 ∧ aTmpl.n0 = 64 ∧
      aTmpl.n1 = 1 ∧ aTmpl.src + 64 ≤ 2 ^ 60 ∧ aTmpl.dst + 64 ≤ 2 ^ 60 ∧
      (∀ k < 64, engineLook (headed (aCmd 0)) 0 0 false (aTmpl.src + k) = .ok (0x2000 + k) ∧
        engineLook (headed (aCmd 0)) 0 1 false (aTmpl.dst + k) = .ok (0x3000 + k)) ∧
      PlainBytes (headed (aCmd 0)) 0x2000 64 ∧ PlainBytes (headed (aCmd 0)) 0x3000 64 ∧
      ∀ k < 64, Memory.get (headOld (headed (aCmd 0)) 0) (0x2000 + k) = Memory.get (headed (aCmd 0)).mem (0x2000 + k)) ∧
    (∀ code ∈ [0, 1, 0x0C, 0xFF], let m := ended code;
      HeadOf (headed m) 0 m [aCmd 0] ∧ StampsAt (headed m) 0 m 0x4000 ∧ Memory.wf (headed m).mem = true ∧ OwnsToken (headed m) 0 5 m) ∧
    (let m := { aCmd makes with park := some 0x5000, tbase := 2 ^ 60 };
      HeadOf (headed m) 0 m [aCmd 0] ∧ m.park.isSome = true ∧ m.limit ≠ 0 ∧ m.packet = none ∧
      m.parked + m.limit * 1000000 ≤ (headed m).now ∧ m.result = none ∧ m.tmpl = none ∧ m.marker = false ∧
      (match tmplLook (headed m) (0 : BitVec 9).toNat m with | .fail _ => true | _ => false) = true ∧ OwnsToken (headed m) 0 5 m) ∧
    (let m := { aCmd makes with park := some 0x5000, tbase := 0x7F000000 };
      HeadOf (headed m) 0 m [aCmd 0] ∧
      (match tmplLook (headed m) (0 : BitVec 9).toNat m with | .park _ _ => true | _ => false) = true) ∧
    (let m := { ended 4 with park := some 0x5000 };
      HeadOf (headed m) 0 m [aCmd 0] ∧ m.park.isSome = true ∧ m.limit ≠ 0 ∧ m.packet = none ∧
      m.parked + m.limit * 1000000 ≤ (headed m).now ∧ OwnsToken (headed m) 0 5 m) ∧
    (let m := { aCmd makes with park := some 0x5000, limit := 5000 };
      HeadOf (headed m) 0 m [aCmd 0] ∧ (headed m).now < m.parked + m.limit * 1000000) := by
  unfold HeadOf OwnsToken
  refine ⟨by decide +kernel, by unfold PlainBytes; decide +kernel, fun code h => ⟨rfl, stampsAt_ended code h, ?_⟩, by decide +kernel,
    by decide +kernel, by decide +kernel, by decide +kernel⟩
  revert code; decide +kernel

/-- The same with a template of an unknown kind; with the first GiB of HBM a window on module 1. -/
def badTmpl : Tmpl := aTmpl ||| 9
def failing : Cmd := { aCmd makes with tmpl := some badTmpl }
def farHead : State :=
  { headed { aCmd makes with tmpl := some aTmpl } with
    podwin := fset [] 0 ⟨true, 0, 0, 1, 0⟩
    links := fset [] 35 { Link.reset with st := .up }
    route := fset [] 1 ⟨1 <<< 35, 0, false⟩ }

theorem witness_CopyEngines_CopyCommands_far :
    (HeadOf farHead 0 { aCmd makes with tmpl := some aTmpl } [aCmd 0] ∧ payloadLook farHead (0 : BitVec 9).toNat aTmpl = .ready ∧
      ∃ l, payloadFar farHead (0 : BitVec 9).toNat aTmpl = some (false, l)) ∧
    (HeadOf (headed failing) 0 failing [aCmd 0] ∧ NoneFar (headed failing) ∧ StampsAt (headed failing) 0 failing 0x4000 ∧
      tmplFault (headed failing) 0 badTmpl = some 6 ∧ Memory.wf (headed failing).mem = true) ∧ ∀ m, NoneFar (headed m) := by
  have h : (HeadOf farHead 0 { aCmd makes with tmpl := some aTmpl } [aCmd 0] ∧ payloadLook farHead (0 : BitVec 9).toNat aTmpl = .ready ∧
      payloadFar farHead (0 : BitVec 9).toNat aTmpl = some (false, [64])) := by unfold HeadOf; decide +kernel
  have g : (stampAddr (headed failing) (0 : BitVec 9).toNat failing = some 0x4000 ∧ 0x4000 % 8 = 0 ∧
      engineLook (headed failing) (0 : BitVec 9).toNat 1 true 0x4000 = .ok 0x4000) ∧
      (∀ i < 8, reservedPa (headed failing) (0x4000 + i) = false) ∧ tmplFault (headed failing) 0 badTmpl = some 6 := by decide +kernel
  exact ⟨⟨h.1, h.2.1, _, h.2.2⟩, ⟨rfl, ⟨rfl, rfl⟩, ⟨⟨_, g.1⟩, plainBytes_low rfl (by decide), g.2.1⟩, g.2.2, by decide +kernel⟩, fun _ => ⟨rfl, rfl⟩⟩

/-- A template of kind k from type st to dt, w elements a row in r rows, with the fields of its kind in words 8 and 9. -/
def tmplOf (k st dt kd w r : Nat) (l : List Nat) : Tmpl :=
  BitVec.ofNat 1024 (([k + 2 ^ 4 * st + 2 ^ 9 * dt + 2 ^ 27 * kd, 0x2000, 0x10000, 0, w + 2 ^ 32 * r, 0x1000, 0x1000, 0] ++ l).foldr
    (fun w a => w + 2 ^ 64 * a) 0)

theorem witness_CopyEngines_CopyValues :
    (∀ x ∈ [(0, 4, 4), (0, 8, 7), (1, 2, 2), (2, 4, 2), (3, 8, 8)],
      let t := tmplOf x.1 x.2.1 x.2.2 0 4 4 [0, 0x400000004];
      WholeElements t ∧ t.kd = 0 ∧ t.empty = false ∧ t.kind = x.1 ∧ 3 < t.rows ∧ 3 < t.cols) ∧
    ((tmplOf 3 8 8 0 4 4 []).ns = 0 ∧ (tmplOf 3 2 2 4 4 4 []).ns = 1 ∧ (tmplOf 3 2 2 4 4 4 []).st = 2 ∧ (tmplOf 3 2 2 4 4 4 []).dt = 2) ∧
    (let t := tmplOf 0 8 22 0 64 2 []; t.kind = 0 ∧ t.kd = 0 ∧ t.st = 8 ∧ t.dt = 22 ∧ t.empty = false ∧ t.n0 % 32 = 0 ∧ 1 < t.n1 ∧
      1 < t.n0 / 32) ∧
    (∀ k ∈ [1, 2], let t := tmplOf 0 4 4 k 4096 2 []; t.kind = 0 ∧ t.st = 4 ∧ t.dt = 4 ∧ t.kd = k ∧ t.empty = false ∧ t.n0 % 4096 = 0 ∧
      1 < t.n1 ∧ 4095 < t.n0 ∧ ∀ r < t.n1, rowAddr t.src t.ss r % 4096 = 0 ∧ rowAddr t.dst t.ds r % 4096 = 0) := by
  unfold WholeElements; decide +kernel

def aJob : Job := ⟨0, 0, 0x1, 0x2000, 0x1003, false⟩
/-- The job of die 0 on a page in the frame at 0x1000, with the header h and one empty bundle. -/
def jobbed (st : CtxSt) (h : Nat) : State :=
  { State.reset with
    mem := Memory.write [] 0x1000 h 64
    jobs := [aJob]
    acctab := fset [] 0 (BitVec.allOnes 32)
    ctxs := fset [] 0 { (State.reset.ctx 0) with st := st } }
/-- A header of generation 5, one landing, one bundle, with shadows. -/
def aHeader : Nat := 0x5043 + 0x50 * 2 ^ 16 + 0x50 * 2 ^ 24 + 2 ^ 32 + 2 ^ 40 + 2 ^ 48 + 2 * 2 ^ 192

theorem witness_Rescheduling :
    (∀ j ∈ State.reset.jobs, j.die ≠ (0 : DieId).toNat) ∧
    (∀ (st : CtxSt) (h : Nat), let s := jobbed st h;
      OnlyJob s 0 aJob ∧ PlainBytes s aJob.entry 8 ∧ PlainBytes s (frameOf aJob) 4096 ∧
      frameOf aJob + 4096 ≤ aJob.entry ∧ (∀ e ∈ s.cores, e.2.susp = [])) ∧
    (∀ h ∈ [aHeader, checked aHeader [0]], Memory.wf (jobbed .resident h).mem = true) ∧
    (shootBusy ⟨aJob.tag, aJob.page, 1⟩ (jobbed .resident aHeader) = false ∧
      shootBusy ⟨aJob.tag, aJob.page, 1⟩ ((jobbed .resident aHeader).modCore 0 (fun c => c.modRegs (fun r =>
        { r with run := .running, task := { r.task with lq := [aReq .plain] } }))) = true) ∧
    ¬Bound (jobbed .terminating aHeader) aJob.tag ∧
    (let s := jobbed .resident aHeader;
      Bound s aJob.tag ∧ headerOf s aJob / 2 ^ 16 % 2 ^ 8 ≠ 0x51 ∧ headerOf s aJob / 2 ^ 35 % 2 = 0 ∧ (∀ k < 32, poisoned s (frameOf aJob + 128 * k) = false) ∧
      headerOf s aJob / 2 ^ 480 ≠ headerCheck (headerOf s aJob) (pageBundles s (frameOf aJob) (headerOf s aJob))) ∧
    (let s := jobbed .resident (checked aHeader [0])
     let runs := (pageRuns s (frameOf aJob) (headerOf s aJob)).map stretchRun;
      Bound s aJob.tag ∧ headerOf s aJob / 2 ^ 16 % 2 ^ 8 ≠ 0x51 ∧ headerOf s aJob / 2 ^ 35 % 2 = 0 ∧ (fget RsPool.reset s.rspool aJob.tag).compact = false ∧
      runs.flatten.length ≤ 126 ∧ 0 < runs.flatten.length ∧
      jobWhy s aJob (frameOf aJob) (headerOf s aJob) [runs.flatten] = none) := by
  unfold OnlyJob Bound
  exact ⟨by decide +kernel, fun st h => ⟨⟨rfl, by decide⟩, plainBytes_low rfl (by decide +kernel),
    plainBytes_low rfl (by decide +kernel), by decide +kernel, fun _ h => absurd h (List.not_mem_nil)⟩,
    by decide +kernel, by decide +kernel, by decide +kernel, by decide +kernel, by decide +kernel⟩

/-! ## Interrupts, barriers and links -/

def vectored (f : Irq → Irq) : State := { State.reset with irqs := fset [] 0 (f Irq.reset), now := 10 ^ 7 }

theorem witness_InterruptVectors :
    (∀ k ∈ [false, true], let o := (vectored (fun o => { o with pend := 3, masked := k })).irq (0 : BitVec 11).toNat;
      (o.pend ≠ 0 ∧ max 1 ((3 : BitVec 32).toNat % 2 ^ 8) ≤ o.pend.toNat ∧ o.masked = k) ∧
      o.pend.toNat < max 1 ((4 : BitVec 32).toNat % 2 ^ 8)) ∧
    (∀ k ∈ [false, true], let o := (vectored (fun o => { o with pend := 1, tmax := 10, masked := k })).irq (0 : BitVec 11).toNat;
      o.tmax ≠ 0 ∧ o.pend ≠ 0 ∧ o.first + o.tmax.toNat * 1000000 ≤ (vectored id).now ∧ o.masked = k) ∧
    ((State.reset.irq (0 : BitVec 11).toNat).tmax = 0 ∧ (State.reset.irq (0 : BitVec 11).toNat).pend = 0) ∧
    (let o := (vectored (fun o => { o with pend := 1, tmax := 11 })).irq (0 : BitVec 11).toNat;
      (vectored id).now < o.first + o.tmax.toNat * 1000000) := by decide +kernel

/-- An arrival of core 0 at barrier 0, whose name is 0x100, armed in arrival entry 15. -/
def arriving : Arrival := ⟨.arrival, 0x100, 0, 0, 0, 0, 7, none, some (15, 2), none, 0, none⟩
def meeting (f : Barrier → Barrier) : State :=
  { withRegs (fun r => { r with arr := vset r.arr 15 ⟨true, 0x100, some 4, 0, none, none, 2⟩ }) with
    bars := fset [] 0 (f { Barrier.reset with on := true, cnt := 2, phase := 3 })
    arrivals := [arriving] }

theorem witness_Barriers_BarrierHomes :
    ((meeting id).arrivals[(0 : BitVec 16).toNat]? = some arriving ∧ arriving.name / 2 ^ 8 % 2 ^ 3 ≠ 4 ∧ State.reset.podmod = 0 ∧
      arriving.module = State.reset.podmod.toNat ∧ arriving.what = .arrival ∧ barrierIndex arriving.name = some 0 ∧ barrierIndex 0x400 = some 41216) ∧
    (∀ k ∈ [0, 1], let x := (meeting (fun b => { b with arrived := k })).bar 0;
      arriving.tag = x.tag ∧ x.on = true ∧ x.fail = false ∧ x.gm = false ∧ x.arrived + 1 < 2 ^ 24 ∧
      (if k = 0 then x.arrived + 1 < x.cnt.toNat else x.cnt.toNat ≤ x.arrived + 1)) ∧
    (let e := vget ((meeting id).core arriving.core).regs.arr 15 ArrEntry.reset;
      arriving.entry = some (15, 2) ∧ e.armed = true ∧ e.serial = 2 ∧ e.name = nameOfBarrier 0 ∧
      fget? (meeting id).cores 0 = some ((meeting id).core 0)) ∧
    (arriving.tag ≠ ((meeting (fun b => { b with tag := 1 })).bar 0).tag ∧ ((meeting (fun b => { b with on := false })).bar 0).on = false ∧
      ((meeting (fun b => { b with fail := true })).bar 0).fail = true) ∧
    (State.reset.arrivals[(0 : BitVec 16).toNat]? = none ∧ State.reset.news[(0 : BitVec 16).toNat]? = none) ∧
    (∀ f ∈ [none, some 6], let x : News := ⟨0, 0x100, 4, f⟩
      let s := { meeting id with news := [x] };
      s.news[(0 : BitVec 16).toNat]? = some x ∧ (∀ y ∈ s.news.take (0 : BitVec 16).toNat, ¬(y.core = x.core ∧ y.name = x.name)) ∧
      (vget (s.core x.core).regs.arr 15 ArrEntry.reset).armed = true ∧ (vget (s.core x.core).regs.arr 15 ArrEntry.reset).name = x.name ∧
      (vget (s.core x.core).regs.arr 15 ArrEntry.reset).taken = some x.phase) ∧
    ((41279 : BitVec 16).toNat < 41280 ∧ 41280 ≤ (41280 : BitVec 16).toNat ∧ (0 : Word).getLsbD 25 = false ∧
      (0x2000000 : Word).getLsbD 25 = true ∧ (State.reset.bar 41279).on = false ∧ ((meeting (fun b => { b with fail := true })).bar 0).on = true) ∧
    ((meeting (fun b => { b with fail := true })).bar 0).mods = [] ∧ (State.reset.bar 0).mods = [] ∧
    ((0x2000001 : Word).getLsbD 25 = true ∧ (0x2000001 : Word).getLsbD 24 = false ∧ (0x2000001 : Word).toNat % 2 ^ 24 ≠ 0) ∧
    (let x := fget Port.reset (fset [] 0 (⟨0x100, 0, true, 0⟩ : Port)) (0 : BitVec 13).toNat;
      x.en = true ∧ barrierIndex x.name = some 0) ∧
    ((fget Port.reset State.reset.ports (0 : BitVec 13).toNat).en = false ∧ barrierIndex 0x500 = none) := by
  refine ⟨?_, ?_, ?_, ?_, ?_, ?_, ?_, ?_, ?_, ?_, ?_, ?_⟩ <;> decide +kernel

/-- An arrival on its way to a pod barrier of module 0; a wait that has failed. -/
def farArrival : State := { State.reset with podmod := 1, arrivals := [{ arriving with name := 0x400, module := 1 }] }
def failed (k : Nat) : State :=
  { withRegs (fun r => { r with
      run := .running
      hold := some ⟨0, 100, 0, 0⟩
      arr := vset r.arr 0 ⟨true, 0x100, some 4, 4, none, if k = 0 then none else some 6, 0⟩
      task := { r.task with bq := [cBundle 0x18 (100 * 64)], waits := true } }) with
    news := [⟨0, 0x100, 5, none⟩] }

theorem witness_Barriers_BarrierHomes_more :
    (∃ a, farArrival.arrivals[(0 : BitVec 16).toNat]? = some a ∧ a.what = .arrival ∧ farBar farArrival a.name = true) ∧
    (failsNow ((failed 1).core 0) 0x100 = true ∧ failsNow ((failed 0).core 0) 0x100 = false) ∧
    (let s := (meeting id).modQueue 0 (fun x => { x with block := .barrier (nameOfBarrier 0) 3 });
      (s.bar 0).on = true ∧ (s.queue 0).block = .barrier (nameOfBarrier 0) (s.bar 0).phase.toNat) := by
  refine ⟨⟨{ arriving with name := 0x400, module := 1 }, by decide +kernel⟩, by decide +kernel, by decide +kernel⟩

/-- A task of node 0 arrives at barrier 0, which is in gang mode; the node as g makes it. -/
def ganging (f : Barrier → Barrier) (g : Node → Node) (a : Arrival) : State :=
  { meeting (fun b => f { b with gm := true }) with arrivals := [a], nodes := fset [] 0 (g { aNode with cores := [0, 1, 2] }) }
def ofNode : Arrival := { arriving with node := some 0 }

theorem witness_Barriers_BarrierGangs :
    (let s := ganging id id ofNode;
      s.arrivals[(0 : BitVec 16).toNat]? = some ofNode ∧ farBar s ofNode.name = false ∧ ofNode.module = s.podmod.toNat ∧
      ofNode.what = .arrival ∧ ofNode.away = none ∧ barrierIndex ofNode.name = some 0 ∧ ofNode.node = some 0 ∧ (0 : Nat) < 2 ^ 37 ∧
      ofNode.tag = (s.bar 0).tag ∧ (s.bar 0).on = true ∧ (s.bar 0).fail = false ∧ (s.bar 0).gm = true ∧ (s.bar 0).arrived + 1 < 2 ^ 24) ∧
    (((ganging id (fun x => { x with cores := [0] }) ofNode).node 0).gang = false ∧ ((ganging id id ofNode).node 0).gang = true ∧
      ((ganging (fun b => { b with node := some 1 }) id ofNode).bar 0).node = some 1) ∧
    (∀ n ∈ [none, some 0], ∀ k ∈ [3, 4], let s := ganging (fun b => { b with node := n, arrived := k }) id ofNode
      let e := (s.node 0).tasks - (s.node 0).left + (s.bar 0).cnt.toNat;
      (s.bar 0).node = n ∧ (s.node 0).ended < (s.node 0).tasks ∧ (if k = 3 then (s.bar 0).arrived + 1 < e else e ≤ (s.bar 0).arrived + 1)) ∧
    (let s := ganging id (fun x => { x with ended := 3 }) ofNode;
      (s.bar 0).node = none ∧ (s.node 0).tasks ≤ (s.node 0).ended ∧ (s.bar 0).arrived + 1 < (s.bar 0).cnt.toNat) ∧
    (arriving.node = none ∧ ((ganging id id arriving).bar 0).arrived + 1 < ((ganging id id arriving).bar 0).cnt.toNat) ∧
    (∀ k ∈ [4, 5], let s := ganging (fun b => { b with node := some 0, arrived := k }) id ofNode;
      (s.bars.map Prod.fst).Nodup ∧ (s.bar 0).node = some 0 ∧
      (if k = 5 then (s.node 0).tasks - (s.node 0).left + (s.bar 0).cnt.toNat ≤ (s.bar 0).arrived
        else (s.bar 0).arrived < (s.node 0).tasks - (s.node 0).left + (s.bar 0).cnt.toNat)) ∧
    (∀ w ∈ [ArrKind.ended, .leave], ∀ n ∈ [none, some (2 ^ 37 + 1)],
      let a : Arrival := { arriving with what := w, node := some (2 ^ 37 + 1), module := 1, away := some (true, 2) }
      let s := ganging (fun b => { b with node := n, arrived := 3 }) id a;
      s.arrivals[(0 : BitVec 16).toNat]? = some a ∧ farBar s a.name = false ∧ (s.arrivals.take (0 : BitVec 16).toNat) = [] ∧
      a.node = some (2 ^ 37 + 1) ∧ (s.bar 0).node = n ∧ 2 ^ 37 ≤ 2 ^ 37 + 1 ∧ a.away = some (true, 2) ∧ (s.bar 0).on = true ∧
      (s.bar 0).fail = false ∧ (s.bar 0).gm = true ∧ (s.bar 0).arrived < 2 + (s.bar 0).cnt.toNat ∧ 1 + (s.bar 0).cnt.toNat ≤ (s.bar 0).arrived) := by
  refine ⟨?_, ?_, ?_, ?_, ?_, ?_, ?_⟩ <;> decide +kernel

/-- Port 35 as f makes it, at module time now. -/
def linked (now : Nat) (f : Link → Link) : State := { State.reset with links := fset [] 35 (f Link.reset), now := now }
/-- A flit as its sender's port seals it, of class 0, 1 or 2. -/
def aFlit (kind dst : Nat) : Flit := sealFlit Link.reset (newFlit 0 dst 1 0 0 0 kind 0)
def port35 : BitVec 6 := 35

theorem witness_LinkPorts :
    (36 ≤ (36 : BitVec 6).toNat ∧ port35.toNat < 36) ∧
    ((State.reset.link port35.toNat).st = .down ∧ (State.reset.link port35.toNat).replay = [] ∧
      (State.reset.link port35.toNat).out = [] ∧ State.reset.podheld = [] ∧ State.reset.podwin = []) ∧
    (let x := (linked 0 (fun x => { x with st := .isolated, en := true })).link port35.toNat; x.st = .isolated ∧ x.en = true) ∧
    (∀ m ∈ [(0 : BitVec 2), 1, 2], let x := (linked 0 (fun x => { x with st := .training, minw := m })).link port35.toNat;
      x.st = .training ∧ x.minw = m ∧ 0 < x.since + 10000000000) ∧
    (let s := linked 10000000000 (fun x => { x with st := .training });
      (s.link port35.toNat).st = .training ∧ (s.link port35.toNat).since + 10000000000 ≤ s.now) ∧
    (∀ st ∈ [LinkSt.up, .degraded], let x := (linked 0 (fun x => { x with st := st })).link port35.toNat;
      (x.st = .up ∨ x.st = .degraded) ∧ x.retrains = [] ∧ x.replays = []) ∧
    (∃ a b, ((linked 999999999999 (fun x => { x with st := .up, retrains := [0, 5] })).link port35.toNat).retrains = [a, b] ∧
      999999999999 < a + 1000000000000 ∧ 999999999999 < b + 1000000000000) ∧
    (let x := (linked 0 (fun x => { x with st := .retraining })).link port35.toNat;
      x.st = .retraining ∧ 199999999 < x.since + 200000000 ∧ x.since + 200000000 ≤ 200000000 ∧ x.out = []) ∧
    (∀ k ∈ [0, 3, 6], flitOk (aFlit k 0) = true ∧ (Flit.cls (aFlit k 0) = 0 ∨ Flit.cls (aFlit k 0) = 1 ∨ Flit.cls (aFlit k 0) = 2)) ∧
    (let x := (linked 0 (fun x => { x with st := .up })).link port35.toNat
     let y := (linked 0 (fun x => { x with st := .up, wantSeq := 1 })).link port35.toNat;
      Flit.lseq (aFlit 3 0) ≠ y.wantSeq ∧ Flit.lseq (aFlit 3 0) = x.wantSeq ∧ Flit.cls (aFlit 3 0) = 1 ∧ x.out = [] ∧ Flit.kind (aFlit 6 0) = 6 ∧ Flit.lseq (aFlit 6 0) = x.wantSeq ∧
      Flit.dst (aFlit 6 0) = State.reset.podmod.toNat ∧ Flit.dst (aFlit 3 0) = State.reset.podmod.toNat) ∧
    (let q : PodReq := ⟨Flit.tid (aFlit 3 0), Flit.src (aFlit 3 0), 0, 0, [], .access 0 false false 5 0, none⟩;
      q.isOwn = true ∧ q.ans = none ∧ Flit.kind (aFlit 3 0) = q.kind + 3 ∧ q.who ≠ .gone) ∧
    (flitOk (aFlit 3 0 ^^^ 1) = false ∧ flitOk (newFlit 0 0 1 0 0 0 10 0) = false) ∧
    (let x := (linked 0 (fun x => { x with st := .up, replay := [aFlit 3 0] })).link port35.toNat;
      x.replays = [] ∧ x.replay = [aFlit 3 0] ∧ (Flit.lseq (aFlit 3 0) - (0 : BitVec 16)).toNat < 32768) ∧
    (let v : Word := BitVec.ofNat 64 (1 + 2 ^ 42 + 2 ^ 41)
     let s := { State.reset with podwin := fset [] 0 { PodWin.reset with mod := 1, rbase := 2 ^ 42 } };
      v.getLsbD 0 = true ∧ v.toNat / 2 % 2 ^ 5 ≤ 11 ∧ 2 ^ 42 + s.flash.tier ≤ v.toNat / 2 ^ 30 % 2 ^ 22 * 2 ^ 30 ∧
      v.toNat / 2 ^ 30 % 2 ^ 22 * 2 ^ 30 + 2 ^ 30 ≤ 2 ^ 43 ∧ (fget PodWin.reset s.podwin (0 : BitVec 6).toNat).mod ≠ s.podmod.toNat ∧
      ∀ e ∈ s.podwin, e.1 ≠ (0 : BitVec 6).toNat → e.2.en = false) := by
  refine ⟨?_, ?_, ?_, ?_, ?_, ?_, ⟨0, 5, ?_⟩, ?_, ?_, ?_, ?_, ?_, ?_, ?_⟩ <;> decide +kernel

theorem witness_LinkPorts_flits :
    (∀ k ∈ [0, 1], let x : Link := { Link.reset with st := .up, out := [aFlit 3 0], credits := vset Link.reset.credits 2 k };
      x.st.usable = true ∧ x.out = [aFlit 3 0] ∧ Flit.cls (aFlit 3 0) ≤ 2 ∧ x.replay.length < 512 ∧ vget x.credits (chanIx (aFlit 3 0)) 0 = k) ∧
    (Link.reset.st.usable = false ∧ 512 ≤ (List.replicate 512 (aFlit 3 0)).length) ∧
    (Flit.dst (aFlit 0 0) = State.reset.podmod.toNat ∧ Flit.kind (aFlit 0 0) ≤ 2 ∧ Flit.dst (aFlit 0 1) ≠ State.reset.podmod.toNat ∧
      Flit.hop (aFlit 0 1) = 0 ∧ Flit.hop (newFlit 1 1 1 0 0 0 0 0) = 1 ∧ Flit.dst (newFlit 1 1 1 0 0 0 0 0) ≠ State.reset.podmod.toNat ∧
      Flit.kind (aFlit 0 0) = 0 ∧ requestOk State.reset (aFlit 1 0) = false) ∧
    (let v : Word := BitVec.ofNat 64 (1 + 2 ^ 42 + 2 ^ 41)
     let s := { State.reset with podwin := fset (fset [] 0 { PodWin.reset with mod := 1, rbase := 2 ^ 42 }) 1 ⟨true, 0, 2 ^ 42 + 2 ^ 41, 2, 0⟩ };
      v.getLsbD 0 = true ∧ ¬(∀ e ∈ s.podwin, e.1 ≠ (0 : BitVec 6).toNat → e.2.en = true →
        v.toNat / 2 ^ 30 % 2 ^ 22 * 2 ^ 30 + 2 ^ 30 ≤ e.2.lbase ∨ e.2.lbase + 2 ^ (e.2.sz + 30) ≤ v.toNat / 2 ^ 30 % 2 ^ 22 * 2 ^ 30)) := by
  refine ⟨?_, ?_, ?_, ?_⟩ <;> decide +kernel


/-! ## Errors, debug, the host -/

/-- Context 0 is running; its core 0 runs a task. -/
def bound (f : State → State) : State :=
  f ({ State.reset with ctxs := fset [] 0 { (State.reset.ctx 0) with st := .running } }.modCore 0 (fun c =>
    { c with regs := { c.regs with run := .running } }))
def flashed (f : Flash → Flash) : State := { State.reset with flash := f Flash.reset }
def repairing (r : BitVec 32) : State := { State.reset with repcfg := fset [] 0 r }

/-- A line's last command has met k parity alerts. -/
def alerted (l k : Nat) : State := flashed (fun f => { f with alerts := fset [] (pcOf (128 * l)) (l, k) })

/-- Queue 0 has latched a doorbell, and the dispatcher of die 0 restarts. -/
def restarting (x : Option Word × Option (BitVec 32)) : State :=
  { State.reset with
    queues := [(0, { Queue.reset with st := .idle, latched := [x] })]
    disps := fset [] 0 { Disp.reset with restart := true } }

/-- Lists of b bad frames and o more; frame 16 is being emptied. -/
def crowded (b o : Nat) : State :=
  flashed (fun f => { f with badFrames := List.replicate b 0, overflow := List.replicate o 0, leaving := [16] })

theorem crowded_lists (b o : Nat) :
    (crowded b o).flash.badFrames.length = b ∧ (crowded b o).flash.overflow.length = o ∧ 16 ∈ (crowded b o).flash.leaving := by
  simp [crowded, flashed]

/-- Quad 0 has been at its ceiling since module time 0, over its limit or not, at module time t. -/
def heated (more : Bool) (t : Nat) : State :=
  { State.reset.modQuad 0 (fun q => { q with limOver := more, limAt := 0, ceilAt := some 0 }) with now := t }

theorem witness_ErrorsAndRepair :
    (Bound (bound id) 0 ∧ ¬Bound State.reset 0) ∧
    ((inMemory (0x1000 : Pa).toNat = true ∧ podOf State.reset (0x1000 : Pa).toNat = none) ∧ (0x1000 : Pa).toNat / 128 ∉ State.reset.dirty) ∧
    (let s := bound (fun s => { s with dirty := [32], writer := fset [] 32 0, sptag := fset [] 0 0, acctag := fset [] 0 0 });
      (0x1000 : Pa).toNat / 128 ∈ s.dirty ∧ fget? s.writer ((0x1000 : Pa).toNat / 128) = some 0 ∧
      isPad padBase = true ∧ granTag s padBase = some 0 ∧
      (s.quad ((0 : CoreId).toNat / 4)).array.holder = none ∧ fget? s.acctag (0 : CoreId).toNat = some 0) ∧
    ((regsOf (bound id) 0).run ≠ .idle ∧ (regsOf State.reset 0).run = .idle) ∧
    (let s := State.reset.modQuad 0 (fun q => { q with array := { q.array with holder := some 3 } });
      (s.quad (0 : QuadId).toNat).array.holder = some 3 ∧ (s.quad (0 : QuadId).toNat).array.csum = false) ∧
    (let s := bound (fun s => s.modQuad 0 (fun q => { q with array := { q.array with holder := some 0, wide := true } }));
      (s.quad ((0 : CoreId).toNat / 4)).array.holder = some 0 ∧ (s.quad ((0 : CoreId).toNat / 4)).array.wide = true) ∧
    (∀ i : Fin 3, (fget [] State.reset.flash.tables[i].rows (0 : BitVec 10).toNat, fget 0 State.reset.flash.tables[i].lanes
      (0 : BitVec 10).toNat) = ([], 0)) ∧
    (HeadOf (headed (aCmd makes)) 0 (aCmd makes) [aCmd 0] ∧ (aCmd makes).result = none ∧ (aCmd makes).tmpl = none) ∧
    ((41279 : BitVec 16).toNat < 41280 ∧ (State.reset.link (63 : BitVec 6).toNat).replay = [] ∧
      (State.reset.link (63 : BitVec 6).toNat).out = []) ∧
    (hbmEnd ≤ (BitVec.allOnes 52).toNat ∧ (0x1000 : Pa).toNat < hbmEnd) ∧
    (∀ k ∈ [1, 2], alertsOf (alerted 32 k) (0x1000 : Pa).toNat = k) ∧
    (∀ r : BitVec 32, fget 0 (repairing r).repcfg ((0x1000 : Pa).toNat / 2 ^ 16 % 2 ^ 5) = r ∧ (repairing r).flash.badFrames = []) ∧
    (0x10003 / 2 % 2 ^ 15 ≠ 0 ∧ (0x10003 : BitVec 32).getLsbD 0 = true ∧ 2 ^ 16 ≤ (0x10003 : BitVec 32).toNat) ∧
    (16384 ≤ (crowded 16384 4096).flash.badFrames.length ∧ 4096 ≤ (crowded 16384 4096).flash.overflow.length) ∧
    ((16 : Nat) ∈ (crowded 0 0).flash.leaving ∧ (crowded 0 0).flash.badFrames.length < 16384 ∧
      16384 ≤ (crowded 16384 0).flash.badFrames.length ∧ (crowded 16384 0).flash.overflow.length < 4096) ∧
    ((0x1000 : Pa).toNat / 65536 ∉ State.reset.flash.leaving ∧ (0x10002 : BitVec 32).getLsbD 0 = false ∧ (3 : BitVec 32).toNat < 2 ^ 16) ∧
    ((0 : BitVec 10).toNat ∉ State.reset.flash.offline ∧ State.reset.flash.presence = [] ∧
      (flashed (fun f => { f with presence := [(0, 5)] })).flash.presence = [((0 : BitVec 10).toNat, 5)] ∧
      (0 : BitVec 10).toNat ∈ (flashed (fun f => { f with offline := [0] })).flash.offline) ∧
    (State.reset.disp (0 : DieId).toNat).restart = false ∧
    (∀ x, let s := restarting x;
      (s.disp (0 : DieId).toNat).restart = true ∧ s.queues = [(0, s.queue 0)] ∧ (s.queue 0).home = (0 : DieId).toNat ∧
      (s.queue 0).st = .idle ∧ (s.queue 0).latched = [x]) ∧
    ((16 : BitVec 32) - Queue.reset.head).toNat ≤ 2 ^ (Queue.reset.lsz + 4) ∧
    (let y := (heated true 10000000000).quad (0 : QuadId).toNat;
      y.limOver = true ∧ y.limAt + 10 ^ 10 ≤ (heated true 10000000000).now ∧ y.ceilAt = some 0 ∧ 0 + 10 ^ 10 ≤ (heated true 10000000000).now) ∧
    ((State.reset.quad (0 : QuadId).toNat).limOver = false ∧ (heated true 9999999999).now < ((heated true 9999999999).quad 0).limAt + 10 ^ 10 ∧
      (State.reset.quad (0 : QuadId).toNat).ceilAt = none) ∧
    (((heated false 10000000000).quad (0 : QuadId).toNat).limOver = false ∧
      ((heated false 10000000000).quad (0 : QuadId).toNat).limAt + 10 ^ 10 ≤ (heated false 10000000000).now) ∧
    (∀ r ∈ [0, 65535], let y := (State.reset.modQuad 0 (fun q => { q with swSet := 3, swNow := 2, swRef := r })).quad 0;
      y.swNow < y.swSet.toNat ∧ y.swRef = r) ∧
    (State.reset.quad 0).swSet.toNat ≤ (State.reset.quad 0).swNow := by
  unfold Bound HeadOf
  refine ⟨?_, ?_, ?_, ?_, ?_, ?_, ?_, ?_, ?_, ?_, ?_, fun _ => ⟨rfl, rfl⟩, ?_, ⟨(crowded_lists _ _).1.ge, (crowded_lists _ _).2.1.ge⟩,
    ⟨(crowded_lists 0 0).2.2, (crowded_lists 0 0).1.trans_lt (by decide), (crowded_lists _ 0).1.ge, (crowded_lists _ 0).2.1.trans_lt (by decide)⟩, ?_, ?_, ?_,
    fun _ => ⟨rfl, rfl, rfl, rfl, rfl⟩, ?_, ?_, ?_, ?_, ?_, ?_⟩ <;> decide +kernel

def halted : State := on (fun c => { c with halt := ⟨true, false⟩ })
def debugged (f : Dbg → Dbg) : State := { State.reset with dbg := fset [] 0 (f Dbg.reset) }
def tracing (f : Trace → Trace) : State := debugged (fun d => { d with trace := f d.trace })

theorem witness_DebugAndTrace :
    ((63 : Nat) < 64 ∧ (State.reset.core 63).halt.halted = false ∧ NotHeld State.reset 63) ∧
    ((inOutrider id).core 0).halt.halted = false ∧ ((inOutrider id).core 0).regs.out ≠ .off ∧
    (halted.core (64 * (0 : DieId).toNat + (halted.dbgOf (0 : DieId).toNat).sel.toNat)).halt.halted = true ∧
    (State.reset.core (64 * (0 : DieId).toNat + (State.reset.dbgOf (0 : DieId).toNat).sel.toNat)).halt.halted = false ∧
    ((0 : BitVec 32).getLsbD 17 = false ∧ (0x60000 : BitVec 32).getLsbD 18 = true ∧ (0x820000 : BitVec 32).getLsbD 23 = true) ∧
    (∀ z < 4, let s := debugged (fun d => { d with data1 := 0x1000 });
      PlainBytes s (s.dbgOf (0 : DieId).toNat).data1.toNat (2 ^ z) ∧ (∀ i < 2 ^ z, reservedPa s ((s.dbgOf (0 : DieId).toNat).data1.toNat + i) = false ∧
        poisoned s ((s.dbgOf (0 : DieId).toNat).data1.toNat + i) = false) ∧ Memory.wf s.mem = true) ∧
    ((0x20000 : BitVec 32).toNat / 2 ^ 17 % 4 ≠ 0 ∧ (1 : BitVec 32).toNat % 2 ^ 16 ≠ 0 ∧ 3 < (0x400000 : BitVec 32).toNat / 2 ^ 20 % 8 ∧ 5 ∈ [5]) ∧
    (let x := ((tracing (fun x => { x with per := 1, mask := 1 })).dbgOf ((0 : CoreId).toNat / 64)).trace
     let c := (State.reset.quad ((0 : CoreId).toNat / 4)).cycle.toNat;
      x.per ≠ 0 ∧ c % x.per.toNat = 0 ∧ fget? x.sampled (0 : CoreId).toNat ≠ some c ∧ x.mask.getLsbD ((0 : CoreId).toNat % 64) = true) ∧
    (State.reset.dbgOf ((0 : CoreId).toNat / 64)).trace.per = 0 ∧
    (let x := traceOf (tracing (fun x => { x with start := 5, stop := 5 })) 0;
      x.start = 5 ∧ x.stop = 5 ∧ (State.reset.quad ((64 * (0 : DieId).toNat + x.tcore.toNat) / 4)).cycle = x.startV ∧
      (State.reset.quad ((64 * (0 : DieId).toNat + x.tcore.toNat) / 4)).cycle = x.stopV) ∧
    ((traceOf State.reset 0).start ≠ 5 ∧ (traceOf State.reset 0).stop ≠ 5) ∧
    ((State.reset.modQuad 0 (fun q => { q with monAt := some 0 })).quad (0 : QuadId).toNat).monAt =
      some (State.reset.quad (0 : QuadId).toNat).cycle.toNat ∧
    ((State.reset.quad (0 : QuadId).toNat).monAt ≠ some (State.reset.quad (0 : QuadId).toNat).cycle.toNat ∧
      (State.reset.dbgOf ((0 : QuadId).toNat / 16)).mons = []) ∧ 2 ^ 48 - 1 < 2 ^ 48 := by
  unfold NotHeld PlainBytes
  refine ⟨?_, ?_, ?_, ?_, ?_, ?_, ?_, ?_, ?_, ?_, ?_, ?_, ?_, ?_⟩ <;> decide +kernel

def staged (n : Nat) : State := { State.reset with boot := { State.reset.boot with stage := n } }

def aSusp : Susp :=
  ⟨CoreRegs.reset, FoldCore.reset, Watch.reset, Vector.replicate 4 ⟨0, false⟩, 0, 0, [], none, 0x10000, false, none⟩

/-- Tag 0 may read and write target t from the host; the host's link runs CXL.mem or not. -/
def trusting (t : Nat) : State := { staged 8 with acctab := fset [] (t * 4096) (BitVec.ofNat 32 (3 * 2 ^ 16)) }
def linkedHost (cxl : Bool) : State := { staged 8 with port := { (staged 8).port with cxl := cxl } }

theorem witness_HostRegistersReset :
    (State.reset.boot.stage ≠ 8 ∧ ((staged 8).boot.stage = 8 ∧ (staged 8).boot.recovery = false ∧ Memory.wf (staged 8).mem = true)) ∧
    ((isHost ((BitVec.ofNat 52 hostBase : Pa).toNat / 8 * 8) = true ∧ (0x1007 : Pa).toNat / 8 * 8 < hbmEnd) ∧
      (∀ a ∈ [hostBase, 0x1000], ∀ i < 8, podOf (staged 8) (a + i) = none) ∧
      (∀ k ∈ [0, 1], hasRight (trusting 2) 0 4 2 k = true ∧ hasRight (trusting 0) 0 4 0 k = true) ∧
      (linkedHost true).port.cxl = true ∧ (linkedHost false).port.cxl = false ∧ hasRight (linkedHost false) 0 4 0 1 = false ∧
      (∀ a ∈ [hostBase, 0x1000], reservedPa (staged 8) a = false ∧ monitored (staged 8) a = false) ∧ (staged 8).hostlag = [] ∧
      (let s := { staged 8 with queues := fset [] 0 { Queue.reset with st := .idle, record := 0x1000 } };
        isRecord s 0x1000 = true ∧ isRecord s 0x2000 = false) ∧ isRecord (linkedHost false) 0x1000 = false) ∧
    (0x1000 : Pa).toNat < engBase ∧
    ((State.reset.flash.factoryOk = true ∧ State.reset.flash.fieldOk = true) ∧
      (flashed (fun f => { f with factoryOk := false })).flash.factoryOk = false ∧
      (flashed (fun f => { f with fieldOk := false })).flash.factoryOk = true ∧ (flashed (fun f => { f with fieldOk := false })).flash.fieldOk = false) ∧
    (∀ k < 4, let s := State.reset.modCore k (fun c => { c with fold := { c.fold with lease := .waiting } });
      (s.quad (0 : QuadId).toNat).array.holder = none ∧ (s.quad (0 : QuadId).toNat).array.drains = [] ∧
      (s.quad (0 : QuadId).toNat).array.lastHolder < 4 ∧ (s.core ((0 : QuadId).toNat * 4 + k)).fold.lease = .waiting ∧
      (∀ i < 4, (s.core ((0 : QuadId).toNat * 4 + i)).susp = []) ∧
      ∀ i < (k + 3 - (s.quad (0 : QuadId).toNat).array.lastHolder) % 4,
        (s.core ((0 : QuadId).toNat * 4 + ((s.quad (0 : QuadId).toNat).array.lastHolder + 1 + i) % 4)).fold.lease ≠ .waiting) ∧
    (∀ k < 4, (State.reset.core ((0 : QuadId).toNat * 4 + k)).fold.lease ≠ .waiting) ∧
    (let s := on (fun c => { c with susp := [{ aSusp with drains := [aDrain 3] }] });
      ∃ k < 4, ∃ x ∈ (s.core ((0 : QuadId).toNat * 4 + k)).susp, x.drains ≠ []) ∧
    (∀ l ∈ [LeaseSt.granted, .held, .none, .waiting],
      ((on (fun c => { c with fold := { c.fold with lease := l } })).core (0 : CoreId).toNat).fold.lease = l) ∧
    (4 ≤ (16 : BitVec 5).toNat ∧ (16 : BitVec 5).toNat ≤ 16 ∧ (3 : BitVec 5).toNat < 4 ∧ 16 < (17 : BitVec 5).toNat) := by
  refine ⟨?_, ?_, ?_, ?_, ?_, ?_, ?_, ?_, ?_⟩ <;> decide +kernel

/-! ## The machine as a whole -/

/-- exec answers a next state for i at s, and f holds of it. -/
def execs (i : Instr) (s : State) (f : State → Bool) : Bool := match exec i s with | .next t => f t | _ => false
theorem execs_next (i : Instr) (s : State) (f : State → Bool) (h : execs i s f = true) : ∃ t, exec i s = .next t ∧ f t = true := by
  unfold execs at h; split at h
  · exact ⟨_, by assumption, h⟩
  · exact absurd h (by decide)

/-- A bundle with one syllable, at the head of the queue of a running core 0 with a bank for each of VA, VB and F; f makes the rest. -/
def alone (p : Pos) (i : Instr) : Bundle := ⟨0x1040, oneSyllable p (encode i), false, 0x1060⟩
def issuing (b : Bundle) (f : Pipe → Pipe) : State :=
  withRegs (fun r => { r with run := .running, vec := { r.vec with banks := #v[.va, .vb, .f, .f] }, task := f { r.task with bq := [b] } })

theorem witness_StepRunsInstruction_agenda :
    State.reset.agenda = [] ∧
    (∀ a ∈ [Act.occur .ctxCreate, .pulse 3 0, .time 5], ({ State.reset with agenda := [a] } : State).agenda = a :: []) ∧
    (∀ b : Bundle, (issuing b id).pipe.bq = b :: []) ∧
    (let b := alone .S (.sAddi 0 4 0xFF4 4)
     let s := issuing b id
     let l := issuing b (fun p => { p with bn := 16, wq := [entry 0 0 0 0 true] })
     let c := { b with bits := b.bits ||| BitVec.ofNat 256 (2 ^ 63) };
      (aligned s b = true ∧ inSlip s = true) ∧ inSlip l = false ∧ c.sync = true ∧ aligned l c = false) := by
  exact ⟨rfl, by decide +kernel, fun _ => rfl, by decide +kernel⟩

theorem witness_StepRunsInstruction_bundle :
    (∀ x ∈ [(Pos.S, Instr.sAddi 0 4 0xFF4 4), (.C, .cBset 0 8 48), (.VA, .vAdd .va 0 3 1 2 2), (.VB, .vMul .vb 0 11 12 13 8),
        (.L, .lLdi 2 1 1 56), (.W, .wStx 41 49 50), (.F, .fFmt 18 18), (.K, .kMov 1 2)],
      let b := alone x.1 x.2
      let s := issuing b id;
      decodeSyl x.1 (b.syl x.1) = .ok x.2 ∧ (∀ q ∈ posList, q ≠ x.1 → b.syl q = 0) ∧ b.sync = false ∧ b.land = false ∧
      bundleFault s b = none ∧ s.regs.emul = [] ∧ stopped s s = false ∧
      (x.1 ≠ .W → x.1 ≠ .F → x.1 ≠ .C → execs x.2 s (fun t => !stopped s t && t.regs.emul.isEmpty) = true) ∧
      (x.1 = .C → execs x.2 (applyInc s) (fun t => !faulted s t && !t.pipe.waits) = true)) ∧
    (∀ q, q ∈ posList) ∧
    (let b := alone .F (.fFmt 18 18)
     let s := (issuing b id).modMe (fun c => { c with fold := { c.fold with lease := .held } });
      (issuing b id).fGroup = false ∧ s.fGroup = true ∧ bundleFault s b = none ∧
      execs (.fFmt 18 18) s (fun t => !stopped s t && t.regs.emul.isEmpty) = true) := by
  exact ⟨by decide +kernel, fun q => by cases q <;> decide, by decide +kernel⟩

theorem witness_StepRunsInstruction_loads :
    let s := issuing (alone .L (.lLdi 2 1 1 56)) id;
    s.pipe.ldq.length < ldqCap s.me := by decide +kernel

/-- C syllables: one that waits, `lend`, one that acts once W and F have issued its bundle, one that acts at once. -/
theorem witness_StepRunsInstruction_control :
    (let s := withRegs (fun r => { r with run := .running, tok := vset r.tok 0 ⟨.ready, 0⟩ });
      endsWait (cOp (alone .C (.cTkwait 0 0))) = true ∧ execs (.cTkwait 0 0) s (fun t => !stopped s t) = true) ∧
    (cOp (alone .C (.cLend 0 1)) = 0x0C ∧ execs (.cLend 0 1) State.reset (fun t => !faulted State.reset t && !t.pipe.waits) = true) ∧
    (actsAfter (cOp (alone .C (.cTrap 5))) = true ∧ testsFirst (cOp (alone .C (.cTrap 5))) = false ∧
      actsAfter (cOp (alone .C .cResume)) = true ∧ testsFirst (cOp (alone .C .cResume)) = true ∧
      execs .cResume (inOutrider id) (fun t => !faulted (inOutrider id) t && !t.pipe.waits) = true) ∧
    (actsLast (cOp (alone .C (.cEnter 3))) = true ∧ endsWait (cOp (alone .C (.cBset 0 8 48))) = false ∧
      cOp (alone .C (.cBset 0 8 48)) ≠ 0x0C ∧ actsAfter (cOp (alone .C (.cBset 0 8 48))) = false ∧
      testsFirst (cOp (alone .C (.cBset 0 8 48))) = false) := by
  refine ⟨?_, ?_, ?_, ?_⟩ <;> decide +kernel

/-- The `c.trap` of a bundle waits for W and F; a slot holds, or may not lead. -/
theorem witness_StepRunsInstruction_after :
    (let s := issuing (alone .C (.cTrap 5)) (fun p => { p with bn := 1, wn := 1, fn := 1, after := some (alone .C (.cTrap 5)) });
      s.pipe.after = some (alone .C (.cTrap 5)) ∧ decodeSyl .C ((alone .C (.cTrap 5)).syl .C) = .ok (.cTrap 5) ∧ s.pipe.bn ≤ s.pipe.wn ∧
      s.pipe.bn ≤ s.pipe.fn ∧ execs (.cTrap 5) s (fun t => !t.pipe.waits) = true) ∧
    (let s := issuing (alone .C (.cTrap 5)) (fun p => { p with bn := 1, after := some (alone .C (.cTrap 5)) });
      s.pipe.wn < s.pipe.bn ∧ s.pipe.fn < s.pipe.bn) ∧
    (State.reset.pipe.bn ≤ State.reset.pipe.wn ∧ mayLead State.reset State.reset.pipe.wn = false ∧
      State.reset.pipe.bn ≤ State.reset.pipe.fn ∧ mayLead State.reset State.reset.pipe.fn = false) := by
  refine ⟨?_, ?_, ?_⟩ <;> decide +kernel

theorem witness_StepRunsInstruction_queues :
    (let e : WEntry := { entry 8 8 1 0 true with syl := encode (.wStx 41 49 50) }
     let s := wHead e (fun p => { p with bn := 1 });
      s.pipe.wn < s.pipe.bn ∧ e.bn = s.pipe.wn ∧ s.pipe.wq = e :: [] ∧ s.regs.emul.contains 5 = false ∧ decodeSyl .W e.syl = .ok (.wStx 41 49 50) ∧
      execs (.wStx 41 49 50) s (fun _ => true) = true) ∧
    (let e : FEntry := ⟨encode (.fFmt 18 18), 0, 0⟩
     let s := (withTask (fun p => { p with bn := 1, fq := [e] })).modMe (fun c => { c with fold := { c.fold with lease := .held } });
      s.pipe.fn < s.pipe.bn ∧ e.bn = s.pipe.fn ∧ s.pipe.fq = e :: [] ∧ decodeSyl .F e.syl = .ok (.fFmt 18 18) ∧
      execs (.fFmt 18 18) s (fun t => !faulted s t && !t.pipe.waits) = true) ∧
    (let s := interpreting (fun q => { q with entered := true, prog := [0x10000216] });
      (s.disp (0 : DieId).toNat).run = some 0 ∧ (s.queue 0).entered = true ∧
      decodeQb ((s.queue 0).prog.getD (s.queue 0).pc 0x1C) = .ok (.qbCond 1 0 0 2) ∧
      execs (.qbCond 1 0 0 2) { s with cur := BitVec.ofNat 11 (64 * (0 : DieId).toNat) } (fun _ => true) = true) := by decide +kernel

theorem witness_RoundTrip :
    ((Instr.sAddi 0 4 0xFF4 4).WellFormed ∧ rowHome (.sAddi 0 4 0xFF4 4) ≠ .event) ∧
    ((Instr.qbCond 1 0 0 2).WellFormed ∧ rowHome (.qbCond 1 0 0 2) = .queue) ∧ rowHome .cEnd = .slot .C ∧
    decodeSyl .C (0x2A000007 ||| 0x80000000) = .ok (.cTkwait 0 7) := by decide +kernel

theorem witness_MemoryReadsBack :
    (Memory.wf (Memory.write [] 0x1000 7 8) = true ∧ 0x0FFF < 0x1000 ∧ 0x1000 + 8 ≤ 0x1008) ∧
    ∀ a < 4, Memory.get (Memory.write [] 1 7 2) a = Memory.get (Memory.write (Memory.write [] 1 7 2) 3 0 1) a := by decide +kernel

theorem witness_TrapsEnter :
    (State.reset.me.outrider = false ∧ 255 < 256 ∧ 7 < 8) ∧
    ((inOutrider (fun r => { r with trap := { r.trap with tstatus := 2 } })).me.outrider = true ∧ (inOutrider id).me.outrider = true) ∧
    (Pipe.reset.wn ≤ Pipe.reset.bn ∧ ({ Pipe.reset with wn := 1 } : Pipe).bn < ({ Pipe.reset with wn := 1 } : Pipe).wn) ∧
    bundleFault State.reset ⟨0, oneSyllable .S 0xFFFFFFFF, false, 0⟩ = some (cILLEGAL_OP, .S) ∧
    bundleFault State.reset ⟨0, oneSyllable .F (encode (.fFmt 18 18)), false, 0⟩ = none := by decide +kernel

theorem witness_IssueFrames :
    ∀ x ∈ [(Pos.S, Instr.sAddi 0 4 0xFF4 4), (.VA, .vAdd .va 0 3 1 2 2), (.VB, .vMul .vb 0 11 12 13 8), (.L, .lLdi 2 1 1 56), (.K, .kMov 1 2)],
      rowHome x.2 = .slot x.1 ∧ x.1 ≠ .C ∧ execs x.2 (issuing (alone x.1 x.2) id) (fun _ => true) = true := by decide +kernel

theorem witness_MemoryInvariant :
    Memory.wf State.reset.mem = true ∧ (∃ t, step State.reset = .next t) ∧ ∃ t, exec (.monClear 0 0 0) State.reset = .next t ∧ true = true :=
  ⟨by decide, ⟨turn State.reset, by have h : State.reset.agenda = [] := rfl; unfold step; rw [h]⟩, execs_next _ _ (fun _ => true) (by decide +kernel)⟩

theorem witness_FctlWrites :
    (∀ l ∈ [LeaseSt.granted, .held], let s := on (fun c => { c with fold := { c.fold with lease := l } });
      (s.core (0 : CoreId).toNat).fold.lease = .granted ∨ (s.core (0 : CoreId).toNat).fold.lease = .held) ∧
    (¬((State.reset.core 0).fold.lease = .granted ∨ (State.reset.core 0).fold.lease = .held)) ∧
    (4 ≤ (0x42 : Word).toNat / 2 ^ 4 % 2 ^ 5 ∧ (0x103 : Word).toNat / 2 ^ 4 % 2 ^ 5 ≤ 16) ∧
    ((0x41 : Word).getLsbD 0 = true ∧ (0x41 : Word).getLsbD 1 = false ∧ (0x42 : Word).getLsbD 0 = false ∧ (0x42 : Word).getLsbD 1 = true ∧
      (0x103 : Word).getLsbD 0 = true ∧ (0x103 : Word).getLsbD 1 = true) ∧
    (HoldsLease (on (fun c => { c with fold := { c.fold with lease := .held } })) ∧ (0x41 : Word).getLsbD 9 = false) := by
  unfold HoldsLease; decide +kernel

theorem witness_HardwareNumbers :
    ((31 < 32) ∧ (15 < 16) ∧ (3 < 4)) ∧ (∀ p < 36, (State.reset.link p).st = .down) ∧
    (∃ p < 36, ((linked 0 (fun x => { x with st := .up })).link p).st = .up) := by decide +kernel

/-! ## Single steps -/

/-- A scalar register of core 0 after the first step of a program of one syllable. -/
noncomputable def afterFirst (w : Nat) (r : Nat) : Word :=
  match step (State.reset.withFetchWord 32 w) with
  | .next t => vget (t.core 0).regs.task.s r 0
  | _ => 0

theorem test_table_word : decodeTableWord 32 0x0613FD04 = some (.sAddi 0 4 0xFF4 4) := by decide +kernel
/-- s4 becomes s4 + (-12), at the end of the cycle it issues in (R61). -/
theorem test_step_addi : afterFirst 0x0613FD04 4 = 0xFFFFFFFFFFFFFFF4 := by decide +kernel
/-- R86: li writes the sign extension of its field. -/
theorem test_step_li : afterFirst (encode (.sLi 0 3 0x3FFFF)).toNat 3 = 0xFFFFFFFFFFFFFFFF := by decide +kernel
theorem test_step_nop : afterFirst 0 4 = 0 := by decide +kernel

end Sys2Proof.Tests
end

section
/-! PROOF. Every step answers a next state and keeps memory's canonical form (O56). Each function of the model that answers a
state has one lemma here, `canon_f`: it keeps the form, if the functions it calls do. The lemmas stand in the model's order, so
that each cites the ones before it; `keeps_exec` gathers them over the instructions. Only the functions that write memory
(`Laws/Memory`) need more than that they leave it alone. -/

namespace Sys2Proof.Machine

open Host (Outcome)

/-! ### The two claims, and how they pass through branches, folds and pairs -/

/-- The memory of s has its canonical form. -/
def Canon (s : State) : Prop := Memory.wf s.mem = true

/-- The answer x to a step from s is a next state, which is canonical if s is. -/
def Keeps (s : State) (x : Outcome State Fault Refusal) : Prop := ∃ t, x = .next t ∧ (Canon s → Canon t)

theorem canon_mk {s : State} (h : Memory.wf s.mem = true) : Canon s := h

theorem canon_ite {c : Prop} [Decidable c] {s t : State} (hs : Canon s) (ht : Canon t) : Canon (if c then s else t) := by
  split
  · exact hs
  · exact ht

theorem canon_getD {o : Option State} {s : State} (ho : ∀ t, o = some t → Canon t) (h : Canon s) : Canon (o.getD s) := by
  cases o with
  | none => exact h
  | some t => exact ho t rfl

theorem canon_foldl {α : Type} {f : State → α → State} {l : List α} {s : State} (g : ∀ t x, Canon t → Canon (f t x))
    (h : Canon s) : Canon (l.foldl f s) := foldl_keeps g l h

theorem canon_foldl_snd {α β : Type} {f : β × State → α → β × State} {l : List α} {p : β × State}
    (g : ∀ (p : β × State) x, Canon p.2 → Canon (f p x).2) (h : Canon p.2) : Canon (l.foldl f p).2 :=
  foldl_keeps (P := fun p : β × State => Canon p.2) g l h

theorem canon_foldl_fst {α β : Type} {f : State × β → α → State × β} {l : List α} {p : State × β}
    (g : ∀ (p : State × β) x, Canon p.1 → Canon (f p x).1) (h : Canon p.1) : Canon (l.foldl f p).1 :=
  foldl_keeps (P := fun p : State × β => Canon p.1) g l h

theorem canon_snd {α : Type} {p : α × State} {a : α} {s : State} (e : p = (a, s)) (h : Canon p.2) : Canon s := by
  rw [e] at h; exact h

theorem canon_snd_snd {α β : Type} {p : α × β × State} {a : α} {b : β} {s : State} (e : p = (a, b, s))
    (h : Canon p.2.2) : Canon s := by
  rw [e] at h; exact h

theorem keeps_next {s t : State} (h : Canon s → Canon t) : Keeps s (.next t) := ⟨t, rfl, h⟩

theorem canon_after {s : State} {x : Outcome State Fault Refusal} (k : Keeps s x) (h : Canon s) : Canon (after x s) := by
  obtain ⟨t, rfl, ht⟩ := k
  exact ht h

theorem canon_of_keeps {s t : State} {x : Outcome State Fault Refusal} (k : Keeps s x) (h : Canon s) (e : x = .next t) :
    Canon t := by
  obtain ⟨u, rfl, hu⟩ := k
  cases e
  exact hu h

/-! ### Ops -/

theorem canon_setCore {s : State} {n : ℕ} {c : Core} (h : Canon s) : Canon (s.setCore n c) := canon_mk h

theorem canon_modCore {s : State} {n : ℕ} {f : Core → Core} (h : Canon s) : Canon (s.modCore n f) := canon_setCore h

theorem canon_setQuad {s : State} {q : ℕ} {x : Quad} (h : Canon s) : Canon (s.setQuad q x) := canon_mk h

theorem canon_modQuad {s : State} {q : ℕ} {f : Quad → Quad} (h : Canon s) : Canon (s.modQuad q f) := canon_setQuad h

theorem canon_setCtx {s : State} {t : ℕ} {c : Ctx} (h : Canon s) : Canon (s.setCtx t c) := canon_mk h

theorem canon_modMe {s : State} {f : Core → Core} (h : Canon s) : Canon (s.modMe f) := canon_modCore h

theorem canon_modPipe {s : State} {f : Pipe → Pipe} (h : Canon s) : Canon (s.modPipe f) := canon_modMe h

theorem canon_modRegs {s : State} {f : CoreRegs → CoreRegs} (h : Canon s) : Canon (s.modRegs f) := canon_modMe h

theorem canon_result {s : State} {slot : Pos} {lat : ℕ} {t : Tgt} {v : Vec} (h : Canon s) :
    Canon (s.result slot lat t v) := canon_modPipe h

theorem canon_dest {s : State} {slot : Pos} {lat : ℕ} {w : BitVec 1} {d : BitVec 6} {v : Vec} (h : Canon s) :
    Canon (s.dest slot lat w d v) := canon_ite (canon_result h) (canon_result (canon_result h))

theorem canon_modDbg {s : State} {d : ℕ} {f : Dbg → Dbg} (h : Canon s) : Canon (s.modDbg d f) := canon_mk h

theorem canon_traceRecord {s : State} {n kind : ℕ} {va arg : Word} (h : Canon s) : Canon (traceRecord s n kind va arg) :=
  canon_ite (canon_modDbg h) h

theorem canon_traceSource {s : State} {d code : ℕ} {ok : Trace → Word → Bool} (h : Canon s) :
    Canon (traceSource s d code ok) := canon_ite (canon_modDbg h) h

theorem canon_traceCommit {s : State} {d : ℕ} (h : Canon s) : Canon (traceCommit s d) :=
  canon_ite (canon_modDbg h) (canon_ite (canon_modDbg h) (canon_modDbg (wf_traceWrite _ h)))

theorem canon_monRecord {s : State} {d src tag core v : ℕ} (h : Canon s) : Canon (monRecord s d src tag core v) :=
  canon_ite h (canon_traceSource (canon_modDbg h))

theorem canon_haltBefore {s : State} {n : ℕ} {va : Word} (h : Canon s) : Canon (haltBefore s n va) :=
  canon_traceRecord (canon_modCore h)

theorem canon_regionEdge {s : State} {kind : ℕ} (h : Canon s) : Canon (regionEdge s kind) := canon_traceRecord h

theorem canon_record {s : State} {r : TrapRec} (h : Canon s) : Canon (s.record r) := canon_modQuad h

theorem canon_outriderFault {s : State} {cause : ℕ} {addr : Word} (h : Canon s) : Canon (outriderFault s cause addr) :=
  canon_ite (canon_modRegs (canon_record h)) (canon_modRegs (canon_record h))

theorem canon_takeTrap {s : State} {cause : ℕ} {taddr : Word} {slot : ℕ} {bundle : Word} {slip fetch : Bool} (h : Canon s) :
    Canon (takeTrap s cause taddr slot bundle slip fetch) :=
  canon_ite (canon_outriderFault h) (canon_traceRecord (canon_modRegs h))

theorem canon_trapOf {parked : Option (Bool × ℕ)} {behind : Option ℕ} {s : State} (h : Canon s) :
    Canon (trapOf parked behind s) := canon_modRegs h

theorem canon_fixedTrap {s : State} {cause : ℕ} {taddr : Word} {slot : Pos} (h : Canon s) :
    Canon (fixedTrap s cause taddr slot) := canon_takeTrap h

theorem canon_wTrap {s : State} {cause : ℕ} {taddr : Word} (h : Canon s) : Canon (wTrap s cause taddr) :=
  canon_takeTrap h

/-! ### Operands -/

theorem canon_popLdq {s : State} (h : Canon s) : Canon (popLdq s).2 := by
  dsimp only [popLdq]
  split
  · exact h
  · exact canon_modPipe h

theorem canon_holdNow {s : State} (h : Canon s) : Canon s.holdNow := canon_modPipe h

theorem canon_withPops {n : ℕ} {slot : Pos} {s : State} {k : State → State} (h : Canon s)
    (hk : ∀ t, Canon t → Canon (k t)) : Canon (withPops n slot s k) := by
  dsimp only [withPops]
  split
  · exact hk _ h
  · exact canon_holdNow h
  · exact canon_fixedTrap h

theorem canon_readMail {s : State} {m : ℕ} (h : Canon s) : Canon (readMail s m).2 := canon_modMe h

theorem canon_srcS {x : BitVec 6} {s : State} (h : Canon s) : Canon (srcS x s).2 := by
  dsimp only [srcS]
  split
  · exact h
  · split
    · exact h
    · split
      · exact canon_readMail h
      · split
        · exact canon_popLdq h
        · exact h

theorem canon_srcV {slot : Pos} {x : BitVec 6} {s : State} (h : Canon s) : Canon (srcV slot x s).2 := by
  dsimp only [srcV]
  split
  · exact h
  · split
    · exact h
    · split
      · exact h
      · split
        · exact h
        · split
          · exact canon_popLdq h
          · exact h

theorem canon_postInc {s : State} {j : BitVec 3} {p : BitVec 1} {o : BitVec 11} {u : ℕ} (h : Canon s) :
    Canon (postInc s j p o u) := canon_ite (canon_modPipe h) h

theorem canon_incAfter {s : State} {j : BitVec 3} {p : BitVec 1} {o : BitVec 11} {u : ℕ} {s' : State} (h' : Canon s') :
    Canon (incAfter s j p o u s') := canon_ite (canon_postInc h') h'

theorem canon_applyInc {s : State} (h : Canon s) : Canon (applyInc s) := canon_modPipe (canon_modRegs h)

/-! ### FoldState -/

theorem canon_modArray {s : State} {q : ℕ} {f : FoldArray → FoldArray} (h : Canon s) : Canon (s.modArray q f) :=
  canon_modQuad h

theorem canon_fctlClear {n : ℕ} {s : State} (h : Canon s) : Canon (fctlClear n s) := canon_ite (canon_modArray h) h

theorem canon_fctlGuard {n g : ℕ} {s : State} (h : Canon s) : Canon (fctlGuard n g s) :=
  canon_ite (canon_modArray h) h

/-! ### Scalar -/

theorem canon_aluS {lat : ℕ} {w : BitVec 1} {d a b : BitVec 6} {f : Word → Word → Word} {s : State} (h : Canon s) :
    Canon (aluS lat w d a b f s) := canon_withPops h (fun _ ht => canon_dest (canon_srcS (canon_srcS ht)))

theorem canon_aluS1 {lat : ℕ} {w : BitVec 1} {d a : BitVec 6} {f : Word → Word} {s : State} (h : Canon s) :
    Canon (aluS1 lat w d a f s) := canon_withPops h (fun _ ht => canon_dest (canon_srcS ht))

/-! ### Sys -/

theorem canon_writeTrap {n i : ℕ} {v : Word} {s : State} (h : Canon s) : Canon (writeTrap n i v s) := by
  unfold writeTrap
  refine canon_ite (canon_modCore h) ?_
  refine canon_ite (canon_modCore h) ?_
  refine canon_ite (canon_modCore h) ?_
  refine canon_ite (canon_modCore h) ?_
  refine canon_ite (canon_modCore h) ?_
  exact canon_ite (canon_modCore h) (canon_ite (canon_modCore h) (canon_ite (canon_modCore h) h))

theorem canon_fctlWrite {n : ℕ} {v : Word} {s : State} (h : Canon s) : Canon (fctlWrite n v s) := by
  unfold fctlWrite
  refine canon_ite (canon_fctlGuard (canon_ite (canon_fctlClear (canon_modCore h)) (canon_modCore h))) ?_
  exact canon_ite (canon_fctlClear (canon_modCore h)) (canon_modCore h)

theorem canon_sysWrite {n i : ℕ} {v : Word} {s : State} (h : Canon s) : Canon (sysWrite n i v s) := by
  unfold sysWrite
  refine canon_ite (canon_modCore h) ?_
  refine canon_ite (canon_modCore h) ?_
  refine canon_ite (canon_modCore h) ?_
  refine canon_ite (canon_writeTrap h) ?_
  refine canon_ite (canon_modCore h) ?_
  refine canon_ite (canon_modCore h) ?_
  refine canon_ite (canon_modCore h) ?_
  refine canon_ite (canon_fctlWrite h) ?_
  refine canon_ite (canon_modCore h) ?_
  exact canon_ite (canon_ite (canon_modCore h) (canon_modCore h)) (canon_ite (canon_modCore h) h)

theorem canon_sysAllowed {ok : Bool} {s : State} {k : State → State} (h : Canon s) (hk : ∀ t, Canon t → Canon (k t)) :
    Canon (sysAllowed ok s k) := canon_ite (hk _ h) (canon_fixedTrap h)

/-! ### Xlat -/

theorem canon_modLink {s : State} {p : ℕ} {f : Link → Link} (h : Canon s) : Canon (s.modLink p f) := canon_mk h

theorem canon_enterLeaf {n : ℕ} {fetch : Bool} {l : Leaf} {s : State} (h : Canon s) : Canon (enterLeaf n fetch l s) :=
  canon_mk h

theorem canon_enterTables {q tag : ℕ} {w : WalkOut} {s : State} (h : Canon s) : Canon (enterTables q tag w s) :=
  canon_modQuad h

theorem canon_dropLeaf {n tag va : ℕ} {s : State} (h : Canon s) : Canon (dropLeaf n tag va s) :=
  canon_modCore (canon_modQuad h)

theorem canon_postPage {q : ℕ} {r : PageReq} {s : State} (h : Canon s) : Canon (postPage q r s) := canon_modQuad h

theorem canon_condemn {tag : ℕ} {s : State} (h : Canon s) : Canon (condemn tag s) := canon_mk h

theorem canon_noteWalk {n : ℕ} {since : Word} {s : State} (h : Canon s) : Canon (noteWalk n since s) :=
  canon_monRecord h

theorem canon_coreWalk {n : ℕ} {fetch : Bool} {va : ℕ} {s : State} (h : Canon s) : Canon (coreWalk n fetch va s).2 := by
  dsimp only [coreWalk]
  split
  · split
    · exact canon_dropLeaf h
    · exact h
  · split
    · exact canon_dropLeaf h
    · exact h

theorem canon_postPark {q bits : ℕ} {r : PageReq} {s : State} (h : Canon s) : Canon (postPark q bits r s) :=
  canon_ite h (canon_postPage h)

theorem canon_walkEnds {n tag : ℕ} {fetch : Bool} {va kind : ℕ} {cause : Option ℕ} {out : WalkOut} {s : State}
    (h : Canon s) : Canon (walkEnds n tag fetch va kind cause out s).2 := by
  dsimp only [walkEnds]
  split
  · exact canon_condemn h
  · split
    · exact canon_enterLeaf (canon_enterTables h)
    · split
      · exact canon_postPark (canon_enterTables h)
      · exact canon_enterTables h
    · exact canon_enterTables h

theorem canon_walkDone {n : ℕ} {fetch : Bool} {va kind : ℕ} {out : WalkOut} {s : State} (h : Canon s) :
    Canon (walkDone n fetch va kind out s).2 := canon_walkEnds h

theorem canon_walkNow {n va kind : ℕ} {cause : Option ℕ} {s : State} (h : Canon s) :
    Canon (walkNow n va kind cause s).2 := by
  dsimp only [walkNow]
  split
  · exact h
  · exact canon_walkEnds (canon_coreWalk (canon_noteWalk h))

/-! ### Flit -/

theorem canon_pump {p : ℕ} {s : State} (h : Canon s) : Canon (pump p s) := canon_modLink h

theorem canon_freeBuffer {p : ℕ} {f : Flit} {s : State} (h : Canon s) : Canon (freeBuffer p f s) := canon_modLink h

theorem canon_sendFlit {p : ℕ} {f : Flit} {s : State} (h : Canon s) : Canon (sendFlit p f s) :=
  canon_pump (canon_modLink h)

theorem canon_mapPods {s : State} {f : PodWho → PodWho} (h : Canon s) : Canon (s.mapPods f) := canon_mk h

theorem canon_markMoved {s : State} (h : Canon s) : Canon (markMoved s) := canon_mk h

theorem canon_routeFlit {f : Flit} {s t : State} (e : routeFlit f s = some t) (h : Canon s) : Canon t := by
  obtain ⟨p, -, rfl⟩ := Option.map_eq_some_iff.1 e
  exact canon_sendFlit h

theorem canon_podAsk {w : PodWho} {tag kind pa : ℕ} {s t : State} (e : podAsk w tag kind pa s = some t) (h : Canon s) :
    Canon t := by
  unfold podAsk at e
  split at e
  · split at e
    · cases e
      exact h
    · obtain ⟨u, hu, rfl⟩ := Option.map_eq_some_iff.1 e
      have h1 : Canon u := canon_routeFlit hu (canon_mk h)
      exact h1
  · cases e
    exact h

theorem canon_farAsk {u tag : ℕ} {wr : Bool} {l : List ℕ} {s : State} (h : Canon s) : Canon (farAsk u tag wr l s) :=
  canon_foldl (fun _ _ ht => canon_ite ht (canon_getD (fun _ e => canon_podAsk e ht) ht)) h

theorem canon_dropAsks {p : PodReq → Bool} {s : State} (h : Canon s) : Canon (dropAsks p s) := canon_mk h

theorem canon_farDone {u : ℕ} {s : State} (h : Canon s) : Canon (farDone u s) := canon_dropAsks h

theorem canon_farKill {tag : ℕ} {s : State} (h : Canon s) : Canon (farKill tag s) := canon_dropAsks h

theorem canon_dropFetches {n : ℕ} {s : State} (h : Canon s) : Canon (dropFetches n s) := canon_dropAsks h

/-! ### Page -/

theorem canon_haltCore {s : State} {n : ℕ} (h : Canon s) : Canon (haltCore s n) := canon_haltBefore h

/-! ### PadRead -/

theorem canon_refresh {s : State} (h : Canon s) : Canon s.refresh := canon_mk h

/-! ### Load -/

theorem canon_reserveFixed {lat : ℕ} {v : Vec} {mask : Option (ℕ × Mask)} {s : State} (h : Canon s) :
    Canon (reserveFixed lat v mask s) := canon_modPipe h

theorem canon_withEntry {s : State} {k : State → State} (h : Canon s) (hk : ∀ t, Canon t → Canon (k t)) :
    Canon (withEntry s k) := canon_ite (canon_fixedTrap h) (hk _ h)

theorem canon_alignedL {ok : Bool} {ea : Word} {s : State} {k : State → State} (h : Canon s)
    (hk : ∀ t, Canon t → Canon (k t)) : Canon (alignedL ok ea s k) := canon_ite (hk _ h) (canon_fixedTrap h)

theorem canon_padLoad {lat n al : ℕ} {how : Deliver} {ea : Word} {s : State} (h : Canon s) :
    Canon (padLoad lat n al how ea s) :=
  canon_withEntry h (fun _ ht => canon_alignedL ht (fun _ ht1 => canon_refresh (canon_reserveFixed ht1)))

theorem canon_padLoadBase {lat n u : ℕ} {how : Deliver} {j : BitVec 3} {p : BitVec 1} {o : BitVec 11} {x : BitVec 6}
    {s : State} (h : Canon s) : Canon (padLoadBase lat n u how j p o x s) :=
  canon_ite (canon_incAfter (canon_padLoad h)) (canon_withEntry h (fun _ ht => canon_reserveFixed ht))

theorem canon_landNow {bytes : List (ℕ × Byte)} {s : State} (h : Canon s) : Canon (landNow bytes s) := canon_modPipe h

/-! ### Store -/

theorem canon_wPop {s : State} (h : Canon s) : Canon (wPop s) := canon_modPipe h

theorem canon_wStoreTrap {s : State} {cause : ℕ} {ea : Word} {data : Vec} (h : Canon s) :
    Canon (wStoreTrap s cause ea data) := canon_ite (canon_wTrap h) (canon_modRegs (canon_wTrap h))

theorem canon_landNext {bn : ℕ} {bytes : List (ℕ × Byte)} {s : State} (h : Canon s) : Canon (landNext bn bytes s) :=
  canon_modPipe h

theorem canon_slotStore {ok : Bool} {ea : Word} {data : Vec} {bytes : List (ℕ × Byte)} {s : State} (h : Canon s) :
    Canon (slotStore ok ea data bytes s) := canon_ite (canon_landNext (canon_wPop h)) (canon_wStoreTrap h)

theorem canon_padStore {n al v : ℕ} {ea : Word} {s : State} (h : Canon s) : Canon (padStore n al v ea s) :=
  canon_slotStore h

/-! ### Scale -/

theorem canon_alignedK {ok : Bool} {ea : Word} {s : State} {k : State → State} (h : Canon s)
    (hk : ∀ t, Canon t → Canon (k t)) : Canon (alignedK ok ea s k) := canon_ite (hk _ h) (canon_fixedTrap h)

theorem canon_scaleLoad {k : BitVec 3} {lo n : ℕ} {ea : Word} {s : State} (h : Canon s) : Canon (scaleLoad k lo n ea s) :=
  canon_alignedK h (fun _ ht => canon_refresh (canon_result ht))

/-! ### Control -/

theorem canon_transfer {s : State} {ptr : Word} {link : Option Word} (h : Canon s) : Canon (transfer s ptr link) :=
  canon_modPipe h

theorem canon_branchIf {taken : Bool} {p : BitVec 15} {l : BitVec 5} {s : State} (h : Canon s) :
    Canon (branchIf taken p l s) := canon_ite (canon_transfer h) h

theorem canon_jumpTo {ptr : Word} {link : Option Word} {s : State} (h : Canon s) : Canon (jumpTo ptr link s) :=
  canon_ite (canon_transfer h) (canon_fixedTrap h)

theorem canon_modLoop {s : State} {f : LoopState → LoopState} (h : Canon s) : Canon (s.modLoop f) := canon_modRegs h

theorem canon_modRegion {s : State} {f : Region → Region} (h : Canon s) : Canon (s.modRegion f) := canon_modRegs h

theorem canon_enterSource {s : State} {i : BitVec 16} (h : Canon s) : Canon (enterSource s i) := canon_traceSource h

theorem canon_haltAtEdge {s : State} (h : Canon s) : Canon (haltAtEdge s) := canon_ite (canon_haltBefore h) h

theorem canon_afterTrap {s : State} {cause : ℕ} {c : BitVec 12} (h : Canon s) : Canon (afterTrap s cause c) :=
  canon_takeTrap h

theorem canon_privileged {s : State} {k : State → State} (h : Canon s) (hk : ∀ t, Canon t → Canon (k t)) :
    Canon (privileged s k) := canon_ite (hk _ h) (canon_fixedTrap h)

theorem canon_resumeTask {s : State} (h : Canon s) : Canon (resumeTask s) := canon_modRegs (canon_modMe h)

theorem canon_endHold {s : State} (h : Canon s) : Canon (endHold s) := canon_modRegs h

theorem canon_tokenWait {mask : Word} {s : State} (h : Canon s) : Canon (tokenWait mask s) := by
  unfold tokenWait
  exact canon_ite (canon_fixedTrap h) (canon_ite (canon_endHold h) (canon_holdNow h))

theorem canon_acquireL1 {s : State} (h : Canon s) : Canon (acquireL1 s) := canon_modMe h

theorem canon_bwaitEnd {s : State} {k : ArrEntry} (h : Canon s) : Canon (bwaitEnd s k) :=
  canon_endHold (canon_monRecord (canon_traceRecord (canon_acquireL1 h)))

/-! ### Unit -/

theorem canon_mailPut {o : ℕ} {b : Byte} {s : State} (h : Canon s) : Canon (mailPut o b s) :=
  canon_ite (canon_modCore h) h

theorem canon_mailSet {n m : ℕ} {v : Word} {s : State} (h : Canon s) : Canon (mailSet n m v s) := canon_modCore h

theorem canon_landMail {n : ℕ} {s : State} (h : Canon s) : Canon (landMail n s) :=
  canon_modCore (canon_foldl (fun _ _ ht => canon_mailSet ht) h)

theorem canon_noteLine {t line : ℕ} {s : State} (h : Canon s) : Canon (noteLine t line s) := canon_ite (canon_mk h) h

theorem canon_memWrite {t : ℕ} {l : List (ℕ × Byte)} {s : State} (h : Canon s) : Canon (memWrite t l s) :=
  canon_foldl
    (fun _ _ ht => canon_noteLine ht)
    (canon_foldl (fun _ _ ht => canon_ite ht (canon_ite (canon_mailPut ht) (wf_writeByteAs ht))) h)

theorem canon_cleanLines {l : List ℕ} {s : State} (h : Canon s) : Canon (cleanLines l s) := canon_mk h

theorem canon_postUnit {die cause tag va k : ℕ} {s : State} (h : Canon s) : Canon (postUnit die cause tag va k s) := by
  dsimp only [postUnit]
  split
  · exact canon_farAsk h
  · exact canon_postPark h

/-! ### Barrier -/

theorem canon_modBar {s : State} {b : ℕ} {f : Barrier → Barrier} (h : Canon s) : Canon (s.modBar b f) := canon_mk h

theorem canon_setView {name : ℕ} {x : PodView} {s : State} (h : Canon s) : Canon (setView name x s) := canon_mk h

theorem canon_sendNews {name phase : ℕ} {fail : Option ℕ} {s : State} (h : Canon s) :
    Canon (sendNews name phase fail s) := canon_mk h

theorem canon_failQueues {name phase reason : ℕ} {s : State} (h : Canon s) : Canon (failQueues name phase reason s) :=
  canon_mk h

theorem canon_failNews {name phase reason : ℕ} {s : State} (h : Canon s) : Canon (failNews name phase reason s) :=
  canon_failQueues (canon_sendNews h)

theorem canon_tellModule {name tag m : ℕ} {s : State} (h : Canon s) : Canon (tellModule name tag m s).2 := by
  dsimp only [tellModule]
  split
  · rename_i e
    exact canon_routeFlit e (canon_mk h)
  · rename_i e
    exact canon_mk h

theorem canon_tellMods {b : ℕ} {s : State} (h : Canon s) : Canon (tellMods b s).2 :=
  canon_foldl_snd (fun _ _ ht => canon_tellModule ht) h

theorem canon_failWaits {b reason : ℕ} {s : State} (h : Canon s) : Canon (failWaits b reason s) :=
  canon_tellMods (canon_failNews h)

theorem canon_failBar {b : ℕ} {s : State} (h : Canon s) : Canon (failBar b s) :=
  canon_ite (canon_modBar (canon_failWaits h)) h

theorem canon_orFail {b : ℕ} {x : Bool × State} (hx : Canon x.2) : Canon (orFail b x) :=
  canon_ite hx (canon_failBar hx)

theorem canon_barTest {b : ℕ} {last lastC : Word} {s : State} (h : Canon s) : Canon (barTest b last lastC s) := by
  unfold barTest
  refine canon_ite
    (canon_foldl (fun _ _ ht => canon_traceSource ht) (canon_orFail (canon_tellMods (canon_sendNews (canon_mk h))))) ?_
  exact h

theorem canon_countArrival {b : ℕ} {node : Option ℕ} {away : Option (Bool × ℕ)} {last lastC : Word} {s : State}
    (h : Canon s) : Canon (countArrival b node away last lastC s) := canon_barTest (canon_modBar h)

theorem canon_modArrival {a : Arrival} {f : ArrEntry → ArrEntry} {s : State} (h : Canon s) : Canon (modArrival a f s) := by
  dsimp only [modArrival]
  split
  · exact h
  · exact canon_modCore h

theorem canon_portDrop {p : ℕ} {s : State} (h : Canon s) : Canon (portDrop p s) := canon_mk h

theorem canon_answerArrival {a : Arrival} {s : State} (h : Canon s) : Canon (answerArrival a s) := by
  dsimp only [answerArrival]
  refine canon_ite h ?_
  split
  · exact canon_orFail (canon_tellModule h)
  · exact canon_tellModule h

theorem canon_noteModule {b : ℕ} {a : Arrival} {s : State} (h : Canon s) : Canon (noteModule b a s) :=
  canon_ite h (canon_modBar h)

theorem canon_countedAt {a : Arrival} {s : State} (h : Canon s) : Canon (countedAt a s) := by
  dsimp only [countedAt]
  split
  · exact canon_countArrival (canon_modArrival (canon_answerArrival (canon_noteModule h)))
  · split
    · exact canon_portDrop (canon_modArrival (canon_answerArrival h))
    · exact canon_modArrival (canon_answerArrival h)

theorem canon_takeArrival {a : Arrival} {s : State} (h : Canon s) : Canon (takeArrival a s) := by
  dsimp only [takeArrival]
  split
  · exact canon_countedAt h
  · exact canon_ite (canon_barTest (canon_modBar h)) h
  · exact canon_ite (canon_modBar h) h
  · exact canon_answerArrival (canon_noteModule h)
  · exact canon_answerArrival h
  · exact h

theorem canon_podLost {name : ℕ} {s : State} (h : Canon s) : Canon (podLost name s) := by
  dsimp only [podLost]
  refine canon_ite ?_ (canon_tellModule (canon_mk h))
  split
  · exact canon_failBar h
  · exact h

theorem canon_sendFar {name tag : ℕ} {s : State} (h : Canon s) : Canon (sendFar name tag s) := by
  dsimp only [sendFar]
  split
  · rename_i e
    exact canon_routeFlit e (canon_mk h)
  · rename_i e
    exact canon_podLost (canon_mk h)

theorem canon_tellHomes {k : ℕ} {s : State} (h : Canon s) : Canon (tellHomes k s) :=
  canon_foldl (fun _ _ ht => canon_sendFar ht) h

/-! ### Ops -/

theorem canon_withdraw {k core rtop : ℕ} {cycle : Word} {s : State} (h : Canon s) :
    Canon (withdraw k core rtop cycle s) := canon_tellHomes (canon_foldl (fun _ _ ht => canon_barTest ht) h)

/-! ### Barrier -/

theorem canon_unbind {k : ℕ} {s : State} (h : Canon s) : Canon (unbind k s) := canon_mk (canon_tellHomes h)

theorem canon_bcfgWrite {b : ℕ} {v : Word} {s : State} (h : Canon s) : Canon (bcfgWrite b v s) := by
  unfold bcfgWrite
  refine canon_ite
    (canon_barTest (canon_ite (canon_modBar h) (canon_orFail (canon_tellMods (canon_sendNews (canon_modBar h)))))) ?_
  exact canon_modBar (canon_ite (canon_failWaits h) h)

theorem canon_scrubBarriers {tag : ℕ} {s : State} (h : Canon s) : Canon (scrubBarriers tag s) := canon_mk h

theorem canon_portWrite {p src : ℕ} {s : State} (h : Canon s) : Canon (portWrite p src s) :=
  canon_ite (canon_portDrop h) (canon_mk h)

theorem canon_bportWrite {p : ℕ} {v : Word} {s : State} (h : Canon s) : Canon (bportWrite p v s) := canon_mk h

/-! ### Fold -/

theorem canon_fTrap {s : State} {cause : ℕ} {taddr : Word} (h : Canon s) : Canon (fTrap s cause taddr) :=
  canon_ite (canon_fixedTrap h) (canon_takeTrap h)

theorem canon_modMyArray {s : State} {f : FoldArray → FoldArray} (h : Canon s) : Canon (s.modMyArray f) :=
  canon_modArray h

theorem canon_modFold {s : State} {f : FoldCore → FoldCore} (h : Canon s) : Canon (s.modFold f) := canon_modMe h

theorem canon_arrayOp {s : State} {k : State → State} (h : Canon s) (hk : ∀ t, Canon t → Canon (k t)) :
    Canon (arrayOp s k) := canon_ite (hk _ h) (canon_fTrap h)

theorem canon_idleOp {s : State} {k : State → State} (h : Canon s) (hk : ∀ t, Canon t → Canon (k t)) :
    Canon (idleOp s k) := canon_arrayOp h (fun _ ht => canon_ite (canon_fTrap ht) (hk _ ht))

theorem canon_requestLease {wide : Bool} {a : Word} {s : State} (h : Canon s) : Canon (requestLease wide a s) := by
  dsimp only [requestLease]
  split
  · exact canon_fTrap h
  · exact canon_fTrap h
  · exact canon_holdNow h
  · exact canon_ite (canon_fTrap h) (canon_modFold h)

theorem canon_leaseGrant {q : ℕ} {s : State} (h : Canon s) : Canon (leaseGrant q s) := by
  dsimp only [leaseGrant]
  refine canon_ite h ?_
  split
  · exact h
  · exact canon_monRecord (canon_modCore (canon_modArray h))

theorem canon_modFeed {s : State} {k : ℕ} {f : Feed → Feed} (h : Canon s) : Canon (s.modFeed k f) := canon_modRegs h

theorem canon_useFeed {k : ℕ} {s : State} (h : Canon s) : Canon (useFeed k s).2 := canon_modFeed h

theorem canon_stepOp {taps : Bool} {s : State} {k : State → State} (h : Canon s) (hk : ∀ t, Canon t → Canon (k t)) :
    Canon (stepOp taps s k) :=
  canon_arrayOp h (fun _ ht => canon_ite (canon_fTrap ht) (canon_ite (canon_fTrap ht) (hk _ ht)))

theorem canon_enterStep {taps : Bool} {a : List (List ℤ)} {sel : List ℕ} {b : List ℤ} {s : State} (h : Canon s) :
    Canon (enterStep taps a sel b s) := canon_refresh (canon_modMyArray h)

theorem canon_denseStep {taps : Bool} {fa fb c : ℕ} {s : State} (h : Canon s) : Canon (denseStep taps fa fb c s) :=
  canon_stepOp h (fun _ ht => canon_enterStep (canon_useFeed (canon_useFeed ht)))

theorem canon_sparseStep {taps : Bool} {fb r : ℕ} {s : State} (h : Canon s) : Canon (sparseStep taps fb r s) :=
  canon_stepOp h (fun _ ht => canon_enterStep (canon_useFeed ht))

theorem canon_foldLand {q : ℕ} {s : State} (h : Canon s) : Canon (foldLand q s) := canon_modArray h

theorem canon_countDrain {s : State} (h : Canon s) : Canon (countDrain s) :=
  canon_ite (canon_modMyArray h) (canon_modFold (canon_modMyArray h))

theorem canon_drainTake {ka fs c : ℕ} {vals : FMap ℤ} {s : State} (h : Canon s) : Canon (drainTake ka fs c vals s) :=
  canon_refresh (canon_countDrain (canon_modMyArray (canon_useFeed h)))

/-! ### Access -/

theorem canon_askWalk {w : Bool} {va kind : ℕ} {s : State} (h : Canon s) : Canon (askWalk w va kind s) :=
  canon_modMe h

theorem canon_dropWalks {w : Bool} {s : State} (h : Canon s) : Canon (dropWalks w s) := canon_modMe h

theorem canon_watchReport {hits : List ℕ} {bn slot : ℕ} {trap : State → State} {s : State}
    (htrap : ∀ t, Canon t → Canon (trap t)) (h : Canon s) : Canon (watchReport hits bn slot trap s) :=
  canon_ite (canon_haltCore (canon_traceSource (canon_modMe h))) (htrap _ (canon_traceSource (canon_modMe h)))

theorem canon_issueAccess {x : Acc} {hold : State → State} {trap : ℕ → Word → State → State}
    {queue : Option ℕ → State → State} {s : State} (hhold : ∀ t, Canon t → Canon (hold t))
    (htrap : ∀ x1 x2 t, Canon t → Canon (trap x1 x2 t)) (hqueue : ∀ x1 t, Canon t → Canon (queue x1 t)) (h : Canon s) :
    Canon (issueAccess x hold trap queue s) := by
  dsimp only [issueAccess]
  refine canon_ite (htrap _ _ _ (canon_dropWalks h)) ?_
  split
  · exact hhold _ (canon_askWalk h)
  · exact htrap _ _ _ (canon_dropWalks h)
  · exact canon_ite (hhold _ h) (canon_ite (htrap _ _ _ (canon_dropWalks h)) (hqueue _ _ h))
  · refine canon_ite (canon_watchReport (fun _ ht => htrap _ _ _ ht) h) ?_
    refine canon_ite (htrap _ _ _ (canon_dropWalks h)) ?_
    split
    · exact htrap _ _ _ (canon_dropWalks h)
    · exact hqueue _ _ h

theorem canon_settleAcq {s : State} (h : Canon s) : Canon (settleAcq s) := canon_ite (canon_modMe h) h

/-! ### GlobalStore -/

theorem canon_enterStore {r : Req StOp} {s : State} (h : Canon s) : Canon (enterStore r s) :=
  canon_wPop (canon_modPipe h)

theorem canon_wHold {s : State} (h : Canon s) : Canon (wHold s) := h

theorem canon_withStoreEntry {s : State} {k : State → State} (h : Canon s) (hk : ∀ t, Canon t → Canon (k t)) :
    Canon (withStoreEntry s k) := canon_ite (canon_wHold h) (hk _ h)

theorem canon_globalStore {op : StOp} {n ulen al v : ℕ} {ea : Word} {own : ℕ → Option ℕ} {s : State} (h : Canon s) :
    Canon (globalStore op n ulen al v ea own s) :=
  canon_withStoreEntry h
    (fun _ ht =>
      canon_issueAccess
        (fun _ ht1 => canon_wHold ht1)
        (fun _ _ _ ht1 => canon_wStoreTrap ht1)
        (fun _ _ ht1 => canon_dropWalks (canon_enterStore (canon_settleAcq ht1))) ht)

theorem canon_vectorStore {op : StOp} {v : ℕ} {ea : Word} {s : State} (h : Canon s) : Canon (vectorStore op v ea s) :=
  canon_globalStore h

theorem canon_scalarStore {op : StOp} {t : BitVec 5} {v : ℕ} {ea : Word} {s : State} (h : Canon s) :
    Canon (scalarStore op t v ea s) := canon_globalStore h

theorem canon_withBoth {s : State} {k : State → State} (h : Canon s) (hk : ∀ t, Canon t → Canon (k t)) :
    Canon (withBoth s k) := canon_ite (canon_wHold h) (canon_withStoreEntry h (fun _ ht => hk _ ht))

theorem canon_addPartner {s : State} (h : Canon s) : Canon (addPartner s) := canon_modPipe h

theorem canon_fenceW {op : StOp} {scope : ℕ} {s : State} (h : Canon s) : Canon (fenceW op scope s) :=
  canon_withBoth h (fun _ ht => canon_ite (canon_enterStore (canon_addPartner (canon_settleAcq ht))) (canon_wHold ht))

theorem canon_atomicW {op : ℕ} {t : BitVec 3} {n : BitVec 1} {m : BitVec 2} {cas : Bool} {acq rel : Option ℕ} {s : State}
    (h : Canon s) : Canon (atomicW op t n m cas acq rel s) := by
  unfold atomicW
  extract_lets _ _ go
  have hgo : ∀ s1, Canon s1 → Canon (go s1) := fun _ ht =>
    canon_issueAccess
      (fun _ ht1 => canon_wHold ht1)
      (fun _ _ _ ht1 => canon_wTrap ht1)
      (fun _ _ ht1 =>
        canon_dropWalks (canon_enterStore (canon_ite (canon_settleAcq ht1) (canon_addPartner (canon_settleAcq ht1))))) ht
  exact canon_ite (canon_withStoreEntry h hgo) (canon_withBoth h hgo)

theorem canon_lineOp {op : StOp} {s : State} (h : Canon s) : Canon (lineOp op s) := by
  dsimp only [lineOp]
  refine canon_withStoreEntry h (fun _ ht => ?_)
  refine canon_ite (canon_wTrap ht) ?_
  split
  · exact canon_wHold (canon_askWalk ht)
  · exact canon_ite (canon_dropWalks (canon_wPop ht)) (canon_wTrap (canon_dropWalks ht))
  · exact canon_dropWalks (canon_wPop ht)
  · split
    · exact canon_wTrap (canon_dropWalks ht)
    · exact canon_dropWalks (canon_enterStore (canon_settleAcq ht))

theorem canon_plainEntryAt {va : Word} {op : StOp} {v : ℕ} {s : State} (h : Canon s) : Canon (plainEntryAt va op v s) :=
  canon_withStoreEntry h (fun _ ht => canon_enterStore (canon_settleAcq ht))

theorem canon_plainEntry {op : StOp} {v : ℕ} {s : State} (h : Canon s) : Canon (plainEntry op v s) :=
  canon_plainEntryAt h

theorem canon_withCommand {target : ℕ} {k : State → State} {s : State} (hk : ∀ t, Canon t → Canon (k t)) (h : Canon s) :
    Canon (withCommand target k s) := canon_ite (hk _ h) (canon_mk (canon_wTrap h))

theorem canon_ringW {wake : Bool} {s : State} (h : Canon s) : Canon (ringW wake s) := by
  unfold ringW
  refine canon_ite (canon_wTrap h) ?_
  exact canon_withStoreEntry h (fun _ ht => canon_withCommand (fun _ ht1 => canon_plainEntry ht1) ht)

theorem canon_engineStore {op : ℕ → StOp} {own : ℕ → Option ℕ} {busy : Option ℕ} {pre : State → State} {s : State}
    (hpre : ∀ t, Canon t → Canon (pre t)) (h : Canon s) : Canon (engineStore op own busy pre s) := by
  dsimp only [engineStore]
  refine canon_withStoreEntry h (fun _ ht => ?_)
  refine canon_ite (canon_wStoreTrap (canon_dropWalks ht)) ?_
  split
  · exact canon_wHold (canon_askWalk ht)
  · exact canon_wStoreTrap (canon_dropWalks ht)
  · refine canon_ite (canon_wHold ht) ?_
    refine canon_ite (canon_wStoreTrap (canon_dropWalks ht)) ?_
    split
    · exact canon_wStoreTrap (canon_dropWalks ht)
    · exact canon_dropWalks (canon_enterStore (hpre _ (canon_settleAcq ht)))
  · refine canon_ite (canon_watchReport (fun _ ht1 => canon_wStoreTrap (canon_dropWalks ht1)) ht) ?_
    refine canon_ite (canon_wStoreTrap (canon_dropWalks ht)) ?_
    refine canon_ite (canon_wStoreTrap (canon_dropWalks ht)) ?_
    split
    · exact canon_wStoreTrap (canon_dropWalks ht)
    · split
      · exact canon_wStoreTrap (canon_dropWalks ht)
      · exact canon_dropWalks (canon_enterStore (hpre _ (canon_settleAcq ht)))

theorem canon_commandW {stamp : Bool} {s : State} (h : Canon s) : Canon (commandW stamp s) := by
  dsimp only [commandW]
  split <;> exact canon_engineStore (fun _ ht => canon_mk ht) h

/-! ### Irq -/

theorem canon_setIrq {s : State} {v : ℕ} {x : Irq} (h : Canon s) : Canon (s.setIrq v x) := canon_mk h

theorem canon_tell {s : State} {m : HostMsg} (h : Canon s) : Canon (s.tell m) := canon_mk h

theorem canon_irqSend {v : ℕ} {s : State} (h : Canon s) : Canon (irqSend v s) :=
  canon_ite (canon_setIrq h) (canon_tell (canon_setIrq h))

theorem canon_irqRequest {v : ℕ} {s : State} (h : Canon s) : Canon (irqRequest v s) :=
  canon_ite (canon_irqSend (canon_setIrq h)) (canon_setIrq h)

theorem canon_irqcoalWrite {v : ℕ} {w : Word} {s : State} (h : Canon s) : Canon (irqcoalWrite v w s) :=
  canon_ite (canon_irqSend (canon_setIrq h)) (canon_setIrq h)

/-! ### Journal -/

theorem canon_modDisp {s : State} {d : ℕ} {f : Disp → Disp} (h : Canon s) : Canon (s.modDisp d f) := canon_mk h

theorem canon_modQueue {s : State} {q : ℕ} {f : Queue → Queue} (h : Canon s) : Canon (s.modQueue q f) := canon_mk h

theorem canon_farRest {q : ℕ} {s : State} (h : Canon s) : Canon (farRest q s) := canon_ite h (canon_farDone h)

theorem canon_dispEnter {d tag kind va n : ℕ} {s : State} (h : Canon s) : Canon (dispEnter d tag kind va n s) :=
  canon_mk h

theorem canon_dispWrite {d tag va n v : ℕ} {s : State} (h : Canon s) : Canon (dispWrite d tag va n v s) :=
  canon_dispEnter (canon_memWrite h)

theorem canon_journalWrite {d tag va n v : ℕ} {s : State} (h : Canon s) : Canon (journalWrite d tag va n v s) :=
  canon_dispEnter (canon_memWrite h)

theorem canon_putRecord {d tag : ℕ} {r : BitVec 256} {s : State} (h : Canon s) : Canon (putRecord d tag r s) := by
  dsimp only [putRecord]
  split
  · exact h
  · exact canon_setCtx (canon_journalWrite (canon_journalWrite h))

theorem canon_flushHeld {d tag : ℕ} {kept l : List (BitVec 256)} {s : State} (h : Canon s) :
    Canon (flushHeld d tag kept l s) := by
  induction l generalizing kept s with
  | nil => exact canon_setCtx h
  | cons r l ih => exact canon_ite (ih (canon_putRecord h)) (ih h)

theorem canon_flushJournal {d tag : ℕ} {s : State} (h : Canon s) : Canon (flushJournal d tag s) :=
  canon_ite h (canon_flushHeld h)

theorem canon_journal {d tag : ℕ} {r : BitVec 256} {s : State} (h : Canon s) : Canon (journal d tag r s) :=
  canon_flushHeld h

theorem canon_journalPk {p : Packet} {r : BitVec 256} {s : State} (h : Canon s) : Canon (journalPk p r s) :=
  canon_journal h

theorem canon_modPacket {q n : ℕ} {f : Packet → Packet} {s : State} (h : Canon s) : Canon (modPacket q n f s) :=
  canon_modQueue h

theorem canon_dropPacket {q : ℕ} {p : Packet} {s : State} (h : Canon s) : Canon (dropPacket q p s) :=
  canon_ite (canon_modQueue h) (canon_setCtx (canon_modQueue h))

theorem canon_endPacket {q : ℕ} {p : Packet} {code detail : ℕ} {s : State} (h : Canon s) :
    Canon (endPacket q p code detail s) := canon_dropPacket (canon_journalPk h)

theorem canon_failPacket {q : ℕ} {p : Packet} {code detail : ℕ} {s : State} (h : Canon s) :
    Canon (failPacket q p code detail s) := canon_irqRequest (canon_endPacket h)

theorem canon_settlePacket {q n : ℕ} {s : State} (h : Canon s) : Canon (settlePacket q n s) := by
  dsimp only [settlePacket]
  split
  · exact h
  · refine canon_ite ?_ h
    split
    · exact canon_failPacket h
    · exact canon_dropPacket (canon_journalPk h)

/-! ### Engine -/

theorem canon_modChan {s : State} {c : ℕ} {f : Chan → Chan} (h : Canon s) : Canon (s.modChan c f) := canon_mk h

theorem canon_tokenEdge {n : ℕ} {r : CoreRegs} {t : ℕ} {ready : Bool} {s : State} (h : Canon s) :
    Canon (tokenEdge n r t ready s) := canon_mk h

theorem canon_settleToken {n t owner : ℕ} {ok : Bool} {s : State} (h : Canon s) : Canon (settleToken n t owner ok s) :=
  canon_foldl (fun _ _ ht => canon_tokenEdge ht) (canon_modCore h)

theorem canon_setTokens {n mask : ℕ} {s : State} (h : Canon s) : Canon (setTokens n mask s) :=
  canon_foldl (fun _ _ ht => canon_ite (canon_tokenEdge (canon_modCore ht)) ht) h

theorem canon_resetTokens {n : ℕ} {s : State} (h : Canon s) : Canon (resetTokens n s) :=
  canon_foldl (fun _ _ ht => canon_tokenEdge ht) (canon_modCore h)

theorem canon_refuseAt {n : ℕ} {s : State} (h : Canon s) : Canon (refuseAt n s) := canon_modCore h

theorem canon_dropStore {n : ℕ} {o : Bool} {i : ℕ} {s : State} (h : Canon s) : Canon (dropStore n o i s) :=
  canon_modCore h

theorem canon_acceptCore {n k : ℕ} {s : State} (h : Canon s) : Canon (acceptCore n k s) := by
  dsimp only [acceptCore]
  split
  · exact h
  · split
    · refine canon_ite h ?_
      refine canon_ite ?_ (canon_ite h (canon_modChan (canon_dropStore h)))
      split
      · exact canon_settleToken (canon_refuseAt (canon_dropStore h))
      · exact canon_refuseAt (canon_dropStore h)
    · exact h

theorem canon_acceptDisp {d : ℕ} {s : State} (h : Canon s) : Canon (acceptDisp d s) := by
  dsimp only [acceptDisp]
  split
  · exact h
  · exact canon_ite h (canon_modChan (canon_modDisp h))

theorem canon_engineAsk {c : ℕ} {wr : Bool} {l : List ℕ} {s : State} (h : Canon s) : Canon (engineAsk c wr l s) :=
  canon_farAsk h

theorem canon_engineEnter {c kind : ℕ} {rs : List (ℕ × ℕ)} {s : State} (h : Canon s) : Canon (engineEnter c kind rs s) :=
  canon_mk h

theorem canon_modHead {c : ℕ} {f : Cmd → Cmd} {s : State} (h : Canon s) : Canon (modHead c f s) := canon_modChan h

theorem canon_endCmd {c : ℕ} {m : Cmd} {code : ℕ} {stampFail : Option ℕ} {s : State} (h : Canon s) :
    Canon (endCmd c m code stampFail s) := by
  unfold endCmd
  extract_lets _ _ s1 s2 s3
  have h1 : Canon s1 := canon_modChan (canon_farDone h)
  have h2 : Canon s2 := by
    unfold s2
    split
    · exact canon_settleToken h1
    · exact h1
  have h3 : Canon s3 := by
    unfold s3
    split
    · exact canon_settlePacket (canon_ite (canon_modPacket h2) h2)
    · exact h2
  exact canon_ite (canon_monRecord h3) h3

theorem canon_stampStore {c a v : ℕ} {s : State} (h : Canon s) : Canon (stampStore c a v s) := by
  dsimp only [stampStore]
  split
  · exact canon_ite (canon_portWrite h) (canon_engineEnter (canon_memWrite h))
  · exact h

theorem canon_tryStamp {c : ℕ} {s : State} (h : Canon s) : Canon (tryStamp c s) := by
  dsimp only [tryStamp]
  split
  · exact h
  · split
    · exact h
    · refine canon_ite h ?_
      split
      · split
        · exact canon_endCmd h
        · exact h
      · split
        · exact canon_ite (canon_engineAsk h) (canon_ite (canon_endCmd h) (canon_endCmd (canon_stampStore h)))
        · exact h
        · exact canon_endCmd h

theorem canon_payloadWrite {c : ℕ} {t : Tmpl} {s : State} (h : Canon s) : Canon (payloadWrite c t s) :=
  canon_engineEnter (canon_engineEnter (canon_ite (canon_memWrite h) (canon_cleanLines (canon_memWrite h))))

theorem canon_payloadPart {c : ℕ} {t : Tmpl} {s : State} (h : Canon s) : Canon (payloadPart c t s) :=
  canon_ite h (canon_mk (canon_memWrite h))

theorem canon_headResult {c code : ℕ} {s : State} (h : Canon s) : Canon (headResult c code s) :=
  canon_farDone (canon_modHead h)

theorem canon_failChan {c code : ℕ} {s : State} (h : Canon s) : Canon (failChan c code s) := by
  dsimp only [failChan]
  refine canon_modChan ?_
  refine canon_farDone ?_
  split
  · split
    · exact canon_ite h (canon_payloadPart h)
    · exact h
  · exact h

theorem canon_engineWalk {c : ℕ} {s : State} (h : Canon s) : Canon (engineWalk c s) := by
  dsimp only [engineWalk]
  split
  · exact h
  · refine canon_ite h ?_
    split
    · exact canon_postUnit (canon_modHead h)
    · exact canon_engineEnter h

theorem canon_chanWrite {c o : ℕ} {v : Word} {s : State} (h : Canon s) : Canon (chanWrite c o v s) := by
  unfold chanWrite
  refine canon_ite (canon_modChan h) ?_
  exact canon_ite (canon_modChan h) (canon_ite (canon_ite (canon_failChan h) h) (canon_ite (canon_modChan h) h))

theorem canon_killChans {tag : ℕ} {s : State} (h : Canon s) : Canon (killChans tag s) := canon_farKill (canon_mk h)

theorem canon_wakeEngines {ready : ℕ → Bool} {s : State} (h : Canon s) : Canon (wakeEngines ready s) := canon_mk h

/-! ### GlobalLoad -/

theorem canon_trapL {c : ℕ} {a : Word} {s : State} (h : Canon s) : Canon (trapL c a s) := canon_fixedTrap h

theorem canon_enterLoad {r : Req LdOp} {mask : Option (ℕ × Mask)} {s : State} (h : Canon s) :
    Canon (enterLoad r mask s) := canon_modPipe h

theorem canon_globalLoad {op : LdOp} {how : Deliver} {n ulen al : ℕ} {ea : Word} {own : ℕ → Option ℕ} {s : State}
    (h : Canon s) : Canon (globalLoad op how n ulen al ea own s) := by
  unfold globalLoad
  refine canon_ite (canon_fixedTrap h) ?_
  refine canon_ite (canon_holdNow h) ?_
  exact canon_issueAccess
    (fun _ ht => canon_holdNow ht)
    (fun _ _ _ ht => canon_trapL ht)
    (fun _ _ ht => canon_dropWalks (canon_enterLoad (canon_settleAcq ht))) h

theorem canon_scalarLoad {op : LdOp} {t : BitVec 5} {how : Deliver} {ea : Word} {own : ℕ → Option ℕ} {s : State}
    (h : Canon s) : Canon (scalarLoad op t how ea own s) := canon_globalLoad h

theorem canon_vectorLoad {op : LdOp} {ea : Word} {s : State} (h : Canon s) : Canon (vectorLoad op ea s) :=
  canon_globalLoad h

theorem canon_zeroEntry {s : State} (h : Canon s) : Canon (zeroEntry s) :=
  canon_withEntry h (fun _ ht => canon_modPipe ht)

theorem canon_waitLoad {ne : Bool} {c : BitVec 3} {a b : BitVec 6} {t : BitVec 5} {s : State} (h : Canon s) :
    Canon (waitLoad ne c a b t s) := canon_scalarLoad h

theorem canon_prefetch {intoL1 : Bool} {ea : Word} {s : State} (h : Canon s) : Canon (prefetch intoL1 ea s) := by
  dsimp only [prefetch]
  refine canon_ite h ?_
  split
  · rename_i e
    refine canon_ite (canon_enterLoad (canon_settleAcq (canon_snd e (canon_walkNow h)))) ?_
    exact canon_snd e (canon_walkNow h)
  · rename_i e
    exact canon_snd e (canon_walkNow h)

/-! ### Window -/

theorem canon_setWin {s : State} {n : ℕ} {w : Window} (h : Canon s) : Canon (s.setWin n w) := canon_modRegs h

theorem canon_fillUnits {va : ℕ} {s : State} (h : Canon s) : Canon (fillUnits va s).2 := by
  dsimp only [fillUnits]
  split
  · exact h
  · split
    · rename_i e
      exact canon_snd e (canon_walkNow h)
    · rename_i e
      exact canon_snd e (canon_walkNow h)

theorem canon_startFill {n j bn : ℕ} {addr : Word} {s : State} (h : Canon s) : Canon (startFill n j bn addr s) :=
  canon_modPipe (canon_setWin (canon_fillUnits h))

theorem canon_dropFill {n j : ℕ} {s : State} (h : Canon s) : Canon (dropFill n j s) := canon_modRegs h

theorem canon_modFill {n j : ℕ} {f : Req LdOp → Req LdOp} {s : State} (h : Canon s) : Canon (modFill n j f s) :=
  canon_modRegs h

theorem canon_endFill {n j : ℕ} {st : SlotSt} {s : State} (h : Canon s) : Canon (endFill n j st s) :=
  canon_dropFill (canon_setWin h)

theorem canon_writeBack {n j bn : ℕ} {addr : Word} {s : State} (h : Canon s) : Canon (writeBack n j bn addr s) := by
  dsimp only [writeBack]
  refine canon_ite h ?_
  refine canon_ite (canon_setWin h) ?_
  split
  · rename_i e
    refine canon_ite (canon_setWin (canon_snd e (canon_walkNow h))) ?_
    exact canon_modPipe (canon_setWin (canon_snd e (canon_walkNow h)))
  · rename_i e
    exact canon_modPipe (canon_setWin (canon_snd e (canon_walkNow h)))
  · rename_i e
    exact canon_setWin (canon_snd e (canon_walkNow h))

theorem canon_writeBackAll {n bn : ℕ} {addr : Word} {js : List ℕ} {s : State} (h : Canon s) :
    Canon (writeBackAll n bn addr js s) := canon_foldl (fun _ _ ht => canon_writeBack ht) h

theorem canon_mapWindow {n bn : ℕ} {addr : Word} {d : ℕ} {s : State} (h : Canon s) : Canon (mapWindow n bn addr d s) := by
  unfold mapWindow
  extract_lets _ s1 s2 _ _ _ s3
  have h1 : Canon s1 := canon_ite (canon_writeBackAll h) h
  have h2 : Canon s2 := canon_foldl (fun _ _ ht => canon_dropFill ht) h1
  have h3 : Canon s3 := canon_setWin h2
  exact canon_ite h3 (canon_foldl (fun _ _ ht => canon_startFill ht) h3)

theorem canon_advance {n d : ℕ} {s : State} (h : Canon s) : Canon (advance n d s) := by
  unfold advance
  extract_lets _ _ s1 s2 _ s3
  have h1 : Canon s1 := canon_writeBackAll h
  have h2 : Canon s2 := canon_foldl (fun _ _ ht => canon_dropFill (canon_setWin ht)) h1
  have h3 : Canon s3 := canon_setWin h2
  exact canon_ite h3 (canon_foldl (fun _ _ ht => canon_startFill ht) h3)

theorem canon_touchFill {o bn : ℕ} {addr : Word} {s : State} (h : Canon s) : Canon (touchFill o bn addr s) :=
  canon_foldl (fun _ _ ht => canon_ite (canon_startFill ht) ht) h

theorem canon_markDirty {o : ℕ} {s : State} (h : Canon s) : Canon (markDirty o s) :=
  canon_foldl (fun _ _ ht => canon_setWin ht) h

theorem canon_fillBytes {n j k : ℕ} {read : ℕ → Byte} {s : State} (h : Canon s) : Canon (fillBytes n j k read s) :=
  canon_foldl (fun _ _ ht => canon_ite ht (wf_writeByteAs ht)) h

theorem canon_fillWalk {n j : ℕ} {r : Req LdOp} {s : State} (h : Canon s) : Canon (fillWalk n j r s) := by
  dsimp only [fillWalk]
  refine canon_ite h ?_
  refine canon_ite (canon_endFill h) ?_
  split
  · rename_i e
    exact canon_ite (canon_endFill (canon_snd e (canon_walkNow h))) (canon_modFill (canon_snd e (canon_walkNow h)))
  · rename_i e
    exact canon_endFill (canon_snd e (canon_walkNow h))
  · rename_i e
    exact canon_endFill (canon_snd e (canon_walkNow h))

theorem canon_atCore {n : ℕ} {f : State → State} {s : State} (hf : ∀ t, Canon t → Canon (f t)) (h : Canon s) :
    Canon (atCore n f s) := canon_mk (hf _ (canon_mk h))

theorem canon_wakeSlots {wake : ℕ → Bool} {s : State} (h : Canon s) : Canon (wakeSlots wake s) := by
  dsimp only [wakeSlots]
  refine canon_foldl (fun _ _ ht => ?_) h
  refine canon_foldl (fun _ _ ht1 => ?_) ht
  split
  · exact canon_ite (canon_startFill ht1) ht1
  · exact ht1

/-! ### Wake -/

theorem canon_rewalkPages {n kind : ℕ} {cause : Option ℕ} {l : List ℕ} {s : State} (h : Canon s) :
    Canon (rewalkPages n kind cause l s).2 := by
  induction l generalizing s with
  | nil => exact h
  | cons va l ih =>
    unfold rewalkPages
    split
    · rename_i e
      exact canon_snd e (canon_walkNow h)
    · rename_i e
      exact canon_snd e (canon_walkNow h)
    · rename_i e
      exact canon_snd e (canon_walkNow h)
    · rename_i e
      have h1 := ih (canon_snd e (canon_walkNow h))
      split
      · rename_i e1
        exact canon_snd e1 h1
      · exact h1

theorem canon_rewalk {α : Type} {n kind : ℕ} {cause : Option ℕ} {own : ℕ → Option ℕ} {r : Req α} {s : State}
    (h : Canon s) : Canon (rewalk n kind cause own r s).1 := by
  dsimp only [rewalk]
  split
  · rename_i e
    exact canon_snd e (canon_rewalkPages h)
  · rename_i e
    exact canon_snd e (canon_rewalkPages h)
  · rename_i e
    exact canon_snd e (canon_rewalkPages h)
  · rename_i e
    split <;> exact canon_snd e (canon_rewalkPages h)

theorem canon_absentPages {n : ℕ} {l : List ℕ} {s : State} (h : Canon s) : Canon (absentPages n l s).2.2 := by
  induction l generalizing s with
  | nil => exact h
  | cons va l ih =>
    unfold absentPages
    split
    · rename_i e
      exact canon_snd e (canon_walkNow h)
    · rename_i e
      have h1 := ih (canon_snd e (canon_walkNow h))
      split
      · rename_i e1
        exact canon_snd_snd e1 h1
      · exact h1
    · rename_i e
      have h1 := canon_snd e (canon_walkNow h)
      split
      · exact ih h1
      · exact h1
    · rename_i e
      exact ih (canon_snd e (canon_walkNow h))

theorem canon_rewalkLdr {n : ℕ} {o : Bool} {r : Req LdOp} {s : State} (h : Canon s) : Canon (rewalkLdr n o r s).1 := by
  dsimp only [rewalkLdr]
  split
  · rename_i e
    exact canon_snd_snd e (canon_absentPages h)
  · rename_i e
    exact canon_snd_snd e (canon_absentPages h)
  · rename_i e
    exact canon_snd_snd e (canon_absentPages h)
  · rename_i e
    split
    · exact canon_snd_snd e (canon_absentPages h)
    · exact canon_modCore (canon_snd_snd e (canon_absentPages h))

theorem canon_rewalkLoad {n : ℕ} {o : Bool} {r : Req LdOp} {s : State} (h : Canon s) : Canon (rewalkLoad n o r s).1 := by
  dsimp only [rewalkLoad]
  split
  · exact canon_rewalkLdr h
  · split <;> exact canon_rewalk h

theorem canon_rewalkStore {n : ℕ} {r : Req StOp} {s : State} (h : Canon s) : Canon (rewalkStore n r s).1 :=
  canon_rewalk h

theorem canon_rewalkAll {α : Type} {walk : Req α → State → State × List (Req α)} {pick : Req α → Bool} {s : State}
    {l : List (Req α)} (hwalk : ∀ x t, Canon t → Canon (walk x t).1) (h : Canon s) : Canon (rewalkAll walk pick s l).1 := by
  dsimp only [rewalkAll]
  refine canon_foldl_fst (fun _ _ ht => ?_) h
  split
  · exact hwalk _ _ ht
  · exact ht

theorem canon_failBack {n : ℕ} {r : Req StOp} {s : State} (h : Canon s) : Canon (failBack n r s) := by
  dsimp only [failBack]
  split
  · exact canon_modCore h
  · exact h

theorem canon_rewalkPipe {n : ℕ} {o : Bool} {pickL : Req LdOp → Bool} {pickS : Req StOp → Bool} {s : State} (h : Canon s) :
    Canon (rewalkPipe n o pickL pickS s) :=
  canon_foldl
    (fun _ _ ht => canon_failBack ht)
    (canon_modCore <| canon_rewalkAll
      (fun _ _ ht => canon_rewalkStore ht)
      (canon_rewalkAll (fun _ _ ht => canon_rewalkLoad ht) h))

theorem canon_endPark {n : ℕ} {s : State} (h : Canon s) : Canon (endPark n s) := by
  dsimp only [endPark]
  split
  · exact h
  · exact canon_monRecord (canon_modCore h)

theorem canon_wakeCore {wake : ℕ → Bool} {n : ℕ} {s : State} (h : Canon s) : Canon (wakeCore wake n s) := by
  unfold wakeCore
  refine canon_ite h ?_
  refine canon_ite (canon_rewalkPipe (canon_rewalkPipe (canon_modCore h))) ?_
  exact canon_endPark (canon_rewalkPipe (canon_rewalkPipe (canon_modCore h)))

theorem canon_movePads {n : ℕ} {s : State} (h : Canon s) : Canon (movePads n s) := canon_modCore h

theorem canon_restoreTask {n : ℕ} {x : Susp} {s : State} (h : Canon s) : Canon (restoreTask n x s) := by
  unfold restoreTask
  extract_lets _ s1 s2 _ _ s3 s4 s5
  have h1 : Canon s1 := canon_mapPods (wf_restorePad h)
  clear_value s1
  have h5 : Canon s5 := canon_rewalkPipe (canon_rewalkPipe (canon_modQuad (canon_modCore (canon_mk h1))))
  exact canon_endPark (canon_atCore (fun _ ht => canon_wakeSlots ht) h5)

theorem canon_restoreReady {n : ℕ} {s : State} (h : Canon s) : Canon (restoreReady n s) := by
  dsimp only [restoreReady]
  refine canon_ite h ?_
  split
  · exact canon_restoreTask h
  · exact h

theorem canon_wakeSusp {wake : ℕ → Bool} {n : ℕ} {s : State} (h : Canon s) : Canon (wakeSusp wake n s) :=
  canon_ite (canon_restoreReady (canon_modCore h)) h

theorem canon_wakeLine {pa : ℕ} {s : State} (h : Canon s) : Canon (wakeLine pa s) :=
  canon_foldl
    (fun _ _ ht => canon_atCore (fun _ ht1 => canon_wakeSlots ht1) (canon_wakeSusp (canon_wakeCore ht)))
    (canon_wakeEngines h)

/-! ### Kill -/

theorem canon_releaseAt {q : ℕ} {s : State} (h : Canon s) : Canon (releaseAt q s) := canon_mk h

theorem canon_unclaim {n : ℕ} {s : State} (h : Canon s) : Canon (unclaim n s) := canon_releaseAt (canon_modQuad h)

theorem canon_unclaimNode {k : ℕ} {s : State} (h : Canon s) : Canon (unclaimNode k s) :=
  canon_foldl (fun _ _ ht => canon_unclaim ht) h

theorem canon_dropLease {n : ℕ} {s : State} (h : Canon s) : Canon (dropLease n s) := canon_modCore (canon_modArray h)

theorem canon_stopCore {n : ℕ} {s : State} (h : Canon s) : Canon (stopCore n s) :=
  canon_mapPods (canon_releaseAt (canon_modCore (canon_dropLease h)))

theorem canon_stopTasks {tag : ℕ} {s : State} (h : Canon s) : Canon (stopTasks tag s) :=
  canon_foldl
    (fun _ _ ht =>
      canon_ite
        (canon_restoreReady (canon_stopCore (canon_modCore (canon_mapPods ht))))
        (canon_modCore (canon_mapPods ht))) h

theorem canon_saveRecord {q : ℕ} {s : State} (h : Canon s) : Canon (saveRecord q s) := canon_memWrite h

theorem canon_saveChanged {s0 s : State} (h : Canon s) : Canon (saveChanged s0 s) :=
  canon_foldl (fun _ _ ht => canon_ite (canon_saveRecord ht) ht) h

theorem canon_freeSlot {q : ℕ} {s : State} (h : Canon s) : Canon (freeSlot q s) := canon_modDisp (canon_modQueue h)

theorem canon_killQueue {q tag : ℕ} {s : State} (h : Canon s) : Canon (killQueue q tag s) := by
  unfold killQueue
  refine canon_ite (canon_foldl (fun _ _ ht => canon_endPacket ht) h) ?_
  exact canon_modDisp <| canon_saveRecord <| canon_modQueue <| canon_freeSlot <| canon_foldl
    (fun _ _ ht => canon_endPacket ht) h

theorem canon_killQueues {tag : ℕ} {s : State} (h : Canon s) : Canon (killQueues tag s) :=
  canon_foldl (fun _ _ ht => canon_killQueue ht) h

theorem canon_killNodes {tag : ℕ} {s : State} (h : Canon s) : Canon (killNodes tag s) :=
  canon_foldl (fun _ _ ht => canon_mk (canon_foldl (fun _ _ ht1 => canon_releaseAt ht1) (canon_unclaimNode ht))) h

theorem canon_killCtx {tag : ℕ} {s : State} (h : Canon s) : Canon (killCtx tag s) := by
  unfold killCtx
  refine canon_ite
    (canon_scrubBarriers (canon_killChans (canon_stopTasks (canon_setCtx (canon_killNodes (canon_killQueues h)))))) ?_
  exact h

theorem canon_dropTag {tag : ℕ} {s : State} (h : Canon s) : Canon (dropTag tag s) := canon_mk h

theorem canon_scrubL1 {tag : ℕ} {s : State} (h : Canon s) : Canon (scrubL1 tag s) := canon_mk h

theorem canon_leaveChip {tag : ℕ} {s : State} (h : Canon s) : Canon (leaveChip tag s) := canon_mk h

theorem canon_scrubLinks {tag : ℕ} {s : State} (h : Canon s) : Canon (scrubLinks tag s) := canon_mk h

theorem canon_scrubCtx {tag : ℕ} {s : State} (h : Canon s) : Canon (scrubCtx tag s) :=
  canon_mk (canon_foldl (fun _ _ ht => wf_scrubCore ht) (canon_scrubL1 (canon_dropTag (canon_scrubLinks h))))

/-! ### Context -/

theorem canon_shootdown {x : Range} {s : State} (h : Canon s) : Canon (shootdown x s) := canon_mk h

theorem canon_createCtx {w : ℕ → ℕ} {s : State} (h : Canon s) : Canon (createCtx w s) := canon_mk h

theorem canon_ctxDone {err : ℕ} {s : State} (h : Canon s) : Canon (ctxDone err s) := canon_mk h

/-! ### Queue -/

theorem canon_settleCtx {tag : ℕ} {s : State} (h : Canon s) : Canon (settleCtx tag s) :=
  canon_ite (canon_leaveChip (canon_setCtx h)) h

theorem canon_displace {x : Placed} {s : State} (h : Canon s) : Canon (displace x s) :=
  canon_ite (canon_mk h) (canon_mk h)

theorem canon_failRecord {q code : ℕ} {s : State} (h : Canon s) : Canon (failRecord q code s) :=
  canon_irqRequest (canon_journal h)

theorem canon_failQueue {q code : ℕ} {s : State} (h : Canon s) : Canon (failQueue q code s) :=
  canon_settleCtx <| canon_failRecord <| canon_modQueue <| canon_freeSlot <| canon_foldl
    (fun _ _ ht => canon_failPacket ht) h

theorem canon_applyBell {q : ℕ} {wake : Option Word} {tail : Option (BitVec 32)} {s : State} (h : Canon s) :
    Canon (applyBell q wake tail s) := by
  dsimp only [applyBell]
  split
  · exact canon_modQueue h
  · exact canon_ite (canon_failQueue (canon_modQueue h)) (canon_modQueue h)
  · exact h

theorem canon_doorbell {q : ℕ} {wake : Option Word} {tail : Option (BitVec 32)} {s : State} (h : Canon s) :
    Canon (doorbell q wake tail s) :=
  canon_ite h (canon_ite (canon_modQueue h) (canon_saveChanged (canon_applyBell h)))

theorem canon_flushBells {q : ℕ} {s : State} (h : Canon s) : Canon (flushBells q s) :=
  canon_foldl (fun _ _ ht => canon_applyBell ht) (canon_modQueue h)

theorem canon_qcmdDone {err : ℕ} {s : State} (h : Canon s) : Canon (qcmdDone err s) := canon_mk h

theorem canon_defineQueue {rec : ℕ} {w : ℕ → ℕ} {s : State} (h : Canon s) : Canon (defineQueue rec w s) :=
  canon_saveRecord (canon_modQueue h)

theorem canon_removeQueue {q : ℕ} {s : State} (h : Canon s) : Canon (removeQueue q s) :=
  canon_settleCtx (canon_foldl (fun _ _ ht => canon_settlePacket ht) (canon_modQueue (canon_freeSlot h)))

theorem canon_finishUnmap {q : ℕ} {s : State} (h : Canon s) : Canon (finishUnmap q s) :=
  canon_ite h (canon_settleCtx (canon_flushBells (canon_saveRecord (canon_modQueue (canon_freeSlot h)))))

theorem canon_saveCtx {tag : ℕ} {s : State} (h : Canon s) : Canon (saveCtx tag s) :=
  canon_settleCtx <| canon_foldl
    (fun _ _ ht => canon_finishUnmap (canon_modQueue ht))
    (canon_foldl (fun _ _ ht => canon_displace ht) h)

theorem canon_reside {tag : ℕ} {s : State} (h : Canon s) : Canon (reside tag s) := by
  dsimp only [reside]
  refine canon_ite ?_ h
  refine canon_setCtx ?_
  refine canon_ite h ?_
  split
  · exact canon_saveCtx h
  · exact h

theorem canon_mapQueue {q : ℕ} {s : State} (h : Canon s) : Canon (mapQueue q s) := by
  dsimp only [mapQueue]
  refine canon_ite ?_ h
  refine canon_ite (canon_modDisp (canon_modQueue (canon_reside h))) ?_
  refine canon_ite h ?_
  split
  · exact canon_modQueue h
  · exact h

theorem canon_acceptPacket {q : ℕ} {b : BitVec 128} {arm : Bool} {s : State} (h : Canon s) :
    Canon (acceptPacket q b arm s) := by
  unfold acceptPacket
  refine canon_ite (canon_journalPk (canon_journalPk (canon_modQueue (canon_journalPk (canon_setCtx h))))) ?_
  exact canon_modQueue (canon_modQueue (canon_journalPk (canon_setCtx h)))

theorem canon_acceptRing {q : ℕ} {s : State} (h : Canon s) : Canon (acceptRing q s) := by
  dsimp only [acceptRing]
  split
  · exact canon_acceptPacket (canon_modQueue (canon_dispEnter h))
  · exact canon_postUnit (canon_modQueue h)
  · exact canon_failQueue h
  · exact canon_failQueue h

theorem canon_acceptNext {q : ℕ} {s : State} (h : Canon s) : Canon (acceptNext q s) := by
  dsimp only [acceptNext]
  refine canon_ite ?_ (canon_flushJournal h)
  split
  · exact canon_acceptPacket (canon_flushJournal h)
  · exact canon_acceptRing (canon_flushJournal h)

/-! ### Fetch -/

theorem canon_slotWalk {n slot : ℕ} {s : State} (h : Canon s) : Canon (slotWalk n slot s) := by
  dsimp only [slotWalk]
  split
  · exact h
  · split
    · rename_i e
      exact canon_snd e (canon_walkDone (canon_coreWalk (canon_noteWalk h)))
    · rename_i e
      exact canon_modCore (canon_snd e (canon_walkDone (canon_coreWalk (canon_noteWalk h))))

theorem canon_dispWalk {d : ℕ} {s : State} (h : Canon s) : Canon (dispWalk d s) := by
  dsimp only [dispWalk]
  split
  · exact canon_dispEnter h
  · exact h

theorem canon_askFetch {va : ℕ} {s : State} (h : Canon s) : Canon (askFetch va s) := canon_modMe h

theorem canon_dropFetch {va : ℕ} {s : State} (h : Canon s) : Canon (dropFetch va s) := canon_modMe h

theorem canon_endFetch {s : State} (h : Canon s) : Canon (endFetch s) := canon_modMe h

theorem canon_fetchLine {va pa : ℕ} {farLine : Option Flit} {s : State} (h : Canon s) :
    Canon (fetchLine va pa farLine s).2 := by
  dsimp only [fetchLine]
  split
  · exact h
  · split
    · exact h
    · exact canon_mk h

theorem canon_fetchFar {va pa : ℕ} {s : State} (h : Canon s) : Canon (fetchFar va pa s).2 := by
  dsimp only [fetchFar]
  split
  · exact h
  · split
    · split
      · exact canon_mk h
      · exact h
    · exact canon_getD (fun _ e => canon_podAsk e h) (canon_condemn h)

theorem canon_fetchBytes {va n : ℕ} {s : State} (h : Canon s) : Canon (fetchBytes va n s).2 := by
  dsimp only [fetchBytes]
  split
  · exact canon_askFetch h
  · exact h
  · exact canon_dropFetch h
  · split
    · exact canon_dropFetch h
    · split
      · exact canon_dropFetch h
      · split
        · rename_i e
          exact canon_snd e (canon_fetchFar h)
        · rename_i e
          exact canon_dropFetch (canon_snd e (canon_fetchFar h))
        · rename_i e
          split
          · rename_i e1
            exact canon_condemn (canon_snd e1 (canon_fetchLine (canon_snd e (canon_fetchFar h))))
          · rename_i e1
            exact canon_dropFetch (canon_snd e1 (canon_fetchLine (canon_snd e (canon_fetchFar h))))

theorem canon_parkFetch {va k : ℕ} {s : State} (h : Canon s) : Canon (parkFetch va k s) :=
  canon_modMe (canon_dropFetch h)

theorem canon_claimPage {va : ℕ} {s : State} (h : Canon s) : Canon (claimPage va s).2 := by
  dsimp only [claimPage]
  split
  · rename_i e
    exact canon_snd e (canon_walkDone (canon_noteWalk (canon_dropFetch (canon_dropLeaf h))))
  · rename_i e
    exact canon_snd e (canon_walkDone (canon_noteWalk (canon_dropFetch (canon_dropLeaf h))))
  · rename_i e
    exact canon_parkFetch (canon_snd e (canon_walkDone (canon_noteWalk (canon_dropFetch (canon_dropLeaf h)))))
  · rename_i e
    split
    · exact canon_dropLeaf (canon_snd e (canon_walkDone (canon_noteWalk (canon_dropFetch (canon_dropLeaf h)))))
    · exact canon_parkFetch <| canon_mk <| canon_memWrite <| canon_dropLeaf <| canon_snd e
        (canon_walkDone (canon_noteWalk (canon_dropFetch (canon_dropLeaf h))))

theorem canon_readHeader {va : ℕ} {s : State} (h : Canon s) : Canon (readHeader va s).2 := by
  dsimp only [readHeader]
  split
  · rename_i e
    split
    · exact canon_snd e (canon_fetchBytes h)
    · exact canon_snd e (canon_fetchBytes h)
    · exact canon_claimPage (canon_snd e (canon_fetchBytes h))
  · rename_i e
    exact canon_fetchBytes h

theorem canon_followChain {ptr : Word} {tn f k : ℕ} {s : State} (h : Canon s) : Canon (followChain ptr tn f k s).2 := by
  induction f generalizing k s with
  | zero => exact h
  | succ f ih =>
    unfold followChain
    split
    · exact h
    · split
      · rename_i e
        have h1 := canon_snd e (canon_readHeader h)
        split
        · exact h1
        · exact ih h1
      · rename_i e
        exact canon_snd e (canon_readHeader h)
      · rename_i e
        exact canon_snd e (canon_readHeader h)

theorem canon_locate {ptr : Word} {page k n : ℕ} {s : State} (h : Canon s) : Canon (locate ptr page k n s).2 := by
  dsimp only [locate]
  split
  · exact h
  · split
    · exact h
    · exact canon_followChain h

theorem canon_writeLink {s : State} (h : Canon s) : Canon (writeLink s) := by
  dsimp only [writeLink]
  split
  · exact canon_modPipe h
  · exact h

theorem canon_noteWhy {f : FetchBad} {s : State} (h : Canon s) : Canon (noteWhy f s) := canon_ite (canon_modRegs h) h

theorem canon_takeFetch {f : FetchBad} {bundle : Word} {s : State} (h : Canon s) : Canon (takeFetch f bundle s) :=
  canon_takeTrap (canon_noteWhy h)

theorem canon_stopFetch {f : FetchBad} {bundle : Word} {s : State} (h : Canon s) : Canon (stopFetch f bundle s) :=
  canon_modPipe h

theorem canon_enterLanding {ptr : Word} {s : State} (h : Canon s) : Canon (enterLanding ptr s) := by
  dsimp only [enterLanding]
  split
  · rename_i e
    exact canon_snd e (canon_readHeader h)
  · rename_i e
    exact canon_takeFetch (canon_snd e (canon_readHeader h))
  · rename_i e
    split
    · rename_i e1
      exact canon_snd e1 (canon_locate (canon_snd e (canon_readHeader h)))
    · rename_i e1
      exact canon_takeFetch (canon_snd e1 (canon_locate (canon_snd e (canon_readHeader h))))
    · rename_i e1
      exact canon_modPipe (canon_endFetch (canon_snd e1 (canon_locate (canon_snd e (canon_readHeader h)))))

theorem canon_enterTrailer {ptr : Word} {s : State} (h : Canon s) : Canon (enterTrailer ptr s) := by
  dsimp only [enterTrailer]
  split
  · rename_i e
    exact canon_snd e (canon_readHeader h)
  · rename_i e
    exact canon_stopFetch (canon_snd e (canon_readHeader h))
  · rename_i e
    exact canon_modPipe (canon_snd e (canon_readHeader h))

theorem canon_enterPage {s : State} (h : Canon s) : Canon (enterPage s) := by
  dsimp only [enterPage]
  split
  · exact h
  · refine canon_ite (canon_ite h (canon_enterTrailer h)) ?_
    exact canon_ite h (canon_ite (canon_takeFetch (canon_writeLink h)) (canon_enterLanding (canon_writeLink h)))

theorem canon_redirLook {s : State} (h : Canon s) : Canon (redirLook s).2 := by
  dsimp only [redirLook]
  split
  · exact h
  · split
    · rename_i e
      exact canon_snd e (canon_readHeader h)
    · rename_i e
      exact canon_snd e (canon_readHeader h)
    · rename_i e
      exact canon_locate (canon_snd e (canon_readHeader h))

theorem canon_tryResume {s : State} (h : Canon s) : Canon (tryResume s) := by
  dsimp only [tryResume]
  refine canon_ite (canon_holdNow h) ?_
  refine canon_ite ?_ (canon_resumeTask h)
  split
  · rename_i e
    exact canon_endFetch (canon_resumeTask (canon_snd e (canon_redirLook h)))
  · rename_i e
    exact canon_holdNow (canon_snd e (canon_redirLook h))
  · rename_i e
    exact canon_outriderFault (canon_noteWhy (canon_snd e (canon_redirLook h)))

theorem canon_dispatchBundle {s : State} (h : Canon s) : Canon (dispatchBundle s) := by
  dsimp only [dispatchBundle]
  refine canon_ite h ?_
  refine canon_ite ?_ ?_
  · split <;> exact canon_modPipe h
  · split
    · rename_i e
      exact canon_snd e (canon_fetchBytes h)
    · rename_i e
      exact canon_stopFetch (canon_snd e (canon_fetchBytes h))
    · rename_i e
      exact canon_modPipe (canon_snd e (canon_fetchBytes h))

/-! ### Nodes -/

theorem canon_dispEnterAll {d tag kind : ℕ} {rs : List (ℕ × ℕ)} {s : State} (h : Canon s) :
    Canon (dispEnterAll d tag kind rs s) := canon_foldl (fun _ _ ht => canon_ite ht (canon_dispEnter ht)) h

theorem canon_takeBudget {tag : ℕ} {s : State} (h : Canon s) : Canon (takeBudget tag s) := canon_setCtx h

theorem canon_addNode {q pk : ℕ} {r : LaunchRec} {v : Variant × List Pin} {s : State} (h : Canon s) :
    Canon (addNode q pk r v s).2 := canon_mk h

theorem canon_launch {q pk : ℕ} {r : LaunchRec} {s : State} (h : Canon s) : Canon (launch q pk r s).2 := by
  dsimp only [launch]
  split
  · exact h
  · split
    · exact h
    · split
      · exact canon_addNode (canon_dispEnterAll (canon_ite (canon_takeBudget h) h))
      · exact canon_ite (canon_takeBudget h) h

theorem canon_suspendTask {n : ℕ} {s : State} (h : Canon s) : Canon (suspendTask n s) :=
  canon_modCore (canon_modQuad (canon_mapPods h))

theorem canon_displacePin {x : Placed} {s : State} (h : Canon s) : Canon (displacePin x s) :=
  canon_settleCtx (canon_displace h)

theorem canon_placePin {tag n : ℕ} {s : State} {p : Pin} (h : Canon s) : Canon (placePin tag n s p) := by
  dsimp only [placePin]
  split
  · split
    · exact canon_foldl (fun _ _ ht => canon_displacePin ht) h
    · exact canon_mk (Memory.wf_puts _ _ _ (wf_zeroBytes (canon_foldl (fun _ _ ht => canon_displacePin ht) h)))
  · exact canon_mk <| canon_ite
      (wf_zeroBytes (canon_foldl (fun _ _ ht => canon_displacePin ht) h))
      (wf_freeBytes (canon_foldl (fun _ _ ht => canon_displacePin ht) h))

theorem canon_modNode {k : ℕ} {f : Node → Node} {s : State} (h : Canon s) : Canon (modNode k f s) := canon_mk h

theorem canon_rollBack {k q : ℕ} {s : State} (h : Canon s) : Canon (rollBack k q s) :=
  canon_modNode (canon_unclaimNode h)

theorem canon_claimNext {k : ℕ} {s : State} (h : Canon s) : Canon (claimNext k s) := by
  dsimp only [claimNext]
  refine canon_ite h ?_
  split
  · exact h
  · split
    · exact canon_rollBack h
    · refine canon_ite (canon_modNode (canon_modQuad (canon_foldl (fun _ _ ht => canon_suspendTask ht) h))) ?_
      exact canon_rollBack h

theorem canon_retryNode {k : ℕ} {s : State} (h : Canon s) : Canon (retryNode k s) := by
  dsimp only [retryNode]
  split
  · exact canon_ite (canon_modNode h) h
  · exact h

theorem canon_startOn {k n t : ℕ} {s : State} (h : Canon s) : Canon (startOn k n t s) :=
  canon_modCore (canon_movePads h)

theorem canon_commitNode {k : ℕ} {s : State} (h : Canon s) : Canon (commitNode k s) :=
  canon_foldl
    (fun _ _ ht => canon_unclaim ht)
    (canon_foldl
      (fun _ _ ht => canon_startOn ht)
      (canon_modNode <| canon_foldl
        (fun _ _ ht => canon_foldl (fun _ _ ht1 => canon_placePin ht1) ht)
        (canon_reside h)))

/-! ### Pod -/

theorem canon_podSend {w : PodWho} {tag kind pa : ℕ} {s : State} (h : Canon s) : Canon (podSend w tag kind pa s) :=
  canon_getD (fun _ e => canon_podAsk e h) (canon_killCtx h)

theorem canon_podAccess {w : PodWho} {tag kind pa : ℕ} {s : State} (h : Canon s) : Canon (podAccess w tag kind pa s).2 := by
  dsimp only [podAccess]
  split
  · split
    · exact canon_mk h
    · exact h
  · exact canon_podSend h

theorem canon_modL1 {s : State} {n : ℕ} {f : FMap L1Line → FMap L1Line} (h : Canon s) : Canon (s.modL1 n f) :=
  canon_modCore h

/-! ### Task -/

theorem canon_dropCopy {n pa : ℕ} {s : State} (h : Canon s) : Canon (dropCopy n pa s) := canon_modL1 h

theorem canon_argWord {k : ℕ} {s : State} (h : Canon s) : Canon (argWord k s).2 := by
  dsimp only [argWord]
  split
  · exact h
  · split
    · rename_i e
      exact canon_snd e (canon_walkNow h)
    · rename_i e
      exact canon_snd e (canon_walkNow h)
    · rename_i e
      exact canon_snd e (canon_walkNow h)
    · rename_i e
      split
      · exact canon_snd e (canon_walkNow h)
      · split
        · exact canon_snd e (canon_walkNow h)
        · split
          · exact canon_snd e (canon_walkNow h)
          · split
            · split
              · rename_i e1
                exact canon_snd e1 (canon_podAccess (canon_snd e (canon_walkNow h)))
              · rename_i e1
                exact canon_dropCopy (canon_snd e1 (canon_podAccess (canon_snd e (canon_walkNow h))))
            · exact canon_dropCopy (canon_snd e (canon_walkNow h))

theorem canon_tags {s : State} {a b : FMap Nat} (h : Canon s) : Canon { s with sptag := a, acctag := b } := h

theorem canon_taskRuns {n : ℕ} {s : State} (h : Canon s) : Canon (taskRuns n s) := by
  unfold taskRuns
  extract_lets _ _ _ s1 s2 _ s3 _ _ _ s4
  have h1 : Canon s1 := canon_resetTokens (canon_modCore h)
  clear_value s1
  have h2 : Canon s2 := canon_tags h1
  have h3 : Canon s3 := canon_setCtx h2
  have h4 : Canon s4 := canon_modNode h3
  exact canon_ite (canon_monRecord h4) h4

theorem canon_readArgs {f k : ℕ} {s : State} (h : Canon s) : Canon (readArgs f k s) := by
  induction f generalizing k s with
  | zero => exact canon_taskRuns h
  | succ f ih =>
    unfold readArgs
    extract_lets
    split
    · rename_i e
      exact ih (canon_modRegs (canon_snd e (canon_argWord h)))
    · rename_i e
      exact canon_snd e (canon_argWord h)
    · rename_i e
      exact canon_modMe (canon_snd e (canon_argWord h))
    · rename_i e
      exact canon_trapOf (canon_takeTrap (canon_taskRuns (canon_snd e (canon_argWord h))))
    · rename_i e
      exact canon_killCtx (canon_snd e (canon_argWord h))

theorem canon_flushWindows {s : State} (h : Canon s) : Canon (flushWindows s) :=
  canon_foldl (fun _ _ ht => canon_ite (canon_writeBackAll ht) ht) h

theorem canon_endTask {leave : Bool} {s : State} (h : Canon s) : Canon (endTask leave s) :=
  canon_ite (canon_fixedTrap h) (canon_modRegs (canon_modPipe (canon_flushWindows h)))

theorem canon_ctxIdle {tag : ℕ} {s : State} (h : Canon s) : Canon (ctxIdle tag s) := canon_ite (canon_mk h) h

theorem canon_restCore {n : ℕ} {s : State} (h : Canon s) : Canon (restCore n s) := canon_modCore h

theorem canon_finishTask {leave : Bool} {n : ℕ} {s : State} (h : Canon s) : Canon (finishTask leave n s) := by
  unfold finishTask
  extract_lets _ _ _ _ _ s1 s2 s3
  have h1 : Canon s1 := canon_modNode (canon_restCore (canon_dropLease h))
  have h2 : Canon s2 := canon_ite (canon_withdraw h1) h1
  have h3 : Canon s3 := canon_ite
    (canon_startOn (canon_modNode h2))
    (canon_ite (canon_unclaim h2) (canon_releaseAt h2))
  exact canon_restoreReady (canon_ctxIdle (canon_ite (canon_unbind h3) h3))

theorem canon_loadTrap {r : Req LdOp} {cause : ℕ} {taddr : Word} {s : State} (h : Canon s) :
    Canon (loadTrap r cause taddr s) := canon_ite (canon_takeTrap h) (canon_trapOf (canon_takeTrap h))

theorem canon_storeTrap {r : Req StOp} {cause : ℕ} {taddr : Word} {s : State} (h : Canon s) :
    Canon (storeTrap r cause taddr s) :=
  canon_ite (canon_takeTrap (canon_modRegs h)) (canon_trapOf (canon_takeTrap (canon_modRegs h)))

theorem canon_badTrap {s : State} (h : Canon s) : Canon (badTrap s) := by
  dsimp only [badTrap]
  split
  · split
    · exact canon_ite (canon_storeTrap (canon_modPipe h)) (canon_loadTrap (canon_modPipe h))
    · exact canon_loadTrap (canon_modPipe h)
  · split
    · exact canon_storeTrap (canon_modPipe h)
    · exact h

theorem canon_walkAgain {s : State} (h : Canon s) : Canon (walkAgain s) := canon_ite (canon_rewalkPipe h) h

theorem canon_wHeadTrap {cause : ℕ} {taddr : Word} {s : State} (h : Canon s) : Canon (wHeadTrap cause taddr s) := by
  dsimp only [wHeadTrap]
  split
  · exact canon_wStoreTrap h
  · exact canon_wStoreTrap h
  · exact canon_wStoreTrap h
  · exact canon_wStoreTrap h
  · exact canon_wStoreTrap h
  · exact canon_wStoreTrap h
  · exact canon_wStoreTrap h
  · exact canon_wStoreTrap h
  · exact canon_wStoreTrap h
  · exact canon_wTrap h

theorem canon_parkTrap {s : State} (h : Canon s) : Canon (parkTrap s) := by
  dsimp only [parkTrap]
  refine canon_ite (canon_trapOf (canon_takeTrap (canon_taskRuns h))) ?_
  split
  · exact canon_takeTrap (canon_endFetch h)
  · split
    · exact canon_loadTrap (canon_ite (canon_modPipe h) h)
    · split
      · exact canon_storeTrap (canon_ite (canon_modPipe h) h)
      · split
        · exact canon_takeTrap (canon_dropWalks h)
        · split
          · exact canon_wHeadTrap (canon_dropWalks h)
          · exact h

theorem canon_suspWd {n : ℕ} {s : State} (h : Canon s) : Canon (suspWd n s) := by
  dsimp only [suspWd]
  split
  · exact h
  · exact canon_modQuad (canon_modCore h)

theorem canon_timeoutTrap {cause : ℕ} {taddr : Word} {s : State} (h : Canon s) : Canon (timeoutTrap cause taddr s) :=
  canon_fixedTrap (canon_endHold h)

theorem canon_mailTimeout {n : ℕ} {s : State} (h : Canon s) : Canon (mailTimeout n s) := by
  dsimp only [mailTimeout]
  split
  · exact canon_ite h (canon_atCore (fun _ ht => canon_timeoutTrap ht) h)
  · exact h

theorem canon_tokenTimeout {n : ℕ} {s : State} (h : Canon s) : Canon (tokenTimeout n s) := by
  dsimp only [tokenTimeout]
  split
  · exact canon_atCore (fun _ ht => canon_ite ht (canon_timeoutTrap ht)) h
  · exact h

theorem canon_barrierTimeout {n : ℕ} {s : State} (h : Canon s) : Canon (barrierTimeout n s) := by
  dsimp only [barrierTimeout]
  split
  · exact canon_atCore (fun _ ht => canon_ite ht (canon_timeoutTrap ht)) h
  · exact h

theorem canon_wdogTrap {s : State} (h : Canon s) : Canon (wdogTrap s) :=
  canon_ite (canon_takeTrap (canon_modRegs h)) h

theorem canon_dropRecords {n : ℕ} {s : State} (h : Canon s) : Canon (dropRecords n s) := canon_modQuad h

theorem canon_replyContinue {n : ℕ} {s : State} (h : Canon s) : Canon (replyContinue n s) :=
  canon_ite (canon_modCore (canon_dropRecords h)) h

theorem canon_leaveTurn {s : State} (h : Canon s) : Canon (leaveTurn s) :=
  canon_ite (canon_ite (canon_modRegs (canon_tryResume (canon_modRegs h))) (canon_tryResume (canon_modRegs h))) h

theorem canon_replyResume {n : ℕ} {s : State} (h : Canon s) : Canon (replyResume n s) :=
  canon_ite (canon_atCore (fun _ ht => canon_leaveTurn ht) (canon_modCore (canon_dropRecords h))) h

theorem canon_replyRestart {n : ℕ} {s : State} (h : Canon s) : Canon (replyRestart n s) :=
  canon_ite (canon_modCore (canon_dropRecords h)) h

theorem canon_replyTerminate {n : ℕ} {s : State} (h : Canon s) : Canon (replyTerminate n s) := by
  dsimp only [replyTerminate]
  split
  · exact canon_killCtx h
  · exact h

theorem canon_replyHalt {n : ℕ} {s : State} (h : Canon s) : Canon (replyHalt n s) := canon_ite h (canon_haltCore h)

theorem canon_answerWd {n : ℕ} {s : State} (h : Canon s) : Canon (answerWd n s) :=
  canon_ite (canon_restoreReady (canon_modCore (canon_modQuad h))) h

theorem canon_mbreply {n action : ℕ} {s : State} (h : Canon s) : Canon (mbreply n action s) := by
  dsimp only [mbreply]
  refine canon_ite (canon_answerWd h) ?_
  split
  · exact canon_replyContinue h
  · exact canon_replyResume h
  · exact canon_replyRestart h
  · exact canon_replyTerminate h
  · exact canon_replyHalt h
  · exact h

theorem canon_coachWrite {n i : ℕ} {v : Word} {s : State} (h : Canon s) : Canon (coachWrite n i v s) :=
  canon_ite (canon_mbreply h) (canon_ite (canon_sysWrite h) h)

theorem canon_coachRead {n i : ℕ} {s : State} (h : Canon s) : Canon (coachRead n i s) := canon_mk h

/-! ### Bytecode -/

theorem canon_onRun {f : ℕ → State → State} {s : State} (hf : ∀ x t, Canon t → Canon (f x t)) (h : Canon s) :
    Canon (onRun f s) := by
  dsimp only [onRun]
  split
  · exact hf _ _ h
  · exact h

theorem canon_advanceRun {q : ℕ} {s : State} (h : Canon s) : Canon (advanceRun q s) := canon_modQueue h

theorem canon_setX {q : ℕ} {d : BitVec 3} {v : Word} {s : State} (h : Canon s) : Canon (setX q d v s) :=
  canon_advanceRun (canon_modQueue h)

theorem canon_freeRun {q : ℕ} {s : State} (h : Canon s) : Canon (freeRun q s) := canon_modDisp h

theorem canon_blockRun {q : ℕ} {b : Block} {s : State} (h : Canon s) : Canon (blockRun q b s) :=
  canon_freeRun (canon_modQueue h)

theorem canon_closeRun {q : ℕ} {s : State} (h : Canon s) : Canon (closeRun q s) := canon_freeRun (canon_modQueue h)

theorem canon_failRun {q code detail : ℕ} {s : State} (h : Canon s) : Canon (failRun q code detail s) := by
  dsimp only [failRun]
  split
  · exact canon_failPacket (canon_closeRun h)
  · exact canon_closeRun h

theorem canon_doneRun {q : ℕ} {s : State} (h : Canon s) : Canon (doneRun q s) := by
  dsimp only [doneRun]
  split
  · exact canon_settlePacket (canon_modPacket (canon_closeRun h))
  · exact canon_closeRun h

theorem canon_stopRun {q va : ℕ} {x : ULook} {s : State} (h : Canon s) : Canon (stopRun q va x s) := by
  dsimp only [stopRun]
  split
  · exact canon_postUnit (canon_blockRun h)
  · exact canon_failRun h
  · exact canon_failRun h
  · exact h

theorem canon_withWindow {kind : ℕ} {w : BitVec 2} {o : BitVec 12} {a : BitVec 3} {n q : ℕ} {k : ℕ → State → State}
    {s : State} (hk : ∀ x t, Canon t → Canon (k x t)) (h : Canon s) : Canon (withWindow kind w o a n q k s) := by
  dsimp only [withWindow]
  split
  · exact canon_failRun h
  · split
    · exact hk _ _ (canon_dispEnter h)
    · exact canon_stopRun h

theorem canon_aluOp {f : Word → Word → Word} {i : BitVec 16} {a d : BitVec 3} {s : State} (h : Canon s) :
    Canon (aluOp f i a d s) := canon_onRun (fun _ _ ht => canon_setX ht) h

theorem keeps_execQbNop {s : State} : Keeps s (execQbNop s) :=
  keeps_next (fun h => canon_onRun (fun _ _ ht => canon_advanceRun ht) h)

theorem keeps_execQbLdc {i : BitVec 16} {d : BitVec 3} {s : State} : Keeps s (execQbLdc i d s) :=
  keeps_next (fun h => canon_onRun (fun _ _ ht => canon_setX ht) h)

theorem keeps_execQbAdd {i : BitVec 16} {a d : BitVec 3} {s : State} : Keeps s (execQbAdd i a d s) :=
  keeps_next canon_aluOp

theorem keeps_execQbSub {i : BitVec 16} {a d : BitVec 3} {s : State} : Keeps s (execQbSub i a d s) :=
  keeps_next canon_aluOp

theorem keeps_execQbAnd {i : BitVec 16} {a d : BitVec 3} {s : State} : Keeps s (execQbAnd i a d s) :=
  keeps_next canon_aluOp

theorem keeps_execQbOr {i : BitVec 16} {a d : BitVec 3} {s : State} : Keeps s (execQbOr i a d s) :=
  keeps_next canon_aluOp

theorem keeps_execQbXor {i : BitVec 16} {a d : BitVec 3} {s : State} : Keeps s (execQbXor i a d s) :=
  keeps_next canon_aluOp

theorem keeps_execQbShl {i : BitVec 16} {a d : BitVec 3} {s : State} : Keeps s (execQbShl i a d s) :=
  keeps_next canon_aluOp

theorem keeps_execQbShr {i : BitVec 16} {a d : BitVec 3} {s : State} : Keeps s (execQbShr i a d s) :=
  keeps_next canon_aluOp

theorem keeps_execQbCmp {c a d : BitVec 3} {s : State} : Keeps s (execQbCmp c a d s) :=
  keeps_next (fun h => canon_onRun (fun _ _ ht => canon_setX ht) h)

theorem keeps_execQbLdw {w : BitVec 2} {o : BitVec 12} {a d : BitVec 3} {s : State} : Keeps s (execQbLdw w o a d s) :=
  keeps_next (fun h => canon_onRun (fun _ _ ht => canon_withWindow (fun _ _ ht1 => canon_setX ht1) ht) h)

theorem keeps_execQbStw {w : BitVec 2} {o : BitVec 12} {a d : BitVec 3} {s : State} : Keeps s (execQbStw w o a d s) :=
  keeps_next <| fun h =>
    canon_onRun (fun _ _ ht => canon_withWindow (fun _ _ ht1 => canon_advanceRun (canon_dispWrite ht1)) ht) h

theorem keeps_execQbSkip {n : BitVec 8} {d : BitVec 3} {s : State} : Keeps s (execQbSkip n d s) :=
  keeps_next (fun h => canon_onRun (fun _ _ ht => canon_ite (canon_modQueue ht) (canon_advanceRun ht)) h)

theorem keeps_execQbLoop {n : BitVec 9} {s : State} : Keeps s (execQbLoop n s) :=
  keeps_next (fun h => canon_onRun (fun _ _ ht => canon_modQueue ht) h)

theorem keeps_execQbEndl {s : State} : Keeps s (execQbEndl s) :=
  keeps_next (fun h => canon_onRun (fun _ _ ht => canon_modQueue ht) h)

theorem keeps_execQbDone {s : State} : Keeps s (execQbDone s) :=
  keeps_next (fun h => canon_onRun (fun _ _ ht => canon_doneRun ht) h)

theorem keeps_execQbFail {f : BitVec 8} {s : State} : Keeps s (execQbFail f s) :=
  keeps_next (fun h => canon_onRun (fun _ _ ht => canon_failRun ht) h)

theorem keeps_execQbLaunch {w : BitVec 2} {o : BitVec 12} {a d : BitVec 3} {s : State} :
    Keeps s (execQbLaunch w o a d s) := by
  dsimp only [execQbLaunch]
  refine keeps_next fun h => ?_
  refine canon_onRun (fun _ _ ht => ?_) h
  refine canon_withWindow (fun _ _ ht1 => ?_) ht
  split
  · rename_i e
    exact canon_setX (canon_snd e (canon_launch ht1))
  · rename_i e
    exact canon_failRun (canon_snd e (canon_launch ht1))
  · rename_i e
    exact canon_stopRun (canon_snd e (canon_launch ht1))
  · rename_i e
    exact canon_snd e (canon_launch ht1)

theorem keeps_execQbChain {a : BitVec 3} {s : State} : Keeps s (execQbChain a s) :=
  keeps_next <| fun h =>
    canon_onRun
      (fun _ _ ht =>
        canon_ite (canon_failRun ht) (canon_ite (canon_failRun ht) (canon_advanceRun (canon_modQueue ht)))) h

theorem keeps_execQbCopy {c : BitVec 9} {d : BitVec 3} {s : State} : Keeps s (execQbCopy c d s) :=
  keeps_next <| fun h =>
    canon_onRun (fun _ _ ht => canon_ite (canon_failRun ht) (canon_advanceRun (canon_modDisp ht))) h

theorem canon_qbArriveAt {q name : ℕ} {s : State} (h : Canon s) : Canon (qbArriveAt q name s) := by
  dsimp only [qbArriveAt]
  refine canon_ite (canon_ite (canon_failRun h) (canon_sendFar (canon_setView (canon_blockRun h)))) ?_
  split
  · exact canon_advanceRun (canon_modQueue (canon_countArrival h))
  · exact canon_failRun h

theorem keeps_execQbArrive {sc : BitVec 3} {n : BitVec 8} {a : BitVec 3} {s : State} : Keeps s (execQbArrive sc n a s) :=
  keeps_next (fun h => canon_onRun (fun _ _ ht => canon_qbArriveAt ht) h)

theorem canon_qbWait {q name : ℕ} {s : State} (h : Canon s) : Canon (qbWait q name s) := by
  dsimp only [qbWait]
  split
  · exact canon_failRun h
  · exact canon_failRun h
  · refine canon_ite (canon_failRun h) ?_
    refine canon_ite (canon_sendFar (canon_setView (canon_blockRun h))) ?_
    refine canon_ite (canon_advanceRun h) ?_
    split
    · exact canon_failRun h
    · exact canon_blockRun h

theorem keeps_execQbWaitb {sc : BitVec 3} {n : BitVec 8} {a : BitVec 3} {s : State} : Keeps s (execQbWaitb sc n a s) :=
  keeps_next (fun h => canon_onRun (fun _ _ ht => canon_qbWait ht) h)

theorem keeps_execQbWaitbWake {d : BitVec 3} {s : State} : Keeps s (execQbWaitbWake d s) :=
  keeps_next (fun h => canon_onRun (fun _ _ ht => canon_ite (canon_setX (canon_modQueue ht)) (canon_blockRun ht)) h)

theorem keeps_execQbSignal {a d : BitVec 3} {s : State} : Keeps s (execQbSignal a d s) :=
  keeps_next <| fun h =>
    canon_onRun (fun _ _ ht => canon_ite (canon_failRun ht) (canon_doorbell (canon_advanceRun ht))) h

theorem keeps_execQbArm {i : BitVec 16} {a d : BitVec 3} {s : State} : Keeps s (execQbArm i a d s) :=
  keeps_next (fun h => canon_onRun (fun _ _ ht => canon_advanceRun (canon_modQueue ht)) h)

theorem keeps_execQbIrq {v : BitVec 11} {s : State} : Keeps s (execQbIrq v s) :=
  keeps_next <| fun h =>
    canon_onRun (fun _ _ ht => canon_ite (canon_irqRequest (canon_advanceRun ht)) (canon_failRun ht)) h

theorem keeps_execQbDline {i : BitVec 16} {a : BitVec 3} {s : State} : Keeps s (execQbDline i a s) :=
  keeps_next (fun h => canon_onRun (fun _ _ ht => canon_advanceRun (canon_modQueue ht)) h)

theorem keeps_execQbBand {b : BitVec 4} {s : State} : Keeps s (execQbBand b s) :=
  keeps_next (fun h => canon_onRun (fun _ _ ht => canon_advanceRun (canon_modQueue ht)) h)

theorem keeps_execQbRdclk {d : BitVec 3} {s : State} : Keeps s (execQbRdclk d s) :=
  keeps_next (fun h => canon_onRun (fun _ _ ht => canon_setX ht) h)

theorem canon_withFence {q : ℕ} {k : State → State} {s : State} (hk : ∀ t, Canon t → Canon (k t)) (h : Canon s) :
    Canon (withFence q k s) := by
  dsimp only [withFence]
  refine canon_ite (canon_blockRun h) ?_
  split
  · exact canon_failRun h
  · exact hk _ h

theorem keeps_execQbFence {s : State} : Keeps s (execQbFence s) :=
  keeps_next (fun h => canon_onRun (fun _ _ ht => canon_withFence (fun _ ht1 => canon_advanceRun ht1) ht) h)

theorem keeps_execQbCond {w : BitVec 2} {o : BitVec 12} {a d : BitVec 3} {s : State} : Keeps s (execQbCond w o a d s) :=
  keeps_next <| fun h =>
    canon_onRun
      (fun _ _ ht => canon_withFence (fun _ ht1 => canon_withWindow (fun _ _ ht2 => canon_setX ht2) ht1) ht) h

theorem canon_runWord {w : BitVec 32} {s : State} (h : Canon s) : Canon (runWord w s) := by
  dsimp only [runWord]
  split
  · exact canon_after keeps_execQbNop h
  · exact canon_after keeps_execQbLdc h
  · exact canon_after keeps_execQbLdw h
  · exact canon_after keeps_execQbStw h
  · exact canon_after keeps_execQbAdd h
  · exact canon_after keeps_execQbSub h
  · exact canon_after keeps_execQbAnd h
  · exact canon_after keeps_execQbOr h
  · exact canon_after keeps_execQbXor h
  · exact canon_after keeps_execQbShl h
  · exact canon_after keeps_execQbShr h
  · exact canon_after keeps_execQbCmp h
  · exact canon_after keeps_execQbSkip h
  · exact canon_after keeps_execQbLoop h
  · exact canon_after keeps_execQbEndl h
  · exact canon_after keeps_execQbLaunch h
  · exact canon_after keeps_execQbChain h
  · exact canon_after keeps_execQbCopy h
  · exact canon_after keeps_execQbArrive h
  · exact canon_ite (canon_after keeps_execQbWaitbWake h) (canon_after keeps_execQbWaitb h)
  · exact canon_after keeps_execQbSignal h
  · exact canon_after keeps_execQbArm h
  · exact canon_after keeps_execQbCond h
  · exact canon_after keeps_execQbIrq h
  · exact canon_after keeps_execQbDline h
  · exact canon_after keeps_execQbBand h
  · exact canon_after keeps_execQbFence h
  · exact canon_after keeps_execQbRdclk h
  · exact canon_after keeps_execQbDone h
  · exact canon_after keeps_execQbFail h
  · exact h

theorem canon_enterBlock {q : ℕ} {s : State} (h : Canon s) : Canon (enterBlock q s) := by
  dsimp only [enterBlock]
  split
  · exact canon_closeRun h
  · refine canon_ite (canon_failRun h) ?_
    refine canon_ite (canon_doneRun h) ?_
    refine canon_ite (canon_modQueue h) ?_
    refine canon_ite (canon_failRun h) ?_
    split
    · exact canon_modQueue (canon_modPacket (canon_dispEnter h))
    · exact canon_stopRun h

theorem canon_startRun {q : ℕ} {s : State} (h : Canon s) : Canon (startRun q s) := by
  dsimp only [startRun]
  split
  · exact canon_closeRun (canon_modDisp (canon_modQueue h))
  · refine canon_ite (canon_modDisp (canon_modQueue h)) ?_
    exact canon_modQueue (canon_modPacket (canon_journalPk (canon_modDisp (canon_modQueue h))))

theorem canon_queueRun {d : ℕ} {s : State} (h : Canon s) : Canon (queueRun d s) := by
  dsimp only [queueRun]
  split
  · refine canon_ite h ?_
    split
    · exact canon_startRun h
    · exact h
  · exact canon_farRest (canon_ite (canon_mk (canon_runWord (canon_mk h))) (canon_enterBlock h))

theorem canon_finishNode {k : ℕ} {bad : Option ℕ} {s : State} (h : Canon s) : Canon (finishNode k bad s) := by
  unfold finishNode
  extract_lets _ s1 s2 _ s3
  have h2 : Canon s2 := canon_foldl (fun _ _ ht => canon_releaseAt ht) (canon_unbind (canon_modNode h))
  have h3 : Canon s3 := by
    unfold s3
    split
    · exact h2
    · split
      · exact h2
      · exact canon_ite (canon_modPacket h2) (canon_ite (canon_failRun h2) h2)
  exact canon_settleCtx (canon_settlePacket h3)

theorem canon_nodeFinish {k : ℕ} {s : State} (h : Canon s) : Canon (nodeFinish k s) := by
  dsimp only [nodeFinish]
  refine canon_ite h ?_
  refine canon_ite (canon_finishNode h) ?_
  refine canon_ite h ?_
  split
  · exact canon_farRest (canon_finishNode (canon_dispWrite h))
  · exact canon_postUnit (canon_modNode h)
  · exact canon_finishNode h
  · exact canon_finishNode h

/-! ### Resched -/

theorem canon_restoreLeaf {j : Job} {s : State} (h : Canon s) : Canon (restoreLeaf j s) :=
  canon_wakeLine (canon_memWrite h)

theorem canon_dropFrames {fs : List ℕ} {s : State} (h : Canon s) : Canon (dropFrames fs s) := canon_mk h

theorem canon_rejectFrame {j : Job} {f k why : ℕ} {s : State} (h : Canon s) : Canon (rejectFrame j f k why s) :=
  canon_dropFrames (canon_memWrite h)

theorem canon_writeOutput {j : Job} {f k : ℕ} {parts : List (List (BitVec 256))} {table : ℕ} {s : State} (h : Canon s) :
    Canon (writeOutput j f k parts table s) :=
  canon_dropFrames (canon_mk (canon_foldl (fun _ _ ht => canon_memWrite ht) h))

theorem canon_serveJob {j : Job} {s1 : State} (h1 : Canon s1) : Canon (serveJob j s1) := by
  dsimp only [serveJob]
  refine canon_ite (canon_restoreLeaf h1) ?_
  refine canon_ite (canon_restoreLeaf h1) ?_
  split
  · exact canon_restoreLeaf (canon_rejectFrame h1)
  · exact canon_restoreLeaf (canon_writeOutput h1)

/-! ### Links -/

theorem canon_failHead {c : ℕ} {s : State} (h : Canon s) : Canon (failHead c s) := by
  dsimp only [failHead]
  split
  · split
    · exact canon_endCmd h
    · exact canon_headResult (canon_payloadPart h)
    · exact canon_headResult h
  · exact h

theorem canon_chargeAsk {r : PodReq} {s : State} (h : Canon s) : Canon (chargeAsk r s) := by
  dsimp only [chargeAsk]
  split
  · exact h
  · exact h
  · exact canon_ite (canon_failHead h) h
  · exact canon_killCtx h

theorem canon_chargeFlit {f : Flit} {s : State} (h : Canon s) : Canon (chargeFlit f s) := by
  unfold chargeFlit
  refine canon_ite (canon_podLost h) ?_
  refine canon_ite (canon_foldl (fun _ _ ht => canon_chargeAsk ht) (canon_mk h)) ?_
  exact canon_ite (canon_mk h) (canon_killCtx (canon_mk h))

theorem canon_countLost {p n : ℕ} {s : State} (h : Canon s) : Canon (countLost p n s) := canon_modLink h

theorem canon_passOn {p : ℕ} {f : Flit} {s : State} (h : Canon s) : Canon (passOn p f s) := by
  dsimp only [passOn]
  refine canon_ite (canon_mk h) ?_
  split
  · rename_i e
    have ht := canon_routeFlit e h
    have ht1 : Canon (freeBuffer p f _) := canon_freeBuffer ht
    exact canon_ite (canon_mk ht) (canon_ite (canon_mk ht1) ht1)
  · exact canon_chargeFlit (canon_countLost h)

theorem canon_passHeld {s : State} (h : Canon s) : Canon (passHeld s) :=
  canon_foldl (fun _ _ ht => canon_passOn ht) (canon_mk h)

theorem canon_moveFlit {p : ℕ} {f : Flit} {s : State} (h : Canon s) : Canon (moveFlit p f s) :=
  canon_ite (canon_getD (fun _ e => canon_routeFlit e h) (canon_chargeFlit (canon_countLost h))) (canon_mk h)

theorem canon_reroute {s : State} (h : Canon s) : Canon (reroute s) := canon_passHeld (canon_markMoved h)

theorem canon_loseAll {p : ℕ} {st : LinkSt} {s : State} (h : Canon s) : Canon (loseAll p st s) :=
  canon_reroute <| canon_foldl
    (fun _ _ ht => canon_moveFlit ht)
    (canon_foldl (fun _ _ ht => canon_chargeFlit ht) (canon_countLost (canon_modLink h)))

theorem canon_stopPort {st : LinkSt} {p : ℕ} {s : State} (h : Canon s) : Canon (stopPort st p s) := canon_loseAll h

theorem canon_startTraining {p : ℕ} {s : State} (h : Canon s) : Canon (startTraining p s) := canon_modLink h

theorem canon_linkEnable {p : ℕ} {minw : BitVec 2} {s : State} (h : Canon s) : Canon (linkEnable p minw s) :=
  canon_ite (canon_startTraining (canon_modLink h)) (canon_modLink h)

theorem canon_linkDisable {p : ℕ} {s : State} (h : Canon s) : Canon (linkDisable p s) :=
  canon_modLink (canon_stopPort h)

theorem canon_linkIsolate {p : ℕ} {s : State} (h : Canon s) : Canon (linkIsolate p s) := canon_stopPort h

theorem canon_linkUnisolate {p : ℕ} {s : State} (h : Canon s) : Canon (linkUnisolate p s) :=
  canon_ite (canon_startTraining h) h

theorem canon_lctlWrite {p : ℕ} {v : Word} {s : State} (h : Canon s) : Canon (lctlWrite p v s) := by
  unfold lctlWrite
  refine canon_ite (canon_linkIsolate (canon_ite (canon_linkEnable h) (canon_modLink (canon_linkDisable h)))) ?_
  exact canon_linkUnisolate (canon_ite (canon_linkEnable h) (canon_modLink (canon_linkDisable h)))

theorem canon_retrain {p : ℕ} {s : State} (h : Canon s) : Canon (retrain p s) :=
  canon_ite (canon_stopPort (canon_modLink h)) (canon_markMoved (canon_modLink h))

theorem canon_ackFlits {p : ℕ} {lack : BitVec 16} {s : State} (h : Canon s) : Canon (ackFlits p lack s) :=
  canon_pump (canon_modLink h)

theorem canon_replayFrom {p : ℕ} {s : State} (h : Canon s) : Canon (replayFrom p s) :=
  canon_ite (canon_retrain (canon_modLink h)) (canon_modLink h)

theorem canon_flitRequest {f : Flit} {s : State} (h : Canon s) : Canon (flitRequest f s) :=
  canon_ite (canon_ite (canon_cleanLines (canon_memWrite h)) h) (canon_ite (canon_ite (canon_memWrite h) h) h)

theorem canon_arrivalTaken {q name p : ℕ} {s : State} (h : Canon s) : Canon (arrivalTaken q name p s) :=
  canon_ite (canon_modQueue h) (canon_ite (canon_modQueue h) h)

theorem canon_answerEntry {name : ℕ} {v : BitVec 128} {f : ArrEntry → ArrEntry} {s : State} (h : Canon s) :
    Canon (answerEntry name v f s) := canon_modCore h

theorem canon_learnPod {name : ℕ} {v : BitVec 128} {s : State} (h : Canon s) : Canon (learnPod name v s) := by
  dsimp only [learnPod]
  split
  · refine canon_ite (canon_answerEntry (canon_setView h)) ?_
    exact canon_ite (canon_arrivalTaken (canon_setView h)) (canon_setView h)
  · exact canon_sendNews (canon_setView h)
  · exact canon_failNews (canon_setView h)
  · exact canon_ite (canon_answerEntry h) (canon_ite (canon_ite (canon_failRun h) h) (canon_ite (canon_portDrop h) h))

theorem canon_flitControl {f : Flit} {s : State} (h : Canon s) : Canon (flitControl f s) := by
  dsimp only [flitControl]
  refine canon_ite (canon_mk h) ?_
  refine canon_ite (canon_learnPod h) ?_
  split
  · exact canon_ite (canon_failBar h) h
  · exact h

theorem canon_fillCopy {n : ℕ} {f : Flit} {s : State} (h : Canon s) : Canon (fillCopy n f s) := canon_modL1 h

theorem canon_podReply {f : Flit} {s : State} (h : Canon s) : Canon (podReply f s) := by
  dsimp only [podReply]
  refine canon_foldl (fun _ _ ht => ?_) (canon_mk h)
  split
  · exact canon_fillCopy ht
  · exact ht

theorem canon_podPass {f : Flit} {s : State} (h : Canon s) : Canon (podPass f s) := canon_ite (canon_mk h) h

theorem canon_deliverFlit {p : ℕ} {f : Flit} {s : State} (h : Canon s) : Canon (deliverFlit p f s) := by
  dsimp only [deliverFlit]
  refine canon_ite (canon_replayFrom h) ?_
  refine canon_ite (canon_pump (canon_modLink h)) ?_
  refine canon_ite h ?_
  refine canon_ite (canon_flitControl (canon_freeBuffer h)) ?_
  refine canon_ite (canon_passHeld (canon_podReply (canon_freeBuffer h))) ?_
  split
  · refine canon_ite
      (canon_getD
        (fun _ e => canon_routeFlit e (canon_mk (canon_flitRequest (canon_freeBuffer h))))
        (canon_chargeFlit (canon_countLost (canon_mk (canon_flitRequest (canon_freeBuffer h)))))) ?_
    exact canon_passHeld (canon_passOn (canon_podPass h))
  · exact canon_chargeFlit (canon_countLost (canon_freeBuffer h))

theorem canon_fecNoise {p : ℕ} {s : State} (h : Canon s) : Canon (fecNoise p s) := canon_mk h

theorem canon_askReplay {p : ℕ} {s : State} (h : Canon s) : Canon (askReplay p s) := canon_modLink h

theorem canon_flitReceive {p : ℕ} {f : Flit} {s : State} (h : Canon s) : Canon (flitReceive p f s) := by
  unfold flitReceive
  refine canon_ite h ?_
  refine canon_ite (canon_askReplay (canon_fecNoise h)) ?_
  extract_lets s' s1
  have h' : Canon s' := canon_fecNoise h
  have h1 : Canon s1 := canon_ackFlits h'
  exact canon_ite (canon_deliverFlit h1) (canon_ite (canon_askReplay h1) (canon_deliverFlit (canon_modLink h1)))

theorem canon_sendArrival {a : Arrival} {s : State} (h : Canon s) : Canon (sendArrival a s) :=
  canon_ite (canon_sendFar (canon_setView h)) (canon_takeArrival h)

theorem canon_podwinWrite {w : ℕ} {hi : Bool} {v : Word} {s : State} (h : Canon s) : Canon (podwinWrite w hi v s) :=
  canon_ite (canon_mk h) (canon_mk h)

theorem canon_podcfgWrite {v : BitVec 8} {s : State} (h : Canon s) : Canon (podcfgWrite v s) :=
  canon_ite (canon_mk h) h

theorem canon_prouteWrite {m : ℕ} {v : Word} {s : State} (h : Canon s) : Canon (prouteWrite m v s) :=
  canon_reroute (canon_mk h)

/-! ### Device -/

theorem canon_requestHalt {n : ℕ} {s : State} (h : Canon s) : Canon (requestHalt n s) :=
  canon_ite h (canon_ite (canon_haltCore h) (canon_modCore h))

theorem canon_eachCore {d : ℕ} {v : Word} {f : ℕ → State → State} {s : State} (hf : ∀ x t, Canon t → Canon (f x t))
    (h : Canon s) : Canon (eachCore d v f s) := canon_foldl (fun _ _ ht => hf _ _ ht) h

theorem canon_dbghaltWrite {d : ℕ} {v : Word} {s : State} (h : Canon s) : Canon (dbghaltWrite d v s) :=
  canon_eachCore (fun _ _ ht => canon_requestHalt ht) h

theorem canon_resumeCore {n : ℕ} {s : State} (h : Canon s) : Canon (resumeCore n s) := canon_modCore h

theorem canon_dbgresumeWrite {d : ℕ} {v : Word} {s : State} (h : Canon s) : Canon (dbgresumeWrite d v s) :=
  canon_eachCore (fun _ _ ht => canon_resumeCore ht) h

theorem canon_modTrace {s : State} {d : ℕ} {f : Trace → Trace} (h : Canon s) : Canon (s.modTrace d f) :=
  canon_modDbg h

theorem canon_trcctlWrite {d : ℕ} {v : Word} {s : State} (h : Canon s) : Canon (trcctlWrite d v s) := canon_modTrace h

theorem canon_traceSample {n : ℕ} {s : State} (h : Canon s) : Canon (traceSample n s) :=
  canon_ite h (canon_traceRecord (canon_modTrace h))

theorem canon_cycleSource {d : ℕ} {stop : Bool} {s : State} (h : Canon s) : Canon (cycleSource d stop s) :=
  canon_ite (canon_ite (canon_modTrace h) h) (canon_ite (canon_modTrace h) h)

theorem canon_modMon {s : State} {d m : ℕ} {f : Mon → Mon} (h : Canon s) : Canon (s.modMon d m f) := canon_modDbg h

theorem canon_moncfgWrite {d m : ℕ} {v : Word} {s : State} (h : Canon s) : Canon (moncfgWrite d m v s) :=
  canon_modMon h

theorem canon_monWrite {d m o : ℕ} {v : Word} {s : State} (h : Canon s) : Canon (monWrite d m o v s) :=
  canon_ite (canon_moncfgWrite h) (canon_modMon h)

theorem canon_monitorSample {q : ℕ} {s : State} (h : Canon s) : Canon (monitorSample q s) :=
  canon_ite h (canon_foldl (fun _ _ ht => canon_monRecord (canon_monRecord ht)) (canon_modQuad h))

theorem canon_traceRegWrite {d o : ℕ} {v : Word} {s : State} (h : Canon s) : Canon (traceRegWrite d o v s) :=
  canon_ite (canon_trcctlWrite h) (canon_modTrace h)

theorem canon_dbgWrite {d o : ℕ} {v : Word} {s : State} (h : Canon s) : Canon (dbgWrite d o v s) := by
  unfold dbgWrite
  refine canon_ite (canon_dbghaltWrite h) ?_
  refine canon_ite (canon_dbgresumeWrite h) ?_
  exact canon_ite (canon_traceRegWrite h) (canon_ite (canon_monWrite h) (canon_modDbg h))

theorem canon_accWrite {o : ℕ} {en : BitVec 8} {v : Word} {s : State} (h : Canon s) : Canon (accWrite o en v s) := by
  unfold accWrite
  refine canon_ite
    (canon_ite (canon_mk (canon_ite (canon_ite (canon_mk h) h) h)) (canon_ite (canon_ite (canon_mk h) h) h)) ?_
  exact canon_ite (canon_ite (canon_mk h) h) h

theorem canon_poolWrite {t o : ℕ} {v : Word} {s : State} (h : Canon s) : Canon (poolWrite t o v s) := canon_mk h

theorem canon_ctlPut {ctrl : Bool} {o : ℕ} {en : BitVec 8} {v : Word} {s : State} (h : Canon s) :
    Canon (ctlPut ctrl o en v s) := by
  unfold ctlPut
  refine canon_ite (canon_mk h) ?_
  refine canon_ite (canon_mk h) ?_
  refine canon_ite (canon_mk h) ?_
  refine canon_ite (canon_mk h) ?_
  refine canon_ite (canon_mk h) ?_
  refine canon_ite (canon_mk h) ?_
  refine canon_ite (canon_poolWrite h) ?_
  refine canon_ite (canon_ite (canon_doorbell h) (canon_ite (canon_doorbell h) h)) ?_
  refine canon_ite (canon_irqcoalWrite h) ?_
  refine canon_ite (canon_mk h) ?_
  refine canon_ite (canon_bportWrite h) ?_
  refine canon_ite (canon_ite (canon_lctlWrite h) h) ?_
  refine canon_ite (canon_podwinWrite h) ?_
  refine canon_ite (canon_prouteWrite h) ?_
  refine canon_ite (canon_podcfgWrite h) ?_
  refine canon_ite (canon_ite (canon_accWrite h) h) ?_
  refine canon_ite (canon_ite (canon_mk h) h) ?_
  exact canon_ite (canon_mk h) (canon_ite (canon_ite (canon_bcfgWrite h) h) (canon_ite (canon_dbgWrite h) h))

theorem canon_devPut {ctrl : Bool} {src pa : ℕ} {en : BitVec 8} {v : Word} {s : State} (h : Canon s) :
    Canon (devPut ctrl src pa en v s) :=
  canon_ite h (canon_ite (canon_chanWrite h) (canon_ite (canon_portWrite h) (canon_ctlPut h)))

/-! ### Debug -/

theorem canon_regPut {n r : ℕ} {x : Word} {s : State} (h : Canon s) : Canon (regPut n r x s) := by
  unfold regPut
  refine canon_ite (canon_mbreply h) ?_
  refine canon_ite (canon_sysWrite h) ?_
  refine canon_ite (canon_modCore h) ?_
  refine canon_ite (canon_modCore h) ?_
  refine canon_ite (canon_modCore h) ?_
  refine canon_ite (canon_modCore h) ?_
  exact canon_ite (canon_modCore h) (canon_ite (canon_modCore h) (canon_ite (canon_modCore h) (canon_modCore h)))

theorem canon_cmdErr {d k : ℕ} {s : State} (h : Canon s) : Canon (cmdErr d k s) := canon_modDbg h

theorem canon_cmdIncr {d : ℕ} {c : BitVec 32} {s : State} (h : Canon s) : Canon (cmdIncr d c s) :=
  canon_ite (canon_modDbg h) h

theorem canon_accessRegister {d : ℕ} {c : BitVec 32} {s : State} (h : Canon s) : Canon (accessRegister d c s) := by
  dsimp only [accessRegister]
  refine canon_ite (canon_cmdErr h) ?_
  split
  · exact canon_cmdErr h
  · refine canon_ite (canon_cmdErr h) ?_
    exact canon_ite (canon_ite (canon_cmdErr h) (canon_cmdIncr (canon_regPut h))) (canon_cmdIncr (canon_modDbg h))

theorem canon_dbgStore {run : ℕ → BitVec 32 → State → State} {l : List (ℕ × Byte)} {s : State}
    (hrun : ∀ x x1 t, Canon t → Canon (run x x1 t)) (h : Canon s) : Canon (dbgStore run l s) := by
  dsimp only [dbgStore]
  refine canon_foldl (fun _ _ ht => ?_)
    (canon_foldl (fun _ _ ht => canon_ite ht (canon_ite (canon_mailPut ht) (canon_mk (Memory.wf_put ht)))) h)
  split
  · exact hrun _ _ _ ht
  · exact canon_devPut ht

theorem canon_accessMemory {run : ℕ → BitVec 32 → State → State} {d : ℕ} {c : BitVec 32} {s : State}
    (hrun : ∀ x x1 t, Canon t → Canon (run x x1 t)) (h : Canon s) : Canon (accessMemory run d c s) := by
  dsimp only [accessMemory]
  refine canon_ite (canon_cmdErr h) ?_
  refine canon_ite (canon_cmdErr h) ?_
  split
  · exact canon_cmdErr h
  · refine canon_ite (canon_cmdErr h) ?_
    refine canon_ite (canon_modDbg (canon_ite (canon_dbgStore (fun _ _ _ ht => hrun _ _ _ ht) h) (canon_mk h))) ?_
    exact canon_ite (canon_dbgStore (fun _ _ _ ht => hrun _ _ _ ht) h) (canon_mk h)

theorem canon_dbgcmdRun {f : ℕ} {busy : List ℕ} {d : ℕ} {c : BitVec 32} {s : State} (h : Canon s) :
    Canon (dbgcmdRun f busy d c s) := by
  induction f generalizing busy d c s with
  | zero => exact h
  | succ f ih =>
    unfold dbgcmdRun
    refine canon_ite (canon_cmdErr h) ?_
    refine canon_ite (canon_accessRegister (canon_modDbg h)) ?_
    exact canon_ite (canon_accessMemory (fun _ _ _ ht => ih ht) (canon_modDbg h)) (canon_cmdErr (canon_modDbg h))

theorem canon_dbgcmdWrite {d : ℕ} {c : BitVec 32} {s : State} (h : Canon s) : Canon (dbgcmdWrite d c s) :=
  canon_dbgcmdRun h

theorem canon_devWrite {ctrl : Bool} {src pa : ℕ} {en : BitVec 8} {v : Word} {s : State} (h : Canon s) :
    Canon (devWrite ctrl src pa en v s) := by
  dsimp only [devWrite]
  split
  · exact canon_ite h (canon_dbgcmdWrite h)
  · exact canon_devPut h

theorem canon_busWrite {ctrl : Bool} {src t : ℕ} {l : List (ℕ × Byte)} {s : State} (h : Canon s) :
    Canon (busWrite ctrl src t l s) := canon_foldl (fun _ _ ht => canon_devWrite ht) (canon_memWrite h)

/-! ### Access -/

theorem canon_modPipeOf {s : State} {n : ℕ} {o : Bool} {f : Pipe → Pipe} (h : Canon s) : Canon (s.modPipeOf n o f) :=
  canon_modCore h

/-! ### Perform -/

theorem canon_modLoad {s : State} {n : ℕ} {o : Bool} {i : ℕ} {f : Req LdOp → Req LdOp} (h : Canon s) :
    Canon (s.modLoad n o i f) := canon_modPipeOf h

theorem canon_modStore {s : State} {n : ℕ} {o : Bool} {i : ℕ} {f : Req StOp → Req StOp} (h : Canon s) :
    Canon (s.modStore n o i f) := canon_modPipeOf h

theorem canon_l1Put {n line : ℕ} {v : L1Line} {s : State} (h : Canon s) : Canon (l1Put n line v s) := canon_mk h

theorem canon_l1Fill {n line : ℕ} {s : State} (h : Canon s) : Canon (l1Fill n line s) := canon_l1Put h

theorem canon_l1Store {n pa : ℕ} {b : Byte} {s : State} (h : Canon s) : Canon (l1Store n pa b s) := canon_modL1 h

theorem canon_openAcquire {n : ℕ} {scope : Option ℕ} {s : State} (h : Canon s) : Canon (openAcquire n scope s) := by
  dsimp only [openAcquire]
  split
  · exact canon_modL1 h
  · exact h

theorem canon_awaitCopy {n pa : ℕ} {w : PodWho} {s0 s : State} (h : Canon s) : Canon (awaitCopy n pa w s0 s) := by
  dsimp only [awaitCopy]
  split
  · exact canon_l1Put h
  · exact h

theorem canon_podLoad {n : ℕ} {o : Bool} {i j : ℕ} {r : Req LdOp} {s : State} (h : Canon s) :
    Canon (podLoad n o i j r s) := by
  dsimp only [podLoad]
  split
  · rename_i e
    exact canon_ite (canon_awaitCopy (canon_snd e (canon_podAccess h))) (canon_snd e (canon_podAccess h))
  · rename_i e
    refine canon_ite (canon_modLoad (canon_snd e (canon_podAccess h))) ?_
    exact canon_modLoad <| canon_ite
      (canon_snd e (canon_podAccess h))
      (canon_dropCopy (canon_snd e (canon_podAccess h)))

theorem canon_loadUnit {n : ℕ} {o : Bool} {i j : ℕ} {s : State} (h : Canon s) : Canon (loadUnit n o i j s) := by
  unfold loadUnit
  split
  · exact h
  · extract_lets _ s1
    have h1 : Canon s1 := canon_openAcquire h
    refine canon_ite h ?_
    refine canon_ite (canon_killCtx h) ?_
    split
    · exact canon_modLoad h1
    · exact canon_ite (canon_podLoad h1) (canon_modLoad (canon_ite (canon_l1Fill h1) (canon_dropCopy h1)))

theorem canon_endLoad {n : ℕ} {o : Bool} {i : ℕ} {r : Req LdOp} {v : Vec} {s : State} (h : Canon s) :
    Canon (endLoad n o i r v s) := canon_modPipeOf h

theorem canon_tryEndLoad {n : ℕ} {o : Bool} {i : ℕ} {s : State} (h : Canon s) : Canon (tryEndLoad n o i s) := by
  dsimp only [tryEndLoad]
  split
  · exact h
  · exact canon_ite (canon_endLoad h) h

theorem canon_fillLine {n : ℕ} {o : Bool} {i w j k : ℕ} {s : State} (h : Canon s) : Canon (fillLine n o i w j k s) := by
  dsimp only [fillLine]
  split
  · exact h
  · refine canon_ite h ?_
    refine canon_ite (canon_atCore (fun _ ht => canon_endFill ht) h) ?_
    refine canon_ite ?_ (canon_atCore (fun _ ht => canon_fillBytes ht) (canon_modLoad h))
    split
    · rename_i e
      exact canon_snd e (canon_podAccess h)
    · rename_i e
      refine canon_ite (canon_atCore (fun _ ht => canon_endFill ht) (canon_snd e (canon_podAccess h))) ?_
      exact canon_atCore (fun _ ht => canon_fillBytes ht) (canon_modLoad (canon_snd e (canon_podAccess h)))

theorem canon_tryEndFill {n : ℕ} {o : Bool} {i w j : ℕ} {s : State} (h : Canon s) : Canon (tryEndFill n o i w j s) := by
  dsimp only [tryEndFill]
  split
  · exact h
  · exact canon_ite (canon_atCore (fun _ ht => canon_endFill ht) h) h

theorem canon_readLines {n : ℕ} {o : Bool} {i w j : ℕ} {ks : List ℕ} {s : State} (h : Canon s) :
    Canon (readLines n o i w j ks s) := canon_tryEndFill (canon_foldl (fun _ _ ht => canon_fillLine ht) h)

theorem canon_fillDone {n w j : ℕ} {s : State} (h : Canon s) : Canon (fillDone n w j s) := by
  dsimp only [fillDone]
  split
  · exact h
  · split
    · exact h
    · split
      · exact canon_atCore (fun _ ht => canon_fillWalk ht) h
      · exact canon_readLines (canon_atCore (fun _ ht => canon_fillWalk ht) h)

theorem canon_waitRead {n : ℕ} {o : Bool} {i : ℕ} {r : Req LdOp} {ne : Bool} {c cmp pa v : ℕ} {s : State} (h : Canon s) :
    Canon (waitRead n o i r ne c cmp pa v s) :=
  canon_ite (canon_endLoad (canon_openAcquire (canon_dropCopy h))) (canon_ite (canon_endLoad (canon_dropCopy h)) h)

theorem canon_testWait {n : ℕ} {o : Bool} {i : ℕ} {s : State} (h : Canon s) : Canon (testWait n o i s) := by
  dsimp only [testWait]
  split
  · exact h
  · split
    · refine canon_ite h ?_
      refine canon_ite (canon_killCtx h) ?_
      refine canon_ite ?_ (canon_waitRead h)
      split
      · rename_i e
        exact canon_snd e (canon_podAccess h)
      · rename_i e
        refine canon_ite (canon_modLoad (canon_snd e (canon_podAccess h))) ?_
        exact canon_waitRead (canon_snd e (canon_podAccess h))
    · exact h

theorem canon_noteTest {key pa : ℕ} {s : State} (h : Canon s) : Canon (noteTest key pa s) := canon_mk h

theorem canon_readWait {n : ℕ} {o : Bool} {i : ℕ} {r : Req LdOp} {s : State} (h : Canon s) : Canon (readWait n o i r s) :=
  canon_noteTest (canon_testWait h)

theorem canon_testWaits {pa : ℕ} {s : State} (h : Canon s) : Canon (testWaits pa s) :=
  canon_ite (canon_foldl (fun _ _ ht => canon_testWait ht) h) h

theorem canon_pollWait {n : ℕ} {o : Bool} {i : ℕ} {s : State} (h : Canon s) : Canon (pollWait n o i s) := by
  dsimp only [pollWait]
  split
  · exact h
  · split
    · exact canon_ite (canon_readWait h) h
    · exact h

theorem canon_waitTimeout {n : ℕ} {o : Bool} {i : ℕ} {s : State} (h : Canon s) : Canon (waitTimeout n o i s) := by
  dsimp only [waitTimeout]
  split
  · exact h
  · exact canon_ite (canon_testWait h) h

theorem canon_probe {n va : ℕ} {s : State} (h : Canon s) : Canon (probe n va s).2 := by
  dsimp only [probe]
  split
  · exact canon_mk h
  · split
    · exact h
    · exact canon_ite (canon_coreWalk (canon_noteWalk h)) (canon_walkEnds (canon_coreWalk (canon_noteWalk h)))

theorem canon_preqPost {n : ℕ} {o : Bool} {i : ℕ} {r : Req LdOp} {last : ℕ} {s : State} (h : Canon s) :
    Canon (preqPost n o i r last s) :=
  canon_ite (canon_ite (canon_modPipeOf (canon_postPage h)) (canon_modLoad (canon_postPage h))) h

theorem canon_prefetched {n : ℕ} {o : Bool} {i : ℕ} {r : Req LdOp} {intoL1 : Bool} {s : State} (h : Canon s) :
    Canon (prefetched n o i r intoL1 s) := canon_ite (canon_l1Fill (canon_modPipeOf h)) (canon_modPipeOf h)

theorem canon_loadReply {n : ℕ} {o : Bool} {i : ℕ} {units : BitVec 33} {s : State} (h : Canon s) :
    Canon (loadReply n o i units s) := by
  dsimp only [loadReply]
  split
  · exact h
  · refine canon_ite h ?_
    split
    · exact h
    · exact canon_ite (canon_readLines h) h
    · exact canon_ite (canon_readWait h) h
    · exact canon_endLoad (canon_probe h)
    · exact canon_preqPost h
    · exact canon_prefetched h
    · exact canon_tryEndLoad (canon_foldl (fun _ _ ht => canon_loadUnit ht) h)

theorem canon_endStore {n : ℕ} {o : Bool} {i : ℕ} {r : Req StOp} {s : State} (h : Canon s) : Canon (endStore n o i r s) :=
  canon_modPipeOf h

theorem canon_podStore {n : ℕ} {o : Bool} {i j kind : ℕ} {r : Req StOp} {done : Flit → State → State} {s : State}
    (hdone : ∀ x t, Canon t → Canon (done x t)) (h : Canon s) : Canon (podStore n o i j kind r done s) := by
  dsimp only [podStore]
  split
  · rename_i e
    exact canon_snd e (canon_podAccess h)
  · rename_i e
    exact canon_ite (canon_modStore (canon_snd e (canon_podAccess h))) (hdone _ _ (canon_snd e (canon_podAccess h)))

theorem canon_noteHost {n : ℕ} {l : List (ℕ × Byte)} {s0 s : State} (h : Canon s) : Canon (noteHost n l s0 s) :=
  canon_mk h

theorem canon_sysDone {n scope : ℕ} {s : State} (h : Canon s) : Canon (sysDone n scope s) := canon_ite (canon_mk h) h

theorem canon_storeUnit {n : ℕ} {o : Bool} {i j : ℕ} {s : State} (h : Canon s) : Canon (storeUnit n o i j s) := by
  dsimp only [storeUnit]
  split
  · exact h
  · refine canon_ite h ?_
    refine canon_ite
      (canon_podStore (fun _ _ ht => canon_foldl (fun _ _ ht1 => canon_l1Store ht1) (canon_modStore ht)) h) ?_
    refine canon_ite
      (canon_noteHost (canon_busWrite (canon_foldl (fun _ _ ht => canon_l1Store ht) (canon_modStore h)))) ?_
    refine canon_ite (canon_mk (canon_busWrite (canon_foldl (fun _ _ ht => canon_l1Store ht) (canon_modStore h)))) ?_
    exact canon_busWrite (canon_foldl (fun _ _ ht => canon_l1Store ht) (canon_modStore h))

theorem canon_tryEndStore {n : ℕ} {o : Bool} {i : ℕ} {s : State} (h : Canon s) : Canon (tryEndStore n o i s) := by
  dsimp only [tryEndStore]
  split
  · exact h
  · exact canon_ite (canon_sysDone (canon_endStore (canon_ite h (canon_cleanLines h)))) h

theorem canon_discardLine {n pa : ℕ} {s : State} (h : Canon s) : Canon (discardLine n pa s) :=
  canon_mk (canon_memWrite (canon_foldl (fun _ _ ht => canon_l1Store ht) h))

theorem canon_sendArrive {n name j : ℕ} {r : Req StOp} {s : State} (h : Canon s) : Canon (sendArrive n name j r s) :=
  canon_mk h

theorem canon_ringBell {n q : ℕ} {wake : Bool} {v : Word} {s : State} (h : Canon s) : Canon (ringBell n q wake v s) :=
  canon_ite (canon_refuseAt h) (canon_ite (canon_doorbell h) (canon_doorbell h))

theorem canon_apwDone {n : ℕ} {o : Bool} {i : ℕ} {r : Req StOp} {s : State} (h : Canon s) : Canon (apwDone n o i r s) :=
  canon_ite h (canon_ite (canon_refuseAt (canon_endStore h)) (canon_ite h (canon_chanWrite (canon_endStore h))))

theorem canon_storePerformed {n : ℕ} {o : Bool} {i : ℕ} {units : BitVec 33} {s : State} (h : Canon s) :
    Canon (storePerformed n o i units s) := by
  unfold storePerformed
  extract_lets
  split
  · exact h
  · refine canon_ite h ?_
    extract_lets done
    have hdone : Canon done := canon_endStore h
    split
    · exact canon_ite h (canon_tryEndStore (canon_foldl (fun _ _ ht => canon_storeUnit ht) h))
    · exact canon_ite h (canon_tryEndStore (canon_foldl (fun _ _ ht => canon_storeUnit ht) h))
    · exact canon_ite h (canon_tryEndStore (canon_foldl (fun _ _ ht => canon_storeUnit ht) h))
    · exact canon_ite h (canon_tryEndStore (canon_foldl (fun _ _ ht => canon_storeUnit ht) h))
    · exact canon_ite (canon_mk hdone) h
    · exact canon_ite (canon_dropCopy hdone) h
    · refine canon_ite
        (canon_ite (canon_podStore (fun _ _ ht => canon_discardLine (canon_endStore ht)) h) (canon_discardLine hdone)) ?_
      exact h
    · exact canon_ite hdone h
    · exact canon_ite (canon_sysDone hdone) h
    · exact h
    · exact h
    · exact canon_apwDone h
    · exact canon_ite (canon_mailSet hdone) h
    · exact canon_ite (canon_setTokens hdone) h
    · exact canon_ite (canon_sendArrive hdone) h
    · exact canon_ite (canon_ringBell hdone) h

theorem canon_atomicExecute {n : ℕ} {o : Bool} {i : ℕ} {s : State} (h : Canon s) : Canon (atomicExecute n o i s) := by
  dsimp only [atomicExecute]
  split
  · exact h
  · split
    · refine canon_ite h ?_
      refine canon_ite (canon_killCtx h) ?_
      refine canon_ite ?_ ?_
      · refine canon_podStore (fun _ _ ht => ?_) h
        split
        · exact canon_modCore (canon_memWrite (canon_openAcquire (canon_dropCopy (canon_endStore ht))))
        · exact canon_memWrite (canon_openAcquire (canon_dropCopy (canon_endStore ht)))
      · split
        · exact canon_modCore (canon_memWrite (canon_openAcquire (canon_dropCopy (canon_endStore h))))
        · exact canon_memWrite (canon_openAcquire (canon_dropCopy (canon_endStore h)))
    · exact h

/-! ### Repair -/

theorem canon_poisonLine {line : ℕ} {s : State} (h : Canon s) : Canon (poisonLine line s) := canon_mk h

theorem canon_sliceError {line : ℕ} {s : State} (h : Canon s) : Canon (sliceError line s) := by
  dsimp only [sliceError]
  refine canon_ite ?_ h
  split
  · exact canon_killCtx (canon_poisonLine (canon_mk h))
  · exact canon_poisonLine (canon_mk h)

theorem canon_cacheError {n : ℕ} {s : State} (h : Canon s) : Canon (cacheError n s) := canon_mk h

theorem canon_quadTlbError {q : ℕ} {s : State} (h : Canon s) : Canon (quadTlbError q s) := by
  dsimp only [quadTlbError]
  refine canon_mk ?_
  split <;> exact h

theorem canon_killOpt {t : Option ℕ} {s : State} (h : Canon s) : Canon (killOpt t s) := by
  dsimp only [killOpt]
  split
  · exact canon_killCtx h
  · exact h

theorem canon_accError {n : ℕ} {s : State} (h : Canon s) : Canon (accError n s) :=
  canon_ite (canon_killOpt h) (canon_killOpt h)

theorem canon_foldError {q : ℕ} {s : State} (h : Canon s) : Canon (foldError q s) :=
  canon_ite h (canon_ite (canon_killOpt h) (canon_mk h))

theorem canon_channelError {c : ℕ} {s : State} (h : Canon s) : Canon (channelError c s) := by
  dsimp only [channelError]
  split
  · refine canon_ite h ?_
    refine canon_headResult ?_
    split
    · exact canon_ite h (canon_payloadPart h)
    · exact h
  · exact h

theorem canon_linkError {p : ℕ} {s : State} (h : Canon s) : Canon (linkError p s) := by
  dsimp only [linkError]
  split
  · exact h
  · exact canon_mk (canon_chargeFlit (canon_countLost (canon_modLink h)))

theorem canon_qtableError {d k : ℕ} {s : State} (h : Canon s) : Canon (qtableError d k s) :=
  canon_foldl (fun _ _ ht => canon_killCtx ht) h

theorem canon_restartDisp {d : ℕ} {s : State} (h : Canon s) : Canon (restartDisp d s) := canon_modDisp h

theorem canon_remapError {k : ℕ} {s : State} (h : Canon s) : Canon (remapError k s) := canon_mk h

theorem canon_retireFrame {f : ℕ} {s : State} (h : Canon s) : Canon (retireFrame f s) :=
  canon_ite h (canon_tell (canon_mk h))

theorem canon_frameDone {f : ℕ} {s : State} (h : Canon s) : Canon (frameDone f s) := by
  unfold frameDone
  refine canon_ite h ?_
  exact canon_ite (canon_mk (canon_mk h)) (canon_ite (canon_tell (canon_mk (canon_mk h))) (canon_mk (canon_mk h)))

theorem canon_swallowUpdate {q r c : ℕ} {s : State} (h : Canon s) : Canon (swallowUpdate q r c s) :=
  canon_foldl (fun _ _ ht => canon_monRecord ht) (canon_modQuad h)

theorem canon_swallowPulse {q : ℕ} {s : State} (h : Canon s) : Canon (swallowPulse q s) :=
  canon_ite (canon_modQuad h) h

theorem canon_setLimit {q : ℕ} {x : Bool} {s : State} (h : Canon s) : Canon (setLimit q x s) := canon_modQuad h

theorem canon_evictLine {pa : ℕ} {s : State} (h : Canon s) : Canon (evictLine pa s) := canon_mk h

theorem canon_hostPut {l : List (ℕ × Byte)} {s : State} (h : Canon s) : Canon (hostPut l s) :=
  canon_ite h (canon_mk h)

theorem canon_configAccess {wr : Bool} {a : ℕ} {v : BitVec 32} {s : State} (h : Canon s) :
    Canon (configAccess wr a v s) := canon_ite (canon_mk h) (canon_mk h)

theorem canon_mailboxWrite {v : Word} {s : State} (h : Canon s) : Canon (mailboxWrite v s) := canon_mk (canon_mk h)

theorem canon_hostAccess {wr ext : Bool} {pa : ℕ} {en : BitVec 8} {v : Word} {s : State} (h : Canon s) :
    Canon (hostAccess wr ext pa en v s) := by
  unfold hostAccess
  refine canon_ite (canon_tell h) ?_
  refine canon_ite (canon_ite (canon_portDrop h) (canon_tell h)) ?_
  refine canon_ite
    (canon_ite
      (canon_devWrite h)
      (canon_testWaits (canon_hostPut (canon_dbgStore (fun _ _ _ ht => canon_dbgcmdWrite ht) h)))) ?_
  exact canon_tell h

theorem canon_setHostLink {cxl : Bool} {s : State} (h : Canon s) : Canon (setHostLink cxl s) := canon_mk h

theorem canon_setIdeKey {k : BitVec 256} {s : State} (h : Canon s) : Canon (setIdeKey k s) := canon_mk h

theorem canon_sweep {s : State} (h : Canon s) : Canon (sweep s) :=
  canon_foldl (fun _ _ ht => canon_killCtx ht) (canon_mk h)

/-! ### Landing -/

theorem canon_landLatch {n : ℕ} {o : Bool} {slot : Pos} {r : ℕ} {v : Vec} {s : State} (h : Canon s) :
    Canon (landLatch n o slot r v s) := by
  dsimp only [landLatch]
  split
  · exact canon_modCore h
  · exact canon_modCore h
  · exact canon_modPipeOf h

theorem canon_landOne {n : ℕ} {o : Bool} {f : Flight} {s : State} (h : Canon s) : Canon (landOne n o f s) := by
  dsimp only [landOne]
  split
  · exact canon_modPipeOf h
  · exact canon_modCore h
  · exact canon_landLatch h
  · exact canon_modPipeOf h
  · exact canon_ite (canon_mbreply h) (canon_sysWrite h)
  · exact canon_mailSet h
  · exact canon_modCore h
  · exact canon_atCore (fun _ ht => canon_mapWindow ht) h

theorem canon_landFlights {n : ℕ} {o : Bool} {s : State} (h : Canon s) : Canon (landFlights n o s) :=
  canon_foldl (fun _ _ ht => canon_landOne ht) (canon_modPipeOf h)

theorem canon_landResults {n : ℕ} {s : State} (h : Canon s) : Canon (landResults n s) :=
  canon_landFlights (canon_landFlights h)

theorem canon_noteEntry {n : ℕ} {o : Bool} {k : LdqEntry} {s : State} (h : Canon s) : Canon (noteEntry n o k s) := by
  dsimp only [noteEntry]
  split
  · refine canon_monRecord ?_
    split
    · exact canon_modPipeOf h
    · exact h
  · split
    · exact canon_modPipeOf h
    · exact h

theorem canon_deliverEntries {n : ℕ} {o : Bool} {s : State} (h : Canon s) : Canon (deliverEntries n o s) :=
  canon_foldl (fun _ _ ht => canon_noteEntry ht) (canon_modPipeOf h)

theorem canon_landHits {n : ℕ} {o : Bool} {k : ℕ} {s : State} (h : Canon s) : Canon (landHits n o k s) := by
  induction k generalizing s with
  | zero => exact h
  | succ k ih =>
    unfold landHits
    split
    · exact ih (canon_endLoad h)
    · exact h

theorem canon_landWrites {n : ℕ} {s : State} (h : Canon s) : Canon (landWrites n s) :=
  canon_foldl (fun _ _ ht => wf_writeBytesAs _ ht) (canon_modPipeOf h)

/-! ### Vector -/

theorem canon_srcVE {slot : Pos} {n : ℕ} {x : BitVec 6} {s : State} (h : Canon s) : Canon (srcVE slot n x s).2 := by
  dsimp only [srcVE]
  split
  · exact h
  · exact canon_srcV h

theorem canon_vec2 {vs : VSlot} {lat : ℕ} {w : BitVec 1} {d a b : BitVec 6} {bc : Option ℕ} {f : Vec → Vec → Vec → Vec}
    {s : State} (h : Canon s) : Canon (vec2 vs lat w d a b bc f s) := by
  dsimp only [vec2]
  refine canon_withPops h (fun _ ht => ?_)
  refine canon_dest ?_
  split
  · refine canon_srcVE ?_
    split
    · exact canon_srcVE ht
    · exact canon_srcV ht
  · refine canon_srcV ?_
    split
    · exact canon_srcVE ht
    · exact canon_srcV ht

theorem canon_vec1 {vs : VSlot} {lat : ℕ} {w : BitVec 1} {d a : BitVec 6} {bc : Option ℕ} {f : Vec → Vec → Vec}
    {s : State} (h : Canon s) : Canon (vec1 vs lat w d a bc f s) := by
  dsimp only [vec1]
  refine canon_withPops h (fun _ ht => ?_)
  refine canon_dest ?_
  split
  · exact canon_srcVE ht
  · exact canon_srcV ht

theorem canon_vElem2 {vs : VSlot} {lat : ℕ} {w : BitVec 1} {d a b : BitVec 6} {t : BitVec 5} {f : ℕ → ℕ → ℕ → ℕ}
    {s : State} (h : Canon s) : Canon (vElem2 vs lat w d a b t f s) := canon_vec2 h

theorem canon_vElem1 {vs : VSlot} {lat : ℕ} {w : BitVec 1} {d a : BitVec 6} {t : BitVec 5} {f : ℕ → ℕ} {s : State}
    (h : Canon s) : Canon (vElem1 vs lat w d a t f s) := canon_vec1 h

theorem canon_vApprox {g : FVal → Near} {vs : VSlot} {w : BitVec 1} {d a : BitVec 6} {f : BitVec 1} {t : BitVec 5}
    {s : State} (h : Canon s) : Canon (vApprox g vs w d a f t s) := canon_vec1 h

theorem canon_maskDest {s : State} {vs : VSlot} {m : BitVec 4} {x : Mask} (h : Canon s) : Canon (maskDest s vs m x) :=
  canon_result h

/-! ### The instructions and the occurrences -/

theorem keeps_execSSwr {i : BitVec 12} {a : BitVec 6} {s : State} : Keeps s (execSSwr i a s) :=
  keeps_next <| fun h =>
    canon_sysAllowed h (fun _ ht => canon_withPops ht (fun _ ht1 => canon_result (canon_srcS ht1)))

theorem keeps_execCLoop {l : BitVec 5} {s : State} : Keeps s (execCLoop l s) :=
  keeps_next <| fun h =>
    canon_ite (canon_transfer (canon_modLoop h)) (canon_ite (canon_transfer (canon_modLoop h)) (canon_modLoop h))

theorem keeps_execCEnter {i : BitVec 16} {s : State} : Keeps s (execCEnter i s) :=
  keeps_next (fun h => canon_haltAtEdge (canon_enterSource (canon_regionEdge (canon_modRegion h))))

theorem keeps_execCLeave {i : BitVec 16} {s : State} : Keeps s (execCLeave i s) :=
  keeps_next (fun h => canon_ite (canon_modRegion h) (canon_haltAtEdge (canon_regionEdge (canon_modRegion h))))

theorem keeps_execCEscal {s : State} : Keeps s (execCEscal s) :=
  keeps_next (fun h => canon_privileged h (fun _ ht => canon_modRegs (canon_modPipe (canon_record ht))))

theorem keeps_execCBwait {l : BitVec 16} {j : BitVec 4} {s : State} : Keeps s (execCBwait l j s) := by
  dsimp only [execCBwait]
  refine keeps_next fun h => ?_
  split
  · exact canon_fixedTrap h
  · refine canon_ite (canon_bwaitEnd h) ?_
    split
    · exact canon_fixedTrap h
    · exact canon_holdNow h

theorem keeps_execCBtest {j : BitVec 4} {p : BitVec 15} {l : BitVec 5} {s : State} : Keeps s (execCBtest j p l s) := by
  dsimp only [execCBtest]
  refine keeps_next fun h => ?_
  split
  · exact canon_fixedTrap h
  · exact canon_ite (canon_branchIf (canon_acquireL1 h)) h

theorem keeps_execVCmp {vs : VSlot} {c : BitVec 2} {m : BitVec 4} {a b : BitVec 6} {k : BitVec 1} {t : BitVec 5}
    {s : State} : Keeps s (execVCmp vs c m a b k t s) :=
  keeps_next (fun h => canon_withPops h (fun _ ht => canon_maskDest (canon_srcVE (canon_srcVE ht))))

theorem keeps_execLLdst {a b : BitVec 6} {t : BitVec 5} {s : State} : Keeps s (execLLdst a b t s) :=
  keeps_next <| fun h =>
    canon_withEntry h (fun _ ht => canon_alignedL ht (fun _ ht1 => canon_refresh (canon_reserveFixed ht1)))

theorem keeps_execLLdw {m : BitVec 4} {a b : BitVec 6} {s : State} : Keeps s (execLLdw m a b s) := by
  dsimp only [execLLdw]
  refine keeps_next fun h => ?_
  refine canon_withEntry h (fun _ ht => ?_)
  refine canon_alignedL ht (fun _ ht1 => ?_)
  split
  · exact canon_fixedTrap ht1
  · exact canon_touchFill (canon_refresh (canon_result (canon_reserveFixed ht1)))

theorem keeps_execLLdr {m : BitVec 4} {a b : BitVec 6} {s : State} : Keeps s (execLLdr m a b s) := by
  dsimp only [execLLdr]
  refine keeps_next fun h => ?_
  refine canon_ite (canon_fixedTrap h) ?_
  refine canon_ite (canon_holdNow h) ?_
  refine canon_ite (canon_trapL h) ?_
  split
  · exact canon_holdNow (canon_askWalk h)
  · exact canon_trapL (canon_dropWalks h)
  · refine canon_ite (canon_watchReport (fun _ ht => canon_trapL ht) h) ?_
    refine canon_ite (canon_trapL (canon_dropWalks h)) ?_
    split
    · exact canon_trapL (canon_dropWalks h)
    · exact canon_dropWalks (canon_enterLoad (canon_settleAcq h))

theorem keeps_execLWadv {a : BitVec 6} {n : BitVec 3} {s : State} : Keeps s (execLWadv a n s) := by
  dsimp only [execLWadv]
  refine keeps_next fun h => ?_
  refine canon_ite h ?_
  split
  · exact canon_fixedTrap h
  · exact canon_advance (canon_settleAcq h)

theorem keeps_execLWmap {a b : BitVec 6} {n : BitVec 3} {s : State} : Keeps s (execLWmap a b n s) :=
  keeps_next <| fun h =>
    canon_alignedL h (fun _ ht => canon_ite (canon_fixedTrap ht) (canon_refresh (canon_result ht)))

theorem keeps_execLWres {m : BitVec 4} {a : BitVec 6} {n : BitVec 3} {s : State} : Keeps s (execLWres m a n s) := by
  dsimp only [execLWres]
  refine keeps_next fun h => ?_
  split
  · exact canon_fixedTrap h
  · exact canon_result h

theorem keeps_execLPreq {a b : BitVec 6} {s : State} : Keeps s (execLPreq a b s) :=
  keeps_next <| fun h =>
    canon_ite (canon_holdNow h) (canon_ite (canon_settleAcq h) (canon_enterLoad (canon_settleAcq h)))

theorem keeps_execLLdacc {a b : BitVec 6} {s : State} : Keeps s (execLLdacc a b s) :=
  keeps_next <| fun h =>
    canon_withEntry h (fun _ ht => canon_alignedL ht (fun _ ht1 => canon_refresh (canon_reserveFixed ht1)))

theorem keeps_execLLdaccw {a b : BitVec 6} {s : State} : Keeps s (execLLdaccw a b s) :=
  keeps_next <| fun h =>
    canon_withEntry h
      (fun _ ht =>
        canon_ite (canon_alignedL ht (fun _ ht1 => canon_refresh (canon_reserveFixed ht1))) (canon_fixedTrap ht))

theorem keeps_execLLdz {a b : BitVec 6} {s : State} : Keeps s (execLLdz a b s) :=
  keeps_next <| fun h =>
    canon_withEntry h
      (fun _ ht => canon_alignedL ht (fun _ ht1 => canon_refresh (canon_landNow (canon_reserveFixed ht1))))

theorem keeps_execLLds {a b : BitVec 6} {s : State} : Keeps s (execLLds a b s) :=
  keeps_next <| fun h =>
    canon_ite
      (canon_fixedTrap h)
      (canon_ite (canon_holdNow h) (canon_alignedL h (fun _ ht => canon_enterLoad (canon_settleAcq ht))))

theorem keeps_execLXlat {a b : BitVec 6} {s : State} : Keeps s (execLXlat a b s) :=
  keeps_next <| fun h =>
    canon_ite (canon_fixedTrap h) (canon_ite (canon_holdNow h) (canon_enterLoad (canon_settleAcq h)))

theorem keeps_execWStw {d a b : BitVec 6} {s : State} : Keeps s (execWStw d a b s) := by
  dsimp only [execWStw]
  refine keeps_next fun h => ?_
  refine canon_ite (canon_wStoreTrap h) ?_
  refine canon_ite (canon_wStoreTrap h) ?_
  split
  · exact canon_wStoreTrap h
  · exact canon_padStore (canon_touchFill (canon_markDirty h))

theorem keeps_execWStacc {d a b : BitVec 6} {x : BitVec 1} {s : State} : Keeps s (execWStacc d a b x s) :=
  keeps_next (fun h => canon_ite (canon_ite (canon_slotStore h) (canon_wStoreTrap h)) (canon_slotStore h))

theorem keeps_execWDiscard {a b : BitVec 6} {s : State} : Keeps s (execWDiscard a b s) :=
  keeps_next <| fun h =>
    canon_withStoreEntry h
      (fun _ ht =>
        canon_issueAccess
          (fun _ ht1 => canon_wHold ht1)
          (fun _ _ _ ht1 => canon_wTrap ht1)
          (fun _ _ ht1 => canon_dropWalks (canon_enterStore (canon_settleAcq ht1))) ht)

theorem keeps_execWArrive {c : BitVec 3} {a : BitVec 6} {j : BitVec 4} {s : State} : Keeps s (execWArrive c a j s) :=
  keeps_next <| fun h =>
    canon_withStoreEntry h (fun _ ht => canon_withCommand (fun _ ht1 => canon_mk (canon_plainEntryAt ht1)) ht)

theorem keeps_execWFlushw {n : BitVec 3} {s : State} : Keeps s (execWFlushw n s) := by
  dsimp only [execWFlushw]
  refine keeps_next fun h => ?_
  split
  · exact canon_wTrap h
  · exact canon_withStoreEntry h (fun _ ht => canon_wPop (canon_writeBackAll (canon_settleAcq ht)))

theorem keeps_execFWide {d a b : BitVec 6} {c : BitVec 1} {m : BitVec 3} {s : State} : Keeps s (execFWide d a b c m s) :=
  keeps_next (fun h => canon_arrayOp h (fun _ ht => canon_ite (canon_fTrap ht) (canon_result (canon_result ht))))

theorem keeps_execFDrain {k f : BitVec 3} {c : BitVec 2} {s : State} : Keeps s (execFDrain k f c s) := by
  dsimp only [execFDrain]
  refine keeps_next fun h => ?_
  refine canon_arrayOp h (fun _ ht => ?_)
  refine canon_ite (canon_fTrap ht) ?_
  refine canon_ite (canon_fTrap ht) ?_
  split
  · exact canon_fTrap (canon_modFold ht)
  · exact canon_ite (canon_fTrap ht) (canon_drainTake (canon_modFold ht))
  · exact canon_ite (canon_fTrap ht) (canon_drainTake (canon_modFold ht))
  · exact canon_ite (canon_fTrap ht) (canon_drainTake (canon_modFold ht))

theorem keeps_execFStage {f : BitVec 3} {c : BitVec 2} {s : State} : Keeps s (execFStage f c s) :=
  keeps_next <| fun h =>
    canon_arrayOp h
      (fun _ ht => canon_refresh (canon_modMyArray (canon_foldl_snd (fun _ _ ht1 => canon_useFeed ht1) ht)))

theorem keeps_execFCscnt {r : BitVec 1} {m : BitVec 2} {s : State} : Keeps s (execFCscnt r m s) :=
  keeps_next <| fun h =>
    canon_ite (canon_result (canon_ite (canon_modFold h) h)) (canon_modMe (canon_ite (canon_modFold h) h))

theorem keeps_execFInject {a b : BitVec 6} {s : State} : Keeps s (execFInject a b s) :=
  keeps_next (fun h => canon_arrayOp h (fun _ ht => canon_ite (canon_modMyArray ht) (canon_fTrap ht)))

theorem keeps_execTranslationWalk {w : Walker} {s : State} : Keeps s (execTranslationWalk w s) := by
  dsimp only [execTranslationWalk]
  refine keeps_next fun h => ?_
  split
  · exact canon_slotWalk h
  · exact canon_slotWalk h
  · exact canon_slotWalk h
  · exact canon_engineWalk h
  · exact canon_dispWalk h

theorem keeps_execParkTimeout {n : CoreId} {s : State} : Keeps s (execParkTimeout n s) :=
  keeps_next (fun h => canon_ite (canon_endPark (canon_atCore (fun _ ht => canon_parkTrap ht) h)) (canon_suspWd h))

theorem keeps_execCtxDestroy {s : State} : Keeps s (execCtxDestroy s) :=
  keeps_next (fun h => canon_ite (canon_ite (canon_ctxDone (canon_killCtx h)) (canon_ctxDone h)) h)

theorem keeps_execCtxRelease {s : State} : Keeps s (execCtxRelease s) :=
  keeps_next <| fun h =>
    canon_ite
      (canon_ite
        (canon_ite (canon_ctxDone (canon_dropTag (canon_setCtx (canon_flushJournal h)))) (canon_flushJournal h))
        (canon_ctxDone h)) h

theorem keeps_execContextScrubDone {t : BitVec 12} {s : State} : Keeps s (execContextScrubDone t s) :=
  keeps_next <| fun h =>
    canon_ite (canon_irqRequest (canon_dropTag (canon_setCtx (canon_journal (canon_scrubCtx h))))) h

theorem keeps_execCmdAccept {c : CmdSource} {s : State} : Keeps s (execCmdAccept c s) := by
  dsimp only [execCmdAccept]
  refine keeps_next fun h => ?_
  split
  · exact canon_acceptCore h
  · exact canon_acceptDisp h

theorem keeps_execCmdActivate {c : BitVec 9} {s : State} : Keeps s (execCmdActivate c s) := by
  dsimp only [execCmdActivate]
  refine keeps_next fun h => ?_
  split
  · exact h
  · refine canon_ite h ?_
    split
    · refine canon_ite (canon_engineAsk h) ?_
      refine canon_ite (canon_farDone (canon_modHead h)) ?_
      exact canon_ite (canon_farDone (canon_modHead h)) (canon_engineEnter (canon_farDone (canon_modHead h)))
    · exact h
    · exact canon_modHead h

theorem keeps_execCmdDone {c : BitVec 9} {s : State} : Keeps s (execCmdDone c s) := by
  dsimp only [execCmdDone]
  refine keeps_next fun h => ?_
  split
  · exact h
  · split
    · exact canon_tryStamp h
    · refine canon_ite h ?_
      refine canon_ite (canon_tryStamp (canon_headResult h)) ?_
      refine canon_ite ?_ h
      split
      · exact canon_engineAsk h
      · exact canon_tryStamp (canon_headResult (canon_ite h (canon_payloadWrite h)))
    · exact h

theorem keeps_execCmdFail {c : BitVec 9} {s : State} : Keeps s (execCmdFail c s) := by
  dsimp only [execCmdFail]
  refine keeps_next fun h => ?_
  split
  · exact h
  · split
    · exact canon_tryStamp h
    · refine canon_ite h ?_
      split
      · exact canon_tryStamp (canon_headResult (canon_payloadPart h))
      · exact h
    · exact h

theorem keeps_execEngineParkLimit {c : BitVec 9} {s : State} : Keeps s (execEngineParkLimit c s) := by
  dsimp only [execEngineParkLimit]
  refine keeps_next fun h => ?_
  split
  · exact h
  · refine canon_ite ?_ h
    split
    · exact canon_endCmd h
    · refine canon_tryStamp ?_
      refine canon_headResult ?_
      split
      · exact canon_payloadPart h
      · exact h

theorem keeps_execReschedJob {d : DieId} {s : State} : Keeps s (execReschedJob d s) := by
  dsimp only [execReschedJob]
  refine keeps_next fun h => ?_
  split
  · exact h
  · refine canon_ite h ?_
    refine canon_ite (canon_mk (canon_ite h (canon_shootdown h))) ?_
    exact canon_serveJob (canon_mk (canon_ite h (canon_shootdown h)))

theorem keeps_execQcmdDelete {s : State} : Keeps s (execQcmdDelete s) := by
  dsimp only [execQcmdDelete]
  refine keeps_next fun h => ?_
  refine canon_ite ?_ h
  split
  · exact canon_qcmdDone h
  · exact canon_qcmdDone (canon_removeQueue h)
  · exact canon_qcmdDone (canon_removeQueue h)
  · exact canon_ite (canon_saveChanged (canon_modQueue h)) (canon_qcmdDone (canon_removeQueue h))
  · exact canon_ite (canon_saveChanged (canon_modQueue h)) (canon_qcmdDone (canon_removeQueue h))
  · exact canon_modQueue h
  · exact canon_modQueue h
  · exact canon_modQueue h

theorem keeps_execMsixUnmask {v : BitVec 11} {m : BitVec 1} {s : State} : Keeps s (execMsixUnmask v m s) :=
  keeps_next (fun h => canon_ite (canon_setIrq h) (canon_ite (canon_tell (canon_setIrq h)) (canon_setIrq h)))

theorem keeps_execTaskFinish {n : CoreId} {s : State} : Keeps s (execTaskFinish n s) := by
  dsimp only [execTaskFinish]
  refine keeps_next fun h => ?_
  split
  · exact canon_ite h (canon_ite (canon_haltCore h) (canon_finishTask h))
  · exact h

theorem keeps_execBarrierArrival {i : BitVec 16} {s : State} : Keeps s (execBarrierArrival i s) := by
  dsimp only [execBarrierArrival]
  refine keeps_next fun h => ?_
  split
  · exact canon_ite h (canon_sendArrival (canon_mk h))
  · exact h

theorem keeps_execBarrierCompletion {i : BitVec 16} {s : State} : Keeps s (execBarrierCompletion i s) := by
  dsimp only [execBarrierCompletion]
  refine keeps_next fun h => ?_
  split
  · exact h
  · exact canon_ite h (canon_modCore (canon_mk h))

theorem keeps_execLinkRetrainDone {p : BitVec 6} {g : BitVec 8} {s : State} : Keeps s (execLinkRetrainDone p g s) :=
  keeps_next <| fun h =>
    canon_ite (canon_ite (canon_stopPort (canon_modLink h)) (canon_reroute (canon_pump (canon_modLink h)))) h

theorem keeps_execUncorrectableError {u : Site} {s : State} : Keeps s (execUncorrectableError u s) := by
  dsimp only [execUncorrectableError]
  refine keeps_next fun h => ?_
  split
  · exact canon_ite (canon_poisonLine h) h
  · exact canon_sliceError h
  · exact canon_cacheError h
  · exact canon_quadTlbError h
  · exact canon_ite (canon_killOpt h) h
  · exact canon_accError h
  · exact canon_foldError h
  · exact canon_ite h (canon_killCtx h)
  · exact canon_channelError h
  · exact canon_ite (canon_killCtx h) h
  · exact canon_ite (canon_linkError h) h
  · exact canon_qtableError h
  · exact canon_restartDisp h
  · exact canon_remapError h

theorem keeps_execHbmParityAlert {pa : Pa} {s : State} : Keeps s (execHbmParityAlert pa s) :=
  keeps_next <| fun h =>
    canon_ite h (canon_ite (canon_mk h) (canon_foldl (fun _ _ ht => canon_poisonLine ht) (canon_mk h)))

theorem keeps_execSchedulerRestartDone {d : DieId} {s : State} : Keeps s (execSchedulerRestartDone d s) :=
  keeps_next (fun h => canon_ite (canon_foldl (fun _ _ ht => canon_flushBells ht) (canon_modDisp h)) h)

/-- Every instruction and every occurrence answers a next state and keeps memory canonical. -/
theorem keeps_exec (i : Instr) (s : State) : Keeps s (exec i s) := by
  cases i with
  | sNop | cNop | vNop | lNop | fNop | kNop | hbmRefreshLimit => exact keeps_next id
  | sAdd | sSub | sMul | sMulh | sMin | sMax | sAnd | sOr | sXor | sAndn | sShl | sShr | sSar | sFsh | sBfx | sBfi |
    sSel | sLea | sAdds | sSubs => exact keeps_next canon_aluS
  | sAddi | sAndi | sOri | sXori | sShli | sShri | sSari | sFshi | sBfxi | sBfii | sPcnt | sClz | sCtz | sBrev |
    sBitrev | sLeai | sAbs | sCptr | sExt => exact keeps_next canon_aluS1
  | sCmp => exact keeps_next fun h => canon_withPops h (fun _ ht => canon_result (canon_srcS (canon_srcS ht)))
  | sCmpi => exact keeps_next fun h => canon_withPops h (fun _ ht => canon_result (canon_srcS ht))
  | sLi | sLih | vMpop | vMfirst | vMovi => exact keeps_next canon_dest
  | sSrd => exact keeps_next fun h => canon_sysAllowed h (fun _ ht => canon_dest ht)
  | sSwr => exact keeps_execSSwr
  | cBr | cBrn | cBrany | cBrall | cJmp => exact keeps_next canon_branchIf
  | cJmpi | cCalli | cRet => exact keeps_next canon_jumpTo
  | cCall => exact keeps_next canon_transfer
  | cLoop => exact keeps_execCLoop
  | cLoopi | cRot | cQset | cBset => exact keeps_next canon_modLoop
  | cLend => exact keeps_next fun h => canon_ite h (canon_ite (canon_fixedTrap h) (canon_modRegs h))
  | cEnter => exact keeps_execCEnter
  | cLeave => exact keeps_execCLeave
  | cEnd | cGleave => exact keeps_next canon_endTask
  | cTrap => exact keeps_next canon_afterTrap
  | cBrk => exact keeps_next fun h => canon_ite (canon_haltCore h) (canon_afterTrap h)
  | cResume => exact keeps_next fun h => canon_privileged h (fun _ ht => canon_tryResume ht)
  | cAck => exact keeps_next fun h => canon_privileged h (fun _ ht => canon_modRegs ht)
  | cEscal => exact keeps_execCEscal
  | cTkwait | cTkall => exact keeps_next canon_tokenWait
  | cTkclr => exact keeps_next canon_modRegs
  | cBwait l => exact keeps_execCBwait (l := l)
  | cBtest => exact keeps_execCBtest
  | cIfence => exact keeps_next fun h => canon_ite (canon_modMe (canon_dropFetches h)) (canon_holdNow h)
  | cMwait => exact keeps_next fun h => canon_ite (canon_endHold h) (canon_holdNow h)
  | cGap => exact keeps_next canon_modPipe
  | cKick => exact keeps_next fun h => canon_ite (canon_modRegs h) h
  | vAdd | vSub | vMul | vMulh | vFma | vFms | vFnma | vMin | vMax | vAdds | vSubs | vAvg | vMac | vShl | vShr | vSar
  | vRotl | vFsh | vClamp => exact keeps_next canon_vElem2
  | vAbs | vNeg | vPcnt | vClz | vFcls => exact keeps_next canon_vElem1
  | vCmp => exact keeps_execVCmp
  | vCmpi => exact keeps_next fun h => canon_withPops h (fun _ ht => canon_maskDest (canon_srcVE ht))
  | vAnd | vOr | vXor | vAndn | vBfx | vBfi | vPack | vXtr | vBcast | vLane | vPerm | vZip | vUnzip | vLrot | vSlide |
    vSel | vDot => exact keeps_next canon_vec2
  | vNot | vShli | vShri | vSari | vCvt | vCvtn | vCvtw | vCvth | vQblk | vBcasti | vCmpr | vExpd | vRadd | vRmax |
    vRmin | vRbor | vScan | vIota => exact keeps_next canon_vec1
  | vPackw => exact keeps_next fun h => canon_withPops h (fun _ ht => canon_dest (canon_dest (canon_srcV ht)))
  | vXtrw => exact keeps_next fun h => canon_withPops h (fun _ ht => canon_dest (canon_srcV ht))
  | vLut | vLuti => exact keeps_next fun h => canon_refresh (canon_vec2 h)
  | vRcp | vRsq | vExp2 | vLog2 | vSigm => exact keeps_next canon_vApprox
  | vMand | vMor | vMxor | vMnot => exact keeps_next canon_maskDest
  | lLd | lLdx | lLdsc => exact keeps_next canon_padLoad
  | lLdi | lLdb => exact keeps_next canon_padLoadBase
  | lLdst => exact keeps_execLLdst
  | lLdw => exact keeps_execLLdw
  | lLdg | lLdgsc | lLdacq => exact keeps_next canon_scalarLoad
  | lLdgi => exact keeps_next fun h => canon_ite (canon_incAfter (canon_vectorLoad h)) (canon_zeroEntry h)
  | lLdgx | lLdnt => exact keeps_next canon_vectorLoad
  | lLdr => exact keeps_execLLdr
  | lWait | lWaitne => exact keeps_next canon_waitLoad
  | lWadv => exact keeps_execLWadv
  | lWmap => exact keeps_execLWmap
  | lWres => exact keeps_execLWres
  | lPreq => exact keeps_execLPreq
  | lPf | lPfl2 => exact keeps_next canon_prefetch
  | lLdm => exact keeps_next fun h => canon_alignedL h (fun _ ht => canon_refresh (canon_result ht))
  | lLdstamp => exact keeps_next canon_globalLoad
  | lLdacc => exact keeps_execLLdacc
  | lLdaccw => exact keeps_execLLdaccw
  | lLdz => exact keeps_execLLdz
  | lLds => exact keeps_execLLds
  | lXlat => exact keeps_execLXlat
  | wNop => exact keeps_next canon_wPop
  | wSt | wStx | wStsc | wStm => exact keeps_next canon_padStore
  | wSti => exact keeps_next fun h => canon_ite (canon_padStore h) (canon_wPop h)
  | wStst => exact keeps_next canon_slotStore
  | wStw d a b => exact keeps_execWStw (d := d) (a := a) (b := b)
  | wStg => exact keeps_next canon_scalarStore
  | wStgi => exact keeps_next fun h => canon_ite (canon_vectorStore h) (canon_wPop h)
  | wStgx | wStgsc | wStnt => exact keeps_next canon_vectorStore
  | wStrel => exact keeps_next fun h => canon_ite (canon_scalarStore h) (canon_wHold h)
  | wStacc d a b => exact keeps_execWStacc (d := d) (a := a) (b := b)
  | wAmo | wAmoacq | wAmorel | wCas | wCasacq | wCasrel => exact keeps_next canon_atomicW
  | wMark | wFence => exact keeps_next canon_fenceW
  | wDiscard a b => exact keeps_execWDiscard (a := a) (b := b)
  | wGo | wStamp => exact keeps_next canon_commandW
  | wApw => exact keeps_next fun h => canon_engineStore (fun _ ht => ht) h
  | wMailw => exact keeps_next fun h => canon_ite (canon_wTrap h) (canon_plainEntry h)
  | wArrive _ a => exact keeps_execWArrive (a := a)
  | wTkset => exact keeps_next canon_plainEntry
  | wWb | wInv => exact keeps_next canon_lineOp
  | wRingDb | wRingWk => exact keeps_next canon_ringW
  | wFlushw => exact keeps_execWFlushw
  | fLease | fLeasew => exact keeps_next canon_requestLease
  | fFree => exact keeps_next fun h => canon_ite (canon_modMyArray h) h
  | fGuard | fFmt | fCsum | fAccsel => exact keeps_next fun h => canon_idleOp h (fun _ ht => canon_modMyArray ht)
  | fOuter | fTaps => exact keeps_next canon_denseStep
  | fWide => exact keeps_execFWide
  | fSouter | fStaps => exact keeps_next canon_sparseStep
  | fDrain => exact keeps_execFDrain
  | fDrainz => exact keeps_next fun h => canon_arrayOp h (fun _ ht => canon_countDrain (canon_modMyArray ht))
  | fFset | fFadd | fFstr | fFwrap => exact keeps_next canon_modFeed
  | fStage => exact keeps_execFStage
  | fRoute | fMcast | fClr => exact keeps_next fun h => canon_arrayOp h (fun _ ht => canon_modMyArray ht)
  | fCscnt => exact keeps_execFCscnt
  | fInject => exact keeps_execFInject
  | fFence => exact keeps_next fun h => canon_arrayOp h (fun _ ht => canon_ite (canon_modPipe ht) ht)
  | kLd | kLdh => exact keeps_next canon_scaleLoad
  | kLdi => exact keeps_next fun h => canon_ite (canon_incAfter (canon_scaleLoad h)) h
  | kSet | kMov | kRot | kClr => exact keeps_next canon_result
  | kLdmx => exact keeps_next fun h => canon_refresh (canon_result h)
  | kSt => exact keeps_next fun h => canon_alignedK h (fun _ ht => canon_landNow ht)
  | qbNop => exact keeps_execQbNop
  | qbLdc => exact keeps_execQbLdc
  | qbLdw => exact keeps_execQbLdw
  | qbStw => exact keeps_execQbStw
  | qbAdd => exact keeps_execQbAdd
  | qbSub => exact keeps_execQbSub
  | qbAnd => exact keeps_execQbAnd
  | qbOr => exact keeps_execQbOr
  | qbXor => exact keeps_execQbXor
  | qbShl => exact keeps_execQbShl
  | qbShr => exact keeps_execQbShr
  | qbCmp => exact keeps_execQbCmp
  | qbSkip => exact keeps_execQbSkip
  | qbLoop => exact keeps_execQbLoop
  | qbEndl => exact keeps_execQbEndl
  | qbLaunch => exact keeps_execQbLaunch
  | qbChain => exact keeps_execQbChain
  | qbCopy => exact keeps_execQbCopy
  | qbArrive => exact keeps_execQbArrive
  | qbWaitb => exact keeps_execQbWaitb
  | qbWaitbWake => exact keeps_execQbWaitbWake
  | qbSignal => exact keeps_execQbSignal
  | qbArm => exact keeps_execQbArm
  | qbCond => exact keeps_execQbCond
  | qbIrq => exact keeps_execQbIrq
  | qbDline => exact keeps_execQbDline
  | qbBand => exact keeps_execQbBand
  | qbFence => exact keeps_execQbFence
  | qbRdclk => exact keeps_execQbRdclk
  | qbDone => exact keeps_execQbDone
  | qbFail => exact keeps_execQbFail
  | bundleDispatch => exact keeps_next fun h => canon_ite (canon_atCore (fun _ ht => canon_dispatchBundle ht) h) h
  | pageEntry => exact keeps_next fun h => canon_ite (canon_atCore (fun _ ht => canon_enterPage ht) h) h
  | resultLanding => exact keeps_next canon_landResults
  | foldStepLanding => exact keeps_next canon_foldLand
  | drainAccumulate => exact keeps_next wf_drainLand
  | loadReply => exact keeps_next canon_loadReply
  | storePerformed => exact keeps_next canon_storePerformed
  | atomicExecute => exact keeps_next canon_atomicExecute
  | mailWrite => exact keeps_next fun h => canon_foldl (fun _ _ ht => canon_ite (canon_mailPut ht) ht) h
  | waitMonitorWrite => exact keeps_next canon_testWaits
  | hostSnoop => exact keeps_next fun h => canon_ite (canon_testWaits h) h
  | waitPollTick => exact keeps_next canon_pollWait
  | waitTimeout => exact keeps_next canon_waitTimeout
  | mailTimeout => exact keeps_next canon_mailTimeout
  | tokenTimeout => exact keeps_next canon_tokenTimeout
  | barrierTimeout => exact keeps_next canon_barrierTimeout
  | wdogExpired => exact keeps_next fun h => canon_atCore (fun _ ht => canon_wdogTrap ht) h
  | translationWalk => exact keeps_execTranslationWalk
  | pageRequestTaken => exact keeps_next canon_modQuad
  | wake => exact keeps_next canon_wakeLine
  | parkLimitSuspend => exact keeps_next fun h => canon_ite (canon_restoreReady (canon_suspendTask h)) h
  | parkTimeout => exact keeps_execParkTimeout
  | xshootStart | xshootComplete => exact keeps_next fun h => canon_ite (canon_mk h) h
  | windowFillDone => exact keeps_next canon_fillDone
  | mbreplyContinue | mbreplyResume | mbreplyRestart => exact keeps_next canon_mbreply
  | mbreplyTerminate => exact keeps_next canon_replyTerminate
  | mbreplyHalt => exact keeps_next canon_replyHalt
  | ctxCreate => exact keeps_next fun h => canon_ite (canon_ctxDone (canon_ite (canon_createCtx h) h)) h
  | ctxDestroy => exact keeps_execCtxDestroy
  | ctxRelease => exact keeps_execCtxRelease
  | contextScrubDone => exact keeps_execContextScrubDone
  | leaseGrant => exact keeps_next canon_leaseGrant
  | fctlClr => exact keeps_next canon_fctlClear
  | fctlSetg => exact keeps_next canon_fctlGuard
  | cmdAccept => exact keeps_execCmdAccept
  | cmdActivate => exact keeps_execCmdActivate
  | cmdDone => exact keeps_execCmdDone
  | cmdFail => exact keeps_execCmdFail
  | cabort => exact keeps_next canon_failChan
  | engineParkLimit => exact keeps_execEngineParkLimit
  | reschedJob => exact keeps_execReschedJob
  | qcmdDefine => exact keeps_next fun h => canon_ite (canon_qcmdDone (canon_ite (canon_defineQueue h) h)) h
  | qcmdDelete => exact keeps_execQcmdDelete
  | doorbellTail | doorbellWake => exact keeps_next canon_doorbell
  | queueMap => exact keeps_next fun h => canon_saveChanged (canon_mapQueue h)
  | queueAccept => exact keeps_next fun h => canon_saveChanged (canon_farRest (canon_acceptNext h))
  | queueRun => exact keeps_next fun h => canon_saveChanged (canon_queueRun h)
  | queueUnblock => exact keeps_next fun h => canon_ite (canon_saveChanged (canon_modQueue h)) h
  | queueUnmap => exact keeps_next fun h => canon_saveChanged (canon_finishUnmap h)
  | irqcoalWrite => exact keeps_next canon_irqcoalWrite
  | irqTmaxExpiry => exact keeps_next fun h => canon_ite (canon_irqSend h) h
  | msixUnmask => exact keeps_execMsixUnmask
  | quadClaim => exact keeps_next canon_claimNext
  | reserveRetry => exact keeps_next canon_retryNode
  | nodeCommit => exact keeps_next fun h => canon_ite (canon_commitNode h) h
  | taskStart => exact keeps_next fun h => canon_ite (canon_atCore (fun _ ht => canon_readArgs ht) h) h
  | taskFinish => exact keeps_execTaskFinish
  | nodeFinish => exact keeps_next canon_nodeFinish
  | barrierArrival => exact keeps_execBarrierArrival
  | barrierCompletion => exact keeps_execBarrierCompletion
  | bcfgWrite => exact keeps_next fun h => canon_ite (canon_bcfgWrite h) h
  | arrivePortWrite => exact keeps_next canon_portWrite
  | lctlEnable => exact keeps_next fun h => canon_ite (canon_linkEnable h) h
  | lctlDisable => exact keeps_next fun h => canon_ite (canon_linkDisable h) h
  | lctlIsolate => exact keeps_next fun h => canon_ite (canon_linkIsolate h) h
  | lctlUnisolate => exact keeps_next fun h => canon_ite (canon_linkUnisolate h) h
  | linkTrainingDone => exact keeps_next fun h => canon_ite (canon_reroute (canon_pump (canon_modLink h))) h
  | linkTrainingTimeout | linkRetrainTimeout => exact keeps_next fun h => canon_ite (canon_stopPort h) h
  | linkRetrain => exact keeps_next fun h => canon_ite (canon_retrain h) h
  | linkRetrainDone => exact keeps_execLinkRetrainDone
  | flitReceive => exact keeps_next fun h => canon_ite (canon_flitReceive h) h
  | replayRequest => exact keeps_next fun h => canon_ite (canon_replayFrom h) h
  | podwinWrite => exact keeps_next canon_podwinWrite
  | podcfgWrite => exact keeps_next canon_podcfgWrite
  | uncorrectableError => exact keeps_execUncorrectableError
  | hbmParityAlert => exact keeps_execHbmParityAlert
  | hbmRepair => exact keeps_next fun h => canon_ite h (canon_ite (canon_mk h) (canon_retireFrame h))
  | tableVoteFail => exact keeps_next fun h => canon_ite h (canon_foldl (fun _ _ ht => canon_killCtx ht) (canon_mk h))
  | schedulerRestart => exact keeps_next canon_restartDisp
  | moduleReset => exact keeps_next wf_resetModule
  | getMeasurements | getCertificate => exact keeps_next fun h => canon_ite (canon_tell h) h
  | swallowUpdate => exact keeps_next canon_swallowUpdate
  | thermalEvent => exact keeps_next fun h => canon_ite (canon_tell (canon_modQuad h)) h
  | thermalClear => exact keeps_next fun h => canon_ite (canon_modQuad h) h
  | dbgHaltRequest => exact keeps_next canon_dbghaltWrite
  | dbgResume => exact keeps_next canon_dbgresumeWrite
  | dbgAccessRegister | dbgAccessMemory => exact keeps_next canon_dbgcmdWrite
  | traceArm | traceStop => exact keeps_next canon_trcctlWrite
  | traceSample => exact keeps_next canon_traceSample
  | monClear => exact keeps_next canon_moncfgWrite
  | hostAccess => exact keeps_next canon_hostAccess
  | registerWrite => exact keeps_next fun h => canon_ite (canon_devWrite h) h
  | laneSwapDone => exact keeps_next canon_mk
  | schedulerRestartDone => exact keeps_execSchedulerRestartDone
  | traceCycleReached => exact keeps_next canon_cycleSource
  | monitorCycleSample => exact keeps_next canon_monitorSample

theorem canon_run {i : Instr} {s : State} (h : Canon s) : Canon (run i s) := by
  unfold run
  obtain ⟨t, he, hk⟩ := keeps_exec i s
  rw [he]
  exact hk h

/-! ### Issue -/

theorem canon_enterW {b : Bundle} {i : Instr} {s : State} (h : Canon s) : Canon (enterW b i s) := by
  dsimp only [enterW]
  split
  · exact h
  · exact canon_ite (canon_postInc (canon_modPipe h)) (canon_modPipe h)
  · exact canon_ite (canon_postInc (canon_modPipe h)) (canon_modPipe h)
  · exact canon_modPipe h

theorem canon_incOf {i : Instr} {s : State} (h : Canon s) : Canon (incOf i s) := by
  dsimp only [incOf]
  split
  · exact canon_postInc h
  · exact canon_postInc h
  · exact canon_postInc h
  · exact canon_postInc h
  · exact h

theorem canon_emulFixed {i : Instr} {s : State} (h : Canon s) : Canon (emulFixed i s) := by
  dsimp only [emulFixed]
  split
  · exact canon_withEntry h (fun _ ht => canon_incOf (canon_reserveFixed ht))
  · exact canon_incOf h

theorem canon_issueAt {s0 : State} {b : Bundle} {p : Pos} {s : State} (h : Canon s) : Canon (issueAt s0 b p s) := by
  dsimp only [issueAt]
  refine canon_ite h ?_
  split
  · exact h
  · refine canon_ite (canon_enterW h) ?_
    exact canon_ite h (canon_ite (canon_fixedTrap h) (canon_ite (canon_emulFixed h) (canon_run h)))

theorem canon_align {s : State} (h : Canon s) : Canon (align s) :=
  canon_ite (canon_modMe (canon_modPipe h)) (canon_modPipe h)

theorem canon_retake {s0 s : State} (h0 : Canon s0) : Canon (retake s0 s) := canon_mk h0

theorem canon_holdBundle {s0 s : State} (h0 : Canon s0) : Canon (holdBundle s0 s) := canon_mk h0

theorem canon_countHold {s : State} (h : Canon s) : Canon (countHold s) := canon_modRegs h

theorem canon_countBundle {n : ℕ} {o g : Bool} {s : State} (h : Canon s) : Canon (countBundle n o g s) :=
  canon_ite (canon_modPipeOf h) (canon_modCore (canon_modPipeOf h))

theorem canon_emptyBundle {n : ℕ} {o g : Bool} {s : State} (h : Canon s) : Canon (emptyBundle n o g s) :=
  canon_countBundle (canon_modCore (canon_modPipeOf h))

theorem canon_bundleDone {n : ℕ} {o g : Bool} {s : State} (h : Canon s) : Canon (bundleDone n o g s) :=
  canon_countBundle (canon_modCore (canon_modPipeOf h))

theorem canon_issueC {s0 t : State} {b : Bundle} {s : State} (h : Canon s) : Canon (issueC s0 t b s) :=
  canon_ite h (canon_ite (canon_modRegs h) (canon_ite (canon_modPipe h) (canon_issueAt h)))

theorem canon_issueSlots {s0 : State} {b : Bundle} {s : State} (h : Canon s) : Canon (issueSlots s0 b s) :=
  canon_foldl (fun _ _ ht => canon_issueAt ht) h

theorem canon_issueBundle {b : Bundle} {s0 : State} (h0 : Canon s0) : Canon (issueBundle b s0) := by
  unfold issueBundle
  extract_lets _ _ s1 _ t s2 s3
  have h1 : Canon s1 := canon_ite (canon_align h0) h0
  have ht : Canon t := canon_ite (canon_issueAt h1) h1
  have h2 : Canon s2 := canon_issueSlots (canon_ite ht h1)
  have h3 : Canon s3 := canon_issueC (canon_applyInc h2)
  split
  · exact canon_takeTrap (canon_ite (canon_modPipe h0) h0)
  · refine canon_ite (canon_retake h0) ?_
    refine canon_ite (canon_ite (canon_holdBundle h0) (canon_countHold (canon_holdBundle h0))) ?_
    refine canon_ite h2 ?_
    refine canon_ite (canon_retake h0) ?_
    refine canon_ite (canon_ite (canon_emptyBundle (canon_holdBundle h0)) (canon_holdBundle h0)) ?_
    refine canon_ite (canon_bundleDone h3) ?_
    exact canon_ite (canon_retake h0) (canon_ite (canon_holdBundle h0) (canon_bundleDone h3))

theorem canon_issueHead {s : State} (h : Canon s) : Canon (issueHead s) := by
  dsimp only [issueHead]
  split
  · exact h
  · exact canon_ite (canon_issueBundle h) h

theorem canon_wPass {s : State} (h : Canon s) : Canon (wPass s) := canon_modPipe h

theorem canon_issueWHead {k : WEntry} {s : State} (h : Canon s) : Canon (issueWHead k s) := by
  dsimp only [issueWHead]
  refine canon_ite (canon_wPop (canon_modRegs h)) ?_
  split
  · exact canon_run h
  · exact canon_wPop h

theorem canon_unlessStopped {s t : State} (h : Canon s) (ht : Canon t) : Canon (unlessStopped s t) := canon_ite h ht

theorem canon_leadW {s : State} (h : Canon s) : Canon (leadW s) := by
  dsimp only [leadW]
  split
  · refine canon_ite ?_ (canon_wPass h)
    split
    · exact canon_ite (canon_unlessStopped h (canon_run (canon_modPipe h))) h
    · exact h
  · exact canon_wPass h

theorem canon_issueW {s : State} (h : Canon s) : Canon (issueW s) := by
  dsimp only [issueW]
  refine canon_ite ?_ (canon_ite (canon_leadW h) h)
  split
  · exact canon_ite (canon_issueWHead h) (canon_wPass h)
  · exact canon_wPass h

theorem canon_fPass {s : State} (h : Canon s) : Canon (fPass s) := canon_modPipe h

theorem canon_issueFHead {k : FEntry} {s : State} (h : Canon s) : Canon (issueFHead k s) := by
  dsimp only [issueFHead]
  split
  · exact canon_ite (canon_modPipeOf (canon_run h)) (canon_fPass (canon_modPipe (canon_run h)))
  · exact canon_fPass (canon_modPipe h)

theorem canon_issueF {s : State} (h : Canon s) : Canon (issueF s) := by
  dsimp only [issueF]
  refine canon_ite ?_ h
  split
  · exact canon_ite (canon_ite (canon_issueFHead h) (canon_unlessStopped h (canon_issueFHead h))) (canon_fPass h)
  · exact canon_fPass h

theorem canon_afterTurn {s : State} (h : Canon s) : Canon (afterTurn s) := by
  dsimp only [afterTurn]
  split
  · exact h
  · refine canon_ite ?_ h
    split
    · exact canon_ite h (canon_modPipeOf (canon_run h))
    · exact h

/-! ### Cycle -/

theorem canon_settleCycle {s : State} (h : Canon s) : Canon (settleCycle s) :=
  canon_ite (canon_modPipe h) (canon_modArray (canon_modPipe h))

theorem canon_limits {s : State} (h : Canon s) : Canon (limits s) := by
  unfold limits
  extract_lets _ _ s1 s2 s3
  have h1 : Canon s1 := canon_mailTimeout h
  have h2 : Canon s2 := canon_ite (canon_tokenTimeout h1) h1
  have h3 : Canon s3 := canon_ite (canon_barrierTimeout h2) h2
  exact canon_ite (canon_wdogTrap h3) h3

theorem canon_takeStop {s : State} (h : Canon s) : Canon (takeStop s) := by
  dsimp only [takeStop]
  split
  · exact h
  · exact canon_ite (canon_ite (canon_takeFetch (canon_modPipe h)) (canon_takeTrap (canon_modPipe h))) h

theorem canon_feed {s : State} (h : Canon s) : Canon (feed s) := by
  unfold feed
  refine canon_ite
    (canon_ite
      (canon_dispatchBundle (canon_enterPage (canon_dispatchBundle (canon_enterPage h))))
      (canon_dispatchBundle (canon_enterPage h))) ?_
  exact canon_enterPage h

theorem canon_fixedTurn {s : State} (h : Canon s) : Canon (fixedTurn s) := by
  unfold fixedTurn
  refine canon_ite h ?_
  refine canon_ite (canon_settleCycle h) ?_
  exact canon_ite h (canon_ite (canon_ite (canon_countBundle (canon_modPipe h)) h) (canon_issueHead h))

theorem canon_notePark {s0 s : State} (h : Canon s) : Canon (notePark s0 s) :=
  canon_ite (canon_modRegs h) (canon_endPark h)

theorem canon_freshWalks {s0 s : State} (h : Canon s) : Canon (freshWalks s0 s) := canon_ite h (canon_modMe h)

theorem canon_coreTurn {wl fl : Bool} {s : State} (h : Canon s) : Canon (coreTurn wl fl s) := by
  unfold coreTurn
  refine canon_ite h ?_
  extract_lets s0 sB s1 s2 s3 s4 _ s5 sF s6 s7 s8
  have h0 : Canon s0 := canon_walkAgain (canon_modPipe h)
  have hB : Canon sB := canon_badTrap h0
  have h1 : Canon s1 := canon_ite (canon_feed hB) hB
  have h2 : Canon s2 := canon_ite (canon_takeStop h1) h1
  have h3 : Canon s3 := canon_ite (canon_limits h2) h2
  have h4 : Canon s4 := canon_ite (canon_fixedTurn h3) h3
  have h5 : Canon s5 := canon_ite (canon_issueW h4) h4
  have hF : Canon sF := canon_ite (canon_issueF h5) h5
  have h6 : Canon s6 := canon_ite (canon_holdBundle h3) hF
  have h7 : Canon s7 := canon_ite (canon_afterTurn h6) h6
  have h8 : Canon s8 := canon_freshWalks (canon_modPipe h7)
  exact canon_ite (canon_notePark h8) h8

theorem canon_refillTurn {s : State} (h : Canon s) : Canon (refillTurn s) := canon_ite (canon_modPipe h) h

theorem canon_coreEnd {n : ℕ} {s : State} (h : Canon s) : Canon (coreEnd n s) := by
  unfold coreEnd
  refine canon_ite h ?_
  extract_lets s1 s2 s3 s4 s5
  have h1 : Canon s1 := canon_landHits (canon_landHits h)
  have h2 : Canon s2 := canon_deliverEntries (canon_deliverEntries h1)
  have h3 : Canon s3 := canon_landResults (canon_landMail h2)
  have h4 : Canon s4 := canon_landWrites h3
  have h5 : Canon s5 := canon_ite
    (canon_atCore (fun _ ht => canon_refillTurn ht) h4)
    (canon_ite (canon_atCore (fun _ ht => canon_leaveTurn ht) h4) h4)
  exact canon_ite (canon_haltCore h5) h5

theorem canon_quadEnd {q : ℕ} {s : State} (h : Canon s) : Canon (quadEnd q s) := by
  unfold quadEnd
  extract_lets _ s1 s2 s3
  have h1 : Canon s1 := canon_leaseGrant (wf_drainLand (canon_foldLand h))
  have h2 : Canon s2 := canon_foldl (fun _ _ ht => canon_traceSample ht) (canon_monitorSample h1)
  have h3 : Canon s3 := canon_ite (canon_cycleSource (canon_cycleSource h2)) h2
  exact canon_traceCommit (canon_modQuad h3)

theorem canon_pulse {q : ℕ} {slip : BitVec 8} {s : State} (h : Canon s) : Canon (pulse q slip s) :=
  canon_quadEnd <| canon_foldl
    (fun _ _ ht => canon_coreEnd ht)
    (canon_foldl (fun _ _ ht => canon_atCore (fun _ ht1 => canon_coreTurn ht1) ht) h)

/-! ### Service -/

theorem canon_giveChannel {c t : ℕ} {s : State} (h : Canon s) : Canon (giveChannel c t s) := canon_modChan h

/-! ### The services of a turn -/

/-- Each service of l keeps memory canonical, from every state. -/
def AllKeep (l : List Serve) : Prop := ∀ f ∈ l, ∀ s, Keeps s (f s)

theorem allKeep_nil : AllKeep [] := List.forall_mem_nil _

theorem allKeep_cons {f : Serve} {l : List Serve} (hf : ∀ s, Keeps s (f s)) (hl : AllKeep l) : AllKeep (f :: l) :=
  List.forall_mem_cons.2 ⟨hf, hl⟩

theorem allKeep_append {l m : List Serve} (hl : AllKeep l) (hm : AllKeep m) : AllKeep (l ++ m) :=
  List.forall_mem_append.2 ⟨hl, hm⟩

theorem allKeep_map {α : Type} {g : α → Serve} {l : List α} (h : ∀ x s, Keeps s (g x s)) : AllKeep (l.map g) :=
  List.forall_mem_map.2 fun x _ => h x

theorem allKeep_flatten {α : Type} {g : α → List Serve} {l : List α} (h : ∀ x, AllKeep (g x)) :
    AllKeep (l.map g).flatten := by
  intro f hf
  obtain ⟨_, hm, hfm⟩ := List.mem_flatten.1 hf
  obtain ⟨x, -, rfl⟩ := List.mem_map.1 hm
  exact h x f hfm

theorem allKeep_serveCore (s : State) (n : Nat) : AllKeep (serveCore s n) := by
  unfold serveCore
  extract_lets c i loads stores
  repeat' with_reducible refine allKeep_append ?_ ?_
  · exact allKeep_cons (keeps_exec (.taskStart i)) <| allKeep_cons (keeps_exec (.translationWalk (.fetch i))) <|
      allKeep_cons (keeps_exec (.translationWalk (.slotL i))) <|
      allKeep_cons (keeps_exec (.translationWalk (.slotW i))) allKeep_nil
  · exact allKeep_map fun k => keeps_exec (.waitPollTick i k)
  · exact allKeep_map fun k => keeps_exec (.waitTimeout i k)
  · exact allKeep_map fun k => keeps_exec (.loadReply i k everyUnit)
  · exact allKeep_map fun k => keeps_exec (.atomicExecute i k)
  · exact allKeep_map fun k => keeps_exec (.cmdAccept (.core i k))
  · exact allKeep_map fun k => keeps_exec (.storePerformed i k everyUnit)
  · exact allKeep_flatten fun w => allKeep_map fun g => keeps_exec (.windowFillDone i (BitVec.ofNat 3 w) (BitVec.ofNat 9 g))
  · exact allKeep_cons (keeps_exec (.parkTimeout i)) <| allKeep_cons (keeps_exec (.parkLimitSuspend i)) <|
      allKeep_cons (keeps_exec (.taskFinish i)) allKeep_nil

theorem allKeep_serveChan (c : Nat) : AllKeep (serveChan c) :=
  allKeep_cons (keeps_exec (.translationWalk (.engine _ _))) <| allKeep_cons (keeps_exec (.cmdActivate _)) <|
    allKeep_cons (keeps_exec (.cmdDone _)) <| allKeep_cons (keeps_exec (.cmdFail _)) <|
    allKeep_cons (keeps_exec (.engineParkLimit _)) allKeep_nil

theorem allKeep_serveQueue (q : Nat) : AllKeep (serveQueue q) :=
  allKeep_cons (keeps_exec (.queueMap _)) <| allKeep_cons (keeps_exec (.queueAccept _)) <|
    allKeep_cons (keeps_exec (.queueUnblock _)) <| allKeep_cons (keeps_exec (.queueUnmap _)) allKeep_nil

theorem allKeep_serveDie (d : Nat) : AllKeep (serveDie d) :=
  allKeep_cons (keeps_exec (.translationWalk (.disp _))) <| allKeep_cons (keeps_exec (.queueRun _)) <|
    allKeep_cons (keeps_exec (.cmdAccept (.disp _))) <| allKeep_cons (keeps_exec (.reschedJob _)) allKeep_nil

theorem allKeep_serveNode (h : Nat) : AllKeep (serveNode h) :=
  allKeep_cons (keeps_exec (.quadClaim _)) <| allKeep_cons (keeps_exec (.reserveRetry _)) <|
    allKeep_cons (keeps_exec (.nodeCommit _)) <| allKeep_cons (keeps_exec (.nodeFinish _)) allKeep_nil

theorem allKeep_serveCommands : AllKeep serveCommands :=
  allKeep_cons (keeps_exec .ctxCreate) <| allKeep_cons (keeps_exec .ctxDestroy) <|
    allKeep_cons (keeps_exec .ctxRelease) <| allKeep_cons (keeps_exec .xshootStart) <|
    allKeep_cons (keeps_exec .xshootComplete) <| allKeep_cons (keeps_exec .qcmdDefine) <|
    allKeep_cons (keeps_exec .qcmdDelete) allKeep_nil

theorem allKeep_serveWakes (s : State) : AllKeep (serveWakes s) := allKeep_map fun _ => keeps_exec (.wake _)

theorem allKeep_services (s : State) : AllKeep (services s) := by
  unfold services
  repeat' with_reducible refine allKeep_append ?_ ?_
  · exact allKeep_serveCommands
  · exact allKeep_serveWakes s
  · exact allKeep_flatten fun e => allKeep_serveQueue e.1
  · exact allKeep_flatten fun e => allKeep_serveDie e.1
  · exact allKeep_flatten fun e => allKeep_serveNode e.1
  · exact allKeep_flatten fun e => allKeep_serveCore s e.1
  · exact allKeep_flatten fun e => allKeep_serveChan e.1
  · exact allKeep_map fun e => keeps_exec (.contextScrubDone (BitVec.ofNat 12 e.1))
  · exact allKeep_map fun e => keeps_exec (.irqTmaxExpiry (BitVec.ofNat 11 e.1))
  · exact allKeep_map fun _ => keeps_exec (.barrierArrival 0)
  · exact allKeep_map fun _ => keeps_exec (.barrierCompletion 0)

theorem canon_serve {f : Serve} {s : State} (k : ∀ s, Keeps s (f s)) (h : Canon s) : Canon (serve s f) := by
  obtain ⟨t, he, ht⟩ := k s
  unfold serve
  rw [he]
  exact canon_sweep (ht h)

theorem canon_serveAll {l : List Serve} {s : State} (k : AllKeep l) (h : Canon s) : Canon (serveAll l s) := by
  induction l generalizing s with
  | nil => exact h
  | cons f l ih =>
    obtain ⟨hf, hl⟩ := List.forall_mem_cons.1 k
    exact ih hl (canon_serve hf h)

theorem canon_now {s : State} {n : Nat} (h : Canon s) : Canon { s with now := n } := h

theorem canon_turn {s : State} (h : Canon s) : Canon (turn s) := by
  unfold turn
  refine canon_ite (canon_serve (keeps_exec .moduleReset) h) ?_
  extract_lets s1 s2
  have h1 : Canon s1 := canon_serveAll (allKeep_services s) h
  have h2 : Canon s2 := canon_foldl (fun _ _ ht => canon_sweep (canon_pulse ht)) h1
  exact canon_now h2

/-! ### The steps -/

theorem keeps_settleDoom {s : State} {x : Outcome State Fault Refusal} (k : Keeps s x) : Keeps s (settleDoom x) := by
  obtain ⟨t, rfl, ht⟩ := k
  exact keeps_next fun h => canon_sweep (ht h)

theorem keeps_act (a : Act) (s : State) : Keeps s (act a s) := by
  cases a with
  | occur i => exact keeps_settleDoom (keeps_exec i s)
  | pulse => exact keeps_next fun h => canon_sweep (canon_pulse h)
  | time => exact keeps_next canon_mk
  | swallow => exact keeps_next canon_swallowPulse
  | limit => exact keeps_next canon_setLimit
  | chanTag => exact keeps_next canon_giveChannel
  | coachWrite => exact keeps_next fun h => canon_sweep (canon_coachWrite h)
  | coachRead => exact keeps_next canon_coachRead
  | frameDone => exact keeps_next canon_frameDone
  | evict => exact keeps_next canon_evictLine
  | config => exact keeps_next canon_configAccess
  | mailbox => exact keeps_next canon_mailboxWrite
  | hostLink => exact keeps_next canon_setHostLink
  | ideKey => exact keeps_next canon_setIdeKey

theorem keeps_step (s : State) : Keeps s (step s) := by
  unfold step
  split
  · exact keeps_next canon_turn
  · exact keeps_act _ { s with agenda := _ }

theorem neverStops (s : State) : NeverStops s := by
  intro t _
  obtain ⟨u, hu, -⟩ := keeps_step t
  exact ⟨u, hu⟩

end Sys2Proof.Machine

namespace Sys2Proof

open Machine

/-- Settles O56: every step keeps the form (`keeps_step`), because every instruction and occurrence does (`keeps_exec`). -/
theorem memoryInvariant : Obligations.MemoryInvariant := by
  unfold Obligations.MemoryInvariant
  exact ⟨neverStops, fun s _ h e => canon_of_keeps (keeps_step s) h e, fun i s _ h e => canon_of_keeps (keeps_exec i s) h e⟩

end Sys2Proof
end

section
/-! PROOF. Memory reads back what was written (O53): reads and writes byte by byte, by recursion on their number of bytes, and
the canonical form as a normal form, by recursion on the two lists of cells. -/

namespace Sys2Proof.Machine

variable {m l : List Host.Cell} {a b n lo : Nat}

/-- R1: a read of n + k bytes is the read of n and, above them, that of k. -/
theorem Memory.read_add (m : List Host.Cell) (a n k : Nat) :
    Memory.read m a (n + k) = Memory.read m a n + 256 ^ n * Memory.read m (a + n) k := by
  induction n generalizing a with
  | zero => simp [Memory.read]
  | succ n ih =>
    rw [show n + 1 + k = n + k + 1 by omega]
    simp only [Memory.read, ih, show a + 1 + n = a + (n + 1) by omega]
    ring

theorem Memory.get_write_of_outside (v : Nat) (h : Memory.wf m = true) (hb : b < a ∨ a + n ≤ b) :
    Memory.get (Memory.write m a v n) b = Memory.get m b := by
  induction n generalizing m a v with
  | zero => rfl
  | succ n ih =>
    calc Memory.get (Memory.write m a v (n + 1)) b
        = Memory.get (Memory.put m a (BitVec.ofNat 8 v)) b := ih (v / 256) (wf_put h) (by omega)
      _ = Memory.get m b := by rw [get_put h, if_neg (by omega)]

/-- The byte at a is the lowest one of v: the later writes are above it. -/
theorem Memory.get_write_first (v : Nat) (h : Memory.wf m = true) :
    Memory.get (Memory.write m a v (n + 1)) a = BitVec.ofNat 8 v := by
  calc Memory.get (Memory.write m a v (n + 1)) a
      = Memory.get (Memory.put m a (BitVec.ofNat 8 v)) a := get_write_of_outside (v / 256) (wf_put h) (by omega)
    _ = BitVec.ofNat 8 v := by rw [get_put h, if_pos rfl]

theorem Memory.read_write (v : Nat) (h : Memory.wf m = true) :
    Memory.read (Memory.write m a v n) a n = v % 256 ^ n := by
  induction n generalizing m a v with
  | zero => simp [Memory.read, Nat.mod_one]
  | succ n ih =>
    have rest : Memory.read (Memory.write m a v (n + 1)) (a + 1) n = v / 256 % 256 ^ n := ih (v / 256) (wf_put h)
    calc Memory.read (Memory.write m a v (n + 1)) a (n + 1)
        = v % 256 + 256 * (v / 256 % 256 ^ n) := by
          rw [Memory.read, rest, get_write_first v h, BitVec.toNat_ofNat]
      _ = v % 256 ^ (n + 1) := by rw [pow_succ', Nat.mod_mul]

/-! ### Two canonical memories that read alike -/

theorem Memory.above_cons {e : Host.Cell} :
    Memory.above lo (e :: m) = true ↔ lo ≤ e.1 ∧ e.2 ≠ 0 ∧ Memory.above (e.1 + 1) m = true := by
  simp [Memory.above, and_assoc]

theorem Memory.get_cons_same (e : Host.Cell) (m : List Host.Cell) : Memory.get (e :: m) e.1 = e.2 := if_pos rfl

theorem Memory.get_cons_of_ne {e : Host.Cell} (h : e.1 ≠ a) : Memory.get (e :: m) a = Memory.get m a := if_neg h

/-- The first key of a canonical memory that reads like another is not below the first key of that one. -/
theorem Memory.first_le {e f : Host.Cell} (he : e.2 ≠ 0) (hl : Memory.above lo (f :: l) = true)
    (h : Memory.get (e :: m) e.1 = Memory.get (f :: l) e.1) : f.1 ≤ e.1 := by
  by_contra hlt
  obtain ⟨-, hf, hr⟩ := above_cons.1 hl
  have zero : Memory.get (f :: l) e.1 = 0 := get_below (above_cons.2 ⟨le_refl f.1, hf, hr⟩) (by omega)
  exact he (by rw [← get_cons_same e m, h, zero])

theorem Memory.eq_of_get_eq (hm : Memory.above lo m = true) (hl : Memory.above lo l = true)
    (h : ∀ a, Memory.get m a = Memory.get l a) : m = l := by
  induction m generalizing lo l with
  | nil =>
    cases l with
    | nil => rfl
    | cons f l =>
      obtain ⟨-, hf, -⟩ := above_cons.1 hl
      exact absurd ((get_cons_same f l).symm.trans (h f.1).symm) hf
  | cons e m ih =>
    obtain ⟨-, he, hm'⟩ := above_cons.1 hm
    cases l with
    | nil => exact absurd ((get_cons_same e m).symm.trans (h e.1)) he
    | cons f l =>
      obtain ⟨-, hf, hl'⟩ := above_cons.1 hl
      have key : e.1 = f.1 := le_antisymm (first_le hf hm (h f.1).symm) (first_le he hl (h e.1))
      have head : e = f := Prod.ext key (by rw [← get_cons_same e m, h, key, get_cons_same])
      have tail : m = l := by
        refine ih hm' (key ▸ hl') fun a => ?_
        by_cases ha : e.1 = a
        · rw [get_below hm' (by omega), get_below hl' (by omega)]
        · rw [← get_cons_of_ne ha, h, get_cons_of_ne (key ▸ ha)]
      rw [head, tail]

end Sys2Proof.Machine

namespace Sys2Proof

open Machine

/-- Settles O53. -/
theorem memoryReadsBack : Obligations.MemoryReadsBack := by
  unfold Obligations.MemoryReadsBack
  exact ⟨fun _ _ v _ h => Memory.read_write v h, fun _ _ v _ _ h hb => Memory.get_write_of_outside v h hb, Memory.read_add,
    fun _ _ hm hl h => Memory.eq_of_get_eq hm hl h⟩

end Sys2Proof
end

section
/-! PROOF. Where a result lands (O28). The first part says what a landing leaves alone: `Landed n s t` holds of every target but a
system register, the mapping of a window included. -/

namespace Sys2Proof.Machine

open Host (Outcome)

/-! ### What a landing at core n leaves alone -/

/-- From s to t nothing of memory, of a core but n, and of the results in flight at core n has changed. -/
def Landed (n : Nat) (s t : State) : Prop :=
  t.cur = s.cur ∧ t.mem = s.mem ∧ (∀ m, m ≠ n → t.core m = s.core m) ∧
  (t.core n).regs.task.flight = (s.core n).regs.task.flight ∧ (t.core n).regs.outr.flight = (s.core n).regs.outr.flight

/-- A change of a core that leaves its results in flight. -/
def KeepsFlights (f : Core → Core) : Prop :=
  ∀ c, (f c).regs.task.flight = c.regs.task.flight ∧ (f c).regs.outr.flight = c.regs.outr.flight

theorem landed_refl (n : Nat) (s : State) : Landed n s s := ⟨rfl, rfl, fun _ _ => rfl, rfl, rfl⟩

theorem landed_trans {n : Nat} {s t u : State} (h : Landed n s t) (k : Landed n t u) : Landed n s u := by
  obtain ⟨hc, hm, ho, ht, hr⟩ := h
  obtain ⟨kc, km, ko, kt, kr⟩ := k
  exact ⟨kc.trans hc, km.trans hm, fun m e => (ko m e).trans (ho m e), kt.trans ht, kr.trans hr⟩

theorem landed_ite {n : Nat} {c : Prop} [Decidable c] {s t u : State} (ht : Landed n s t) (hu : Landed n s u) :
    Landed n s (if c then t else u) := by
  split
  · exact ht
  · exact hu

theorem landed_foldl {α : Type} {n : Nat} {f : State → α → State} {l : List α} {s t : State}
    (g : ∀ t x, Landed n s t → Landed n s (f t x)) (h : Landed n s t) : Landed n s (l.foldl f t) := foldl_keeps g l h

/-- A state whose cores, memory and current core are those of s. -/
theorem landed_of_eq {n : Nat} {s t : State} (hc : t.cur = s.cur) (hm : t.mem = s.mem) (hs : t.cores = s.cores) :
    Landed n s t := by
  have core : ∀ m, t.core m = s.core m := fun m => by simp only [State.core, hs]
  exact ⟨hc, hm, fun m _ => core m, by rw [core], by rw [core]⟩

theorem landed_modCore {n : Nat} {s : State} {f : Core → Core} (hf : KeepsFlights f) : Landed n s (s.modCore n f) := by
  obtain ⟨ht, hr⟩ := hf (s.core n)
  exact ⟨rfl, rfl, fun m h => core_modCore_ne s f h, by rw [core_modCore_same, ht], by rw [core_modCore_same, hr]⟩

theorem landed_modQuad {n q : Nat} {s : State} {f : Quad → Quad} : Landed n s (s.modQuad q f) := landed_of_eq rfl rfl rfl

theorem landed_modDbg {n d : Nat} {s : State} {f : Dbg → Dbg} : Landed n s (s.modDbg d f) := landed_of_eq rfl rfl rfl

/-! ### Walks -/

theorem landed_traceSource {n d code : Nat} {ok : Trace → Word → Bool} {s : State} :
    Landed n s (traceSource s d code ok) := landed_ite landed_modDbg (landed_refl n s)

theorem landed_monRecord {n d src tag core v : Nat} {s : State} : Landed n s (monRecord s d src tag core v) :=
  landed_ite (landed_refl n s) (landed_trans landed_modDbg landed_traceSource)

theorem landed_dropLeaf {n tag va : Nat} {s : State} : Landed n s (dropLeaf n tag va s) :=
  landed_trans landed_modQuad (landed_modCore fun _ => ⟨rfl, rfl⟩)

theorem landed_enterLeaf {n : Nat} {fetch : Bool} {l : Leaf} {s : State} : Landed n s (enterLeaf n fetch l s) := by
  unfold enterLeaf
  extract_lets k s1 s2
  have h1 : Landed n s s1 := landed_modQuad
  have h2 : Landed n s1 s2 := landed_modCore fun c => by cases fetch <;> exact ⟨rfl, rfl⟩
  exact landed_trans (landed_trans h1 h2) (landed_of_eq rfl rfl rfl)

theorem landed_postPark {n q bits : Nat} {r : PageReq} {s : State} : Landed n s (postPark q bits r s) :=
  landed_ite (landed_refl n s) landed_modQuad

theorem landed_walkEnds {n tag va kind : Nat} {fetch : Bool} {cause : Option Nat} {out : WalkOut} {s : State} :
    Landed n s (walkEnds n tag fetch va kind cause out s).2 := by
  unfold walkEnds
  split
  · exact landed_of_eq rfl rfl rfl
  · refine landed_trans (t := enterTables (n / 4) tag out s) landed_modQuad ?_
    dsimp only
    split
    · exact landed_enterLeaf
    · split
      · exact landed_postPark
      · exact landed_refl n _
    · exact landed_refl n _

theorem landed_coreWalk {n va : Nat} {fetch : Bool} {s : State} : Landed n s (coreWalk n fetch va s).2 := by
  unfold coreWalk
  dsimp only
  rw [apply_ite Prod.snd]
  exact landed_ite landed_dropLeaf (landed_refl n s)

theorem landed_walkNow {n va kind : Nat} {cause : Option Nat} {s : State} : Landed n s (walkNow n va kind cause s).2 := by
  unfold walkNow
  extract_lets c tag
  split
  · exact landed_refl n s
  · exact landed_trans (landed_trans landed_monRecord landed_coreWalk) landed_walkEnds

theorem landed_walkNow_of_eq {n m va kind : Nat} {cause : Option Nat} {s t : State} {x : Option WalkRes} (hn : m = n)
    (e : walkNow m va kind cause s = (x, t)) : Landed n s t := by
  subst hn
  have h := landed_walkNow (n := m) (va := va) (kind := kind) (cause := cause) (s := s)
  rwa [e] at h

/-! ### The mapping of a window

The functions of a window act at the current core, which a landing makes core n. -/

section
variable {n : Nat} {s t : State}

theorem landed_modMe {f : Core → Core} (hn : s.cur.toNat = n) (hf : KeepsFlights f) : Landed n s (s.modMe f) := by
  subst hn
  exact landed_modCore hf

theorem landed_setWin {w : Nat} {x : Window} (hn : s.cur.toNat = n) : Landed n s (s.setWin w x) :=
  landed_modMe hn fun _ => ⟨rfl, rfl⟩

theorem landed_dropFill {w j : Nat} (hn : s.cur.toNat = n) : Landed n s (dropFill w j s) :=
  landed_modMe hn fun _ => ⟨rfl, rfl⟩

theorem landed_modPipe {f : Pipe → Pipe} (hn : s.cur.toNat = n) (hf : ∀ p, (f p).flight = p.flight) :
    Landed n s (s.modPipe f) := by
  refine landed_modMe hn fun c => ?_
  unfold Core.modPipe
  split
  · exact ⟨rfl, hf _⟩
  · exact ⟨hf _, rfl⟩

/-- A window takes a new content and the pipelines new requests. -/
theorem landed_setWin_modPipe {w : Nat} {x : Window} {f : Pipe → Pipe} (h : Landed n s t) (hn : s.cur.toNat = n)
    (hf : ∀ p, (f p).flight = p.flight) : Landed n s ((t.setWin w x).modPipe f) := by
  have ht : t.cur.toNat = n := by rw [h.1, hn]
  exact landed_trans (landed_trans h (landed_setWin ht)) (landed_modPipe ht hf)

theorem landed_fillUnits {va : Nat} (hn : s.cur.toNat = n) : Landed n s (fillUnits va s).2 := by
  unfold fillUnits
  split
  · exact landed_refl n s
  · split
    · exact landed_walkNow_of_eq hn ‹_›
    · exact landed_walkNow_of_eq hn ‹_›

theorem landed_startFill {w j bn : Nat} {addr : Word} (hn : s.cur.toNat = n) : Landed n s (startFill w j bn addr s) :=
  landed_setWin_modPipe (landed_fillUnits hn) hn fun _ => rfl

theorem landed_writeBack {w j bn : Nat} {addr : Word} (hn : s.cur.toNat = n) : Landed n s (writeBack w j bn addr s) := by
  have fails : ∀ {t x}, Landed n s t → Landed n s (t.setWin w x) := fun h =>
    landed_trans h (landed_setWin (by rw [h.1, hn]))
  unfold writeBack
  dsimp only
  split
  · exact landed_refl n s
  · split
    · exact landed_setWin hn
    · split
      · have h := landed_walkNow_of_eq hn ‹_›
        exact landed_ite (fails h) (landed_setWin_modPipe h hn fun _ => rfl)
      · exact landed_setWin_modPipe (landed_walkNow_of_eq hn ‹_›) hn fun _ => rfl
      · exact fails (landed_walkNow_of_eq hn ‹_›)

/-- Functions of the current core, one for each element of a list. -/
theorem landed_foldl_cur {α : Type} {f : State → α → State} {l : List α} (hn : s.cur.toNat = n)
    (g : ∀ t x, t.cur.toNat = n → Landed n t (f t x)) (h : Landed n s t) : Landed n s (l.foldl f t) :=
  landed_foldl (fun u x hu => landed_trans hu (g u x (by rw [hu.1, hn]))) h

theorem landed_mapWindow {w bn d : Nat} {addr : Word} (hn : s.cur.toNat = n) : Landed n s (mapWindow w bn addr d s) := by
  unfold mapWindow
  extract_lets old s1 s2 ng lz x s3
  have h1 : Landed n s s1 := landed_ite (landed_foldl_cur hn (fun _ _ => landed_writeBack) (landed_refl n s)) (landed_refl n s)
  have h2 : Landed n s s2 := landed_foldl_cur hn (fun _ _ => landed_dropFill) h1
  have h3 : Landed n s s3 := landed_trans h2 (landed_setWin (by rw [h2.1, hn]))
  exact landed_ite h3 (landed_foldl_cur hn (fun _ _ => landed_startFill) h3)

theorem landed_atCore {f : State → State} (hn : n < 2048) (g : ∀ t, t.cur.toNat = n → Landed n t (f t)) :
    Landed n s (atCore n f s) := by
  have cur : (BitVec.ofNat 11 n).toNat = n := by simpa using hn
  obtain ⟨-, hm, ho, ht, hr⟩ := g { s with cur := BitVec.ofNat 11 n } cur
  exact ⟨rfl, hm, ho, ht, hr⟩

end

end Sys2Proof.Machine
end

section
/-! PROOF. Fields put into numbers, bit by bit: what a scale result and a byte of mail leave of the old value. -/

namespace Sys2Proof.Machine

/-! ### Fields put into a number -/

theorem testBit_bitsN (x lo n b : Nat) : (bitsN x lo n).testBit b = (decide (b < n) && x.testBit (lo + b)) := by
  rw [bitsN, Nat.testBit_mod_two_pow, Nat.testBit_div_two_pow, Nat.add_comm]

/-- A number in three parts around a field: A above it, F in it, B below it; replacing F. -/
theorem replaceField_eq (x lo n v : Nat) :
    x - bitsN x lo n * 2 ^ lo + v % 2 ^ n * 2 ^ lo = 2 ^ lo * (2 ^ n * (x / 2 ^ lo / 2 ^ n) + v % 2 ^ n) + x % 2 ^ lo := by
  have parts : 2 ^ lo * (2 ^ n * (x / 2 ^ lo / 2 ^ n)) + bitsN x lo n * 2 ^ lo + x % 2 ^ lo = x := by
    calc 2 ^ lo * (2 ^ n * (x / 2 ^ lo / 2 ^ n)) + bitsN x lo n * 2 ^ lo + x % 2 ^ lo
        = 2 ^ lo * (2 ^ n * (x / 2 ^ lo / 2 ^ n) + x / 2 ^ lo % 2 ^ n) + x % 2 ^ lo := by rw [bitsN]; ring
      _ = x := by rw [Nat.div_add_mod, Nat.div_add_mod]
  rw [Nat.mul_add, Nat.mul_comm (v % 2 ^ n)]
  omega

/-- The field [lo + n - 1 : lo] replaced by v. -/
theorem testBit_replaceField (x lo n v b : Nat) :
    (x - bitsN x lo n * 2 ^ lo + v % 2 ^ n * 2 ^ lo).testBit b =
      if lo ≤ b ∧ b < lo + n then v.testBit (b - lo) else x.testBit b := by
  have pos : ∀ k : Nat, 0 < 2 ^ k := Nat.two_pow_pos
  rw [replaceField_eq, Nat.testBit_two_pow_mul_add _ (Nat.mod_lt x (pos lo)),
    Nat.testBit_two_pow_mul_add _ (Nat.mod_lt v (pos n))]
  by_cases below : b < lo
  · rw [if_pos below, if_neg (by omega), Nat.testBit_mod_two_pow, decide_eq_true below, Bool.true_and]
  · rw [if_neg below]
    by_cases inside : b < lo + n
    · rw [if_pos (by omega), if_pos ⟨by omega, inside⟩, Nat.testBit_mod_two_pow, decide_eq_true (by omega), Bool.true_and]
    · rw [if_neg (by omega), if_neg (by omega), Nat.testBit_div_two_pow, Nat.testBit_div_two_pow]
      congr 1
      omega

theorem getLsbD_putField (x v : Vec) (lo w : Nat) {b : Nat} (hb : b < 2048) :
    (putField x lo w v.toNat).getLsbD b = if lo ≤ b ∧ b < lo + w then v.getLsbD (b - lo) else x.getLsbD b := by
  rw [putField, BitVec.getLsbD_ofNat, decide_eq_true hb, Bool.true_and, field, testBit_replaceField, BitVec.testBit_toNat,
    BitVec.testBit_toNat]

/-! ### Scale words -/

/-- A mask of words whose low 26 bits are set, one for each element of a list. -/
theorem testBit_scaleMask {α : Type} (l : List α) (b : Nat) :
    (l.foldr (fun _ acc => 0x03FFFFFF + 2 ^ 32 * acc) 0).testBit b = decide (b < 32 * l.length ∧ b % 32 < 26) := by
  induction l generalizing b with
  | nil => simp
  | cons x l ih =>
    rw [List.foldr_cons, Nat.add_comm, Nat.testBit_two_pow_mul_add _ (by decide), ih,
      show 0x03FFFFFF = 2 ^ 26 - 1 by rfl, Nat.testBit_two_pow_sub_one, List.length_cons]
    split
    · exact decide_eq_decide.2 (by omega)
    · exact decide_eq_decide.2 (by omega)

/-- R2, R43: bits [31:26] of a scale word read as zero. -/
theorem getLsbD_scaleWords (x : Vec) {b : Nat} (hb : b < 2048) :
    (scaleWords x.toNat).getLsbD b = (decide (b % 32 < 26) && x.getLsbD b) := by
  have mask := testBit_scaleMask (List.range 64) b
  rw [List.length_range, decide_eq_decide.2 (and_iff_right (by omega))] at mask
  rw [scaleWords, natVec, BitVec.getLsbD_ofNat, decide_eq_true hb, Bool.true_and, Nat.land_eq, Nat.testBit_and, mask,
    BitVec.testBit_toNat, Bool.and_comm]

/-! ### Bytes of a word -/

theorem lane_wordVec (x : Word) (i : Nat) : lane 8 (wordVec x) i = field x (8 * i) 8 := by
  rw [lane, wordVec, field, field, BitVec.toNat_setWidth_of_le (by decide)]

theorem getLsbD_putByte (x : Word) (b : Byte) {i j : Nat} (hj : j < 64) :
    (putByte x i b).getLsbD j = if 8 * i ≤ j ∧ j < 8 * i + 8 then b.getLsbD (j - 8 * i) else x.getLsbD j := by
  have hb : b.toNat % 2 ^ 8 = b.toNat := Nat.mod_eq_of_lt b.isLt
  rw [putByte, ← hb, BitVec.getLsbD_ofNat, decide_eq_true hj, Bool.true_and, field, testBit_replaceField, BitVec.testBit_toNat,
    BitVec.testBit_toNat]

theorem field_putByte (x : Word) (b : Byte) {i j : Nat} (hj : j < 8) :
    field (putByte x i b) (8 * j) 8 = if j = i then b.toNat else field x (8 * j) 8 := by
  refine Nat.eq_of_testBit_eq fun k => ?_
  rw [field, testBit_bitsN, BitVec.testBit_toNat]
  by_cases hk : k < 8
  · rw [decide_eq_true hk, Bool.true_and, getLsbD_putByte x b (by omega)]
    split
    · rw [if_pos (by omega), BitVec.testBit_toNat]
      congr 1
      omega
    · rw [if_neg (by omega), field, testBit_bitsN, decide_eq_true hk, Bool.true_and, BitVec.testBit_toNat]
  · rw [decide_eq_false hk, Bool.false_and]
    split
    · rw [BitVec.testBit_toNat, BitVec.getLsbD_of_ge b k (by omega)]
    · rw [field, testBit_bitsN, decide_eq_false hk, Bool.false_and]

/-- The byte that a mail write takes from v. -/
theorem toNat_byteOf (v : Word) (i : Nat) : (BitVec.ofNat 8 (field v (8 * i) 8)).toNat = field v (8 * i) 8 := by
  rw [BitVec.toNat_ofNat, field, bitsN, Nat.mod_mod]

end Sys2Proof.Machine
end

section
/-! PROOF. Results and mail at the end of a cycle (O28). -/

namespace Sys2Proof.Machine

open Host (Outcome)

/-! ### Where a result lands, for each target -/

section
variable {n : Nat} {o : Bool} {f : Flight} {s : State}

theorem landOne_sreg {r : Nat} (h : f.tgt = .sreg r) :
    landOne n o f s = s.modPipeOf n o (fun p => { p with s := vset p.s r (vecWord f.val) }) := by simp only [landOne, h]

theorem landOne_vreg {r : Nat} (h : f.tgt = .vreg r) :
    landOne n o f s = s.modCore n (fun c => c.modRegs (fun x => { x with vec := { x.vec with v := vset x.vec.v r f.val } })) := by
  simp only [landOne, h]

theorem landOne_latch {r : Nat} (h : f.tgt = .latch r) : landOne n o f s = landLatch n o f.slot r f.val s := by
  simp only [landOne, h]

theorem landOne_mask {m : Nat} (h : f.tgt = .mask m) :
    landOne n o f s = s.modPipeOf n o (fun p => p.landMask f.slot m (f.val.setWidth 256)) := by simp only [landOne, h]

theorem landOne_sys {i : Nat} (h : f.tgt = .sys i) (hi : i ≠ 0x1F0) :
    landOne n o f s = sysWrite n i (vecWord f.val) s := by simp only [landOne, h, if_neg hi]

theorem landOne_mail {m : Nat} (h : f.tgt = .mail m) : landOne n o f s = mailSet n m (vecWord f.val) s := by
  simp only [landOne, h]

theorem landOne_scale {k lo w : Nat} (h : f.tgt = .scale k lo w) :
    landOne n o f s = s.modCore n (fun c => c.modRegs (fun x =>
      { x with scale := vset x.scale k (scaleWords (putField (vget x.scale k 0) lo w f.val.toNat).toNat) })) := by
  simp only [landOne, h]

theorem landOne_win {w bn : Nat} {addr : Word} (h : f.tgt = .win w bn addr) :
    landOne n o f s = atCore n (mapWindow w bn addr f.val.toNat) s := by simp only [landOne, h]

theorem keepsFlights_modPipeOf {g : Pipe → Pipe} (hg : ∀ p, (g p).flight = p.flight) :
    KeepsFlights (fun c => c.modPipeOf o g) := by
  intro c
  cases o with
  | false => exact ⟨hg _, rfl⟩
  | true => exact ⟨rfl, hg _⟩

theorem landLatch_S {r : Nat} {v : Vec} :
    landLatch n o .S r v s = s.modPipeOf n o (fun p => { p with latch := vset p.latch r (vecWord v) }) := rfl

theorem landed_landLatch {slot : Pos} {r : Nat} {v : Vec} : Landed n s (landLatch n o slot r v s) := by
  unfold landLatch
  split
  · exact landed_modCore fun _ => ⟨rfl, rfl⟩
  · exact landed_modCore fun _ => ⟨rfl, rfl⟩
  · exact landed_modCore (keepsFlights_modPipeOf fun _ => rfl)

/-- A result whose target is no system register leaves memory, the other cores and the other results alone. -/
theorem landed_landOne (hn : n < 2048) (h : ∀ i, f.tgt ≠ .sys i) : Landed n s (landOne n o f s) := by
  cases ht : f.tgt with
  | sreg r => rw [landOne_sreg ht]; exact landed_modCore (keepsFlights_modPipeOf fun _ => rfl)
  | vreg r => rw [landOne_vreg ht]; exact landed_modCore fun _ => ⟨rfl, rfl⟩
  | latch r => rw [landOne_latch ht]; exact landed_landLatch
  | mask m => rw [landOne_mask ht]; exact landed_modCore (keepsFlights_modPipeOf fun _ => rfl)
  | sys i => exact absurd ht (h i)
  | mail m => rw [landOne_mail ht]; exact landed_modCore fun _ => ⟨rfl, rfl⟩
  | scale k lo w => rw [landOne_scale ht]; exact landed_modCore fun _ => ⟨rfl, rfl⟩
  | win w bn addr => rw [landOne_win ht]; exact landed_atCore hn fun _ => landed_mapWindow

end

/-! ### The results of a pipeline -/

theorem modPipeOf_congr {s : State} {n : Nat} {o : Bool} {g k : Pipe → Pipe}
    (h : g ((s.core n).pipeOf o) = k ((s.core n).pipeOf o)) : s.modPipeOf n o g = s.modPipeOf n o k := by
  cases o with
  | false => exact congrArg (fun p => s.setCore n { s.core n with regs := { (s.core n).regs with task := p } }) h
  | true => exact congrArg (fun p => s.setCore n { s.core n with regs := { (s.core n).regs with outr := p } }) h

/-- Core n without the results that its task has in flight. -/
def withoutResults (n : Nat) (s : State) : State := s.modPipeOf n false (fun p => { p with flight := [] })

theorem landFlights_single {s : State} {n : Nat} {f : Flight} (hf : (s.core n).regs.task.flight = [f])
    (hd : f.due < (s.core n).regs.task.count) : landFlights n false s = landOne n false f (withoutResults n s) := by
  have past : (s.core n).regs.task.past f = true := decide_eq_true hd
  have left : s.modPipeOf n false (fun p => { p with flight := p.flight.filter (fun f => !p.past f) }) = withoutResults n s := by
    refine modPipeOf_congr ?_
    simp only [Core.pipeOf, Bool.false_eq_true, if_false, hf, List.filter_cons, past, Bool.not_true, List.filter_nil]
  rw [landFlights, left]
  simp [Core.pipeOf, hf, past]

/-- No count is over: the core is written back as it was. -/
theorem landFlights_none {s : State} {n : Nat} {o : Bool}
    (h : ∀ f ∈ ((s.core n).pipeOf o).flight, ((s.core n).pipeOf o).count ≤ f.due) :
    landFlights n o s = s.modCore n (fun c => c) := by
  have past : ∀ f ∈ ((s.core n).pipeOf o).flight, ((s.core n).pipeOf o).past f = false := fun f hf =>
    decide_eq_false (Nat.not_lt.2 (h f hf))
  have stay : s.modPipeOf n o (fun p => { p with flight := p.flight.filter (fun f => !p.past f) }) =
      s.modPipeOf n o (fun p => p) := by
    refine modPipeOf_congr ?_
    rw [List.filter_eq_self.2 fun f hf => by rw [past f hf, Bool.not_false]]
  have none : ((s.core n).pipeOf o).flight.filter ((s.core n).pipeOf o).past = [] :=
    List.filter_eq_nil_iff.2 fun f hf => by rw [past f hf]; exact Bool.false_ne_true
  rw [landFlights, stay, none]
  cases o <;> rfl

theorem core_modCore_id (s : State) (n k : Nat) : (s.modCore n (fun c => c)).core k = s.core k := by
  by_cases h : k = n
  · rw [h, core_modCore_same]
  · exact core_modCore_ne s _ h

/-- One result of the task lands, and none of the outrider's, which stay out of flight. -/
theorem landResults_single {s : State} {n : Nat} {f : Flight} (hf : (s.core n).regs.task.flight = [f])
    (hd : f.due < (s.core n).regs.task.count)
    (ho : ((landOne n false f (withoutResults n s)).core n).regs.outr.flight = []) :
    landResults n s = (landOne n false f (withoutResults n s)).modCore n (fun c => c) := by
  rw [landResults, landFlights_single hf hd]
  refine landFlights_none fun g hg => ?_
  rw [Core.pipeOf, if_pos rfl, ho] at hg
  exact absurd hg List.not_mem_nil

end Sys2Proof.Machine
end

section
/-! PROOF. The statement of O28, clause by clause. -/

namespace Sys2Proof.Machine

open Host (Outcome)

/-! ### System registers -/

/-- Core n is listed, so that writing it back changes nothing, and its outrider's pipelines are r. -/
def Listed (n : Nat) (r : Pipe) (s : State) : Prop := fset s.cores n (s.core n) = s.cores ∧ (s.core n).regs.outr = r

section
variable {n : Nat} {r : Pipe} {s : State}

theorem listed_ite {c : Prop} [Decidable c] {t : State} (hs : Listed n r s) (ht : Listed n r t) :
    Listed n r (if c then s else t) := by
  split
  · exact hs
  · exact ht

theorem listed_modCore {f : Core → Core} (h : (f (s.core n)).regs.outr = r) : Listed n r (s.modCore n f) :=
  ⟨by simp [State.core, State.modCore, State.setCore], by rw [core_modCore_same, h]⟩

theorem listed_modArray {q : Nat} {f : FoldArray → FoldArray} (h : Listed n r s) : Listed n r (s.modArray q f) := h

theorem listed_writeTrap {i : Nat} {v : Word} (h : Listed n r s) : Listed n r (writeTrap n i v s) := by
  unfold writeTrap
  extract_lets put
  have hput : ∀ f, Listed n r (put f) := fun f => listed_modCore h.2
  clear_value put
  exact listed_ite (hput _) <| listed_ite (hput _) <| listed_ite (hput _) <| listed_ite (hput _) <| listed_ite (hput _) <|
    listed_ite (hput _) <| listed_ite (hput _) <| listed_ite (listed_modCore h.2) h

theorem listed_fctlWrite {v : Word} (h : Listed n r s) : Listed n r (fctlWrite n v s) := by
  unfold fctlWrite
  extract_lets s1 s2
  have h1 : Listed n r s1 := listed_modCore h.2
  have h2 : Listed n r s2 := listed_ite (listed_ite (listed_modArray h1) h1) h1
  exact listed_ite (listed_ite (listed_modArray h2) h2) h2

theorem listed_sysWrite {i : Nat} {v : Word} (h : Listed n r s) : Listed n r (sysWrite n i v s) := by
  unfold sysWrite
  extract_lets regs watch
  have hregs : ∀ f, (f (s.core n).regs).outr = r → Listed n r (regs f) := fun f hf => listed_modCore hf
  have hwatch : ∀ f, Listed n r (watch f) := fun f => listed_modCore h.2
  clear_value regs watch
  exact listed_ite (hregs _ h.2) <| listed_ite (hregs _ h.2) <| listed_ite (hregs _ h.2) <|
    listed_ite (listed_writeTrap h) <| listed_ite (hregs _ h.2) <| listed_ite (hregs _ h.2) <| listed_ite (hregs _ h.2) <|
    listed_ite (listed_fctlWrite h) <| listed_ite (hregs _ h.2) <| listed_ite (listed_ite (hwatch _) (hwatch _)) <|
    listed_ite (hwatch _) h

theorem modCore_id_of_listed (h : Listed n r s) : s.modCore n (fun c => c) = s := by
  rw [State.modCore, State.setCore, h.1]

end

theorem resultLanding_sys {s : State} {n : CoreId} {f : Flight} {i : Nat} (ho : (regsOf s n).outr.flight = [])
    (hf : (taskOf s n).flight = [f]) (hd : f.due < (taskOf s n).count) (ht : f.tgt = .sys i) (hi : i ≠ 0x1F0) :
    exec (.resultLanding n) s = .next (sysWrite n.toNat i (vecWord f.val) (withoutResults n.toNat s)) := by
  have listed : Listed n.toNat (regsOf s n).outr (landOne n.toNat false f (withoutResults n.toNat s)) := by
    rw [landOne_sys ht hi]
    exact listed_sysWrite (listed_modCore rfl)
  have lands : landResults n.toNat s = landOne n.toNat false f (withoutResults n.toNat s) := by
    rw [landResults_single hf hd (by rw [listed.2, ho]), modCore_id_of_listed listed]
  show Outcome.next (landResults n.toNat s) = _
  rw [lands, landOne_sys ht hi]

/-! ### The other targets -/

section
variable {s : State} {n : CoreId} {f : Flight}

theorem core_withoutResults :
    (withoutResults n.toNat s).core n.toNat =
      { s.core n.toNat with regs := { regsOf s n with task := { taskOf s n with flight := [] } } } := core_modCore_same ..

theorem resultLanding_regs (ho : (regsOf s n).outr.flight = []) (hf : (taskOf s n).flight = [f])
    (hd : f.due < (taskOf s n).count) (hs : ∀ i, f.tgt ≠ .sys i) :
    let t := landResults n.toNat s
    let u := landOne n.toNat false f (withoutResults n.toNat s)
    t.core n.toNat = u.core n.toNat ∧ (taskOf t n).flight = [] ∧ MemorySame s t ∧ OthersSame s t n := by
  intro t u
  obtain ⟨-, hm, hoth, htask, hout⟩ : Landed n.toNat (withoutResults n.toNat s) u := landed_landOne n.isLt hs
  rw [core_withoutResults] at htask hout
  have ht : t = u.modCore n.toNat (fun c => c) := landResults_single hf hd (hout.trans ho)
  refine ⟨?_, ?_, fun a => ?_, fun m hne => ?_⟩
  · rw [ht, core_modCore_id]
  · rw [taskOf, ht, core_modCore_id, htask]
  · rw [ht, modCore_mem, hm]
    rfl
  · rw [ht, core_modCore_id, hoth m hne]
    exact core_modCore_ne s _ hne

end

theorem resultLanding_single {s : State} {n : CoreId} {f : Flight} (ho : (regsOf s n).outr.flight = [])
    (hf : (taskOf s n).flight = [f]) (hd : f.due < (taskOf s n).count) (hs : ∀ i, f.tgt ≠ .sys i) :
    Completes (.resultLanding n) s (fun t =>
      (taskOf t n).flight = [] ∧ MemorySame s t ∧ OthersSame s t n ∧
      (∀ r, f.tgt = .sreg r → (taskOf t n).s = vset (taskOf s n).s r (vecWord f.val) ∧ (regsOf t n).vec = (regsOf s n).vec) ∧
      (∀ r, f.tgt = .vreg r → (regsOf t n).vec = { (regsOf s n).vec with v := vset (regsOf s n).vec.v r f.val } ∧
        (taskOf t n).s = (taskOf s n).s) ∧
      (∀ r, f.tgt = .latch r → f.slot = .S → (taskOf t n).latch = vset (taskOf s n).latch r (vecWord f.val)) ∧
      (∀ r, f.tgt = .latch r → f.slot = .VA → (regsOf t n).vec.la = vset (regsOf s n).vec.la r f.val) ∧
      (∀ r, f.tgt = .latch r → f.slot = .VB → (regsOf t n).vec.lb = vset (regsOf s n).vec.lb r f.val) ∧
      (∀ m, f.tgt = .mask m → (taskOf t n).p = vset (taskOf s n).p m (BitVec.ofNat 256 f.val.toNat) ∧
        (f.slot, m, BitVec.ofNat 256 f.val.toNat) ∈ (taskOf t n).pOwn) ∧
      (∀ m, f.tgt = .mail m → (t.core n.toNat).mail = vset (s.core n.toNat).mail m ⟨vecWord f.val, true⟩) ∧
      (∀ k lo w, f.tgt = .scale k lo w → k < 8 → lo + w ≤ 2048 → ∀ b < 2048,
        (vget (regsOf t n).scale k 0).getLsbD b =
          (decide (b % 32 < 26) &&
            if lo ≤ b ∧ b < lo + w then f.val.getLsbD (b - lo) else (vget (regsOf s n).scale k 0).getLsbD b))) := by
  obtain ⟨hcore, hflight, hmem, hothers⟩ := resultLanding_regs ho hf hd hs
  refine ⟨_, rfl, hflight, hmem, hothers, ?_⟩
  rw [taskOf, regsOf, hcore]
  refine ⟨fun r ht => ?_, fun r ht => ?_, fun r ht hslot => ?_, fun r ht hslot => ?_, fun r ht hslot => ?_, fun m ht => ?_,
    fun m ht => ?_, fun k lo w ht hk _ b hb => ?_⟩
  · rw [landOne_sreg ht, State.modPipeOf, core_modCore_same, core_withoutResults]
    exact ⟨rfl, rfl⟩
  · rw [landOne_vreg ht, core_modCore_same, core_withoutResults]
    exact ⟨rfl, rfl⟩
  · rw [landOne_latch ht, hslot, landLatch_S, State.modPipeOf, core_modCore_same, core_withoutResults]
    rfl
  · rw [landOne_latch ht, hslot, landLatch, core_modCore_same, core_withoutResults]
    rfl
  · rw [landOne_latch ht, hslot, landLatch, core_modCore_same, core_withoutResults]
    rfl
  · rw [landOne_mask ht, State.modPipeOf, core_modCore_same, core_withoutResults, BitVec.ofNat_toNat]
    exact ⟨rfl, List.mem_append_right _ (List.mem_singleton_self _)⟩
  · rw [landOne_mail ht, mailSet, core_modCore_same, core_withoutResults]
  · rw [landOne_scale ht, core_modCore_same, core_withoutResults]
    simp only [Core.modRegs, vget_vset_same _ _ _ _ hk]
    rw [getLsbD_scaleWords _ hb, getLsbD_putField _ _ _ _ hb]

theorem resultLanding_none {s : State} {n : CoreId} (ht : ∀ f ∈ (taskOf s n).flight, (taskOf s n).count ≤ f.due)
    (ho : ∀ f ∈ (regsOf s n).outr.flight, (regsOf s n).outr.count ≤ f.due) :
    Completes (.resultLanding n) s (fun t => regsOf t n = regsOf s n ∧ MemorySame s t ∧ OthersSame s t n) := by
  have task : landFlights n.toNat false s = s.modCore n.toNat (fun c => c) := landFlights_none ht
  have out : landResults n.toNat s = (s.modCore n.toNat (fun c => c)).modCore n.toNat (fun c => c) := by
    rw [landResults, task]
    refine landFlights_none ?_
    rw [core_modCore_id]
    exact ho
  have core : ∀ k, (landResults n.toNat s).core k = s.core k := fun k => by rw [out, core_modCore_id, core_modCore_id]
  exact ⟨_, rfl, by rw [regsOf, core, regsOf], fun a => by rw [out]; rfl, fun k _ => core k⟩

/-! ### Mail -/

/-- One byte of a write of v reaches a mail record, if en names it. -/
def mailByteWrite (en : BitVec 8) (v : Word) (x : Mail) (i : Nat) : Mail :=
  if en.getLsbD i then ⟨putByte x.value i (BitVec.ofNat 8 (field v (8 * i) 8)), true⟩ else x

/-- From s to t, mail record m of core n has become x and nothing else of the cores and of memory has changed. -/
def MailBecomes (n m : Nat) (x : Mail) (s t : State) : Prop :=
  vget (t.core n).mail m ⟨0, false⟩ = x ∧
  (∀ k, k ≠ m → vget (t.core n).mail k ⟨0, false⟩ = vget (s.core n).mail k ⟨0, false⟩) ∧
  (t.core n).regs = (s.core n).regs ∧ t.mem = s.mem ∧ ∀ k, k ≠ n → t.core k = s.core k

theorem mailPut_record (s : State) (n : Nat) {m i : Nat} (hm : m < 4) (hi : i < 8) (b : Byte) :
    mailPut (64 * n + 16 * m + i) b s = s.modCore n (fun c =>
      { c with mail := vset c.mail m ⟨putByte (vget c.mail m ⟨0, false⟩).value i b, true⟩ }) := by
  have core : (64 * n + 16 * m + i) / 64 = n := by omega
  have record : (64 * n + 16 * m + i) % 64 / 16 = m := by omega
  have byte : (64 * n + 16 * m + i) % 16 = i := by omega
  rw [mailPut, core, record, byte, if_pos hi]

theorem mailBecomes_foldl {n m : Nat} {en : BitVec 8} {v : Word} {s t : State} {x : Mail} {l : List Nat} (hm : m < 4)
    (hl : ∀ i ∈ l, i < 8) (h : MailBecomes n m x s t) :
    MailBecomes n m (l.foldl (mailByteWrite en v) x) s (l.foldl (fun s i =>
      if en.getLsbD i then mailPut (64 * n + 16 * m + i) (BitVec.ofNat 8 (field v (8 * i) 8)) s else s) t) := by
  induction l generalizing t x with
  | nil => exact h
  | cons i l ih =>
    obtain ⟨hi, hl⟩ := List.forall_mem_cons.1 hl
    rw [List.foldl_cons, List.foldl_cons]
    refine ih hl ?_
    unfold mailByteWrite
    split
    · obtain ⟨hx, hk, hr, hmem, ho⟩ := h
      rw [mailPut_record t n hm hi]
      refine ⟨?_, fun k e => ?_, ?_, hmem, fun k e => ?_⟩
      · rw [core_modCore_same, vget_vset_same _ _ _ _ hm, hx]
      · rw [core_modCore_same, vget_vset_ne _ _ _ e, hk k e]
      · rw [core_modCore_same, hr]
      · rw [core_modCore_ne _ _ e, ho k e]
    · exact h

theorem lane_foldl_mailByteWrite {en : BitVec 8} {v : Word} {x : Mail} {l : List Nat} {i : Nat} (hi : i < 8) :
    lane 8 (wordVec (l.foldl (mailByteWrite en v) x).value) i =
      if i ∈ l ∧ en.getLsbD i = true then lane 8 (wordVec v) i else lane 8 (wordVec x.value) i := by
  induction l generalizing x with
  | nil => rw [if_neg (by simp), List.foldl_nil]
  | cons a l ih =>
    have one : lane 8 (wordVec (mailByteWrite en v x a).value) i =
        if i = a ∧ en.getLsbD i = true then lane 8 (wordVec v) i else lane 8 (wordVec x.value) i := by
      by_cases hen : en.getLsbD a = true
      · rw [mailByteWrite, if_pos hen, lane_wordVec, field_putByte _ _ hi]
        by_cases ha : i = a
        · subst ha
          rw [if_pos rfl, if_pos ⟨rfl, hen⟩, toNat_byteOf, lane_wordVec]
        · rw [if_neg ha, if_neg fun e => ha e.1, lane_wordVec]
      · rw [mailByteWrite, if_neg hen, if_neg (by rintro ⟨rfl, e⟩; exact hen e)]
    rw [List.foldl_cons, ih, one, ← ite_or]
    exact if_congr (by rw [List.mem_cons]; tauto) rfl rfl

theorem full_foldl_mailByteWrite {en : BitVec 8} {v : Word} {x : Mail} {l : List Nat} :
    (l.foldl (mailByteWrite en v) x).full = (x.full || l.any en.getLsbD) := by
  induction l generalizing x with
  | nil => simp
  | cons a l ih =>
    rw [List.foldl_cons, ih, List.any_cons]
    unfold mailByteWrite
    split
    · simp [*]
    · simp [*]

theorem any_getLsbD_range (en : BitVec 8) : (List.range 8).any en.getLsbD = decide (en ≠ 0) := by
  by_cases h : en = 0
  · subst h
    decide
  · rw [decide_eq_true h]
    by_contra none
    refine h (BitVec.eq_of_getLsbD_eq fun i hi => ?_)
    rw [List.any_eq_true] at none
    exact (Bool.eq_false_iff.2 fun e => none ⟨i, List.mem_range.2 hi, e⟩).trans (by simp)

theorem mailWrite_bytes (s : State) (n : CoreId) (m : BitVec 2) (en : BitVec 8) (v : Word) :
    let o := vget (s.core n.toNat).mail m.toNat ⟨0, false⟩
    Completes (.mailWrite n m en v) s (fun t =>
      let x := vget (t.core n.toNat).mail m.toNat ⟨0, false⟩
      (x.full = if en = 0 then o.full else true) ∧
      (∀ i < 8, lane 8 (wordVec x.value) i = if en.getLsbD i then lane 8 (wordVec v) i else lane 8 (wordVec o.value) i) ∧
      (∀ k < 4, k ≠ m.toNat → vget (t.core n.toNat).mail k ⟨0, false⟩ = vget (s.core n.toNat).mail k ⟨0, false⟩) ∧
      regsOf t n = regsOf s n ∧ MemorySame s t ∧ OthersSame s t n) := by
  intro o
  obtain ⟨hx, hk, hr, hmem, ho⟩ := mailBecomes_foldl (en := en) (v := v) (l := List.range 8) m.isLt (fun i => List.mem_range.1)
    (show MailBecomes n.toNat m.toNat o s s from ⟨rfl, fun _ _ => rfl, rfl, rfl, fun _ _ => rfl⟩)
  refine ⟨_, rfl, ?_⟩
  dsimp only
  rw [hx]
  refine ⟨?_, fun i hi => ?_, fun k _ => hk k, hr, fun a => by rw [hmem], ho⟩
  · rw [full_foldl_mailByteWrite, any_getLsbD_range]
    by_cases h : en = 0
    · rw [if_pos h, decide_eq_false (not_not.2 h), Bool.or_false]
    · rw [if_neg h, decide_eq_true h, Bool.or_true]
  · rw [lane_foldl_mailByteWrite hi]
    simp only [List.mem_range, hi, true_and]

theorem landMail_single {s : State} {n m : Nat} {v : Word} (h : (s.core n).olds = [(m, v)]) :
    let t := landMail n s
    (t.core n).mail = vset (s.core n).mail (m % 4) ⟨v, true⟩ ∧ (t.core n).olds = [] ∧ (t.core n).regs = (s.core n).regs ∧
    t.mem = s.mem ∧ ∀ k, k ≠ n → t.core k = s.core k := by
  intro t
  have ht : t = (mailSet n (m % 4) v s).modCore n (fun c => { c with olds := [] }) := by
    show landMail n s = _
    rw [landMail, h, List.foldl_cons, List.foldl_nil]
  have core : t.core n = { s.core n with mail := vset (s.core n).mail (m % 4) ⟨v, true⟩, olds := [] } := by
    rw [ht, core_modCore_same, mailSet, core_modCore_same]
  rw [core]
  refine ⟨rfl, rfl, rfl, by rw [ht]; rfl, fun k e => ?_⟩
  rw [ht, core_modCore_ne _ _ e, mailSet, core_modCore_ne _ _ e]

end Sys2Proof.Machine

namespace Sys2Proof

open Machine

/-- Settles O28: `resultLanding_single` for each target but a system register, `resultLanding_sys` for those, and the mail. -/
theorem resultsLand : Obligations.ResultsLand := by
  unfold Obligations.ResultsLand
  exact ⟨fun _ _ _ => resultLanding_single, fun _ _ _ _ => resultLanding_sys, fun _ _ => resultLanding_none, mailWrite_bytes,
    fun _ _ _ _ => landMail_single⟩

end Sys2Proof
end

section
/-! PROOF. A write of a whole word of a control register reaches that register as it stands. -/

namespace Sys2Proof.Machine

open Host (Outcome)

theorem getLsbD_foldl_putByte {en : BitVec 8} {v x : Word} {l : List Nat} {j : Nat} (hj : j < 64) :
    (l.foldl (fun x i => if en.getLsbD i then putByte x i (BitVec.ofNat 8 (field v (8 * i) 8)) else x) x).getLsbD j =
      if j / 8 ∈ l ∧ en.getLsbD (j / 8) = true then v.getLsbD j else x.getLsbD j := by
  induction l generalizing x with
  | nil => simp
  | cons a l ih =>
    have one : (if en.getLsbD a then putByte x a (BitVec.ofNat 8 (field v (8 * a) 8)) else x).getLsbD j =
        if j / 8 = a ∧ en.getLsbD (j / 8) = true then v.getLsbD j else x.getLsbD j := by
      by_cases hen : en.getLsbD a = true
      · rw [if_pos hen, getLsbD_putByte _ _ hj]
        by_cases ha : j / 8 = a
        · have byte : (BitVec.ofNat 8 (field v (8 * a) 8)).getLsbD (j - 8 * a) = v.getLsbD j := by
            rw [BitVec.getLsbD_ofNat, field, testBit_bitsN, decide_eq_true (by omega), Bool.true_and, Bool.true_and,
              BitVec.testBit_toNat]
            congr 1
            omega
          rw [if_pos (by omega), if_pos ⟨ha, ha ▸ hen⟩, byte]
        · rw [if_neg (by omega), if_neg fun e => ha e.1]
      · rw [if_neg hen, if_neg (by rintro ⟨rfl, e⟩; exact hen e)]
    rw [List.foldl_cons, ih, one, ← ite_or]
    exact if_congr (by rw [List.mem_cons]; tauto) rfl rfl

theorem mergeBytes_all (old v : Word) : mergeBytes old v 0xFF = v := by
  refine BitVec.eq_of_getLsbD_eq fun j hj => ?_
  have named : ∀ i < 8, (0xFF : BitVec 8).getLsbD i = true := by decide
  exact (getLsbD_foldl_putByte hj).trans (if_pos ⟨List.mem_range.2 (by omega), named _ (by omega)⟩)

/-- A write by the module controller of an assigned register below the debug windows. -/
theorem registerWrite_ctl (s : State) {pa : Pa} (v : Word) {o : Nat} (hpa : pa.toNat = ctlBase + o) (h8 : o % 8 = 0)
    (ho : o < 0x400000) (ha : ctlAssigned o = true) : exec (.registerWrite pa v) s = .next (ctlPut true o 0xFF v s) := by
  have hbase : ctlBase = 0xF0001B0000000 := rfl
  have hend : ctlEnd = 0xF0001B1000000 := rfl
  have word : pa.toNat / 8 * 8 = ctlBase + o := by omega
  have hctl : isCtl (ctlBase + o) = true := by simp [isCtl]; omega
  have hfree : reservedPa s (ctlBase + o) = false := by simp [reservedPa, ha]; omega
  have hdbg : dbgcmdAt (ctlBase + o) = none := if_neg (by simp; omega)
  have heng : isEngine (ctlBase + o) = false := by simp [isEngine, engBase, engEnd, hbase]; omega
  have harr : isArrive (ctlBase + o) = false := by simp [isArrive, arrBase, arrEnd, hbase]; omega
  show Outcome.next (if (isCtl (pa.toNat / 8 * 8) || isEngine (pa.toNat / 8 * 8)) && !reservedPa s (pa.toNat / 8 * 8)
    then devWrite true 3 (pa.toNat / 8 * 8) 0xFF v s else s) = _
  rw [word, if_pos (by simp [hctl, hfree]), devWrite, hdbg]
  dsimp only
  rw [devPut, if_neg (by decide), if_neg (by rw [heng]; decide), if_neg (by rw [harr]; decide), mergeBytes_all,
    Nat.add_sub_cancel_left]

end Sys2Proof.Machine
end

section
/-! PROOF. The numbers of the hardware (O59): HWID gives the place of a core and the module's number, and a write of PODCFG sets
that number while every port is down or isolated. -/

namespace Sys2Proof.Machine

open Host (Outcome)

/-- R7, R369: the fields of HWID. -/
theorem toNat_sysRead_hwid (s : State) (p : Pipe) {n : Nat} (h : n < 2048) :
    (sysRead s n p 0x001).toNat = n + 2048 * s.podmod.toNat := by
  have hm := s.podmod.isLt
  show (BitVec.ofNat 64 (n % 2048 + 2 ^ 11 * s.podmod.toNat)).toNat = _
  rw [BitVec.toNat_ofNat]
  omega

theorem allPorts_iff {P : Nat → Bool} : (List.range 36).all P = true ↔ ∀ p < 36, P p = true := by
  simp [List.all_eq_true]

theorem podcfgWrite_set {s : State} (v : BitVec 8) (h : ∀ p < 36, (s.link p).st = .down ∨ (s.link p).st = .isolated) :
    podcfgWrite v s = { s with podmod := v } := if_pos (allPorts_iff.2 fun p hp => by simpa using h p hp)

theorem podcfgWrite_keep {s : State} (v : BitVec 8) (h : ∃ p < 36, (s.link p).st ≠ .down ∧ (s.link p).st ≠ .isolated) :
    podcfgWrite v s = s := by
  obtain ⟨p, hp, hd, hi⟩ := h
  refine if_neg fun hall => ?_
  have := allPorts_iff.1 hall p hp
  simp [hd, hi] at this

theorem registerWrite_podcfg (s : State) (v : Word) :
    exec (.registerWrite 0xF0001B0080800 v) s = .next (podcfgWrite (v.setWidth 8) s) :=
  registerWrite_ctl s v (o := 0x80800) rfl rfl (by decide) (by decide)

end Sys2Proof.Machine

namespace Sys2Proof

open Machine

/-- Settles O59: HWID by its fields, PODCFG by the state of the ports. -/
theorem hardwareNumbers : Obligations.HardwareNumbers := by
  unfold Obligations.HardwareNumbers
  refine ⟨fun s p d q c hd hq hc => ?_, fun s v => ⟨fun h => ?_, fun h => ?_⟩, fun s v h => ?_⟩
  · have hn : d * 64 + q * 4 + c < 2048 := by omega
    have hm := s.podmod.isLt
    dsimp only
    rw [toNat_sysRead_hwid s p hn]
    refine ⟨hn, by omega, by omega, by omega, by omega, ?_⟩
    have quad : (d * 64 + q * 4 + c) / 4 = d * 16 + q := by omega
    exact congrArg (fun k => (s.quad k).cycle) quad
  · exact ⟨{ s with podmod := v }, congrArg Host.Outcome.next (podcfgWrite_set v h), rfl, fun _ => rfl, rfl⟩
  · exact congrArg Host.Outcome.next (podcfgWrite_keep v h)
  · refine ⟨_, registerWrite_podcfg s v, ?_⟩
    rw [podcfgWrite_set _ h]
    exact BitVec.toNat_setWidth 8 v

end Sys2Proof
end

section
/-! PROOF. The module after reset, and its first step (O49). -/

namespace Sys2Proof.Machine

open Host (Outcome)

/-- R381: a turn of a module that has not booted is the boot sequence, and condemns no context. -/
theorem step_unbooted {s : State} (ha : s.agenda = []) (hb : s.boot.stage = 0) :
    step s = .next (sweep (resetModule s)) := by
  rw [step, ha]
  exact congrArg Outcome.next (if_pos hb)

theorem sweep_of_doom_nil {s : State} (h : s.doom = []) : sweep s = s := by
  rw [sweep, h, List.foldl_nil, ← h]

/-- R381: both regions of the flash pass their checks, so that the boot ends. -/
theorem resetModule_ok {s : State} (hf : s.flash.factoryOk = true) (hr : s.flash.fieldOk = true) :
    resetModule s = { State.reset with
      mem := s.mem.filter (fun e => isHost e.1)
      now := s.now, agenda := s.agenda, fresh := s.fresh, host := s.host
      flash := bootFlash s.flash
      boot := ⟨8, false, bootDigests s.flash, s.now, some (Config.golden % 8192 * 2 ^ 28)⟩ } := by
  simp [resetModule, hf, hr]

end Sys2Proof.Machine

namespace Sys2Proof

open Machine

/-- Settles O49: no core, quad, context or queue is listed, and the first step is the boot (`step_unbooted`, `resetModule_ok`). -/
theorem resetState : Obligations.ResetState := by
  unfold Obligations.ResetState
  have boots : step State.reset = .next (resetModule State.reset) :=
    (step_unbooted rfl rfl).trans (congrArg _ (sweep_of_doom_nil (by rw [resetModule_ok rfl rfl]; rfl)))
  refine ⟨rfl, fun _ => rfl, fun _ => ⟨rfl, rfl, rfl, rfl, rfl, rfl⟩, fun _ => ⟨rfl, rfl, rfl, rfl⟩, fun _ => rfl, fun _ => rfl,
    rfl, _, boots, ?_⟩
  rw [resetModule_ok rfl rfl]
  exact ⟨rfl, rfl, rfl, rfl⟩

end Sys2Proof
end

section
/-! PROOF. Numbers made of bytes and of elements: what a read of memory gives, byte by byte and lane by lane. -/

namespace Sys2Proof.Machine

/-! ### Little-endian bytes -/

theorem leNat_lt (l : List Byte) : leNat l < 256 ^ l.length := by
  induction l with
  | nil => decide
  | cons b r ih =>
    have hb := b.isLt
    rw [leNat, List.length_cons, pow_succ]
    omega

/-- Byte i of a little-endian number. -/
theorem byte_leNat {l : List Byte} {i : Nat} (h : i < l.length) : BitVec.ofNat 8 (leNat l / 256 ^ i) = l[i] := by
  induction l generalizing i with
  | nil => exact absurd h (Nat.not_lt_zero i)
  | cons b r ih =>
    have hb := b.isLt
    cases i with
    | zero =>
      refine BitVec.eq_of_toNat_eq ?_
      rw [BitVec.toNat_ofNat, leNat, pow_zero, Nat.div_one, List.getElem_cons_zero]
      omega
    | succ i =>
      have rest : leNat (b :: r) / 256 = leNat r := by rw [leNat]; omega
      rw [pow_succ', ← Nat.div_div_eq_div_mul, rest, ih (Nat.lt_of_succ_lt_succ h), List.getElem_cons_succ]

theorem byteOf_eq (v i : Nat) : v / 2 ^ (8 * i) = v / 256 ^ i := by rw [pow_mul, show 2 ^ 8 = 256 by rfl]

theorem bytesOf_eq (loc : Nat → Nat) (n v : Nat) : bytesOf v n loc = bytesAt loc n v := by
  simp only [bytesOf, bytesAt, byteOf_eq]

/-! ### Vectors -/

theorem toNat_ofNat_fits {w x : Nat} (h : x < 2 ^ w) : (BitVec.ofNat w x).toNat = x := by
  rw [BitVec.toNat_ofNat, Nat.mod_eq_of_lt h]

theorem toNat_natVec {x : Nat} (h : x < 2 ^ 2048) : (natVec x).toNat = x := toNat_ofNat_fits h

theorem bytes_lt {x n w : Nat} (h : x < 256 ^ n) (hn : 8 * n ≤ w) : x < 2 ^ w := by
  calc x < 256 ^ n := h
    _ = 2 ^ (8 * n) := (pow_mul 2 8 n).symm
    _ ≤ 2 ^ w := Nat.pow_le_pow_right (by decide) hn

/-- Lane i of a register built from elements that fit their width. -/
theorem lane_ofWords {n i : Nat} (l : List Nat) (hl : ∀ x ∈ l, x < 2 ^ n) (hi : i < 2048 / n) :
    lane n (natVec (l.foldr (fun e acc => e + 2 ^ n * acc) 0)) i = nthN l i := by
  have reduced : l.foldr (fun e acc => e + 2 ^ n * acc) 0 = ofElemsN n l := by
    induction l with
    | nil => rfl
    | cons e r ih =>
      obtain ⟨he, hr⟩ := List.forall_mem_cons.1 hl
      rw [List.foldr_cons, ih hr, ofElemsN, ofElemsN, List.foldr_cons, Nat.mod_eq_of_lt he]
  have fits : nthN l i < 2 ^ n := by
    by_cases h : i < l.length
    · rw [nthN, List.getD_eq_getElem _ _ h]
      exact hl _ (List.getElem_mem h)
    · rw [nthN, List.getD_eq_default _ _ (by omega)]
      exact Nat.two_pow_pos n
  rw [reduced, lane, field_natVec _ hi, bits_ofElemsN, Nat.mod_eq_of_lt fits]

theorem foldl_const_eq_foldr (x n m : Nat) :
    (List.range m).foldl (fun acc _ => x + 2 ^ n * acc) 0 = (List.replicate m x).foldr (fun e acc => e + 2 ^ n * acc) 0 := by
  induction m with
  | zero => rfl
  | succ m ih => rw [List.range_succ, List.foldl_append, ih]; rfl

/-- R132: an element copied to all. -/
theorem lane_splat {n i x : Nat} (hx : x < 2 ^ n) (hi : i < 2048 / n) : lane n (deliver (.splat n) x) i = x := by
  have splat : deliver (.splat n) x = natVec ((List.replicate (2048 / n) x).foldr (fun e acc => e + 2 ^ n * acc) 0) := by
    rw [← foldl_const_eq_foldr, deliver, Nat.mod_eq_of_lt hx]
  rw [splat, lane_ofWords _ (fun y hy => by rwa [List.eq_of_mem_replicate hy]) hi, nth_replicate hi]

theorem wordVec_ofInt (y : Int) : wordVec (BitVec.ofInt 64 y) = natVec (wrapN y 64) := by
  rw [wordVec, ← BitVec.ofNat_toNat, BitVec.toNat_ofInt]
  rfl

/-- R34, R132: a scalar as its entry. -/
theorem deliver_scalar {t : BitVec 5} {x : Nat} (hx : x < 2 ^ tyWidth t.toNat) (ht : 0 < tyWidth t.toNat)
    (h64 : tyWidth t.toNat ≤ 64) : deliver (scalarOf t) x = wordVec (typedOut t x) := by
  have reduced : (x : Int) % 2 ^ tyWidth t.toNat = x := Int.emod_eq_of_lt (by omega) (by exact_mod_cast hx)
  rw [typedOut, wordVec_ofInt, scalarOf, deliver, reduced]
  congr 1
  cases hs : tySigned t.toNat with
  | false =>
    have word : x < 2 ^ 64 := hx.trans_le (Nat.pow_le_pow_right (by decide) h64)
    simp only [Bool.false_eq_true, if_false, false_and, wrapN]
    rw [Nat.mod_eq_of_lt hx]
    omega
  | true =>
    simp only [if_true, true_and, sextN, Nat.mod_eq_of_lt hx]
    congr 1
    refine if_congr ⟨fun h => ?_, fun h => ⟨by omega, ?_⟩⟩ (by push_cast; rfl) rfl
    · exact_mod_cast h.2
    · exact_mod_cast h

/-- The types of at most code 12 fill 1, 2, 4 or 8 bytes (R31). -/
theorem tyWidth_cases {t : BitVec 5} (h : t.toNat ≤ 12) :
    tyWidth t.toNat = 8 ∨ tyWidth t.toNat = 16 ∨ tyWidth t.toNat = 32 ∨ tyWidth t.toNat = 64 := by
  revert h
  revert t
  decide

end Sys2Proof.Machine
end

section
/-! PROOF. What a slot of a core reads of its scratchpad and of its quad's accumulators (R130, R136, R160). -/

namespace Sys2Proof.Machine

/-- The choice among the stores in flight is of a byte that one of them holds (R136). -/
theorem pendingByte_mem {l : List SpWrite} {bn pa : Nat} {b : Byte} (h : pendingByte l bn pa = some b) :
    ∃ w ∈ l, w.bn < bn ∧ (pa, b) ∈ w.bytes := by
  induction l using List.reverseRecOn with
  | nil => exact absurd h (by simp [pendingByte])
  | append_singleton l w ih =>
    have earlier : pendingByte l bn pa = some b → ∃ w' ∈ l ++ [w], w'.bn < bn ∧ (pa, b) ∈ w'.bytes := fun e => by
      obtain ⟨w', hm, hw⟩ := ih e
      exact ⟨w', List.mem_append_left _ hm, hw⟩
    rw [pendingByte, List.foldl_append, List.foldl_cons, List.foldl_nil] at h
    split at h
    · next hbn =>
      split at h
      · next e he =>
        have found := List.find?_some he
        have here : e ∈ w.bytes := List.mem_reverse.1 (List.mem_of_find?_eq_some he)
        refine ⟨w, List.mem_append_right _ (List.mem_singleton_self w), hbn, ?_⟩
        obtain rfl : e.1 = pa := by simpa using found
        obtain rfl : e.2 = b := by simpa using h
        exact here
      · exact earlier h
    · exact earlier h

theorem mayRead_slotByte (s : State) (k pa : Nat) : MayRead s pa (slotByte s s.regs.id.tag k pa) := by
  unfold MayRead slotByte
  by_cases ha : padAllowed s s.regs.id.tag pa = true
  · rw [if_pos ha, if_pos ha]
    split
    · exact .inl rfl
    · next b hb =>
      split
      · exact .inr (pendingByte_mem hb)
      · exact .inl rfl
  · rw [if_neg ha, if_neg ha]

/-- The bytes of a list as the number they make. -/
theorem readsAt_leNat {may : Nat → Byte → Prop} {loc : Nat → Nat} {n : Nat} {f : Nat → Byte} (h : ∀ i < n, may (loc i) (f i)) :
    ReadsAt may loc n (leNat ((List.range n).map f)) := by
  refine ⟨?_, fun i hi => ?_⟩
  · simpa using leNat_lt ((List.range n).map f)
  · rw [byte_leNat (by simpa using hi), List.getElem_map, List.getElem_range]
    exact h i hi

theorem readsAt_slotRead (s : State) (loc : Nat → Nat) (n : Nat) :
    ReadsAt (MayRead s) loc n (slotRead s ((List.range n).map loc)) := by
  rw [slotRead, List.map_map]
  exact readsAt_leNat fun i _ => mayRead_slotByte s _ _

theorem padAddrs_padOff (s : State) (ea : Word) (n : Nat) :
    padAddrs s.cur.toNat (padOff ea) n = (List.range n).map (padAt s ea) := by
  simp only [padAddrs, padOff, Nat.mod_add_mod]
  rfl

theorem accAddrs_accOff (s : State) (ea : Word) (n : Nat) :
    accAddrs s.cur.toNat (accOff ea) n = (List.range n).map (accAt s ea) := by
  simp only [accAddrs, accOff, Nat.mod_add_mod]
  rfl

theorem accWideAddrs_accWideOff (s : State) (ea : Word) (n : Nat) :
    accWideAddrs s.myQuad (accWideOff ea) n = (List.range n).map (accWideAt s ea) := by
  simp only [accWideAddrs, accWideOff, Nat.mod_add_mod]
  rfl

/-- A scratchpad read as the number of its bytes. -/
theorem readsAt_pad (s : State) (ea : Word) (n : Nat) :
    ReadsAt (MayRead s) (padAt s ea) n (slotRead s (padAddrs s.cur.toNat (padOff ea) n)) := by
  rw [padAddrs_padOff]
  exact readsAt_slotRead s _ n

/-- R160: an accumulator byte is read as some number of the drains in flight leave it. -/
theorem readsAt_accRead (s : State) (loc : Nat → Nat) (n : Nat) :
    ReadsAt (MayReadAcc s) loc n (accRead s ((List.range n).map loc)) := by
  unfold accRead
  split
  · obtain ⟨hlt, hb⟩ := readsAt_slotRead s loc n
    exact ⟨hlt, fun i hi => .inl (hb i hi)⟩
  · dsimp only
    rw [List.map_map]
    refine readsAt_leNat fun i _ => ?_
    refine .inr ⟨field (Config.freeVec (s.fresh + 2 ^ 51 + loc i / 8)) 0 16 % ((s.quad s.myQuad).array.drains.length + 1),
      Nat.le_of_lt_succ (Nat.mod_lt _ (Nat.succ_pos _)), ?_⟩
    rw [Function.comp_apply, List.getD_eq_getElem _ _ (by simpa using Nat.mod_lt _ (Nat.succ_pos _)), List.getElem_map,
      List.getElem_range]
    exact mayRead_slotByte { s with mem := drainedMem s s.myQuad _ } _ _

end Sys2Proof.Machine
end

section
/-! PROOF. The scratchpad loads of L and the scale registers of K (O14): one equation for each shared operation, by whether an entry
can be reserved and whether the address is aligned, and then each form. -/

namespace Sys2Proof.Machine

open Host (Outcome)

variable {s : State}

/-! ### The shared operations -/

theorem withEntry_room (h : HasRoom s) (k : State → State) : withEntry s k = k s := if_neg (Nat.not_le.2 h)

theorem withEntry_full (h : ¬HasRoom s) (k : State → State) : withEntry s k = slotTraps s 0x0F 0 .L := if_pos (Nat.not_lt.1 h)

theorem alignedL_ok {c : Prop} [Decidable c] (h : c) (ea : Word) (k : State → State) : alignedL (decide c) ea s k = k s :=
  if_pos (decide_eq_true h)

theorem alignedL_bad {c : Prop} [Decidable c] (h : ¬c) (ea : Word) (k : State → State) :
    alignedL (decide c) ea s k = slotTraps s 0x15 ea .L := if_neg (by simpa using h)

theorem alignedK_ok {c : Prop} [Decidable c] (h : c) (ea : Word) (k : State → State) : alignedK (decide c) ea s k = k s :=
  if_pos (decide_eq_true h)

theorem alignedK_bad {c : Prop} [Decidable c] (h : ¬c) (ea : Word) (k : State → State) :
    alignedK (decide c) ea s k = slotTraps s 0x15 ea .K := if_neg (by simpa using h)

theorem padOff_mod {ea : Word} {n : Nat} (h : n ∣ 2 ^ 21) : padOff ea % n = ea.toNat % n := Nat.mod_mod_of_dvd _ h

theorem accOff_mod (ea : Word) : accOff ea % 8 = ea.toNat % 8 := Nat.mod_mod_of_dvd _ (by decide)

theorem accWideOff_mod (ea : Word) : accWideOff ea % 8 = ea.toNat % 8 := Nat.mod_mod_of_dvd _ (by decide)

/-- A load with room and an aligned address reserves an entry and uses free choices. -/
theorem padLoad_reserves (lat n al : Nat) (how : Deliver) (ea : Word) (hr : HasRoom s) (hd : al ∣ 2 ^ 21)
    (ha : ea.toNat % al = 0) :
    padLoad lat n al how ea s =
      withFresh (reserves s lat (deliver how (slotRead s (padAddrs s.cur.toNat (padOff ea) n)))) (s.fresh + 2 ^ 52) := by
  rw [padLoad, withEntry_room hr, alignedL_ok (by rwa [padOff_mod hd])]
  rfl

theorem padLoad_full (lat n al : Nat) (how : Deliver) (ea : Word) (hr : ¬HasRoom s) :
    padLoad lat n al how ea s = slotTraps s 0x0F 0 .L := withEntry_full hr _

theorem padLoad_misaligned (lat n al : Nat) (how : Deliver) (ea : Word) (hr : HasRoom s) (hd : al ∣ 2 ^ 21)
    (ha : ea.toNat % al ≠ 0) : padLoad lat n al how ea s = slotTraps s 0x15 ea .L := by
  rw [padLoad, withEntry_room hr, alignedL_bad (by rwa [padOff_mod hd])]

/-- A load of n bytes delivers what V says of them. -/
theorem padLoad_loads {i : Instr} {lat n al : Nat} {how : Deliver} {ea : Word} {V : Nat → Vec → Prop} (hr : HasRoom s)
    (hd : al ∣ 2 ^ 21) (ha : ea.toNat % al = 0) (hi : exec i s = .next (padLoad lat n al how ea s))
    (hV : ∀ x, x < 256 ^ n → V x (deliver how x)) : LoadsPad i s lat n (MayRead s) (padAt s ea) V := by
  have bytes := readsAt_pad s ea n
  exact ⟨_, _, _, hi.trans (congrArg _ (padLoad_reserves lat n al how ea hr hd ha)), bytes, hV _ bytes.1⟩

theorem dvd_padSize {t : BitVec 5} (ht : t.toNat ≤ 12) : tyWidth t.toNat / 8 ∣ 2 ^ 21 := by
  obtain h | h | h | h := tyWidth_cases ht
  all_goals rw [h]; decide

/-! ### Post-increments -/

theorem me_traceRecord (s : State) (n kind : Nat) (va arg : Word) : (traceRecord s n kind va arg).me = s.me := by
  dsimp only [traceRecord]
  split
  · rfl
  · rfl

/-- R265: a trap of a task starts its outrider. -/
theorem outrider_slotTraps (h : s.me.outrider = false) (c : Nat) (a : Word) (p : Pos) :
    (slotTraps s c a p).me.outrider = true := by
  rw [slotTraps, takeTrap, if_neg (by rw [h]; decide), me_traceRecord, me_modRegs]
  rfl

theorem incAfter_trapped (h : s.me.outrider = false) (j : BitVec 3) (p : BitVec 1) (o : BitVec 11) (u c : Nat) (a : Word)
    (x : Pos) : incAfter s j p o u (slotTraps s c a x) = slotTraps s c a x := by
  rw [incAfter, outrider_slotTraps h, h]
  exact if_neg (by simp)

/-- A syllable that only changes the pipelines' queues, in a fixed group that issues, steps its base. -/
theorem incAfter_issued (h : Issues s) (j : BitVec 3) (p : BitVec 1) (o : BitVec 11) (u k : Nat) {f : Pipe → Pipe}
    (hf : ∀ x, (f x).waits = x.waits) :
    incAfter s j p o u (withFresh (s.modPipe f) k) = stepsBase (withFresh (s.modPipe f) k) j p o u := by
  obtain ⟨hw, hh⟩ := h
  have me : (withFresh (s.modPipe f) k).me = s.me.modPipe f := me_modPipe s f
  have pipe : (withFresh (s.modPipe f) k).pipe = f s.pipe := statePipe_modPipe s f
  rw [incAfter, me, pipe, outrider_modPipe, coreModPipe_halt, hf, hw, hh]
  exact if_pos (by simp)

theorem padLoadBase_suppressed {j : BitVec 3} (hr : HasRoom s) (hq : s.regs.loop.q.getLsbD j.toNat = false) (lat n u : Nat)
    (how : Deliver) (p : BitVec 1) (o : BitVec 11) (x : BitVec 6) :
    padLoadBase lat n u how j p o x s = reserves s lat 0 := by
  have off : s.stage j = false := hq
  rw [padLoadBase, off, if_neg (by decide), withEntry_room hr]
  rfl

theorem padLoadBase_reserves {j : BitVec 3} {p : BitVec 1} {o : BitVec 11} {x : BitVec 6} {u : Nat} (hr : HasRoom s)
    (hi : Issues s) (hq : s.regs.loop.q.getLsbD j.toNat = true) (ha : (baseEa s j p o x u).toNat % 8 = 0) (lat n : Nat)
    (how : Deliver) :
    padLoadBase lat n u how j p o x s =
      stepsBase (withFresh (reserves s lat
        (deliver how (slotRead s (padAddrs s.cur.toNat (padOff (baseEa s j p o x u)) n)))) (s.fresh + 2 ^ 52)) j p o u := by
  have on : s.stage j = true := hq
  have load := padLoad_reserves lat n 8 how (baseEa s j p o x u) hr (by decide) ha
  rw [padLoadBase, if_pos on]
  refine (congrArg (incAfter s j p o u) load).trans (incAfter_issued hi j p o u _ fun _ => rfl)

theorem padLoadBase_full {j : BitVec 3} {p : BitVec 1} {o : BitVec 11} {x : BitVec 6} {lat n u : Nat} {how : Deliver}
    (hr : ¬HasRoom s) (h : s.me.outrider = false ∨ s.regs.loop.q.getLsbD j.toNat = false) :
    padLoadBase lat n u how j p o x s = slotTraps s 0x0F 0 .L := by
  rw [padLoadBase]
  split
  · next on =>
    have task : s.me.outrider = false := h.resolve_right fun off => by
      rw [State.stage, off] at on
      exact absurd on (by decide)
    rw [padLoad_full _ _ _ _ _ hr, incAfter_trapped task]
  · exact withEntry_full hr _

theorem padLoadBase_misaligned {j : BitVec 3} {p : BitVec 1} {o : BitVec 11} {x : BitVec 6} {lat n u : Nat} {how : Deliver}
    (hr : HasRoom s) (ht : s.me.outrider = false) (hq : s.regs.loop.q.getLsbD j.toNat = true)
    (ha : (baseEa s j p o x u).toNat % 8 ≠ 0) :
    padLoadBase lat n u how j p o x s = slotTraps s 0x15 (baseEa s j p o x u) .L := by
  have on : s.stage j = true := hq
  have load := padLoad_misaligned lat n 8 how (baseEa s j p o x u) hr (by decide) ha
  rw [padLoadBase, if_pos on]
  exact (congrArg (incAfter s j p o u) load).trans (incAfter_trapped ht j p o u _ _ _)

end Sys2Proof.Machine
end

section
/-! PROOF. The loads of the scratchpad and of the accumulators, form by form (O14). -/

namespace Sys2Proof.Machine

open Host (Outcome)

variable {s : State}

theorem lLd_loads (a b : BitVec 6) {t : BitVec 5} (hr : HasRoom s) (ht : t.toNat ≤ 12)
    (ha : (s.bridge a + s.bridge b).toNat % (tyWidth t.toNat / 8) = 0) :
    LoadsPad (.lLd a b t) s 6 (tyWidth t.toNat / 8) (MayRead s) (padAt s (s.bridge a + s.bridge b))
      (fun x v => v = wordVec (typedOut t x)) := by
  refine padLoad_loads hr (dvd_padSize ht) ha rfl fun x hx => deliver_scalar (bytes_lt hx ?_) ?_ ?_
  all_goals have := tyWidth_cases ht; omega

theorem lLdsc_loads (a b : BitVec 6) {t : BitVec 5} (hr : HasRoom s) (ht : t.toNat ≤ 12)
    (ha : (s.bridge a + s.bridge b).toNat % (tyWidth t.toNat / 8) = 0) :
    LoadsPad (.lLdsc a b t) s 6 (tyWidth t.toNat / 8) (MayRead s) (padAt s (s.bridge a + s.bridge b))
      (fun x v => ∀ i < 2048 / tyWidth t.toNat, lane (tyWidth t.toNat) v i = x) := by
  refine padLoad_loads hr (dvd_padSize ht) ha rfl fun x hx i hi => lane_splat (bytes_lt hx ?_) hi
  have := tyWidth_cases ht
  omega

theorem lLdx_loads (a b : BitVec 6) (hr : HasRoom s) (ha : (s.bridge a + s.bridge b).toNat % 8 = 0) :
    LoadsPad (.lLdx a b) s 6 256 (MayRead s) (padAt s (s.bridge a + s.bridge b)) (fun x v => v.toNat = x) :=
  padLoad_loads hr (by decide) ha rfl fun _ hx => toNat_natVec (bytes_lt hx (by decide))

/-- A load of 256 bytes of the accumulators. -/
theorem accLoad_loads {i : Instr} {loc : Nat → Nat} (hi : exec i s =
      .next ((reserveFixed 6 (natVec (accRead s ((List.range 256).map loc))) none s).refresh)) :
    LoadsPad i s 6 256 (MayReadAcc s) loc (fun x v => v.toNat = x) := by
  have bytes := readsAt_accRead s loc 256
  exact ⟨_, _, _, hi, bytes, toNat_natVec (bytes_lt bytes.1 (by decide))⟩

theorem lLdacc_loads (a b : BitVec 6) (hr : HasRoom s) (ha : (s.bridge a + s.bridge b).toNat % 8 = 0) :
    LoadsPad (.lLdacc a b) s 6 256 (MayReadAcc s) (accAt s (s.bridge a + s.bridge b)) (fun x v => v.toNat = x) := by
  refine accLoad_loads ?_
  show execLLdacc a b s = _
  rw [execLLdacc, withEntry_room hr, alignedL_ok (by rwa [accOff_mod]), accAddrs_accOff]

theorem wideHeld_iff {c : Core} : wideHeld c = true ↔ c.fold.lease = .held ∧ c.fold.wide = true := by simp [wideHeld]

theorem lLdaccw_loads (a b : BitVec 6) (hr : HasRoom s) (ha : (s.bridge a + s.bridge b).toNat % 8 = 0)
    (hh : s.me.fold.lease = .held) (hw : s.me.fold.wide = true) :
    LoadsPad (.lLdaccw a b) s 6 256 (MayReadAcc s) (accWideAt s (s.bridge a + s.bridge b)) (fun x v => v.toNat = x) := by
  refine accLoad_loads ?_
  show execLLdaccw a b s = _
  rw [execLLdaccw, withEntry_room hr, if_pos (wideHeld_iff.2 ⟨hh, hw⟩), alignedL_ok (by rwa [accWideOff_mod]),
    accWideAddrs_accWideOff]

/-! ### Strided elements -/

theorem leNat_append (l k : List Byte) : leNat (l ++ k) = leNat l + 256 ^ l.length * leNat k := by
  induction l with
  | nil => simp [leNat]
  | cons b r ih =>
    rw [List.cons_append, leNat, leNat, ih, List.length_cons, pow_succ']
    ring

/-- Strings of n bytes each, one after the other: string i of their number. -/
theorem leNat_flatten {n i : Nat} {l : List (List Byte)} (hl : ∀ x ∈ l, x.length = n) (hi : i < l.length) :
    leNat l.flatten / 256 ^ (n * i) % 256 ^ n = leNat l[i] := by
  have pos : 0 < 256 ^ n := Nat.pow_pos (by decide)
  induction l generalizing i with
  | nil => exact absurd hi (Nat.not_lt_zero i)
  | cons x r ih =>
    obtain ⟨hx, hr⟩ := List.forall_mem_cons.1 hl
    have first : leNat x < 256 ^ n := hx ▸ leNat_lt x
    rw [List.flatten_cons, leNat_append, hx]
    cases i with
    | zero =>
      rw [Nat.mul_zero, pow_zero, Nat.div_one, Nat.add_mul_mod_self_left, Nat.mod_eq_of_lt first, List.getElem_cons_zero]
    | succ i =>
      have rest : (leNat x + 256 ^ n * leNat r.flatten) / 256 ^ n = leNat r.flatten := by
        rw [Nat.add_mul_div_left _ _ pos, Nat.div_eq_of_lt first, Nat.zero_add]
      rw [Nat.mul_succ, Nat.add_comm (n * i) n, pow_add, ← Nat.div_div_eq_div_mul, rest, ih hr (Nat.lt_of_succ_lt_succ hi),
        List.getElem_cons_succ]

theorem lane_bytes {n w i : Nat} (x : Nat) (hw : w = 8 * n) (hi : i < 2048 / w) :
    lane w (natVec x) i = x / 256 ^ (n * i) % 256 ^ n := by
  have base : (2 : Nat) ^ 8 = 256 := rfl
  rw [lane, field_natVec _ hi, bitsN, hw, Nat.mul_assoc, pow_mul 2 8 (n * i), pow_mul 2 8 n, base]

/-- R134: element i of a strided load holds the n bytes at its own address. -/
theorem readsAt_strided (s : State) (loc : Nat → Nat → Nat) {n w m i : Nat} (hw : w = 8 * n) (hm : i < m) (hi : i < 2048 / w) :
    ReadsAt (MayRead s) (loc i) n
      (lane w (natVec (slotRead s ((List.range m).map (fun k => (List.range n).map (loc k))).flatten)) i) := by
  have string : lane w (natVec (slotRead s ((List.range m).map (fun k => (List.range n).map (loc k))).flatten)) i =
      slotRead s ((List.range n).map (loc i)) := by
    rw [slotRead, List.map_flatten, lane_bytes _ hw hi, leNat_flatten (by simp) (by simpa using hm)]
    simp [slotRead]
  rw [string]
  exact readsAt_slotRead s _ n

theorem strideOffs_all {a b : Word} {n m : Nat} (hd : n ∣ 2 ^ 21) :
    (((List.range m).map (fun i => padOff (strideEa a b i))).all (fun o => o % n = 0)) =
      decide (∀ i < m, (strideEa a b i).toNat % n = 0) := by
  rw [Bool.eq_iff_iff]
  simp [List.all_eq_true, padOff_mod hd]

theorem execLLdst_eq (a b : BitVec 6) {t : BitVec 5} (hr : HasRoom s) (ht : t.toNat ≤ 12) :
    exec (.lLdst a b t) s = .next (alignedL
      (decide (∀ i < 2048 / tyWidth t.toNat, (strideEa (s.bridge a) (s.bridge b) i).toNat % (tyWidth t.toNat / 8) = 0))
      (s.bridge a) s (fun s => (reserveFixed 8 (natVec (slotRead s ((List.range (2048 / tyWidth t.toNat)).map (fun i =>
        (List.range (tyWidth t.toNat / 8)).map (padAt s (strideEa (s.bridge a) (s.bridge b) i)))).flatten)) none s).refresh)) := by
  have count : 256 / (tyWidth t.toNat / 8) = 2048 / tyWidth t.toNat := by
    obtain h | h | h | h := tyWidth_cases ht
    all_goals rw [h]
  show execLLdst a b t s = _
  rw [execLLdst, withEntry_room hr, strideOffs_all (dvd_padSize ht), count]
  simp only [List.map_map, Function.comp_def, alignedL, padAddrs_padOff]

theorem lLdst_loads (a b : BitVec 6) {t : BitVec 5} (hr : HasRoom s) (ht : t.toNat ≤ 12)
    (ha : ∀ i < 2048 / tyWidth t.toNat, (strideEa (s.bridge a) (s.bridge b) i).toNat % (tyWidth t.toNat / 8) = 0) :
    ∃ k v, exec (.lLdst a b t) s = .next (withFresh (reserves s 8 v) k) ∧
      ∀ i < 2048 / tyWidth t.toNat,
        ReadsAt (MayRead s) (padAt s (strideEa (s.bridge a) (s.bridge b) i)) (tyWidth t.toNat / 8)
          (lane (tyWidth t.toNat) v i) := by
  refine ⟨_, _, (execLLdst_eq a b hr ht).trans (congrArg _ (alignedL_ok ha _ _)), fun i hi => ?_⟩
  refine readsAt_strided s (fun k => padAt s (strideEa (s.bridge a) (s.bridge b) k)) ?_ hi hi
  have := tyWidth_cases ht
  omega

/-! ### Loads that also zero, of a mask, and through a base register -/

theorem readsAt_padVec (s : State) (ea : Word) {n : Nat} (hn : n ≤ 256) :
    ReadsAt (MayRead s) (padAt s ea) n (natVec (slotRead s (padAddrs s.cur.toNat (padOff ea) n))).toNat := by
  have bytes := readsAt_pad s ea n
  rwa [toNat_natVec (bytes_lt bytes.1 (by omega))]

theorem modPipe_congr {f g : Pipe → Pipe} (h : f s.pipe = g s.pipe) : s.modPipe f = s.modPipe g := by
  refine modMe_congr ?_
  unfold Core.modPipe
  by_cases outr : s.me.outrider = true
  · have same : f s.me.regs.outr = g s.me.regs.outr := by simpa [State.pipe, Core.pipe, outr] using h
    rw [if_pos outr, if_pos outr, Core.modRegs, Core.modRegs, same]
  · have same : f s.me.regs.task = g s.me.regs.task := by simpa [State.pipe, Core.pipe, outr] using h
    rw [if_neg outr, if_neg outr, Core.modRegs, Core.modRegs, same]

theorem landNow_eq (bytes : List (Nat × Byte)) : landNow bytes s = landsAt s (nowOf s) s.pipe.bn bytes := modPipe_congr rfl

theorem bn_reserves (lat : Nat) (v : Vec) : (reserves s lat v).pipe.bn = s.pipe.bn := by rw [reserves, statePipe_modPipe]

theorem padLoc_eq (ea : Word) : (fun i => padOf s.cur.toNat + (padOff ea + i) % 2 ^ 21) = padAt s ea := by
  funext i
  rw [padOff, Nat.mod_add_mod, padAt]

theorem lLdz_loads (a b : BitVec 6) (hr : HasRoom s) (ha : (s.bridge a + s.bridge b).toNat % 8 = 0) :
    ∃ k v, exec (.lLdz a b) s = .next (withFresh (landsAt (reserves s 6 v) (nowOf s) s.pipe.bn
        (bytesAt (padAt s (s.bridge a + s.bridge b)) 256 0)) k) ∧
      ReadsAt (MayRead s) (padAt s (s.bridge a + s.bridge b)) 256 v.toNat := by
  refine ⟨s.fresh + 2 ^ 52, _, ?_, readsAt_padVec s _ (le_refl 256)⟩
  show execLLdz a b s = _
  rw [execLLdz, withEntry_room hr, alignedL_ok (by rwa [padOff_mod (by decide)]), padLoc_eq, bytesOf_eq, landNow_eq]
  exact congrArg (fun k => Outcome.next (withFresh (landsAt _ (nowOf s) k _) _)) (bn_reserves 6 _)

theorem lLdm_loads (m : BitVec 4) (a b : BitVec 6) (ha : (s.bridge a + s.bridge b).toNat % 8 = 0) :
    ∃ k v, exec (.lLdm m a b) s = .next (withFresh (withResults s (resultsAt s .L 6 [.mask m.toNat] v)) k) ∧
      ReadsAt (MayRead s) (padAt s (s.bridge a + s.bridge b)) 32 v.toNat := by
  refine ⟨s.fresh + 2 ^ 52, _, ?_, readsAt_padVec s _ (by decide)⟩
  show execLLdm m a b s = _
  rw [execLLdm, alignedL_ok (by rwa [padOff_mod (by decide)]), result_eq]
  rfl

theorem deliver_vec (x : Nat) : deliver .vec x = natVec x := rfl

theorem deliver_word {x : Nat} (h : x < 2 ^ 64) : deliver (.scalar false 64) x = natVec x := by
  rw [deliver, if_neg (by decide), Nat.mod_eq_of_lt h]

theorem lLdi_loads {j : BitVec 3} {p : BitVec 1} {o : BitVec 11} {x : BitVec 6} (hr : HasRoom s) (hi : Issues s)
    (hq : s.regs.loop.q.getLsbD j.toNat = true) (ha : (baseEa s j p o x 256).toNat % 8 = 0) :
    ∃ k v, exec (.lLdi j p o x) s = .next (stepsBase (withFresh (reserves s 6 v) k) j p o 256) ∧
      ReadsAt (MayRead s) (padAt s (baseEa s j p o x 256)) 256 v.toNat := by
  refine ⟨s.fresh + 2 ^ 52, _, ?_, readsAt_padVec s _ (le_refl 256)⟩
  rw [← deliver_vec]
  exact congrArg Outcome.next (padLoadBase_reserves hr hi hq ha 6 256 .vec)

theorem lLdb_loads {j : BitVec 3} {p : BitVec 1} {o : BitVec 11} {x : BitVec 6} (hr : HasRoom s) (hi : Issues s)
    (hq : s.regs.loop.q.getLsbD j.toNat = true) (ha : (baseEa s j p o x 8).toNat % 8 = 0) :
    ∃ k v, exec (.lLdb j p o x) s = .next (stepsBase (withFresh (reserves s 6 (natVec v)) k) j p o 8) ∧
      ReadsAt (MayRead s) (padAt s (baseEa s j p o x 8)) 8 v := by
  have bytes := readsAt_pad s (baseEa s j p o x 8) 8
  refine ⟨s.fresh + 2 ^ 52, _, ?_, bytes⟩
  rw [← deliver_word (bytes_lt bytes.1 (by decide))]
  exact congrArg Outcome.next (padLoadBase_reserves hr hi hq ha 6 8 (.scalar false 64))

theorem scratchpadLoads : Claim.ScratchpadLoads := by
  refine ⟨fun _ => rfl, fun s a b t hr ht ha => ⟨lLd_loads a b hr ht ha, lLdsc_loads a b hr ht ha⟩,
    fun s a b hr ha => ⟨lLdx_loads a b hr ha, lLdacc_loads a b hr ha, lLdaccw_loads a b hr ha⟩,
    fun s a b t hr ht ha => lLdst_loads a b hr ht ha, fun s a b hr ha => lLdz_loads a b hr ha,
    fun s m a b ha => lLdm_loads m a b ha,
    fun s j p o x hr hi hq => ⟨lLdi_loads hr hi hq, lLdb_loads hr hi hq⟩, fun s j p o x hr hq => ⟨?_, ?_⟩⟩
  · exact congrArg Outcome.next (padLoadBase_suppressed hr hq 6 256 256 .vec p o x)
  · exact congrArg Outcome.next (padLoadBase_suppressed hr hq 6 8 8 (.scalar false 64) p o x)

/-! ### Traps -/

theorem scratchpadLoadTraps : Claim.ScratchpadLoadTraps := by
  refine ⟨fun s a b t hr i hi => ?_, fun s m a b hr => ?_, fun s j p o x hr h => ⟨?_, ?_⟩,
    fun s j p o x hr ht hq => ⟨fun ha => ?_, fun ha => ?_⟩, fun s a b hr ha i hi => ?_, fun s m a b ha => ?_,
    fun s a b t hr ht => ⟨fun ha => ⟨?_, ?_⟩, fun ha => ?_⟩, fun s a b hr h => ?_, fun s a b hr hh hw ha => ?_⟩
  · fin_cases hi
    all_goals exact congrArg Outcome.next (withEntry_full hr _)
  · exact congrArg Outcome.next (withEntry_full hr _)
  · exact congrArg Outcome.next (padLoadBase_full hr h)
  · exact congrArg Outcome.next (padLoadBase_full hr h)
  · exact congrArg Outcome.next (padLoadBase_misaligned hr ht hq ha)
  · exact congrArg Outcome.next (padLoadBase_misaligned hr ht hq ha)
  · fin_cases hi
    · exact congrArg Outcome.next (padLoad_misaligned 6 256 8 .vec _ hr (by decide) ha)
    · show execLLdz a b s = _
      rw [execLLdz, withEntry_room hr, alignedL_bad (by rwa [padOff_mod (by decide)])]
    · show execLLdacc a b s = _
      rw [execLLdacc, withEntry_room hr, alignedL_bad (by rwa [accOff_mod])]
  · show execLLdm m a b s = _
    rw [execLLdm, alignedL_bad (by rwa [padOff_mod (by decide)])]
  · exact congrArg Outcome.next (padLoad_misaligned 6 _ _ _ _ hr (dvd_padSize ht) ha)
  · exact congrArg Outcome.next (padLoad_misaligned 6 _ _ _ _ hr (dvd_padSize ht) ha)
  · rw [execLLdst_eq a b hr ht, alignedL_bad (by push Not; exact ha)]
  · show execLLdaccw a b s = _
    rw [execLLdaccw, withEntry_room hr, if_neg (by rw [wideHeld_iff]; rintro ⟨hh, hw⟩; simp [hh, hw] at h)]
    rfl
  · show execLLdaccw a b s = _
    rw [execLLdaccw, withEntry_room hr, if_pos (wideHeld_iff.2 ⟨hh, hw⟩), alignedL_bad (by rwa [accWideOff_mod])]

/-! ### Scale registers -/

theorem scaleWord_lt {e f : Nat} (he : e < 256) (hf : f < 2 ^ 16) (z n : Bool) : scaleWord e f z n < 2 ^ 32 := by
  unfold scaleWord
  split <;> split <;> omega

theorem mxScale_lt {x : Nat} (hx : x < 256) (t : BitVec 5) : mxScale x t < 2 ^ 32 := by
  unfold mxScale
  split
  · exact scaleWord_lt (by decide) (by decide) _ _
  · exact scaleWord_lt hx (by split_ifs <;> decide) _ _

theorem mxWord_eq {t : BitVec 5} (ht : t.toNat ∈ [25, 26, 27]) (x : Nat) : mxWord t.toNat x = mxScale x t := by
  unfold mxWord mxScale
  split
  · rfl
  · congr 1
    obtain h | h | h : t.toNat = 25 ∨ t.toNat = 26 ∨ t.toNat = 27 := by simpa using ht
    all_goals simp only [h]; decide

theorem scaleLoad_eq (k : BitVec 3) (lo n : Nat) {ea : Word} (ha : ea.toNat % 8 = 0) :
    scaleLoad k lo n ea s = withFresh (withResults s (resultsAt s .K 5 [.scale k.toNat lo (8 * n)]
      (natVec (slotRead s (padAddrs s.cur.toNat (padOff ea) n))))) (s.fresh + 2 ^ 52) := by
  rw [scaleLoad, alignedK_ok (by rwa [padOff_mod (by decide)]), result_eq]
  rfl

theorem scaleLoad_misaligned (k : BitVec 3) (lo n : Nat) {ea : Word} (ha : ea.toNat % 8 ≠ 0) :
    scaleLoad k lo n ea s = slotTraps s 0x15 ea .K := by
  rw [scaleLoad, alignedK_bad (by rwa [padOff_mod (by decide)])]

theorem kSt_eq (k : BitVec 3) (a b : BitVec 6) (ha : (s.bridge a + s.bridge b).toNat % 8 = 0) :
    exec (.kSt k a b) s = .next (landsAt s (nowOf s) s.pipe.bn
      (bytesAt (padAt s (s.bridge a + s.bridge b)) 256 (vget s.regs.scale k.toNat 0).toNat)) := by
  show execKSt k a b s = _
  rw [execKSt, alignedK_ok (by rwa [padOff_mod (by decide)]), padBytes, padLoc_eq, bytesOf_eq, landNow_eq]

theorem kSt_misaligned (k : BitVec 3) (a b : BitVec 6) (ha : (s.bridge a + s.bridge b).toNat % 8 ≠ 0) :
    exec (.kSt k a b) s = .next (slotTraps s 0x15 (s.bridge a + s.bridge b) .K) := by
  show execKSt k a b s = _
  rw [execKSt, alignedK_bad (by rwa [padOff_mod (by decide)])]

theorem kLd_loads (k : BitVec 3) (a b : BitVec 6) (ha : (s.bridge a + s.bridge b).toNat % 8 = 0) :
    ∃ f v, exec (.kLd k a b) s = .next (withFresh (withResults s (resultsAt s .K 5 [.scale k.toNat 0 2048] v)) f) ∧
      ReadsAt (MayRead s) (padAt s (s.bridge a + s.bridge b)) 256 v.toNat :=
  ⟨_, _, congrArg Outcome.next (scaleLoad_eq k 0 256 ha), readsAt_padVec s _ (le_refl 256)⟩

theorem kLdh_loads (k : BitVec 3) (a b : BitVec 6) (h : BitVec 1) (ha : (s.bridge a + s.bridge b).toNat % 8 = 0) :
    ∃ f v, exec (.kLdh k a b h) s =
        .next (withFresh (withResults s (resultsAt s .K 5 [.scale k.toNat (1024 * h.toNat) 1024] v)) f) ∧
      ReadsAt (MayRead s) (padAt s (s.bridge a + s.bridge b)) 128 v.toNat := by
  have half : (if h = 1 then 1024 else 0) = 1024 * h.toNat := by
    revert h
    decide
  refine ⟨s.fresh + 2 ^ 52, _, ?_, readsAt_padVec s _ (by decide)⟩
  rw [← half]
  exact congrArg Outcome.next (scaleLoad_eq k _ 128 ha)

theorem kLdi_loads {j : BitVec 3} (k : BitVec 3) {p : BitVec 1} {o : BitVec 11} {x : BitVec 6} (hi : Issues s)
    (hq : s.regs.loop.q.getLsbD j.toNat = true) (ha : (baseEa s j p o x 256).toNat % 8 = 0) :
    ∃ f v, exec (.kLdi j k p o x) s =
        .next (stepsBase (withFresh (withResults s (resultsAt s .K 5 [.scale k.toNat 0 2048] v)) f) j p o 256) ∧
      ReadsAt (MayRead s) (padAt s (baseEa s j p o x 256)) 256 v.toNat := by
  have on : s.stage j = true := hq
  have load := scaleLoad_eq (s := s) k 0 256 ha
  refine ⟨s.fresh + 2 ^ 52, _, ?_, readsAt_padVec s _ (le_refl 256)⟩
  show execKLdi j k p o x s = _
  rw [execKLdi, if_pos on]
  exact congrArg Outcome.next ((congrArg (incAfter s j p o 256) load).trans (incAfter_issued hi j p o 256 _ fun _ => rfl))

theorem kLdi_misaligned {j : BitVec 3} (k : BitVec 3) {p : BitVec 1} {o : BitVec 11} {x : BitVec 6}
    (ht : s.me.outrider = false) (hq : s.regs.loop.q.getLsbD j.toNat = true) (ha : (baseEa s j p o x 256).toNat % 8 ≠ 0) :
    exec (.kLdi j k p o x) s = .next (slotTraps s 0x15 (baseEa s j p o x 256) .K) := by
  have on : s.stage j = true := hq
  have load := scaleLoad_misaligned (s := s) k 0 256 ha
  show execKLdi j k p o x s = _
  rw [execKLdi, if_pos on]
  exact congrArg Outcome.next ((congrArg (incAfter s j p o 256) load).trans (incAfter_trapped ht j p o 256 _ _ _))

theorem kLdi_suppressed {j : BitVec 3} (k : BitVec 3) (p : BitVec 1) (o : BitVec 11) (x : BitVec 6)
    (hq : s.regs.loop.q.getLsbD j.toNat = false) : exec (.kLdi j k p o x) s = .next s := by
  have off : s.stage j = false := hq
  show execKLdi j k p o x s = _
  rw [execKLdi, off]
  rfl

theorem slotRead_byte (ea : Word) (i : Nat) :
    slotRead s (padAddrs s.cur.toNat (padOff ea + i) 1) = (slotByte s s.regs.id.tag s.fresh (padAt s ea i)).toNat := by
  have place : padOf s.cur.toNat + (padOff ea + i + 0) % 2 ^ 21 = padAt s ea i := by
    rw [Nat.add_zero, padOff, Nat.mod_add_mod, padAt]
  rw [← place]
  exact Nat.add_zero _

/-- R153: each of 64 bytes as the scale word of its code. -/
theorem kLdmx_loads (k : BitVec 3) (a b : BitVec 6) {t : BitVec 5} (ht : t.toNat ∈ [25, 26, 27]) :
    ∃ f v, exec (.kLdmx k a b t) s = .next (withFresh (withResults s (resultsAt s .K 5 [.scale k.toNat 0 2048] v)) f) ∧
      ∀ i < 64, ∃ x : Byte, MayRead s (padAt s (s.bridge a + s.bridge b) i) x ∧ lane 32 v i = mxScale x.toNat t := by
  refine ⟨s.fresh + 2 ^ 52, execKLdmx.ofWords ((List.range 64).map (fun i =>
    mxScale (slotByte s s.regs.id.tag s.fresh (padAt s (s.bridge a + s.bridge b) i)).toNat t)), ?_, fun i hi =>
    ⟨_, mayRead_slotByte s s.fresh _, ?_⟩⟩
  · show execKLdmx k a b t s = _
    simp only [execKLdmx, mxWord_eq ht, slotRead_byte, result_eq]
    rfl
  · rw [execKLdmx.ofWords, lane_ofWords _ (fun y hy => ?_) hi, nth_range_map hi]
    obtain ⟨n, -, rfl⟩ := List.mem_map.1 hy
    exact mxScale_lt (BitVec.isLt _) t

theorem kSet_result (k : BitVec 3) (a b : BitVec 6) : exec (.kSet k a b) s =
    .next (withResults s (resultsAt s .K 2 [.scale k.toNat (32 * ((s.bridge b).toNat % 64)) 32] (wordVec (s.bridge a)))) := by
  have low : bitsN (s.bridge b).toNat 0 6 = (s.bridge b).toNat % 64 := by rw [bitsN, pow_zero, Nat.div_one]; rfl
  show execKSet k a b s = _
  rw [execKSet, result_eq, low]

theorem foldr_range_map (n m : Nat) (f : Nat → Nat) :
    (List.range m).foldr (fun i acc => f i + 2 ^ n * acc) 0 = ((List.range m).map f).foldr (fun e acc => e + 2 ^ n * acc) 0 := by
  rw [List.foldr_map]

theorem kRot_result (k : BitVec 3) (b : BitVec 6) :
    ∃ v, exec (.kRot k b) s = .next (withResults s (resultsAt s .K 2 [.scale k.toNat 0 2048] v)) ∧
      ∀ i < 64, lane 32 v i = lane 32 (vget s.regs.scale k.toNat 0) ((i + (s.bridge b).toNat) % 64) := by
  refine ⟨_, congrArg Outcome.next (result_eq s .K 2 _ _), fun i hi => ?_⟩
  rw [foldr_range_map 32 64 (fun i => bitsN _ (32 * ((i + (s.bridge b).toNat) % 64)) 32), lane_ofWords _ (fun y hy => ?_) hi,
    nth_range_map hi]
  · rfl
  · obtain ⟨n, -, rfl⟩ := List.mem_map.1 hy
    exact Nat.mod_lt _ (Nat.two_pow_pos 32)

theorem kClr_result (k : BitVec 3) :
    ∃ v, exec (.kClr k) s = .next (withResults s (resultsAt s .K 2 [.scale k.toNat 0 2048] v)) ∧
      ∀ i < 64, lane 32 v i = 0x01000000 := by
  refine ⟨_, congrArg Outcome.next (result_eq s .K 2 _ _), fun i hi => ?_⟩
  rw [foldr_range_map 32 64 (fun _ => 0x01000000), lane_ofWords _ (fun y hy => ?_) hi, nth_range_map hi]
  obtain ⟨n, -, rfl⟩ := List.mem_map.1 hy
  decide

theorem scaleRegisters : Claim.ScaleRegisters :=
  ⟨fun _ => rfl,
    fun _ k a b ha => ⟨kLd_loads k a b ha, fun h => kLdh_loads k a b h ha, kSt_eq k a b ha⟩,
    fun _ k a b ha => ⟨congrArg Outcome.next (scaleLoad_misaligned k 0 256 ha),
      fun _ => congrArg Outcome.next (scaleLoad_misaligned k _ 128 ha), kSt_misaligned k a b ha⟩,
    fun _ _ k _ _ _ hi hq ha => kLdi_loads k hi hq ha,
    fun _ _ k _ _ _ ht hq ha => kLdi_misaligned k ht hq ha,
    fun _ _ k p o x hq => kLdi_suppressed k p o x hq,
    fun _ k a b _ ht => kLdmx_loads k a b ht,
    fun _ k a b => kSet_result k a b,
    fun s _ _ => congrArg Outcome.next (result_eq s .K 2 _ _),
    fun _ k b => kRot_result k b, fun _ k => kClr_result k⟩

end Sys2Proof.Machine

namespace Sys2Proof

open Machine

/-- Settles O14. -/
theorem scratchpadReads : Obligations.ScratchpadReads := by
  unfold Obligations.ScratchpadReads
  exact ⟨scratchpadLoads, scratchpadLoadTraps, scaleRegisters⟩

end Sys2Proof
end

section
/-! PROOF. A run that is done with the lines of other modules gives their requests up; its instruction alone does not (O50). -/

namespace Sys2Proof.Machine

/-- Queue 0 runs on die 0, at a `qb.nop`; module 1 has answered its request for line 0, and the answer is still kept. -/
def answeredRun : State := { State.reset with
  queues := [(0, { Queue.reset with st := .running, mapped := true, prog := [0], cur := some 0, entered := true })]
  disps := [(0, { Disp.reset with run := some 0 })]
  podreqs := [⟨0, 1, 0, 0, [0], .unit 512 0 false, some 0⟩] }

/-- The dispatcher's act ends with `farRest`, which drops the answered request. -/
theorem queueRun_answeredRun : exec (.queueRun 0) answeredRun = .next { advanceRun 0 answeredRun with podreqs := [] } := rfl

theorem qbNop_answeredRun : exec .qbNop { answeredRun with cur := 0 } = .next (advanceRun 0 answeredRun) := rfl

/-- No field of the queue's record has changed, so that none is saved. -/
theorem saveChanged_answeredRun : saveChanged answeredRun (advanceRun 0 answeredRun) = advanceRun 0 answeredRun := rfl

end Sys2Proof.Machine

namespace Sys2Proof

open Machine

/-- Refutes O50: a dispatcher's act is the instruction of its word and then `farRest`, so that in `answeredRun` the request that
module 1 has answered is gone after QUEUE_RUN, and not after the `qb.nop` that it runs. -/
theorem not_stepRunsInstruction : ¬ Obligations.StepRunsInstruction := by
  unfold Obligations.StepRunsInstruction
  rintro ⟨-, -, -, -, -, -, -, -, runs⟩
  have same := runs answeredRun 0 0 .qbNop (advanceRun 0 answeredRun) rfl rfl rfl qbNop_answeredRun
  rw [queueRun_answeredRun] at same
  have requests := congrArg (fun o => match o with | Host.Outcome.next t => t.podreqs.length | _ => 0)
    (same.trans (congrArg _ saveChanged_answeredRun))
  exact absurd requests (by decide)

end Sys2Proof
end

section
/-! PROOF. The order of checks of a global access (R387), for a slot that holds the translations it has asked for. -/

namespace Sys2Proof.Machine

variable {s : State} {x : Acc} {hold : State → State} {trap : Nat → Word → State → State} {queue : Option Nat → State → State}

/-! ### What the pages of an access give together -/

theorem reach_leaves {look : Nat → Look} {l : List Nat} (h : ∀ a ∈ l, ∃ f, look a = .leaf f) : reach look l = .go := by
  induction l with
  | nil => rfl
  | cons a r ih =>
    obtain ⟨⟨f, hf⟩, hr⟩ := List.forall_mem_cons.1 h
    rw [reach, hf]
    exact ih hr

/-- The pages that translate do not decide. -/
theorem reach_append {look : Nat → Look} {pre l : List Nat} (h : ∀ a ∈ pre, ∃ f, look a = .leaf f) :
    reach look (pre ++ l) = reach look l := by
  induction pre with
  | nil => rfl
  | cons a r ih =>
    obtain ⟨⟨f, hf⟩, hr⟩ := List.forall_mem_cons.1 h
    rw [List.cons_append, reach, hf]
    exact ih hr

/-! ### One access -/

theorem issueAccess_outside (h : 2 ^ 60 < x.va.toNat + x.n) :
    issueAccess x hold trap queue s = trap 0x10 x.va (dropWalks x.w s) := if_pos h

theorem issueAccess_faults {c : Nat} {a : Word} (h : FaultsAt s x.w x.va.toNat x.n x.kind c a) :
    issueAccess x hold trap queue s = trap c a (dropWalks x.w s) := by
  obtain ⟨inside, pre, v, post, pages, look, rfl, before⟩ := h
  have reached : reach (fun a => lookAt s s.cur.toNat x.w a x.kind) (pagesOf x.va.toNat x.n) = .trap c v := by
    rw [pages, reach_append before, reach, look]
  rw [issueAccess, if_neg (Nat.not_lt.2 inside), reached]

theorem issueAccess_parks {e : Nat} (h : MustPark s x.w x.va.toNat x.n x.kind e) (ok : x.ok = true) :
    issueAccess x hold trap queue s = queue (some e) s := by
  obtain ⟨inside, hits, pre, v, post, pages, look, before⟩ := h
  have reached : reach (fun a => lookAt s s.cur.toNat x.w a x.kind) (pagesOf x.va.toNat x.n) = .park e := by
    rw [pages, reach_append before, reach, look]
  rw [issueAccess, if_neg (Nat.not_lt.2 inside), reached]
  simp [hits, ok]

/-- The walks and the watchpoints let the access on: its alignment is next, and then each of its words. -/
theorem issueAccess_translated {own : Nat → Option Nat} (h : MayAccess s x.w x.va.toNat x.n x.kind own) :
    issueAccess x hold trap queue s =
      if !x.ok then trap 0x15 x.va (dropWalks x.w s)
      else match (wordsOf x.va.toNat x.n).findSome? (fun a =>
          match accessFault s x.kind (lookPa s s.cur.toNat x.w a x.kind) a with
          | some f => some f
          | none => (x.own (lookPa s s.cur.toNat x.w a x.kind)).map (fun c => (c, x.va.toNat))) with
        | some (c, a) => trap c (BitVec.ofNat 64 a) (dropWalks x.w s)
        | none => queue none s := by
  obtain ⟨inside, hits, leaves, -⟩ := h
  rw [issueAccess, if_neg (Nat.not_lt.2 inside), reach_leaves leaves]
  simp only [hits, ite_self, List.isEmpty_nil, Bool.not_true, Bool.false_and, Bool.false_eq_true, if_false]
  rfl

theorem issueAccess_misaligned {own : Nat → Option Nat} (h : MayAccess s x.w x.va.toNat x.n x.kind own) (ok : x.ok = false) :
    issueAccess x hold trap queue s = trap 0x15 x.va (dropWalks x.w s) := by
  rw [issueAccess_translated h, ok]
  rfl

theorem issueAccess_enters (h : MayAccess s x.w x.va.toNat x.n x.kind x.own) (ok : x.ok = true) :
    issueAccess x hold trap queue s = queue none s := by
  rw [issueAccess_translated h, ok]
  obtain ⟨-, -, -, words⟩ := h
  rw [List.findSome?_eq_none_iff.2 fun a ha => ?_]
  · rfl
  · obtain ⟨right, own⟩ := words a ha
    rw [right, own]
    rfl

/-! ### What an acquire's emptying of the L1 leaves -/

theorem settleAcq_cases (s : State) : settleAcq s = s ∨
    settleAcq s = s.modMe (fun c => { c with cache := { c.cache with l1 := [], acq := false } }) := by
  unfold settleAcq
  split
  · exact .inr rfl
  · exact .inl rfl

theorem cur_settleAcq (s : State) : (settleAcq s).cur = s.cur := by
  obtain h | h := settleAcq_cases s
  all_goals rw [h]
  rfl

theorem now_settleAcq (s : State) : (settleAcq s).now = s.now := by
  obtain h | h := settleAcq_cases s
  all_goals rw [h]
  rfl

theorem pipe_settleAcq (s : State) : (settleAcq s).pipe = s.pipe := by
  obtain h | h := settleAcq_cases s
  · rw [h]
  · rw [h, State.pipe, me_modMe]
    rfl

theorem lookAt_settleAcq (s : State) (w : Bool) (va kind : Nat) :
    lookAt (settleAcq s) s.cur.toNat w va kind = lookAt s s.cur.toNat w va kind := by
  obtain h | h := settleAcq_cases s
  · rw [h]
  · have me : (settleAcq s).core s.cur.toNat =
        { s.core s.cur.toNat with cache := { (s.core s.cur.toNat).cache with l1 := [], acq := false } } := by
      rw [h]
      exact me_modMe s _
    have quad (q : Nat) : (settleAcq s).quad q = s.quad q := by rw [h, quad_modMe]
    rw [lookAt, lookAt, me, quad]
    cases w <;> rfl

theorem unitPas_settleAcq (s : State) (w : Bool) (va kind ulen n : Nat) :
    unitPas (settleAcq s) w va kind ulen n = unitsAt s w va kind ulen n := by
  simp only [unitPas, unitsAt, lookPa, cur_settleAcq, lookAt_settleAcq]

theorem newStore_settleAcq (s : State) (op : StOp) (va : Word) (n ulen : Nat) (units : List Nat) (park : Option Nat) (v : Nat) :
    newStore (settleAcq s) op va n ulen units park v = newStore s op va n ulen units park v := by
  simp only [newStore, State.wHead, pipe_settleAcq, now_settleAcq]

end Sys2Proof.Machine
end

section
/-! PROOF. The global stores of W (O17). -/

namespace Sys2Proof.Machine

variable {s : State} {e : WEntry} {r : List WEntry}

/-! ### The head of W's queue -/

theorem wHead_eq (h : s.pipe.wq = e :: r) : s.wHead = e := by rw [State.wHead, h]

theorem wEa_eq (h : s.pipe.wq = e :: r) : s.wEa = wAddr e := by rw [State.wEa, State.wA, State.wB, wHead_eq h, wAddr]

theorem earlierDone_eq (h : s.pipe.wq = e :: r) (c : BitVec 3) :
    earlierDone s c.toNat = (decide (c = 0) || allBefore s.pipe (2 * e.bn + 1)) := by
  have zero : c.toNat = 0 ↔ c = 0 := BitVec.toNat_inj (y := 0)
  rw [earlierDone, wHead_eq h]
  simp only [zero]

/-- The walks of W are used up; its queue stands. -/
theorem wq_dropWalks (s : State) : (dropWalks true s).pipe.wq = s.pipe.wq := by
  rw [dropWalks, State.pipe, me_modMe]
  rfl

theorem wStoreTrap_dropWalks (h : s.pipe.wq = e :: r) (c : Nat) (a : Word) :
    wStoreTrap (dropWalks true s) c a (dropWalks true s).wHead.d = wTraps (dropWalks true s) e c a := by
  have queue : (dropWalks true s).pipe.wq = e :: r := (wq_dropWalks s).trans h
  rw [wStoreTrap, wTraps, wTrap, State.wBundleAt, wHead_eq queue, queue]

/-! ### A global store, by what its access meets -/

theorem globalStore_full (h : ¬StoreRoom s) (op : StOp) (n ulen al v : Nat) (ea : Word) (own : Nat → Option Nat) :
    globalStore op n ulen al v ea own s = s := if_pos (decide_eq_true (Nat.not_lt.1 h))

theorem withStoreEntry_room (h : StoreRoom s) (k : State → State) : withStoreEntry s k = k s :=
  if_neg fun full => Nat.not_le.2 h (of_decide_eq_true full)

theorem noChannel_eq : noChannel = spaceOf false := by
  funext pa
  simp [noChannel, spaceOf, cAPERTURE_OP]

/-- The access of a plain store, and what it enters: the request is as the state before the L1 is emptied gives it. -/
theorem globalStore_room (h : StoreRoom s) (op : StOp) (n ulen v : Nat) (ea : Word) :
    globalStore op n ulen ulen v ea noChannel s =
      issueAccess ⟨true, ea, n * ulen, 1, true, ea.toNat % ulen = 0, spaceOf false⟩ wHold
        (fun c a s => wStoreTrap s c a s.wHead.d)
        (fun park s => storeEnters s
          (newStore s op ea n ulen (if park.isSome then [] else unitsAt s true ea.toNat 1 ulen n) park v)) s := by
  rw [globalStore, withStoreEntry_room h, noChannel_eq]
  simp only [storeEnters, newStore_settleAcq, unitPas_settleAcq]

/-- What O17 says of a store of n units, x its data. -/
theorem globalStore_meets (hq : s.pipe.wq = e :: r) (hr : StoreRoom s) (op : StOp) (n ulen : Nat) (ea : Word) (x : Vec)
    {i : Instr} (hi : exec i s = .next (globalStore op n ulen ulen x.toNat ea noChannel s)) :
    (ea.toNat % ulen = 0 → MayAccess s true ea.toNat (n * ulen) 1 (spaceOf false) →
      exec i s = .next (storeEnters s (newStore s op ea n ulen (unitsAt s true ea.toNat 1 ulen n) none x.toNat))) ∧
    (∀ k, ea.toNat % ulen = 0 → MustPark s true ea.toNat (n * ulen) 1 k →
      exec i s = .next (storeEnters s (newStore s op ea n ulen [] (some k) x.toNat))) ∧
    (2 ^ 60 < ea.toNat + n * ulen → exec i s = .next (wTraps (dropWalks true s) e 0x10 ea)) ∧
    (∀ c a, FaultsAt s true ea.toNat (n * ulen) 1 c a → exec i s = .next (wTraps (dropWalks true s) e c a)) ∧
    (ea.toNat % ulen ≠ 0 → MayAccess s true ea.toNat (n * ulen) 1 (fun _ => none) →
      exec i s = .next (wTraps (dropWalks true s) e 0x15 ea)) := by
  rw [globalStore_room hr] at hi
  refine ⟨fun ok may => ?_, fun k ok park => ?_, fun out => ?_, fun c a fault => ?_, fun bad may => ?_⟩
  · exact hi.trans (congrArg _ (issueAccess_enters may (decide_eq_true ok)))
  · exact hi.trans (congrArg _ (issueAccess_parks park (decide_eq_true ok)))
  · exact hi.trans (congrArg _ ((issueAccess_outside out).trans (wStoreTrap_dropWalks hq _ _)))
  · exact hi.trans (congrArg _ ((issueAccess_faults fault).trans (wStoreTrap_dropWalks hq _ _)))
  · exact hi.trans (congrArg _ ((issueAccess_misaligned may (decide_eq_false bad)).trans (wStoreTrap_dropWalks hq _ _)))

/-! ### The forms -/

/-- A vector is its elements. -/
theorem eq_of_lanes {n : Nat} {x y : Vec} (hd : n ∣ 2048) (h : ∀ i < 2048 / n, lane n x i = lane n y i) : x = y := by
  obtain ⟨m, size⟩ := hd
  have pos : 0 < n := Nat.pos_of_ne_zero fun zero => by simp [zero] at size
  refine BitVec.eq_of_getLsbD_eq fun k hk => ?_
  have row : k / n < 2048 / n := by
    rw [size, Nat.mul_div_cancel_left m pos]
    exact Nat.div_lt_of_lt_mul (size ▸ hk)
  have bit (v : Vec) : (lane n v (k / n)).testBit (k % n) = v.getLsbD k := by
    rw [lane, field, testBit_bitsN, Nat.div_add_mod, decide_eq_true (Nat.mod_lt k pos), Bool.true_and, BitVec.getLsbD]
  rw [← bit x, ← bit y, h _ row]

/-- R135: a splat of an element is the vector whose elements it is. -/
theorem fillNat_eq {n : Nat} {x d : Vec} (hd : n ∣ 2048) (h : ∀ i < 2048 / n, lane n x i = lane n d 0) :
    fillNat n d = x.toNat := by
  have low : deliver (.splat n) d.toNat = deliver (.splat n) (lane n d 0) := by
    rw [deliver, deliver, lane, Nat.mul_zero, field, bitsN, pow_zero, Nat.div_one, Nat.mod_mod]
  rw [fillNat, low]
  have small : lane n d 0 < 2 ^ n := Nat.mod_lt _ (Nat.two_pow_pos n)
  exact congrArg _ (eq_of_lanes hd fun i hi => (lane_splat small hi).trans (h i hi).symm)

theorem tyWidth_dvd {t : BitVec 5} (h : t.toNat ≤ 12) : tyWidth t.toNat ∣ 2048 := by
  obtain h | h | h | h := tyWidth_cases h
  all_goals rw [h]; decide

/-- Every form is a store of its units, aligned to one of them. -/
theorem exec_storeForm {i : Instr} {op : StOp} {n ulen : Nat} {ea : Word} {x : Vec} (hq : s.pipe.wq = e :: r)
    (h : StoreForm s e i op n ulen ea x) : exec i s = .next (globalStore op n ulen ulen x.toNat ea noChannel s) := by
  have head := wHead_eq hq
  have addr := wEa_eq hq
  cases h with
  | stg d a b t =>
    show Host.Outcome.next (scalarStore .plain t s.wHead.d.toNat s.wEa s) = _
    rw [head, addr, scalarStore]
  | stgx d a b =>
    show Host.Outcome.next (vectorStore .plain s.wHead.d.toNat s.wEa s) = _
    rw [head, addr, vectorStore]
  | stgi j p o d q =>
    show Host.Outcome.next (if s.wHead.q then _ else _) = _
    rw [head, if_pos q, vectorStore]
  | stgsc d a b t ht x lanes =>
    show Host.Outcome.next (vectorStore .plain (fillNat (tyWidth t.toNat) s.wHead.d) s.wEa s) = _
    rw [head, addr, vectorStore, fillNat_eq (tyWidth_dvd ht) lanes]
  | stnt d a b =>
    show Host.Outcome.next (vectorStore .nt s.wHead.d.toNat s.wEa s) = _
    rw [head, addr, vectorStore]
  | strel c a b t ht turn =>
    show Host.Outcome.next (if earlierDone s c.toNat then _ else _) = _
    rw [earlierDone_eq hq, if_pos (by simpa using turn), head, scalarStore, State.wA, head]

/-- R133: a store through a base register whose stage bit was clear is dropped. -/
theorem wStgi_dropped (hq : s.pipe.wq = e :: r) (h : e.q = false) (j : BitVec 3) (p : BitVec 1) (o : BitVec 11) (d : BitVec 6) :
    exec (.wStgi j p o d) s = .next (wIssued s) := by
  show Host.Outcome.next (if s.wHead.q then _ else wPop s) = _
  rw [wHead_eq hq, if_neg (by simp [h])]
  rfl

theorem wStrel_holds (hq : s.pipe.wq = e :: r) {c : BitVec 3} (hc : c ≠ 0) (h : allBefore s.pipe (2 * e.bn + 1) = false)
    (a b : BitVec 6) (t : BitVec 5) : exec (.wStrel c a b t) s = .next s := by
  show Host.Outcome.next (if earlierDone s c.toNat then _ else wHold s) = _
  rw [earlierDone_eq hq, if_neg (by simpa [h] using hc), wHold]

end Sys2Proof.Machine

namespace Sys2Proof

open Machine

/-- Settles O17. -/
theorem globalStores : Obligations.GlobalStores := by
  unfold Obligations.GlobalStores
  exact ⟨fun _ _ _ _ op n ulen ea x hq form room => globalStore_meets hq room op n ulen ea x (exec_storeForm hq form),
    fun _ _ _ _ op n ulen ea _ hq form full =>
      (exec_storeForm hq form).trans (congrArg _ (globalStore_full full op n ulen ulen _ ea _)),
    fun _ _ _ j p o d hq q => wStgi_dropped hq q j p o d,
    fun _ _ _ _ a b t hq hc before => wStrel_holds hq hc before a b t⟩

end Sys2Proof
end

section
/-! PROOF. What walks, wakes and journalling leave alone: `Aside s t` says that since s nothing of memory, of the links, of the contexts
and of which task runs on a core has changed. -/

namespace Sys2Proof.Machine

variable {s t : State}

/-- Memory, the links, the contexts and the tasks of the cores are those of s. -/
def Aside (s t : State) : Prop :=
  t.mem = s.mem ∧ t.links = s.links ∧ t.ctxs = s.ctxs ∧
  ∀ m, (t.core m).regs.run = (s.core m).regs.run ∧ (t.core m).regs.id = (s.core m).regs.id

/-- A change of a core that leaves its task running as it did. -/
def KeepsTask (f : Core → Core) : Prop := ∀ c, (f c).regs.run = c.regs.run ∧ (f c).regs.id = c.regs.id

theorem aside_refl (s : State) : Aside s s := ⟨rfl, rfl, rfl, fun _ => ⟨rfl, rfl⟩⟩

theorem aside_trans {u : State} (h : Aside s t) (k : Aside t u) : Aside s u := by
  obtain ⟨hm, hl, hc, ht⟩ := h
  obtain ⟨km, kl, kc, kt⟩ := k
  exact ⟨km.trans hm, kl.trans hl, kc.trans hc, fun m => ⟨(kt m).1.trans (ht m).1, (kt m).2.trans (ht m).2⟩⟩

/-- A state that differs in none of these parts. -/
theorem aside_of_eq {u : State} (h : Aside s t) (hm : u.mem = t.mem) (hl : u.links = t.links) (hc : u.ctxs = t.ctxs)
    (hs : u.cores = t.cores) : Aside s u :=
  aside_trans h ⟨hm, hl, hc, fun m => by simp only [State.core, hs, and_self]⟩

theorem aside_modCore {n : Nat} {f : Core → Core} (hf : KeepsTask f) (h : Aside s t) : Aside s (t.modCore n f) := by
  refine aside_trans h ⟨rfl, rfl, rfl, fun m => ?_⟩
  by_cases e : m = n
  · rw [e, core_modCore_same]
    exact hf (t.core n)
  · rw [core_modCore_ne t f e]
    exact ⟨rfl, rfl⟩

theorem aside_modQuad {q : Nat} {f : Quad → Quad} (h : Aside s t) : Aside s (t.modQuad q f) := aside_of_eq h rfl rfl rfl rfl

theorem aside_modDbg {d : Nat} {f : Dbg → Dbg} (h : Aside s t) : Aside s (t.modDbg d f) := aside_of_eq h rfl rfl rfl rfl

theorem aside_ite {c : Prop} [Decidable c] {u : State} (ht : Aside s t) (hu : Aside s u) : Aside s (if c then t else u) := by
  split
  · exact ht
  · exact hu

theorem aside_foldl {α : Type} {f : State → α → State} {l : List α} (g : ∀ t x, Aside s t → Aside s (f t x)) (h : Aside s t) :
    Aside s (l.foldl f t) := foldl_keeps g l h

theorem aside_snd {α : Type} {p : α × State} {a : α} {u : State} (e : p = (a, u)) (h : Aside s p.2) : Aside s u := by
  rw [e] at h
  exact h

theorem keepsTask_modPipeOf {o : Bool} {f : Pipe → Pipe} : KeepsTask (fun c => c.modPipeOf o f) := by
  intro c
  cases o <;> exact ⟨rfl, rfl⟩

theorem keepsTask_modPipe {f : Pipe → Pipe} : KeepsTask (fun c => c.modPipe f) := by
  intro c
  exact ⟨coreModPipe_regs_run c f, coreModPipe_regs_id c f⟩

/-! ### Walks -/

theorem aside_traceSource {d code : Nat} {ok : Trace → Word → Bool} (h : Aside s t) : Aside s (traceSource t d code ok) :=
  aside_ite (aside_modDbg h) h

theorem aside_monRecord {d src tag core v : Nat} (h : Aside s t) : Aside s (monRecord t d src tag core v) :=
  aside_ite h (aside_traceSource (aside_modDbg h))

theorem aside_dropLeaf {n tag va : Nat} (h : Aside s t) : Aside s (dropLeaf n tag va t) :=
  aside_modCore (fun _ => ⟨rfl, rfl⟩) (aside_modQuad h)

theorem aside_enterLeaf {n : Nat} {fetch : Bool} {l : Leaf} (h : Aside s t) : Aside s (enterLeaf n fetch l t) := by
  unfold enterLeaf
  extract_lets k s1 s2
  have h1 : Aside s s1 := aside_modQuad h
  have h2 : Aside s s2 := aside_modCore (fun c => by cases fetch <;> exact ⟨rfl, rfl⟩) h1
  exact aside_of_eq h2 rfl rfl rfl rfl

theorem aside_postPark {q bits : Nat} {r : PageReq} (h : Aside s t) : Aside s (postPark q bits r t) :=
  aside_ite h (aside_modQuad h)

theorem aside_walkEnds {n tag va kind : Nat} {fetch : Bool} {cause : Option Nat} {out : WalkOut} (h : Aside s t) :
    Aside s (walkEnds n tag fetch va kind cause out t).2 := by
  have tables : Aside s (enterTables (n / 4) tag out t) := aside_modQuad h
  unfold walkEnds
  split
  · exact aside_of_eq h rfl rfl rfl rfl
  · dsimp only
    split
    · exact aside_enterLeaf tables
    · split
      · exact aside_postPark tables
      · exact tables
    · exact tables

theorem aside_coreWalk {n va : Nat} {fetch : Bool} (h : Aside s t) : Aside s (coreWalk n fetch va t).2 := by
  unfold coreWalk
  dsimp only
  rw [apply_ite Prod.snd]
  exact aside_ite (aside_dropLeaf h) h

theorem aside_walkNow {n va kind : Nat} {cause : Option Nat} (h : Aside s t) : Aside s (walkNow n va kind cause t).2 := by
  unfold walkNow
  extract_lets c tag
  split
  · exact h
  · exact aside_walkEnds (aside_coreWalk (aside_monRecord h))

/-! ### Fills of windows, and accesses that walk again -/

theorem aside_modPipe {f : Pipe → Pipe} (h : Aside s t) : Aside s (t.modPipe f) := aside_modCore keepsTask_modPipe h

theorem aside_setWin {n : Nat} {w : Window} (h : Aside s t) : Aside s (t.setWin n w) := aside_modCore (fun _ => ⟨rfl, rfl⟩) h

theorem aside_fillUnits {va : Nat} (h : Aside s t) : Aside s (fillUnits va t).2 := by
  unfold fillUnits
  split
  · exact h
  · split
    · exact aside_snd ‹_› (aside_walkNow h)
    · exact aside_snd ‹_› (aside_walkNow h)

theorem aside_startFill {n j bn : Nat} {addr : Word} (h : Aside s t) : Aside s (startFill n j bn addr t) :=
  aside_modPipe (aside_setWin (aside_fillUnits h))

theorem aside_wakeSlots {wake : Nat → Bool} (h : Aside s t) : Aside s (wakeSlots wake t) := by
  refine aside_foldl (fun u n hu => aside_foldl (fun v j hv => ?_) hu) h
  split
  · exact aside_ite (aside_startFill hv) hv
  · exact hv

/-- Acting as another core leaves alone what the act does. -/
theorem aside_atCore {n : Nat} {f : State → State} (hf : ∀ u, Aside s u → Aside s (f u)) (h : Aside s t) : Aside s (atCore n f t) :=
  have there : Aside s { t with cur := BitVec.ofNat 11 n } := aside_of_eq h rfl rfl rfl rfl
  aside_of_eq (hf _ there) rfl rfl rfl rfl

theorem aside_rewalkPages {n kind : Nat} {cause : Option Nat} {l : List Nat} (h : Aside s t) :
    Aside s (rewalkPages n kind cause l t).2 := by
  induction l generalizing t with
  | nil => exact h
  | cons va l ih =>
    have walked : Aside s (walkNow n va kind cause t).2 := aside_walkNow h
    unfold rewalkPages
    split
    · exact aside_snd ‹_› walked
    · exact aside_snd ‹_› walked
    · exact aside_snd ‹_› walked
    · have rest := ih (aside_snd ‹_› walked)
      split
      · exact aside_snd ‹_› rest
      · exact rest

theorem aside_rewalk {α : Type} {n kind : Nat} {cause : Option Nat} {own : Nat → Option Nat} {r : Req α} (h : Aside s t) :
    Aside s (rewalk n kind cause own r t).1 := by
  have walked (l : List Nat) : Aside s (rewalkPages n kind cause l t).2 := aside_rewalkPages h
  unfold rewalk
  dsimp only
  split
  · exact aside_snd ‹_› (walked _)
  · exact aside_snd ‹_› (walked _)
  · exact aside_snd ‹_› (walked _)
  · split <;> exact aside_snd ‹_› (walked _)

theorem aside_absentPages {n : Nat} {l : List Nat} (h : Aside s t) : Aside s (absentPages n l t).2.2 := by
  induction l generalizing t with
  | nil => exact h
  | cons va l ih =>
    have walked : Aside s (walkNow n va 4 none t).2 := aside_walkNow h
    unfold absentPages
    split
    · exact aside_snd ‹_› walked
    · have rest := ih (aside_snd ‹_› walked)
      split
      · rename_i e
        rwa [e] at rest
      · exact rest
    · split
      · exact ih (aside_snd ‹_› walked)
      · exact aside_snd ‹_› walked
    · exact ih (aside_snd ‹_› walked)

theorem aside_rewalkLdr {n : Nat} {o : Bool} {r : Req LdOp} (h : Aside s t) : Aside s (rewalkLdr n o r t).1 := by
  have walked (l : List Nat) : Aside s (absentPages n l t).2.2 := aside_absentPages h
  unfold rewalkLdr
  dsimp only
  split
  · rename_i e
    exact (congrArg (fun p => Aside s p.2.2) e).mp (walked _)
  · rename_i e
    exact (congrArg (fun p => Aside s p.2.2) e).mp (walked _)
  · rename_i e
    exact (congrArg (fun p => Aside s p.2.2) e).mp (walked _)
  · rename_i e
    have went := (congrArg (fun p => Aside s p.2.2) e).mp (walked _)
    split
    · exact went
    · exact aside_modCore keepsTask_modPipeOf went

theorem aside_rewalkLoad {n : Nat} {o : Bool} {r : Req LdOp} (h : Aside s t) : Aside s (rewalkLoad n o r t).1 := by
  unfold rewalkLoad
  dsimp only
  split
  · exact aside_rewalkLdr h
  · split <;> exact aside_rewalk h

theorem aside_rewalkAll {α : Type} {walk : Req α → State → State × List (Req α)} {pick : Req α → Bool} {l : List (Req α)}
    (hw : ∀ r u, Aside s u → Aside s (walk r u).1) (h : Aside s t) : Aside s (rewalkAll walk pick t l).1 := by
  refine foldl_keeps (P := fun p : State × List (Req α) => Aside s p.1) (fun p r hp => ?_) l h
  dsimp only
  split
  · exact hw r _ hp
  · exact hp

theorem aside_failBack {n : Nat} {r : Req StOp} (h : Aside s t) : Aside s (failBack n r t) := by
  unfold failBack
  split
  · refine aside_modCore (fun c => ?_) h
    unfold Core.modRegs
    dsimp only
    split <;> exact ⟨rfl, rfl⟩
  · exact h

theorem aside_rewalkStore {n : Nat} {r : Req StOp} (h : Aside s t) : Aside s (rewalkStore n r t).1 := aside_rewalk h

theorem aside_rewalkPipe {n : Nat} {o : Bool} {pickL : Req LdOp → Bool} {pickS : Req StOp → Bool} (h : Aside s t) :
    Aside s (rewalkPipe n o pickL pickS t) :=
  aside_foldl (fun _ _ hu => aside_failBack hu) (aside_modCore keepsTask_modPipeOf
    (aside_rewalkAll (walk := rewalkStore n) (fun _ _ hu => aside_rewalkStore hu)
      (aside_rewalkAll (walk := rewalkLoad n o) (fun _ _ hu => aside_rewalkLoad hu) h)))

theorem aside_endPark {n : Nat} (h : Aside s t) : Aside s (endPark n t) := by
  unfold endPark
  dsimp only
  split
  · exact h
  · exact aside_monRecord (aside_modCore (fun _ => ⟨rfl, rfl⟩) h)

end Sys2Proof.Machine
end

section
/-! PROOF. A termination leaves the links alone, and no task of its context runs after it (R260). -/

namespace Sys2Proof.Machine

variable {s t : State} {l : FMap Link}

/-- A map's default at a key that it does not list. -/
theorem fget_of_not_key {α : Type} {d : α} {m : FMap α} {n : Nat} (h : n ∉ m.map (fun e => e.1)) : fget d m n = d := by
  induction m with
  | nil => rfl
  | cons e m ih =>
    rw [List.map_cons, List.mem_cons, not_or] at h
    rw [fget, if_neg (Ne.symm h.1), ih h.2]

/-! ### Journalling and commands leave the links alone -/

theorem links_ite {c : Prop} [Decidable c] {u : State} (ht : t.links = l) (hu : u.links = l) : (if c then t else u).links = l := by
  split
  · exact ht
  · exact hu

theorem links_foldl {α : Type} {f : State → α → State} {xs : List α} (g : ∀ t x, t.links = l → (f t x).links = l)
    (h : t.links = l) : (xs.foldl f t).links = l := foldl_keeps (P := fun u : State => u.links = l) g xs h

theorem links_memWrite {tag : Nat} {xs : List (Nat × Byte)} (h : t.links = l) : (memWrite tag xs t).links = l :=
  links_foldl (fun _ _ hu => links_ite hu hu)
    (links_foldl (fun _ _ hu => links_ite hu (links_ite (links_ite hu hu) (links_ite hu hu))) h)

theorem links_journalWrite {d tag va n v : Nat} (h : t.links = l) : (journalWrite d tag va n v t).links = l :=
  links_memWrite (t := t) h

theorem links_putRecord {d tag : Nat} {r : BitVec 256} (h : t.links = l) : (putRecord d tag r t).links = l := by
  unfold putRecord
  split
  · exact h
  · exact links_journalWrite (links_journalWrite h)

theorem links_flushHeld {d tag : Nat} {kept rs : List (BitVec 256)} (h : t.links = l) : (flushHeld d tag kept rs t).links = l := by
  induction rs generalizing kept t with
  | nil => exact h
  | cons r rs ih => exact links_ite (ih (links_putRecord h)) (ih h)

theorem links_journal {d tag : Nat} {r : BitVec 256} (h : t.links = l) : (journal d tag r t).links = l := links_flushHeld h

theorem links_dropPacket {q : Nat} {p : Packet} (h : t.links = l) : (dropPacket q p t).links = l := links_ite h h

theorem links_endPacket {q code detail : Nat} {p : Packet} (h : t.links = l) : (endPacket q p code detail t).links = l :=
  links_dropPacket (links_journal h)

theorem links_irqRequest {v : Nat} (h : t.links = l) : (irqRequest v t).links = l := links_ite (links_ite h h) h

theorem links_failPacket {q code detail : Nat} {p : Packet} (h : t.links = l) : (failPacket q p code detail t).links = l :=
  links_irqRequest (links_endPacket h)

theorem links_settlePacket {q n : Nat} (h : t.links = l) : (settlePacket q n t).links = l := by
  unfold settlePacket
  split
  · exact h
  · refine links_ite ?_ h
    split
    · exact links_failPacket h
    · exact links_dropPacket (links_journal h)

theorem links_settleToken {n k owner : Nat} {ok : Bool} (h : t.links = l) : (settleToken n k owner ok t).links = l :=
  links_foldl (fun _ _ hu => hu) h

theorem links_monRecord {d src tag core v : Nat} (h : t.links = l) : (monRecord t d src tag core v).links = l :=
  links_ite h (links_ite h h)

theorem links_endCmd {c code : Nat} {m : Cmd} {fail : Option Nat} (h : t.links = l) : (endCmd c m code fail t).links = l := by
  unfold endCmd
  extract_lets bad shown s1 s2 s3
  have h2 : s2.links = l := by
    unfold s2
    split
    · exact links_settleToken h
    · exact h
  have h3 : s3.links = l := by
    unfold s3
    split
    · exact links_settlePacket (links_ite h2 h2)
    · exact h2
  exact links_ite (links_monRecord h3) h3

theorem links_payloadPart {c : Nat} {x : Tmpl} (h : t.links = l) : (payloadPart c x t).links = l :=
  links_ite h (links_memWrite (t := t) h)

theorem links_failHead {c : Nat} (h : t.links = l) : (failHead c t).links = l := by
  unfold failHead
  split
  · split
    · exact links_endCmd h
    · exact links_payloadPart h
    · exact h
  · exact h

/-! ### The parts of a termination -/

theorem links_killQueue {q tag : Nat} (h : t.links = l) : (killQueue q tag t).links = l := by
  have ended : ∀ ps : List Packet, (ps.foldl (fun s p => endPacket q p (killCode s q p).1 (killCode s q p).2 s) t).links = l :=
    fun ps => links_foldl (fun _ _ hu => links_endPacket hu) h
  unfold killQueue
  exact links_ite (ended _) (links_memWrite (ended _))

theorem links_killQueues {tag : Nat} (h : t.links = l) : (killQueues tag t).links = l :=
  links_foldl (fun _ _ hu => links_killQueue hu) h

theorem links_killNodes {tag : Nat} (h : t.links = l) : (killNodes tag t).links = l :=
  links_foldl (fun _ _ hu => links_foldl (fun _ _ hv => hv) (links_foldl (fun _ _ hv => hv) hu)) h

/-- A suspended task that is put back on core n, whatever the core held: nothing else starts to run. -/
def PutBack (n : Nat) (r : CoreRegs) (s t : State) : Prop :=
  t.links = s.links ∧ t.ctxs = s.ctxs ∧ (t.core n).regs.run = r.run ∧ (t.core n).regs.id = r.id ∧
  ∀ m, m ≠ n → (t.core m).regs.run = (s.core m).regs.run ∧ (t.core m).regs.id = (s.core m).regs.id

theorem putBack_aside {n : Nat} {r : CoreRegs} {u : State} (h : PutBack n r s t) (k : Aside t u) : PutBack n r s u := by
  obtain ⟨hl, hc, hr, hi, ho⟩ := h
  obtain ⟨-, kl, kc, kt⟩ := k
  exact ⟨kl.trans hl, kc.trans hc, (kt n).1.trans hr, (kt n).2.trans hi,
    fun m e => ⟨(kt m).1.trans (ho m e).1, (kt m).2.trans (ho m e).2⟩⟩

theorem putBack_modCore {n : Nat} {f : Core → Core} (hl : t.links = s.links) (hc : t.ctxs = s.ctxs)
    (ho : ∀ m, m ≠ n → t.core m = s.core m) : PutBack n (f (t.core n)).regs s (t.modCore n f) := by
  refine ⟨hl, hc, by rw [core_modCore_same], by rw [core_modCore_same], fun m e => ?_⟩
  rw [core_modCore_ne t f e, ho m e]
  exact ⟨rfl, rfl⟩

theorem restorePad_keeps (n : Nat) (x : Susp) (s : State) :
    (restorePad n x s).links = s.links ∧ (restorePad n x s).ctxs = s.ctxs ∧ ∀ m, m ≠ n → (restorePad n x s).core m = s.core m := by
  unfold restorePad
  split
  · exact ⟨rfl, rfl, fun _ _ => rfl⟩
  · have moved : ∀ m, m ≠ n → (movePads n s).core m = s.core m := fun m e => core_modCore_ne s _ e
    exact ⟨rfl, rfl, moved⟩

theorem putBack_restoreTask (n : Nat) (x : Susp) (s : State) : PutBack n x.image s (restoreTask n x s) := by
  obtain ⟨pl, pc, po⟩ := restorePad_keeps n x s
  unfold restoreTask
  extract_lets tag s1 s2 trap image s3 s4 s5
  have h3 : PutBack n x.image s s3 := putBack_modCore (t := s2) pl pc po
  have h4 : Aside s3 s4 := aside_modQuad (aside_refl s3)
  have h5 : Aside s3 s5 := aside_rewalkPipe (aside_rewalkPipe h4)
  exact putBack_aside h3 (aside_endPark (aside_atCore (fun _ hu => aside_wakeSlots hu) h5))

/-- What `stopCore` leaves of a core. -/
def atRest (c : Core) : Core :=
  { c with regs := CoreRegs.reset, halt := ⟨false, false⟩, cache := { c.cache with
      l1 := dropComing c.cache.l1, walkL := [], walkW := [], walkF := [] } }

theorem core_stopCore (n : Nat) (s : State) (m : Nat) : (stopCore n s).core m = ((dropLease n s).modCore n atRest).core m := rfl

theorem susp_dropLease (n : Nat) (s : State) : ((dropLease n s).core n).susp = (s.core n).susp := by
  rw [dropLease, core_modCore_same]
  rfl

theorem susp_stopCore (n : Nat) (s : State) : ((stopCore n s).core n).susp = (s.core n).susp := by
  rw [core_stopCore, core_modCore_same]
  exact susp_dropLease n s

theorem putBack_stopCore (n : Nat) (s : State) : PutBack n CoreRegs.reset s (stopCore n s) := by
  have h : PutBack n CoreRegs.reset s ((dropLease n s).modCore n atRest) :=
    putBack_modCore (t := dropLease n s) rfl rfl fun m e => core_modCore_ne _ _ e
  exact h

/-- The part of `stopTasks` at one core. -/
def stopAt (tag n : Nat) (s : State) : State :=
  let s0 := s.mapPods (fun w => ((s.core n).susp.filter (fun x => x.image.id.tag = tag)).foldl
    (fun w x => w.forget n x.image.id.node x.image.id.tile.toNat) w)
  let s1 := s0.modCore n (fun c => { c with susp := c.susp.filter (fun x => x.image.id.tag ≠ tag) })
  if runsFor tag (s1.core n) then restoreReady n (stopCore n s1) else s1

theorem stopTasks_eq (tag : Nat) (s : State) : stopTasks tag s = (s.cores.map (fun c => c.1)).foldl (fun s n => stopAt tag n s) s := rfl

/-- A core with no task of a context. -/
def Free (tag : Nat) (c : Core) : Prop := c.regs.run ≠ .idle → c.regs.id.tag ≠ tag

/-- Stopping the tasks of a context at core n leaves none of them there, and the other cores as they were. -/
def StoppedAt (tag n : Nat) (s t : State) : Prop :=
  t.links = s.links ∧ t.ctxs = s.ctxs ∧ Free tag (t.core n) ∧
  ∀ m, m ≠ n → (t.core m).regs.run = (s.core m).regs.run ∧ (t.core m).regs.id = (s.core m).regs.id

theorem stoppedAt_of_putBack {tag n : Nat} {r : CoreRegs} (h : PutBack n r s t) (hr : r.run ≠ .idle → r.id.tag ≠ tag) :
    StoppedAt tag n s t := by
  obtain ⟨hl, hc, run, id, ho⟩ := h
  exact ⟨hl, hc, by rwa [Free, run, id], ho⟩

theorem putBack_trans {n : Nat} {r r' : CoreRegs} {u : State} (h : PutBack n r s t) (k : PutBack n r' t u) : PutBack n r' s u := by
  obtain ⟨hl, hc, -, -, ho⟩ := h
  obtain ⟨kl, kc, kr, ki, ko⟩ := k
  exact ⟨kl.trans hl, kc.trans hc, kr, ki, fun m e => ⟨(ko m e).1.trans (ho m e).1, (ko m e).2.trans (ho m e).2⟩⟩

theorem stoppedAt_restoreReady {tag n : Nat} (h : PutBack n CoreRegs.reset s t) (hs : ∀ x ∈ (t.core n).susp, x.image.id.tag ≠ tag) :
    StoppedAt tag n s (restoreReady n t) := by
  unfold restoreReady
  split
  · exact stoppedAt_of_putBack h fun run => absurd rfl run
  · split
    · next x found =>
      exact stoppedAt_of_putBack (putBack_trans h (putBack_restoreTask n x t)) fun _ => hs x (List.mem_of_find?_eq_some found)
    · exact stoppedAt_of_putBack h fun run => absurd rfl run

theorem stoppedAt_stopAt (tag n : Nat) (s : State) : StoppedAt tag n s (stopAt tag n s) := by
  unfold stopAt
  extract_lets s0 s1
  have kept : PutBack n (s1.core n).regs s s1 := by
    have h := putBack_modCore (n := n) (s := s) (t := s0)
      (f := fun c => { c with susp := c.susp.filter (fun x => x.image.id.tag ≠ tag) }) rfl rfl fun _ _ => rfl
    rwa [show (s1.core n).regs = _ by rw [core_modCore_same]]
  have others : ∀ x ∈ (s1.core n).susp, x.image.id.tag ≠ tag := by
    rw [show (s1.core n).susp = _ by rw [core_modCore_same]]
    intro x hx
    simpa using (List.mem_filter.1 hx).2
  split
  · refine stoppedAt_restoreReady (putBack_trans kept (putBack_stopCore n s1)) ?_
    rwa [susp_stopCore]
  · next idle =>
    refine stoppedAt_of_putBack kept fun run tagged => idle ?_
    simp [runsFor, run, tagged]

/-- R260: stopping them at every core. -/
theorem stopTasks_stops (tag : Nat) (s : State) :
    (stopTasks tag s).links = s.links ∧ (stopTasks tag s).ctxs = s.ctxs ∧ NoTask (stopTasks tag s) tag := by
  have all : ∀ (ns : List Nat) (u : State), (∀ m, m ∉ ns → Free tag (u.core m)) →
      (ns.foldl (fun s n => stopAt tag n s) u).links = u.links ∧ (ns.foldl (fun s n => stopAt tag n s) u).ctxs = u.ctxs ∧
        NoTask (ns.foldl (fun s n => stopAt tag n s) u) tag := by
    intro ns
    induction ns with
    | nil => exact fun u free => ⟨rfl, rfl, fun m => free m List.not_mem_nil⟩
    | cons n ns ih =>
      intro u free
      obtain ⟨links, ctxs, here, rest⟩ := stoppedAt_stopAt tag n u
      obtain ⟨hl, hc, none⟩ := ih (stopAt tag n u) fun m hm => by
        by_cases e : m = n
        · rwa [e]
        · rw [Free, (rest m e).1, (rest m e).2]
          exact free m (by simp [e, hm])
      exact ⟨hl.trans links, hc.trans ctxs, none⟩
  rw [stopTasks_eq]
  refine all _ s fun m hm run => absurd ?_ run
  rw [State.core, fget_of_not_key hm]
  rfl

/-- The state in which the tasks of a context that is ending are stopped. -/
def ending (tag : Nat) (s : State) : State :=
  (killNodes tag (killQueues tag s)).setCtx tag { (killNodes tag (killQueues tag s)).ctx tag with st := .terminating }

theorem killCtx_of_bound {tag : Nat} (h : Bound s tag) :
    killCtx tag s = scrubBarriers tag (killChans tag (stopTasks tag (ending tag s))) :=
  if_pos (by simpa [Bound, or_assoc] using h)

theorem killCtx_of_not_bound {tag : Nat} (h : ¬Bound s tag) : killCtx tag s = s := if_neg (by simpa [Bound, or_assoc] using h)

theorem ctx_scrubbed (tag k : Nat) (s : State) : (scrubBarriers tag (killChans tag s)).ctx k = s.ctx k := rfl

theorem noTask_scrubbed {tag : Nat} (h : NoTask s tag) : NoTask (scrubBarriers tag (killChans tag s)) tag := h

theorem links_scrubbed (tag : Nat) (s : State) : (scrubBarriers tag (killChans tag s)).links = s.links := rfl

theorem terminates_killCtx (tag : Nat) (s : State) : Terminates s (killCtx tag s) tag := by
  intro bound
  obtain ⟨-, ctxs, none⟩ := stopTasks_stops tag (ending tag s)
  have st : ((ending tag s).ctx tag).st = .terminating := by rw [ending, ctx_setCtx_same]
  rw [killCtx_of_bound bound, ctx_scrubbed, State.ctx, ctxs]
  exact ⟨st, noTask_scrubbed none⟩

theorem links_killCtx {tag : Nat} (h : t.links = l) : (killCtx tag t).links = l := by
  by_cases bound : Bound t tag
  · rw [killCtx_of_bound bound, links_scrubbed, (stopTasks_stops tag (ending tag t)).1]
    exact links_killNodes (links_killQueues h)
  · rwa [killCtx_of_not_bound bound]

end Sys2Proof.Machine
end

section
/-! PROOF. The ports of links: what an act changes of a port, and that flits on their way, the charging of lost flits and a change of
route leave the state of every port alone (O45). -/

namespace Sys2Proof.Machine

variable {s t : State} {x y : Link} {p q : Nat}

/-! ### One port -/

@[simp] theorem link_modLink_same (s : State) (p : Nat) (f : Link → Link) : (s.modLink p f).link p = f (s.link p) :=
  fget_fset_same _ _ _ _

theorem link_modLink_ne (s : State) (f : Link → Link) (h : q ≠ p) : (s.modLink p f).link q = s.link q :=
  fget_fset_ne _ _ _ h

/-- The port of x, but for its queues and counters; one that cannot send keeps its replay buffer, too. -/
def LikePort (x y : Link) : Prop :=
  y.st = x.st ∧ y.en = x.en ∧ y.width = x.width ∧ y.good = x.good ∧ y.pmod = x.pmod ∧ y.pport = x.pport ∧
  (x.st.usable = false → y.replay = x.replay)

theorem likePort_refl (x : Link) : LikePort x x := ⟨rfl, rfl, rfl, rfl, rfl, rfl, fun _ => rfl⟩

theorem likePort_trans {z : Link} (h : LikePort x y) (k : LikePort y z) : LikePort x z := by
  obtain ⟨st, en, width, good, pmod, pport, replay⟩ := h
  obtain ⟨st', en', width', good', pmod', pport', replay'⟩ := k
  exact ⟨st'.trans st, en'.trans en, width'.trans width, good'.trans good, pmod'.trans pmod, pport'.trans pport,
    fun u => (replay' (by rw [st, u])).trans (replay u)⟩

theorem likePort_pumpOne (x : Link) : LikePort x (pumpOne x) := by
  by_cases usable : x.st.usable = true
  · unfold pumpOne
    split
    · exact likePort_refl x
    · split
      · exact likePort_refl x
      · exact ⟨rfl, rfl, rfl, rfl, rfl, rfl, fun u => by simp [u] at usable⟩
  · rw [pumpOne_unusable (by simpa using usable)]
    exact likePort_refl x

theorem likePort_pumpLink (n : Nat) (x : Link) : LikePort x (pumpLink n x) := by
  induction n generalizing x with
  | zero => exact likePort_refl x
  | succ n ih =>
    unfold pumpLink
    split
    · exact likePort_refl x
    · exact likePort_trans (likePort_pumpOne x) (ih _)

/-- With nothing in its queue a port sends nothing. -/
theorem pumpLink_empty (n : Nat) (h : x.out = []) : pumpLink n x = x := by
  cases n with
  | zero => rfl
  | succ n => rw [pumpLink, h]; rfl

/-! ### The port of a state -/

/-- Port p is as x. -/
def SamePort (p : Nat) (x : Link) (s : State) : Prop := LikePort x (s.link p)

theorem samePort_links (h : SamePort p x s) (e : t.links = s.links) : SamePort p x t := by
  rw [SamePort, State.link, e]
  exact h

theorem samePort_modLink {f : Link → Link} (hf : ∀ y, LikePort y (f y)) (h : SamePort p x s) : SamePort p x (s.modLink q f) := by
  by_cases e : p = q
  · rw [e, SamePort, link_modLink_same]
    exact likePort_trans (e ▸ h) (hf _)
  · rw [SamePort, link_modLink_ne s f e]
    exact h

theorem samePort_ite {c : Prop} [Decidable c] (hs : SamePort p x s) (ht : SamePort p x t) : SamePort p x (if c then s else t) := by
  split
  · exact hs
  · exact ht

theorem samePort_foldl {α : Type} {f : State → α → State} {l : List α} (g : ∀ u a, SamePort p x u → SamePort p x (f u a))
    (h : SamePort p x s) : SamePort p x (l.foldl f s) := foldl_keeps g l h

/-! ### Flits on their way -/

theorem samePort_pump (h : SamePort p x s) : SamePort p x (pump q s) := samePort_modLink (likePort_pumpLink 512) h

theorem samePort_sendFlit {f : Flit} (h : SamePort p x s) : SamePort p x (sendFlit q f s) :=
  samePort_pump (samePort_modLink (fun y => likePort_refl y) h)

theorem samePort_freeBuffer {f : Flit} (h : SamePort p x s) : SamePort p x (freeBuffer q f s) :=
  samePort_modLink (fun y => likePort_refl y) h

theorem samePort_countLost {n : Nat} (h : SamePort p x s) : SamePort p x (countLost q n s) :=
  samePort_modLink (fun y => likePort_refl y) h

theorem samePort_routeFlit {f : Flit} (h : SamePort p x s) (e : routeFlit f s = some t) : SamePort p x t := by
  obtain ⟨_, -, rfl⟩ := Option.map_eq_some_iff.1 e
  exact samePort_sendFlit h

theorem samePort_getD {o : Option State} (ho : ∀ u, o = some u → SamePort p x u) (h : SamePort p x s) :
    SamePort p x (o.getD s) := by
  cases o with
  | none => exact h
  | some u => exact ho u rfl

/-! ### What a lost flit is charged to -/

theorem samePort_tellModule {name tag m : Nat} (h : SamePort p x s) : SamePort p x (tellModule name tag m s).2 := by
  have fresh : SamePort p x { s with fresh := s.fresh + 1 } := samePort_links h rfl
  unfold tellModule
  dsimp only
  split
  · exact samePort_routeFlit fresh ‹_›
  · exact fresh

theorem samePort_tellMods {b : Nat} (h : SamePort p x s) : SamePort p x (tellMods b s).2 :=
  foldl_keeps (P := fun a : Bool × State => SamePort p x a.2)
    (f := fun a m => (a.1 && (tellModule (nameOfBarrier b) (s.bar b).tag m a.2).1, (tellModule (nameOfBarrier b) (s.bar b).tag m a.2).2))
    (fun _ _ hu => samePort_tellModule hu) (s.bar b).mods (b := (true, s)) h

theorem samePort_failBar {b : Nat} (h : SamePort p x s) : SamePort p x (failBar b s) := by
  have waits : SamePort p x (failWaits b 6 s) :=
    samePort_tellMods (s := failNews (nameOfBarrier b) (s.bar b).phase.toNat 6 s) (samePort_links h rfl)
  exact samePort_ite (samePort_links waits rfl) h

theorem samePort_podLost {name : Nat} (h : SamePort p x s) : SamePort p x (podLost name s) := by
  unfold podLost
  dsimp only
  refine samePort_ite ?_ (samePort_tellModule (samePort_links h rfl))
  split
  · exact samePort_failBar h
  · exact h

theorem samePort_killCtx {tag : Nat} (h : SamePort p x s) : SamePort p x (killCtx tag s) := samePort_links h (links_killCtx rfl)

theorem samePort_chargeAsk {r : PodReq} (h : SamePort p x s) : SamePort p x (chargeAsk r s) := by
  unfold chargeAsk
  split
  · exact h
  · exact h
  · exact samePort_ite (samePort_links h (links_failHead rfl)) h
  · exact samePort_killCtx h

theorem samePort_chargeFlit {f : Flit} (h : SamePort p x s) : SamePort p x (chargeFlit f s) := by
  unfold chargeFlit
  refine samePort_ite (samePort_podLost h) (samePort_ite ?_ ?_)
  · exact samePort_foldl (fun _ _ hu => samePort_chargeAsk hu) (samePort_links h rfl)
  · exact samePort_ite (samePort_links h rfl) (samePort_killCtx (samePort_links h rfl))

/-! ### A change of route -/

theorem samePort_passOn {f : Flit} (h : SamePort p x s) : SamePort p x (passOn q f s) := by
  unfold passOn
  dsimp only
  refine samePort_ite (samePort_links h rfl) ?_
  split
  · next routed =>
    have sent := samePort_routeFlit h routed
    have freed := samePort_freeBuffer (q := q) (f := f) sent
    exact samePort_ite (samePort_links sent rfl) (samePort_ite (samePort_links freed rfl) freed)
  · exact samePort_chargeFlit (samePort_countLost h)

theorem samePort_passHeld (h : SamePort p x s) : SamePort p x (passHeld s) :=
  samePort_foldl (fun _ _ hu => samePort_passOn hu) (samePort_links h rfl)

theorem samePort_moveFlit {f : Flit} (h : SamePort p x s) : SamePort p x (moveFlit q f s) :=
  samePort_ite (samePort_getD (fun _ e => samePort_routeFlit h e) (samePort_chargeFlit (samePort_countLost h)))
    (samePort_links h rfl)

theorem samePort_reroute (h : SamePort p x s) : SamePort p x (reroute s) := samePort_passHeld (samePort_links h rfl)

/-- With no request held back, a change of route only marks those that wait. -/
theorem reroute_quiet (h : s.podheld = []) : reroute s = { markMoved s with podheld := [] } := by
  rw [reroute, passHeld, show (markMoved s).podheld = [] from h]
  rfl

theorem rerouted_quiet (h : s.podheld = []) : (reroute s).mem = s.mem ∧ (reroute s).cores = s.cores := by
  rw [reroute_quiet h]
  exact ⟨rfl, rfl⟩

/-! ### A port that stops -/

/-- A port that has left its usable states. -/
def leftPort (st : LinkSt) (x : Link) : Link := { x with replay := [], out := [], grants := 0, st := st, width := 0 }

theorem samePort_loseAll (p : Nat) (st : LinkSt) (s : State) : SamePort p (leftPort st (s.link p)) (loseAll p st s) := by
  have stops : SamePort p (leftPort st (s.link p)) (s.modLink p (leftPort st)) := by
    rw [SamePort, link_modLink_same]
    exact likePort_refl _
  exact samePort_reroute (samePort_foldl (fun _ _ hu => samePort_moveFlit hu)
    (samePort_foldl (fun _ _ hu => samePort_chargeFlit hu) (samePort_countLost stops)))

theorem loseAll_quiet {st : LinkSt} (hr : (s.link p).replay = []) (ho : (s.link p).out = []) (h : s.podheld = []) :
    (loseAll p st s).mem = s.mem ∧ (loseAll p st s).cores = s.cores := by
  rw [loseAll, hr, ho]
  dsimp only [List.foldl_nil]
  exact rerouted_quiet h

end Sys2Proof.Machine
end

section
/-! PROOF. The states of link ports (O45; R361). -/

namespace Sys2Proof.Machine

open Host (Outcome)

variable {s : State} {p : BitVec 6}

theorem memorySame_of_mem {s t : State} (h : t.mem = s.mem) : MemorySame s t := fun a => by rw [h]

theorem memorySame_refl (s : State) : MemorySame s s := fun _ => rfl

theorem isPort_true (h : p.toNat < 36) : isPort p = true := decide_eq_true h

theorem isPort_false (h : 36 ≤ p.toNat) : isPort p = false := decide_eq_false (Nat.not_lt.2 h)

/-! ### Ports that do not exist -/

theorem port_absent (h : 36 ≤ p.toNat) (m : BitVec 2) (g k : BitVec 8) (r : BitVec 6) (l : BitVec 16) (f : BitVec 2048) :
    exec (.lctlEnable p m) s = .next s ∧ exec (.lctlDisable p) s = .next s ∧ exec (.lctlIsolate p) s = .next s ∧
    exec (.lctlUnisolate p) s = .next s ∧ exec (.linkTrainingDone p g k r) s = .next s ∧ exec (.linkTrainingTimeout p) s = .next s ∧
    exec (.linkRetrain p) s = .next s ∧ exec (.linkRetrainDone p g) s = .next s ∧ exec (.linkRetrainTimeout p) s = .next s ∧
    exec (.flitReceive p f) s = .next s ∧ exec (.replayRequest p l) s = .next s := by
  have absent := isPort_false h
  have plain (t : State) : (if isPort p then t else s) = s := if_neg (by simp [absent])
  have guarded (c : Bool) (t : State) : (if isPort p && c then t else s) = s := if_neg (by simp [absent])
  refine ⟨congrArg _ (plain _), congrArg _ (plain _), congrArg _ (plain _), congrArg _ (plain _), ?_, ?_, ?_, ?_, ?_,
    congrArg _ (plain _), ?_⟩
  · show Outcome.next (if _ then _ else s) = _
    rw [Bool.and_assoc, guarded]
  · show Outcome.next (if _ then _ else s) = _
    rw [Bool.and_assoc, guarded]
  · exact congrArg _ (guarded _ _)
  · show Outcome.next (if _ then _ else s) = _
    rw [Bool.and_assoc, guarded]
  · show Outcome.next (if _ then _ else s) = _
    rw [Bool.and_assoc, guarded]
  · show Outcome.next (if _ then _ else s) = _
    rw [Bool.and_assoc, guarded]

/-! ### Enabling, disabling and isolating -/

theorem lctlEnable_ports (hp : p.toNat < 36) (m : BitVec 2) : Completes (.lctlEnable p m) s (fun t =>
    let x := s.link p.toNat
    let y := t.link p.toNat
    y.en = true ∧ y.minw = (if m = 3 then x.minw else m) ∧ y.st = (if x.st = .down then .training else x.st) ∧
    (x.st = .down → y.width = 0 ∧ y.since = s.now ∧ y.sendSeq = 0 ∧ y.wantSeq = 0) ∧ MemorySame s t) := by
  refine ⟨_, congrArg Outcome.next (if_pos (isPort_true hp)), ?_⟩
  dsimp only [linkEnable]
  by_cases down : (s.link p.toNat).st = .down
  · rw [if_pos down, if_pos down, startTraining, link_modLink_same, link_modLink_same]
    exact ⟨rfl, rfl, rfl, fun _ => ⟨rfl, rfl, rfl, rfl⟩, memorySame_refl s⟩
  · rw [if_neg down, if_neg down, link_modLink_same]
    exact ⟨rfl, rfl, rfl, fun h => absurd h down, memorySame_refl s⟩

/-- A port that stops: its state, and that nothing else changes where no flit is on its way. -/
theorem stopPort_ports (st : LinkSt) (hst : st.usable = false) (n : Nat) (s : State) :
    let t := stopPort st n s
    (t.link n).st = st ∧ (t.link n).en = (s.link n).en ∧ (t.link n).width = 0 ∧ (t.link n).replay = [] ∧
    ((s.link n).replay = [] → (s.link n).out = [] → s.podheld = [] → s.podwin = [] → MemorySame s t ∧ t.cores = s.cores) := by
  obtain ⟨state, en, width, -, -, -, replay⟩ := samePort_loseAll n st s
  refine ⟨state, en, width, replay hst, fun hr ho hh _ => ?_⟩
  obtain ⟨mem, cores⟩ := loseAll_quiet (st := st) hr ho hh
  exact ⟨memorySame_of_mem mem, cores⟩

theorem lctlDisable_ports (hp : p.toNat < 36) : Completes (.lctlDisable p) s (fun t =>
    let x := s.link p.toNat
    (t.link p.toNat).st = .down ∧ (t.link p.toNat).en = false ∧ (t.link p.toNat).width = 0 ∧ (t.link p.toNat).replay = [] ∧
    (x.replay = [] → x.out = [] → s.podheld = [] → s.podwin = [] → MemorySame s t ∧ t.cores = s.cores)) := by
  obtain ⟨st, -, width, replay, quiet⟩ := stopPort_ports .down rfl p.toNat s
  refine ⟨_, congrArg Outcome.next (if_pos (isPort_true hp)), ?_⟩
  simp only [linkDisable, link_modLink_same]
  exact ⟨st, trivial, width, replay, quiet⟩

theorem lctlIsolate_ports (hp : p.toNat < 36) : Completes (.lctlIsolate p) s (fun t =>
    let x := s.link p.toNat
    (t.link p.toNat).st = .isolated ∧ (t.link p.toNat).en = x.en ∧ (t.link p.toNat).replay = [] ∧
    (x.replay = [] → x.out = [] → s.podheld = [] → s.podwin = [] → MemorySame s t ∧ t.cores = s.cores)) := by
  obtain ⟨st, en, -, replay, quiet⟩ := stopPort_ports .isolated rfl p.toNat s
  exact ⟨_, congrArg Outcome.next (if_pos (isPort_true hp)), st, en, replay, quiet⟩

theorem lctlUnisolate_eq (hp : p.toNat < 36) : exec (.lctlUnisolate p) s = .next (linkUnisolate p.toNat s) :=
  congrArg Outcome.next (if_pos (isPort_true hp))

theorem lctlUnisolate_ports (hp : p.toNat < 36) (st : (s.link p.toNat).st = .isolated) (en : (s.link p.toNat).en = true) :
    Completes (.lctlUnisolate p) s (fun t => (t.link p.toNat).st = .training ∧ MemorySame s t) := by
  refine ⟨_, lctlUnisolate_eq hp, ?_⟩
  dsimp only
  rw [linkUnisolate, if_pos (by simp [st, en]), startTraining, link_modLink_same]
  exact ⟨rfl, memorySame_refl s⟩

theorem lctlUnisolate_keeps (hp : p.toNat < 36) (h : (s.link p.toNat).st ≠ .isolated ∨ (s.link p.toNat).en = false) :
    exec (.lctlUnisolate p) s = .next s := by
  rw [lctlUnisolate_eq hp, linkUnisolate, if_neg]
  rintro both
  rw [Bool.and_eq_true, decide_eq_true_eq] at both
  obtain h | h := h
  · exact h both.1
  · rw [h] at both
    exact Bool.noConfusion both.2

/-! ### Training -/

/-- An event of a port in one of its states, within or past a time. -/
theorem ifPort_pos (hp : p.toNat < 36) {b c : Prop} [Decidable b] [Decidable c] (hb : b) (hc : c) (t : State) :
    (if isPort p && b && c then t else s) = t := if_pos (by simp [isPort_true hp, hb, hc])

theorem ifPort_neg {b c : Prop} [Decidable b] [Decidable c] (hb : ¬b) (t : State) :
    (if isPort p && b && c then t else s) = s := if_neg (by simp [hb])

/-- The lanes that training finds good, and the peer. -/
def trained (w : Nat) (g k : BitVec 8) (r : BitVec 6) (x : Link) : Link :=
  { x with st := if w = 0 then .isolated else widthSt w, width := w, good := g, pmod := k, pport := r
           credits := Vector.ofFn (fun i => Config.linkCredits i.val), freed := Vector.replicate 6 0 }

theorem samePort_pumped (n : Nat) (f : Link → Link) (s : State) : SamePort n (f (s.link n)) (reroute (pump n (s.modLink n f))) := by
  refine samePort_reroute (samePort_pump ?_)
  rw [SamePort, link_modLink_same]
  exact likePort_refl _

theorem memorySame_pumped {n : Nat} {f : Link → Link} (h : s.podheld = []) : MemorySame s (reroute (pump n (s.modLink n f))) :=
  memorySame_of_mem (rerouted_quiet (s := pump n (s.modLink n f)) h).1

theorem trainWidth_full (m : BitVec 2) : trainWidth (0xFF : BitVec 8).toNat m = 8 := by
  revert m
  decide

theorem trainWidth_four {g : BitVec 8} {m : BitVec 2} (hg : g = 0x0F ∨ g = 0xF0 ∨ g = 0x3C) (hm : m = 1 ∨ m = 2) :
    trainWidth g.toNat m = 4 := by
  obtain rfl | rfl | rfl := hg
  all_goals obtain rfl | rfl := hm <;> decide

theorem trainWidth_two : trainWidth (0x03 : BitVec 8).toNat 2 = 2 := by decide

/-- At the least width 0 a port needs all eight lanes. -/
theorem trainWidth_none {g : BitVec 8} (h : g ≠ 0xFF) : trainWidth g.toNat 0 = 0 := by
  have lanes : bitsN g.toNat 0 8 ≠ 255 := by
    intro all
    refine h (BitVec.eq_of_toNat_eq ?_)
    rwa [bitsN, pow_zero, Nat.div_one, Nat.mod_eq_of_lt g.isLt] at all
  rw [trainWidth, if_neg lanes, if_neg (by simp [minWidth]), if_neg (by simp [minWidth])]

theorem linkTrainingDone_ports (hp : p.toNat < 36) (g k : BitVec 8) (r : BitVec 6) (st : (s.link p.toNat).st = .training)
    (time : s.now < (s.link p.toNat).since + 10000000000) : Completes (.linkTrainingDone p g k r) s (fun t =>
      let x := s.link p.toNat
      let y := t.link p.toNat
      y.good = g ∧ y.pmod = k ∧ y.pport = r ∧ (s.podheld = [] → MemorySame s t) ∧
      (g = 0xFF → y.st = .up ∧ y.width = 8) ∧
      (g = 0x0F ∨ g = 0xF0 ∨ g = 0x3C → x.minw = 1 ∨ x.minw = 2 → y.st = .degraded ∧ y.width = 4) ∧
      (g = 0x03 → x.minw = 2 → y.st = .degraded ∧ y.width = 2) ∧
      (g ≠ 0xFF → x.minw = 0 → y.st = .isolated ∧ y.width = 0)) := by
  obtain ⟨state, -, width, good, pmod, pport, -⟩ :=
    samePort_pumped p.toNat (trained (trainWidth g.toNat (s.link p.toNat).minw) g k r) s
  refine ⟨reroute (pump p.toNat (s.modLink p.toNat (trained (trainWidth g.toNat (s.link p.toNat).minw) g k r))),
    congrArg Outcome.next (ifPort_pos hp st time _), good, pmod, pport, memorySame_pumped, ?_⟩
  refine ⟨fun full => ?_, fun four least => ?_, fun two least => ?_, fun partly least => ?_⟩
  all_goals rw [state, width]
  · rw [full, trainWidth_full]
    exact ⟨rfl, rfl⟩
  · rw [trainWidth_four four least]
    exact ⟨rfl, rfl⟩
  · rw [two, least, trainWidth_two]
    exact ⟨rfl, rfl⟩
  · rw [least, trainWidth_none partly]
    exact ⟨rfl, rfl⟩

theorem linkTrainingTimeout_ports (hp : p.toNat < 36) (st : (s.link p.toNat).st = .training)
    (time : (s.link p.toNat).since + 10000000000 ≤ s.now) : Completes (.linkTrainingTimeout p) s (fun t =>
      (t.link p.toNat).st = .isolated ∧ (t.link p.toNat).en = (s.link p.toNat).en) := by
  obtain ⟨state, en, -⟩ := stopPort_ports .isolated rfl p.toNat s
  exact ⟨_, congrArg Outcome.next (ifPort_pos hp st time _), state, en⟩

theorem notTraining_keeps (st : (s.link p.toNat).st ≠ .training) :
    (∀ (g k : BitVec 8) (r : BitVec 6), exec (.linkTrainingDone p g k r) s = .next s) ∧
    exec (.linkTrainingTimeout p) s = .next s :=
  ⟨fun _ _ _ => congrArg Outcome.next (ifPort_neg st _), congrArg Outcome.next (ifPort_neg st _)⟩

/-! ### Retraining -/

theorem usable_iff (x : LinkSt) : x.usable = true ↔ x = .up ∨ x = .degraded := by
  cases x <;> decide

theorem usable_of {x : LinkSt} (h : x = .up ∨ x = .degraded) : x.usable = true := (usable_iff x).2 h

theorem not_usable_of {x : LinkSt} (h : x ≠ .up) (k : x ≠ .degraded) : x.usable = false := by
  rw [Bool.eq_false_iff, ne_eq, usable_iff]
  exact not_or.2 ⟨h, k⟩

theorem linkRetrain_eq (hp : p.toNat < 36) (st : (s.link p.toNat).st = .up ∨ (s.link p.toNat).st = .degraded) :
    exec (.linkRetrain p) s = .next (retrain p.toNat s) :=
  congrArg Outcome.next (if_pos (by rw [isPort_true hp, usable_of st]; rfl))

theorem linkRetrain_keeps (h : (s.link p.toNat).st ≠ .up) (k : (s.link p.toNat).st ≠ .degraded) :
    exec (.linkRetrain p) s = .next s :=
  congrArg Outcome.next (if_neg (by rw [not_usable_of h k, Bool.and_false]; exact Bool.false_ne_true))

/-- The counter of retrains stays at 255. -/
theorem rtr_saturates (r : BitVec 8) : (if r = 255 then 255 else r + 1 : BitVec 8).toNat = min 255 (r.toNat + 1) := by
  revert r
  decide

/-- A port whose traffic stops for a retrain, with the times of the last ones. -/
def toRetrain (now : Nat) (l : List Nat) (x : Link) : Link :=
  { x with st := .retraining, width := 0, since := now, retrains := l, replays := [], rtr := if x.rtr = 255 then 255 else x.rtr + 1 }

theorem retrain_eq (n : Nat) {l : List Nat} (h : (s.link n).retrains.filter (fun t => s.now < t + 1000000 * usec) = l) :
    retrain n s = if 3 ≤ (l ++ [s.now]).length then stopPort .isolated n (s.modLink n (toRetrain s.now (l ++ [s.now])))
      else markMoved (s.modLink n (toRetrain s.now (l ++ [s.now]))) := by
  rw [← h]
  rfl

theorem linkRetrain_first (hp : p.toNat < 36) (st : (s.link p.toNat).st = .up ∨ (s.link p.toNat).st = .degraded)
    (first : (s.link p.toNat).retrains = []) : Completes (.linkRetrain p) s (fun t =>
      (t.link p.toNat).st = .retraining ∧ (t.link p.toNat).rtr.toNat = min 255 ((s.link p.toNat).rtr.toNat + 1) ∧
      (t.link p.toNat).replay = (s.link p.toNat).replay ∧ MemorySame s t) := by
  have port : (markMoved (s.modLink p.toNat (toRetrain s.now [s.now]))).link p.toNat = toRetrain s.now [s.now] (s.link p.toNat) :=
    link_modLink_same s _ _
  have recent : (s.link p.toNat).retrains.filter (fun t => s.now < t + 1000000 * usec) = [] := by rw [first, List.filter_nil]
  refine ⟨_, (linkRetrain_eq hp st).trans (congrArg _ ((retrain_eq _ recent).trans (if_neg (by simp)))), ?_⟩
  dsimp only [List.nil_append]
  rw [port]
  exact ⟨rfl, rtr_saturates _, rfl, memorySame_refl s⟩

theorem linkRetrain_third (hp : p.toNat < 36) (st : (s.link p.toNat).st = .up ∨ (s.link p.toNat).st = .degraded)
    (twice : ∃ a b, (s.link p.toNat).retrains = [a, b] ∧ s.now < a + 1000000000000 ∧ s.now < b + 1000000000000) :
    Completes (.linkRetrain p) s (fun t => (t.link p.toNat).st = .isolated) := by
  obtain ⟨a, b, times, ha, hb⟩ := twice
  have recent : (s.link p.toNat).retrains.filter (fun t => s.now < t + 1000000 * usec) = [a, b] := by
    rw [times]
    simp [usec, ha, hb]
  exact ⟨_, (linkRetrain_eq hp st).trans (congrArg _ ((retrain_eq _ recent).trans (if_pos (by simp)))),
    (stopPort_ports .isolated rfl p.toNat _).1⟩

/-- A port that has all its lanes again. -/
def relocked (x : Link) : Link := { x with st := .up, width := 8, good := 0xFF }

theorem linkRetrainDone_full (hp : p.toNat < 36) (st : (s.link p.toNat).st = .retraining)
    (time : s.now < (s.link p.toNat).since + 200000000) : Completes (.linkRetrainDone p 0xFF) s (fun t =>
      (t.link p.toNat).st = .up ∧ (t.link p.toNat).width = 8 ∧ (s.podheld = [] → MemorySame s t ∧
        ((s.link p.toNat).out = [] → (t.link p.toNat).replay = (s.link p.toNat).replay))) := by
  obtain ⟨state, -, width, -⟩ := samePort_pumped p.toNat relocked s
  refine ⟨reroute (pump p.toNat (s.modLink p.toNat relocked)), congrArg Outcome.next ((ifPort_pos hp st time _).trans ?_), state,
    width, fun hh => ⟨memorySame_pumped hh, fun ho => ?_⟩⟩
  · rw [trainWidth_full]
    rfl
  · have nothing : (relocked (s.link p.toNat)).out = [] := ho
    rw [reroute_quiet (s := pump p.toNat (s.modLink p.toNat relocked)) hh]
    show ((pump p.toNat (s.modLink p.toNat relocked)).link p.toNat).replay = _
    rw [pump, link_modLink_same, link_modLink_same, pumpLink_empty 512 nothing]
    rfl

theorem linkRetrainTimeout_ports (hp : p.toNat < 36) (st : (s.link p.toNat).st = .retraining)
    (time : (s.link p.toNat).since + 200000000 ≤ s.now) : Completes (.linkRetrainTimeout p) s (fun t =>
      (t.link p.toNat).st = .isolated) :=
  ⟨_, congrArg Outcome.next (ifPort_pos hp st time _), (stopPort_ports .isolated rfl p.toNat s).1⟩

theorem notRetraining_keeps (st : (s.link p.toNat).st ≠ .retraining) :
    (∀ g : BitVec 8, exec (.linkRetrainDone p g) s = .next s) ∧ exec (.linkRetrainTimeout p) s = .next s :=
  ⟨fun _ => congrArg Outcome.next (ifPort_neg st _), congrArg Outcome.next (ifPort_neg st _)⟩

/-! ### Replay -/

theorem replayRequest_eq (l : BitVec 16) : exec (.replayRequest p l) s = .next
    (if isPort p && (s.link p.toNat).st.usable && (s.link p.toNat).replay.any (fun f => (Flit.lseq f - l).toNat < 2 ^ 15)
      then replayFrom p.toNat s else s) := rfl

/-- A port that sends again, with the times of the last replays. -/
def replayed (l : List Nat) (x : Link) : Link := { x with rpl := x.rpl + 1, replays := l }

theorem replayRequest_first (hp : p.toNat < 36) (l : BitVec 16) (st : (s.link p.toNat).st = .up ∨ (s.link p.toNat).st = .degraded)
    (first : (s.link p.toNat).replays = []) (held : ∃ f ∈ (s.link p.toNat).replay, (Flit.lseq f - l).toNat < 2 ^ 15) :
    Completes (.replayRequest p l) s (fun t => (t.link p.toNat).rpl = (s.link p.toNat).rpl + 1 ∧
      (t.link p.toNat).replay = (s.link p.toNat).replay ∧ (t.link p.toNat).st = (s.link p.toNat).st ∧ MemorySame s t) := by
  have again : (s.link p.toNat).replay.any (fun f => (Flit.lseq f - l).toNat < 2 ^ 15) = true := by simpa using held
  have once : replayFrom p.toNat s = s.modLink p.toNat (replayed [s.now]) := by
    rw [replayFrom, first]
    exact if_neg (by simp)
  refine ⟨_, (replayRequest_eq l).trans ((congrArg _ (if_pos (by rw [isPort_true hp, usable_of st, again]; rfl))).trans
    (congrArg _ once)), ?_⟩
  dsimp only
  rw [link_modLink_same]
  exact ⟨rfl, rfl, rfl, memorySame_refl s⟩

theorem replayRequest_nothing (l : BitVec 16) (h : (s.link p.toNat).replay = []) : exec (.replayRequest p l) s = .next s := by
  rw [replayRequest_eq, h, if_neg (by simp)]

end Sys2Proof.Machine
end

section
/-! PROOF. Flits that arrive, wait and are answered, and the windows of the pod (O45; R359 to R368). -/

namespace Sys2Proof.Machine

open Host (Outcome)

variable {s : State} {p : BitVec 6} {n : Nat} {f : Flit}

/-! ### A flit is noted -/

/-- The flits that a lack releases leave the replay buffer. -/
def acknowledged (lack : BitVec 16) (x : Link) : Link :=
  { x with replay := x.replay.filter (fun g => 2 ^ 15 ≤ (lack - Flit.lseq g).toNat) }

theorem link_pump_empty (h : (s.link n).out = []) : (pump n s).link n = s.link n := by
  rw [pump, link_modLink_same, pumpLink_empty 512 h]

theorem link_ackFlits (lack : BitVec 16) (h : (s.link n).out = []) :
    (ackFlits n lack s).link n = acknowledged lack (s.link n) := by
  have changed : (s.modLink n (acknowledged lack)).link n = acknowledged lack (s.link n) := link_modLink_same s n _
  show (pump n (s.modLink n (acknowledged lack))).link n = _
  rw [link_pump_empty (by rw [changed]; exact h), changed]

/-- The port after a free number of corrected codewords. -/
def heard (s : State) (x : Link) : Link := { x with fec := x.fec + BitVec.ofNat 32 (field (Config.freeVec s.fresh) 0 32) }

theorem link_fecNoise (n : Nat) (s : State) : (fecNoise n s).link n = heard s (s.link n) := by
  have changed : (s.modLink n (heard s)).link n = heard s (s.link n) := link_modLink_same s n _
  exact changed

/-- What a flit leaves at the port that has taken its lack. -/
theorem link_noted (lack : BitVec 16) (h : (s.link n).out = []) :
    (ackFlits n lack (fecNoise n s)).link n = acknowledged lack (heard s (s.link n)) := by
  rw [link_ackFlits lack (by rw [link_fecNoise]; exact h), link_fecNoise]

theorem flitReceive_eq (hp : p.toNat < 36) (f : Flit) : exec (.flitReceive p f) s = .next (flitReceive p.toNat f s) :=
  congrArg Outcome.next (if_pos (isPort_true hp))

theorem flitReceive_unusable (hp : p.toNat < 36) (f : Flit) (h : (s.link p.toNat).st ≠ .up) (k : (s.link p.toNat).st ≠ .degraded) :
    exec (.flitReceive p f) s = .next s := by
  rw [flitReceive_eq hp, flitReceive, not_usable_of h k]
  rfl

theorem link_askReplay (n : Nat) (s : State) : (askReplay n s).link n = { s.link n with asked := true } := link_modLink_same s n _

theorem flitReceive_bad (hp : p.toNat < 36) (f : Flit) (st : (s.link p.toNat).st = .up ∨ (s.link p.toNat).st = .degraded)
    (bad : flitOk f = false) : Completes (.flitReceive p f) s (fun t => (t.link p.toNat).asked = true ∧
      (t.link p.toNat).wantSeq = (s.link p.toNat).wantSeq ∧ (t.link p.toNat).replay = (s.link p.toNat).replay ∧ MemorySame s t) := by
  have asks : flitReceive p.toNat f s = askReplay p.toNat (fecNoise p.toNat s) := by
    rw [flitReceive, usable_of st, bad]
    rfl
  refine ⟨_, (flitReceive_eq hp f).trans (congrArg _ asks), ?_⟩
  dsimp only
  rw [link_askReplay, link_fecNoise]
  exact ⟨rfl, rfl, rfl, memorySame_refl s⟩

/-- The state in which a flit in its turn is delivered. -/
def counted (n : Nat) (f : Flit) (s : State) : State :=
  (ackFlits n f.lack (fecNoise n s)).modLink n (fun x => { x with wantSeq := x.wantSeq + 1, asked := false })

/-- A flit of a class with numbers, at a port that can take it: in its turn it is delivered, else it is asked for again. -/
theorem flitReceive_ok (st : (s.link n).st = .up ∨ (s.link n).st = .degraded) (ok : flitOk f = true)
    (cls : Flit.cls f = 0 ∨ Flit.cls f = 1 ∨ Flit.cls f = 2) :
    flitReceive n f s = if f.lseq ≠ (s.link n).wantSeq then askReplay n (ackFlits n f.lack (fecNoise n s))
      else deliverFlit n f (counted n f s) := by
  have numbered : f.cls ≠ 3 := by omega
  have want : ((fecNoise n s).link n).wantSeq = (s.link n).wantSeq := by rw [link_fecNoise]; rfl
  rw [flitReceive, usable_of st, ok]
  dsimp only
  rw [want, if_neg numbered]
  rfl

theorem flitReceive_outOfTurn (hp : p.toNat < 36) (st : (s.link p.toNat).st = .up ∨ (s.link p.toNat).st = .degraded)
    (ok : flitOk f = true) (cls : Flit.cls f = 0 ∨ Flit.cls f = 1 ∨ Flit.cls f = 2) (ho : (s.link p.toNat).out = [])
    (turn : Flit.lseq f ≠ (s.link p.toNat).wantSeq) : Completes (.flitReceive p f) s (fun t =>
      (t.link p.toNat).wantSeq = (s.link p.toNat).wantSeq ∧ (t.link p.toNat).asked = true ∧
      (t.link p.toNat).replay = (s.link p.toNat).replay.filter (fun g => 2 ^ 15 ≤ (Flit.lack f - Flit.lseq g).toNat) ∧
      MemorySame s t) := by
  refine ⟨_, (flitReceive_eq hp f).trans (congrArg _ ((flitReceive_ok st ok cls).trans (if_pos turn))), ?_⟩
  dsimp only
  rw [link_askReplay, link_noted _ ho]
  exact ⟨rfl, rfl, rfl, memorySame_refl s⟩

/-! ### A flit in its turn -/

theorem modLink_keeps (n : Nat) (g : Link → Link) (s : State) : (s.modLink n g).mem = s.mem ∧ (s.modLink n g).podheld = s.podheld ∧
    (s.modLink n g).podreqs = s.podreqs ∧ (s.modLink n g).arrivals = s.arrivals ∧ (s.modLink n g).podmod = s.podmod :=
  ⟨rfl, rfl, rfl, rfl, rfl⟩

/-- Counting a flit and freeing its buffer changes its port and the number of free choices only. -/
theorem counted_keeps (n : Nat) (f : Flit) (s : State) : (freeBuffer n f (counted n f s)).mem = s.mem ∧
    (freeBuffer n f (counted n f s)).podheld = s.podheld ∧ (freeBuffer n f (counted n f s)).podreqs = s.podreqs ∧
    (freeBuffer n f (counted n f s)).arrivals = s.arrivals ∧ (counted n f s).podmod = s.podmod := by
  simp only [counted, freeBuffer, ackFlits, pump, modLink_keeps]
  exact modLink_keeps n (heard s) s

theorem link_counted (ho : (s.link n).out = []) :
    ((freeBuffer n f (counted n f s)).link n).wantSeq = (s.link n).wantSeq + 1 ∧
    ((freeBuffer n f (counted n f s)).link n).replay = (s.link n).replay.filter (fun g => 2 ^ 15 ≤ (Flit.lack f - Flit.lseq g).toNat) := by
  rw [counted, freeBuffer, link_modLink_same, link_modLink_same, link_noted _ ho]
  exact ⟨rfl, rfl⟩

theorem kindClass_of_ok (ok : flitOk f = true) : kindClass f.kind = some f.cls := by
  simp only [flitOk, Bool.and_eq_true, decide_eq_true_eq] at ok
  exact ok.1.1.2

theorem kind_of_reply (ok : flitOk f = true) (cls : Flit.cls f = 1) : 3 ≤ f.kind ∧ f.kind ≤ 5 := by
  have kinds := kindClass_of_ok ok
  rw [cls, kindClass] at kinds
  split at kinds
  · exact absurd kinds (by decide)
  · split at kinds
    · omega
    · split at kinds
      · exact absurd kinds (by decide)
      · split at kinds <;> exact absurd kinds (by decide)

/-- An answer reaches the requests it answers: of the rest only copies in the L1 change. -/
theorem podReply_keeps (f : Flit) (s : State) : (podReply f s).links = s.links ∧ (podReply f s).mem = s.mem ∧
    (podReply f s).podheld = s.podheld ∧ (podReply f s).podreqs = s.podreqs.filterMap (fun r =>
      if r.isOwn && r.tid = f.tid && r.mod = f.src && r.ans.isNone && f.kind = r.kind + 3
      then (if r.who = .gone then none else some { r with ans := some f }) else some r) := by
  unfold podReply
  refine foldl_keeps (P := fun u : State => u.links = s.links ∧ u.mem = s.mem ∧ u.podheld = s.podheld ∧ u.podreqs = _)
    (fun u r hu => ?_) _ ⟨rfl, rfl, rfl, rfl⟩
  split
  · exact hu
  · exact hu

theorem deliverFlit_reply (kind : 3 ≤ f.kind ∧ f.kind ≤ 5) (dst : Flit.dst f = s.podmod.toNat) :
    deliverFlit n f s = passHeld (podReply f (freeBuffer n f s)) := by
  have k9 : f.kind ≠ 9 := by omega
  have k8 : f.kind ≠ 8 := by omega
  have k7 : ¬7 < f.kind := by omega
  have k6 : ¬6 ≤ f.kind := by omega
  rw [deliverFlit]
  simp only [k9, k8, k7, k6, dst, kind.1, if_false, if_true, decide_true, decide_false, Bool.and_true, Bool.and_false,
    Bool.false_eq_true]

theorem passHeld_none (h : s.podheld = []) : passHeld s = { s with podheld := [] } := by rw [passHeld, h]; rfl

theorem flitReceive_reply (hp : p.toNat < 36) (st : (s.link p.toNat).st = .up ∨ (s.link p.toNat).st = .degraded)
    (ok : flitOk f = true) (ho : (s.link p.toNat).out = []) (hh : s.podheld = [])
    (turn : Flit.lseq f = (s.link p.toNat).wantSeq) (cls : Flit.cls f = 1) (dst : Flit.dst f = s.podmod.toNat) :
    Completes (.flitReceive p f) s (fun t => (t.link p.toNat).wantSeq = (s.link p.toNat).wantSeq + 1 ∧
      (t.link p.toNat).replay = (s.link p.toNat).replay.filter (fun g => 2 ^ 15 ≤ (Flit.lack f - Flit.lseq g).toNat) ∧ MemorySame s t ∧
      ∀ r ∈ s.podreqs, r.isOwn = true → r.tid = Flit.tid f → r.mod = Flit.src f → r.ans = none → Flit.kind f = r.kind + 3 →
        r.who ≠ .gone → { r with ans := some f } ∈ t.podreqs) := by
  obtain ⟨mem₀, held₀, reqs₀, -, mod⟩ := counted_keeps p.toNat f s
  have delivered : flitReceive p.toNat f s = passHeld (podReply f (freeBuffer p.toNat f (counted p.toNat f s))) := by
    rw [flitReceive_ok st ok (.inr (.inl cls)), if_neg (not_not.2 turn)]
    exact deliverFlit_reply (kind_of_reply ok cls) (dst.trans (congrArg BitVec.toNat mod.symm))
  obtain ⟨want, replay⟩ := link_counted (f := f) ho
  refine ⟨_, (flitReceive_eq hp f).trans (congrArg _ delivered), ?_⟩
  generalize freeBuffer p.toNat f (counted p.toNat f s) = u at *
  obtain ⟨links, mem, held, reqs⟩ := podReply_keeps f u
  rw [passHeld_none (held.trans (held₀.trans hh))]
  generalize podReply f u = w at *
  have link : ({ w with podheld := [] } : State).link p.toNat = u.link p.toNat := by
    simp only [State.link, links]
  dsimp only
  rw [link]
  refine ⟨want, replay, memorySame_of_mem (mem.trans mem₀), fun r hr own tid mod ans kind who => ?_⟩
  rw [reqs, reqs₀, List.mem_filterMap]
  exact ⟨r, hr, by simp [own, tid, mod, ans, kind, who]⟩

theorem deliverFlit_control (kind : f.kind = 6) (dst : Flit.dst f = s.podmod.toNat) :
    deliverFlit n f s = flitControl f (freeBuffer n f s) := by
  rw [deliverFlit]
  simp [kind, dst]

/-- A control flit of kind 6 is an arrival: of the state only the list of arrivals changes. -/
theorem flitControl_arrival (s : State) (kind : f.kind = 6) : (flitControl f s).links = s.links ∧ (flitControl f s).mem = s.mem ∧
    ∃ a : Arrival, (flitControl f s).arrivals = s.arrivals ++ [a] ∧ a.name = Flit.pa f % 2 ^ 20 ∧ a.tag = Flit.tag f ∧
      a.module = Flit.src f := by
  dsimp only [flitControl]
  rw [if_pos kind]
  exact ⟨rfl, rfl, _, rfl, rfl, rfl, rfl⟩

theorem flitReceive_arrival (hp : p.toNat < 36) (st : (s.link p.toNat).st = .up ∨ (s.link p.toNat).st = .degraded)
    (ok : flitOk f = true) (cls : Flit.cls f = 0 ∨ Flit.cls f = 1 ∨ Flit.cls f = 2) (ho : (s.link p.toNat).out = [])
    (turn : Flit.lseq f = (s.link p.toNat).wantSeq) (kind : Flit.kind f = 6) (dst : Flit.dst f = s.podmod.toNat) :
    Completes (.flitReceive p f) s (fun t => (t.link p.toNat).wantSeq = (s.link p.toNat).wantSeq + 1 ∧ MemorySame s t ∧
      ∃ a : Arrival, t.arrivals = s.arrivals ++ [a] ∧ a.name = Flit.pa f % 2 ^ 20 ∧ a.tag = Flit.tag f ∧ a.module = Flit.src f) := by
  obtain ⟨mem₀, -, -, arrivals₀, mod⟩ := counted_keeps p.toNat f s
  have delivered : flitReceive p.toNat f s = flitControl f (freeBuffer p.toNat f (counted p.toNat f s)) := by
    rw [flitReceive_ok st ok cls, if_neg (not_not.2 turn)]
    exact deliverFlit_control kind (dst.trans (congrArg BitVec.toNat mod.symm))
  obtain ⟨want, -⟩ := link_counted (f := f) ho
  refine ⟨_, (flitReceive_eq hp f).trans (congrArg _ delivered), ?_⟩
  generalize freeBuffer p.toNat f (counted p.toNat f s) = u at *
  obtain ⟨links, mem, a, arrivals, name, tag, module⟩ := flitControl_arrival u kind
  have link : (flitControl f u).link p.toNat = u.link p.toNat := by
    simp only [State.link, links]
  rw [link]
  exact ⟨want, memorySame_of_mem (mem.trans mem₀), a, arrivals.trans (congrArg (· ++ [a]) arrivals₀), name, tag, module⟩

/-! ### A waiting flit and its credits (R360, R364) -/

theorem firstOf_single {x : Link} (ho : x.out = [f]) (c : Nat) :
    firstOf x c = if Flit.cls f = c ∧ 0 < vget x.credits (chanIx f) 0 then some 0 else none := by
  rw [firstOf, ho]
  by_cases h : Flit.cls f = c ∧ 0 < vget x.credits (chanIx f) 0
  · rw [if_pos h, List.findIdx?_cons, if_pos (by simp [h.1, h.2])]
  · rw [if_neg h, List.findIdx?_cons, if_neg (by simpa using h)]
    rfl

theorem nextFlit_none {x : Link} (ho : x.out = [f]) (h : vget x.credits (chanIx f) 0 = 0) : nextFlit x = none := by
  unfold nextFlit
  simp only [firstOf_single ho, h, Nat.lt_irrefl, and_false, if_false, Option.or_none, ite_self]

theorem nextFlit_first {x : Link} (ho : x.out = [f]) (cls : Flit.cls f ≤ 2) (h : 0 < vget x.credits (chanIx f) 0) :
    nextFlit x = some 0 := by
  have classes : Flit.cls f = 0 ∨ Flit.cls f = 1 ∨ Flit.cls f = 2 := by omega
  unfold nextFlit
  simp only [firstOf_single ho, h, and_true]
  obtain c | c | c := classes
  all_goals simp [c]

theorem chanIx_lt (cls : Flit.cls f ≤ 2) : chanIx f < 6 := by
  have hop : Flit.hop f < 2 := Nat.mod_lt _ (by decide)
  rw [chanIx]
  omega

theorem pumpOne_waits {x : Link} (ho : x.out = [f]) (h : vget x.credits (chanIx f) 0 = 0) : pumpOne x = x := by
  rw [pumpOne, nextFlit_none ho h]
  exact ite_self x

theorem pumpOne_sends {x : Link} (st : x.st.usable = true) (ho : x.out = [f]) (cls : Flit.cls f ≤ 2) (room : x.replay.length < 512)
    (h : 0 < vget x.credits (chanIx f) 0) :
    (pumpOne x).out = [] ∧ (pumpOne x).replay = x.replay ++ [sealFlit x f] ∧ (pumpOne x).sendSeq = x.sendSeq + 1 ∧
      vget (pumpOne x).credits (chanIx f) 0 = vget x.credits (chanIx f) 0 - 1 := by
  have one : x.out.getD 0 0 = f := by rw [ho]; rfl
  rw [pumpOne, if_neg (by simp [st, room]), nextFlit_first ho cls h]
  dsimp only
  rw [one, ho]
  exact ⟨rfl, rfl, rfl, vget_vset_same _ _ _ _ (chanIx_lt cls)⟩

theorem pumpOne_stays {x : Link} (h : 512 ≤ x.replay.length ∨ x.st.usable = false) : pumpOne x = x :=
  h.elim pumpOne_full pumpOne_unusable

theorem credits_addCredits (x : Link) (v : BitVec 96) {k : Nat} (hk : k < 6) :
    vget (addCredits v x).credits k 0 = vget x.credits k 0 + field v (16 * k) 16 := by
  simp [vget, hk, addCredits]

/-! ### Answers (R364, R368) -/

theorem bitsN_mod {x w lo m : Nat} (h : lo + m ≤ w) : bitsN (x % 2 ^ w) lo m = bitsN x lo m := by
  refine Nat.eq_of_testBit_eq fun i => ?_
  rw [testBit_bitsN, testBit_bitsN, Nat.testBit_mod_two_pow]
  by_cases hi : i < m
  · rw [decide_eq_true (show lo + i < w by omega), Bool.true_and]
  · rw [decide_eq_false hi, Bool.false_and, Bool.false_and]

theorem field_ofNat {w lo m : Nat} (x : Nat) (h : lo + m ≤ w) : field (BitVec.ofNat w x) lo m = bitsN x lo m := by
  rw [field, BitVec.toNat_ofNat, bitsN_mod h]

/-- The fields of a flit of this module. -/
theorem fields_newFlit {dst src tag addr kind : Nat} (hd : dst < 2 ^ 8) (hs : src < 2 ^ 8) (ht : tag < 2 ^ 12) (hk : kind < 2 ^ 4)
    (tid : BitVec 8) (payload : Vec) :
    let g := newFlit 0 dst src tag addr tid kind payload
    Flit.kind g = kind ∧ Flit.dst g = dst ∧ Flit.src g = src ∧ Flit.tag g = tag ∧ Flit.tid g = tid ∧ Flit.hop g = 0 := by
  have cls : (kindClass kind).getD 0 < 4 := by
    unfold kindClass
    split
    · decide
    · split
      · decide
      · split
        · decide
        · split <;> decide
  have tid8 := tid.isLt
  intro g
  have bits (lo m : Nat) (h : lo + m ≤ 2048) : field g lo m = bitsN ((kindClass kind).getD 0 + 2 ^ 2 * 0 + 2 ^ 3 * dst + 2 ^ 11 * src +
      2 ^ 19 * tag + 2 ^ 64 * (addr % 2 ^ 52) + 2 ^ 116 * tid.toNat + 2 ^ 124 * kind + 2 ^ 128 * field payload 0 1856) lo m :=
    field_ofNat _ h
  generalize (kindClass kind).getD 0 = c at bits cls
  generalize field payload 0 1856 = body at bits
  have page : addr % 2 ^ 52 < 2 ^ 52 := Nat.mod_lt _ (by decide)
  generalize addr % 2 ^ 52 = a at bits page
  have ttid : Flit.tid g = tid := by
    rw [Flit.tid, bits 116 8 (by decide), bitsN]
    refine BitVec.eq_of_toNat_eq ?_
    rw [BitVec.toNat_ofNat]
    omega
  refine ⟨?_, ?_, ?_, ?_, ttid, ?_⟩
  · rw [Flit.kind, bits _ _ (by decide), bitsN]
    omega
  · rw [Flit.dst, bits _ _ (by decide), bitsN]
    omega
  · rw [Flit.src, bits _ _ (by decide), bitsN]
    omega
  · rw [Flit.tag, bits _ _ (by decide), bitsN]
    omega
  · rw [Flit.hop, bits _ _ (by decide), bitsN]
    omega

theorem answerTo_here (dst : Flit.dst f = s.podmod.toNat) (kind : Flit.kind f ≤ 2) :
    ∃ g, answerTo s f = some g ∧ Flit.kind g = Flit.kind f + 3 ∧ Flit.dst g = Flit.src f ∧ Flit.src g = s.podmod.toNat ∧
      Flit.tag g = Flit.tag f ∧ Flit.tid g = Flit.tid f ∧ Flit.hop g = 0 := by
  have src : Flit.src f < 2 ^ 8 := Nat.mod_lt _ (by decide)
  have tag : Flit.tag f < 2 ^ 12 := Nat.mod_lt _ (by decide)
  have known : answerTo s f = some (newFlit 0 f.src s.podmod.toNat f.tag f.pa f.tid (f.kind + 3)
      (Config.flitAnswer (!requestOk s f) (if requestOk s f then homeLine s f else 0))) := by
    rw [answerTo, if_neg (not_not.2 dst), if_pos kind]
  exact ⟨_, known, fields_newFlit src s.podmod.isLt tag (show Flit.kind f + 3 < 2 ^ 4 by omega) (Flit.tid f) _⟩

theorem answerTo_onward (dst : Flit.dst f ≠ s.podmod.toNat) (hop : Flit.hop f = 0) : answerTo s f = some (f ||| 4) := by
  rw [answerTo, if_pos dst, if_pos hop]

theorem answerTo_none (dst : Flit.dst f ≠ s.podmod.toNat) (hop : Flit.hop f = 1) : answerTo s f = none := by
  rw [answerTo, if_pos dst, if_neg (by omega)]

theorem flitRequest_nothing (h : Flit.kind f = 0 ∨ requestOk s f = false) : flitRequest f s = s := by
  unfold flitRequest
  by_cases one : f.kind = 1
  · have refused : linkOk s f.tag 1 f.pa = false := by simpa [one, requestOk] using h
    rw [if_pos one, refused]
    rfl
  · rw [if_neg one]
    by_cases two : f.kind = 2
    · have refused : (linkOk s f.tag 0 f.pa && linkOk s f.tag 1 f.pa) = false := by simpa [two, requestOk] using h
      rw [if_pos two, refused]
      rfl
    · rw [if_neg two]

/-! ### Windows to other modules (R367, R368) -/

theorem podwinWrite_high (w : BitVec 6) (v : Word) : Completes (.podwinWrite w 1 v) s (fun t =>
    fget PodWin.reset t.podwin w.toNat = { fget PodWin.reset s.podwin w.toNat with
      mod := v.toNat % 2 ^ 8, rbase := v.toNat / 2 ^ 30 % 2 ^ 22 * 2 ^ 30 } ∧ MemorySame s t) := by
  refine ⟨_, rfl, ?_, memorySame_refl s⟩
  show fget PodWin.reset (fset s.podwin w.toNat _) w.toNat = _
  rw [fget_fset_same, field, bitsN, pow_zero, Nat.div_one]
  rfl

/-- The checks of an enabled window. -/
def WindowOk (s : State) (w : Nat) (x : PodWin) : Prop :=
  x.sz ≤ 11 ∧ x.lbase % 2 ^ (x.sz + 30) = 0 ∧ x.rbase % 2 ^ (x.sz + 30) = 0 ∧ 2 ^ 42 + s.flash.tier ≤ x.lbase ∧
  x.lbase + 2 ^ (x.sz + 30) ≤ 2 ^ 43 ∧
  (x.rbase + 2 ^ (x.sz + 30) ≤ 2 ^ 41 ∨ (2 ^ 42 ≤ x.rbase ∧ x.rbase + 2 ^ (x.sz + 30) ≤ 2 ^ 43)) ∧ x.mod ≠ s.podmod.toNat ∧
  ∀ e ∈ s.podwin, e.1 ≠ w → e.2.en = true → x.lbase + 2 ^ (x.sz + 30) ≤ e.2.lbase ∨ e.2.lbase + 2 ^ (e.2.sz + 30) ≤ x.lbase

theorem podWinOk_iff (s : State) (w : Nat) (x : PodWin) : podWinOk s w x = true ↔ WindowOk s w x := by
  have others : (s.podwin.all (fun e => e.1 = w || !e.2.en || x.lbase + 2 ^ (x.sz + 30) ≤ e.2.lbase ||
      e.2.lbase + 2 ^ (e.2.sz + 30) ≤ x.lbase)) = true ↔ ∀ e ∈ s.podwin, e.1 ≠ w → e.2.en = true →
        x.lbase + 2 ^ (x.sz + 30) ≤ e.2.lbase ∨ e.2.lbase + 2 ^ (e.2.sz + 30) ≤ x.lbase := by
    rw [List.all_eq_true]
    refine forall₂_congr fun e _ => ?_
    cases e.2.en <;> simp [or_iff_not_imp_left]
  have base : tierBase = 2 ^ 42 := rfl
  have top : tierEnd = 2 ^ 43 := rfl
  have hbm : hbmEnd = 2 ^ 41 := rfl
  simp only [podWinOk, WindowOk, Bool.and_eq_true, Bool.or_eq_true, others, decide_eq_true_eq, base, top, hbm]
  constructor
  · rintro ⟨⟨⟨⟨⟨⟨⟨size, left⟩, right⟩, above⟩, below⟩, apart⟩, target⟩, other⟩
    exact ⟨size, left, right, above, below, target, other, apart⟩
  · rintro ⟨size, left, right, above, below, target, other, apart⟩
    exact ⟨⟨⟨⟨⟨⟨⟨size, left⟩, right⟩, above⟩, below⟩, apart⟩, target⟩, other⟩

/-- The window that the first word of a write gives. -/
def sized (v : Word) (x : PodWin) : PodWin :=
  { x with en := v.getLsbD 0, sz := v.toNat / 2 % 2 ^ 5, lbase := v.toNat / 2 ^ 30 % 2 ^ 22 * 2 ^ 30 }

/-- The window that a write of the first word leaves. -/
def sizedOrOff (s : State) (w : Nat) (v : Word) (x : PodWin) : PodWin :=
  if v.getLsbD 0 && !podWinOk s w (sized v x) then { x with en := false } else sized v x

theorem podwinWrite_low (w : BitVec 6) (v : Word) : exec (.podwinWrite w 0 v) s = .next { s with
    podwin := fset s.podwin w.toNat (sizedOrOff s w.toNat v (fget PodWin.reset s.podwin w.toNat)) } := rfl

/-- A window is entered unless its write enables it against the checks; then it is left disabled. -/
theorem podwinWrite_window (w : BitVec 6) (v : Word) : Completes (.podwinWrite w 0 v) s (fun t =>
    let o := fget PodWin.reset s.podwin w.toNat
    MemorySame s t ∧ (v.getLsbD 0 = false ∨ WindowOk s w.toNat (sized v o) → fget PodWin.reset t.podwin w.toNat = sized v o) ∧
    (v.getLsbD 0 = true → ¬WindowOk s w.toNat (sized v o) →
      fget PodWin.reset t.podwin w.toNat = { o with en := false })) := by
  refine ⟨_, podwinWrite_low w v, ?_⟩
  dsimp only
  rw [fget_fset_same]
  refine ⟨memorySame_refl s, fun h => if_neg ?_, fun on bad => if_pos ?_⟩
  · rw [← podWinOk_iff] at h
    obtain off | ok := h
    · rw [off, Bool.false_and]
      decide
    · rw [ok, Bool.not_true, Bool.and_false]
      decide
  · rw [← podWinOk_iff, Bool.not_eq_true] at bad
    rw [on, bad]
    rfl

end Sys2Proof.Machine
end

section
/-! PROOF. Link ports, flits and pod windows (O45). -/

namespace Sys2Proof

open Machine

/-- Settles O45: the ports, the flits they take, the numbers and credits of a waiting flit, its answer and the pod's windows, each
from its own lemma. -/
theorem linkPorts : Obligations.LinkPorts := by
  refine ⟨fun s p hp m g k r l f => port_absent hp m g k r l f, fun s p hp => ?_, fun x f st ho cls room => ?_,
    fun x => pumpOne_stays, fun x v k hk => credits_addCredits x v hk, fun s f => ?_, fun s w v => ?_⟩
  · refine ⟨lctlEnable_ports hp, lctlDisable_ports hp, lctlIsolate_ports hp, lctlUnisolate_ports hp, lctlUnisolate_keeps hp,
      linkTrainingDone_ports hp, notTraining_keeps, linkTrainingTimeout_ports hp, linkRetrain_first hp, linkRetrain_third hp,
      linkRetrain_keeps, fun g st time full => full ▸ linkRetrainDone_full hp st time, linkRetrainTimeout_ports hp, notRetraining_keeps,
      fun f st ok cls ho hh => ⟨flitReceive_outOfTurn hp st ok cls ho, flitReceive_reply hp st ok ho hh,
        flitReceive_arrival hp st ok cls ho⟩,
      flitReceive_unusable hp, flitReceive_bad hp, replayRequest_first hp, replayRequest_nothing⟩
  · exact ⟨pumpOne_waits ho, pumpOne_sends st ho cls room⟩
  · exact ⟨answerTo_here, answerTo_onward, answerTo_none, flitRequest_nothing⟩
  · exact ⟨podwinWrite_high w v, podwinWrite_window w v⟩

end Sys2Proof
end

section
/-! PROOF. Uncorrectable errors are contained in a line, a context or a unit (O46; R372, R373, R380). -/

namespace Sys2Proof.Machine

open Host (Outcome)

variable {s : State} {tag : Nat}

/-! ### Contexts that an error terminates -/

theorem bound_of_ctxs {t : State} (h : t.ctxs = s.ctxs) (b : Bound s tag) : Bound t tag := by
  rw [Bound, State.ctx, h]
  exact b

/-- What an error changes before the context dies leaves the contexts as they were. -/
theorem terminates_after {t : State} (h : t.ctxs = s.ctxs) : Terminates s (killCtx tag t) tag :=
  fun b => terminates_killCtx tag t (bound_of_ctxs h b)

theorem completes_killCtx {i : Instr} {t : State} (e : exec i s = .next (killCtx tag t)) (h : t.ctxs = s.ctxs) :
    Completes i s (fun u => Terminates s u tag) := ⟨_, e, terminates_after h⟩

theorem lineError_poisons {pa : Pa} (mem : inMemory pa.toNat = true) (pod : podOf s pa.toNat = none) :
    Completes (.uncorrectableError (.line pa)) s (fun t => poisoned t pa.toNat = true ∧ MemorySame s t ∧ t.cores = s.cores) := by
  refine ⟨poisonLine (pa.toNat / 128) s, congrArg Outcome.next (if_pos (by rw [mem, pod]; rfl)), ?_, memorySame_refl s, rfl⟩
  have listed : (addNat (pa.toNat / 128) s.poison).contains (pa.toNat / 128) = true := by
    rw [addNat]
    split
    · assumption
    · simp
  show ((addNat (pa.toNat / 128) s.poison).contains (pa.toNat / 128) || _) = true
  rw [listed, Bool.true_or]

theorem sliceError_clean {pa : Pa} (clean : pa.toNat / 128 ∉ s.dirty) : exec (.uncorrectableError (.slice pa)) s = .next s :=
  congrArg Outcome.next (if_neg (by simpa using clean))

theorem sliceError_dirty {pa : Pa} (dirty : pa.toNat / 128 ∈ s.dirty) (writer : fget? s.writer (pa.toNat / 128) = some tag) :
    Completes (.uncorrectableError (.slice pa)) s (fun t => Terminates s t tag) := by
  have error : sliceError (pa.toNat / 128) s = killCtx tag
      (poisonLine (pa.toNat / 128) { s with dirty := s.dirty.filter (fun x => x ≠ pa.toNat / 128) }) := by
    rw [sliceError, if_pos (by simpa using dirty), writer]
  exact completes_killCtx (congrArg Outcome.next error) rfl

theorem padError_terminates {pa : Pa} (pad : isPad pa.toNat = true) (owner : granTag s pa.toNat = some tag) :
    Completes (.uncorrectableError (.pad pa)) s (fun t => Terminates s t tag) := by
  have error : exec (.uncorrectableError (.pad pa)) s = .next (killOpt (granTag s pa.toNat) s) := congrArg Outcome.next (if_pos pad)
  rw [owner] at error
  exact completes_killCtx error rfl

theorem regsError_terminates (n : CoreId) (run : (regsOf s n).run ≠ .idle) :
    Completes (.uncorrectableError (.regs n)) s (fun t => Terminates s t (regsOf s n).id.tag) :=
  completes_killCtx (congrArg Outcome.next (if_neg run)) rfl

theorem regsError_idle (n : CoreId) (run : (regsOf s n).run = .idle) : exec (.uncorrectableError (.regs n)) s = .next s :=
  congrArg Outcome.next (if_pos run)

theorem accError_terminates (n : CoreId) (free : (s.quad (n.toNat / 4)).array.holder = none) (owner : fget? s.acctag n.toNat = some tag) :
    Completes (.uncorrectableError (.acc n)) s (fun t => Terminates s t tag) := by
  have error : accError n.toNat s = killCtx tag s := by
    rw [accError, free, owner]
    rfl
  exact completes_killCtx (congrArg Outcome.next error) rfl

theorem holderTag_of_holder {q h : Nat} (held : (s.quad q).array.holder = some h) :
    holderTag s q = some (s.core (4 * q + h)).regs.id.tag := by
  rw [holderTag, held]
  rfl

theorem accError_wide (n : CoreId) {h : Nat} (held : (s.quad (n.toNat / 4)).array.holder = some h)
    (wide : (s.quad (n.toNat / 4)).array.wide = true) : Completes (.uncorrectableError (.acc n)) s (fun t =>
      Terminates s t (s.core (4 * (n.toNat / 4) + h)).regs.id.tag) := by
  have error : accError n.toNat s = killOpt (holderTag s (n.toNat / 4)) s := by
    rw [accError]
    exact if_pos (by rw [held, wide]; rfl)
  rw [holderTag_of_holder held] at error
  exact completes_killCtx (congrArg Outcome.next error) rfl

theorem foldError_free (q : QuadId) (free : (s.quad q.toNat).array.holder = none) :
    exec (.uncorrectableError (.fold q)) s = .next s :=
  congrArg Outcome.next (if_pos (by rw [free]; rfl))

theorem foldError_held (q : QuadId) {h : Nat} (held : (s.quad q.toNat).array.holder = some h)
    (csum : (s.quad q.toNat).array.csum = false) : Completes (.uncorrectableError (.fold q)) s (fun t =>
      Terminates s t (s.core (4 * q.toNat + h)).regs.id.tag) := by
  have error : foldError q.toNat s = killOpt (holderTag s q.toNat) s := by
    dsimp only [foldError]
    rw [if_neg (by simp [held]), if_pos (by simp [csum])]
  rw [holderTag_of_holder held] at error
  exact completes_killCtx (congrArg Outcome.next error) rfl

theorem barrierError_terminates {b : BitVec 16} (hb : b.toNat < 41280) :
    Completes (.uncorrectableError (.barrier b)) s (fun t => Terminates s t (s.bar b.toNat).tag) :=
  completes_killCtx (congrArg Outcome.next (if_pos hb)) rfl

/-! ### Entries that are dropped and fetched again -/

theorem mem_of_dropOne {α : Type} {k : Nat} {l : List α} {x : α} (h : x ∈ dropOne k l) : x ∈ l := List.mem_of_mem_eraseIdx h

/-- The caches of a core after an error in an entry that k names. -/
def lessCached (k : Nat) (c : Core) : Core := { c with cache :=
  (match k % 4 with
   | 0 => { c.cache with l1 := dropOne (k / 4) c.cache.l1 }
   | 1 => { c.cache with icache := dropOne (k / 4) c.cache.icache }
   | 2 => { c.cache with dtlb := dropOne (k / 4) c.cache.dtlb }
   | _ => { c.cache with ctlb := dropOne (k / 4) c.cache.ctlb }) }

theorem cacheError_eq (n : CoreId) : exec (.uncorrectableError (.cache n)) s =
    .next { s.modCore n.toNat (lessCached (victim s)) with fresh := s.fresh + 1 } := rfl

/-- No line is added to the L1 or the instruction cache, and the registers stay. -/
theorem lessCached_keeps (k : Nat) (c : Core) : (lessCached k c).regs = c.regs ∧
    (∀ x ∈ (lessCached k c).cache.l1, x ∈ c.cache.l1) ∧ ∀ x ∈ (lessCached k c).cache.icache, x ∈ c.cache.icache := by
  rw [lessCached]
  split
  · exact ⟨rfl, fun _ => mem_of_dropOne, fun _ h => h⟩
  · exact ⟨rfl, fun _ h => h, fun _ => mem_of_dropOne⟩
  · exact ⟨rfl, fun _ h => h, fun _ h => h⟩
  · exact ⟨rfl, fun _ h => h, fun _ h => h⟩

theorem cacheError_drops (n : CoreId) : Completes (.uncorrectableError (.cache n)) s (fun t =>
    MemorySame s t ∧ OthersSame s t n ∧ regsOf t n = regsOf s n ∧
    (∀ x ∈ (t.core n.toNat).cache.l1, x ∈ (s.core n.toNat).cache.l1) ∧
    ∀ x ∈ (t.core n.toNat).cache.icache, x ∈ (s.core n.toNat).cache.icache) := by
  obtain ⟨regs, l1, icache⟩ := lessCached_keeps (victim s) (s.core n.toNat)
  have core : ({ s.modCore n.toNat (lessCached (victim s)) with fresh := s.fresh + 1 } : State).core n.toNat =
      lessCached (victim s) (s.core n.toNat) := core_modCore_same s _ _
  refine ⟨_, cacheError_eq n, memorySame_refl s, fun m hm => core_modCore_ne s _ hm, ?_⟩
  dsimp only [regsOf]
  rw [core]
  exact ⟨regs, l1, icache⟩

/-- Nothing is added to the translations that the quads, the copy engines and the dispatchers hold, and nothing else changes. -/
def FewerLeaves (s t : State) : Prop :=
  t.mem = s.mem ∧ t.cores = s.cores ∧
  (∀ k, (∀ l ∈ (t.quad k).l2tlb, l ∈ (s.quad k).l2tlb) ∧ ∀ w ∈ (t.quad k).walks, w ∈ (s.quad k).walks) ∧
  (∀ k, ∀ l ∈ fget [] t.etlb k, l ∈ fget [] s.etlb k) ∧ ∀ k, ∀ l ∈ (t.disp k).tlb, l ∈ (s.disp k).tlb

theorem fewerLeaves_modQuad {q : Nat} {f : Quad → Quad} (l2 : ∀ l ∈ (f (s.quad q)).l2tlb, l ∈ (s.quad q).l2tlb)
    (walks : ∀ w ∈ (f (s.quad q)).walks, w ∈ (s.quad q).walks) : FewerLeaves s (s.modQuad q f) := by
  refine ⟨rfl, rfl, fun k => ?_, fun _ _ h => h, fun _ _ h => h⟩
  by_cases e : k = q
  · rw [e, quad_modQuad_same]
    exact ⟨l2, walks⟩
  · rw [quad_modQuad_ne s f e]
    exact ⟨fun _ h => h, fun _ h => h⟩

theorem fewerLeaves_etlb {d : Nat} {ls : List Leaf} (h : ∀ l ∈ ls, l ∈ s.etlbOf d) :
    FewerLeaves s { s with etlb := fset s.etlb d ls } := by
  refine ⟨rfl, rfl, fun _ => ⟨fun _ h => h, fun _ h => h⟩, fun k l hl => ?_, fun _ _ h => h⟩
  by_cases e : k = d
  · rw [e, fget_fset_same] at hl
    exact e ▸ h l hl
  · rwa [fget_fset_ne _ _ _ e] at hl

theorem fewerLeaves_modDisp {d : Nat} {f : Disp → Disp} (h : ∀ l ∈ (f (s.disp d)).tlb, l ∈ (s.disp d).tlb) :
    FewerLeaves s (s.modDisp d f) := by
  refine ⟨rfl, rfl, fun _ => ⟨fun _ h => h, fun _ h => h⟩, fun _ _ h => h, fun k l hl => ?_⟩
  rw [State.disp] at hl
  by_cases e : k = d
  · rw [e, State.modDisp, fget_fset_same] at hl
    exact e ▸ h l hl
  · rwa [State.modDisp, fget_fset_ne _ _ _ e] at hl

theorem fewerLeaves_quadTlbError (q : Nat) (s : State) : FewerLeaves s (quadTlbError q s) := by
  unfold quadTlbError
  extract_lets k d s1
  have fewer : FewerLeaves s s1 := by
    unfold s1
    split
    · exact fewerLeaves_modQuad (fun _ => mem_of_dropOne) fun _ h => h
    · exact fewerLeaves_modQuad (fun _ h => h) fun _ => mem_of_dropOne
    · exact fewerLeaves_etlb fun _ => mem_of_dropOne
    · exact fewerLeaves_modDisp fun _ => mem_of_dropOne
  exact fewer

theorem quadTlbError_drops (q : QuadId) : Completes (.uncorrectableError (.quadTlb q)) s (fun t => MemorySame s t ∧ t.cores = s.cores ∧
    (∀ k, (∀ l ∈ (t.quad k).l2tlb, l ∈ (s.quad k).l2tlb) ∧ ∀ w ∈ (t.quad k).walks, w ∈ (s.quad k).walks) ∧
    (∀ k, ∀ l ∈ fget [] t.etlb k, l ∈ fget [] s.etlb k) ∧ ∀ k, ∀ l ∈ (t.disp k).tlb, l ∈ (s.disp k).tlb) := by
  obtain ⟨mem, cores, leaves⟩ := fewerLeaves_quadTlbError q.toNat s
  exact ⟨_, rfl, memorySame_of_mem mem, cores, leaves⟩

/-! ### Channels, links, the scheduler and the repair tables -/

theorem channelError_fails {c : BitVec 9} {m : Cmd} {r : List Cmd} (head : HeadOf s c m r) (pending : m.result = none)
    (plain : m.tmpl = none) : Completes (.uncorrectableError (.channel c)) s (fun t =>
      (t.chan c.toNat).cmds = { m with result := some 0x0A, park := none } :: r ∧ MemorySame s t) := by
  have error : channelError c.toNat s = headResult c.toNat 0x0A s := by
    rw [channelError, show (s.chan c.toNat).cmds = m :: r from head]
    dsimp only
    rw [pending, plain]
    rfl
  have failed : ((headResult c.toNat 0x0A s).chan c.toNat).cmds = { m with result := some 0x0A, park := none } :: r := by
    show (fget Chan.reset (fset s.chans c.toNat _) c.toNat).cmds = _
    rw [fget_fset_same]
    dsimp only
    rw [show (s.chan c.toNat).cmds = m :: r from head]
  exact ⟨_, congrArg Outcome.next error, failed, memorySame_refl s⟩

theorem linkError_empty {p : BitVec 6} (replay : (s.link p.toNat).replay = []) (out : (s.link p.toNat).out = []) :
    exec (.uncorrectableError (.link p)) s = .next s := by
  have error : linkError p.toNat s = s := by
    dsimp only [linkError]
    rw [replay, out]
    rfl
  refine congrArg Outcome.next ?_
  dsimp only
  rw [error, ite_self]

theorem restartDisp_keeps (d : DieId) (s : State) : ((restartDisp d.toNat s).disp d.toNat).restart = true ∧
    MemorySame s (restartDisp d.toNat s) ∧ (restartDisp d.toNat s).queues = s.queues ∧ (restartDisp d.toNat s).cores = s.cores := by
  refine ⟨?_, memorySame_refl s, rfl, rfl⟩
  rw [restartDisp, State.modDisp, State.disp, fget_fset_same]

/-- The entry of a pseudo-channel in one copy of the tables. -/
def entryAt (k : Nat) (x : RepairTable) : List (Nat × Nat) × Nat := (fget [] x.rows k, fget 0 x.lanes k)

theorem votedEntry_eq (t : Vector RepairTable 3) (k : Nat) : votedEntry t k =
    if entryAt k t[0] = entryAt k t[1] || entryAt k t[0] = entryAt k t[2] then some (entryAt k t[0])
    else if entryAt k t[1] = entryAt k t[2] then some (entryAt k t[1]) else none := rfl

/-- Two copies outvote the third. -/
theorem votedEntry_of_two {t : Vector RepairTable 3} {k : Nat} {e : List (Nat × Nat) × Nat}
    (h : (entryAt k t[1] = e ∧ entryAt k t[2] = e) ∨ (entryAt k t[0] = e ∧ entryAt k t[2] = e) ∨
      (entryAt k t[0] = e ∧ entryAt k t[1] = e)) : votedEntry t k = some e := by
  rw [votedEntry_eq]
  obtain ⟨h1, h2⟩ | ⟨h0, h2⟩ | ⟨h0, h1⟩ := h
  · rw [h1, h2, Bool.or_self]
    by_cases h0 : entryAt k t[0] = e
    · rw [if_pos (decide_eq_true h0), h0]
    · rw [if_neg (by simpa using h0), if_pos rfl]
  · rw [h0, h2, if_pos (by simp)]
  · rw [h0, h1, if_pos (by simp)]

theorem entryAt_putEntry (k : Nat) (e : List (Nat × Nat) × Nat) (t : Vector RepairTable 3) (i : Fin 3) :
    entryAt k (putEntry k e t)[i] = e := by
  simp [entryAt, putEntry]

/-- The copies of the tables after an error in one of them, by free choices. -/
def struck (k : Nat) (s : State) : Vector RepairTable 3 :=
  let v := Config.freeVec s.fresh
  Vector.ofFn (fun i => if i.val = field v 0 8 % 3
    then { s.flash.tables[i] with
      rows := fset s.flash.tables[i].rows k [(field v 64 32, field v 96 32)], lanes := fset s.flash.tables[i].lanes k (field v 128 8) }
    else s.flash.tables[i])

theorem struck_other {k i : Nat} (hi : i < 3) (h : i ≠ field (Config.freeVec s.fresh) 0 8 % 3) :
    (struck k s)[i] = s.flash.tables[i] := by
  rw [struck, Vector.getElem_ofFn, if_neg h]
  rfl

/-- The error leaves two copies as they were. -/
theorem two_of_struck {k : Nat} {e : List (Nat × Nat) × Nat} (agree : ∀ i : Fin 3, entryAt k s.flash.tables[i] = e) :
    (entryAt k (struck k s)[1] = e ∧ entryAt k (struck k s)[2] = e) ∨ (entryAt k (struck k s)[0] = e ∧ entryAt k (struck k s)[2] = e) ∨
      (entryAt k (struck k s)[0] = e ∧ entryAt k (struck k s)[1] = e) := by
  have keeps (i : Nat) (hi : i < 3) (h : i ≠ field (Config.freeVec s.fresh) 0 8 % 3) : entryAt k (struck k s)[i] = e := by
    rw [struck_other hi h]
    exact agree ⟨i, hi⟩
  have three : field (Config.freeVec s.fresh) 0 8 % 3 < 3 := Nat.mod_lt _ (by decide)
  generalize field (Config.freeVec s.fresh) 0 8 % 3 = j at keeps three
  obtain rfl | rfl | rfl : j = 0 ∨ j = 1 ∨ j = 2 := by omega
  · exact .inl ⟨keeps 1 (by decide) (by decide), keeps 2 (by decide) (by decide)⟩
  · exact .inr (.inl ⟨keeps 0 (by decide) (by decide), keeps 2 (by decide) (by decide)⟩)
  · exact .inr (.inr ⟨keeps 0 (by decide) (by decide), keeps 1 (by decide) (by decide)⟩)

theorem remapError_outvoted {y : BitVec 10} {e : List (Nat × Nat) × Nat}
    (agree : ∀ i : Fin 3, (fget [] s.flash.tables[i].rows y.toNat, fget 0 s.flash.tables[i].lanes y.toNat) = e) :
    Completes (.uncorrectableError (.remap y)) s (fun t => MemorySame s t ∧ t.cores = s.cores ∧
      ∀ i : Fin 3, (fget [] t.flash.tables[i].rows y.toNat, fget 0 t.flash.tables[i].lanes y.toNat) = e) := by
  have voted : votedEntry (struck y.toNat s) y.toNat = some e := votedEntry_of_two (two_of_struck agree)
  refine ⟨_, rfl, memorySame_refl s, rfl, fun i => ?_⟩
  show entryAt y.toNat (match votedEntry (struck y.toNat s) y.toNat with
    | some e => putEntry y.toNat e (struck y.toNat s) | none => struck y.toNat s)[i] = e
  rw [voted]
  exact entryAt_putEntry _ _ _ _

end Sys2Proof.Machine
end

section
/-! PROOF. HBM alerts, repair and retired frames (O46; R251, R377 to R379). -/

namespace Sys2Proof.Machine

open Host (Outcome)

variable {s : State} {pa : Pa}

/-! ### Lists of numbers -/

theorem mem_addNat {x y : Nat} {l : List Nat} : y ∈ addNat x l ↔ y ∈ l ∨ y = x := by
  rw [addNat]
  split
  · next listed =>
    have there : x ∈ l := by simpa using listed
    exact ⟨.inl, fun h => h.elim id fun e => e ▸ there⟩
  · rw [List.mem_append, List.mem_singleton]

theorem poisoned_of_mem {a : Nat} (h : a / 128 ∈ s.poison) : poisoned s a = true := by
  rw [poisoned, List.contains_iff_mem.2 h, Bool.true_or]

/-! ### Alerts -/

theorem hbm_outside (h : hbmEnd ≤ pa.toNat) : exec (.hbmParityAlert pa) s = .next s ∧ exec (.hbmRepair pa) s = .next s := by
  have out : decide (pa.toNat < hbmEnd) = false := decide_eq_false (Nat.not_lt.2 h)
  exact ⟨congrArg Outcome.next (if_pos (by rw [out]; rfl)), congrArg Outcome.next (if_pos (by rw [out]; rfl))⟩

theorem hbmParityAlert_counts (hp : pa.toNat < hbmEnd) (few : alertsOf s pa.toNat < 2) : Completes (.hbmParityAlert pa) s (fun t =>
    alertsOf t pa.toNat = alertsOf s pa.toNat + 1 ∧ t.poison = s.poison ∧ MemorySame s t ∧
    ∀ a, pcOf a = pcOf pa.toNat → a / 128 ≠ pa.toNat / 128 → alertsOf t a = 0) := by
  have inside : decide (pa.toNat < hbmEnd) = true := decide_eq_true hp
  refine ⟨{ s with flash := { s.flash with alerts := fset s.flash.alerts (pcOf pa.toNat) (pa.toNat / 128, alertsOf s pa.toNat + 1) } },
    congrArg Outcome.next ((if_neg (by rw [inside]; decide)).trans (if_pos (by omega))), ?_, rfl, memorySame_refl s, fun a pc line => ?_⟩
  · rw [alertsOf]
    dsimp only
    rw [fget_fset_same, if_pos rfl]
  · rw [alertsOf, pc]
    dsimp only
    rw [fget_fset_same, if_neg (Ne.symm line)]

/-- Poisoning a list of lines adds these to the poison and nothing else. -/
theorem poisonLines_keeps (ls : List Nat) (s : State) :
    (ls.foldl (fun s l => poisonLine l s) s).mem = s.mem ∧ (ls.foldl (fun s l => poisonLine l s) s).flash = s.flash ∧
    ∀ x, x ∈ (ls.foldl (fun s l => poisonLine l s) s).poison ↔ x ∈ s.poison ∨ x ∈ ls := by
  induction ls generalizing s with
  | nil => exact ⟨rfl, rfl, fun x => by simp⟩
  | cons l ls ih =>
    obtain ⟨mem, flash, poison⟩ := ih (poisonLine l s)
    refine ⟨mem, flash, fun x => ?_⟩
    rw [List.foldl_cons, poison, poisonLine, mem_addNat, List.mem_cons, or_assoc]

theorem mem_addressed {s : State} {a l : Nat} (h : l ∈ addressed s a) : l / 512 = a / 65536 := by
  rw [addressed, List.mem_filterMap] at h
  obtain ⟨i, hi, line⟩ := h
  rw [List.mem_range] at hi
  dsimp only at line
  split at line
  · cases line
    omega
  · cases line

theorem line_addressed (s : State) (a : Nat) : a / 128 ∈ addressed s a := by
  rw [addressed, List.mem_filterMap]
  have line : a / 65536 * 512 + a / 128 % 512 = a / 128 := by omega
  exact ⟨a / 128 % 512, List.mem_range.2 (Nat.mod_lt _ (by decide)), by simp [line]⟩

theorem fget_fdel_same {α : Type} (d : α) (m : FMap α) (n : Nat) : fget d (fdel m n) n = d := by
  refine fget_of_not_key ?_
  simp [fdel]

theorem hbmParityAlert_third (hp : pa.toNat < hbmEnd) (two : alertsOf s pa.toNat = 2) : Completes (.hbmParityAlert pa) s (fun t =>
    poisoned t pa.toNat = true ∧ alertsOf t pa.toNat = 0 ∧ MemorySame s t ∧
    ∀ l ∈ t.poison, l ∈ s.poison ∨ l / 512 = pa.toNat / 65536) := by
  have inside : decide (pa.toNat < hbmEnd) = true := decide_eq_true hp
  obtain ⟨mem, flash, poison⟩ := poisonLines_keeps (addressed s pa.toNat)
    { s with flash := { s.flash with alerts := fdel s.flash.alerts (pcOf pa.toNat) }, fresh := s.fresh + 512 }
  refine ⟨_, congrArg Outcome.next ((if_neg (by rw [inside]; decide)).trans (if_neg (by omega))),
    poisoned_of_mem ((poison _).2 (.inr (line_addressed s _))), ?_, memorySame_of_mem mem,
    fun l hl => ((poison l).1 hl).imp_right mem_addressed⟩
  rw [alertsOf, flash]
  dsimp only
  rw [fget_fdel_same]
  exact ite_self _

/-! ### Lane swap and retirement -/

/-- The lists of frames are full. -/
def ListsFull (s : State) : Prop := 16384 ≤ s.flash.badFrames.length ∧ 4096 ≤ s.flash.overflow.length

theorem full_eq (s : State) : (decide (16384 ≤ s.flash.badFrames.length) && decide (4096 ≤ s.flash.overflow.length)) = true ↔ ListsFull s := by
  simp [ListsFull]

theorem hbmRepair_full (full : ListsFull s) : exec (.hbmRepair pa) s = .next s :=
  congrArg Outcome.next (if_pos (by simp [full.1, full.2]))

theorem pcOf_eq (a : Nat) : pcOf a = a / 2 ^ 16 % 2 ^ 5 * 32 + a / 2 ^ 21 % 2 ^ 5 := rfl

/-- The pseudo-channel of pa runs with one more spare lane. -/
def laneSwapped (pa : Nat) (r : BitVec 32) (s : State) : State :=
  { s with
    repcfg := fset s.repcfg (bitsN pa 16 5) (r - 0x10000)
    flash := { s.flash with
      paused := addNat (pcOf pa) s.flash.paused
      lanes := fset s.flash.lanes (pcOf pa) (fget 0 s.flash.lanes (pcOf pa) + 1)
      tables := putEntry (pcOf pa) (fget [] s.flash.remaps (pcOf pa), fget 0 s.flash.lanes (pcOf pa) + 1) s.flash.tables } }

theorem hbmRepair_eq (hp : pa.toNat < hbmEnd) (set : (fget 0 s.repcfg (bitsN pa.toNat 16 5)).toNat / 2 % 2 ^ 15 ≠ 0)
    (room : ¬ListsFull s) : exec (.hbmRepair pa) s = .next
      (if (fget 0 s.repcfg (bitsN pa.toNat 16 5)).getLsbD 0 && field (fget 0 s.repcfg (bitsN pa.toNat 16 5)) 16 16 ≠ 0
        then laneSwapped pa.toNat (fget 0 s.repcfg (bitsN pa.toNat 16 5)) s else retireFrame (pa.toNat / 65536) s) := by
  have inside : decide (pa.toNat < hbmEnd) = true := decide_eq_true hp
  have used : field (fget 0 s.repcfg (bitsN pa.toNat 16 5)) 1 15 ≠ 0 := set
  refine congrArg Outcome.next (if_neg ?_)
  rw [Bool.or_eq_true, Bool.or_eq_true, full_eq, decide_eq_true_eq, inside]
  simpa [room] using used

theorem hbmRepair_swaps (hp : pa.toNat < hbmEnd) :
    let r := fget 0 s.repcfg (pa.toNat / 2 ^ 16 % 2 ^ 5)
    let k := pa.toNat / 2 ^ 16 % 2 ^ 5 * 32 + pa.toNat / 2 ^ 21 % 2 ^ 5
    r.toNat / 2 % 2 ^ 15 ≠ 0 → ¬ListsFull s → r.getLsbD 0 = true → r.toNat / 2 ^ 16 % 2 ^ 16 ≠ 0 →
    Completes (.hbmRepair pa) s (fun t => isPaused t pa.toNat = true ∧
      (fget 0 t.repcfg (pa.toNat / 2 ^ 16 % 2 ^ 5)).toNat = r.toNat - 2 ^ 16 ∧
      fget 0 t.flash.lanes k = fget 0 s.flash.lanes k + 1 ∧ MemorySame s t ∧
      ∀ i : Fin 3, fget 0 t.flash.tables[i].lanes k = fget 0 s.flash.lanes k + 1) := by
  intro r k set room on spare
  have swapped : exec (.hbmRepair pa) s = .next (laneSwapped pa.toNat r s) :=
    (hbmRepair_eq hp set room).trans (congrArg _ (if_pos (by simpa using ⟨on, spare⟩)))
  have enough : 2 ^ 16 ≤ r.toNat := by omega
  refine ⟨_, swapped, ?_, ?_, fget_fset_same _ _ _ _, memorySame_refl s, fun i => ?_⟩
  · have listed : pcOf pa.toNat ∈ addNat (pcOf pa.toNat) s.flash.paused := mem_addNat.2 (.inr rfl)
    show (decide (pa.toNat < hbmEnd) && (addNat (pcOf pa.toNat) s.flash.paused).contains (pcOf pa.toNat)) = true
    rw [decide_eq_true hp, List.contains_iff_mem.2 listed]
    rfl
  · show (fget 0 (fset s.repcfg (bitsN pa.toNat 16 5) (r - 0x10000)) (bitsN pa.toNat 16 5)).toNat = _
    rw [fget_fset_same, BitVec.toNat_sub_of_le (by rw [BitVec.le_def]; exact enough)]
    rfl
  · exact congrArg Prod.snd (entryAt_putEntry k _ _ i)

theorem hbmRepair_retires (hp : pa.toNat < hbmEnd) :
    let r := fget 0 s.repcfg (pa.toNat / 2 ^ 16 % 2 ^ 5)
    r.toNat / 2 % 2 ^ 15 ≠ 0 → ¬ListsFull s → (r.getLsbD 0 = false ∨ r.toNat / 2 ^ 16 % 2 ^ 16 = 0) →
    pa.toNat / 65536 ∉ s.flash.leaving → Completes (.hbmRepair pa) s (fun t =>
      t.flash.leaving = s.flash.leaving ++ [pa.toNat / 65536] ∧ t.flash.badFrames = s.flash.badFrames ∧ t.poison = s.poison ∧
      t.host = s.host ++ [.frame (pa.toNat / 65536 * 65536)] ∧ MemorySame s t) := by
  intro r set room noSpare fresh
  have retired : exec (.hbmRepair pa) s = .next (retireFrame (pa.toNat / 65536) s) := by
    refine (hbmRepair_eq hp set room).trans (congrArg _ (if_neg ?_))
    rw [Bool.and_eq_true, decide_eq_true_eq]
    rintro ⟨on, spare⟩
    exact noSpare.elim (fun off => Bool.noConfusion (off.symm.trans on)) spare
  have leaves : retireFrame (pa.toNat / 65536) s =
      { s with flash := { s.flash with leaving := s.flash.leaving ++ [pa.toNat / 65536] } }.tell (.frame (pa.toNat / 65536 * 65536)) := by
    refine if_neg ?_
    rw [Bool.or_eq_true, full_eq]
    simp [fresh, room]
  exact ⟨_, retired.trans (congrArg _ leaves), rfl, rfl, rfl, rfl, memorySame_refl s⟩

/-! ### Frames that system software has emptied -/

/-- The state without a frame that leaves, before it joins a list. -/
def emptied (f : Nat) (s : State) : State :=
  { s with
    poison := s.poison.filter (fun x => x / 512 ≠ f)
    flash := { s.flash with leaving := s.flash.leaving.filter (fun x => x ≠ f) } }

theorem emptied_keeps (f : Nat) (s : State) : f ∉ (emptied f s).flash.leaving ∧ (∀ l ∈ (emptied f s).poison, l / 512 ≠ f) ∧
    ∀ l ∈ s.poison, l / 512 ≠ f → l ∈ (emptied f s).poison := by
  simp +contextual [emptied]

theorem frameDone_eq {f : Nat} (h : f ∈ s.flash.leaving) : frameDone f s =
    if s.flash.badFrames.length < 16384
      then { emptied f s with flash := { (emptied f s).flash with badFrames := addNat f s.flash.badFrames } }
    else if s.flash.overflow.length < 4096
      then { emptied f s with flash := { (emptied f s).flash with overflow := addNat f s.flash.overflow } }.tell .listFull
    else emptied f s := if_neg (by simpa using h)

theorem frameDone_joins {f : Nat} (h : f ∈ s.flash.leaving) :
    let t := frameDone f s
    f ∉ t.flash.leaving ∧ (∀ l ∈ t.poison, l / 512 ≠ f) ∧ (∀ l ∈ s.poison, l / 512 ≠ f → l ∈ t.poison) ∧ MemorySame s t ∧
    t.cores = s.cores ∧
    (s.flash.badFrames.length < 16384 → f ∈ t.flash.badFrames ∧ t.flash.overflow = s.flash.overflow) ∧
    (16384 ≤ s.flash.badFrames.length → s.flash.overflow.length < 4096 → t.flash.badFrames = s.flash.badFrames ∧
      f ∈ t.flash.overflow ∧ t.host = s.host ++ [.listFull]) := by
  obtain ⟨left, clean, rest⟩ := emptied_keeps f s
  have joined (l : List Nat) : f ∈ addNat f l := mem_addNat.2 (.inr rfl)
  intro t
  unfold t
  rw [frameDone_eq h]
  by_cases room : s.flash.badFrames.length < 16384
  · rw [if_pos room]
    exact ⟨left, clean, rest, memorySame_refl s, rfl, fun _ => ⟨joined _, rfl⟩, fun full => absurd room (Nat.not_lt.2 full)⟩
  · rw [if_neg room]
    by_cases space : s.flash.overflow.length < 4096
    · rw [if_pos space]
      exact ⟨left, clean, rest, memorySame_refl s, rfl, fun k => absurd k room, fun _ _ => ⟨rfl, joined _, rfl⟩⟩
    · rw [if_neg space]
      exact ⟨left, clean, rest, memorySame_refl s, rfl, fun k => absurd k room, fun _ k => absurd k space⟩

theorem laneSwapDone_resumes (k : BitVec 10) : Completes (.laneSwapDone k) s (fun t => k.toNat ∉ t.flash.paused ∧ MemorySame s t ∧
    ∀ j, j ≠ k.toNat → (j ∈ t.flash.paused ↔ j ∈ s.flash.paused)) := by
  refine ⟨_, rfl, ?_, memorySame_refl s, fun j hj => ?_⟩
  · simp
  · simp [hj]

/-! ### A table that no two copies agree on -/

/-- The frames of a pseudo-channel. -/
theorem mem_framesOf {a k : Nat} (ha : a < hbmEnd) (pc : pcOf a = k) : a / 65536 ∈ framesOf k := by
  rw [pcOf_eq] at pc
  rw [framesOf, List.mem_map]
  have inside : a < 2 ^ 41 := ha
  have bank : a / 2 ^ 21 = a / 2 ^ 16 / 32 := by omega
  have frame : a / 2 ^ 16 < 2 ^ 25 := by omega
  rw [bank] at pc
  rw [show a / 65536 = a / 2 ^ 16 from rfl]
  generalize a / 2 ^ 16 = n at pc frame
  have low : k / 32 = n % 32 := by omega
  have high : k % 32 = n / 32 % 32 := by omega
  exact ⟨n / 1024, List.mem_range.2 (by omega), by rw [low, high]; omega⟩

/-- The state in which the contexts of an offline pseudo-channel are terminated. -/
def wentOffline (k : Nat) (s : State) : State :=
  { s with flash := { s.flash with
    offline := addNat k s.flash.offline
    badFrames := s.flash.badFrames ++ (framesOf k).filter (fun f => !s.flash.badFrames.contains f) } }

theorem tableVoteFail_eq {k : BitVec 10} (on : k.toNat ∉ s.flash.offline) : exec (.tableVoteFail k) s = .next
    (((s.flash.presence.filter (fun p => p.1 = k.toNat)).map (fun p => p.2)).foldl (fun s t => killCtx t s) (wentOffline k.toNat s)) :=
  congrArg Outcome.next (if_neg (by simpa using on))

theorem tableVoteFail_offline {k : BitVec 10} (off : k.toNat ∈ s.flash.offline) : exec (.tableVoteFail k) s = .next s :=
  congrArg Outcome.next (if_pos (by simpa using off))

theorem tableVoteFail_frames {k : BitVec 10} (on : k.toNat ∉ s.flash.offline) (nobody : s.flash.presence = []) :
    Completes (.tableVoteFail k) s (fun t => k.toNat ∈ t.flash.offline ∧ MemorySame s t ∧ t.cores = s.cores ∧
      ∀ pa, pa < hbmEnd → pcOf pa = k.toNat → poisoned t pa = true ∧ pa / 65536 ∈ t.flash.badFrames) := by
  have listed : k.toNat ∈ addNat k.toNat s.flash.offline := mem_addNat.2 (.inr rfl)
  refine ⟨wentOffline k.toNat s, (tableVoteFail_eq on).trans (by rw [nobody]; rfl), listed, memorySame_refl s, rfl, fun a ha pc => ⟨?_, ?_⟩⟩
  · show (_ || (decide (a < hbmEnd) && (addNat k.toNat s.flash.offline).contains (pcOf a))) = true
    rw [pc, List.contains_iff_mem.2 listed, decide_eq_true ha, Bool.and_self, Bool.or_true]
  · show a / 65536 ∈ s.flash.badFrames ++ (framesOf k.toNat).filter (fun f => !s.flash.badFrames.contains f)
    rw [List.mem_append, List.mem_filter]
    by_cases bad : a / 65536 ∈ s.flash.badFrames
    · exact .inl bad
    · exact .inr ⟨mem_framesOf ha pc, by simpa using bad⟩

theorem tableVoteFail_present {k : BitVec 10} {tag : Nat} (on : k.toNat ∉ s.flash.offline) (one : s.flash.presence = [(k.toNat, tag)]) :
    Completes (.tableVoteFail k) s (fun t => Terminates s t tag) := by
  have ends : exec (.tableVoteFail k) s = .next (killCtx tag (wentOffline k.toNat s)) := by
    rw [tableVoteFail_eq on, one]
    simp
  exact completes_killCtx ends rfl

end Sys2Proof.Machine
end

section
/-! PROOF. Restart of a scheduler, heat and swallowed pulses (O46; R8, R18, R30, R307, R380). -/

namespace Sys2Proof.Machine

open Host (Outcome)

variable {s : State}

/-! ### The scheduler restarts -/

theorem schedulerRestartDone_not {d : DieId} (h : (s.disp d.toNat).restart = false) :
    exec (.schedulerRestartDone d) s = .next s :=
  congrArg Outcome.next (if_neg (by rw [h]; decide))

/-- A scheduler that has restarted. -/
def restarted (d : Nat) (s : State) : State := s.modDisp d (fun x => { x with restart := false })

theorem disp_restarted (d : Nat) (s : State) : ((restarted d s).disp d).restart = false := by
  rw [restarted, State.modDisp, State.disp, fget_fset_same]

theorem queue_modQueue_same (s : State) (q : Nat) (f : Queue → Queue) : (s.modQueue q f).queue q = f (s.queue q) := by
  rw [State.modQueue, State.queue, fget_fset_same]

/-- With one queue, idle and at home here, the latched writes of that queue take effect. -/
theorem schedulerRestartDone_one {d : DieId} {q : Nat} {x : Queue} (waits : (s.disp d.toNat).restart = true)
    (one : s.queues = [(q, x)]) (home : x.home = d.toNat) (idle : x.st = .idle) :
    exec (.schedulerRestartDone d) s = .next (flushBells q (restarted d.toNat s)) := by
  refine congrArg Outcome.next ((if_pos waits).trans ?_)
  show ((s.queues.filter _).foldl _ (restarted d.toNat s)) = _
  rw [one]
  simp [home, idle]

theorem queue_of_one {q : Nat} {x : Queue} (one : s.queues = [(q, x)]) (d : Nat) : (restarted d s).queue q = x := by
  show fget Queue.reset s.queues q = x
  rw [one]
  exact if_pos rfl

theorem flushBells_single {q : Nat} {e : Option Word × Option (BitVec 32)} (h : (s.queue q).latched = [e]) :
    flushBells q s = applyBell q e.1 e.2 (s.modQueue q (fun x => { x with latched := [] })) := by
  rw [flushBells, h]
  rfl

theorem schedulerRestartDone_wakes {d : DieId} {q : Nat} {x : Queue} {v : Word} (waits : (s.disp d.toNat).restart = true)
    (one : s.queues = [(q, x)]) (home : x.home = d.toNat) (idle : x.st = .idle) (latched : x.latched = [(some v, none)]) :
    Completes (.schedulerRestartDone d) s (fun t => (t.disp d.toNat).restart = false ∧ (t.queue q).wake = v ∧
      (t.queue q).wakep = true ∧ (t.queue q).latched = []) := by
  have held : ((restarted d.toNat s).queue q).latched = [(some v, none)] := by rw [queue_of_one one, latched]
  refine ⟨_, (schedulerRestartDone_one waits one home idle).trans (congrArg _ (flushBells_single held)), disp_restarted _ s, ?_⟩
  dsimp only [applyBell]
  rw [queue_modQueue_same, queue_modQueue_same]
  exact ⟨rfl, rfl, rfl⟩

theorem schedulerRestartDone_rings {d : DieId} {q : Nat} {x : Queue} {v : BitVec 32} (waits : (s.disp d.toNat).restart = true)
    (one : s.queues = [(q, x)]) (home : x.home = d.toNat) (idle : x.st = .idle) (latched : x.latched = [(none, some v)])
    (fits : (v - x.head).toNat ≤ 2 ^ (x.lsz + 4)) :
    Completes (.schedulerRestartDone d) s (fun t => (t.disp d.toNat).restart = false ∧ (t.queue q).tail = v) := by
  have was : (restarted d.toNat s).queue q = x := queue_of_one one _
  have held : ((restarted d.toNat s).queue q).latched = [(none, some v)] := by rw [was, latched]
  refine ⟨_, (schedulerRestartDone_one waits one home idle).trans (congrArg _ (flushBells_single held)), ?_⟩
  dsimp only [applyBell]
  rw [if_neg (by rw [queue_modQueue_same, was]; simpa using fun _ => fits)]
  refine ⟨disp_restarted _ s, ?_⟩
  rw [queue_modQueue_same]

/-! ### Heat -/

theorem tenMs_eq : tenMs = 10 ^ 10 := rfl

/-- A quad that runs at the ceiling for its heat. -/
def atCeiling (x : Quad) : Quad := { x with hot := true, swSet := BitVec.ofNat 16 topRatio }

theorem thermalEvent_eq (q : QuadId) : exec (.thermalEvent q) s = .next
    (if ((s.quad q.toNat).limOver && (s.quad q.toNat).limAt + tenMs ≤ s.now && (s.quad q.toNat).ceilAt.any (fun t => t + tenMs ≤ s.now)) = true
      then (s.modQuad q.toNat atCeiling).tell (.thermal q.toNat) else s) := rfl

theorem thermalEvent_stops (q : QuadId) {w : Nat} (beyond : (s.quad q.toNat).limOver = true) (since : (s.quad q.toNat).limAt + 10 ^ 10 ≤ s.now)
    (ceil : (s.quad q.toNat).ceilAt = some w) (long : w + 10 ^ 10 ≤ s.now) : Completes (.thermalEvent q) s (fun t =>
      (t.quad q.toNat).hot = true ∧ (t.quad q.toNat).swSet = 57344 ∧ t.host = s.host ++ [.thermal q.toNat] ∧ MemorySame s t ∧
      t.cores = s.cores) := by
  have since' : decide ((s.quad q.toNat).limAt + tenMs ≤ s.now) = true := decide_eq_true (by rwa [tenMs_eq])
  have long' : decide (w + tenMs ≤ s.now) = true := decide_eq_true (by rwa [tenMs_eq])
  refine ⟨_, (thermalEvent_eq q).trans (congrArg _ (if_pos ?_)), ?_⟩
  · rw [beyond, since', ceil, Option.any_some, long']
    rfl
  · have quad : ((s.modQuad q.toNat atCeiling).tell (.thermal q.toNat)).quad q.toNat = atCeiling (s.quad q.toNat) :=
      quad_modQuad_same s _ _
    dsimp only
    rw [quad]
    exact ⟨rfl, rfl, rfl, memorySame_refl s, rfl⟩

theorem thermalEvent_none (q : QuadId) (h : (s.quad q.toNat).limOver = false ∨ s.now < (s.quad q.toNat).limAt + 10 ^ 10 ∨
    (s.quad q.toNat).ceilAt = none) : exec (.thermalEvent q) s = .next s := by
  refine (thermalEvent_eq q).trans (congrArg _ (if_neg ?_))
  rw [Bool.and_eq_true, Bool.and_eq_true, decide_eq_true_eq, tenMs_eq]
  rintro ⟨⟨beyond, since⟩, long⟩
  obtain h | h | h := h
  · exact Bool.noConfusion (h.symm.trans beyond)
  · omega
  · rw [h] at long
    exact Bool.noConfusion long

theorem thermalClear_eq (q : QuadId) : exec (.thermalClear q) s = .next
    (if (!(s.quad q.toNat).limOver && (s.quad q.toNat).limAt + tenMs ≤ s.now) = true
      then s.modQuad q.toNat (fun x => { x with hot := false }) else s) := rfl

theorem thermalClear_resumes (q : QuadId) (met : (s.quad q.toNat).limOver = false) (since : (s.quad q.toNat).limAt + 10 ^ 10 ≤ s.now) :
    Completes (.thermalClear q) s (fun t => (t.quad q.toNat).hot = false ∧ t.host = s.host ∧ MemorySame s t ∧ t.cores = s.cores) := by
  have since' : decide ((s.quad q.toNat).limAt + tenMs ≤ s.now) = true := decide_eq_true (by rwa [tenMs_eq])
  refine ⟨_, (thermalClear_eq q).trans (congrArg _ (if_pos ?_)), ?_, rfl, memorySame_refl s, rfl⟩
  · rw [met, since']
    rfl
  · rw [quad_modQuad_same]

theorem thermalClear_none (q : QuadId) (h : (s.quad q.toNat).limOver = true ∨ s.now < (s.quad q.toNat).limAt + 10 ^ 10) :
    exec (.thermalClear q) s = .next s := by
  refine (thermalClear_eq q).trans (congrArg _ (if_neg ?_))
  rw [Bool.and_eq_true, Bool.not_eq_true', decide_eq_true_eq, tenMs_eq]
  rintro ⟨met, since⟩
  obtain h | h := h
  · exact Bool.noConfusion (met.symm.trans h)
  · omega

/-! ### Swallowed pulses -/

/-- The monitors and the trace alone record. -/
def OnlyRecords (s t : State) : Prop := t.mem = s.mem ∧ t.cores = s.cores ∧ t.quads = s.quads

theorem onlyRecords_monRecord {t : State} {d src tag core v : Nat} (h : OnlyRecords s t) : OnlyRecords s (monRecord t d src tag core v) := by
  unfold monRecord
  extract_lets ms hit s1
  split
  · exact h
  · unfold traceSource
    extract_lets x a b
    split
    · exact h
    · exact h

/-- The ratio that a quad swallows at. -/
def ratioSet (hot : Bool) (r c : Nat) : Nat := if hot then topRatio else min r (min c topRatio)

/-- A quad with its new ratios. -/
def quadSwallows (now r c : Nat) (x : Quad) (hot : Bool) : Quad :=
  { x with
    swCeil := BitVec.ofNat 16 (min c topRatio), swSet := BitVec.ofNat 16 (ratioSet hot r c)
    ceilAt := if ratioSet hot r c = topRatio then x.ceilAt.or (some now) else none }

theorem swallowUpdate_records (q r c : Nat) (s : State) :
    OnlyRecords (s.modQuad q (fun x => quadSwallows s.now r c x (s.quad q).hot)) (swallowUpdate q r c s) :=
  foldl_keeps (P := OnlyRecords _) (fun _ _ h => onlyRecords_monRecord h) _ ⟨rfl, rfl, rfl⟩

theorem ratioSet_le (hot : Bool) (r c : Nat) : ratioSet hot r c ≤ 57344 := by
  rw [ratioSet]
  split
  · exact Nat.le_refl _
  · exact (Nat.min_le_right ..).trans (Nat.min_le_right ..)

theorem toNat_ratio {n : Nat} (h : n ≤ 57344) : (BitVec.ofNat 16 n).toNat = n := by
  rw [BitVec.toNat_ofNat, Nat.mod_eq_of_lt (by omega)]

theorem swallowUpdate_sets (q : QuadId) (r c : BitVec 16) : Completes (.swallowUpdate q r c) s (fun t =>
    let y := s.quad q.toNat
    (t.quad q.toNat).swCeil.toNat = min 57344 c.toNat ∧
    (t.quad q.toNat).swSet.toNat = (if y.hot = true then 57344 else min r.toNat (min 57344 c.toNat)) ∧
    (t.quad q.toNat).swTotal = y.swTotal ∧ (t.quad q.toNat).swRatio = y.swRatio ∧
    (t.quad q.toNat).cycle = y.cycle ∧ MemorySame s t ∧ t.cores = s.cores) := by
  obtain ⟨mem, cores, quads⟩ := swallowUpdate_records q.toNat r.toNat c.toNat s
  have quad : (swallowUpdate q.toNat r.toNat c.toNat s).quad q.toNat =
      quadSwallows s.now r.toNat c.toNat (s.quad q.toNat) (s.quad q.toNat).hot := by
    rw [State.quad, quads]
    exact quad_modQuad_same ..
  refine ⟨_, rfl, ?_⟩
  dsimp only
  rw [quad]
  refine ⟨(toNat_ratio (Nat.min_le_right ..)).trans (Nat.min_comm ..), (toNat_ratio (ratioSet_le ..)).trans ?_, rfl, rfl, rfl,
    memorySame_of_mem mem, cores⟩
  rw [ratioSet, Nat.min_comm c.toNat]
  rfl

theorem quad_swallowPulse {q : Nat} (h : (s.quad q).swNow < (s.quad q).swSet.toNat) :
    (swallowPulse q s).quad q = refPulse true (s.quad q) := by
  rw [swallowPulse, if_pos h, quad_modQuad_same]

theorem swallowPulse_full {q : Nat} (h : (s.quad q).swSet.toNat ≤ (s.quad q).swNow) : swallowPulse q s = s :=
  if_neg (Nat.not_lt.2 h)

theorem refPulse_within {x : Quad} (h : x.swRef ≠ 65535) : refPulse true x =
    { x with swTotal := x.swTotal + 1, swRef := x.swRef + 1, swNow := x.swNow + 1 } := by
  dsimp only [refPulse]
  rw [if_neg h]
  rfl

theorem refPulse_ends {x : Quad} (h : x.swRef = 65535) : refPulse true x =
    { x with swTotal := x.swTotal + 1, swRatio := BitVec.ofNat 16 (x.swNow + 1), swRef := 0, swNow := 0 } := by
  dsimp only [refPulse]
  rw [if_pos h]
  rfl

end Sys2Proof.Machine

namespace Sys2Proof

open Machine

/-- Settles O46: each error, repair, restart and limit from the lemma that says what its event leaves. -/
theorem errorsAndRepair : Obligations.ErrorsAndRepair := by
  refine ⟨fun s pa => ⟨lineError_poisons, sliceError_clean, fun _ => sliceError_dirty, fun _ => padError_terminates⟩,
    fun s n => ⟨regsError_terminates n, regsError_idle n, fun _ => accError_terminates n, fun _ => accError_wide n, cacheError_drops n⟩,
    fun s q c b d m r x => ⟨quadTlbError_drops q, foldError_free q, fun _ => foldError_held q, channelError_fails,
      barrierError_terminates, linkError_empty, ?_, fun _ _ => remapError_outvoted⟩,
    fun s pa => ⟨hbm_outside, hbmParityAlert_counts, hbmParityAlert_third, hbmRepair_full, fun hp set room =>
      ⟨hbmRepair_swaps hp set room, hbmRepair_retires hp set room⟩⟩,
    fun s f => frameDone_joins,
    fun s k => ⟨rfl, laneSwapDone_resumes k, tableVoteFail_frames, fun _ => tableVoteFail_present, tableVoteFail_offline⟩,
    fun s d => ⟨?_, schedulerRestartDone_not, fun q x waits one home idle =>
      ⟨fun _ => schedulerRestartDone_wakes waits one home idle, fun _ => schedulerRestartDone_rings waits one home idle⟩⟩,
    fun s q r c => ⟨fun _ => thermalEvent_stops q, thermalEvent_none q, thermalClear_resumes q, thermalClear_none q,
      swallowUpdate_sets q r c⟩,
    fun s q => ⟨fun below within => ?_, fun below ends => ?_, swallowPulse_full⟩⟩
  · obtain ⟨restart, mem, -⟩ := restartDisp_keeps d s
    exact ⟨_, rfl, restart, mem⟩
  · exact ⟨_, rfl, restartDisp_keeps d s⟩
  · rw [quad_swallowPulse below, refPulse_within within]
    exact ⟨rfl, rfl, rfl, rfl, rfl⟩
  · rw [quad_swallowPulse below, refPulse_ends ends]
    exact ⟨rfl, BitVec.toNat_ofNat _ _, rfl, rfl, rfl⟩

end Sys2Proof
end

section
/-! PROOF. What the host reads and writes (O48; R29, R351, R356, R375, R381). -/

namespace Sys2Proof.Machine

open Host (Outcome)

variable {s : State} {a : Nat} {en : BitVec 8} {v : Word}

/-! ### Where an access lands -/

/-- An address of the HBM or of host memory. -/
def Ordinary (a : Nat) : Prop := a < hbmEnd ∨ isHost a = true

theorem ordinary_bounds (h : Ordinary a) : a < 2 ^ 41 ∨ 2 ^ 48 ≤ a ∧ a < 2 ^ 49 := by
  obtain h | h := h
  · exact .inl h
  · rw [isHost, Bool.and_eq_true, decide_eq_true_eq, decide_eq_true_eq] at h
    exact .inr h

theorem ordinary_add {k i : Nat} (hk : Ordinary (k / 8 * 8)) (hi : i < 8) : Ordinary (k / 8 * 8 + i) := by
  have bounds := ordinary_bounds hk
  rw [Ordinary, isHost, Bool.and_eq_true, decide_eq_true_eq, decide_eq_true_eq]
  have hbm : hbmEnd = 2 ^ 41 := rfl
  have lo : hostBase = 2 ^ 48 := rfl
  have hi' : hostEnd = 2 ^ 49 := rfl
  rw [hbm, lo, hi']
  omega

/-- Ordinary memory is no register, mailbox or aperture. -/
theorem ordinary_plain (h : Ordinary a) :
    isEngine a = false ∧ isArrive a = false ∧ isCtl a = false ∧ isMail a = false ∧ isDoorbell a = false := by
  have bounds := ordinary_bounds h
  have below (n m : Nat) (hn : 2 ^ 49 ≤ n) : (decide (n ≤ a) && decide (a < m)) = false := by
    rw [decide_eq_false (by omega), Bool.false_and]
  exact ⟨below _ _ (by decide), below _ _ (by decide), below _ _ (by decide), below _ _ (by decide), below _ _ (by decide)⟩

theorem isDevice_ordinary (h : Ordinary a) : isDevice a = false := by
  obtain ⟨eng, arr, ctl, -⟩ := ordinary_plain h
  rw [isDevice, eng, arr, ctl]
  rfl

theorem targetOf_hbm (h : a < hbmEnd) : targetOf s a = some 0 := if_pos h

theorem targetOf_host (h : isHost a = true) : targetOf s a = some 2 := by
  have bounds := h
  rw [isHost, Bool.and_eq_true, decide_eq_true_eq, decide_eq_true_eq] at bounds
  have lo : hostBase = 2 ^ 48 := rfl
  have hbm : hbmEnd = 2 ^ 41 := rfl
  have tier : tierEnd = 2 ^ 43 := rfl
  rw [targetOf, if_neg (by omega), if_neg (by omega), if_pos h]

/-- The host's rights at ordinary memory. -/
theorem hostAllowed_ordinary (h : Ordinary a) (free : reservedPa s a = false) (wr : Bool) : hostAllowed s false wr a =
    if a < hbmEnd && (s.port.cxl || isRecord s a) then true
    else match targetOf s a with
      | some t => hasRight s 0 4 t (if wr then 1 else 0)
      | none => false := by
  obtain ⟨eng, arr, -, -, bell⟩ := ordinary_plain h
  rw [hostAllowed, free, arr, eng, bell]
  rfl

/-- The cases in which the host may read or write ordinary memory. -/
def HostMay (s : State) (bit a : Nat) : Prop :=
  isHost a = true ∧ hasRight s 0 4 2 bit = true ∨
  a < hbmEnd ∧ (s.port.cxl = true ∨ isRecord s a = true ∨ hasRight s 0 4 0 bit = true)

theorem HostMay.ordinary {bit : Nat} (h : HostMay s bit a) : Ordinary a := h.symm.imp And.left And.left

theorem hostAllowed_of_may {wr : Bool} (h : HostMay s (if wr then 1 else 0) a) (free : reservedPa s a = false) :
    hostAllowed s false wr a = true := by
  rw [hostAllowed_ordinary h.ordinary free]
  obtain ⟨host, right⟩ | ⟨hbm, way⟩ := h
  · rw [targetOf_host host]
    exact (ite_eq_left_iff.2 fun _ => right)
  · rw [targetOf_hbm hbm]
    obtain cxl | record | right := way
    · exact if_pos (by simp [hbm, cxl])
    · exact if_pos (by simp [hbm, record])
    · exact (ite_eq_left_iff.2 fun _ => right)

theorem booted_iff (s : State) : booted s = true ↔ s.boot.stage = 8 ∧ s.boot.recovery = false := by
  simp [booted]

theorem hostAccess_unbooted (w x : BitVec 1) (pa : Pa) (h : s.boot.stage ≠ 8 ∨ s.boot.recovery = true) :
    exec (.hostAccess w x pa en v) s = .next { s with host := s.host ++ [.unsupported] } := by
  have off : booted s = false := by
    rw [Bool.eq_false_iff, ne_eq, booted_iff]
    rintro ⟨stage, recovery⟩
    exact h.elim (· stage) fun r => Bool.noConfusion (recovery.symm.trans r)
  exact congrArg Outcome.next (if_pos (by rw [off]; rfl))

/-- The access of the host to the word of pa, once the module has booted. -/
theorem hostAccess_booted (w : BitVec 1) (pa : Pa) (up : booted s = true) : exec (.hostAccess w 0 pa en v) s = .next
    (if !hostAllowed s false (w = 1) (pa.toNat / 8 * 8) then s.tell .unsupported
     else if w = 1 then
      (if isDevice (pa.toNat / 8 * 8) then devWrite false 3 (pa.toNat / 8 * 8) en v s
       else testWaits (pa.toNat / 8 * 8) (hostPut (namedBytes (pa.toNat / 8 * 8) en v)
         (dbgStore dbgcmdWrite (namedBytes (pa.toNat / 8 * 8) en v) s)))
     else s.tell (.read (BitVec.ofNat 64 (leNat ((List.range 8).map
       (fun i => if en.getLsbD i then hostByte s (pa.toNat / 8 * 8 + i) else 0)))))) := by
  refine congrArg Outcome.next ?_
  show (if !booted s then _ else _) = _
  rw [up]
  simp only [Bool.not_true, Bool.false_eq_true, if_false, decide_eq_true_eq]
  rfl

theorem hostAccess_refused {pa : Pa} (up : booted s = true) (free : reservedPa s (pa.toNat / 8 * 8) = false)
    (hbm : pa.toNat / 8 * 8 < hbmEnd) (cxl : s.port.cxl = false) (record : isRecord s (pa.toNat / 8 * 8) = false)
    (right : hasRight s 0 4 0 1 = false) :
    exec (.hostAccess 1 0 pa en v) s = .next { s with host := s.host ++ [.unsupported] } := by
  have no : hostAllowed s false true (pa.toNat / 8 * 8) = false := by
    rw [hostAllowed_ordinary (.inl hbm) free, if_neg (by simp [cxl, record]), targetOf_hbm hbm]
    exact right
  rw [hostAccess_booted 1 pa up]
  exact congrArg Outcome.next (if_pos (by rw [show decide ((1 : BitVec 1) = 1) = true from rfl, no]; rfl))

/-! ### Writes -/

theorem mem_namedBytes {b : Nat × Byte} (h : b ∈ namedBytes a en v) : ∃ i < 8, b.1 = a + i := by
  rw [namedBytes, List.mem_map] at h
  obtain ⟨i, hi, rfl⟩ := h
  exact ⟨i, List.mem_range.1 (List.mem_of_mem_filter hi), rfl⟩

/-- A store of bytes of ordinary memory puts each of them there. -/
theorem dbgStore_ordinary {run : Nat → BitVec 32 → State → State} {l : List (Nat × Byte)}
    (h : ∀ b ∈ l, Ordinary b.1 ∧ podOf s b.1 = none) :
    dbgStore run l s = { s with mem := l.foldl (fun m e => Memory.put m e.1 e.2) s.mem } := by
  have none : l.filter (fun e => isDevice e.1) = [] := by
    rw [List.filter_eq_nil_iff]
    intro b hb
    rw [isDevice_ordinary (h b hb).1]
    decide
  rw [dbgStore, none]
  show l.foldl _ s = _
  clear none
  induction l generalizing s with
  | nil => rfl
  | cons b l ih =>
    obtain ⟨plain, pod⟩ := h b List.mem_cons_self
    obtain ⟨-, -, -, mail, -⟩ := ordinary_plain plain
    rw [List.foldl_cons, List.foldl_cons, if_neg (by rw [isDevice_ordinary plain, pod]; decide), if_neg (by rw [mail]; decide)]
    exact ih fun c hc => h c (List.mem_cons_of_mem _ hc)

theorem get_puts {l : List (Nat × Byte)} {m : List Host.Cell} (wf : Memory.wf m = true) (b : Nat) (x : Byte)
    (h : ∀ e ∈ l, e.1 = b → e.2 = x) : Memory.get (l.foldl (fun m e => Memory.put m e.1 e.2) m) b =
      if ∃ e ∈ l, e.1 = b then x else Memory.get m b := by
  induction l generalizing m with
  | nil => simp
  | cons e l ih =>
    rw [List.foldl_cons, ih (Memory.wf_put wf) fun c hc => h c (List.mem_cons_of_mem _ hc), Memory.get_put wf]
    by_cases here : b = e.1
    · rw [if_pos here, h e List.mem_cons_self here.symm, ite_self, if_pos ⟨e, List.mem_cons_self, here.symm⟩]
    · rw [if_neg here]
      refine if_congr ?_ rfl rfl
      rw [List.exists_mem_cons_iff]
      exact ⟨.inr, fun k => k.resolve_left fun q => here q.symm⟩

theorem mem_namedBytes_iff {b : Nat} : (∃ e ∈ namedBytes a en v, e.1 = b) ↔ a ≤ b ∧ b < a + 8 ∧ en.getLsbD (b - a) = true := by
  simp only [namedBytes, List.mem_map, List.mem_filter, List.mem_range]
  constructor
  · rintro ⟨e, ⟨i, ⟨hi, on⟩, rfl⟩, rfl⟩
    rw [Nat.add_sub_cancel_left]
    exact ⟨Nat.le_add_right .., Nat.add_lt_add_left hi a, on⟩
  · rintro ⟨lo, hi, on⟩
    exact ⟨_, ⟨b - a, ⟨by omega, on⟩, rfl⟩, Nat.add_sub_cancel' lo⟩

theorem byte_namedBytes {e : Nat × Byte} {b : Nat} (h : e ∈ namedBytes a en v) (eb : e.1 = b) :
    e.2 = BitVec.ofNat 8 (v.toNat / 256 ^ (b - a)) := by
  rw [namedBytes, List.mem_map] at h
  obtain ⟨i, -, rfl⟩ := h
  rw [← eb]
  dsimp only
  rw [Nat.add_sub_cancel_left, show (256 : Nat) = 2 ^ 8 from rfl, ← pow_mul, field, bitsN]
  refine BitVec.eq_of_toNat_eq ?_
  rw [BitVec.toNat_ofNat, BitVec.toNat_ofNat, Nat.mod_mod]

theorem hostPut_keeps (l : List (Nat × Byte)) (s : State) : (hostPut l s).mem = s.mem ∧ (hostPut l s).host = s.host ∧
    (hostPut l s).cores = s.cores ∧ (hostPut l s).monitors = s.monitors := by
  rw [hostPut]
  split
  · exact ⟨rfl, rfl, rfl, rfl⟩
  · exact ⟨rfl, rfl, rfl, rfl⟩

/-- Which lines are monitored depends on the monitors and the waits of the cores. -/
theorem monitored_of_same {t : State} (cores : t.cores = s.cores) (monitors : t.monitors = s.monitors) (a : Nat) :
    monitored t a = monitored s a := by
  rw [monitored, monitored, liveWaits, liveWaits, cores, monitors]

theorem hostAccess_writes {pa : Pa} (up : booted s = true) (wf : Memory.wf s.mem = true)
    (pods : ∀ i < 8, podOf s (pa.toNat / 8 * 8 + i) = none) (free : reservedPa s (pa.toNat / 8 * 8) = false)
    (may : HostMay s 1 (pa.toNat / 8 * 8)) :
    let a := pa.toNat / 8 * 8
    ∃ u, exec (.hostAccess 1 0 pa en v) s = .next (testWaits a u) ∧ (monitored s a = false → testWaits a u = u) ∧
      u.host = s.host ∧ u.cores = s.cores ∧
      ∀ b, Memory.get u.mem b =
        if a ≤ b ∧ b < a + 8 ∧ en.getLsbD (b - a) = true then BitVec.ofNat 8 (v.toNat / 256 ^ (b - a)) else Memory.get s.mem b := by
  intro a
  have plain : ∀ b ∈ namedBytes a en v, Ordinary b.1 ∧ podOf s b.1 = none := by
    intro b hb
    obtain ⟨i, hi, e⟩ := mem_namedBytes hb
    rw [e]
    exact ⟨ordinary_add may.ordinary hi, pods i hi⟩
  have stored := dbgStore_ordinary (run := dbgcmdWrite) plain
  obtain ⟨mem, host, cores, monitors⟩ := hostPut_keeps (namedBytes a en v) (dbgStore dbgcmdWrite (namedBytes a en v) s)
  refine ⟨hostPut (namedBytes a en v) (dbgStore dbgcmdWrite (namedBytes a en v) s), ?_, fun quiet => if_neg ?_, ?_, ?_, fun b => ?_⟩
  · rw [hostAccess_booted 1 pa up]
    refine congrArg Outcome.next ((if_neg ?_).trans ((if_pos rfl).trans (if_neg ?_)))
    · rw [hostAllowed_of_may (wr := decide ((1 : BitVec 1) = 1)) may free]
      decide
    · rw [isDevice_ordinary may.ordinary]
      decide
  · rw [stored] at cores monitors
    rw [stored, monitored_of_same (s := s) cores monitors, quiet]
    decide
  · rw [host, stored]
  · rw [cores, stored]
  · rw [mem, stored]
    dsimp only
    rw [get_puts wf b _ fun e he eb => byte_namedBytes he eb]
    exact if_congr mem_namedBytes_iff rfl rfl

/-! ### Reads -/

theorem lane_leNat {l : List Byte} (h8 : l.length = 8) {i : Nat} (hi : i < 8) :
    lane 8 (wordVec (BitVec.ofNat 64 (leNat l))) i = (l[i]'(h8 ▸ hi)).toNat := by
  have bound := leNat_lt l
  rw [h8] at bound
  have byte := congrArg BitVec.toNat (byte_leNat (l := l) (i := i) (h8 ▸ hi))
  rw [BitVec.toNat_ofNat, show (256 : Nat) = 2 ^ 8 from rfl, ← pow_mul] at byte
  rw [lane_wordVec, field, BitVec.toNat_ofNat, Nat.mod_eq_of_lt (show leNat l < 2 ^ 64 from bound), bitsN]
  exact byte

theorem hostByte_cases (s : State) (a : Nat) : hostByte s a = dbgByte s a ∨ ∃ e ∈ s.hostlag, e.2.1 = a ∧ hostByte s a = e.2.2 := by
  rw [hostByte]
  split
  · next e found =>
    split
    · exact .inl rfl
    · exact .inr ⟨e, List.mem_of_find?_eq_some found, by simpa using List.find?_some found, rfl⟩
  · exact .inl rfl

theorem dbgByte_ordinary (h : Ordinary a) (pod : podOf s a = none) : dbgByte s a = Memory.get s.mem a := by
  obtain ⟨-, -, -, mail, -⟩ := ordinary_plain h
  exact if_neg (by rw [isDevice_ordinary h, mail, pod]; decide)

theorem hostAccess_reads {pa : Pa} (up : booted s = true) (pods : ∀ i < 8, podOf s (pa.toNat / 8 * 8 + i) = none)
    (free : reservedPa s (pa.toNat / 8 * 8) = false) (may : HostMay s 0 (pa.toNat / 8 * 8))
    (seen : ∀ e ∈ s.hostlag, ¬(pa.toNat / 8 * 8 ≤ e.2.1 ∧ e.2.1 < pa.toNat / 8 * 8 + 8)) :
    Completes (.hostAccess 0 0 pa en v) s (fun t => t.mem = s.mem ∧ t.cores = s.cores ∧
      ∃ x : Word, t.host = s.host ++ [.read x] ∧ ∀ i < 8,
        lane 8 (wordVec x) i = if en.getLsbD i = true then (Memory.get s.mem (pa.toNat / 8 * 8 + i)).toNat else 0) := by
  have allowed : hostAllowed s false (decide ((0 : BitVec 1) = 1)) (pa.toNat / 8 * 8) = true := hostAllowed_of_may (wr := false) may free
  refine ⟨_, (hostAccess_booted 0 pa up).trans (congrArg Outcome.next ((if_neg ?_).trans (if_neg (by decide)))), rfl, rfl, _, rfl,
    fun i hi => ?_⟩
  · rw [allowed]
    decide
  · have byte : hostByte s (pa.toNat / 8 * 8 + i) = Memory.get s.mem (pa.toNat / 8 * 8 + i) := by
      rw [← dbgByte_ordinary (ordinary_add may.ordinary hi) (pods i hi)]
      refine (hostByte_cases s _).resolve_right ?_
      rintro ⟨e, he, at_, -⟩
      exact seen e he ⟨by omega, by omega⟩
    rw [lane_leNat (by simp) hi, List.getElem_map, List.getElem_range, byte]
    split
    · rfl
    · rfl

end Sys2Proof.Machine
end

section
/-! PROOF. Registers of system software, module reset, attestation and the lease of the fold array (O48; R28, R158, R159, R181, R352,
R381, R382, R400). -/

namespace Sys2Proof.Machine

open Host (Outcome)

variable {s : State}

/-! ### Registers -/

/-- The request counter and the time limit of an interrupt vector are as a write gives them, and only interrupts and messages
changed. -/
def Coalesces (v : Nat) (w : Word) (s t : State) : Prop :=
  (t.irq v).cnt = w.setWidth 8 ∧ (t.irq v).tmax = BitVec.ofNat 16 (field w 16 16) ∧ t.mem = s.mem ∧ t.cores = s.cores

theorem irq_setIrq_same (s : State) (v : Nat) (x : Irq) : (s.setIrq v x).irq v = x := fget_fset_same _ _ _ _

theorem coalesces_irqSend {v : Nat} {w : Word} {t : State} (h : Coalesces v w s t) : Coalesces v w s (irqSend v t) := by
  obtain ⟨cnt, tmax, mem, cores⟩ := h
  unfold irqSend
  extract_lets x
  have sent (b : Bool) : Coalesces v w s (t.setIrq v { x with pend := 0, msg := b }) :=
    ⟨by rw [irq_setIrq_same]; exact cnt, by rw [irq_setIrq_same]; exact tmax, mem, cores⟩
  split
  · exact sent true
  · exact sent x.msg

theorem coalesces_irqcoalWrite (v : Nat) (w : Word) (s : State) : Coalesces v w s (irqcoalWrite v w s) := by
  unfold irqcoalWrite
  extract_lets x y s1
  have set : Coalesces v w s s1 := ⟨by rw [irq_setIrq_same], by rw [irq_setIrq_same], rfl, rfl⟩
  split
  · exact coalesces_irqSend set
  · exact set

theorem toNat_window (base : Nat) (k n : Nat) (hb : base + 8 * n < 2 ^ 52) (hk : k < n) :
    (BitVec.ofNat 52 (base + 8 * k)).toNat = base + 8 * k := by
  rw [BitVec.toNat_ofNat, Nat.mod_eq_of_lt (by omega)]

theorem registerWrite_irqcoal (s : State) (k : BitVec 11) (v : Word) :
    exec (.registerWrite (BitVec.ofNat 52 (0xF0001B0030000 + 8 * k.toNat)) v) s = .next (irqcoalWrite k.toNat v s) := by
  have hk := k.isLt
  have place : (BitVec.ofNat 52 (0xF0001B0030000 + 8 * k.toNat)).toNat = ctlBase + (0x30000 + 8 * k.toNat) := by
    rw [toNat_window _ _ 2048 (by decide) hk, show ctlBase = 0xF0001B0000000 from rfl]
    omega
  rw [registerWrite_ctl s v place (by omega) (by omega) (by simp [ctlAssigned]; omega)]
  have put : ctlPut true (0x30000 + 8 * k.toNat) 0xFF v s = irqcoalWrite ((0x30000 + 8 * k.toNat - 0x30000) / 8) v s := by
    rw [ctlPut, if_neg (by omega), if_neg (by omega), if_neg (by omega), if_neg (by omega), if_neg (by omega), if_neg (by omega),
      if_neg (by omega), if_neg (by omega), if_pos (by omega)]
  rw [put, show (0x30000 + 8 * k.toNat - 0x30000) / 8 = k.toNat by omega]

theorem registerWrite_coalescing (k : BitVec 11) (v : Word) :
    Completes (.registerWrite (BitVec.ofNat 52 (0xF0001B0030000 + 8 * k.toNat)) v) s (fun t =>
      (t.irq k.toNat).cnt.toNat = v.toNat % 2 ^ 8 ∧ (t.irq k.toNat).tmax.toNat = v.toNat / 2 ^ 16 % 2 ^ 16 ∧ MemorySame s t ∧
      t.cores = s.cores) := by
  obtain ⟨cnt, tmax, mem, cores⟩ := coalesces_irqcoalWrite k.toNat v s
  refine ⟨_, registerWrite_irqcoal s k v, ?_, ?_, memorySame_of_mem mem, cores⟩
  · rw [cnt, BitVec.toNat_setWidth]
  · rw [tmax, BitVec.toNat_ofNat, field, bitsN, Nat.mod_mod]

theorem registerWrite_ctxbud (k : BitVec 12) (v : Word) :
    Completes (.registerWrite (BitVec.ofNat 52 (0xF0001B0040000 + 8 * k.toNat)) v) s (fun t =>
      (fget 0 t.ctxbud k.toNat).toNat = v.toNat % 2 ^ 53 ∧ MemorySame s t ∧ t.cores = s.cores) := by
  have hk := k.isLt
  have place : (BitVec.ofNat 52 (0xF0001B0040000 + 8 * k.toNat)).toNat = ctlBase + (0x40000 + 8 * k.toNat) := by
    rw [toNat_window _ _ 4096 (by decide) hk, show ctlBase = 0xF0001B0000000 from rfl]
    omega
  have put : ctlPut true (0x40000 + 8 * k.toNat) 0xFF v s =
      { s with ctxbud := fset s.ctxbud ((0x40000 + 8 * k.toNat - 0x40000) / 8) (v.setWidth 53) } := by
    rw [ctlPut, if_neg (by omega), if_neg (by omega), if_neg (by omega), if_neg (by omega), if_neg (by omega), if_neg (by omega),
      if_neg (by omega), if_neg (by omega), if_neg (by omega), if_pos (by omega)]
  rw [show (0x40000 + 8 * k.toNat - 0x40000) / 8 = k.toNat by omega] at put
  refine ⟨_, (registerWrite_ctl s v place (by omega) (by omega) (by simp [ctlAssigned]; omega)).trans (congrArg _ put), ?_,
    memorySame_refl s, rfl⟩
  rw [fget_fset_same, BitVec.toNat_setWidth]

theorem registerWrite_below (pa : Pa) (v : Word) (h : pa.toNat < engBase) : exec (.registerWrite pa v) s = .next s := by
  have eng : engBase = 0xF000190000000 := rfl
  have ctl : ctlBase = 0xF0001B0000000 := rfl
  have noCtl : isCtl (pa.toNat / 8 * 8) = false := by
    rw [isCtl, decide_eq_false (by omega), Bool.false_and]
  have noEngine : isEngine (pa.toNat / 8 * 8) = false := by
    rw [isEngine, decide_eq_false (by omega), Bool.false_and]
  exact congrArg Outcome.next (if_neg (by rw [noCtl, noEngine]; exact Bool.false_ne_true))

/-! ### Reset and attestation -/

theorem get_filter (p : Nat → Bool) (m : List Host.Cell) (a : Nat) :
    Memory.get (m.filter (fun e => p e.1)) a = if p a = true then Memory.get m a else 0 := by
  induction m with
  | nil => exact (ite_self _).symm
  | cons e m ih =>
    by_cases keep : p e.1 = true
    · rw [List.filter_cons_of_pos (p := fun e : Host.Cell => p e.1) keep]
      by_cases here : e.1 = a
      · rw [← here, Memory.get_cons_same, Memory.get_cons_same, if_pos keep]
      · rw [Memory.get_cons_of_ne here, Memory.get_cons_of_ne here, ih]
    · rw [List.filter_cons_of_neg (p := fun e : Host.Cell => p e.1) keep, ih]
      by_cases here : e.1 = a
      · rw [← here, if_neg keep, if_neg keep]
      · rw [Memory.get_cons_of_ne here]

theorem bootDigests_image {f : Flash} {i : Fin 8} {x : List Byte} (h : f.images[i.val]? = some x) :
    (bootDigests f)[i] = Config.sha512 x := by
  simp [bootDigests, h]

theorem isGolden_within {t : State} {g p : Nat} (golden : t.boot.golden = some g) (lo : g ≤ p) (hi : p < g + 2 ^ 28) :
    isGolden t p = true := by
  rw [isGolden, golden]
  dsimp only
  rw [decide_eq_true lo, decide_eq_true hi]
  rfl

theorem reservedPa_golden {t : State} {g p : Nat} (golden : t.boot.golden = some g) (room : g + 2 ^ 28 ≤ hbmEnd) (lo : g ≤ p)
    (hi : p < g + 2 ^ 28) : reservedPa t p = true := by
  have hbm : hbmEnd = 2 ^ 41 := rfl
  have below (n m : Nat) (hn : 2 ^ 41 ≤ n) : (decide (n ≤ p) && decide (p < m)) = false := by
    rw [decide_eq_false (by omega), Bool.false_and]
  have tier := below tierBase tierEnd (by decide)
  have host := below hostBase hostEnd (by decide)
  have pad := below padBase padEnd (by decide)
  have acc := below accBase accEnd (by decide)
  have mail := below mailBase mailEnd (by decide)
  have eng := below engBase engEnd (by decide)
  have arr := below arrBase arrEnd (by decide)
  have ctl := below ctlBase ctlEnd (by decide)
  rw [reservedPa, isGolden_within golden lo hi, isHost, isPad, isAcc, tier, host, pad, acc, mail, eng, arr, ctl, Bool.not_true,
    Bool.and_false]
  rfl

theorem moduleReset_ok (factory : s.flash.factoryOk = true) (fieldOk : s.flash.fieldOk = true) : Completes .moduleReset s (fun t =>
    t.cores = [] ∧ t.quads = [] ∧ t.ctxs = [] ∧ t.queues = [] ∧ t.nodes = [] ∧ t.bars = [] ∧ t.links = [] ∧ t.poison = [] ∧
    t.boot.stage = 8 ∧ t.boot.recovery = false ∧ t.host = s.host ∧ t.now = s.now ∧ t.flash.badFrames = s.flash.badFrames ∧
    t.flash.remaps = s.flash.remaps ∧ t.flash.lanes = s.flash.lanes ∧
    (∀ (i : Fin 8) x, s.flash.images[i.val]? = some x → t.boot.measures[i] = Config.sha512 x) ∧
    (∃ g, t.boot.golden = some g ∧ g % 2 ^ 28 = 0 ∧ g + 2 ^ 28 ≤ hbmEnd ∧ ∀ p, g ≤ p → p < g + 2 ^ 28 → reservedPa t p = true) ∧
    ∀ a, Memory.get t.mem a = if isHost a = true then Memory.get s.mem a else 0) := by
  have kept : bootFlash s.flash = { Flash.reset with
      factoryOk := s.flash.factoryOk, fieldOk := s.flash.fieldOk, images := s.flash.images, cert := s.flash.cert
      badCores := s.flash.badCores, badQuads := s.flash.badQuads, tier := s.flash.tier, defsig := s.flash.defsig
      badFrames := s.flash.badFrames, lanes := s.flash.lanes, remaps := s.flash.remaps
      tables := Vector.replicate 3 ⟨s.flash.remaps, s.flash.lanes⟩ } := if_pos fieldOk
  have room : Config.golden % 8192 * 2 ^ 28 + 2 ^ 28 ≤ hbmEnd := by
    have hbm : hbmEnd = 2 ^ 41 := rfl
    omega
  refine ⟨_, congrArg Outcome.next (resetModule_ok factory fieldOk), rfl, rfl, rfl, rfl, rfl, rfl, rfl, rfl, rfl, rfl, rfl, rfl,
    by rw [kept], by rw [kept], by rw [kept], fun i x => bootDigests_image, ⟨_, rfl, Nat.mul_mod_left _ _, room, fun p lo hi =>
      reservedPa_golden rfl room lo hi⟩, fun a => get_filter isHost s.mem a⟩

theorem moduleReset_fieldFail (factory : s.flash.factoryOk = true) (fieldOk : s.flash.fieldOk = false) :
    Completes .moduleReset s (fun t => t.boot.stage = 8 ∧ t.host = s.host ++ [.fieldFail] ∧ t.flash.badFrames = [] ∧
      t.flash.remaps = [] ∧ t.flash.lanes = []) := by
  refine ⟨_, rfl, ?_⟩
  simp [resetModule, factory, fieldOk, State.tell, bootFlash, Flash.reset]

theorem moduleReset_factoryFail (factory : s.flash.factoryOk = false) : Completes .moduleReset s (fun t =>
    t.boot.stage = 2 ∧ t.boot.recovery = true ∧ t.cores = []) := by
  refine ⟨_, rfl, ?_⟩
  simp [resetModule, factory, State.reset]

theorem attests (stage : s.boot.stage = 8) (recovery : s.boot.recovery = false) :
    exec .getCertificate s = .next { s with host := s.host ++ [.certificate s.flash.cert] } ∧
    exec .getMeasurements s = .next { s with host := s.host ++ [.measurements s.boot.measures (Config.sign s.boot.measures)] } :=
  have up := (booted_iff s).2 ⟨stage, recovery⟩
  ⟨congrArg Outcome.next (if_pos up), congrArg Outcome.next (if_pos up)⟩

theorem attests_unbooted (stage : s.boot.stage ≠ 8) : exec .getCertificate s = .next s ∧ exec .getMeasurements s = .next s :=
  have off : ¬booted s = true := fun up => stage ((booted_iff s).1 up).1
  ⟨congrArg Outcome.next (if_neg off), congrArg Outcome.next (if_neg off)⟩

/-! ### The lease of the fold array (R158, R159) -/

theorem nextHolder_first {q k last : Nat} (turn : (s.quad q).array.lastHolder = last) (hk : k < 4) (hl : last < 4)
    (asks : (s.core (q * 4 + k)).fold.lease = .waiting)
    (before : ∀ i < (k + 3 - last) % 4, (s.core (q * 4 + (last + 1 + i) % 4)).fold.lease ≠ .waiting) : nextHolder s q = some k := by
  rw [nextHolder, turn, List.find?_map, Option.map_eq_some_iff]
  have place : (last + 1 + (k + 3 - last) % 4) % 4 = k := by omega
  refine ⟨(k + 3 - last) % 4, ?_, place⟩
  rw [List.find?_range_eq_some]
  refine ⟨?_, List.mem_range.2 (Nat.mod_lt _ (by decide)), fun i hi => ?_⟩
  · simpa [place] using asks
  · simpa using before i hi

theorem nextHolder_none {q : Nat} (idle : ∀ k < 4, (s.core (q * 4 + k)).fold.lease ≠ .waiting) : nextHolder s q = none := by
  rw [nextHolder, List.find?_eq_none]
  intro k hk
  rw [List.mem_map] at hk
  obtain ⟨i, -, rfl⟩ := hk
  simpa using idle _ (Nat.mod_lt _ (by decide))

theorem drainsHeld_iff (s : State) (q : Nat) :
    drainsHeld s q = true ↔ ∃ k < 4, ∃ x ∈ (s.core (q * 4 + k)).susp, x.drains ≠ [] := by
  simp [drainsHeld]

/-- The quad's array and the core's lease when core c of the quad is granted it. -/
def granted (q c : Nat) (s : State) : State :=
  let f := (s.core (q * 4 + c)).fold
  (s.modArray q (fun _ => { FoldArray.granted c with holder := some c, lastHolder := c, remaining := f.drains, wide := f.wide })).modCore
    (q * 4 + c) (fun x => { x with fold := { f with lease := .granted } })

theorem leaseGrant_next {q c : Nat} (free : (s.quad q).array.holder = none) (drained : (s.quad q).array.drains = [])
    (held : drainsHeld s q = false) (next : nextHolder s q = some c) : OnlyRecords (granted q c s) (leaseGrant q s) := by
  have grants : leaseGrant q s = monRecord (granted q c s) ((q * 4 + c) / 64) 5 (s.core (q * 4 + c)).regs.id.tag ((q * 4 + c) % 64)
      ((s.quad q).cycle - (s.core (q * 4 + c)).fold.asked).toNat := by
    dsimp only [leaseGrant]
    rw [if_neg (by rw [free, drained, held]; decide), next]
    rfl
  rw [grants]
  exact onlyRecords_monRecord ⟨rfl, rfl, rfl⟩

theorem regs_granted (q c m : Nat) (s : State) : ((granted q c s).core m).regs = (s.core m).regs := by
  unfold granted
  by_cases e : m = q * 4 + c
  · rw [e, core_modCore_same]
    rfl
  · rw [core_modCore_ne _ _ e]
    rfl

theorem leaseGrant_grants (q : QuadId) (k : Nat) (free : (s.quad q.toNat).array.holder = none)
    (drained : (s.quad q.toNat).array.drains = []) (hk : k < 4) (hl : (s.quad q.toNat).array.lastHolder < 4)
    (asks : (s.core (q.toNat * 4 + k)).fold.lease = .waiting)
    (susp : ∀ i < 4, ∀ x ∈ (s.core (q.toNat * 4 + i)).susp, x.drains = [])
    (before : ∀ i < (k + 3 - (s.quad q.toNat).array.lastHolder) % 4,
      (s.core (q.toNat * 4 + ((s.quad q.toNat).array.lastHolder + 1 + i) % 4)).fold.lease ≠ .waiting) :
    Completes (.leaseGrant q) s (fun t =>
      let a := (t.quad q.toNat).array
      a.holder = some k ∧ a.lastHolder = k ∧ a.slots = [] ∧ a.steps = 0 ∧ a.flight = [] ∧
      a.remaining = (s.core (q.toNat * 4 + k)).fold.drains ∧ a.wide = (s.core (q.toNat * 4 + k)).fold.wide ∧
      (t.core (q.toNat * 4 + k)).fold.lease = .granted ∧ (∀ m, (t.core m).regs = (s.core m).regs) ∧ MemorySame s t) := by
  have held : drainsHeld s q.toNat = false := by
    rw [Bool.eq_false_iff, ne_eq, drainsHeld_iff]
    rintro ⟨i, hi, x, hx, drains⟩
    exact drains (susp i hi x hx)
  obtain ⟨mem, cores, quads⟩ := leaseGrant_next free drained held (nextHolder_first rfl hk hl asks before)
  have array : ((leaseGrant q.toNat s).quad q.toNat).array = { FoldArray.granted k with
      holder := some k, lastHolder := k, remaining := (s.core (q.toNat * 4 + k)).fold.drains
      wide := (s.core (q.toNat * 4 + k)).fold.wide } := by
    rw [State.quad, quads]
    exact congrArg Quad.array (fget_fset_same Quad.reset _ s.quads q.toNat)
  have core (m : Nat) : (leaseGrant q.toNat s).core m = (granted q.toNat k s).core m := by rw [State.core, cores]; rfl
  refine ⟨_, rfl, ?_⟩
  dsimp only
  rw [array]
  refine ⟨rfl, rfl, rfl, rfl, rfl, rfl, rfl, ?_, fun m => ?_, memorySame_of_mem mem⟩
  · rw [core, granted, core_modCore_same]
  · rw [core, regs_granted]

theorem leaseGrant_none (q : QuadId) (h : (s.quad q.toNat).array.holder.isSome = true ∨
    (∃ k < 4, ∃ x ∈ (s.core (q.toNat * 4 + k)).susp, x.drains ≠ []) ∨
    ∀ k < 4, (s.core (q.toNat * 4 + k)).fold.lease ≠ .waiting) : exec (.leaseGrant q) s = .next s := by
  have keeps : leaseGrant q.toNat s = s := by
    dsimp only [leaseGrant]
    obtain held | drains | idle := h
    · exact if_pos (by rw [held]; rfl)
    · exact if_pos (by rw [(drainsHeld_iff s q.toNat).2 drains, Bool.or_true])
    · rw [nextHolder_none idle]
      exact ite_self _
  exact congrArg Outcome.next keeps

/-! ### FCTL (R181, R400) -/

theorem holdsArray_iff (c : Core) : holdsArray c = true ↔ c.fold.lease = .granted ∨ c.fold.lease = .held := by
  simp [holdsArray]

theorem fctl_holder (n : CoreId) (g : BitVec 5) (holds : (s.core n.toNat).fold.lease = .granted ∨ (s.core n.toNat).fold.lease = .held) :
    Completes (.fctlClr n) s (fun t => (t.quad (n.toNat / 4)).array = { cleared (s.quad (n.toNat / 4)).array with flight := [] } ∧
      t.cores = s.cores ∧ MemorySame s t) ∧
    (4 ≤ g.toNat → g.toNat ≤ 16 → Completes (.fctlSetg n g) s (fun t =>
      (t.quad (n.toNat / 4)).array = { (s.quad (n.toNat / 4)).array with g := g.toNat } ∧ t.cores = s.cores ∧ MemorySame s t)) ∧
    (g.toNat < 4 ∨ 16 < g.toNat → exec (.fctlSetg n g) s = .next s) := by
  have holder := (holdsArray_iff _).2 holds
  refine ⟨⟨_, congrArg Outcome.next (if_pos holder), ?_, rfl, memorySame_refl s⟩,
    fun lo hi => ⟨_, congrArg Outcome.next (if_pos (by simp [holder, lo, hi])), ?_, rfl, memorySame_refl s⟩,
    fun out => congrArg Outcome.next (if_neg ?_)⟩
  · exact congrArg Quad.array (quad_modQuad_same ..)
  · exact congrArg Quad.array (quad_modQuad_same ..)
  · rw [Bool.and_eq_true, Bool.and_eq_true, decide_eq_true_eq, decide_eq_true_eq]
    omega

theorem fctl_other (n : CoreId) (g : BitVec 5) (h : (s.core n.toNat).fold.lease = .none ∨ (s.core n.toNat).fold.lease = .waiting) :
    exec (.fctlClr n) s = .next s ∧ exec (.fctlSetg n g) s = .next s := by
  have not : holdsArray (s.core n.toNat) = false := by
    rw [holdsArray]
    obtain h | h := h
    · rw [h]
      rfl
    · rw [h]
      rfl
  exact ⟨congrArg Outcome.next (if_neg (by rw [not]; exact Bool.false_ne_true)),
    congrArg Outcome.next (if_neg (by rw [not]; exact Bool.false_ne_true))⟩

end Sys2Proof.Machine

namespace Sys2Proof

open Machine

/-- Settles O48: the host's accesses, the registers, reset and the lease, each from its own lemma. -/
theorem hostRegistersReset : Obligations.HostRegistersReset := by
  refine ⟨fun s w x pa en v => hostAccess_unbooted w x pa, fun s pa en v stage recovery wf => ?_, hostByte_cases,
    fun s k v => registerWrite_coalescing k v, fun s k v => registerWrite_ctxbud k v, fun s => registerWrite_below,
    fun s => ⟨moduleReset_ok, moduleReset_fieldFail, moduleReset_factoryFail⟩, fun s => attests, fun s => attests_unbooted,
    fun s q k => leaseGrant_grants q k, fun s q => leaseGrant_none q, fun s n g => ⟨fctl_holder n g, fctl_other n g⟩⟩
  have up := (booted_iff s).2 ⟨stage, recovery⟩
  exact fun pods free => ⟨hostAccess_writes up wf pods free, hostAccess_reads up pods free, hostAccess_refused up free⟩

end Sys2Proof
end

section
/-! PROOF. What a walk of a core reads, gives and leaves (O35; R242 to R249). -/

namespace Sys2Proof.Machine

open Host (Outcome)

variable {s t : State} {n tag va kind : Nat} {out : WalkOut} {l : Leaf}

/-! ### What a walk reads -/

/-- A walk reads no core, no channel and no monitor. -/
theorem walkFrom_aside (s : State) (g : FMap Dbg) (k : FMap Chan) (c : FMap Core) (m : CoreId) (va f lv tb : Nat) :
    walkFrom { s with dbg := g, chans := k, cores := c, cur := m } va f lv tb = walkFrom s va f lv tb := by
  induction f generalizing lv tb with
  | zero => rfl
  | succ f ih =>
    simp only [walkFrom, ih]
    rfl

theorem walkCached_aside (s : State) (g : FMap Dbg) (k : FMap Chan) (c : FMap Core) (m : CoreId) (q tag va : Nat) :
    walkCached { s with dbg := g, chans := k, cores := c, cur := m } q tag va = walkCached s q tag va :=
  walkFrom_aside s g k c m va _ _ _

theorem walkCached_empty (q : Nat) (h : (s.quad q).walks = []) : walkCached s q tag va = walkRoot s tag va := by
  have start : walkStart (s.quad q) tag va (rootOf s tag) = (1, rootOf s tag) := by rw [walkStart, h, List.foldl_nil]
  rw [walkCached, start]
  rfl

/-- A walk that ends neither malformed nor at poison gives the bits of its last entry. -/
theorem bits_walkFrom (s : State) (va f lv tb : Nat) : (walkFrom s va f lv tb).fin = .malformed ∨
    (walkFrom s va f lv tb).fin = .poisoned ∨ (walkFrom s va f lv tb).bits = tableEntry s (walkFrom s va f lv tb).ent := by
  induction f generalizing lv tb with
  | zero => exact .inl rfl
  | succ f ih =>
    unfold walkFrom
    dsimp only
    split
    · exact .inr (.inl rfl)
    · split
      · exact .inr (.inr rfl)
      · split
        · exact .inl rfl
        · split
          · exact .inr (.inr rfl)
          · exact ih _ _

/-! ### What a walk gives -/

/-- An access parks on the last entry of its walk, which is not at poison nor malformed. -/
theorem park_of_walkRes {e : Nat} (h : walkRes tag va kind out = some (.park e)) :
    out.ent = e ∧ out.fin ≠ .malformed ∧ out.fin ≠ .poisoned := by
  unfold walkRes at h
  split at h
  · cases h
  · cases h
  · next fin =>
    split at h
    · cases h
    · cases h
      exact ⟨rfl, by rw [fin]; decide, by rw [fin]; decide⟩
  · next fin =>
    dsimp only at h
    split at h
    · cases h
    · split at h
      · cases h
        exact ⟨rfl, by rw [fin]; decide, by rw [fin]; decide⟩
      · cases h

theorem leaf_of_walkRes (h : walkRes tag va kind out = some (.leaf l)) : l = leafOf tag va out := by
  unfold walkRes at h
  split at h
  · cases h
  · cases h
  · split at h
    · cases h
    · cases h
  · dsimp only at h
    split at h
    · cases h
    · split at h
      · cases h
      · cases h
        rfl

/-- A walked leaf covers the page that was walked for. -/
theorem hits_leafOf {a : Nat} (page : a / 4096 = va / 4096) : (leafOf tag va out).hits tag a = true := by
  have wide : ∃ k, leafBits out = 12 + k := by
    unfold leafBits
    split
    · exact ⟨18, rfl⟩
    · split
      · exact ⟨9, rfl⟩
      · split
        · exact ⟨4, rfl⟩
        · exact ⟨0, rfl⟩
  obtain ⟨k, bits⟩ := wide
  rw [Leaf.hits, leafOf, page, bits, Nat.add_sub_cancel_left, show va / 2 ^ (12 + k) = va / 4096 / 2 ^ k by
    rw [pow_add, ← Nat.div_div_eq_div_mul]
    rfl]
  have lo := Nat.div_mul_le_self (va / 4096) (2 ^ k)
  have hi := Nat.lt_div_mul_add (a := va / 4096) (b := 2 ^ k) (Nat.two_pow_pos k)
  simp [lo, hi]

/-! ### What a walk enters -/

/-- The state after a walk of core n: its tables and its leaf enter the caches, or its park asks for the page. -/
def entered (n tag : Nat) (fetch : Bool) (va : Nat) (cause : Option Nat) (out : WalkOut) (r : WalkRes) (s : State) : State :=
  match r with
  | .leaf l => enterLeaf n fetch l (enterTables (n / 4) tag out s)
  | .park _ => (match cause with
    | some c => postPark (n / 4) out.bits ⟨va / 4096, c, tag, n⟩ (enterTables (n / 4) tag out s)
    | none => enterTables (n / 4) tag out s)
  | .trap _ => enterTables (n / 4) tag out s

theorem walkEnds_some {fetch : Bool} {cause : Option Nat} {r : WalkRes} (h : walkRes tag va kind out = some r) :
    walkEnds n tag fetch va kind cause out s = (some r, entered n tag fetch va cause out r s) := by
  rw [walkEnds, h]
  rfl

/-- A core with other leaves in its TLBs. -/
def heldLeaves (d c : List Leaf) (x : Core) : Core := { x with cache := { x.cache with dtlb := d, ctlb := c } }

/-- From s to t a walk of core n is made: only the leaves of its TLBs, the quads and the monitors may have changed. -/
structure Walked (n : Nat) (s t : State) : Prop where
  mem : t.mem = s.mem
  cur : t.cur = s.cur
  poison : t.poison = s.poison
  podwin : t.podwin = s.podwin
  flash : t.flash = s.flash
  boot : t.boot = s.boot
  ctxs : t.ctxs = s.ctxs
  acctab : t.acctab = s.acctab
  pins : t.pins = s.pins
  sptag : t.sptag = s.sptag
  others : ∀ m, m ≠ n → t.core m = s.core m
  core : ∃ d c, t.core n = heldLeaves d c (s.core n)

theorem walked_refl (n : Nat) (s : State) : Walked n s s :=
  ⟨rfl, rfl, rfl, rfl, rfl, rfl, rfl, rfl, rfl, rfl, fun _ _ => rfl, (s.core n).cache.dtlb, (s.core n).cache.ctlb, rfl⟩

theorem walked_modQuad {q : Nat} {f : Quad → Quad} (h : Walked n s t) : Walked n s (t.modQuad q f) := ⟨h.1, h.2, h.3, h.4, h.5, h.6,
  h.7, h.8, h.9, h.10, h.11, h.12⟩

theorem walked_enterTables {q : Nat} (h : Walked n s t) : Walked n s (enterTables q tag out t) := walked_modQuad h

/-- The TLBs of core n with one more leaf. -/
def moreLeaves (fetch : Bool) (k : Nat) (l : Leaf) (c : Core) : Core :=
  if fetch then { c with cache := { c.cache with ctlb := cacheIn 32 k l (c.cache.ctlb.filter (fun x => x ≠ l)) } }
  else { c with cache := { c.cache with dtlb := cacheIn 256 k l (c.cache.dtlb.filter (fun x => x ≠ l)) } }

theorem core_enterLeaf_same (n : Nat) (fetch : Bool) (l : Leaf) (s : State) :
    (enterLeaf n fetch l s).core n = moreLeaves fetch (victim s) l (s.core n) :=
  core_modCore_same (s.modQuad (n / 4) (fun q => { q with l2tlb := cacheIn 4096 (victim s) l (q.l2tlb.filter (fun x => x ≠ l)) })) n
    (moreLeaves fetch (victim s) l)

theorem core_enterLeaf_ne {fetch : Bool} {m : Nat} (h : m ≠ n) : (enterLeaf n fetch l s).core m = s.core m :=
  core_modCore_ne (s.modQuad (n / 4) (fun q => { q with l2tlb := cacheIn 4096 (victim s) l (q.l2tlb.filter (fun x => x ≠ l)) }))
    (moreLeaves fetch (victim s) l) h

theorem walked_enterLeaf {fetch : Bool} (h : Walked n s t) : Walked n s (enterLeaf n fetch l t) := by
  obtain ⟨d, c, core⟩ := h.core
  refine ⟨h.mem, h.cur, h.poison, h.podwin, h.flash, h.boot, h.ctxs, h.acctab, h.pins, h.sptag,
    fun m e => (core_enterLeaf_ne e).trans (h.others m e), ?_⟩
  rw [core_enterLeaf_same, core, moreLeaves]
  split
  · exact ⟨_, _, rfl⟩
  · exact ⟨_, _, rfl⟩

theorem walked_entered {fetch : Bool} {cause : Option Nat} {r : WalkRes} (h : Walked n s t) :
    Walked n s (entered n tag fetch va cause out r t) := by
  unfold entered
  split
  · exact walked_enterLeaf (walked_enterTables h)
  · split
    · rw [postPark]
      split
      · exact walked_enterTables h
      · exact walked_modQuad (walked_enterTables h)
    · exact walked_enterTables h
  · exact walked_enterTables h

/-- The monitors and the trace are all that a record changes. -/
theorem monRecord_dbg (s : State) (d src tag core v : Nat) : ∃ g, monRecord s d src tag core v = { s with dbg := g } := by
  unfold monRecord
  extract_lets ms hit s1
  split
  · exact ⟨s.dbg, rfl⟩
  · unfold traceSource
    extract_lets x a b
    split
    · exact ⟨_, rfl⟩
    · exact ⟨_, rfl⟩

theorem noteWalk_dbg (n : Nat) (since : Word) (s : State) : ∃ g, noteWalk n since s = { s with dbg := g } := monRecord_dbg ..

theorem walked_dbg {g : FMap Dbg} (h : Walked n s t) : Walked n s { t with dbg := g } := ⟨h.1, h.2, h.3, h.4, h.5, h.6, h.7, h.8,
  h.9, h.10, h.11, h.12⟩

/-! ### What the caches and the mailbox hold after a walk (R242, R249) -/

theorem mem_cacheIn {α : Type} (cap k : Nat) (x : α) (xs : List α) : x ∈ cacheIn cap k x xs := by
  rw [cacheIn]
  split
  · exact List.mem_cons_self
  · exact List.mem_cons_self

theorem l2tlb_enterLeaf (n : Nat) (fetch : Bool) (l : Leaf) (s : State) : ((enterLeaf n fetch l s).quad (n / 4)).l2tlb =
    cacheIn 4096 (victim s) l ((s.quad (n / 4)).l2tlb.filter (fun x => x ≠ l)) := by
  show (fget Quad.reset (fset s.quads (n / 4) _) (n / 4)).l2tlb = _
  rw [fget_fset_same]

theorem leaf_entered (tag : Nat) (fetch : Bool) (va : Nat) (cause : Option Nat) (out : WalkOut) (l : Leaf) (s : State) :
    l ∈ ((entered n tag fetch va cause out (.leaf l) s).quad (n / 4)).l2tlb ∧
    l ∈ (if fetch then ((entered n tag fetch va cause out (.leaf l) s).core n).cache.ctlb
      else ((entered n tag fetch va cause out (.leaf l) s).core n).cache.dtlb) := by
  rw [entered]
  constructor
  · rw [l2tlb_enterLeaf]
    exact mem_cacheIn ..
  · rw [core_enterLeaf_same, moreLeaves]
    cases fetch
    · exact mem_cacheIn ..
    · exact mem_cacheIn ..

/-- A page request is in the mailbox or waits for a slot of it. -/
theorem posted_postPage (q : Nat) (r : PageReq) (s : State) :
    ∃ x ∈ ((postPage q r s).quad q).pageReq ++ ((postPage q r s).quad q).posters, x.page = r.page ∧ x.tag = r.tag := by
  rw [postPage, quad_modQuad_same]
  split
  · next there =>
    rw [List.any_eq_true] at there
    obtain ⟨y, hy, same⟩ := there
    exact ⟨y, hy, by simpa using same⟩
  · split
    · exact ⟨r, by simp, rfl, rfl⟩
    · exact ⟨r, by simp, rfl, rfl⟩

theorem posted_entered {fetch : Bool} {c e : Nat} (bits : reschedEntry out.bits = false) :
    ∃ x ∈ ((entered n tag fetch va (some c) out (.park e) s).quad (n / 4)).pageReq ++
        ((entered n tag fetch va (some c) out (.park e) s).quad (n / 4)).posters, x.page = va / 4096 ∧ x.tag = tag := by
  rw [entered, postPark, if_neg (by rw [bits]; decide)]
  exact posted_postPage (n / 4) ⟨va / 4096, c, tag, n⟩ _

/-! ### The walk of a slot -/

/-- A core's list of walks with the walk of a slot given its result. -/
def givenWalk (slot : Nat) (r : WalkRes) (x : Core) : Core :=
  { x with cache :=
    if slot = 0 then { x.cache with walkL := setWalk r x.cache.walkL }
    else if slot = 1 then { x.cache with walkW := setWalk r x.cache.walkW }
    else { x.cache with walkF := setWalk r x.cache.walkF } }

/-- The walks that a slot has asked for. -/
def walksFor (slot : Nat) (c : CoreCache) : List Walk := if slot = 0 then c.walkL else if slot = 1 then c.walkW else c.walkF

/-- The cause of the page request of an access of a kind. -/
def causeOf (kind : Nat) : Option Nat := if kind = 4 then none else some (parkCause kind)

/-- With no leaf in the TLBs that covers the address, the walk starts in the walk cache. -/
theorem coreWalk_cold {n : CoreId} {fetch : Bool} (cold : NoLeaf s n fetch va) (g : FMap Dbg) :
    coreWalk n.toNat fetch va { s with dbg := g } =
      (walkCached s (n.toNat / 4) (regsOf s n).id.tag va, { s with dbg := g }) := by
  have miss : ((if fetch then (s.core n.toNat).cache.ctlb else (s.core n.toNat).cache.dtlb) ++
      (s.quad (n.toNat / 4)).l2tlb).any (fun l => l.hits (regsOf s n).id.tag va) = false := by
    rw [List.any_eq_false]
    intro l hl
    rw [cold l hl]
    decide
  refine (if_neg ?_).trans (congrArg (·, _) (walkCached_aside s g s.chans s.cores s.cur _ _ _))
  exact Bool.eq_false_iff.1 miss

theorem walksFor_givenWalk (slot : Nat) (r : WalkRes) (x : Core) :
    walksFor slot (givenWalk slot r x).cache = setWalk r (walksFor slot x.cache) := by
  unfold walksFor givenWalk
  dsimp only
  by_cases h0 : slot = 0
  · simp only [if_pos h0]
  · by_cases h1 : slot = 1
    · simp only [if_neg h0, if_pos h1]
    · simp only [if_neg h0, if_neg h1]

theorem tlbs_givenWalk (slot : Nat) (r : WalkRes) (x : Core) :
    (givenWalk slot r x).cache.dtlb = x.cache.dtlb ∧ (givenWalk slot r x).cache.ctlb = x.cache.ctlb := by
  unfold givenWalk
  dsimp only
  split
  · exact ⟨rfl, rfl⟩
  · split
    · exact ⟨rfl, rfl⟩
    · exact ⟨rfl, rfl⟩

theorem slotWalk_given {n : CoreId} {slot : Nat} {w : Walk} {r : WalkRes} (asked : walksFor slot (s.core n.toNat).cache = [w])
    (new : w.res = none) (cold : NoLeaf s n (slot = 2) w.va.toNat)
    (res : walkRes (regsOf s n).id.tag w.va.toNat w.kind (walkCached s (n.toNat / 4) (regsOf s n).id.tag w.va.toNat) = some r) :
    ∃ g, slotWalk n.toNat slot s = (entered n.toNat (regsOf s n).id.tag (slot = 2) w.va.toNat (causeOf w.kind)
      (walkCached s (n.toNat / 4) (regsOf s n).id.tag w.va.toNat) r { s with dbg := g }).modCore n.toNat (givenWalk slot r) := by
  obtain ⟨g, noted⟩ := noteWalk_dbg n.toNat w.since s
  refine ⟨g, ?_⟩
  have first : (walksFor slot (s.core n.toNat).cache).find? (fun w => w.res.isNone) = some w := by
    rw [asked]
    simp [new]
  have done : walkDone n.toNat (slot = 2) w.va.toNat w.kind (walkCached s (n.toNat / 4) (regsOf s n).id.tag w.va.toNat)
      { s with dbg := g } = (some r, entered n.toNat (regsOf s n).id.tag (slot = 2) w.va.toNat (causeOf w.kind)
        (walkCached s (n.toNat / 4) (regsOf s n).id.tag w.va.toNat) r { s with dbg := g }) := walkEnds_some res
  unfold slotWalk
  dsimp only
  rw [show (if slot = 0 then (s.core n.toNat).cache.walkL else if slot = 1 then (s.core n.toNat).cache.walkW
    else (s.core n.toNat).cache.walkF).find? (fun w => w.res.isNone) = some w from first]
  dsimp only
  rw [noted, coreWalk_cold cold]
  dsimp only
  rw [done]
  rfl

/-- What a slot's walk leaves, once it has its result. -/
theorem slotWalk_enters {n : CoreId} {slot : Nat} {w : Walk} {r : WalkRes} (asked : walksFor slot (s.core n.toNat).cache = [w])
    (new : w.res = none) (cold : NoLeaf s n (slot = 2) w.va.toNat)
    (res : walkRes (regsOf s n).id.tag w.va.toNat w.kind (walkCached s (n.toNat / 4) (regsOf s n).id.tag w.va.toNat) = some r) :
    walksFor slot ((slotWalk n.toNat slot s).core n.toNat).cache = [{ w with res := some r }] ∧
    WalkEnters s (slotWalk n.toNat slot s) n (slot = 2) w.va.toNat w.kind r := by
  obtain ⟨g, given⟩ := slotWalk_given asked new cold res
  rw [given]
  generalize hout : walkCached s (n.toNat / 4) (regsOf s n).id.tag w.va.toNat = out at res
  generalize hu : entered n.toNat (regsOf s n).id.tag (slot = 2) w.va.toNat (causeOf w.kind) out r { s with dbg := g } = u
  have kept : Walked n.toNat s u := hu ▸ walked_entered (walked_dbg (walked_refl _ s))
  obtain ⟨d, c, core⟩ := kept.core
  refine ⟨?_, fun l leaf => ?_, fun e park pod kind bits => ?_, memorySame_of_mem kept.mem, fun m hm => ?_⟩
  · rw [core_modCore_same, walksFor_givenWalk, core]
    show setWalk r (walksFor slot (s.core n.toNat).cache) = _
    rw [asked, setWalk, if_pos (by rw [new]; rfl)]
  · obtain ⟨l2, tlb⟩ := leaf_entered (n := n.toNat) (regsOf s n).id.tag (slot = 2) w.va.toNat (causeOf w.kind) out l { s with dbg := g }
    rw [← leaf, hu] at l2 tlb
    obtain ⟨dtlb, ctlb⟩ := tlbs_givenWalk slot r (u.core n.toNat)
    rw [core_modCore_same, dtlb, ctlb]
    exact ⟨l2, tlb⟩
  · subst park
    obtain ⟨ent, fin, poison⟩ := park_of_walkRes res
    have read : out.bits = tableEntry s out.ent := by
      rw [← hout] at fin poison ⊢
      exact ((bits_walkFrom ..).resolve_left fin).resolve_left poison
    have plain : reschedEntry out.bits = false := by
      rw [read, ent, tableEntry, pod]
      exact decide_eq_false fun h => bits ((congrArg (· % 2 ^ 12) (Nat.div_one _)).symm.trans h)
    have cause : causeOf w.kind = some (parkCause w.kind) := if_neg (by omega)
    rw [cause] at hu
    rw [← hu]
    exact posted_entered plain
  · rw [core_modCore_ne u _ hm, kept.others m hm]

theorem translationWalk_gives {n : CoreId} {w : Walk} {r : WalkRes} (new : w.res = none)
    (res : walkRes (regsOf s n).id.tag w.va.toNat w.kind (walkCached s (n.toNat / 4) (regsOf s n).id.tag w.va.toNat) = some r) :
    ((s.core n.toNat).cache.walkL = [w] → NoLeaf s n false w.va.toNat → Completes (.translationWalk (.slotL n)) s (fun t =>
      (t.core n.toNat).cache.walkL = [{ w with res := some r }] ∧ WalkEnters s t n false w.va.toNat w.kind r)) ∧
    ((s.core n.toNat).cache.walkW = [w] → NoLeaf s n false w.va.toNat → Completes (.translationWalk (.slotW n)) s (fun t =>
      (t.core n.toNat).cache.walkW = [{ w with res := some r }] ∧ WalkEnters s t n false w.va.toNat w.kind r)) ∧
    ((s.core n.toNat).cache.walkF = [w] → NoLeaf s n true w.va.toNat → Completes (.translationWalk (.fetch n)) s (fun t =>
      (t.core n.toNat).cache.walkF = [{ w with res := some r }] ∧ WalkEnters s t n true w.va.toNat w.kind r)) :=
  ⟨fun asked cold => ⟨_, rfl, slotWalk_enters (slot := 0) asked new cold res⟩,
   fun asked cold => ⟨_, rfl, slotWalk_enters (slot := 1) asked new cold res⟩,
   fun asked cold => ⟨_, rfl, slotWalk_enters (slot := 2) asked new cold res⟩⟩

theorem pageRequestTaken_leaves (q : QuadId) : Completes (.pageRequestTaken q) s (fun t =>
    (t.quad q.toNat).pageReq = (s.quad q.toNat).pageReq.tail ++ (s.quad q.toNat).posters.take 1 ∧
    (t.quad q.toNat).posters = (s.quad q.toNat).posters.drop 1 ∧ MemorySame s t ∧ ∀ m, t.core m = s.core m) := by
  refine ⟨_, rfl, ?_, ?_, memorySame_refl s, fun _ => rfl⟩
  · rw [quad_modQuad_same]
  · rw [quad_modQuad_same]

end Sys2Proof.Machine
end

section
/-! PROOF. A write to the line of a table entry wakes the access parked there, which walks again (O35; R246). -/

namespace Sys2Proof.Machine

open Host (Outcome)

variable {s t u : State} {n : CoreId} {va kind : Nat} {l : Leaf}

/-! ### A data access that walks to a leaf -/

/-- The caches after a data access of core n has walked to a leaf, with the monitors as g gives them. -/
def walkedTo (n : CoreId) (va : Nat) (cause : Option Nat) (l : Leaf) (s : State) (g : FMap Dbg) : State :=
  entered n.toNat (regsOf s n).id.tag false va cause (walkCached s (n.toNat / 4) (regsOf s n).id.tag va) (.leaf l) { s with dbg := g }

theorem walkNow_leaf (cause : Option Nat) (h : WalksTo s n va kind l) :
    ∃ g, walkNow n.toNat va kind cause s = (some (.leaf l), walkedTo n va cause l s g) := by
  obtain ⟨g, noted⟩ := noteWalk_dbg n.toNat (s.cycleOf n.toNat) s
  refine ⟨g, ?_⟩
  obtain ⟨cold, res⟩ := h
  have miss : ((s.core n.toNat).cache.dtlb ++ (s.quad (n.toNat / 4)).l2tlb).find?
      (fun l => l.hits (regsOf s n).id.tag va && kindOk l.entry kind) = none := by
    rw [List.find?_eq_none]
    intro l hl
    rw [cold l hl]
    exact Bool.false_ne_true
  unfold walkNow
  dsimp only
  rw [show (s.core n.toNat).regs = regsOf s n from rfl, miss]
  dsimp only
  rw [noted, coreWalk_cold (fetch := false) cold]
  exact walkEnds_some res

theorem walked_walkedTo (n : CoreId) (va : Nat) (cause : Option Nat) (l : Leaf) (s : State) (g : FMap Dbg) :
    Walked n.toNat s (walkedTo n va cause l s g) := walked_entered (walked_dbg (walked_refl _ s))

/-- What a walk reads of its core are the leaves of its TLB and its context. -/
theorem walksTo_modCore {f : Core → Core} {k : FMap Chan} (hd : ∀ c, (f c).cache.dtlb = c.cache.dtlb)
    (hi : ∀ c, (f c).regs.id = c.regs.id) (h : WalksTo s n va kind l) : WalksTo ({ s with chans := k }.modCore n.toNat f) n va kind l := by
  have core : ({ s with chans := k }.modCore n.toNat f).core n.toNat = f (s.core n.toNat) := core_modCore_same ..
  obtain ⟨cold, res⟩ := h
  rw [WalksTo, regsOf, core, hi, hd]
  exact ⟨cold, (congrArg (walkRes _ va kind) (walkCached_aside s s.dbg k _ _ _ _ _)).trans res⟩

/-- The faults of an access depend on the map and the access tables, which a walk leaves. -/
theorem accessFaultOf_walked {m : Nat} (h : Walked m s t) (tag kind pa va : Nat) :
    accessFaultOf t tag kind pa va = accessFaultOf s tag kind pa va := by
  have reserved : reservedPa t pa = reservedPa s pa := by
    rw [reservedPa, reservedPa, isGolden, isGolden, podOf, podOf, h.boot, h.flash, h.podwin]
  have ok (bit : Nat) : accessOk t tag 0 bit pa = accessOk s tag 0 bit pa := by
    rw [accessOk, accessOk, targetOf, targetOf, podOf, podOf, h.podwin]
    split
    · rfl
    · rw [hasRight, hasRight, State.ctx, State.ctx, h.ctxs, h.acctab]
  rw [accessFaultOf, accessFaultOf, reserved, ok, ok]

/-! ### A parked request walks again -/

/-- A request that has found its units. -/
def found (l : Leaf) (r : Req LdOp) : Req LdOp :=
  { r with park := none, bad := none, again := false, units := [l.pa r.va.toNat] }

theorem leavesPa_single {tag a : Nat} (h : l.hits tag a = true) : leavesPa tag [l] a = l.pa a := by
  rw [leavesPa, List.find?_cons, h]

theorem page_wordsOf {va len a : Nat} (page : va / 4096 = (va + len - 1) / 4096) (h : a ∈ wordsOf va len) : a / 4096 = va / 4096 := by
  rw [wordsOf, List.mem_map] at h
  obtain ⟨i, hi, rfl⟩ := h
  rw [List.mem_range] at hi
  omega

theorem rewalk_found {cause : Option Nat} {r : Req LdOp} {own : Nat → Option Nat} (one : r.n = 1)
    (page : r.va.toNat / 4096 = (r.va.toNat + r.ulen - 1) / 4096) (walks : WalksTo s n r.va.toNat 0 l)
    (may : ∀ a ∈ wordsOf r.va.toNat r.ulen, accessFaultOf s (regsOf s n).id.tag 0 (l.pa a) a = none ∧ own (l.pa a) = none) :
    ∃ g, rewalk n.toNat 0 cause own r s = (walkedTo n r.va.toNat cause l s g, found l r) := by
  obtain ⟨g, now⟩ := walkNow_leaf cause walks
  refine ⟨g, ?_⟩
  have covers (a : Nat) (ha : a / 4096 = r.va.toNat / 4096) : l.hits (regsOf s n).id.tag a = true := by
    rw [leaf_of_walkRes walks.2]
    exact hits_leafOf ha
  have pages : rewalkPages n.toNat 0 cause (pagesOf r.va.toNat (r.n * r.ulen)) s = (.go [l], walkedTo n r.va.toNat cause l s g) := by
    rw [one, Nat.one_mul, pagesOf, if_pos page, rewalkPages, now]
    rfl
  have units : (List.range r.n).map (fun i => leavesPa (regsOf s n).id.tag [l] (r.va.toNat + i * r.ulen)) = [l.pa r.va.toNat] := by
    rw [one]
    show [leavesPa (regsOf s n).id.tag [l] (r.va.toNat + 0 * r.ulen)] = _
    rw [Nat.zero_mul, Nat.add_zero, leavesPa_single (covers _ rfl)]
  unfold rewalk
  dsimp only
  rw [pages, show (s.core n.toNat).regs = regsOf s n from rfl]
  dsimp only
  rw [List.findSome?_eq_none_iff.2 fun a ha => ?_]
  · dsimp only
    rw [units]
    rfl
  · rw [one, Nat.one_mul] at ha
    obtain ⟨fault, free⟩ := may a ha
    rw [leavesPa_single (covers a (page_wordsOf page ha)), accessFaultOf_walked (walked_walkedTo ..), fault, free]
    rfl

theorem rewalkLoad_found {o : Bool} {r : Req LdOp} (noLdr : ∀ m, r.op ≠ .ldr m) (one : r.n = 1)
    (page : r.va.toNat / 4096 = (r.va.toNat + r.ulen - 1) / 4096) (walks : WalksTo s n r.va.toNat 0 l)
    (may : ∀ a ∈ wordsOf r.va.toNat r.ulen, accessFaultOf s (regsOf s n).id.tag 0 (l.pa a) a = none ∧ loadOwn r (l.pa a) = none) :
    ∃ g, rewalkLoad n.toNat o r s = (walkedTo n r.va.toNat r.op.parkCause l s g, [found l r]) := by
  obtain ⟨g, again⟩ := rewalk_found (cause := r.op.parkCause) one page walks may
  refine ⟨g, ?_⟩
  have kind : r.op.kind = 0 := by
    cases h : r.op with
    | ldr m => exact absurd h (noLdr m)
    | _ => rfl
  rw [← kind] at again
  unfold rewalkLoad
  split
  · next m h => exact absurd h (noLdr m)
  · rw [again]
    dsimp only [found]
    split <;> rfl

theorem rewalkPipe_single {m : Nat} {o : Bool} {pickL : Req LdOp → Bool} {pickS : Req StOp → Bool} {r r' : Req LdOp}
    (lq : ((s.core m).pipeOf o).lq = [r]) (sq : ((s.core m).pipeOf o).sq = []) (waits : (r.park.isSome || r.again) = true)
    (picked : pickL r = true)
    (again : rewalkLoad m o r s = (u, [r'])) :
    rewalkPipe m o pickL pickS s = u.modCore m (fun c => c.modPipeOf o (fun p => { p with lq := [r'], sq := [] })) := by
  unfold rewalkPipe
  dsimp only
  rw [lq, sq]
  simp only [rewalkAll, List.foldl_cons, List.foldl_nil, waits, picked, Bool.and_self, if_true, again, List.nil_append, List.filter_nil]

theorem rewalkPipe_empty {m : Nat} {o : Bool} {pickL : Req LdOp → Bool} {pickS : Req StOp → Bool}
    (lq : ((s.core m).pipeOf o).lq = []) (sq : ((s.core m).pipeOf o).sq = []) :
    rewalkPipe m o pickL pickS s = s.modCore m (fun c => c.modPipeOf o (fun p => { p with lq := [], sq := [] })) := by
  unfold rewalkPipe
  dsimp only
  rw [lq, sq]
  rfl

/-! ### The core that a write wakes -/

/-- A core whose accesses wake: its L1 is empty and the walks that parked there are made again. -/
def wokenCache (wake : Nat → Bool) (c : Core) : Core := { c with cache := { c.cache with
  l1 := []
  walkL := dropParks wake c.cache.walkL
  walkW := dropParks wake c.cache.walkW
  walkF := dropParks wake c.cache.walkF } }

/-- What the accesses of core n find when they wake. -/
def rewoken (wake : Nat → Bool) (n : Nat) (s : State) : State :=
  rewalkPipe n true (Req.wakesOn wake) (Req.wakesOn wake)
    (rewalkPipe n false (Req.wakesOn wake) (Req.wakesOn wake) (s.modCore n (wokenCache wake)))

theorem wakeCore_parked {wake : Nat → Bool} {m : Nat} (h : hasParked wake (s.core m) = true) :
    wakeCore wake m s = rewoken wake m s ∨ wakeCore wake m s = endPark m (rewoken wake m s) := by
  have wakes : wakeCore wake m s = if hasParked (fun _ => true) ((rewoken wake m s).core m) then rewoken wake m s
      else endPark m (rewoken wake m s) := if_neg (by rw [h]; decide)
  rw [wakes]
  split
  · exact .inl rfl
  · exact .inr rfl

/-- A core after its only parked request, of the task, has walked to a leaf. -/
def foundCore (wake : Nat → Bool) (l : Leaf) (r : Req LdOp) (d c : List Leaf) (x : Core) : Core :=
  let y := heldLeaves d c (wokenCache wake x)
  { y with regs := { y.regs with
      task := { y.regs.task with lq := [found l r], sq := [] }
      outr := { y.regs.outr with lq := [], sq := [] } } }

theorem rewoken_found {wake : Nat → Bool} {k : FMap Chan} {r : Req LdOp} {e : Nat} (lq : (taskOf s n).lq = [r])
    (sq : (taskOf s n).sq = []) (olq : (regsOf s n).outr.lq = []) (osq : (regsOf s n).outr.sq = []) (park : r.park = some e)
    (wakes : wake e = true) (noLdr : ∀ m, r.op ≠ .ldr m) (one : r.n = 1)
    (page : r.va.toNat / 4096 = (r.va.toNat + r.ulen - 1) / 4096) (walks : WalksTo s n r.va.toNat 0 l)
    (may : ∀ a ∈ wordsOf r.va.toNat r.ulen, accessFaultOf s (regsOf s n).id.tag 0 (l.pa a) a = none ∧ loadOwn r (l.pa a) = none) :
    let t := rewoken wake n.toNat { s with chans := k }
    t.mem = s.mem ∧ t.cur = s.cur ∧ ∃ d c, t.core n.toNat = foundCore wake l r d c (s.core n.toNat) := by
  intro t
  have core₁ : ({ s with chans := k }.modCore n.toNat (wokenCache wake)).core n.toNat = wokenCache wake (s.core n.toNat) :=
    core_modCore_same ..
  have walks₁ := walksTo_modCore (f := wokenCache wake) (k := k) (fun _ => rfl) (fun _ => rfl) walks
  have regs₁ : regsOf ({ s with chans := k }.modCore n.toNat (wokenCache wake)) n = regsOf s n := by rw [regsOf, core₁]; rfl
  generalize hs : { s with chans := k }.modCore n.toNat (wokenCache wake) = s₁ at core₁ walks₁ regs₁
  have may₁ : ∀ a ∈ wordsOf r.va.toNat r.ulen,
      accessFaultOf s₁ (regsOf s₁ n).id.tag 0 (l.pa a) a = none ∧ loadOwn r (l.pa a) = none := by
    rw [regs₁, ← hs]
    exact may
  obtain ⟨g, load⟩ := rewalkLoad_found (o := false) noLdr one page walks₁ may₁
  have kept := walked_walkedTo n r.va.toNat r.op.parkCause l s₁ g
  generalize walkedTo n r.va.toNat r.op.parkCause l s₁ g = u at load kept
  have first := rewalkPipe_single (pickS := Req.wakesOn wake) (by rw [core₁]; exact lq) (by rw [core₁]; exact sq)
    (by rw [park]; rfl) (show Req.wakesOn wake r = true by rw [Req.wakesOn, park]; exact wakes) load
  obtain ⟨d, c, core⟩ := kept.core
  have second : t = (u.modCore n.toNat (fun c => c.modPipeOf false (fun p => { p with lq := [found l r], sq := [] }))).modCore n.toNat
      (fun c => c.modPipeOf true (fun p => { p with lq := [], sq := [] })) := by
    unfold t rewoken
    rw [hs, first]
    refine rewalkPipe_empty ?_ ?_
    · rw [core_modCore_same, core, core₁]
      exact olq
    · rw [core_modCore_same, core, core₁]
      exact osq
  rw [second]
  refine ⟨kept.mem.trans (by rw [← hs]; rfl), kept.cur.trans (by rw [← hs]; rfl), d, c, ?_⟩
  rw [core_modCore_same, core_modCore_same, core, core₁]
  rfl

/-! ### The waking write -/

theorem monRecord_keeps (d src tag core v : Nat) : (monRecord s d src tag core v).mem = s.mem ∧
    (monRecord s d src tag core v).cur = s.cur ∧ ∀ m, (monRecord s d src tag core v).core m = s.core m := by
  obtain ⟨g, noted⟩ := monRecord_dbg s d src tag core v
  rw [noted]
  exact ⟨rfl, rfl, fun _ => rfl⟩

/-- A core with other limits. -/
def limited (lim : Limits) (c : Core) : Core := { c with regs := { c.regs with lim := lim } }

/-- The end of a park changes how long it was. -/
theorem endPark_keeps (n : Nat) (s : State) : (endPark n s).mem = s.mem ∧ (endPark n s).cur = s.cur ∧
    ∃ lim, (endPark n s).core n = limited lim (s.core n) := by
  unfold endPark
  extract_lets lim
  split
  · exact ⟨rfl, rfl, (s.core n).regs.lim, rfl⟩
  · obtain ⟨mem, cur, core⟩ := monRecord_keeps (s := s.modCore n _) (n / 64) 4 (s.core n).regs.id.tag (n % 64) _
    exact ⟨mem, cur, _, (core n).trans (core_modCore_same ..)⟩

theorem wakeSusp_none {wake : Nat → Bool} {n : Nat} (h : (s.core n).susp = []) : wakeSusp wake n s = s :=
  if_neg (by rw [h]; exact Bool.false_ne_true)

/-- Without a missing slot no window fills again. -/
theorem wakeSlots_none {wake : Nat → Bool} (h : ∀ w ∈ s.regs.wins.toList, ∀ y ∈ w.slots, ∀ k b a, y.1 ≠ .missing k b a) :
    wakeSlots wake s = s := by
  have held (w j : Nat) : ∀ k b a, ((s.win w).slot j).1 ≠ .missing k b a := by
    intro k b a
    rw [State.win, vget, Window.slot, List.getD_eq_getElem?_getD]
    split
    · next hw =>
      cases hj : (s.regs.wins[w]).slots[j]? with
      | none => exact fun e => nomatch e
      | some y => exact h _ (Vector.mem_toList_iff.2 (Vector.getElem_mem hw)) y (List.mem_of_getElem? hj) k b a
    · rw [Window.reset]
      exact fun e => nomatch e
  refine foldl_keeps (P := fun u => u = s) (fun u w hu => ?_) _ rfl
  subst hu
  refine foldl_keeps (P := fun v => v = u) (fun v j hv => ?_) _ rfl
  subst hv
  split
  · next k b a e => exact absurd e (held w j k b a)
  · rfl

theorem cur_core (n : CoreId) : BitVec.ofNat 11 n.toNat = n := by simp

/-- The entry of a table that is valid, and resident if a leaf, wakes what is parked on its line. -/
theorem wakes_live {pa e : Nat} (line : e / 128 = pa / 128) (near : e < 2 ^ 60) (pod : podOf s e = none)
    (valid : (Memory.read s.mem e 8).testBit 0 = true)
    (res : (Memory.read s.mem e 8).testBit 1 = false ∨ (Memory.read s.mem e 8).testBit 5 = true) : wakes s pa e = true := by
  have entry : tableEntry s e = Memory.read s.mem e 8 := if_neg (by rw [pod]; exact Bool.false_ne_true)
  have bit (x i : Nat) : (bitsN x i 1 = 1) ↔ x.testBit i = true := by
    rw [bitsN, Nat.testBit_eq_decide_div_mod_eq, decide_eq_true_eq, pow_one]
  have first : Memory.read s.mem e 8 % 2 = 1 := by
    have := (bit (Memory.read s.mem e 8) 0).2 valid
    rwa [bitsN, pow_zero, Nat.div_one, pow_one] at this
  rw [wakes, line, entryLive, farMark, if_pos near]
  dsimp only
  rw [entry, first, entryLeaf, isRes]
  simp only [bit, decide_true, Bool.true_and]
  obtain res | res := res
  · rw [res]
    rfl
  · rw [res]
    simp

/-- What a write to the line of pa does at the one core there is. -/
theorem wakeLine_one {pa : Nat} {x : Core} (one : s.cores = [(n.toNat, x)]) : wakeLine pa s =
    atCore n.toNat (wakeSlots (wakes s pa)) (wakeSusp (wakes s pa) n.toNat (wakeCore (wakes s pa) n.toNat (wakeEngines (wakes s pa) s))) := by
  unfold wakeLine
  dsimp only
  rw [one]
  rfl

theorem wake_walks {pa : Pa} {x : Core} {r : Req LdOp} {e : Nat} (one : s.cores = [(n.toNat, x)]) (susp : x.susp = [])
    (olq : x.regs.outr.lq = []) (osq : x.regs.outr.sq = []) (lq : x.regs.task.lq = [r]) (sq : x.regs.task.sq = [])
    (wins : ∀ w ∈ x.regs.wins.toList, ∀ y ∈ w.slots, ∀ k b a, y.1 ≠ .missing k b a) (park : r.park = some e) (single : r.n = 1)
    (noLdr : ∀ m, r.op ≠ .ldr m) (pod : podOf s e = none)
    (page : r.va.toNat / 4096 = (r.va.toNat + r.ulen - 1) / 4096) (line : e / 128 = pa.toNat / 128)
    (valid : (Memory.read s.mem e 8).testBit 0 = true)
    (res : (Memory.read s.mem e 8).testBit 1 = false ∨ (Memory.read s.mem e 8).testBit 5 = true)
    (walks : WalksTo s n r.va.toNat 0 l)
    (may : ∀ a ∈ wordsOf r.va.toNat r.ulen, accessFaultOf s x.regs.id.tag 0 (l.pa a) a = none ∧ loadOwn r (l.pa a) = none) :
    Completes (.wake pa) s (fun t => (taskOf t n).lq = [found l r] ∧ (t.core n.toNat).cache.l1 = [] ∧ (taskOf t n).s = (taskOf s n).s ∧
      MemorySame s t) := by
  have core : s.core n.toNat = x := by
    rw [State.core, one]
    exact if_pos rfl
  have live : wakes s pa.toNat e = true := wakes_live line (by have := pa.isLt; omega) pod valid res
  subst core
  obtain ⟨mem₀, -, d, c, core₀⟩ := rewoken_found (wake := wakes s pa.toNat) (k := (wakeEngines (wakes s pa.toNat) s).chans)
    lq sq olq osq park live noLdr single page walks may
  have parked : hasParked (wakes s pa.toNat) ((wakeEngines (wakes s pa.toNat) s).core n.toNat) = true := by
    show hasParked (wakes s pa.toNat) (s.core n.toNat) = true
    simp [hasParked, lq, Req.wakesOn, park, live]
  have woken : ∃ v lim, wakeCore (wakes s pa.toNat) n.toNat (wakeEngines (wakes s pa.toNat) s) = v ∧ v.mem = s.mem ∧
      v.core n.toNat = limited lim (foundCore (wakes s pa.toNat) l r d c (s.core n.toNat)) := by
    obtain h | h := wakeCore_parked parked
    · exact ⟨_, _, h, mem₀, core₀⟩
    · obtain ⟨mem', -, lim, core'⟩ := endPark_keeps n.toNat (rewoken (wakes s pa.toNat) n.toNat (wakeEngines (wakes s pa.toNat) s))
      exact ⟨_, lim, h, mem'.trans mem₀, core'.trans (congrArg (limited lim) core₀)⟩
  obtain ⟨v, lim, woke, mem, core⟩ := woken
  have still : atCore n.toNat (wakeSlots (wakes s pa.toNat)) v = v := by
    have same : wakeSlots (wakes s pa.toNat) { v with cur := BitVec.ofNat 11 n.toNat } = { v with cur := BitVec.ofNat 11 n.toNat } := by
      refine wakeSlots_none ?_
      show ∀ w ∈ (v.core (BitVec.ofNat 11 n.toNat).toNat).regs.wins.toList, _
      rw [cur_core, core]
      exact wins
    rw [atCore, same]
  refine ⟨v, congrArg Outcome.next ?_, ?_⟩
  · rw [wakeLine_one one, woke, wakeSusp_none (by rw [core]; exact susp), still]
  · dsimp only [taskOf]
    rw [core]
    exact ⟨rfl, rfl, rfl, memorySame_of_mem mem⟩

end Sys2Proof.Machine
end
section
/-! PROOF. A bundle is fetched as memory holds it, and a landing is entered (O35; R10, R20, R90, R279, R281, R282). -/

namespace Sys2Proof.Machine

open Host (Outcome)

variable {s t u : State} {n : CoreId} {va : Nat} {l : Leaf}

/-! ### Bytes of ordinary memory -/

theorem inMemory_bounds {a : Nat} (h : inMemory a = true) : a < 2 ^ 41 ∨ 2 ^ 42 ≤ a ∧ a < 2 ^ 43 := by
  rw [inMemory, Bool.or_eq_true, Bool.and_eq_true, decide_eq_true_eq, decide_eq_true_eq, decide_eq_true_eq] at h
  exact h

theorem memByte_plain {k tag a : Nat} (mem : inMemory a = true) (pod : podOf s a = none) :
    memByte s k tag a = Memory.get s.mem a := by
  have bounds := inMemory_bounds mem
  have mail : isMail a = false := by
    have base : mailBase = 0xF000180000000 := rfl
    rw [isMail, decide_eq_false (by omega), Bool.false_and]
  have pad : isPad a = false := by
    have base : padBase = 0xF000000000000 := rfl
    rw [isPad, decide_eq_false (by omega), Bool.false_and]
  have allowed : padAllowed s tag a = true := if_neg (by rw [pad]; decide)
  rw [memByte, if_neg (by rw [pod]; decide), if_neg (by rw [mail]; decide), readByteAs, if_pos allowed]

theorem leNat_range_get (m : List Host.Cell) (a n : Nat) :
    leNat ((List.range n).map (fun i => Memory.get m (a + i))) = Memory.read m a n := by
  induction n generalizing a with
  | zero => rfl
  | succ n ih =>
    rw [List.range_succ_eq_map, List.map_cons, List.map_map, leNat, Memory.read, Nat.add_zero, ← ih (a + 1)]
    refine congrArg (fun x => (Memory.get m a).toNat + 256 * leNat x) (List.map_congr_left fun i _ => ?_)
    show Memory.get m (a + (i + 1)) = _
    rw [Nat.add_right_comm, Nat.add_assoc]

theorem memRead_plain {tag a k : Nat} (h : PlainBytes s a k) : memRead s tag a k = Memory.read s.mem a k := by
  rw [memRead, ← leNat_range_get]
  exact congrArg leNat (List.map_congr_left fun i hi => by
    obtain ⟨mem, pod⟩ := h i (List.mem_range.1 hi)
    exact memByte_plain mem pod)

theorem read_lt (m : List Host.Cell) (a n : Nat) : Memory.read m a n < 256 ^ n := by
  induction n generalizing a with
  | zero => exact Nat.one_pos
  | succ n ih =>
    have rest := ih (a + 1)
    have byte := (Memory.get m a).isLt
    rw [Memory.read, pow_succ]
    omega

/-- A part of what is read is a read of that part. -/
theorem read_part (m : List Host.Cell) (a o k r : Nat) :
    Memory.read m a (o + k + r) / 256 ^ o % 256 ^ k = Memory.read m (a + o) k := by
  rw [Nat.add_assoc, Memory.read_add, Nat.add_mul_div_left _ _ (Nat.pow_pos (by decide)), Nat.div_eq_of_lt (read_lt m a o), Nat.zero_add,
    Memory.read_add, Nat.add_mul_mod_self_left, Nat.mod_eq_of_lt (read_lt m _ k)]

/-! ### The bytes that a fetch gives -/

/-- Of core and memory only the caches of the current core may have changed. -/
def OnlyCache (s t : State) : Prop :=
  t.mem = s.mem ∧ t.cur = s.cur ∧ t.me.regs = s.me.regs ∧ ∀ m, m ≠ s.cur.toNat → t.core m = s.core m

theorem onlyCache_refl (s : State) : OnlyCache s s := ⟨rfl, rfl, rfl, fun _ _ => rfl⟩

theorem onlyCache_modMe {f : Core → Core} (hf : ∀ c, (f c).regs = c.regs) (h : OnlyCache s t) : OnlyCache s (t.modMe f) := by
  obtain ⟨mem, cur, regs, others⟩ := h
  refine ⟨mem, cur, ?_, fun m hm => ?_⟩
  · rw [me_modMe, hf, regs]
  · rw [core_modMe_ne t f (by rw [cur]; exact hm), others m hm]

theorem onlyCache_dropFetch (h : OnlyCache s t) : OnlyCache s (dropFetch va t) := onlyCache_modMe (fun _ => rfl) h

theorem onlyCache_fresh {k : Nat} (h : OnlyCache s t) : OnlyCache s { t with fresh := k } := h

/-- A core that holds one more line of code, in the place of the one that k names. -/
def lineHeld (k : Nat) (i : ILine) (c : Core) : Core := { c with cache := { c.cache with icache := cacheIn 512 k i c.cache.icache } }

theorem onlyCache_fetchLine {pa : Nat} {f : Option Flit} (h : OnlyCache s t) : OnlyCache s (fetchLine va pa f t).2 := by
  unfold fetchLine
  dsimp only
  split
  · exact h
  · split
    · exact h
    · exact onlyCache_fresh (onlyCache_modMe (f := lineHeld (victim t) _) (fun _ => rfl) h)

/-- A fetch that goes on has at most taken its reply from the requests. -/
theorem fetchFar_go {pa : Nat} {f : Option Flit} (h : fetchFar va pa s = (.go f, t)) : OnlyCache s t := by
  unfold fetchFar at h
  dsimp only at h
  split at h
  · cases h
    exact onlyCache_refl s
  · split at h
    · split at h
      · next r _ f' _ =>
        have taken := congrArg Prod.snd h
        dsimp only at taken
        rw [← taken]
        exact onlyCache_refl s
      · cases h
    · cases h

theorem fetchBytes_ok {k v : Nat} (h : fetchBytes va k s = (.ok v, t)) : OnlyCache s t := by
  unfold fetchBytes at h
  split at h
  · cases h
  · cases h
  · cases h
  · next l _ =>
    dsimp only at h
    split at h
    · cases h
    · split at h
      · cases h
      · split at h
        · cases h
        · cases h
        · next f s₁ far =>
          split at h
          · cases h
          · next d s₂ line =>
            cases h
            have kept := onlyCache_fetchLine (va := va) (pa := l.pa va) (f := f) (fetchFar_go far)
            rw [line] at kept
            exact onlyCache_dropFetch kept

/-- A core that does not hold the line of va fetches it as memory holds it. -/
theorem fetchBytes_plain {k : Nat} (look : fetchLook s va = .leaf l) (free : reservedPa s (l.pa va) = false)
    (right : accessOk s s.regs.id.tag 0 2 (l.pa va) = true) (clean : poisoned s (l.pa va) = false)
    (same : l.pa va % 4096 = va % 4096) (plain : PlainBytes s (l.pa va / 128 * 128) 128)
    (cold : ∀ i ∈ s.me.cache.icache, ¬(i.tag = s.regs.id.tag ∧ i.vline = va / 128)) (fits : va % 128 + k ≤ 128) :
    ∃ t, fetchBytes va k s = (.ok (Memory.read s.mem (l.pa va) k), t) ∧ OnlyCache s t := by
  obtain ⟨-, pod⟩ := plain (l.pa va % 128) (Nat.mod_lt _ (by decide))
  rw [show l.pa va / 128 * 128 + l.pa va % 128 = l.pa va by omega] at pod
  have far : fetchFar va (l.pa va) s = (.go none, s) := by
    unfold fetchFar
    exact if_pos (by rw [pod]; rfl)
  have absent : s.me.cache.icache.find? (fun i => i.tag = s.me.regs.id.tag && i.vline = va / 128 && i.pline = l.pa va / 128) = none := by
    rw [List.find?_eq_none]
    intro i hi held
    simp only [Bool.and_eq_true, decide_eq_true_eq] at held
    exact cold i hi held.1
  obtain ⟨t, line⟩ : ∃ t, fetchLine va (l.pa va) none s =
      (some (BitVec.ofNat 1024 (Memory.read s.mem (l.pa va / 128 * 128) 128)), t) := by
    unfold fetchLine
    dsimp only
    rw [absent]
    dsimp only
    rw [if_neg (by rw [clean]; decide), memRead_plain plain]
    exact ⟨_, rfl⟩
  have value : field (BitVec.ofNat 1024 (Memory.read s.mem (l.pa va / 128 * 128) 128)) (8 * (va % 128)) (8 * k) =
      Memory.read s.mem (l.pa va) k := by
    have offset : l.pa va / 128 * 128 + va % 128 = l.pa va := by omega
    have size : 128 = va % 128 + k + (128 - (va % 128 + k)) := by omega
    have part := read_part s.mem (l.pa va / 128 * 128) (va % 128) k (128 - (va % 128 + k))
    rw [← size, offset] at part
    have bound : Memory.read s.mem (l.pa va / 128 * 128) 128 < 2 ^ 1024 :=
      (read_lt s.mem (l.pa va / 128 * 128) 128).trans_eq (by rw [show (256 : Nat) = 2 ^ 8 from rfl, ← pow_mul])
    rw [field, toNat_ofNat_fits bound, bitsN, pow_mul, pow_mul]
    exact part
  have fetched : fetchBytes va k s = (.ok (Memory.read s.mem (l.pa va) k), dropFetch va t) := by
    unfold fetchBytes
    rw [look]
    dsimp only
    rw [if_neg (by rw [free]; decide), if_neg (by rw [right]; decide), far]
    dsimp only
    rw [line]
    dsimp only
    rw [value]
  exact ⟨_, fetched, fetchBytes_ok fetched⟩

/-! ### A core that acts -/

theorem atCore_at (f : State → State) : atCore n.toNat f s = at' (f (at' s n)) s.cur := by
  rw [atCore, cur_core]
  rfl

theorem outrider_at (off : (regsOf s n).out = .off) : (at' s n).me.outrider = false := by
  show decide ((regsOf s n).out ≠ .off) = false
  rw [off]
  decide

theorem pipe_at (off : (regsOf s n).out = .off) : (at' s n).pipe = taskOf s n := by
  have no := outrider_at off
  rw [State.pipe, Core.pipe, no]
  rfl

/-- A task whose core has fetched keeps its pipeline. -/
theorem pipe_fetched (off : (regsOf s n).out = .off) (h : OnlyCache (at' s n) u) : u.me.outrider = false ∧ u.pipe = taskOf s n := by
  obtain ⟨-, -, regs, -⟩ := h
  have off' : u.me.outrider = false := by
    rw [Core.outrider, regs]
    exact outrider_at off
  refine ⟨off', ?_⟩
  rw [State.pipe, Core.pipe, off']
  exact congrArg CoreRegs.task regs

theorem taskOf_modPipe {f : Pipe → Pipe} {m : CoreId} (cur : u.cur = n) (off : u.me.outrider = false) :
    taskOf (at' (u.modPipe f) m) n = f u.pipe := by
  have me : (u.modPipe f).core n.toNat = u.me.modPipe f := by
    rw [← cur]
    exact me_modPipe u f
  show ((u.modPipe f).core n.toNat).regs.task = _
  rw [me, Core.modPipe, State.pipe, Core.pipe, off]
  rfl

/-! ### Dispatch -/

/-- A pipeline that has dispatched the bundle at its fetch address. -/
def dispatched (v : Nat) (land : Bool) (next : Word) (p : Pipe) : Pipe :=
  { p.dispatch ⟨p.pc, BitVec.ofNat 256 v, land, next⟩ with pc := p.pc + 32, land := false }

theorem dispatchBundle_fetched {v : Nat} (target : s.pipe.target = none) (stop : s.pipe.stop = none) (room : s.pipe.room = true)
    (decodes : badDecode s = false) (run : s.regs.run = .running)
    (inside : (s.pipe.pc.toNat - 4096 * s.pipe.span.page) / 32 ≤ s.pipe.span.count + 1)
    (fetched : fetchBytes s.pipe.pc.toNat 32 s = (.ok v, u)) (pipe : u.pipe = s.pipe) :
    ∃ land next, dispatchBundle s = u.modPipe (dispatched v land next) := by
  unfold dispatchBundle
  dsimp only
  rw [target, stop, room, decodes, run, if_neg (by simp), if_neg (Nat.not_lt.2 inside), fetched]
  dsimp only
  exact ⟨_, _, modPipe_congr (by rw [pipe]; rfl)⟩

theorem bundleDispatch_fetches (issues : (s.core n.toNat).issues = true) (off : (regsOf s n).out = .off)
    (run : (regsOf s n).run = .running) (target : (taskOf s n).target = none) (stop : (taskOf s n).stop = none)
    (room : (taskOf s n).room = true) (decodes : badDecode (at' s n) = false)
    (inside : (taskOf s n).pc.toNat - 4096 * (taskOf s n).span.page < 32 * ((taskOf s n).span.count + 2))
    (aligned : (taskOf s n).pc.toNat % 32 = 0) (look : fetchLook (at' s n) (taskOf s n).pc.toNat = .leaf l)
    (free : reservedPa s (l.pa (taskOf s n).pc.toNat) = false)
    (right : accessOk s (regsOf s n).id.tag 0 2 (l.pa (taskOf s n).pc.toNat) = true)
    (clean : poisoned s (l.pa (taskOf s n).pc.toNat) = false)
    (same : l.pa (taskOf s n).pc.toNat % 4096 = (taskOf s n).pc.toNat % 4096)
    (plain : PlainBytes s (l.pa (taskOf s n).pc.toNat / 128 * 128) 128)
    (cold : ∀ i ∈ (s.core n.toNat).cache.icache, ¬(i.tag = (regsOf s n).id.tag ∧ i.vline = (taskOf s n).pc.toNat / 128)) :
    Completes (.bundleDispatch n) s (fun t =>
      (∃ b : Bundle, (taskOf t n).bq = (taskOf s n).bq ++ [b] ∧ b.addr = (taskOf s n).pc ∧
        b.bits = BitVec.ofNat 256 (Memory.read s.mem (l.pa (taskOf s n).pc.toNat) 32)) ∧
      (taskOf t n).pc = (taskOf s n).pc + 32 ∧ (taskOf t n).s = (taskOf s n).s ∧ MemorySame s t ∧ OthersSame s t n) := by
  obtain ⟨u, fetched, kept⟩ := fetchBytes_plain (s := at' s n) (k := 32) look free right clean same plain cold
    (show (taskOf s n).pc.toNat % 128 + 32 ≤ 128 by omega)
  have value : Memory.read (at' s n).mem (l.pa (taskOf s n).pc.toNat) 32 = Memory.read s.mem (l.pa (taskOf s n).pc.toNat) 32 := rfl
  rw [value] at fetched
  generalize Memory.read s.mem (l.pa (taskOf s n).pc.toNat) 32 = v at fetched
  have pipe₀ := pipe_at off
  obtain ⟨off', pipe⟩ := pipe_fetched off kept
  obtain ⟨mem, cur, -, others⟩ := kept
  obtain ⟨land, next, dispatch⟩ := dispatchBundle_fetched (s := at' s n) (by rw [pipe₀, target]) (by rw [pipe₀, stop])
    (by rw [pipe₀, room]) decodes run (by rw [pipe₀]; omega) (by rw [pipe₀]; exact fetched) (pipe.trans pipe₀.symm)
  have done : exec (.bundleDispatch n) s = .next (at' (u.modPipe (dispatched v land next)) s.cur) := by
    refine congrArg Outcome.next ((if_pos issues).trans ?_)
    rw [atCore_at, dispatch]
  refine ⟨_, done, ?_⟩
  dsimp only
  rw [taskOf_modPipe (n := n) cur off', pipe]
  refine ⟨⟨_, rfl, rfl, rfl⟩, rfl, rfl, memorySame_of_mem mem, fun m hm => ?_⟩
  have other : (u.modPipe (dispatched v land next)).core m = u.core m := core_modMe_ne u _ (by rw [cur]; exact hm)
  exact other.trans (others m hm)

/-! ### Page entry -/

theorem pageEntry_none (issues : (s.core n.toNat).issues = true) (target : (taskOf s n).target = none) (off : (regsOf s n).out = .off) :
    exec (.pageEntry n) s = .next s := by
  refine congrArg Outcome.next ((if_pos issues).trans ?_)
  have stays : enterPage (at' s n) = at' s n := by rw [enterPage, pipe_at off, target]
  rw [atCore_at, stays]
  rfl

theorem field_part {w lo m lo' m' : Nat} {x : BitVec w} (h : lo' + m' ≤ m) : bitsN (field x lo m) lo' m' = field x (lo + lo') m' := by
  refine Nat.eq_of_testBit_eq fun i => ?_
  rw [field, field]
  simp only [testBit_bitsN]
  by_cases hi : i < m'
  · rw [decide_eq_true (show lo' + i < m by omega), Bool.true_and, Nat.add_assoc]
  · rw [decide_eq_false hi, Bool.false_and, Bool.false_and]

theorem bitsN_ofNat_bits {h w lo m : Nat} (fits : lo + m ≤ w) (base : Nat) :
    field (BitVec.ofNat w (bitsN h base w)) lo m = h / 2 ^ (base + lo) % 2 ^ m := by
  refine Nat.eq_of_testBit_eq fun i => ?_
  rw [field, testBit_bitsN, BitVec.toNat_ofNat, bitsN, Nat.mod_mod]
  simp only [Nat.testBit_mod_two_pow, Nat.testBit_div_two_pow]
  by_cases hi : i < m
  · rw [decide_eq_true (show lo + i < w by omega), Bool.true_and]
    congr 2
    omega
  · simp [hi]

/-- The page of a landing that is in it, with its header, when that runs. -/
theorem locate_here {ptr : Word} {page h k : Nat} (listed : k < h / 2 ^ 48 % 2 ^ 5) (here : landTn (landEntry (hTable h) k) = 0) :
    locate ptr page h k s = (.ok page h, s) := by
  rw [locate, if_neg (show ¬hNland h ≤ k from Nat.not_le.2 listed)]
  exact if_pos here

theorem entryOf_runs {h : Nat} (magic : h % 2 ^ 16 = 0x5043) (tag : h / 2 ^ 16 % 2 ^ 8 = 0x51) (rej : h / 2 ^ 35 % 2 = 0) :
    entryOf h = .runs := by
  have magic' : hMagic h = 0x5043 := by rw [hMagic, bitsN, pow_zero, Nat.div_one, magic]
  have rej' : hRej h = false := decide_eq_false (by rw [bitsN, pow_one, rej]; decide)
  rw [entryOf, if_neg (not_not.2 magic'), show hTag h = 0x51 from tag, rej']
  rfl

/-- The pipeline of a task that enters landing k of the head page. -/
def landing (page h k : Nat) (p : Pipe) : Pipe :=
  { p with
    span := spanOf page h page h
    pc := BitVec.ofNat 64 (page * 4096 + 32 * landBi (landEntry (hTable h) k))
    target := none
    gap := 0
    land := true }

theorem enterLanding_here {ptr : Word} {h : Nat} (inside : ptr.toNat < 2 ^ 60)
    (fetched : fetchBytes (ptr.toNat / 4096 * 4096) 64 s = (.ok h, u)) (runs : entryOf h = .runs)
    (listed : ptr.toNat % 4096 < h / 2 ^ 48 % 2 ^ 5) (here : landTn (landEntry (hTable h) (ptr.toNat % 4096)) = 0) :
    enterLanding ptr s = (endFetch u).modPipe (landing (ptr.toNat / 4096) h (ptr.toNat % 4096)) := by
  have page : bitsN ptr.toNat 12 48 = ptr.toNat / 4096 := by
    rw [bitsN, Nat.mod_eq_of_lt (by omega)]
    rfl
  have index : bitsN ptr.toNat 0 12 = ptr.toNat % 4096 := by
    rw [bitsN, pow_zero, Nat.div_one]
    rfl
  have header : readHeader (ptr.toNat / 4096 * 4096) s = (.ok h, u) := by
    rw [readHeader, fetched]
    dsimp only
    rw [runs]
  unfold enterLanding
  dsimp only
  rw [page, index, header]
  dsimp only
  rw [locate_here listed here]
  rfl

theorem pageEntry_lands {x : Target} {h : Nat} (issues : (s.core n.toNat).issues = true) (off : (regsOf s n).out = .off)
    (target : (taskOf s n).target = some x) (couple : x.couple = false) (inside : x.ptr.toNat < 2 ^ 60)
    (link : (taskOf s n).link = none) (calm : settled (at' s n) = true)
    (fetched : fetchBytes (x.ptr.toNat / 4096 * 4096) 64 (at' s n) = (.ok h, u))
    (magic : h % 2 ^ 16 = 0x5043) (tag : h / 2 ^ 16 % 2 ^ 8 = 0x51) (rej : h / 2 ^ 35 % 2 = 0)
    (listed : x.ptr.toNat % 4096 < h / 2 ^ 48 % 2 ^ 5) (here : h / 2 ^ (192 + 12 * (x.ptr.toNat % 4096) + 7) % 2 ^ 4 = 0)
    (few : x.ptr.toNat % 4096 < 24) : Completes (.pageEntry n) s (fun t =>
      (taskOf t n).target = none ∧ (taskOf t n).land = true ∧
      (taskOf t n).pc.toNat = (x.ptr.toNat / 4096 * 4096 + 32 * (h / 2 ^ (192 + 12 * (x.ptr.toNat % 4096)) % 2 ^ 7)) % 2 ^ 64 ∧
      (taskOf t n).span.head = x.ptr.toNat / 4096 ∧ (taskOf t n).s = (taskOf s n).s ∧ MemorySame s t) := by
  have kept : OnlyCache (at' s n) (endFetch u) := onlyCache_modMe (fun _ => rfl) (fetchBytes_ok fetched)
  have pipe₀ := pipe_at off
  obtain ⟨off', pipe⟩ := pipe_fetched off kept
  obtain ⟨mem, cur, -, -⟩ := kept
  have entry (lo m : Nat) (fits : 12 * (x.ptr.toNat % 4096) + lo + m ≤ 288) (h12 : lo + m ≤ 12) :
      bitsN (landEntry (hTable h) (x.ptr.toNat % 4096)) lo m = h / 2 ^ (192 + 12 * (x.ptr.toNat % 4096) + lo) % 2 ^ m := by
    rw [landEntry, hTable, field_part h12, bitsN_ofNat_bits (by omega), Nat.add_assoc]
  have inPage : landTn (landEntry (hTable h) (x.ptr.toNat % 4096)) = 0 := (entry 7 4 (by omega) (by omega)).trans here
  have first : landBi (landEntry (hTable h) (x.ptr.toNat % 4096)) = h / 2 ^ (192 + 12 * (x.ptr.toNat % 4096)) % 2 ^ 7 :=
    entry 0 7 (by omega) (by omega)
  have enters : enterPage (at' s n) = (endFetch u).modPipe (landing (x.ptr.toNat / 4096) h (x.ptr.toNat % 4096)) := by
    have linked : writeLink (at' s n) = at' s n := by rw [writeLink, pipe₀, link]
    have top : bitsN x.ptr.toNat 60 4 = 0 := by
      rw [bitsN, Nat.div_eq_of_lt inside]
      rfl
    unfold enterPage
    rw [pipe₀, target]
    dsimp only
    rw [couple, if_neg (by decide), calm, if_neg (by decide), top, if_neg (by decide), linked]
    exact enterLanding_here inside fetched (entryOf_runs magic tag rej) listed inPage
  have done : exec (.pageEntry n) s = .next
      (at' ((endFetch u).modPipe (landing (x.ptr.toNat / 4096) h (x.ptr.toNat % 4096))) s.cur) := by
    refine congrArg Outcome.next ((if_pos issues).trans ?_)
    rw [atCore_at, enters]
  refine ⟨_, done, ?_⟩
  dsimp only
  rw [taskOf_modPipe (n := n) cur off', pipe]
  refine ⟨rfl, rfl, ?_, rfl, rfl, memorySame_of_mem mem⟩
  rw [landing, first]
  exact BitVec.toNat_ofNat _ _

end Sys2Proof.Machine
end

section
/-! PROOF. The fill of a window slot copies its page into the bytes that are not dirty (O35; R253, R254, R257). -/

namespace Sys2Proof.Machine

open Host (Outcome)

variable {s t u : State} {n : CoreId} {w j i va : Nat} {l : Leaf} {r r' : Req LdOp} {p : Pipe}

/-! ### A load queue with another request in one place -/

/-- A pipeline whose load queue has r' in place i. -/
def withLoad (i : Nat) (r' : Req LdOp) (p : Pipe) : Pipe := { p with lq := p.lq.set i r' }

theorem set_split {α : Type} {q : List α} {x y : α} {k : Nat} (h : q[k]? = some x) :
    q = q.take k ++ x :: q.drop (k + 1) ∧ q.set k y = q.take k ++ y :: q.drop (k + 1) := by
  obtain ⟨inside, rfl⟩ := List.getElem?_eq_some_iff.1 h
  refine ⟨by simp, ?_⟩
  rw [List.set_eq_take_append_cons_drop, if_pos inside]

theorem all_set_of {α : Type} {P : α → Bool} {q : List α} {x y : α} {k : Nat} (h : q[k]? = some x) (hx : P x = true) (hy : P y = true) :
    (q.set k y).all P = q.all P := by
  obtain ⟨old, new⟩ := set_split (y := y) h
  rw [new]
  conv_rhs => rw [old]
  simp [hx, hy]

theorem withLoad_self (at_i : p.lq[i]? = some r) : withLoad i r p = p := by
  obtain ⟨inside, rfl⟩ := List.getElem?_eq_some_iff.1 at_i
  rw [withLoad, List.set_getElem_self]

theorem get_withLoad (at_i : p.lq[i]? = some r) : (withLoad i r' p).lq[i]? = some r' := by
  obtain ⟨inside, -⟩ := List.getElem?_eq_some_iff.1 at_i
  exact List.getElem?_set_self inside

/-- Whether a fill has its entry depends on the fills before it and on the other loads. -/
theorem hasEntry_withLoad (at_i : p.lq[i]? = some r) (fill : isFill r = true) (op : r'.op = r.op) (bn : r'.bn = r.bn) :
    hasEntry (withLoad i r' p) isFill (withLoad i r' p).lq i = hasEntry p isFill p.lq i := by
  have fill' : isFill r' = true := by rw [isFill, op]; exact fill
  have same : (withLoad i r' p).lq.filter (fun x => !isFill x) = p.lq.filter (fun x => !isFill x) := by
    obtain ⟨old, new⟩ := set_split (y := r') at_i
    conv_rhs => rw [old]
    rw [withLoad, new]
    simp [fill, fill']
  have before : (withLoad i r' p).lq.take i = p.lq.take i := List.take_set_of_le le_rfl
  rw [hasEntry, hasEntry, get_withLoad at_i, at_i]
  dsimp only
  rw [fill, fill', same, before, bn]
  rfl

/-- An access is ordered after the requests of earlier keys alone. -/
theorem mayPerform_withLoad {pa len : Nat} (at_i : p.lq[i]? = some r) (bn : r'.bn = r.bn) :
    mayPerform (withLoad i r' p) false (keyL r) pa len = mayPerform p false (keyL r) pa len := by
  have key : keyL r' = keyL r := by rw [keyL, keyL, bn]
  have later (k : Nat) (h : k ≤ keyL r) (Q : Req LdOp → Bool) :
      (withLoad i r' p).lq.all (fun x => !(keyL x < k && Q x)) = p.lq.all (fun x => !(keyL x < k && Q x)) := by
    refine all_set_of at_i ?_ ?_
    · rw [decide_eq_false (Nat.not_lt.2 h), Bool.false_and]
      rfl
    · rw [key, decide_eq_false (Nat.not_lt.2 h), Bool.false_and]
      rfl
  have acquires : acquiresDone (withLoad i r' p) (keyL r) = acquiresDone p (keyL r) := by
    unfold acquiresDone
    simp only [Bool.and_assoc]
    rw [later (keyL r) le_rfl]
    rfl
  have fences (f : Req StOp) : fenceHolds (withLoad i r' p) (keyL r) pa len f = fenceHolds p (keyL r) pa len f := by
    unfold fenceHolds
    by_cases h : keyW f < keyL r
    · have all : allBefore (withLoad i r' p) (keyW f) = allBefore p (keyW f) := by
        unfold allBefore
        simp only [Bool.and_assoc]
        rw [later (keyW f) h.le]
        rfl
      have home : homeDone (withLoad i r' p) (keyW f) pa = homeDone p (keyW f) pa := by
        unfold homeDone
        simp only [Bool.and_assoc]
        rw [later (keyW f) h.le]
        rfl
      rw [all, home]
      rfl
    · rw [decide_eq_false h, Bool.false_and, Bool.false_and]
  unfold mayPerform inOrder
  rw [acquires, if_neg Bool.false_ne_true, if_neg Bool.false_ne_true, later (keyL r) le_rfl]
  simp only [fences]
  rfl

/-- Request i is the only fill of slot j of window w. -/
def OnlyFill (w j i : Nat) (q : List (Req LdOp)) : Prop := ∀ k x, q[k]? = some x → k ≠ i → x.op ≠ .fill w j

theorem onlyFill_of_eraseIdx {q : List (Req LdOp)} (h : ∀ x ∈ q.eraseIdx i, x.op ≠ .fill w j) : OnlyFill w j i q :=
  fun k x at_k ne => h x (List.mem_eraseIdx_iff_getElem?.2 ⟨k, ne, at_k⟩)

theorem onlyFill_set {q : List (Req LdOp)} (h : OnlyFill w j i q) : OnlyFill w j i (q.set i r') := by
  intro k x at_k ne
  rw [List.getElem?_set_ne (Ne.symm ne)] at at_k
  exact h k x at_k ne

theorem findIdx_onlyFill {q : List (Req LdOp)} (at_i : q[i]? = some r) (op : r.op = .fill w j) (only : OnlyFill w j i q) :
    q.findIdx? (fun x => x.op = .fill w j) = some i := by
  obtain ⟨inside, rfl⟩ := List.getElem?_eq_some_iff.1 at_i
  refine List.findIdx?_eq_some_iff_getElem.2 ⟨inside, decide_eq_true op, fun k hk => ?_⟩
  simpa using only k q[k] (List.getElem?_eq_getElem (hk.trans inside)) (Nat.ne_of_lt hk)

theorem map_onlyFill {q : List (Req LdOp)} {f : Req LdOp → Req LdOp} (at_i : q[i]? = some r) (op : r.op = .fill w j)
    (only : OnlyFill w j i q) : q.map (fun x => if x.op = .fill w j then f x else x) = q.set i (f r) := by
  obtain ⟨inside, -⟩ := List.getElem?_eq_some_iff.1 at_i
  refine List.ext_getElem? fun k => ?_
  rw [List.getElem?_map]
  by_cases h : k = i
  · subst h
    rw [at_i, List.getElem?_set_self inside, Option.map_some, if_pos op]
  · rw [List.getElem?_set_ne (Ne.symm h)]
    cases at_k : q[k]? with
    | none => rfl
    | some x => rw [Option.map_some, if_neg (only k x at_k h)]

/-! ### The bytes of one line -/

/-- Byte i of line k of a granule, of which some bytes are dirty. -/
def fillByte (x : Window) (d : BitVec 4096) (j k : Nat) (read : Nat → Byte) (s : State) (i : Nat) : State :=
  if d.getLsbD (128 * k + i) then s
  else writeByteAs s s.regs.id.tag (padOf s.cur.toNat + x.rbase + 4096 * j + 128 * k + i) (read i)

theorem fillBytes_eq (w j k : Nat) (read : Nat → Byte) (s : State) : fillBytes w j k read s =
    (List.range 128).foldl (fillByte (s.win w) ((s.win w).slot j).2 j k read) s := rfl

/-- The first byte of line k of the granule of slot j, in the scratchpad of the current core. -/
def lineStart (s : State) (x : Window) (j k : Nat) : Nat := padOf s.cur.toNat + x.rbase + 4096 * j + 128 * k

/-- The byte at a, once m bytes from base on have been read anew where none is kept. -/
def copied (base m : Nat) (keep : Nat → Bool) (read old : Nat → Byte) (a : Nat) : Byte :=
  if base ≤ a ∧ a < base + m ∧ keep (a - base) = false then read (a - base) else old a

theorem copied_zero (base : Nat) (keep : Nat → Bool) (read old : Nat → Byte) (a : Nat) : copied base 0 keep read old a = old a :=
  if_neg (by omega)

theorem copied_outside {base m a : Nat} {keep : Nat → Bool} {read old : Nat → Byte} (h : a < base ∨ base + m ≤ a) :
    copied base m keep read old a = old a := if_neg (by omega)

/-- One more byte is copied. -/
theorem copied_succ (base m : Nat) (keep : Nat → Bool) (read old : Nat → Byte) (a : Nat) : copied base (m + 1) keep read old a =
    if a = base + m ∧ keep m = false then read m else copied base m keep read old a := by
  by_cases h : a = base + m
  · subst h
    rw [copied_outside (.inr le_rfl), copied, Nat.add_sub_cancel_left]
    simp
  · rw [if_neg (fun e => h e.1), copied, copied]
    have near : base ≤ a ∧ a < base + (m + 1) ↔ base ≤ a ∧ a < base + m := by omega
    refine if_congr ?_ rfl rfl
    rw [← and_assoc, near, and_assoc]

theorem copied_add (base m k : Nat) (keep : Nat → Bool) (read old : Nat → Byte) (a : Nat) : copied base (m + k) keep read old a =
    copied (base + m) k (fun i => keep (m + i)) (fun i => read (m + i)) (copied base m keep read old) a := by
  induction k with
  | zero => exact (copied_zero ..).symm
  | succ k ih => rw [← Nat.add_assoc, copied_succ, ih, copied_succ, Nat.add_assoc]

theorem copied_congr {base m a : Nat} {keep keep' : Nat → Bool} {read read' old old' : Nat → Byte} (hk : ∀ i < m, keep i = keep' i)
    (hr : ∀ i < m, read i = read' i) (ho : old a = old' a) : copied base m keep read old a = copied base m keep' read' old' a := by
  by_cases h : base ≤ a ∧ a < base + m
  · rw [copied, copied, hk (a - base) (by omega), hr (a - base) (by omega), ho]
  · rw [copied_outside (by omega), copied_outside (by omega), ho]

theorem copied_kept {base m a : Nat} {keep : Nat → Bool} {read old : Nat → Byte} (h : ∀ i < m, keep i = true) :
    copied base m keep read old a = old a := by
  refine if_neg fun e => ?_
  obtain ⟨lo, hi, free⟩ := e
  rw [h (a - base) (by omega)] at free
  cases free

/-- The first m bytes of a line, copied where they are not dirty. -/
theorem fillByte_fold {x : Window} {d : BitVec 4096} {k : Nat} {read : Nat → Byte} (wf : Memory.wf s.mem = true) (m : Nat)
    (may : ∀ i < m, padAllowed s s.regs.id.tag (lineStart s x j k + i) = true) :
    ∃ mem, (List.range m).foldl (fillByte x d j k read) s = { s with mem := mem } ∧ Memory.wf mem = true ∧
      ∀ a, Memory.get mem a = copied (lineStart s x j k) m (fun i => d.getLsbD (128 * k + i)) read (Memory.get s.mem) a := by
  induction m with
  | zero => exact ⟨s.mem, rfl, wf, fun a => (copied_zero ..).symm⟩
  | succ m ih =>
    obtain ⟨mem, fold, wf', get⟩ := ih fun i hi => may i (Nat.lt_succ_of_lt hi)
    rw [List.range_succ, List.foldl_append, fold, List.foldl_cons, List.foldl_nil]
    cases dirty : d.getLsbD (128 * k + m)
    case true =>
      refine ⟨mem, if_pos dirty, wf', fun a => ?_⟩
      rw [get, copied_succ, dirty, if_neg (fun e => Bool.noConfusion e.2)]
    case false =>
      refine ⟨Memory.put mem (lineStart s x j k + m) (read m), ?_, Memory.wf_put wf', fun a => ?_⟩
      · exact (if_neg (by rw [dirty]; decide)).trans (if_pos (may m (Nat.lt_succ_self m)))
      · rw [Memory.get_put wf', get, copied_succ, dirty]
        simp only [and_true]

/-! ### A fill that goes on -/

/-- From s to t the fill in place i of the load queue of core n has become r', and scratchpads apart nothing that a fill reads has
changed. -/
structure Filling (n : CoreId) (i : Nat) (r' : Req LdOp) (s t : State) : Prop where
  poison : t.poison = s.poison
  podwin : t.podwin = s.podwin
  flash : t.flash = s.flash
  pins : t.pins = s.pins
  sptag : t.sptag = s.sptag
  others : OthersSame s t n
  task : taskOf t n = withLoad i r' (taskOf s n)
  wins : (regsOf t n).wins = (regsOf s n).wins
  id : (regsOf t n).id = (regsOf s n).id

theorem filling_refl (at_i : (taskOf s n).lq[i]? = some r) : Filling n i r s s :=
  ⟨rfl, rfl, rfl, rfl, rfl, fun _ _ => rfl, (withLoad_self at_i).symm, rfl, rfl⟩

theorem filling_mem {m : List Host.Cell} (h : Filling n i r' s t) : Filling n i r' s { t with mem := m } :=
  ⟨h.poison, h.podwin, h.flash, h.pins, h.sptag, h.others, h.task, h.wins, h.id⟩

/-- A fill in place i changes as f says. -/
theorem filling_modLoad {f : Req LdOp → Req LdOp} (at_i : (taskOf s n).lq[i]? = some r) (h : Filling n i r' s t) :
    Filling n i (f r') s (t.modLoad n.toNat false i f) := by
  have core : (t.modLoad n.toNat false i f).core n.toNat =
      (t.core n.toNat).modPipeOf false (fun p => { p with lq := p.lq.modify i f }) := core_modCore_same ..
  have task : taskOf (t.modLoad n.toNat false i f) n = { taskOf t n with lq := (taskOf t n).lq.modify i f } := by
    rw [taskOf, core]
    rfl
  have changed : (taskOf t n).lq.modify i f = (taskOf s n).lq.set i (f r') := by
    obtain ⟨inside, -⟩ := List.getElem?_eq_some_iff.1 at_i
    rw [h.task, withLoad]
    refine List.ext_getElem? fun k => ?_
    rw [List.getElem?_modify]
    by_cases e : i = k
    · subst e
      simp [inside]
    · simp [e]
  refine ⟨h.poison, h.podwin, h.flash, h.pins, h.sptag, fun m hm => ?_, ?_, ?_, ?_⟩
  · exact (core_modCore_ne t _ hm).trans (h.others m hm)
  · rw [task, changed, h.task]
    rfl
  · rw [regsOf, core]
    exact h.wins
  · rw [regsOf, core]
    exact h.id

theorem get_filling (at_i : (taskOf s n).lq[i]? = some r) (h : Filling n i r' s t) :
    ((t.core n.toNat).pipeOf false).lq[i]? = some r' := by
  show (taskOf t n).lq[i]? = _
  rw [h.task]
  exact get_withLoad at_i

theorem poisoned_filling (h : Filling n i r' s t) (pa : Nat) : poisoned t pa = poisoned s pa := by
  rw [poisoned, poisoned, h.poison, h.flash]

theorem podOf_filling (h : Filling n i r' s t) (pa : Nat) : podOf t pa = podOf s pa := by rw [podOf, podOf, h.podwin]

theorem granTag_filling (h : Filling n i r' s t) (pa : Nat) : granTag t pa = granTag s pa := by
  rw [granTag, granTag, h.pins, h.sptag]

theorem mayAccess_filling {pa len : Nat} (at_i : (taskOf s n).lq[i]? = some r) (bn : r'.bn = r.bn) (h : Filling n i r' s t) :
    mayAccess t n.toNat false false (keyL r') pa len = (!isPaused s pa && mayPerform (taskOf s n) false (keyL r) pa len) := by
  have key : keyL r' = keyL r := by rw [keyL, keyL, bn]
  have pipe : (t.core n.toNat).pipeOf false = withLoad i r' (taskOf s n) := h.task
  have first : taskFirst (t.core n.toNat) false false pa len = true := rfl
  rw [mayAccess, pipe, key, mayPerform_withLoad at_i bn, first, Bool.and_true, isPaused, isPaused, h.flash]

/-- A fill that has walked. -/
def withLines (l : Leaf) (va : Nat) (r : Req LdOp) : Req LdOp := { r with units := fillLines l va }

theorem filling_walked {g : FMap Dbg} {cause : Option Nat} (at_i : (taskOf s n).lq[i]? = some r) :
    Filling n i r s (walkedTo n va cause l (at' s n) g) := by
  obtain ⟨d, c, core⟩ := (walked_walkedTo n va cause l (at' s n) g).core
  have kept := walked_walkedTo n va cause l (at' s n) g
  refine ⟨kept.poison, kept.podwin, kept.flash, kept.pins, kept.sptag, kept.others, ?_, ?_, ?_⟩
  · rw [taskOf, core]
    exact (withLoad_self at_i).symm
  · rw [regsOf, core]
    rfl
  · rw [regsOf, core]
    rfl

theorem filling_modFill {f : Req LdOp → Req LdOp} (at_i : (taskOf s n).lq[i]? = some r) (op : r.op = .fill w j)
    (only : OnlyFill w j i (taskOf s n).lq) (cur : t.cur = n) (h : Filling n i r s t) :
    Filling n i (f r) s (modFill w j f t) := by
  have core : (modFill w j f t).core n.toNat = (t.core n.toNat).modRegs (fun r => { r with
      task := { r.task with lq := r.task.lq.map (fun x => if x.op = .fill w j then f x else x) }
      outr := { r.outr with lq := r.outr.lq.map (fun x => if x.op = .fill w j then f x else x) } }) := by
    rw [← cur]
    exact me_modRegs ..
  have task : taskOf t n = taskOf s n := by rw [h.task, withLoad_self at_i]
  refine ⟨h.poison, h.podwin, h.flash, h.pins, h.sptag, fun m hm => ?_, ?_, ?_, ?_⟩
  · exact (core_modMe_ne t _ (by rw [cur]; exact hm)).trans (h.others m hm)
  · rw [withLoad, ← map_onlyFill at_i op only, ← task, taskOf, core]
    rfl
  · rw [regsOf, core]
    exact h.wins
  · rw [regsOf, core]
    exact h.id

theorem walksTo_at {m : CoreId} {kind : Nat} (h : WalksTo s n va kind l) : WalksTo (at' s m) n va kind l := by
  obtain ⟨cold, res⟩ := h
  exact ⟨cold, (congrArg (walkRes _ va kind) (walkCached_aside s s.dbg s.chans s.cores m _ _ _)).trans res⟩

/-- A fill that has its lines, or walks to a leaf, goes on with the lines of its page. -/
theorem fillWalk_withLines (at_i : (taskOf s n).lq[i]? = some r) (op : r.op = .fill w j) (only : OnlyFill w j i (taskOf s n).lq)
    (units : r.units = [] ∨ r.units = fillLines l va) (slotVa : ((at' s n).win w).slotVa j = va) (inside : va < 2 ^ 60)
    (walks : WalksTo s n va 0 l) (may : accessFaultOf s (regsOf s n).id.tag 0 (l.pa va) va = none) :
    Filling n i (withLines l va r) s (atCore n.toNat (fillWalk w j r) s) ∧ (atCore n.toNat (fillWalk w j r) s).mem = s.mem := by
  rw [atCore_at]
  unfold fillWalk
  dsimp only
  rw [slotVa]
  obtain units | units := units
  · obtain ⟨g, now⟩ := walkNow_leaf (some 5) (walksTo_at (m := n) walks)
    have kept := walked_walkedTo n va (some 5) l (at' s n) g
    have filling := filling_walked (va := va) (l := l) (g := g) (cause := some 5) at_i
    generalize walkedTo n va (some 5) l (at' s n) g = u at now kept filling
    have tag : u.regs.id.tag = (regsOf s n).id.tag := by
      rw [State.regs, State.me, kept.cur]
      exact congrArg TaskId.tag filling.id
    have free : accessFault u 0 (l.pa va) va = none := by
      rw [accessFault, tag, accessFaultOf_walked kept]
      exact may
    rw [units, if_neg (by decide), if_neg (Nat.not_le.2 inside), show (at' s n).cur = n from rfl, now]
    dsimp only
    rw [free, if_neg (by decide)]
    have changed := filling_modFill (f := withLines l va) at_i op only kept.cur filling
    exact ⟨⟨changed.1, changed.2, changed.3, changed.4, changed.5, changed.6, changed.7, changed.8, changed.9⟩, kept.mem⟩
  · have known : withLines l va r = r := by
      rw [withLines, ← units]
    have some : (!r.units.isEmpty) = true := by
      rw [units]
      rfl
    rw [if_pos some, known]
    exact ⟨filling_refl at_i, rfl⟩

/-! ### The lines of a fill -/

/-- A fill whose lines before m have been read. -/
def linesFrom (m : Nat) (r : Req LdOp) : Req LdOp := { r with todo := r.todo.filter (fun x => m ≤ x) }

theorem linesFrom_zero (r : Req LdOp) : linesFrom 0 r = r := by simp [linesFrom]

theorem linesFrom_done {m : Nat} (few : ∀ k ∈ r.todo, k < m) : (linesFrom m r).todo = [] := by
  rw [linesFrom, List.filter_eq_nil_iff]
  intro k hk
  simpa using few k hk

/-- A fill that has read line m. -/
def lineIn (m : Nat) (r : Req LdOp) : Req LdOp := { r with todo := r.todo.filter (fun x => x ≠ m) }

/-- A line that has been read is still to be read no more. -/
theorem linesFrom_succ (m : Nat) (r : Req LdOp) :
    linesFrom (m + 1) r = lineIn m (linesFrom m r) := by
  rw [linesFrom, lineIn, linesFrom]
  dsimp only
  rw [List.filter_filter]
  congr 1
  refine List.filter_congr fun x _ => ?_
  rw [← Bool.decide_and]
  exact decide_eq_decide.2 (by omega)

theorem linesFrom_skip {m : Nat} (h : m ∉ r.todo) : linesFrom (m + 1) r = linesFrom m r := by
  rw [linesFrom, linesFrom]
  congr 1
  refine List.filter_congr fun x hx => ?_
  have : x ≠ m := fun e => h (e ▸ hx)
  exact decide_eq_decide.2 (by omega)

theorem contains_linesFrom (m : Nat) (r : Req LdOp) : (linesFrom m r).todo.contains m = r.todo.contains m := by
  simp [linesFrom, List.contains_eq_mem, List.mem_filter]

/-- The first byte of the granule of slot j of window w of core n. -/
def granuleStart (s : State) (n : CoreId) (w j : Nat) : Nat := padOf n.toNat + ((at' s n).win w).rbase + 4096 * j

/-- The bytes of a granule that its fill does not copy: dirty ones, and those of lines that were read before. -/
def kept (s : State) (n : CoreId) (w j : Nat) (r : Req LdOp) (x : Nat) : Bool :=
  (((at' s n).win w).slot j).2.getLsbD x || !r.todo.contains (x / 128)

/-- Every line of the fill in place i of the load queue of core n may be read, and its bytes lie in the task's own scratchpad. -/
structure Readable (s : State) (n : CoreId) (w j i : Nat) (l : Leaf) (va : Nat) (r : Req LdOp) : Prop where
  at_i : (taskOf s n).lq[i]? = some r
  op : r.op = .fill w j
  go : ∀ k < 32, isPaused s (l.pa va + 128 * k) = false ∧ mayPerform (taskOf s n) false (keyL r) (l.pa va + 128 * k) 128 = true
  clean : ∀ k < 32, poisoned s (l.pa va + 128 * k) = false
  ring : ((at' s n).win w).rbase + 4096 * j + 4096 ≤ 2 ^ 21
  own : ∀ k < 2 ^ 21, granTag s (padOf n.toNat + k) = some (regsOf s n).id.tag
  plain : PlainBytes s (l.pa va) 4096

/-- From s to t the first m lines of a fill have been read. -/
structure LinesRead (n : CoreId) (w j i : Nat) (l : Leaf) (va : Nat) (r : Req LdOp) (m : Nat) (s t : State) : Prop where
  filling : Filling n i (linesFrom m (withLines l va r)) s t
  wf : Memory.wf t.mem = true
  get : ∀ a, Memory.get t.mem a = copied (granuleStart s n w j) (128 * m) (kept s n w j r)
    (fun x => Memory.get s.mem (l.pa va + x)) (Memory.get s.mem) a

theorem unit_withLines {k : Nat} (h : k < 32) : (withLines l va r).units.getD k 0 = l.pa va + 128 * k := by
  rw [withLines, fillLines, List.getD_eq_getElem?_getD, List.getElem?_map, List.getElem?_range h]
  rfl

/-- A line that is to be read and may be is copied. -/
theorem fillLine_copies {m : Nat} (ready : Readable s n w j i l va r) (hm : m < 32) (todo : r.todo.contains m = true)
    (h : Filling n i (linesFrom m (withLines l va r)) s t) : fillLine n.toNat false i w j m t =
      at' (fillBytes w j m (fun x => memByte t t.fresh (t.tagOf n.toNat) (l.pa va + 128 * m + x))
        (at' (t.modLoad n.toNat false i (lineIn m)) n)) t.cur := by
  obtain ⟨free, may⟩ := ready.go m hm
  obtain ⟨-, pod⟩ := ready.plain (128 * m) (by omega)
  have access : mayAccess t n.toNat false false (keyL (linesFrom m (withLines l va r))) (l.pa va + 128 * m) 128 = true := by
    rw [mayAccess_filling (r' := linesFrom m (withLines l va r)) ready.at_i rfl h, free, may]
    rfl
  have todo' : (linesFrom m (withLines l va r)).todo.contains m = true := (contains_linesFrom m _).trans todo
  have op : (linesFrom m (withLines l va r)).op = .fill w j := ready.op
  have unit : (linesFrom m (withLines l va r)).units.getD m 0 = l.pa va + 128 * m := unit_withLines (r := r) hm
  have some : (linesFrom m (withLines l va r)).units.isEmpty = false := rfl
  unfold fillLine
  rw [get_filling ready.at_i h]
  dsimp only
  rw [unit, access, todo', op, some, if_neg (by simp), poisoned_filling h, ready.clean m hm, if_neg (by decide), podOf_filling h, pod,
    if_neg (by decide), atCore_at]
  rfl

theorem win_filling (h : Filling n i r' s t) : (at' t n).win w = (at' s n).win w := congrArg (fun x => vget x w Window.reset) h.wins

theorem padAllowed_own {a o : Nat} (h : Filling n i r' s t) (own : ∀ k < 2 ^ 21, granTag s (padOf n.toNat + k) = some (regsOf s n).id.tag)
    (at_o : a = padOf n.toNat + o) (inside : o < 2 ^ 21) : padAllowed (at' t n) (at' t n).regs.id.tag a = true := by
  have tag : (at' t n).regs.id.tag = (regsOf s n).id.tag := congrArg TaskId.tag h.id
  have owner : granTag (at' t n) a = some (regsOf s n).id.tag := by
    rw [at_o]
    exact (granTag_filling h _).trans (own o inside)
  rw [padAllowed, owner, tag]
  simp

theorem filling_at {m : CoreId} (h : Filling n i r' s t) : Filling n i r' s (at' t m) :=
  ⟨h.poison, h.podwin, h.flash, h.pins, h.sptag, h.others, h.task, h.wins, h.id⟩

/-- What a line of memory holds is not changed by what a fill has copied. -/
theorem memByte_line {m x tag k : Nat} (ready : Readable s n w j i l va r) (hm : m < 32) (hx : x < 128)
    (h : LinesRead n w j i l va r m s t) : memByte t k tag (l.pa va + 128 * m + x) = Memory.get s.mem (l.pa va + (128 * m + x)) := by
  obtain ⟨mem, pod⟩ := ready.plain (128 * m + x) (by omega)
  have bounds := inMemory_bounds mem
  have low : l.pa va + (128 * m + x) < granuleStart s n w j := by
    have base : padBase = 0xF000000000000 := rfl
    rw [granuleStart, padOf]
    omega
  rw [Nat.add_assoc, memByte_plain mem ((podOf_filling h.filling _).trans pod), h.get, copied_outside (.inl low)]

/-- A line is read where it is still to be read; otherwise the fill stays as it is. -/
theorem linesRead_succ {m : Nat} (ready : Readable s n w j i l va r) (hm : m < 32) (h : LinesRead n w j i l va r m s t) :
    LinesRead n w j i l va r (m + 1) s (fillLine n.toNat false i w j m t) := by
  obtain ⟨filling, wf, get⟩ := h
  have line (x : Nat) (hx : x < 128) : (128 * m + x) / 128 = m := by omega
  cases todo : r.todo.contains m
  case false =>
    have stays : fillLine n.toNat false i w j m t = t := by
      unfold fillLine
      rw [get_filling ready.at_i filling]
      dsimp only
      rw [contains_linesFrom, show (withLines l va r).todo = r.todo from rfl, todo]
      simp
    rw [stays]
    refine ⟨?_, wf, fun a => ?_⟩
    · rw [linesFrom_skip (r := withLines l va r) (show m ∉ r.todo by simpa using todo)]
      exact filling
    · rw [get, Nat.mul_succ, copied_add]
      refine (copied_kept fun x hx => ?_).symm
      rw [kept, line x hx, todo]
      exact Bool.or_true _
  case true =>
    have loaded := filling_modLoad (f := lineIn m) ready.at_i filling
    rw [← linesFrom_succ] at loaded
    rw [fillLine_copies ready hm todo filling, fillBytes_eq, win_filling loaded]
    have start : lineStart (at' (t.modLoad n.toNat false i (lineIn m)) n) ((at' s n).win w) j m = granuleStart s n w j + 128 * m := rfl
    obtain ⟨mem, fold, wf', get'⟩ := fillByte_fold (s := at' (t.modLoad n.toNat false i (lineIn m)) n) (x := (at' s n).win w) (j := j)
      (d := (((at' s n).win w).slot j).2) (k := m)
      (read := fun x => memByte t t.fresh (t.tagOf n.toNat) (l.pa va + 128 * m + x)) wf 128 fun x hx => by
        have ring := ready.ring
        refine padAllowed_own (o := ((at' s n).win w).rbase + 4096 * j + 128 * m + x) loaded ready.own ?_ (by omega)
        rw [start, granuleStart]
        omega
    rw [fold]
    refine ⟨filling_at (filling_mem (filling_at loaded)), wf', fun a => ?_⟩
    rw [Nat.mul_succ, copied_add]
    refine (get' a).trans (copied_congr (fun x hx => ?_) (fun x hx => memByte_line ready hm hx ⟨filling, wf, get⟩) (get a))
    rw [kept, line x hx, todo]
    exact (Bool.or_false _).symm

/-- All lines of a fill are read. -/
theorem linesRead_range {m : Nat} (ready : Readable s n w j i l va r) (hm : m ≤ 32) (h : LinesRead n w j i l va r 0 s t) :
    LinesRead n w j i l va r m s ((List.range m).foldl (fun t k => fillLine n.toNat false i w j k t) t) := by
  induction m with
  | zero => exact h
  | succ m ih =>
    rw [List.range_succ, List.foldl_append]
    exact linesRead_succ ready hm (ih (Nat.le_of_succ_le hm))

/-! ### The end of a fill -/

theorem slot_setSlot {x : Window} {y : SlotSt × BitVec 4096} (h : j < x.slots.length) : (x.setSlot j y).slot j = y := by
  rw [Window.setSlot, Window.slot, List.getD_eq_getElem?_getD, List.getElem?_set_self h]
  rfl

theorem endFill_ends (cur : t.cur = n) (hw : w < 8) (hj : j < (t.win w).slots.length) (st : SlotSt) :
    ((endFill w j st t).win w).slot j = (st, ((t.win w).slot j).2) ∧ (endFill w j st t).mem = t.mem ∧
      (endFill w j st t).cur = n ∧ OthersSame t (endFill w j st t) n := by
  have ended : (endFill w j st t).win w = (t.win w).setSlot j (st, ((t.win w).slot j).2) := by
    rw [endFill, dropFill, State.win, State.regs, me_modRegs, State.setWin, me_modRegs]
    exact vget_vset_same _ _ _ _ hw
  refine ⟨?_, rfl, cur, fun m hm => ?_⟩
  · rw [ended]
    exact slot_setSlot hj
  · have ne : m ≠ t.cur.toNat := by rw [cur]; exact hm
    have set (x : Window) : (t.setWin w x).core m = t.core m := core_modMe_ne t _ ne
    exact Eq.trans (core_modMe_ne (t.setWin w _) _ ne) (set _)

/-- Where a core looks for the fill of slot j of window w: among the task's loads, then among the outrider's. -/
def fillPlace (n w j : Nat) (s : State) : Option (Bool × Nat) := [false, true].findSome? (fun o =>
  (((s.core n).pipeOf o).lq.findIdx? (fun r => r.op = .fill w j)).bind (fun i =>
    if hasEntry ((s.core n).pipeOf o) isFill ((s.core n).pipeOf o).lq i then some (o, i) else none))

theorem fillPlace_task {n : Nat} (at_i : ((s.core n).pipeOf false).lq[i]? = some r) (op : r.op = .fill w j)
    (only : OnlyFill w j i ((s.core n).pipeOf false).lq)
    (entry : hasEntry ((s.core n).pipeOf false) isFill ((s.core n).pipeOf false).lq i = true) : fillPlace n w j s = some (false, i) := by
  rw [fillPlace, List.findSome?_cons, findIdx_onlyFill at_i op only, Option.bind_some, if_pos entry]

theorem fillDone_of_place {n : Nat} (place : fillPlace n w j s = some (false, i)) (at_i : ((s.core n).pipeOf false).lq[i]? = some r)
    (place' : fillPlace n w j (atCore n (fillWalk w j r) s) = some (false, i)) :
    fillDone n w j s = readLines n false i w j (List.range 32) (atCore n (fillWalk w j r) s) := by
  rw [fillPlace] at place place'
  unfold fillDone
  dsimp only
  rw [place]
  dsimp only
  rw [at_i]
  dsimp only
  rw [place']

/-- The fill of a slot has walked, and its lines are read in order. -/
theorem fillDone_reads (at_i : (taskOf s n).lq[i]? = some r) (op : r.op = .fill w j) (only : OnlyFill w j i (taskOf s n).lq)
    (entry : hasEntry (taskOf s n) isFill (taskOf s n).lq i = true)
    (walked : Filling n i (withLines l va r) s (atCore n.toNat (fillWalk w j r) s)) :
    fillDone n.toNat w j s = readLines n.toNat false i w j (List.range 32) (atCore n.toNat (fillWalk w j r) s) := by
  have pipe : ((atCore n.toNat (fillWalk w j r) s).core n.toNat).pipeOf false = withLoad i (withLines l va r) (taskOf s n) := walked.task
  have fill : isFill r = true := by rw [isFill, op]
  refine fillDone_of_place (fillPlace_task at_i op only entry) at_i (fillPlace_task (get_filling at_i walked) op ?_ ?_)
  · rw [pipe]
    exact onlyFill_set only
  · rw [pipe, hasEntry_withLoad (r' := withLines l va r) at_i fill rfl rfl]
    exact entry

theorem tryEndFill_ends {n : Nat} (at_i : ((t.core n).pipeOf false).lq[i]? = some r) (op : r.op = .fill w j) (todo : r.todo = []) :
    tryEndFill n false i w j t = atCore n (endFill w j .resident) t := by
  unfold tryEndFill
  rw [at_i]
  dsimp only
  rw [op, todo]
  simp

/-- Offsets within a page pass through a leaf. -/
theorem pa_add {x : Nat} (page : va % 4096 = 0) (hx : x < 4096) : l.pa (va + x) = l.pa va + x := by
  have fits : va % 2 ^ (l.size + 12) + x < 2 ^ (l.size + 12) := by
    have whole : 2 ^ (l.size + 12) = 4096 * 2 ^ l.size := by rw [Nat.pow_add, Nat.mul_comm]
    have low := Nat.mod_lt va (Nat.two_pow_pos (l.size + 12))
    have aligned : va % 2 ^ (l.size + 12) % 4096 = 0 := by rw [whole, Nat.mod_mul_right_mod, page]
    omega
  unfold Leaf.pa
  dsimp only
  rw [Nat.add_mod, Nat.mod_eq_of_lt (a := x) (by omega), Nat.mod_eq_of_lt fits, Nat.add_assoc]

/-- A byte of the granule is copied unless it is dirty or its line was read before. -/
theorem copied_kept_iff {base x : Nat} {read old : Nat → Byte} (hx : x < 4096) :
    copied base (128 * 32) (kept s n w j r) read old (base + x) =
      if (((at' s n).win w).slot j).2.getLsbD x = true ∨ x / 128 ∉ r.todo then old (base + x) else read x := by
  have free : kept s n w j r x = false ↔ ¬((((at' s n).win w).slot j).2.getLsbD x = true ∨ x / 128 ∉ r.todo) := by
    rw [kept]
    simp
  rw [copied, Nat.add_sub_cancel_left, ← ite_not (p := _ ∨ _)]
  refine if_congr ?_ rfl rfl
  rw [← free]
  exact ⟨fun h => h.2.2, fun h => ⟨Nat.le_add_right _ _, by omega, h⟩⟩

theorem windowFillDone_fills {w : BitVec 3} {g : BitVec 9} (wf : Memory.wf s.mem = true) (at_i : (taskOf s n).lq[i]? = some r)
    (op : r.op = .fill w.toNat g.toNat) (only : ∀ x ∈ (taskOf s n).lq.eraseIdx i, x.op ≠ .fill w.toNat g.toNat)
    (entry : hasEntry (taskOf s n) isFill (taskOf s n).lq i = true) (units : r.units = [] ∨ r.units = fillLines l va)
    (few : ∀ k ∈ r.todo, k < 32) (slotVa : ((at' s n).win w.toNat).slotVa g.toNat = va) (inside : va < 2 ^ 60) (page : va % 4096 = 0)
    (slots : g.toNat < ((at' s n).win w.toNat).slots.length) (walks : WalksTo s n va 0 l)
    (may : accessFaultOf s (regsOf s n).id.tag 0 (l.pa va) va = none) (ready : Readable s n w.toNat g.toNat i l va r) :
    Completes (.windowFillDone n w g) s (fun t =>
      (((at' t n).win w.toNat).slot g.toNat).1 = .resident ∧
      (∀ x < 4096, Memory.get t.mem (granuleStart s n w.toNat g.toNat + x) =
        if (((at' s n).win w.toNat).slot g.toNat).2.getLsbD x = true ∨ x / 128 ∉ r.todo
        then Memory.get s.mem (granuleStart s n w.toNat g.toNat + x) else Memory.get s.mem (l.pa (va + x))) ∧
      (∀ a, a < granuleStart s n w.toNat g.toNat ∨ granuleStart s n w.toNat g.toNat + 4096 ≤ a →
        Memory.get t.mem a = Memory.get s.mem a) ∧
      OthersSame s t n) := by
  have only' := onlyFill_of_eraseIdx only
  obtain ⟨walked, mem⟩ := fillWalk_withLines at_i op only' units slotVa inside walks may
  have reads := fillDone_reads at_i op only' entry walked
  generalize atCore n.toNat (fillWalk w.toNat g.toNat r) s = s₁ at walked mem reads
  have start : LinesRead n w.toNat g.toNat i l va r 0 s s₁ := by
    refine ⟨?_, by rw [mem]; exact wf, fun a => ?_⟩
    · rw [linesFrom_zero]
      exact walked
    · rw [mem, Nat.mul_zero, copied_zero]
  obtain ⟨filling, -, get⟩ := linesRead_range ready le_rfl start
  rw [readLines, tryEndFill_ends (get_filling at_i filling) op (linesFrom_done few), atCore_at] at reads
  generalize (List.range 32).foldl _ s₁ = t at filling get reads
  obtain ⟨slot, mem', -, others⟩ := endFill_ends (t := at' t n) rfl w.isLt
    (by rw [win_filling filling]; exact slots) .resident
  refine ⟨_, congrArg Outcome.next reads, ?_, fun x hx => ?_, fun a ha => ?_, fun m hm => (others m hm).trans (filling.others m hm)⟩
  · exact congrArg Prod.fst slot
  · rw [pa_add page hx]
    exact (congrArg (Memory.get · _) mem').trans ((get _).trans (copied_kept_iff hx))
  · exact (congrArg (Memory.get · a) mem').trans ((get a).trans (copied_outside ha))

end Sys2Proof.Machine
end

section
/-! PROOF. Walks, wakes, fills and fetch (O35). -/

namespace Sys2Proof

open Machine

/-- Settles O35: the walks, the requests they post, the accesses they wake, the fills and the fetches, each from its own lemma. -/
theorem walksAndFetch : Obligations.WalksAndFetch := by
  refine ⟨fun s n w r new res => translationWalk_gives new res, fun s q tag va h => walkCached_empty q h,
    fun s q => pageRequestTaken_leaves q, ?_, ?_, ?_, fun s n issues target off => pageEntry_none issues target off, ?_⟩
  · intro s pa n x r e l one susp olq osq _ lq sq wins park single _ noLdr pod page line valid res walks may
    exact wake_walks one susp olq osq lq sq wins park single noLdr pod page line valid res walks may
  · intro s n w g i r l
    dsimp only
    intro wf at_i op only entry units few top page ring slots walks go may clean own plain _
    exact windowFillDone_fills wf at_i op (fun x hx => only x (List.mem_append_left _ hx)) entry units few rfl (by omega) page slots
      walks may ⟨at_i, op, go, clean, ring, own, plain⟩
  · intro s n l issues off run target stop room decodes
    dsimp only
    intro inside aligned look free right clean same plain cold
    exact bundleDispatch_fetches issues off run target stop room decodes inside aligned look free right clean same plain cold
  · intro s u n x h issues off target couple inside link calm fetched magic tag rej listed here few
    exact pageEntry_lands issues off target couple inside link calm fetched magic tag rej listed here few

end Sys2Proof
end

section
/-! PROOF. The element-wise and register-wise shapes of VA and VB, from the shared shapes of their instructions (R106). -/

namespace Sys2Proof.Machine

/-- An instruction of two sources that runs the element-wise shape with g, where g agrees with f mod 2^n. -/
theorem elem2_of {mk : VSlot → BitVec 1 → BitVec 6 → BitVec 6 → BitVec 6 → Instr} {k lat : Nat} {t : BitVec 5}
    {g f : Nat → Nat → Nat → Nat} (takes : k = lat)
    (runs : ∀ vs w d a b s, exec (mk vs w d a b) s = .next (vElem2 vs k w d a b t g s))
    (agree : ∀ x y o, g x y o % 2 ^ tyWidth t.toNat = f x y o % 2 ^ tyWidth t.toNat) :
    Elem2 mk lat (tyWidth t.toNat) f := by
  subst takes
  intro s vs w d a b pops
  refine ⟨_, by rw [runs, vElem2, vec2_eq pops], fun i hi => ?_⟩
  rw [field_zip3 _ _ _ _ hi, field_vSrc _ _ _ _ _ hi, field_vSrc _ _ _ _ _ hi, agree]

/-- The same of one source. -/
theorem elem1_of {mk : VSlot → BitVec 1 → BitVec 6 → BitVec 6 → Instr} {k lat : Nat} {t : BitVec 5} {g f : Nat → Nat}
    (takes : k = lat) (runs : ∀ vs w d a s, exec (mk vs w d a) s = .next (vElem1 vs k w d a t g s))
    (agree : ∀ x, g x % 2 ^ tyWidth t.toNat = f x % 2 ^ tyWidth t.toNat) : Elem1 mk lat (tyWidth t.toNat) f := by
  subst takes
  intro s vs w d a pops
  refine ⟨_, by rw [runs, vElem1, vec1_eq pops], fun i hi => ?_⟩
  rw [field_ofElems _ hi, nth_map _ (by simpa using hi), nth_elems _ hi, field_vSrc _ _ _ _ _ hi, agree]

/-- An instruction of one source whose register f gives lane by lane. -/
theorem lanes1_of {mk : VSlot → BitVec 1 → BitVec 6 → BitVec 6 → Instr} {lat n : Nat} {g : Vec → Vec}
    {f : State → VSlot → Vec → Nat → Nat}
    (runs : ∀ vs w d a s, exec (mk vs w d a) s = .next (vec1 vs lat w d a none (fun x _ => g x) s))
    (gives : ∀ s vs x, ∀ i < 2048 / n, lane n (g x) i = f s vs x i % 2 ^ n) : Lanes1 mk lat n f := by
  intro s vs w d a pops
  exact ⟨_, by rw [runs, vec1_eq pops]; rfl, fun i hi => gives s vs _ i hi⟩

/-- An instruction of two sources whose register f gives lane by lane. -/
theorem lanes2_of {mk : VSlot → BitVec 1 → BitVec 6 → BitVec 6 → BitVec 6 → Instr} {lat n : Nat} {g : Vec → Vec → Vec → Vec}
    {f : State → VSlot → BitVec 6 → Vec → Vec → Vec → Nat → Nat}
    (runs : ∀ vs w d a b s, exec (mk vs w d a b) s = .next (vec2 vs lat w d a b none g s))
    (gives : ∀ s vs a x y o, ∀ i < 2048 / n, lane n (g x y o) i = f s vs a x y o i % 2 ^ n) : Lanes2 mk lat n f := by
  intro s vs w d a b pops
  exact ⟨_, by rw [runs, vec2_eq pops]; rfl, fun i hi => gives s vs a _ _ _ i hi⟩

theorem not_classI_of_classF {t : Nat} (h : classF t = true) : classI t = false := by
  simp only [classF, classI, decide_eq_true_eq, decide_eq_false_iff_not] at *
  omega

/-- The operation by class of a floating type. -/
theorem byClass_float {t : BitVec 5} (h : classF t.toNat = true) (fi : Int → Int → Int → Int) (ff : FVal → FVal → FVal → FVal)
    (x y o : Nat) : byClass t.toNat fi ff x y o = fpElem t (ff (elemFp t x) (elemFp t y) (elemFp t o)) := by
  simp [byClass, not_classI_of_classF h, fpElem, elemFp]

theorem latIF_float {t : BitVec 5} (h : classF t.toNat = true) : latIF t = 4 := by
  simp [latIF, not_classI_of_classF h]

end Sys2Proof.Machine

namespace Sys2Proof

open Machine

/-- Settles O5: each opcode runs an element-wise shape, whose operation by class is the floating one. -/
theorem vectorFloats : Obligations.VectorFloats := by
  intro t ht
  have lat := latIF_float ht
  refine ⟨?add, ?sub, ?mul, ?fma, ?fms, ?fnma, ?min, ?max, ?abs, ?neg, ?clamp, ?fcls⟩
  case add | sub | min | max | clamp =>
    exact elem2_of lat (fun _ _ _ _ _ _ => rfl) fun x y o => by rw [byClass_float ht]
  case mul | fma | fms | fnma =>
    exact elem2_of rfl (fun _ _ _ _ _ _ => rfl) fun x y o => by rw [byClass_float ht]
  case abs | neg => exact elem1_of lat (fun _ _ _ _ _ => rfl) fun x => by rw [byClass_float ht]
  case fcls => exact elem1_of rfl (fun _ _ _ _ _ => rfl) fun _ => rfl

end Sys2Proof
end

section
/-! PROOF. The reductions of VA and VB: the pairwise tree of R119 on lists, and the operations on containers (R108, R119). -/

namespace Sys2Proof.Machine

/-! ## The tree -/

theorem pairUp_eq_pairPass (op : Nat → Nat → Nat) : ∀ {l : List Nat}, l.length % 2 = 0 → pairUp op l = pairPass op l.length l
  | [], _ => rfl
  | [_], h => by simp at h
  | x :: y :: r, h => by
    have ih := pairUp_eq_pairPass op (l := r) (by rw [List.length_cons, List.length_cons] at h; omega)
    have half : (x :: y :: r).length / 2 = r.length / 2 + 1 := by rw [List.length_cons, List.length_cons]; omega
    rw [pairUp, ih, pairPass, pairPass, half, List.range_succ_eq_map, List.map_cons, List.map_map]
    exact congrArg _ (List.map_congr_left fun i _ => by simp [Nat.mul_succ])

theorem pairUp_singleton {op : Nat → Nat → Nat} {l : List Nat} (one : l.length = 1) : pairUp op l = l := by
  obtain ⟨x, rfl⟩ := List.length_eq_one_iff.mp one
  rfl

/-- The loop of R119 over a power of two of elements pairs up as often as it turns. -/
theorem foldl_pairPass (op : Nat → Nat → Nat) (turns : List Nat) : ∀ {j : Nat} {l : List Nat}, l.length = 2 ^ j →
    (turns.foldl (fun (a : Nat × List Nat) _ => if 1 < a.1 then (a.1 / 2, pairPass op a.1 a.2) else a) (2 ^ j, l)).2 =
      treeReduce op turns.length l := by
  induction turns with
  | nil => intros; rfl
  | cons _ r ih =>
    intro j l hl
    rw [List.foldl_cons, List.length_cons, treeReduce]
    cases j with
    | zero =>
      rw [if_neg (by simp), pairUp_singleton hl]
      exact ih hl
    | succ j =>
      have even : 2 ^ (j + 1) / 2 = 2 ^ j := by omega
      rw [if_pos (Nat.one_lt_two_pow (by omega)), pairUp_eq_pairPass op (by omega), hl, even]
      exact ih (by rw [pairPass, List.length_map, List.length_range, even])

theorem pairTree_eq_reduceAll (op : Nat → Nat → Nat) {m : Nat} {l : List Nat} (length : l.length = m) (pow : ∃ j, m = 2 ^ j) :
    pairTree op m l = reduceAll op l := by
  obtain ⟨j, rfl⟩ := pow
  exact congrArg (·.getD 0 0) (foldl_pairPass op (List.range 11) length)

theorem pairUp_congr {P : Nat → Prop} {f g : Nat → Nat → Nat} (agree : ∀ x y, P x → P y → f x y = g x y ∧ P (g x y)) :
    ∀ l : List Nat, (∀ x ∈ l, P x) → pairUp f l = pairUp g l ∧ ∀ x ∈ pairUp g l, P x
  | [], h => ⟨rfl, h⟩
  | [_], h => ⟨rfl, h⟩
  | x :: y :: r, h => by
    obtain ⟨same, keeps⟩ := pairUp_congr agree r fun z hz => h z (by simp [hz])
    obtain ⟨head, kept⟩ := agree x y (h x (by simp)) (h y (by simp))
    exact ⟨by rw [pairUp, pairUp, head, same], List.forall_mem_cons.mpr ⟨kept, keeps⟩⟩

/-- Operations that agree where P holds, and keep P, reduce a list of P to the same value. -/
theorem reduceAll_congr {P : Nat → Prop} {f g : Nat → Nat → Nat} (agree : ∀ x y, P x → P y → f x y = g x y ∧ P (g x y))
    {l : List Nat} (all : ∀ x ∈ l, P x) : reduceAll f l = reduceAll g l := by
  have levels : ∀ k (l : List Nat), (∀ x ∈ l, P x) → treeReduce f k l = treeReduce g k l := by
    intro k
    induction k with
    | zero => intros; rfl
    | succ k ih =>
      intro l hl
      obtain ⟨same, keeps⟩ := pairUp_congr agree l hl
      rw [treeReduce, treeReduce, same, ih _ keeps]
  rw [reduceAll, reduceAll, levels _ _ all]

/-! ## Containers -/

theorem tyWidth_pos (t : BitVec 5) : 0 < tyWidth t.toNat := by
  revert t
  decide

/-- A register holds a power of two of elements of a type of class I or F. -/
theorem lanes_pow : ∀ t : BitVec 5, classI t.toNat = true ∨ classF t.toNat = true → ∃ j, 2048 / tyWidth t.toNat = 2 ^ j := by
  have table : ∀ t : BitVec 5, classI t.toNat = true ∨ classF t.toNat = true → ∃ j < 9, 2048 / tyWidth t.toNat = 2 ^ j := by decide
  exact fun t ht => let ⟨j, _, h⟩ := table t ht; ⟨j, h⟩

theorem elems_eq_map_lane (n : Nat) (x : Vec) : elems n x = (List.range (2048 / n)).map (lane n x) := by
  refine List.ext_getElem (by simp) fun i hi _ => ?_
  have hn : i < 2048 / n := by simpa using hi
  have := nth_elems x hn
  rw [nthN, List.getD_eq_getElem _ _ hi] at this
  rw [this, List.getElem_map, List.getElem_range, lane]

theorem sextN_emod (x n : Nat) : sextN x n % (2 ^ n : Nat) = (x % 2 ^ n : Nat) := by
  unfold sextN
  dsimp only
  split <;> simp

/-- The value of a container stands for it mod 2^N. -/
theorem inT_emod (t x : Nat) : inT x t % (2 ^ tyWidth t : Nat) = (x % 2 ^ tyWidth t : Nat) := by
  unfold inT
  split
  · exact sextN_emod ..
  · simp

theorem wrapN_inT (t : Nat) {x : Nat} (hx : x < 2 ^ tyWidth t) : wrapN (inT x t) (tyWidth t) = x := by
  rw [wrapN, inT_emod, Int.toNat_natCast, Nat.mod_eq_of_lt hx]

theorem wrapN_inT_add (t x y : Nat) : wrapN (inT x t + inT y t) (tyWidth t) = (x + y) % 2 ^ tyWidth t := by
  rw [wrapN, Int.add_emod, inT_emod, inT_emod, ← Nat.cast_add, ← Int.natCast_emod, Int.toNat_natCast, ← Nat.add_mod]

theorem inT_eq_elemInt (t : BitVec 5) {x : Nat} (hx : x < 2 ^ tyWidth t.toNat) : inT x t.toNat = elemInt t x := by
  have pos := tyWidth_pos t
  simp only [inT, sextN, elemInt, Nat.mod_eq_of_lt hx]
  split <;> simp_all [Nat.pos_iff_ne_zero]

/-- A container of an integer type is a number of N bits. -/
def Contained (t : BitVec 5) (x : Nat) : Prop := classI t.toNat = true → x < 2 ^ tyWidth t.toNat

theorem addT_eq (t : BitVec 5) (x y : Nat) : addT t.toNat x y = addElem t x y := by
  unfold addT byClass addElem
  split
  · exact wrapN_inT_add ..
  · rfl

theorem addElem_contained (t : BitVec 5) (x y : Nat) : Contained t (addElem t x y) := by
  intro int
  rw [addElem, if_pos int]
  exact Nat.mod_lt _ (Nat.two_pow_pos _)

theorem byClass_max (t : BitVec 5) {x y : Nat} (hx : Contained t x) (hy : Contained t y) :
    byClass t.toNat (fun x y _ => if x ≤ y then y else x) (fun x y _ => fMax x y) x y 0 = maxElem t x y := by
  unfold byClass maxElem
  split
  · next int =>
    rw [← inT_eq_elemInt t (hx int), ← inT_eq_elemInt t (hy int)]
    dsimp only
    split
    · exact wrapN_inT _ (hy int)
    · exact wrapN_inT _ (hx int)
  · rfl

theorem byClass_min (t : BitVec 5) {x y : Nat} (hx : Contained t x) (hy : Contained t y) :
    byClass t.toNat (fun x y _ => minI x y) (fun x y _ => fMin x y) x y 0 = minElem t x y := by
  unfold byClass minElem minI
  split
  · next int =>
    rw [← inT_eq_elemInt t (hx int), ← inT_eq_elemInt t (hy int)]
    dsimp only
    split
    · exact wrapN_inT _ (hx int)
    · exact wrapN_inT _ (hy int)
  · rfl

theorem maxElem_contained (t : BitVec 5) {x y : Nat} (hx : Contained t x) (hy : Contained t y) : Contained t (maxElem t x y) := by
  intro int
  rw [maxElem, if_pos int]
  split
  · exact hy int
  · exact hx int

theorem minElem_contained (t : BitVec 5) {x y : Nat} (hx : Contained t x) (hy : Contained t y) : Contained t (minElem t x y) := by
  intro int
  rw [minElem, if_pos int]
  split
  · exact hx int
  · exact hy int

theorem lane_lt (n : Nat) (x : Vec) (i : Nat) : lane n x i < 2 ^ n := field_lt ..

/-! ## Reductions and scans -/

/-- Element 0 of a register of one element; every other one is 0. -/
theorem lane_ofElems_singleton {n i : Nat} (e : Nat) (hi : i < 2048 / n) :
    lane n (ofElems n [e]) i = (if i = 0 then e else 0) % 2 ^ n := by
  rw [lane, field_ofElems _ hi]
  cases i <;> rfl

/-- A reduction by f, which agrees with op on containers, gives the tree of op (R119). -/
theorem reduction_lanes {mk : VSlot → BitVec 1 → BitVec 6 → BitVec 6 → Instr} {t : BitVec 5} {f op : Nat → Nat → Nat}
    (runs : ∀ vs w d a s, exec (mk vs w d a) s = .next (vec1 vs 6 w d a none
      (fun x _ => ofElems (tyWidth t.toNat) [reduceAll f (elems (tyWidth t.toNat) x)]) s))
    (pow : ∃ j, 2048 / tyWidth t.toNat = 2 ^ j)
    (agree : ∀ x y, Contained t x → Contained t y → f x y = op x y ∧ Contained t (op x y)) :
    Lanes1 mk 6 (tyWidth t.toNat) (fun _ _ x i => if i = 0 then pairTree op (2048 / tyWidth t.toNat)
      ((List.range (2048 / tyWidth t.toNat)).map (lane (tyWidth t.toNat) x)) else 0) := by
  refine lanes1_of runs fun _ _ x i hi => ?_
  have all : ∀ y ∈ elems (tyWidth t.toNat) x, Contained t y := by
    intro y hy _
    rw [elems_eq_map_lane, List.mem_map] at hy
    obtain ⟨k, -, rfl⟩ := hy
    exact lane_lt ..
  rw [lane_ofElems_singleton _ hi, reduceAll_congr agree all, ← elems_eq_map_lane, pairTree_eq_reduceAll op (by simp) pow]

/-- The running results of `scan` (R119). -/
def scanElem (t : BitVec 5) (ex : BitVec 1) (x : Vec) : Nat → Nat
  | 0 => if ex = 1 then 0 else oneElem t (lane (tyWidth t.toNat) x 0)
  | i + 1 => addElem t (scanElem t ex x i) (lane (tyWidth t.toNat) x (if ex = 1 then i else i + 1))

theorem nth_scanGo (f : Nat → Nat → Nat) : ∀ (l : List Nat) (y i : Nat), i < l.length →
    nthN (y :: scanGo f y l) (i + 1) = f (nthN (y :: scanGo f y l) i) (nthN l i)
  | [], _, _, h => by simp at h
  | _ :: _, _, 0, _ => rfl
  | x :: r, y, i + 1, h => nth_scanGo f r (f y x) i (by simpa using h)

/-- The running results of the model, element by element. -/
theorem nth_scan (t : BitVec 5) (ex : BitVec 1) (x : Vec) {y : Nat} {l : List Nat} (first : y = scanElem t ex x 0)
    (length : l.length = 2048 / tyWidth t.toNat - 1)
    (nth : ∀ i < l.length, nthN l i = lane (tyWidth t.toNat) x (if ex = 1 then i else i + 1)) :
    ∀ i < 2048 / tyWidth t.toNat, nthN (y :: scanGo (addT t.toNat) y l) i = scanElem t ex x i := by
  intro i
  induction i with
  | zero => exact fun _ => first
  | succ i ih =>
    intro hi
    have hl : i < l.length := by omega
    rw [nth_scanGo _ _ _ _ hl, addT_eq, ih (by omega), nth i hl, scanElem]

theorem oneElem_eq (t : BitVec 5) {x : Nat} (hx : x < 2 ^ tyWidth t.toNat) :
    byClass t.toNat (fun a _ _ => a) (fun a _ _ => a) x 0 0 = oneElem t x := by
  unfold byClass oneElem
  split
  · exact wrapN_inT _ hx
  · rfl

theorem nthN_take {l : List Nat} {k i : Nat} (h : i < k) : nthN (l.take k) i = nthN l i := by
  simp [nthN, List.getD_eq_getElem?_getD, h]

theorem nthN_drop (l : List Nat) (k i : Nat) : nthN (l.drop k) i = nthN l (k + i) := by
  simp [nthN, List.getD_eq_getElem?_getD]

theorem scan_lanes (t : BitVec 5) (ex : BitVec 1) :
    Lanes1 (fun vs w d a => .vScan vs w d a ex t) 8 (tyWidth t.toNat) (fun _ _ x i => scanElem t ex x i) := by
  refine lanes1_of (fun _ _ _ _ _ => rfl) fun _ _ x i hi => ?_
  dsimp only
  rw [lane, field_ofElems _ hi]
  refine congrArg (· % _) (nth_scan t ex x ?_ ?_ (fun k hk => ?_) i hi)
  · have zero := nth_elems x (show 0 < 2048 / tyWidth t.toNat by omega)
    rw [scanElem, zero, oneElem_eq t (field_lt ..)]
    rfl
  · split <;> simp
  · split at hk <;> simp only [List.length_take, List.length_drop, elems_length] at hk
    · next one => rw [if_pos one, if_pos one, nthN_take (by omega), nth_elems _ (by omega), lane]
    · next zero => rw [if_neg zero, if_neg zero, nthN_drop, Nat.add_comm, nth_elems _ (by omega), lane]

theorem vectorReductions : Claim.VectorReductions := by
  refine ⟨fun t ht => ?_, fun t ht => ?_⟩
  · have pow := lanes_pow t ht
    refine ⟨reduction_lanes (fun _ _ _ _ _ => rfl) pow fun x y _ _ => ⟨addT_eq t x y, addElem_contained t x y⟩,
      reduction_lanes (fun _ _ _ _ _ => rfl) pow fun x y hx hy => ⟨byClass_max t hx hy, maxElem_contained t hx hy⟩,
      reduction_lanes (fun _ _ _ _ _ => rfl) pow fun x y hx hy => ⟨byClass_min t hx hy, minElem_contained t hx hy⟩,
      fun ex => ⟨scanElem t ex, scan_lanes t ex, fun x => ⟨rfl, fun _ _ => rfl⟩⟩⟩
  · exact reduction_lanes (fun _ _ _ _ _ => rfl) (lanes_pow t (.inl ht)) fun x y hx hy =>
      ⟨rfl, fun int => Nat.or_lt_two_pow (hx int) (hy int)⟩

end Sys2Proof.Machine
end

section
/-! PROOF. The conversions, packings and unpackings of VA and VB (O8; R47, R48, R114 to R117). -/

namespace Sys2Proof.Machine

open Host (Outcome)

/-! ## Conversions -/

theorem nth_map_getD (g : Nat → Nat) (l : List Nat) (i : Nat) : nthN (l.map g) i = if i < l.length then g (nthN l i) else 0 := by
  split
  · next h => exact nth_map g h
  · next h => simp [nthN, List.getD_eq_getElem?_getD, List.getElem?_eq_none (Nat.le_of_not_lt h)]

/-- Element i of a conversion takes its source element, or is 0 where the source has no such element (R114). -/
theorem lane_convert (c t : BitVec 5) (mode : Nat) (hi : Bool) (x : Vec) {i : Nat} (lt : i < 2048 / tyWidth t.toNat) :
    lane (tyWidth t.toNat) (convert c.toNat t.toNat mode hi x) i = converted c t mode hi x i % 2 ^ tyWidth t.toNat := by
  rw [convert, lane, field_ofElems _ lt, nth_map_getD, converted]
  generalize tyWidth t.toNat = n at *
  generalize hm : 2048 / n = m at *
  congr 1
  by_cases wide : 2048 / tyWidth c.toNat ≤ m
  · simp only [if_pos wide, Nat.not_lt.mpr wide, and_false, if_false, elems_length]
    split
    · next ok => rw [nth_elems x ok, lane]
    · rfl
  · have more : m < 2048 / tyWidth c.toNat := by omega
    cases hi
    · have ok : i < 2048 / tyWidth c.toNat := by omega
      simp only [if_neg wide, Bool.false_eq_true, false_and, if_false, List.length_take, elems_length, Nat.min_eq_left more.le,
        if_pos lt, if_pos ok, nthN_take lt, nth_elems x ok, lane]
    · have ok : i + (2048 / tyWidth c.toNat - m) < 2048 / tyWidth c.toNat := by omega
      have inside : i < 2048 / tyWidth c.toNat - (2048 / tyWidth c.toNat - m) := by omega
      simp only [if_neg wide, more, true_and, if_true, List.length_drop, elems_length, nthN_drop, if_pos inside, if_pos ok,
        Nat.add_comm (_ - _) i, nth_elems x ok, lane]

theorem convert_lanes {mk : VSlot → BitVec 1 → BitVec 6 → BitVec 6 → Instr} {c t : BitVec 5} {mode : Nat} {hi : Bool}
    (runs : ∀ vs w d a s, exec (mk vs w d a) s = .next (vec1 vs 4 w d a none (fun x _ => convert c.toNat t.toNat mode hi x) s)) :
    Lanes1 mk 4 (tyWidth t.toNat) (fun _ _ x i => converted c t mode hi x i) :=
  lanes1_of runs fun _ _ x _ lt => lane_convert c t mode hi x lt

/-! ## Packing -/

/-- The Horner form of a packed integer is its sum (R47). -/
theorem packInt_eq_sum (s : Nat) : ∀ (k : Nat) (l : List Int),
    packInt s k l = ((List.range (min k l.length)).map (fun i => l.getD i 0 * 2 ^ (i * s))).sum
  | 0, _ => by simp [packInt]
  | k + 1, [] => by simp [packInt]
  | k + 1, c :: r => by
    rw [packInt, packInt_eq_sum s k r, List.length_cons, Nat.succ_min_succ, List.range_succ_eq_map, List.map_cons, List.map_map,
      List.sum_cons, ← List.sum_map_mul_left]
    congr 2
    · simp
    · exact List.map_congr_left fun i _ => by simp [Nat.succ_mul, pow_add]; ring

theorem packN_eq_packed (w s : Nat) (l : List Int) : packN w s l = packed w s l := by
  rw [packN, packed, packInt_eq_sum, wrapN]
  push_cast
  rfl

/-- The integers of a register's elements. -/
theorem map_inT_elems (t : BitVec 5) (x : Vec) : (elems (tyWidth t.toNat) x).map (fun e => inT e t.toNat) =
    (List.range (2048 / tyWidth t.toNat)).map (fun k => elemInt t (lane (tyWidth t.toNat) x k)) := by
  rw [elems_eq_map_lane, List.map_map]
  exact List.map_congr_left fun k _ => inT_eq_elemInt t (lane_lt ..)

theorem stride_vecWord (y : Vec) : bitsN y.toNat 0 7 = (vecWord y).toNat % 128 := by
  simp only [bitsN, vecWord, BitVec.toNat_setWidth]
  omega

theorem pack_vec2 (t : BitVec 5) : Vec2 (fun vs w d a b => .vPack vs w d a b t) 6 (fun _ _ _ x y _ =>
    BitVec.ofNat 2048 (packed 2048 ((vecWord y).toNat % 128)
      ((List.range (2048 / tyWidth t.toNat)).map (fun k => elemInt t (lane (tyWidth t.toNat) x k))))) := by
  intro s vs w d a b pops
  dsimp only
  rw [← map_inT_elems, ← stride_vecWord, ← packN_eq_packed]
  exact congrArg Outcome.next (vec2_eq (bc := none) pops)

/-! ## Registers in pairs -/

/-- Results started after a source of VA or VB has been read. -/
theorem withResults_srcV {s : State} {slot : Pos} {b : BitVec 6} (pops : CanPop (isPop b) s) (lat : Nat) (ts : List Tgt) (v : Vec) :
    resultsAt (srcV slot b s).2 slot lat ts v = resultsAt s slot lat ts v ∧
    ∀ l, withResults (srcV slot b s).2 l = withResults (afterReads s (isPop b) []) l := by
  have reads : (srcV slot b s).2.me = readsCore (isPop b) [] s.me := me_vRead none s slot b pops
  exact ⟨by simp only [resultsAt, count_reads reads, bn_reads reads], withResults_reads (srcV_snd s slot b pops)⟩

/-- A result of VA or VB started after the read of a source. -/
theorem dest_srcV {s : State} {slot : Pos} {b : BitVec 6} (pops : CanPop (isPop b) s) (lat : Nat) (w : BitVec 1) (d : BitVec 6) (v : Vec) :
    (srcV slot b s).2.dest slot lat w d v =
      withResults (afterReads s (isPop b) []) (resultsAt s slot lat (targets slot w d) v) := by
  obtain ⟨same, after⟩ := withResults_srcV (slot := slot) pops lat (targets slot w d) v
  rw [dest_eq, same, after]

theorem resultsAt_withResults (s : State) (l : List Flight) (slot : Pos) (lat : Nat) (ts : List Tgt) (v : Vec) :
    resultsAt (withResults s l) slot lat ts v = resultsAt s slot lat ts v := by
  simp only [resultsAt, pipe_withResults]

theorem resultsAt_afterReads (s : State) (n : Nat) (slot : Pos) (lat : Nat) (ts : List Tgt) (v : Vec) :
    resultsAt (afterReads s n []) slot lat ts v = resultsAt s slot lat ts v := by
  have reads : (afterReads s n []).me = readsCore n [] s.me := by rw [afterReads_eq, me_modMe]
  simp only [resultsAt, count_reads reads, bn_reads reads]

theorem execVPackw_eq {s : State} (vs : VSlot) (d a b : BitVec 6) (t : BitVec 5) (pops : CanPop (isPop b) s) :
    let y := (vecWord (vVal s (vpos vs) b 0)).toNat % 128
    let l := (List.range (2048 / tyWidth t.toNat)).map (fun k => elemInt t (lane (tyWidth t.toNat) (vget s.regs.vec.v a.toNat 0) k)) ++
      (List.range (2048 / tyWidth t.toNat)).map (fun k => elemInt t (lane (tyWidth t.toNat) (vget s.regs.vec.v (a.toNat + 1) 0) k))
    exec (.vPackw vs d a b t) s =
      .next (withResults (afterReads s (isPop b) [])
        (resultsAt s (vpos vs) 6 (targets (vpos vs) 0 d) (BitVec.ofNat 2048 (packed 4096 y l)) ++
         resultsAt s (vpos vs) 6 (targets (vpos vs) 0 (d + 1)) (BitVec.ofNat 2048 (packed 4096 y l / 2 ^ 2048)))) := by
  intro y l
  have pair : l = (elems (tyWidth t.toNat) (vget s.regs.vec.v a.toNat 0) ++
      elems (tyWidth t.toNat) (vget s.regs.vec.v (a.toNat + 1) 0)).map (fun e => inT e t.toNat) := by
    rw [List.map_append, map_inT_elems, map_inT_elems]
  have stride : bitsN (srcV (vpos vs) b s).1.toNat 0 7 = y := by rw [stride_vecWord, srcV_fst]
  show execVPackw vs d a b t s = _
  rw [execVPackw, withPops_go pops]
  dsimp only
  rw [stride, ← pair, packN_eq_packed, dest_srcV pops, dest_eq, withResults_withResults, resultsAt_withResults,
    resultsAt_afterReads]
  rfl

/-! ## Unpacking -/

theorem clampT_eq (t : BitVec 5) (x : Int) : clampT x t.toNat = max (typedMin t) (min (typedMax t) x) := by
  have two : (1 : Int) ≤ 2 ^ (tyWidth t.toNat - 1) := one_le_pow₀ (by norm_num)
  have all : (1 : Int) ≤ 2 ^ tyWidth t.toNat := one_le_pow₀ (by norm_num)
  simp only [clampT, clampI, loT, hiT, typedMin, typedMax]
  push_cast
  split <;> (repeat' split) <;> omega

theorem sextN_eq_twos {s : Nat} (pos : 0 < s) (x : Nat) : sextN x s = twos s (x % 2 ^ s) := by
  simp [sextN, twos, pos.ne']

theorem wrapN_eq_intElem (t : BitVec 5) (y : Int) : wrapN y (tyWidth t.toNat) = intElem t y := by
  rw [wrapN, intElem]
  push_cast
  rfl

/-- Element i of an unpacking is coefficient o + i of the packed value, limited to the type (R48, R117). -/
theorem lane_xtrN (w : Nat) (t : BitVec 5) (p : Nat) (b : Word) {i : Nat} (lt : i < 2048 / tyWidth t.toNat) :
    lane (tyWidth t.toNat) (xtrN w t.toNat p b) i =
      unpacked w t p (b.toNat % 128) (b.toNat / 256 % 4096 + i) % 2 ^ tyWidth t.toNat := by
  have stride : bitsN b.toNat 0 7 = b.toNat % 128 := by simp [bitsN]
  have first : bitsN b.toNat 8 12 = b.toNat / 256 % 4096 := by simp [bitsN]
  rw [xtrN, lane, field_ofElems _ lt, nth_range_map lt, stride, first, unpacked]
  generalize b.toNat % 128 = s
  by_cases out : s < 2 ∨ 64 < s ∨ w < (b.toNat / 256 % 4096 + i + 1) * s
  · rw [if_pos out, if_pos out]
  · rw [if_neg out, if_neg out, wrapN_eq_intElem, clampT_eq, coeff, sextN_eq_twos (by omega), bitsN, bitsN, pow_one]

theorem unpacked_lt (w : Nat) (t : BitVec 5) (p s k : Nat) : unpacked w t p s k < 2 ^ tyWidth t.toNat := by
  unfold unpacked
  split
  · exact Nat.two_pow_pos _
  · have pos : (0 : Int) < 2 ^ tyWidth t.toNat := by positivity
    rw [intElem, Int.toNat_lt (Int.emod_nonneg _ pos.ne')]
    exact_mod_cast Int.emod_lt_of_pos _ pos

theorem execVXtrw_eq {s : State} (vs : VSlot) (w : BitVec 1) (d a b : BitVec 6) (t : BitVec 5) (pops : CanPop (isPop b) s) :
    exec (.vXtrw vs w d a b t) s = .next (withResults (afterReads s (isPop b) []) (resultsAt s (vpos vs) 6 (targets (vpos vs) w d)
      (xtrN 4096 t.toNat ((vget s.regs.vec.v a.toNat 0).toNat + (vget s.regs.vec.v (a.toNat + 1) 0).toNat * 2 ^ 2048)
        (vecWord (vVal s (vpos vs) b 0))))) := by
  show execVXtrw vs w d a b t s = _
  rw [execVXtrw, withPops_go pops]
  dsimp only
  rw [dest_srcV pops, srcV_fst]

theorem vectorConversions : Claim.VectorConversions := by
  refine ⟨fun r q c t => ⟨?_, ?_, ?_, ?_, ?_⟩, fun t _ => ⟨pack_vec2 t, ?_, ?_, ?_⟩⟩
  · exact convert_lanes fun _ _ _ _ _ => rfl
  · exact convert_lanes fun _ _ _ _ _ => rfl
  · exact convert_lanes fun _ _ _ _ _ => rfl
  · exact convert_lanes fun _ _ _ _ _ => rfl
  · exact fun s vs w d a pops => congrArg Outcome.next (vec1_eq (bc := none) pops)
  · exact fun s vs d a b pops => execVPackw_eq vs d a b t pops
  · exact lanes2_of (fun _ _ _ _ _ _ => rfl) fun _ _ _ x y _ i lt => lane_xtrN 2048 t x.toNat (vecWord y) lt
  · intro s vs w d a b pops
    refine ⟨_, execVXtrw_eq vs w d a b t pops, fun i lt => ?_⟩
    rw [lane_xtrN _ _ _ _ lt]
    exact Nat.mod_eq_of_lt (unpacked_lt ..)

end Sys2Proof.Machine

namespace Sys2Proof

open Machine

/-- Settles O8: the reductions by the tree of R119, the conversions and packings from their element-wise lemmas. -/
theorem vectorReductionsAndConversions : Obligations.VectorReductionsAndConversions :=
  ⟨vectorReductions, vectorConversions⟩

end Sys2Proof
end

section
/-! PROOF. The drains of the fold array as they issue (O24; R171, R173, R175 to R177, R180). -/

namespace Sys2Proof.Machine

open Host (Outcome)

variable {s : State}

/-! ## The F slot of a core that holds the lease -/

theorem arrayOp_held (held : HoldsLease s) (k : State → State) : arrayOp s k = k s := if_pos held

/-- A trap of F in its fixed group (R180, R264). -/
theorem fTrap_held (held : HoldsLease s) (cause : Nat) (a : Word) : fTrap s cause a = slotTraps s cause a .F := by
  exact if_pos (decide_eq_true (p := s.me.fold.lease = .held) held)

/-! ## What counting a checksum leaves alone -/

theorem regs_modFold (s : State) (f : FoldCore → FoldCore) : (s.modFold f).regs = s.regs := by
  rw [State.regs, State.modFold, me_modMe, State.regs]

theorem pipe_modFold (s : State) (f : FoldCore → FoldCore) : (s.modFold f).pipe = s.pipe := by
  rw [State.pipe, State.modFold, me_modMe, State.pipe]
  rfl

theorem holdsLease_modFold {f : FoldCore → FoldCore} (keeps : (f s.me.fold).lease = s.me.fold.lease) (held : HoldsLease s) :
    HoldsLease (s.modFold f) := by
  rw [HoldsLease, State.modFold, me_modMe]
  exact keeps.trans held

theorem slotRead_modFold (s : State) (f : FoldCore → FoldCore) (addrs : List Nat) : slotRead (s.modFold f) addrs = slotRead s addrs := by
  have byte : slotByte (s.modFold f) = slotByte s := by
    funext t k pa
    unfold slotByte
    rw [pipe_modFold]
    rfl
  rw [slotRead, slotRead, byte, regs_modFold]
  rfl

theorem scaleOf_modFold (s : State) (f : FoldCore → FoldCore) (taps : Bool) (ka i : Nat) :
    scaleOf (s.modFold f) taps ka i = rowScale s taps ka i := by
  rw [scaleOf, regs_modFold]
  rfl

theorem feedOf_modFold (s : State) (f : FoldCore → FoldCore) (k : Nat) : feedOf (s.modFold f) k = feedOf s k := by
  rw [feedOf, regs_modFold, feedOf]

/-! ## The drain -/

theorem use_eq_feedUsed (f : Feed) : f.use = feedUsed f := by
  rw [Feed.use, feedUsed]

/-- One use of a feed register (R166). -/
theorem useFeed_eq (k : Nat) (s : State) :
    useFeed k s = ((feedOf s k).addr.toNat, withFeed s k (feedUsed (feedOf s k))) := by
  have same : s.modFeed k Feed.use = withFeed s k (feedUsed (feedOf s k)) := by
    unfold State.modFeed withFeed State.modRegs
    refine modMe_congr ?_
    rw [Core.modRegs, Core.modRegs, use_eq_feedUsed]
    rfl
  rw [useFeed, same]
  rfl

/-- R173: a drain after its count of a checksum takes the integers with the scale words of its rows and columns, clears the array
and uses the lease; the scale words of its columns are what the core may read of its scratchpad. -/
theorem drainTake_counted (s : State) (k f c : Nat) (vals : FMap Int) (count : FoldCore → FoldCore) :
    let a := arrayOf s
    ∃ x, drainTake k f c vals (s.modFold count) = (leaseUsed (withArray
        (withFeed (s.modMe (fun m => { m with fold := count m.fold })) f (feedUsed (feedOf s f)))
        (fun y => { cleared y with drains := y.drains ++ [⟨s.pipe.count + 33, vals,
          (List.range a.rows).map (rowScale s (a.fam = some true) k),
          (List.range a.cols).map (fun j => x / 2 ^ (32 * j) % 2 ^ 32), a.rows, a.cols, a.base, a.wide, s.cur.toNat % 4⟩] }))).refresh ∧
      ReadsAt (MayRead s) (fun i => padOf (s.myQuad * 4 + c) + ((feedOf s f).addr.toNat + i) % 2 ^ 21) (4 * a.cols) x := by
  intro a
  refine ⟨slotRead s (padAddrs (s.myQuad * 4 + c) (feedOf s f).addr.toNat (4 * a.cols)), ?_, readsAt_slotRead ..⟩
  rw [drainTake, useFeed_eq]
  dsimp only
  rw [pipe_modFold, feedOf_modFold, slotRead_modFold, funext (scaleOf_modFold s count _ k)]
  rfl

/-- The drain with the integers vals, if the accumulators take its rows and columns (R173, R180). -/
def drainRanged (k f : BitVec 3) (c : BitVec 2) (s : State) (vals : FMap Int) (count : FoldCore → FoldCore) : State :=
  if (if (arrayOf s).wide then 2 ^ 22 else 2 ^ 20) < (arrayOf s).base + 4 * (arrayOf s).rows * (arrayOf s).cols
  then fTrap s cACC_RANGE (BitVec.ofNat 64 ((arrayOf s).base + 4 * (arrayOf s).rows * (arrayOf s).cols))
  else drainTake k.toNat f.toNat c.toNat vals (s.modFold count)

/-- A drain by what the comparison of its checksums finds (R176). -/
def drainCompared (k f : BitVec 3) (c : BitVec 2) (s : State) : State :=
  match (arrayOf s).check with
  | .fail => fTrap (s.modFold (fun x => { x with fail := x.fail + 1 })) cCSUM_FAIL 0x10
  | .clean => drainRanged k f c s (arrayOf s).slots id
  | .lane => drainRanged k f c s (arrayOf s).slots (fun x => { x with lane := x.lane + 1 })
  | .fix i d => drainRanged k f c s (setInt (arrayOf s).slots i (fget 0 (arrayOf s).slots i + d)) (fun x => { x with corr := x.corr + 1 })

theorem execFDrain_scales (held : HoldsLease s) {k : BitVec 3} (f : BitVec 3) (c : BitVec 2)
    (many : 8 < k.toNat + ((arrayOf s).rows + 63) / 64) : exec (.fDrain k f c) s = .next (slotTraps s 0x02 0 .F) := by
  show execFDrain k f c s = _
  rw [execFDrain, arrayOp_held held]
  have traps : 7 < k.toNat + ((arrayOf s).rows + 63) / 64 - 1 := by omega
  exact congrArg Outcome.next ((if_pos traps).trans (fTrap_held held _ _))

theorem execFDrain_overflowed (held : HoldsLease s) {k : BitVec 3} (f : BitVec 3) (c : BitVec 2)
    (scales : k.toNat + ((arrayOf s).rows + 63) / 64 ≤ 8) (overflowed : (arrayOf s).ovf ≠ none) :
    exec (.fDrain k f c) s = .next (slotTraps s 0x1F (foldOvf (arrayOf s)) .F) := by
  show execFDrain k f c s = _
  rw [execFDrain, arrayOp_held held]
  have few : ¬7 < k.toNat + ((arrayOf s).rows + 63) / 64 - 1 := by omega
  exact congrArg Outcome.next ((if_neg few).trans ((if_pos (Option.isSome_iff_ne_none.mpr overflowed)).trans (fTrap_held held _ _)))

/-- A drain whose array has room in the scale registers and no overflow goes by its comparison of checksums. -/
theorem execFDrain_compares (held : HoldsLease s) {k : BitVec 3} (f : BitVec 3) (c : BitVec 2)
    (scales : k.toNat + ((arrayOf s).rows + 63) / 64 ≤ 8) (calm : (arrayOf s).ovf = none) :
    exec (.fDrain k f c) s = .next (drainCompared k f c s) := by
  show execFDrain k f c s = _
  rw [execFDrain, arrayOp_held held]
  have few : ¬7 < k.toNat + ((arrayOf s).rows + 63) / 64 - 1 := by omega
  have quiet : ¬(arrayOf s).ovf.isSome = true := by rw [calm]; decide
  refine congrArg Outcome.next ((if_neg few).trans ((if_neg quiet).trans ?_))
  rw [drainCompared, arrayOf, State.array]
  cases FoldArray.check (s.quad s.myQuad).array <;> rfl

theorem execFDrain_fails (held : HoldsLease s) {k : BitVec 3} (f : BitVec 3) (c : BitVec 2)
    (scales : k.toNat + ((arrayOf s).rows + 63) / 64 ≤ 8) (calm : (arrayOf s).ovf = none) (check : (arrayOf s).check = .fail) :
    exec (.fDrain k f c) s = .next (slotTraps
      (s.modMe (fun m => { m with fold := { m.fold with fail := m.fold.fail + 1 } })) 0x20 0x10 .F) := by
  have counted := holdsLease_modFold (f := fun x => { x with fail := x.fail + 1 }) rfl held
  rw [execFDrain_compares held f c scales calm, drainCompared, check]
  exact congrArg Outcome.next (fTrap_held counted _ _)

theorem execFDrain_range (held : HoldsLease s) {k : BitVec 3} (f : BitVec 3) (c : BitVec 2)
    (scales : k.toNat + ((arrayOf s).rows + 63) / 64 ≤ 8) (calm : (arrayOf s).ovf = none) (check : (arrayOf s).check = .clean)
    (past : (if (arrayOf s).wide then 2 ^ 22 else 2 ^ 20) < (arrayOf s).base + 4 * (arrayOf s).rows * (arrayOf s).cols) :
    exec (.fDrain k f c) s = .next (slotTraps s 0x21
      (BitVec.ofNat 64 ((arrayOf s).base + 4 * (arrayOf s).rows * (arrayOf s).cols)) .F) := by
  rw [execFDrain_compares held f c scales calm, drainCompared, check]
  exact congrArg Outcome.next ((if_pos past).trans (fTrap_held held _ _))

/-- A drain that no check stops (R176): its integers and its count by what the comparison finds. -/
theorem execFDrain_takes (held : HoldsLease s) {k f : BitVec 3} {c : BitVec 2} {vals : FMap Int} {count : FoldCore → FoldCore}
    (scales : k.toNat + ((arrayOf s).rows + 63) / 64 ≤ 8) (calm : (arrayOf s).ovf = none)
    (fits : (arrayOf s).base + 4 * (arrayOf s).rows * (arrayOf s).cols ≤ if (arrayOf s).wide then 2 ^ 22 else 2 ^ 20)
    (found : ((arrayOf s).check = .clean ∧ vals = (arrayOf s).slots ∧ count = id) ∨
      ((arrayOf s).check = .lane ∧ vals = (arrayOf s).slots ∧ count = fun x => { x with lane := x.lane + 1 }) ∨
      (∃ i d, (arrayOf s).check = .fix i d ∧ vals = setInt (arrayOf s).slots i (fget 0 (arrayOf s).slots i + d) ∧
        count = fun x => { x with corr := x.corr + 1 })) :
    exec (.fDrain k f c) s = .next (drainTake k.toNat f.toNat c.toNat vals (s.modFold count)) := by
  rw [execFDrain_compares held f c scales calm, drainCompared]
  obtain ⟨check, rfl, rfl⟩ | ⟨check, rfl, rfl⟩ | ⟨i, d, check, rfl, rfl⟩ := found <;> rw [check]
  all_goals exact congrArg Outcome.next (if_neg (Nat.not_lt.mpr fits))

theorem foldDrains : Claim.FoldDrains := by
  refine ⟨fun s k f c vals count held => ?_, fun s k f c held => ?_⟩
  · intro a scales calm fits found
    obtain ⟨x, takes, reads⟩ := drainTake_counted s k.toNat f.toNat c.toNat vals count
    exact ⟨_, x, (execFDrain_takes held scales calm fits found).trans (congrArg Outcome.next takes), reads⟩
  · exact ⟨execFDrain_scales held f c, execFDrain_overflowed held f c, execFDrain_fails held f c, execFDrain_range held f c⟩

end Sys2Proof.Machine
end

section
/-! PROOF. The drains of the fold array as they land (O24; R51, R173, R174): words that one pass over disjoint places updates. -/

namespace Sys2Proof.Machine

open Host (Outcome)

/-! ## Words updated in turn -/

section words

variable {ι : Type} {addr : ι → Nat} {val : ι → Nat → Nat}

/-- One word of memory replaced by what val makes of it. -/
def updateWord (addr : ι → Nat) (val : ι → Nat → Nat) (m : List Host.Cell) (x : ι) : List Host.Cell :=
  Memory.write m (addr x) (val x (Memory.read m (addr x) 4)) 4

theorem Memory.read_congr {m l : List Host.Cell} {n : Nat} : ∀ {a : Nat}, (∀ k < n, Memory.get m (a + k) = Memory.get l (a + k)) →
    Memory.read m a n = Memory.read l a n := by
  induction n with
  | zero => intros; rfl
  | succ n ih =>
    intro a h
    rw [Memory.read, Memory.read, ih (a := a + 1) fun k hk => by rw [Nat.add_assoc, Nat.add_comm 1]; exact h (k + 1) (by omega)]
    exact congrArg (·.toNat + _) (h 0 (by omega))

theorem get_updateWords {a : Nat} (l : List ι) : ∀ {m : List Host.Cell}, Memory.wf m = true →
    (∀ x ∈ l, a < addr x ∨ addr x + 4 ≤ a) → Memory.get (l.foldl (updateWord addr val) m) a = Memory.get m a := by
  induction l with
  | nil => intros; rfl
  | cons x r ih =>
    intro m wf out
    have kept : Memory.wf (updateWord addr val m x) = true := Memory.wf_write wf
    rw [List.foldl_cons, ih kept fun y hy => out y (List.mem_cons_of_mem _ hy)]
    exact Memory.get_write_of_outside _ wf (out x List.mem_cons_self)

/-- Words at disjoint places each take the value made of the word that stood there before. -/
theorem read_updateWords {x : ι} (l : List ι) : ∀ {m : List Host.Cell}, Memory.wf m = true → l.Nodup → x ∈ l →
    (∀ y ∈ l, y ≠ x → addr y + 4 ≤ addr x ∨ addr x + 4 ≤ addr y) → (∀ v < 2 ^ 32, val x v < 2 ^ 32) →
    Memory.read (l.foldl (updateWord addr val) m) (addr x) 4 = val x (Memory.read m (addr x) 4) := by
  induction l with
  | nil => exact fun _ _ mem => absurd mem List.not_mem_nil
  | cons y r ih =>
    intro m wf nodup mem apart fits
    obtain ⟨fresh, nodup⟩ := List.nodup_cons.mp nodup
    rw [List.foldl_cons]
    have apart' : ∀ z ∈ r, z ≠ x → addr z + 4 ≤ addr x ∨ addr x + 4 ≤ addr z := fun z hz => apart z (List.mem_cons_of_mem _ hz)
    obtain rfl | mem := List.mem_cons.mp mem
    · have kept : ∀ k < 4, Memory.get (r.foldl (updateWord addr val) (updateWord addr val m x)) (addr x + k) =
          Memory.get (updateWord addr val m x) (addr x + k) := by
        intro k hk
        refine get_updateWords r (Memory.wf_write wf) fun z hz => ?_
        have := apart' z hz (fun h => fresh (h ▸ hz))
        omega
      rw [Memory.read_congr kept, updateWord, Memory.read_write _ wf]
      exact Nat.mod_eq_of_lt (fits _ (read_lt m _ 4))
    · have other : y ≠ x := fun h => fresh (h ▸ mem)
      have same : ∀ k < 4, Memory.get (updateWord addr val m y) (addr x + k) = Memory.get m (addr x + k) := by
        intro k hk
        refine Memory.get_write_of_outside _ wf ?_
        have := apart y List.mem_cons_self other
        omega
      have kept : Memory.wf (updateWord addr val m y) = true := Memory.wf_write wf
      rw [ih kept nodup mem apart' fits, Memory.read_congr same]

end words

/-! ## The words of a drain -/

theorem toFp_f32_lt (v : FVal) : toFp f32 0 v < 2 ^ 32 := by
  have sign : ∀ neg, signBit f32 neg ≤ 2 ^ 31 := by decide
  have inf : infBits f32 < 2 ^ 31 := by decide
  have top : maxBits f32 < 2 ^ 31 := by decide
  have past : ∀ neg, overflowBits f32 0 neg = infBits f32 := by decide
  have magnitude : ∀ neg mag, (if maxBits f32 < mag then overflowBits f32 0 neg else mag) < 2 ^ 31 := by
    intro neg mag
    rw [past]
    split <;> omega
  unfold toFp
  cases v with
  | nan => decide
  | inf neg =>
    have := sign neg
    exact (Nat.add_lt_add_of_le_of_lt this inf)
  | fin neg m e =>
    have := sign neg
    dsimp only [roundFp]
    split
    · omega
    · exact Nat.add_lt_add_of_le_of_lt this (magnitude neg _)

theorem drainOne_lt (c : Int) (sa sb : Nat) {acc : Nat} (h : acc < 2 ^ 32) : drainOne c sa sb acc < 2 ^ 32 := by
  unfold drainOne
  dsimp only
  split
  · decide
  split
  · exact h
  split
  · exact h
  split
  · exact toFp_f32_lt _
  · exact h

/-- The address and the new value of the word at row and column x of a drain (R173). -/
def drainWordAddr (q : Nat) (d : Drain) (x : Nat × Nat) : Nat := drainAddr q d (d.base + 4 * (x.1 * d.cols + x.2))
def drainWord (d : Drain) (x : Nat × Nat) : Nat → Nat :=
  drainOne (fget 0 d.vals (x.1 * 8192 + x.2)) (d.sa.getD x.1 0) (d.sb.getD x.2 0)

theorem drainWordAddr_eq (q : Nat) (d : Drain) (x : Nat × Nat) :
    drainWordAddr q d x = drainAddr q d d.base + 4 * (x.1 * d.cols + x.2) := by
  unfold drainWordAddr drainAddr
  split <;> omega

theorem drainRow_eq (q : Nat) (d : Drain) (i : Nat) (l : List Nat) : ∀ m,
    drainRow q d i l m = (l.map (i, ·)).foldl (updateWord (drainWordAddr q d) (drainWord d)) m := by
  induction l with
  | nil => exact fun _ => rfl
  | cons j r ih => exact fun m => ih _

/-- R174: a drain writes its words row by row. -/
theorem drainMem_eq (q : Nat) (d : Drain) (m : List Host.Cell) : drainMem q d m =
    (List.range d.rows ×ˢ List.range d.cols).foldl (updateWord (drainWordAddr q d) (drainWord d)) m := by
  have pairs : List.range d.rows ×ˢ List.range d.cols = (List.range d.rows).flatMap fun i => (List.range d.cols).map (i, ·) := rfl
  rw [drainMem, pairs, List.foldl_flatMap]
  exact congrArg (fun f => (List.range d.rows).foldl f m) (funext fun m => funext fun i => drainRow_eq q d i _ m)

theorem place_lt {rows cols i j : Nat} (hi : i < rows) (hj : j < cols) : i * cols + j < rows * cols :=
  calc i * cols + j < (i + 1) * cols := by rw [Nat.succ_mul]; omega
    _ ≤ rows * cols := Nat.mul_le_mul_right _ hi

theorem place_ne {cols : Nat} {x y : Nat × Nat} (hx : x.2 < cols) (hy : y.2 < cols) (ne : y ≠ x) :
    y.1 * cols + y.2 ≠ x.1 * cols + x.2 := by
  intro same
  have row : y.1 = x.1 := by
    have := congrArg (· / cols) same
    simpa [Nat.mul_comm _ cols, Nat.mul_add_div (Nat.zero_lt_of_lt hx), Nat.div_eq_of_lt hx, Nat.div_eq_of_lt hy] using this
  exact ne (Prod.ext row (by rw [row] at same; omega))

theorem read_drainMem {m : List Host.Cell} (q : Nat) (d : Drain) (wf : Memory.wf m = true) {i j : Nat} (hi : i < d.rows)
    (hj : j < d.cols) : Memory.read (drainMem q d m) (drainAddr q d (d.base + 4 * (i * d.cols + j))) 4 =
      drainOne (fget 0 d.vals (i * 8192 + j)) (d.sa.getD i 0) (d.sb.getD j 0)
        (Memory.read m (drainAddr q d (d.base + 4 * (i * d.cols + j))) 4) := by
  rw [drainMem_eq]
  refine read_updateWords (addr := drainWordAddr q d) (val := drainWord d) (x := (i, j)) _ wf
    (List.nodup_range.product List.nodup_range) (List.mem_product.mpr ⟨List.mem_range.mpr hi, List.mem_range.mpr hj⟩)
    (fun y hy ne => ?_) fun v hv => drainOne_lt _ _ _ hv
  have := place_ne (x := (i, j)) hj (List.mem_range.mp (List.mem_product.mp hy).2) ne
  rw [drainWordAddr_eq, drainWordAddr_eq]
  omega

theorem get_drainMem {m : List Host.Cell} (q : Nat) (d : Drain) (wf : Memory.wf m = true) {a : Nat}
    (out : a < drainAddr q d d.base ∨ drainAddr q d d.base + 4 * d.rows * d.cols ≤ a) :
    Memory.get (drainMem q d m) a = Memory.get m a := by
  rw [drainMem_eq]
  refine get_updateWords _ wf fun x hx => ?_
  obtain ⟨hi, hj⟩ := List.mem_product.mp hx
  have := place_lt (List.mem_range.mp hi) (List.mem_range.mp hj)
  rw [drainWordAddr_eq]
  rw [Nat.mul_assoc] at out
  omega

/-! ## The landing -/

/-- The count of the core that issued drain d is over. -/
def drainPast (s : State) (q : Nat) (d : Drain) : Bool := decide (d.due < countOf s q d.core)

theorem drainLand_array (q : Nat) (s : State) : ((drainLand q s).quad q).array = { (s.quad q).array with
    drains := (s.quad q).array.drains.filter (fun d => !drainPast s q d) } := by
  rw [drainLand, State.modArray, quad_modQuad_same]
  rfl

theorem drainLand_mem (q : Nat) (s : State) : (drainLand q s).mem =
    ((s.quad q).array.drains.filter (drainPast s q)).foldl (fun m d => drainMem q d m) s.mem := rfl

/-- Drains whose counts are not over stay. -/
theorem filter_drainPast {s : State} {q : Nat} {l : List Drain} (due : ∀ x ∈ l, (s.core (q * 4 + x.core)).regs.task.count ≤ x.due) :
    l.filter (drainPast s q) = [] ∧ l.filter (fun d => !drainPast s q d) = l := by
  have stay : ∀ x ∈ l, drainPast s q x = false := fun x hx => decide_eq_false (Nat.not_lt.mpr (due x hx))
  exact ⟨List.filter_eq_nil_iff.mpr fun x hx => by rw [stay x hx]; decide,
    List.filter_eq_self.mpr fun x hx => by rw [stay x hx]; rfl⟩

theorem drainsLand : Claim.DrainsLand := by
  refine ⟨fun s q d rest wf drains past others => ?_, fun s q due => ?_⟩
  · obtain ⟨none, rests⟩ := filter_drainPast others
    have gone : drainPast s q.toNat d = true := decide_eq_true past
    have mem : (drainLand q.toNat s).mem = drainMem q.toNat d s.mem := by
      rw [drainLand_mem, drains, List.filter_cons_of_pos gone, none]
      rfl
    refine ⟨drainLand q.toNat s, rfl, ?_, fun _ => rfl, fun i hi j hj => ?_, fun x out => ?_⟩
    · rw [drainLand_array, drains, List.filter_cons_of_neg (by rw [gone]; decide), rests]
    · rw [mem]
      exact read_drainMem _ _ wf hi hj
    · rw [mem]
      exact get_drainMem _ _ wf out
  · obtain ⟨none, all⟩ := filter_drainPast due
    refine ⟨drainLand q.toNat s, rfl, ?_, ?_⟩
    · rw [drainLand_mem, none]
      rfl
    · rw [drainLand_array, all]

end Sys2Proof.Machine

namespace Sys2Proof

open Machine

/-- Settles O24: a drain at its issue by its checks in order (`foldDrains`), and at its landing word by word (`drainsLand`). -/
theorem foldDrainsIssueAndLand : Obligations.FoldDrainsIssueAndLand := ⟨foldDrains, drainsLand⟩

end Sys2Proof
end

section
/-! SUPPORT. Laws of the copy engines: what reads a channel's tag only, what the end of a command leaves, and what a write to plain
memory leaves (R184 to R207). -/

namespace Sys2Proof.Machine

open Host (Outcome)

variable {s t u : State} {c : Nat}

/-! ## Channels -/

@[simp] theorem chan_modChan_same (s : State) (c : Nat) (f : Chan → Chan) : (s.modChan c f).chan c = f (s.chan c) :=
  fget_fset_same ..

theorem farDone_none (h : s.podreqs = []) (v : Nat) : farDone v s = s := by
  rw [farDone, dropAsks, h, List.filterMap_nil, ← h]

/-- The head of a channel's commands changes. -/
theorem cmds_modHead {m : Cmd} {r : List Cmd} (f : Cmd → Cmd) (h : (s.chan c).cmds = m :: r) :
    (modHead c f s).chan c = { s.chan c with cmds := f m :: r } := by
  rw [modHead, chan_modChan_same, h]

/-! ## States that differ in the commands of the channels alone -/

/-- t has the state of s but for the channels, and channel c of it differs in its commands alone. -/
structure CmdsOnly (c : Nat) (s t : State) : Prop where
  rest : ∃ k, t = { s with chans := k }
  chan : t.chan c = { s.chan c with cmds := (t.chan c).cmds }

theorem cmdsOnly_modHead (f : Cmd → Cmd) (s : State) : CmdsOnly c s (modHead c f s) :=
  ⟨⟨_, rfl⟩, by rw [modHead, chan_modChan_same]⟩

section
variable (h : CmdsOnly c s t)
include h

theorem CmdsOnly.tag : (t.chan c).tag = (s.chan c).tag := by rw [h.chan]
theorem CmdsOnly.mstamp : (t.chan c).mstamp = (s.chan c).mstamp := by rw [h.chan]
theorem CmdsOnly.shadow : (t.chan c).shadow = (s.chan c).shadow := by rw [h.chan]
theorem CmdsOnly.fails : (t.chan c).fails = (s.chan c).fails := by rw [h.chan]

theorem CmdsOnly.unitLook (tlb : List Leaf) (tag cls kind va : Nat) : unitLook t tlb tag cls kind va = unitLook s tlb tag cls kind va := by
  obtain ⟨k, rfl⟩ := h.rest
  have walk : walkRoot { s with chans := k } tag va = walkRoot s tag va := walkFrom_aside s s.dbg k s.cores s.cur va _ _ _
  simp only [Machine.unitLook, unitLeaf, walk]
  rfl

theorem CmdsOnly.engineLook (kind : Nat) (stamp : Bool) (va : Nat) : engineLook t c kind stamp va = engineLook s c kind stamp va := by
  have etlb : t.etlbOf (c / 16) = s.etlbOf (c / 16) := by obtain ⟨k, rfl⟩ := h.rest; rfl
  rw [Machine.engineLook, h.unitLook, h.tag, etlb, Machine.engineLook]

theorem CmdsOnly.engineRanges (kind : Nat) (stamp : Bool) (l : List (Nat × Nat)) :
    engineRanges t c kind stamp l = engineRanges s c kind stamp l := by
  have route (pa : Nat) : noRoute t pa = noRoute s pa := by obtain ⟨k, rfl⟩ := h.rest; rfl
  have poison (pa : Nat) : poisoned t pa = poisoned s pa := by obtain ⟨k, rfl⟩ := h.rest; rfl
  simp only [Machine.engineRanges, h.engineLook, route, poison]

theorem CmdsOnly.engineByte (va : Nat) : engineByte t c va = engineByte s c va := by
  have byte (tag pa : Nat) : unitByte t c tag pa = unitByte s c tag pa := by obtain ⟨k, rfl⟩ := h.rest; rfl
  simp only [Machine.engineByte, h.engineLook, h.tag, byte]

theorem CmdsOnly.tmplLook (m : Cmd) : tmplLook t c m = tmplLook s c m := by
  simp only [Machine.tmplLook, h.engineRanges]

theorem CmdsOnly.readTmpl (m : Cmd) : readTmpl t c m = readTmpl s c m := by
  have bytes : Machine.engineByte t c = Machine.engineByte s c := funext h.engineByte
  simp only [Machine.readTmpl, h.shadow, bytes]

theorem CmdsOnly.stampAddr (m : Cmd) : stampAddr t c m = stampAddr s c m := by
  simp only [Machine.stampAddr, h.tmplLook, h.readTmpl, h.mstamp]

end

/-! ## Tokens -/

/-- t is s but for the channels, each with as many commands as before and otherwise as it was. -/
def SameCounts (s t : State) : Prop :=
  ∃ k, t = { s with chans := k } ∧ ∀ c, ∃ l, t.chan c = { s.chan c with cmds := l } ∧ l.length = (s.chan c).cmds.length

theorem sameCounts_refl (s : State) : SameCounts s s := ⟨s.chans, rfl, fun c => ⟨(s.chan c).cmds, rfl, rfl⟩⟩

theorem sameCounts_trans (h : SameCounts s t) (g : SameCounts t u) : SameCounts s u := by
  obtain ⟨k, rfl, hk⟩ := h
  obtain ⟨l, rfl, hl⟩ := g
  refine ⟨l, rfl, fun c => ?_⟩
  obtain ⟨a, ha, na⟩ := hk c
  obtain ⟨b, hb, nb⟩ := hl c
  exact ⟨b, by rw [hb, ha], by rw [nb, ha]; exact na⟩

theorem fget_map {α : Type} (d : α) (f : α → α) (hd : f d = d) (m : FMap α) (n : Nat) :
    fget d (m.map (fun e => (e.1, f e.2))) n = f (fget d m n) := by
  induction m with
  | nil => exact hd.symm
  | cons e r ih =>
    obtain ⟨k, v⟩ := e
    rw [List.map_cons, fget, fget, ih]
    exact (apply_ite f _ _ _).symm

theorem sameCounts_tokenEdge (n : Nat) (r : CoreRegs) (k : Nat) (ready : Bool) (s : State) :
    SameCounts s (tokenEdge n r k ready s) := by
  refine ⟨_, rfl, fun c => ⟨(s.chan c).cmds.map (Cmd.edge (tokenWaits s n r) k ready), ?_, List.length_map _⟩⟩
  exact fget_map Chan.reset (fun x => { x with cmds := x.cmds.map (Cmd.edge (tokenWaits s n r) k ready) }) rfl s.chans c

/-- A token of the registers that is pending and owned takes its end (R191). -/
def endToken (k owner : Nat) (ok : Bool) (r : CoreRegs) : CoreRegs :=
  if (vget r.tok k Token.reset).st = .pending && (vget r.tok k Token.reset).owner = owner then
    { r with tok := vset r.tok k ⟨if ok then .ready else .failed, 0⟩ }
  else r

theorem sameCounts_settleToken (n k owner : Nat) (ok : Bool) (s : State) :
    SameCounts (s.modCore n (fun x => x.mapRegs (endToken k owner ok))) (settleToken n k owner ok s) :=
  foldl_keeps (P := SameCounts _) (f := fun x r => tokenEdge n r k ok x) (fun b r h => sameCounts_trans h (sameCounts_tokenEdge n r k ok b)) _
    (sameCounts_refl _)

theorem endToken_owned {k owner : Nat} {ok : Bool} {r : CoreRegs} (hk : k < 64) (own : vget r.tok k Token.reset = ⟨.pending, owner⟩) :
    vget (endToken k owner ok r).tok k Token.reset = ⟨if ok then .ready else .failed, 0⟩ := by
  rw [endToken, own, if_pos (by simp)]
  exact vget_vset_same _ _ _ _ hk

theorem endToken_task (k owner : Nat) (ok : Bool) (r : CoreRegs) : (endToken k owner ok r).task = r.task := by
  unfold endToken
  split
  · rfl
  · rfl

theorem SameCounts.core (h : SameCounts s t) (n : Nat) : t.core n = s.core n := by
  obtain ⟨k, rfl, -⟩ := h
  rfl

theorem SameCounts.mem (h : SameCounts s t) : t.mem = s.mem := by
  obtain ⟨k, rfl, -⟩ := h
  rfl

/-! ## The end of a command (R191, R203, R204) -/

/-- Command m leaves channel c, counted as failed or not, and the token it still owns takes its end. -/
structure Leaves (c : Nat) (m : Cmd) (bad : Bool) (shown : Nat) (s t : State) : Prop where
  count : (t.chan c).cmds.length = (s.chan c).cmds.tail.length
  fails : (t.chan c).fails = if bad then (s.chan c).fails + 1 else (s.chan c).fails
  code : (t.chan c).code = if bad then BitVec.ofNat 8 shown else (s.chan c).code
  token : ∀ n k, OwnsToken s n k m → (vget (t.core n).regs.tok k Token.reset).st = if bad then .failed else .ready

/-- A command leaves the list of its channel, and a failure is counted (R204). -/
def dropHead (bad : Bool) (shown : Nat) (x : Chan) : Chan :=
  { x with cmds := x.cmds.tail
           fails := if bad then x.fails + 1 else x.fails
           code := if bad then BitVec.ofNat 8 shown else x.code }

/-- The end of command m acts on its token. -/
def settleOwn (m : Cmd) (ok : Bool) (s : State) : State :=
  match m.core, tokenField m.word 33 with
  | some n, some k => settleToken n k m.owner ok s
  | _, _ => s

theorem settleOwn_leaves (m : Cmd) (bad : Bool) (shown : Nat) (s : State) :
    Leaves c m bad shown s (settleOwn m (!bad) (s.modChan c (dropHead bad shown))) ∧
      (settleOwn m (!bad) (s.modChan c (dropHead bad shown))).mem = s.mem := by
  unfold settleOwn
  split
  · next n k core field =>
    have same := sameCounts_settleToken n k m.owner (!bad) (s.modChan c (dropHead bad shown))
    have chan := same
    obtain ⟨-, -, chan⟩ := chan
    obtain ⟨l, hl, len⟩ := chan c
    have dropped : ((s.modChan c (dropHead bad shown)).modCore n (fun x => x.mapRegs (endToken k m.owner (!bad)))).chan c =
        dropHead bad shown (s.chan c) := chan_modChan_same ..
    rw [dropped] at hl len
    refine ⟨⟨by rw [hl]; exact len, by rw [hl]; rfl, by rw [hl]; rfl, ?_⟩, same.mem⟩
    rintro n' k' ⟨core', field', small, own⟩
    obtain rfl : n = n' := Option.some.inj (core.symm.trans core')
    obtain rfl : k = k' := Option.some.inj (field.symm.trans field')
    rw [same.core, core_modCore_same]
    refine (congrArg Token.st (endToken_owned small own)).trans ?_
    cases bad
    · rfl
    · rfl
  · next none =>
    refine ⟨⟨by rw [chan_modChan_same]; rfl, by rw [chan_modChan_same]; rfl, by rw [chan_modChan_same]; rfl, ?_⟩, rfl⟩
    rintro n k ⟨core, field, -⟩
    exact absurd field (none n k core)

theorem leaves_monRecord {m : Cmd} {bad : Bool} {shown : Nat} (d src tag core v : Nat) (h : Leaves c m bad shown s t) :
    Leaves c m bad shown s (monRecord t d src tag core v) := by
  obtain ⟨g, e⟩ := monRecord_dbg t d src tag core v
  rw [e]
  obtain ⟨count, fails, code, token⟩ := h
  exact ⟨count, fails, code, token⟩

/-- Only the channels and the cores before the end matter to what it leaves. -/
theorem leaves_congr {m : Cmd} {bad : Bool} {shown : Nat} (chans : u.chans = s.chans) (cores : u.cores = s.cores)
    (h : Leaves c m bad shown u t) : Leaves c m bad shown s t := by
  have chan : u.chan c = s.chan c := by rw [State.chan, chans, State.chan]
  have core (n : Nat) : u.core n = s.core n := by rw [State.core, cores, State.core]
  obtain ⟨count, fails, code, token⟩ := h
  exact ⟨chan ▸ count, chan ▸ fails, chan ▸ code, fun n k own => token n k (by rwa [OwnsToken, core])⟩

/-- The code that a channel shows of a command that ends with a code, and perhaps with a stamp that failed (R203, R205). -/
def shownCode (code : Nat) (sf : Option Nat) : Nat := 
  if code ≠ 0 then code else match sf with | some f => f | none => 0

theorem endCmd_leaves {m : Cmd} (code : Nat) (sf : Option Nat) (near : s.podreqs = []) (packet : m.packet = none) :
    Leaves c m (code ≠ 0 || sf.isSome) (shownCode code sf) s (endCmd c m code sf s) ∧ (endCmd c m code sf s).mem = s.mem := by
  obtain ⟨leaves, mem⟩ := settleOwn_leaves (c := c) m (code ≠ 0 || sf.isSome) (shownCode code sf) s
  unfold endCmd
  simp only [farDone_none near, packet]
  split
  · exact ⟨leaves_monRecord _ _ _ _ _ leaves, (monRecord_keeps ..).1.trans mem⟩
  · exact ⟨leaves, mem⟩

/-! ## Writes to plain memory -/

/-- Bytes put in memory, in order. -/
def putAll (l : List (Nat × Byte)) (m : List Host.Cell) : List Host.Cell := l.foldl (fun m e => Memory.put m e.1 e.2) m

theorem putAll_append (l k : List (Nat × Byte)) (m : List Host.Cell) : putAll (l ++ k) m = putAll k (putAll l m) := List.foldl_append
theorem putAll_singleton (e : Nat × Byte) (m : List Host.Cell) : putAll [e] m = Memory.put m e.1 e.2 := rfl

/-- Bytes that lie one after the other are put from an address on. -/
theorem get_putAll_run {m : List Host.Cell} (wf : Memory.wf m = true) (pa n a : Nat) (f : Nat → Byte) :
    Memory.get (putAll ((List.range n).map (fun i => (pa + i, f i))) m) a =
      if pa ≤ a ∧ a < pa + n then f (a - pa) else Memory.get m a := by
  induction n with
  | zero => exact (if_neg (by omega)).symm
  | succ n ih =>
    have wf' : Memory.wf (putAll ((List.range n).map (fun i => (pa + i, f i))) m) = true := Memory.wf_puts _ Prod.fst Prod.snd wf
    rw [List.range_succ, List.map_append, putAll_append, List.map_singleton, putAll_singleton,
     
      Memory.get_put wf', ih]
    by_cases last : a = pa + n
    · rw [if_pos last, if_pos (by omega), last, Nat.add_sub_cancel_left]
    · rw [if_neg last]
      exact if_congr (by omega) rfl rfl

/-- Every byte of a list goes to a byte of this module's memory. -/
def AllPlain (s : State) (l : List (Nat × Byte)) : Prop := ∀ e ∈ l, inMemory e.1 = true ∧ podOf s e.1 = none

theorem allPlain_run {pa n : Nat} (h : PlainBytes s pa n) (f : Nat → Byte) :
    AllPlain s ((List.range n).map (fun i => (pa + i, f i))) := by
  intro e he
  obtain ⟨i, hi, rfl⟩ := List.mem_map.1 he
  exact h i (List.mem_range.1 hi)

theorem not_mail_pad {a : Nat} (h : inMemory a = true) : isMail a = false ∧ isPad a = false := by
  have bounds := inMemory_bounds h
  have mail : mailBase = 0xF000180000000 := rfl
  have pad : padBase = 0xF000000000000 := rfl
  exact ⟨by rw [isMail, decide_eq_false (by omega), Bool.false_and], by rw [isPad, decide_eq_false (by omega), Bool.false_and]⟩

theorem writeByteAs_plain {a : Nat} (tag : Nat) (b : Byte) (h : inMemory a = true) :
    writeByteAs s tag a b = { s with mem := Memory.put s.mem a b } := by
  have allowed : padAllowed s tag a = true := if_neg (by rw [(not_mail_pad h).2]; decide)
  rw [writeByteAs, if_pos allowed]

theorem memWrite_plain {l : List (Nat × Byte)} (tag : Nat) (h : AllPlain s l) :
    ∃ w d f, memWrite tag l s = { s with mem := putAll l s.mem, writer := w, dirty := d, flash := f } := by
  have bytes : l.foldl (fun s e => if (podOf s e.1).isSome then s else if isMail e.1 then mailPut (e.1 - mailBase) e.2 s
      else writeByteAs s tag e.1 e.2) s = { s with mem := putAll l s.mem } := by
    induction l generalizing s with
    | nil => rfl
    | cons e r ih =>
      obtain ⟨⟨mem, pod⟩, rest⟩ := List.forall_mem_cons.1 h
      rw [List.foldl_cons, if_neg (by rw [pod]; decide), if_neg (by rw [(not_mail_pad mem).1]; decide), writeByteAs_plain tag e.2 mem]
      exact ih rest
  rw [memWrite, bytes]
  refine foldl_keeps (P := fun t => ∃ w d f, t = { s with mem := putAll l s.mem, writer := w, dirty := d, flash := f })
    (f := fun s n => noteLine tag n s) ?_ _ ⟨s.writer, s.dirty, s.flash, rfl⟩
  rintro _ n ⟨w, d, f, rfl⟩
  unfold noteLine
  dsimp only
  split
  · exact ⟨_, _, _, rfl⟩
  · exact ⟨w, d, f, rfl⟩

/-! ## Stamps (R203) -/

theorem rangeParts_one {sz va n : Nat} (hn : 0 < n) (h : (va + n - 1) / sz = va / sz) : rangeParts sz va n = [va] := by
  rw [rangeParts, if_neg (by omega), h, Nat.sub_self]
  rfl

/-- The stamp v is written at pa: no core and no channel sees it. -/
structure Stamps (s t : State) (pa v : Nat) : Prop where
  bytes : WritesBytes s t pa 8 v
  chans : t.chans = s.chans
  cores : t.cores = s.cores
  podreqs : t.podreqs = s.podreqs

theorem stampStore_stamps {a pa : Nat} (v : Nat) (look : engineLook s c 1 true a = .ok pa) (plain : PlainBytes s pa 8)
    (wf : Memory.wf s.mem = true) : Stamps s (stampStore c a v s) pa v := by
  have noPort : isArrive pa = false := by
    have bounds := inMemory_bounds (plain 0 (by decide)).1
    have base : 2 ^ 43 ≤ arrBase := by decide
    rw [isArrive, decide_eq_false (by omega), Bool.false_and]
  obtain ⟨w, d, f, written⟩ := memWrite_plain (s.chan c).tag (allPlain_run plain fun i => BitVec.ofNat 8 (v / 2 ^ (8 * i)))
  rw [stampStore, look]
  simp only [noPort, Bool.false_eq_true, if_false, written]
  refine ⟨⟨fun k hk => ?_, fun a ha => ?_⟩, rfl, rfl, rfl⟩
  · refine (get_putAll_run wf pa 8 (pa + k) fun i => BitVec.ofNat 8 (v / 2 ^ (8 * i))).trans ?_
    rw [if_pos (by omega), Nat.add_sub_cancel_left, byteOf_eq]
  · exact (get_putAll_run wf pa 8 a fun i => BitVec.ofNat 8 (v / 2 ^ (8 * i))).trans (if_neg (by omega))

theorem stampLook_ready {a pa : Nat} (aligned : a % 8 = 0) (look : engineLook s c 1 true a = .ok pa) (pod : podOf s pa = none) :
    stampLook s c a = .ready := by
  have route : noRoute s pa = false := by simp [noRoute, podPort, pod]
  rw [stampLook, if_neg (by omega), engineRanges, List.findSome?_cons, List.findSome?_nil]
  dsimp only
  rw [rangeParts_one (by decide) (by omega), List.findSome?_cons, List.findSome?_nil, look]
  simp [route]

/-- A head command that has its result writes its stamp, and ends. -/
theorem tryStamp_stamps {b : BitVec 9} {m : Cmd} {r : List Cmd} {code pa : Nat} (head : HeadOf s b m r) (near : NoneFar s)
    (result : m.result = some code) (park : m.park = none) (stamps : StampsAt s b m pa) (wf : Memory.wf s.mem = true) :
    ∃ u, Stamps s u pa (stampWord b.toNat code m) ∧ tryStamp b.toNat s = endCmd b.toNat m code none u := by
  obtain ⟨win, reqs⟩ := near
  obtain ⟨⟨a, addr, aligned, look⟩, plain, -⟩ := stamps
  refine ⟨stampStore b.toNat a (stampWord b.toNat code m) s, stampStore_stamps _ look plain wf, ?_⟩
  rw [tryStamp, head]
  simp only [result, park, Option.isSome_none, Bool.false_eq_true, if_false, addr,
    stampLook_ready aligned look (plain 0 (by decide)).2, engineFar_nil win, List.isEmpty_nil, Bool.not_true, farRefused_false reqs]

theorem stampWord_eq (b : BitVec 9) (m : Cmd) (code : Nat) : stampWord b.toNat code m = stampOf b m code := rfl

/-- What a command with a stamp leaves: the stamp, and a place in its channel. -/
theorem stamped_leaves {b : BitVec 9} {m : Cmd} {code pa : Nat} (h : Stamps s u pa (stampWord b.toNat code m)) (reqs : s.podreqs = [])
    (packet : m.packet = none) :
    Leaves b.toNat m (code ≠ 0) code s (endCmd b.toNat m code none u) ∧
      WritesBytes s (endCmd b.toNat m code none u) pa 8 (stampOf b m code) := by
  obtain ⟨leaves, mem⟩ := endCmd_leaves (c := b.toNat) (m := m) code none (h.podreqs.trans reqs) packet
  have shown : shownCode code none = code := by
    cases code with
    | zero => rfl
    | succ n => rfl
  rw [shown, Option.isSome_none, Bool.or_false] at leaves
  refine ⟨leaves_congr h.chans h.cores leaves, ?_⟩
  rw [WritesBytes, mem]
  exact h.bytes

end Sys2Proof.Machine
end

section
/-! SUPPORT. An access of an engine to a page of plain memory: what it meets at one byte it meets at the others (R201, R242, R243). -/

namespace Sys2Proof.Machine

open Host (Outcome)

variable {s : State} {va vb : Nat}

/-! ## Addresses of one page -/

theorem div_of_page {n : Nat} (page : va / 4096 = vb / 4096) (h : 12 ≤ n) : va / 2 ^ n = vb / 2 ^ n := by
  obtain ⟨k, rfl⟩ := Nat.exists_eq_add_of_le h
  rw [Nat.pow_add, ← Nat.div_div_eq_div_mul, ← Nat.div_div_eq_div_mul]
  exact congrArg (· / 2 ^ k) page

theorem bitsN_of_page {lo n : Nat} (page : va / 4096 = vb / 4096) (h : 12 ≤ lo) : bitsN va lo n = bitsN vb lo n := by
  rw [bitsN, div_of_page page h, bitsN]

theorem levelLo_ge {l : Nat} (h : l ≤ 5) : 12 ≤ levelLo l := by
  unfold levelLo
  split
  · decide
  · omega

/-- A walk reads no offset within a page. -/
theorem walkFrom_page (page : va / 4096 = vb / 4096) (f l tb : Nat) (h : l + f ≤ 6) : walkFrom s va f l tb = walkFrom s vb f l tb := by
  induction f generalizing l tb with
  | zero => rfl
  | succ f ih =>
    have low := levelLo_ge (show l ≤ 5 by omega)
    have index : tableIndex va l = tableIndex vb l := bitsN_of_page page low
    have bad (e : Nat) : malformed e va l = malformed e vb l := by rw [malformed, bitsN_of_page page (le_refl 12), malformed]
    have pre := div_of_page page low
    simp only [walkFrom, index, bad, pre, fun tb => ih (l + 1) tb (by omega)]

theorem walkRoot_page (page : va / 4096 = vb / 4096) (tag : Nat) : walkRoot s tag va = walkRoot s tag vb :=
  walkFrom_page page 5 1 _ (le_refl 6)

theorem leafBits_ge (w : WalkOut) : 12 ≤ leafBits w := by
  unfold leafBits
  split
  · decide
  · split
    · decide
    · split
      · decide
      · exact le_refl 12

theorem leafOf_page (page : va / 4096 = vb / 4096) (tag : Nat) (w : WalkOut) : leafOf tag va w = leafOf tag vb w := by
  rw [leafOf, div_of_page page (leafBits_ge w), leafOf]

theorem walkRes_page (page : va / 4096 = vb / 4096) (tag kind : Nat) (w : WalkOut) : walkRes tag va kind w = walkRes tag vb kind w := by
  simp only [walkRes, leafOf_page page]

/-- Offsets within a page pass through a leaf. -/
theorem pa_offset {l : Leaf} {x : Nat} (h : va % 4096 + x < 4096) : l.pa (va + x) = l.pa va + x := by
  have split : va = va / 4096 * 4096 + va % 4096 := (Nat.div_add_mod' va 4096).symm
  have page : va / 4096 * 4096 % 4096 = 0 := Nat.mul_mod_left ..
  rw [split, Nat.add_assoc, pa_add page h, pa_add page (by omega), Nat.add_assoc]

/-- What a unit's translation meets at one byte of a page it meets at a later one. -/
theorem unitLeaf_offset {tlb : List Leaf} {tag kind pa x : Nat} (h : va % 4096 + x < 4096)
    (ok : (unitLeaf s tlb tag kind va).2 = .ok pa) : (unitLeaf s tlb tag kind (va + x)).2 = .ok (pa + x) := by
  have page : (va + x) / 4096 = va / 4096 := by omega
  have hits (l : Leaf) : l.hits tag (va + x) = l.hits tag va := by rw [Leaf.hits, page, Leaf.hits]
  unfold unitLeaf at ok ⊢
  simp only [hits, walkRoot_page page, walkRes_page page]
  by_cases high : 2 ^ 60 ≤ va
  · rw [if_pos high] at ok
    cases ok
  · rw [if_neg high] at ok
    rw [if_neg (by omega)]
    revert ok
    cases tlb.find? (fun l => l.hits tag va && kindOk l.entry kind) with
    | some l =>
      intro ok
      rw [← ULook.ok.inj ok, ← pa_offset h]
    | none =>
      dsimp only
      cases walkRes tag va kind (walkRoot s tag va) with
      | none => nofun
      | some w =>
        cases w with
        | trap c => nofun
        | park e => nofun
        | leaf l =>
          intro ok
          rw [← ULook.ok.inj ok, ← pa_offset h]

/-! ## Plain memory -/

theorem accessOk_plain {pa x tag cls bit : Nat} (h : x < 4096) (first : inMemory pa = true ∧ podOf s pa = none)
    (last : inMemory (pa + x) = true ∧ podOf s (pa + x) = none) : accessOk s tag cls bit (pa + x) = accessOk s tag cls bit pa := by
  have low := inMemory_bounds first.1
  have high := inMemory_bounds last.1
  have top : hbmEnd = 2 ^ 41 := rfl
  have base : tierBase = 2 ^ 42 := rfl
  have tier : tierEnd = 2 ^ 43 := rfl
  have target : targetOf s (pa + x) = targetOf s pa := by
    unfold targetOf
    rw [first.2, last.2]
    by_cases hbm : pa < hbmEnd
    · rw [if_pos hbm, if_pos (by omega)]
    · rw [if_neg hbm, if_neg (show ¬pa + x < hbmEnd by omega), if_pos (show tierBase ≤ pa + x ∧ pa + x < tierEnd by omega),
        if_pos (show tierBase ≤ pa ∧ pa < tierEnd by omega)]
  rw [accessOk, target, accessOk]

theorem padAllowed_plain {pa : Nat} (tag : Nat) (h : inMemory pa = true) : padAllowed s tag pa = true :=
  if_neg (by rw [(not_mail_pad h).2]; decide)

theorem enginePlace_plain {pa : Nat} (stamp : Bool) (h : inMemory pa = true) : enginePlace stamp pa = true := by
  have home : hasHome pa = true := by
    rw [inMemory] at h
    rw [hasHome, h, Bool.true_or]
  rw [enginePlace, home, Bool.true_or, Bool.true_or, Bool.true_or, Bool.true_or]

/-- An engine's access meets an address: it translates to one that is not reserved, that its context may reach and that a payload or a
stamp may lie in. -/
theorem engineLook_ok_iff {c kind pa : Nat} {stamp : Bool} : engineLook s c kind stamp va = .ok pa ↔
    (unitLeaf s (s.etlbOf (c / 16)) (s.chan c).tag kind va).2 = .ok pa ∧ reservedPa s pa = false ∧
      accessOk s (s.chan c).tag 1 kind pa = true ∧ padAllowed s (s.chan c).tag pa = true ∧ enginePlace stamp pa = true := by
  unfold engineLook unitLook
  cases (unitLeaf s (s.etlbOf (c / 16)) (s.chan c).tag kind va).2 with
  | park e => simp [unitCheck]
  | fault f => simp [unitCheck]
  | poison => simp [unitCheck]
  | ok qa =>
    have checked : unitCheck s (s.chan c).tag 1 kind (.ok qa) = if reservedPa s qa then .fault cBAD_PA
      else if !accessOk s (s.chan c).tag 1 kind qa || !padAllowed s (s.chan c).tag qa then .fault cXLAT_PERM else .ok qa := rfl
    rw [checked]
    grind

/-- What an engine's access meets at one byte of a page, where both lie in plain memory, it meets at a later one. -/
theorem engineLook_offset {c kind pa x : Nat} {stamp : Bool} (h : va % 4096 + x < 4096) (look : engineLook s c kind stamp va = .ok pa)
    (first : inMemory pa = true ∧ podOf s pa = none) (last : inMemory (pa + x) = true ∧ podOf s (pa + x) = none)
    (free : reservedPa s (pa + x) = false) : engineLook s c kind stamp (va + x) = .ok (pa + x) := by
  obtain ⟨leaf, -, access, -, -⟩ := engineLook_ok_iff.1 look
  exact engineLook_ok_iff.2 ⟨unitLeaf_offset h leaf, free, accessOk_plain (by omega) first last ▸ access, padAllowed_plain _ last.1,
    enginePlace_plain stamp last.1⟩

/-! ## Reads of plain memory -/

theorem engineRanges_line {c kind pa va n : Nat} {stamp : Bool} (hn : 0 < n) (part : (va + n - 1) / 256 = va / 256)
    (line : (va + n - 1) / 128 = va / 128) (look : engineLook s c kind stamp va = .ok pa) (pod : podOf s pa = none)
    (clean : poisoned s pa = false) : engineRanges s c kind stamp [(va, n)] = .ready := by
  have route : noRoute s pa = false := by simp [noRoute, podPort, pod]
  simp [engineRanges, rangeParts_one hn part, rangeParts_one hn line, look, route, clean]

theorem unitByte_plain {c tag pa : Nat} (h : inMemory pa = true ∧ podOf s pa = none) : unitByte s c tag pa = Memory.get s.mem pa := by
  rw [unitByte, h.2]
  exact memByte_plain h.1 h.2

theorem engineByte_plain {c pa : Nat} (look : engineLook s c 0 false va = .ok pa) (h : inMemory pa = true ∧ podOf s pa = none) :
    engineByte s c va = Memory.get s.mem pa := by
  rw [engineByte, look]
  exact unitByte_plain h

/-- A run of bytes of one page that an engine reads from plain memory. -/
theorem readLe_engineByte {c pa n : Nat} (page : va % 4096 + n ≤ 4096) (hn : 0 < n) (look : engineLook s c 0 false va = .ok pa)
    (plain : PlainBytes s pa n) (free : ∀ i < n, reservedPa s (pa + i) = false) :
    readLe (engineByte s c) va n = Memory.read s.mem pa n := by
  rw [readLe, ← leNat_range_get]
  refine congrArg leNat (List.map_congr_left fun i hi => ?_)
  have small := List.mem_range.1 hi
  exact engineByte_plain (engineLook_offset (by omega) look (plain 0 hn) (plain i small) (free i small)) (plain i small)

end Sys2Proof.Machine
end

section
/-! PROOF. What a command of a copy engine writes, by its template (O41; R44, R198 to R200, R376). -/

namespace Sys2Proof.Machine

variable {rd : Nat → Byte} {t : Tmpl} {r k : Nat}

/-! ## The bytes of a row -/

theorem rowBytes_eq (w : Nat) (l : List Nat) :
    rowBytes w l = (List.range ((l.length * w + 7) / 8)).map (fun i => BitVec.ofNat 8 (ofElemsN w l / 2 ^ (8 * i))) := rfl

/-- Element k of a row of whole-byte elements, byte by byte. -/
theorem rowBytes_getElem? {b j v : Nat} {l : List Nat} (hk : l[k]? = some v) (hj : j < b) :
    (rowBytes (8 * b) l)[k * b + j]? = some (BitVec.ofNat 8 (v / 2 ^ (8 * j))) := by
  have len : k < l.length := (List.getElem?_eq_some_iff.1 hk).1
  have fits : k * b + j < (l.length * (8 * b) + 7) / 8 := by
    have rows : (k + 1) * b ≤ l.length * b := Nat.mul_le_mul_right b len
    have bits : l.length * (8 * b) = 8 * (l.length * b) := by ring
    rw [Nat.succ_mul] at rows
    omega
  have elem : ofElemsN (8 * b) l / 2 ^ (8 * b * k) % 2 ^ (8 * b) = v % 2 ^ (8 * b) := by
    have := bits_ofElemsN (8 * b) l k
    rwa [bitsN, nthN, List.getD_eq_getElem?_getD, hk, Option.getD_some] at this
  have byte : bitsN (ofElemsN (8 * b) l / 2 ^ (8 * b * k)) (8 * j) 8 = bitsN v (8 * j) 8 := by
    rw [← bitsN_mod (show 8 * j + 8 ≤ 8 * b by omega), elem, bitsN_mod (show 8 * j + 8 ≤ 8 * b by omega)]
  have place : 2 ^ (8 * (k * b + j)) = 2 ^ (8 * b * k) * 2 ^ (8 * j) := by rw [← Nat.pow_add]; ring_nf
  rw [rowBytes_eq, List.getElem?_map, List.getElem?_range fits, Option.map_some, place, ← Nat.div_div_eq_div_mul]
  exact congrArg some (BitVec.eq_of_toNat_eq (by simpa only [BitVec.toNat_ofNat, bitsN] using byte))

theorem length_rowBytes (b : Nat) (l : List Nat) : (rowBytes (8 * b) l).length = l.length * b := by
  have bits : l.length * (8 * b) = 8 * (l.length * b) := by ring
  rw [rowBytes_eq, List.length_map, List.length_range, bits]
  omega

/-! ## What a template writes -/

/-- Row r of the destination before its encryption, and its scale words. -/
def plainRow (rd : Nat → Byte) (t : Tmpl) (r : Nat) : List Byte × List Nat := dstRow (decByte rd t) rd t r

theorem decByte_eq (h : t.kd % 2 = 0) : decByte rd t = rd := funext fun a => if_neg (by omega)

theorem encRow_eq (h : t.kd < 2) (a : Nat) (l : List Byte) : encRow t a l = l := if_neg (by omega)

theorem plainRow_eq (h : t.kd % 2 = 0) : plainRow rd t r = dstRow rd rd t r := by rw [plainRow, decByte_eq h]

theorem tmplOut_eq (h : t.empty = false) : tmplOut rd t =
    ((List.range t.rows).map (fun r => (encRow t (rowAddr t.dst t.ds r) (plainRow rd t r).1).zipIdx.map
      (fun b => (rowAddr t.dst t.ds r + b.2, b.1)))).flatten ++
    (rowBytes 32 ((List.range t.rows).map (fun r => (plainRow rd t r).2)).flatten).zipIdx.map (fun b => (t.scd + b.2, b.1)) := by
  rw [tmplOut, if_neg (by rw [h]; decide)]
  dsimp only
  rw [List.map_map, List.map_map]
  rfl

/-- Byte i of a list is written i bytes behind the list's address. -/
theorem mem_placed {base i : Nat} {b : Byte} {l : List Byte} (h : l[i]? = some b) :
    (base + i, b) ∈ l.zipIdx.map (fun b => (base + b.2, b.1)) :=
  List.mem_map.2 ⟨(b, i), List.mem_zipIdx_iff_getElem?.2 h, rfl⟩

theorem mem_tmplOut_row {i : Nat} {b : Byte} (h : t.empty = false) (hr : r < t.rows)
    (hb : (encRow t (rowAddr t.dst t.ds r) (plainRow rd t r).1)[i]? = some b) :
    (rowAddr t.dst t.ds r + i, b) ∈ tmplOut rd t := by
  rw [tmplOut_eq h]
  exact List.mem_append_left _ (List.mem_flatten.2
    ⟨_, List.mem_map.2 ⟨r, List.mem_range.2 hr, rfl⟩, mem_placed hb⟩)

theorem mem_tmplOut_scale {i : Nat} {b : Byte} (h : t.empty = false)
    (hb : (rowBytes 32 ((List.range t.rows).map (fun r => (plainRow rd t r).2)).flatten)[i]? = some b) :
    (t.scd + i, b) ∈ tmplOut rd t := by
  rw [tmplOut_eq h]
  exact List.mem_append_right _ (mem_placed hb)

/-- A command writes the elements of its rows, where it does not encrypt them. -/
theorem moves_of_row {v : Nat} {l : List Nat} (h : t.empty = false) (hr : r < t.rows) (near : t.kd < 2)
    (whole : tyWidth t.dt % 8 = 0) (row : (plainRow rd t r).1 = rowBytes (tyWidth t.dt) l) (hk : l[k]? = some v) :
    Moves rd t r k v := by
  intro j hj
  obtain ⟨b, hb⟩ : ∃ b, tyWidth t.dt = 8 * b := ⟨_, (Nat.mul_div_cancel' (Nat.dvd_of_mod_eq_zero whole)).symm⟩
  have eighth : tyWidth t.dt / 8 = b := by omega
  rw [eighth] at hj ⊢
  rw [Nat.add_assoc]
  refine mem_tmplOut_row h hr ?_
  rw [encRow_eq near, row, hb]
  exact rowBytes_getElem? hk hj

/-! ## Elements that are converted (R198, R199) -/

theorem dstRow_elems (kind : t.kind ≠ 3) (list : t.kind = 2 → (rowOfDst rd t r).1 ≠ none) (block : isBlock t.dt = false) :
    (dstRow rd rd t r).1 = rowBytes (tyWidth t.dt)
      ((List.range t.cols).map (fun k => convertElem rd rd t (srcAt t (rowOfDst rd t r).1 (rowOfDst rd t r).2 k))) := by
  have known : ¬((decide (t.kind = 2) && (rowOfDst rd t r).1.isNone) = true) := by
    rw [Bool.and_eq_true, decide_eq_true_eq, Option.isNone_iff_eq_none]
    exact fun e => list e.1 e.2
  simp only [dstRow, if_neg kind, if_neg known, block, Bool.false_eq_true, if_false]

theorem isMx_of_typeOf {c : Nat} {f : FpFmt} (h : typeOf c = some (.mx f)) : isMx c = true := by
  unfold typeOf at h
  split at h
  all_goals cases h
  all_goals rfl

theorem convertElem_none : convertElem rd rd t none = padRaw t := rfl

theorem convertElem_some (h : WholeElements t) (y x : Nat) : convertElem rd rd t (some (y, x)) = elemAs rd t y x := by
  obtain ⟨noBlock, noMx, -, -, src, dst, -, -⟩ := h
  obtain ⟨e, he⟩ := Option.isSome_iff_exists.1 src
  obtain ⟨d, hd⟩ := Option.isSome_iff_exists.1 dst
  have value (raw : Nat) : srcVal rd t raw y x = elemVal e raw := by
    rw [srcVal, if_neg (by rw [noBlock]; decide), he]
    cases e with
    | mx f => exact absurd (isMx_of_typeOf he) (by rw [noMx]; decide)
    | _ => rfl
  simp only [convertElem, elemAs, he, hd, value]

theorem srcAt_inside {y : Nat} {x : Int} {c : Nat} (h : x + k = c) (hc : c < t.srcWidth) : srcAt t (some y) x k = some (y, c) := by
  have inside : 0 ≤ x + k ∧ x + k < t.srcWidth := by omega
  rw [srcAt, if_pos inside, h, Int.toNat_natCast]

theorem srcAt_outside {y : Nat} {x : Int} (h : ¬(0 ≤ x + k ∧ x + k < t.srcWidth)) : srcAt t (some y) x k = none := if_neg h

/-- An element that is taken from the source, or the pad. -/
theorem moves_elem (h : WholeElements t) (plain : t.kd = 0) (full : t.empty = false) (hr : r < t.rows) (hk : k < t.cols)
    (kind : t.kind ≠ 3) (list : t.kind = 2 → (rowOfDst rd t r).1 ≠ none) :
    Moves rd t r k (convertElem rd rd t (srcAt t (rowOfDst rd t r).1 (rowOfDst rd t r).2 k)) := by
  obtain ⟨-, -, noBlock, -, -, -, -, whole⟩ := h
  refine moves_of_row full hr (by omega) whole ?_
    (by rw [List.getElem?_map, List.getElem?_range hk, Option.map_some])
  rw [plainRow_eq (by omega), dstRow_elems kind list noBlock]

theorem moves_lin (h : WholeElements t) (plain : t.kd = 0) (full : t.empty = false) (hr : r < t.rows) (hk : k < t.cols)
    (kind : t.kind = 0) : Moves rd t r k (elemAs rd t r k) := by
  have row : rowOfDst rd t r = (some r, 0) := by simp only [rowOfDst, kind]
  have width : t.srcWidth = t.cols := by rw [Tmpl.srcWidth, Tmpl.cols, kind]; rfl
  have moves := moves_elem (rd := rd) h plain full hr hk (by omega) (by omega)
  rwa [row, srcAt_inside (Int.zero_add _) (width ▸ hk), convertElem_some h] at moves

theorem moves_tile (h : WholeElements t) (plain : t.kd = 0) (full : t.empty = false) (hr : r < t.rows) (hk : k < t.cols)
    (kind : t.kind = 1) :
    let y : Int := t.y0 - t.h1 + r
    let x : Int := t.x0 - t.h0 + k
    (0 ≤ y ∧ y < t.th ∧ 0 ≤ x ∧ x < t.tw → Moves rd t r k (elemAs rd t y.toNat x.toNat)) ∧
    (¬(0 ≤ y ∧ y < t.th ∧ 0 ≤ x ∧ x < t.tw) → Moves rd t r k (padRaw t)) := by
  intro y x
  have row : rowOfDst rd t r = (if 0 ≤ y ∧ y < t.th then some y.toNat else none, t.x0 - t.h0) := by simp only [rowOfDst, kind]; rfl
  have width : t.srcWidth = t.tw := if_pos kind
  have moves := moves_elem (rd := rd) h plain full hr hk (by omega) (by omega)
  rw [row] at moves
  constructor
  · rintro ⟨top, bottom, left, right⟩
    rwa [if_pos ⟨top, bottom⟩, srcAt_inside (c := x.toNat) (Int.toNat_of_nonneg left).symm (by omega), convertElem_some h] at moves
  · intro out
    by_cases rows : 0 ≤ y ∧ y < t.th
    · rwa [if_pos rows, srcAt_outside (by rw [width]; omega), convertElem_none] at moves
    · rwa [if_neg rows] at moves

theorem dstRow_missing (kind : t.kind = 2) (past : (rowOfDst rd t r).1 = none) :
    (dstRow rd rd t r).1 = rowBytes (tyWidth t.dt) (List.replicate t.n0 0) := by
  have missing : (decide (t.kind = 2) && (rowOfDst rd t r).1.isNone) = true := by rw [kind, past]; rfl
  simp only [dstRow, if_neg (show ¬t.kind = 3 by omega), if_pos missing]

theorem moves_gath (h : WholeElements t) (plain : t.kd = 0) (full : t.empty = false) (hr : r < t.rows) (hk : k < t.cols)
    (kind : t.kind = 2) :
    let i := readLe rd (t.idx + 4 * r) 4
    (i < t.gh → Moves rd t r k (elemAs rd t i k)) ∧ (t.gh ≤ i → Moves rd t r k 0) := by
  intro i
  have row : rowOfDst rd t r = (if i < t.gh then some i else none, 0) := by simp only [rowOfDst, kind]; rfl
  have width : t.srcWidth = t.cols := by rw [Tmpl.srcWidth, Tmpl.cols, kind]; rfl
  constructor
  · intro known
    rw [if_pos known] at row
    have moves := moves_elem (rd := rd) h plain full hr hk (by omega) (fun _ => by rw [row]; nofun)
    rwa [row, srcAt_inside (Int.zero_add _) (width ▸ hk), convertElem_some h] at moves
  · intro past
    obtain ⟨-, -, -, -, -, -, -, whole⟩ := h
    have cols : t.cols = t.n0 := if_neg (by omega)
    refine moves_of_row full hr (by omega) whole ?_ (List.getElem?_replicate_of_lt (cols ▸ hk))
    rw [plainRow_eq (by omega), dstRow_missing kind (by rw [row]; exact if_neg (by omega))]

/-! ## Sums (R198) -/

theorem moves_radd (plain : t.kd = 0) (full : t.empty = false) (hr : r < t.rows) (hk : k < t.cols) (kind : t.kind = 3)
    (width : tyWidth t.dt = 32) : Moves rd t r k (raddElem rd rd t r k) := by
  have cols : t.cols = t.n0 := if_neg (by omega)
  refine moves_of_row (l := (List.range t.n0).map (raddElem rd rd t r)) full hr (by omega) (by omega) ?_
    (by rw [List.getElem?_map, List.getElem?_range (cols ▸ hk), Option.map_some])
  simp only [plainRow_eq (show t.kd % 2 = 0 by omega), dstRow, if_pos kind, width]

theorem raddElem_f32 (one : t.ns = 0) (st : t.st = 8) (dt : t.dt = 8) : raddElem rd rd t r k =
    toFp f32 0 (fAdd (fpVal f32 (elemRaw rd (rowAddr t.dst t.ds r) k 32)) (fpVal f32 (elemRaw rd (rowAddr t.src t.ss r) k 32))) := by
  simp only [raddElem, one, if_pos dt, st]
  rfl

theorem wrapN_sextN (x n : Nat) : wrapN (sextN x n) n = x % 2 ^ n := by
  rw [wrapN, sextN]
  split
  · rw [Int.sub_emod_right, ← Int.natCast_emod, Int.toNat_natCast, Nat.mod_mod]
  · rw [← Int.natCast_emod, Int.toNat_natCast, Nat.mod_mod]

theorem raddElem_i32 (two : t.ns = 1) (st : t.st = 2) (dt : t.dt = 2) : raddElem rd rd t r k =
    (elemRaw rd (rowAddr t.dst t.ds r) k 32 + elemRaw rd (rowAddr t.src t.ss r) k 32 +
      elemRaw rd (rowAddr (t.srcN 1) t.ss r) k 32) % 2 ^ 32 := by
  have src : t.srcN 0 = t.src := if_pos rfl
  have width : tyWidth 2 = 32 := rfl
  have signed : tySigned 2 = true := rfl
  simp only [raddElem, two, show List.range (1 + 1) = [0, 1] by rfl, List.foldl_cons, List.foldl_nil, dt, st, src, width, signed,
    if_true, wrapN_sextN]
  rw [if_neg (by decide), if_neg (by decide)]
  simp only [Nat.add_mod, Nat.mod_mod]

/-! ## Blocks (R44, R199) -/

/-- Entry i of list b, among lists of one length put one after the other. -/
theorem getElem?_flatten_of_length {α : Type} {n b i : Nat} {x : List α} {v : α} {l : List (List α)} (hl : ∀ y ∈ l, y.length = n)
    (hb : l[b]? = some x) (hi : x[i]? = some v) : l.flatten[b * n + i]? = some v := by
  induction l generalizing b with
  | nil => exact absurd hb (by simp)
  | cons y l ih =>
    obtain ⟨hy, hl⟩ := List.forall_mem_cons.1 hl
    rw [List.flatten_cons]
    cases b with
    | zero =>
      obtain rfl : y = x := by simpa using hb
      rw [Nat.zero_mul, Nat.zero_add, List.getElem?_append_left (List.getElem?_eq_some_iff.1 hi).1, hi]
    | succ b =>
      rw [List.getElem?_append_right (by rw [Nat.succ_mul]; omega), hy,
        show (b + 1) * n + i - n = b * n + i by rw [Nat.succ_mul]; omega]
      exact ih hl (by simpa using hb)

theorem length_quantBlock (w mode : Nat) (xs : List FVal) : (quantBlock w mode xs).1.length = xs.length := by
  unfold quantBlock
  split
  · exact List.length_map _
  · split
    · exact List.length_map _
    · exact List.length_map _

/-- The quantised block b of row r of a source of type f32. -/
def quantOf (rd : Nat → Byte) (t : Tmpl) (r b : Nat) : List Int × Nat :=
  quantBlock 8 t.rm ((List.range 32).map (fun i => fpVal f32 (elemRaw rd (rowAddr t.src t.ss r) (32 * b + i) 32)))

theorem length_quantOf (b : Nat) : (quantOf rd t r b).1.length = 32 := by
  rw [quantOf, length_quantBlock, List.length_map, List.length_range]

theorem convertBlock_f32 {b : Nat} (st : t.st = 8) (dt : t.dt = 22) (inside : 32 * b + 32 ≤ t.srcWidth) :
    convertBlock rd rd t (some r) 0 b = quantOf rd t r b := by
  have places : (List.range 32).map (fun i => srcAt t (some r) 0 (32 * b + i)) = (List.range 32).map (fun i => some (r, 32 * b + i)) :=
    List.map_congr_left fun i hi => srcAt_inside (Int.zero_add _) (by have := List.mem_range.1 hi; omega)
  have present : ((List.range 32).map (fun i => some (r, 32 * b + i))).all Option.isSome = true := by simp
  have aligned : ((0 : Int) + 32 * (b : Nat)) % 32 = 0 := by omega
  have first : ((List.range 32).map (fun i => some (r, 32 * b + i))).head?.join = some (r, 32 * b + 0) := rfl
  have value (raw y x : Nat) : srcVal rd t raw y x = fpVal f32 raw := by rw [srcVal, st]; rfl
  have width : blockW 22 = 8 := rfl
  have wide : tyWidth 8 = 32 := rfl
  simp only [convertBlock, places, present, aligned, decide_true, Bool.and_self, if_true, first, st, dt, quantOf]
  rw [if_neg (by decide), if_neg (by decide), List.map_map, width, wide]
  exact congrArg (quantBlock 8 t.rm) (List.map_congr_left fun i _ => value _ _ _)

theorem plainRow_blocks (kind : t.kind = 0) (plain : t.kd = 0) (st : t.st = 8) (dt : t.dt = 22) (whole : t.n0 % 32 = 0) :
    plainRow rd t r =
      (rowBytes 8 ((List.range (t.n0 / 32)).map (fun b => (quantOf rd t r b).1.map (fun m => wrapN m 8))).flatten,
        (List.range (t.n0 / 32)).map (fun b => (quantOf rd t r b).2)) := by
  have row : rowOfDst rd t r = (some r, 0) := by simp only [rowOfDst, kind]
  have cols : t.cols = t.n0 := if_neg (by omega)
  have srcWidth : t.srcWidth = t.n0 := if_neg (by omega)
  have width : tyWidth 22 = 8 := rfl
  have blocks : (List.range (t.n0 / 32)).map (convertBlock rd rd t (some r) 0) = (List.range (t.n0 / 32)).map (quantOf rd t r) :=
    List.map_congr_left fun b hb => convertBlock_f32 st dt (by have := List.mem_range.1 hb; omega)
  have known : ¬((decide (t.kind = 2) && (some r).isNone) = true) := by simp
  simp only [plainRow_eq (show t.kd % 2 = 0 by omega), dstRow, row, if_neg (show ¬t.kind = 3 by omega), if_neg known, dt, width, cols,
    blocks, List.map_map]
  rfl

theorem moves_block {b i : Nat} {m : Int} (kind : t.kind = 0) (plain : t.kd = 0) (st : t.st = 8) (dt : t.dt = 22)
    (full : t.empty = false) (whole : t.n0 % 32 = 0) (hr : r < t.n1) (hb : b < t.n0 / 32) (hm : (quantOf rd t r b).1[i]? = some m) :
    Moves rd t r (32 * b + i) (wrapN m 8) := by
  have width : tyWidth t.dt = 8 := by rw [dt]; rfl
  have rows : t.rows = t.n1 := if_neg (by omega)
  refine moves_of_row full (rows ▸ hr) (by omega) (by omega) (by rw [plainRow_blocks kind plain st dt whole, width]) ?_
  rw [Nat.mul_comm]
  refine getElem?_flatten_of_length (x := (quantOf rd t r b).1.map (fun m => wrapN m 8)) ?_ ?_ ?_
  · intro y hy
    obtain ⟨c, -, rfl⟩ := List.mem_map.1 hy
    rw [List.length_map, length_quantOf]
  · rw [List.getElem?_map, List.getElem?_range hb, Option.map_some]
  · rw [List.getElem?_map, hm, Option.map_some]

theorem scale_written {b j : Nat} (kind : t.kind = 0) (plain : t.kd = 0) (st : t.st = 8) (dt : t.dt = 22)
    (full : t.empty = false) (whole : t.n0 % 32 = 0) (hr : r < t.n1) (hb : b < t.n0 / 32) (hj : j < 4) :
    (t.scd + 4 * (r * (t.n0 / 32) + b) + j, BitVec.ofNat 8 ((quantOf rd t r b).2 / 2 ^ (8 * j))) ∈ tmplOut rd t := by
  have rows : t.rows = t.n1 := if_neg (by omega)
  have words : ((List.range t.rows).map (fun r => (plainRow rd t r).2)).flatten[r * (t.n0 / 32) + b]? = some (quantOf rd t r b).2 := by
    refine getElem?_flatten_of_length (x := (plainRow rd t r).2) ?_ ?_ ?_
    · intro y hy
      obtain ⟨c, -, rfl⟩ := List.mem_map.1 hy
      rw [plainRow_blocks kind plain st dt whole, List.length_map, List.length_range]
    · rw [List.getElem?_map, List.getElem?_range (rows ▸ hr), Option.map_some]
    · rw [plainRow_blocks kind plain st dt whole, List.getElem?_map, List.getElem?_range hb, Option.map_some]
  rw [Nat.add_assoc, Nat.mul_comm 4]
  exact mem_tmplOut_scale full (rowBytes_getElem? words hj)

/-! ## Encrypted rows (R200, R376) -/

/-- A row of bytes that a command copies. -/
theorem plainRow_bytes (kind : t.kind = 0) (st : t.st = 4) (dt : t.dt = 4) :
    (plainRow rd t r).1 = (List.range t.n0).map (fun i => decByte rd t (rowAddr t.src t.ss r + i)) := by
  have row : rowOfDst rd t r = (some r, 0) := by simp only [rowOfDst, kind]
  have cols : t.cols = t.n0 := if_neg (by omega)
  have srcWidth : t.srcWidth = t.n0 := if_neg (by omega)
  have width : tyWidth 4 = 8 := rfl
  have elem (i : Nat) : elemRaw (decByte rd t) (rowAddr t.src t.ss r) i 8 = (decByte rd t (rowAddr t.src t.ss r + i)).toNat := by
    have at' : i * 8 / 8 = i := by omega
    have off : i * 8 % 8 = 0 := by omega
    rw [elemRaw, at', off, bitsN, readLe]
    simpa [leNat] using (decByte rd t (rowAddr t.src t.ss r + i)).isLt
  have values : (List.range t.n0).map (fun k => convertElem (decByte rd t) rd t (srcAt t (some r) 0 k)) =
      (List.range t.n0).map (fun i => (decByte rd t (rowAddr t.src t.ss r + i)).toNat) :=
    List.map_congr_left fun i hi => by
      rw [srcAt_inside (Int.zero_add _) (srcWidth ▸ List.mem_range.1 hi), convertElem, if_pos (st.trans dt.symm), st, width, elem]
  have known : ¬((decide (t.kind = 2) && (some r).isNone) = true) := by simp
  have noBlock : ¬isBlock 4 = true := by decide
  simp only [plainRow, dstRow, row, if_neg (show ¬t.kind = 3 by omega), if_neg known, dt, width, cols, values, if_neg noBlock]
  refine List.ext_getElem? fun i => ?_
  by_cases hi : i < t.n0
  · have := rowBytes_getElem? (b := 1) (j := 0)
      (l := (List.range t.n0).map (fun i => (decByte rd t (rowAddr t.src t.ss r + i)).toNat)) (k := i)
      (by rw [List.getElem?_map, List.getElem?_range hi, Option.map_some]) (by decide)
    rw [Nat.mul_one, Nat.mul_one, Nat.add_zero] at this
    rw [this, List.getElem?_map, List.getElem?_range hi, Option.map_some]
    simp
  · rw [List.getElem?_eq_none (by rw [length_rowBytes 1, List.length_map, List.length_range]; omega),
      List.getElem?_eq_none (by rw [List.length_map, List.length_range]; omega)]

/-- A byte of n bytes that lie m bytes into a string. -/
theorem leNat_part {m n : Nat} {l : List Byte} (h : m + n ≤ l.length) :
    leNat l / 256 ^ m % 256 ^ n = leNat ((l.drop m).take n) := by
  have pos (x : Nat) : 0 < 256 ^ x := Nat.pow_pos (by decide)
  have head : (l.take m).length = m := List.length_take_of_le (by omega)
  have part : ((l.drop m).take n).length = n := List.length_take_of_le (by rw [List.length_drop]; omega)
  have front := leNat_append (l.take m) (l.drop m)
  have back := leNat_append ((l.drop m).take n) ((l.drop m).drop n)
  have first : leNat (l.take m) < 256 ^ m := by simpa only [head] using leNat_lt (l.take m)
  have second : leNat ((l.drop m).take n) < 256 ^ n := by simpa only [part] using leNat_lt ((l.drop m).take n)
  rw [List.take_append_drop, head] at front
  rw [List.take_append_drop, part] at back
  rw [front, Nat.add_mul_div_left _ _ (pos m), Nat.div_eq_of_lt first, Nat.zero_add, back, Nat.add_mul_mod_self_left,
    Nat.mod_eq_of_lt second]

/-- A unit of a row of bytes, as a number. -/
theorem leNat_unit {m n k : Nat} (f : Nat → Byte) (h : m + n ≤ k) :
    leNat ((List.range k).map f) / 256 ^ m % 256 ^ n = leNat ((List.range n).map (fun i => f (m + i))) := by
  rw [leNat_part (by rw [List.length_map, List.length_range]; exact h)]
  refine congrArg leNat (List.ext_getElem (by simp; omega) fun i _ _ => ?_)
  simp

/-- Unit u of w bits of a number that bytes make up, each unit n bytes. -/
theorem ofNat_unit {w n u x y : Nat} (hw : w = 8 * n) (h : x / 256 ^ (n * u) % 256 ^ n = y) :
    BitVec.ofNat w (x / 2 ^ (w * u)) = BitVec.ofNat w y := by
  subst hw
  have power (k : Nat) : 2 ^ (8 * k) = 256 ^ k := Nat.pow_mul 2 8 k
  refine BitVec.eq_of_toNat_eq ?_
  rw [BitVec.toNat_ofNat, BitVec.toNat_ofNat, ← h, Nat.mul_assoc, power, power, Nat.mod_mod]

theorem ofNat8_field {w : Nat} (x : BitVec w) (lo : Nat) : BitVec.ofNat 8 (field x lo 8) = BitVec.ofNat 8 (x.toNat / 2 ^ lo) :=
  BitVec.eq_of_toNat_eq (by simp only [BitVec.toNat_ofNat, field, bitsN, Nat.mod_mod])

/-- The bytes of unit u of an encrypted row. -/
theorem encRow_getElem? {a u i : Nat} {l : List Byte} (crypt : 2 ≤ t.kd) (hu : u < l.length / 4096) (hi : i < 4096) :
    (encRow t a l)[u * 4096 + i]? = some (BitVec.ofNat 8 (field
      (Config.xts true t.key (a / 4096 + u) (BitVec.ofNat 32768 (leNat l / 2 ^ (32768 * u)))) (8 * i) 8)) := by
  rw [encRow, if_pos crypt]
  refine getElem?_flatten_of_length ?_ (by rw [List.getElem?_map, List.getElem?_range hu, Option.map_some])
    (by rw [List.getElem?_map, List.getElem?_range hi, Option.map_some])
  intro y hy
  obtain ⟨v, -, rfl⟩ := List.mem_map.1 hy
  rw [List.length_map, List.length_range]

section
variable {i : Nat} (kind : t.kind = 0) (st : t.st = 4) (dt : t.dt = 4) (full : t.empty = false)
  (hr : r < t.n1) (hi : i < t.n0)
include kind st dt full hr hi

theorem encrypted_written (whole : t.n0 % 4096 = 0) (dst : rowAddr t.dst t.ds r % 4096 = 0) (crypt : t.kd = 2) :
    let a := rowAddr t.src t.ss r + i / 4096 * 4096
    let d := rowAddr t.dst t.ds r + i / 4096 * 4096
    (d + i % 4096, BitVec.ofNat 8 ((Config.xts true t.key (d / 4096) (BitVec.ofNat 32768 (readLe rd a 4096))).toNat /
      2 ^ (8 * (i % 4096)))) ∈ tmplOut rd t := by
  intro a d
  have rows : t.rows = t.n1 := if_neg (by omega)
  have sector : rowAddr t.dst t.ds r / 4096 + i / 4096 = d / 4096 := by omega
  have bytes := plainRow_bytes (rd := rd) (r := r) kind st dt
  rw [decByte_eq (show t.kd % 2 = 0 by omega)] at bytes
  have unit : BitVec.ofNat 32768 (leNat (plainRow rd t r).1 / 2 ^ (32768 * (i / 4096))) = BitVec.ofNat 32768 (readLe rd a 4096) := by
    have part := leNat_unit (m := 4096 * (i / 4096)) (n := 4096) (fun k => rd (rowAddr t.src t.ss r + k)) (k := t.n0) (by omega)
    have base : ∀ k, rowAddr t.src t.ss r + (4096 * (i / 4096) + k) = a + k := fun k => by omega
    simp only [base] at part
    rw [← bytes] at part
    exact ofNat_unit rfl part
  have byte := encRow_getElem? (a := rowAddr t.dst t.ds r) (u := i / 4096) (i := i % 4096) (l := (plainRow rd t r).1) crypt.ge
    (by rw [bytes, List.length_map, List.length_range]; omega) (by omega)
  rw [ofNat8_field, unit, sector] at byte
  have place : d + i % 4096 = rowAddr t.dst t.ds r + (i / 4096 * 4096 + i % 4096) := by omega
  rw [place]
  exact mem_tmplOut_row full (rows ▸ hr) byte

theorem decrypted_written (src : rowAddr t.src t.ss r % 4096 = 0) (crypt : t.kd = 1) :
    let a := rowAddr t.src t.ss r + i / 4096 * 4096
    let d := rowAddr t.dst t.ds r + i / 4096 * 4096
    (d + i % 4096, BitVec.ofNat 8 ((Config.xts false t.key (a / 4096) (BitVec.ofNat 32768 (readLe rd a 4096))).toNat /
      2 ^ (8 * (i % 4096)))) ∈ tmplOut rd t := by
  intro a d
  have rows : t.rows = t.n1 := if_neg (by omega)
  have sector : (rowAddr t.src t.ss r + i) / 4096 = a / 4096 := by omega
  have unit : a / 4096 * 4096 = a := by omega
  have off : (rowAddr t.src t.ss r + i) % 4096 = i % 4096 := by omega
  have place : d + i % 4096 = rowAddr t.dst t.ds r + i := by omega
  rw [place]
  refine mem_tmplOut_row full (rows ▸ hr) ?_
  rw [encRow_eq (by omega), plainRow_bytes kind st dt, List.getElem?_map, List.getElem?_range hi, Option.map_some, decByte,
    if_pos (by omega)]
  dsimp only
  rw [sector, unit, off, ofNat8_field]

end

/-- What a command writes, by its template (R44, R198 to R200, R376). -/
theorem claim_copyValues : Claim.CopyValues := by
  refine ⟨?_, ?_, ?_⟩
  · intro rd t r k h plain full hr hk
    refine ⟨fun kind => moves_lin h plain full hr hk kind, fun kind => moves_tile h plain full hr hk kind,
      fun kind => moves_gath h plain full hr hk kind, fun kind one st dt => ?_, fun kind two st dt => ?_⟩
    · exact raddElem_f32 one st dt ▸ moves_radd plain full hr hk kind (by rw [dt]; rfl)
    · exact raddElem_i32 two st dt ▸ moves_radd plain full hr hk kind (by rw [dt]; rfl)
  · intro rd t r b kind plain st dt full whole hr hb q
    exact ⟨fun i m hm => moves_block kind plain st dt full whole hr hb hm,
      fun j hj => scale_written kind plain st dt full whole hr hb hj⟩
  · intro rd t r i kind st dt full whole hr hi aligned a d unit
    obtain ⟨src, dst⟩ := aligned r hr
    exact ⟨fun crypt => encrypted_written kind st dt full hr hi whole dst crypt,
      fun crypt => decrypted_written kind st dt full hr hi src crypt⟩

end Sys2Proof.Machine
end

section
/-! PROOF. Commands of the copy engines are accepted, become active, finish and fail (O41; R185, R191, R194 to R207, R310). -/

namespace Sys2Proof.Machine

open Host (Outcome)

variable {s t u : State} {m : Cmd} {r : List Cmd}

/-! ## Acceptance (R185, R194, R310) -/

section
variable {n : CoreId} {i : BitVec 6} {q : Req StOp} {marker : Bool} {token : Option Nat} {owner : Nat}

theorem sqPlace_task (at_i : (taskOf s n).sq[i.toNat]? = some q) : (s.core n.toNat).sqPlace i.toNat = (false, i.toNat) :=
  if_pos (List.getElem?_eq_some_iff.1 at_i).1

/-- A command that a core may not give leaves the store queue; its token, if it produces one, becomes failed (R185, R191). -/
def refuseGo (n : CoreId) (i : BitVec 6) (token : Option Nat) (owner : Nat) (s : State) : State :=
  let s1 := refuseAt n.toNat (dropStore n.toNat false i.toNat s)
  match token with
  | some k => settleToken n.toNat k owner false s1
  | none => s1

/-- The command of a core, as its channel takes it. -/
def acceptedCmd (s : State) (n : CoreId) (q : Req StOp) (marker : Bool) (owner c : Nat) : Cmd :=
  newCmd s c (vecWord q.val) marker (some n.toNat) none owner (regsOf s n).lim.parkLimit.toNat (readyNow s n.toNat (vecWord q.val))

/-- A core's command that may reach its channel is refused, held or accepted. -/
theorem acceptCore_ready {c : Nat} (ready : CommandReady s n i q marker token owner) (place : chanOf (q.units.getD 0 0) = c) :
    acceptCore n.toNat i.toNat s =
      if (s.chan c).tag ≠ (regsOf s n).id.tag || !hasRight s (regsOf s n).id.tag 0 3 3 then refuseGo n i token owner s
      else if chanHolds (s.chan c) (vecWord q.val) marker then s
      else (dropStore n.toNat false i.toNat s).modChan c
        (fun x => { x with cmds := x.cmds ++ [acceptedCmd s n q marker owner c] }) := by
  obtain ⟨at_i, op, turn⟩ := ready
  have pipe : (s.core n.toNat).pipeOf false = taskOf s n := rfl
  rw [acceptCore, sqPlace_task at_i]
  dsimp only
  rw [pipe, at_i]
  dsimp only
  rw [op]
  dsimp only
  rw [turn, place]
  rfl

theorem core_dropStore_ne {k : Nat} (h : k ≠ n.toNat) : (dropStore n.toNat false i.toNat s).core k = s.core k :=
  core_modCore_ne s _ h

theorem taskOf_dropStore : (taskOf (dropStore n.toNat false i.toNat s) n).sq = (taskOf s n).sq.eraseIdx i.toNat := by
  rw [taskOf, dropStore, core_modCore_same]
  rfl

/-- A command that a core may not give leaves the store queue, and is counted there. -/
structure Refused (s t : State) (n : CoreId) (i : BitVec 6) : Prop where
  sq : (taskOf t n).sq = (taskOf s n).sq.eraseIdx i.toNat
  count : (t.core n.toNat).refuse = (s.core n.toNat).refuse + 1
  code : (t.core n.toNat).refCode = 7
  mem : t.mem = s.mem
  others : OthersSame s t n

theorem refused_dropStore : Refused s (refuseAt n.toNat (dropStore n.toNat false i.toNat s)) n i := by
  refine ⟨?_, ?_, ?_, rfl, fun k hk => ?_⟩
  · rw [taskOf, refuseAt, core_modCore_same]
    exact taskOf_dropStore
  · rw [refuseAt, core_modCore_same, dropStore, core_modCore_same]
    rfl
  · rw [refuseAt, core_modCore_same]
  · rw [refuseAt, core_modCore_ne _ _ hk, core_dropStore_ne hk]

theorem refused_settleToken {k : Nat} {ok : Bool} (h : Refused s t n i) : Refused s (settleToken n.toNat k owner ok t) n i := by
  have same := sameCounts_settleToken n.toNat k owner ok t
  obtain ⟨sq, count, code, mem, others⟩ := h
  refine ⟨?_, ?_, ?_, same.mem.trans mem, fun j hj => ?_⟩
  · rw [taskOf, same.core, core_modCore_same]
    exact (congrArg Pipe.sq (endToken_task k owner ok _)).trans sq
  · rw [same.core, core_modCore_same]
    exact count
  · rw [same.core, core_modCore_same]
    exact code
  · rw [same.core, core_modCore_ne _ _ hj]
    exact others j hj

section
variable {c : Nat} (ready : CommandReady s n i q marker token owner) (place : chanOf (q.units.getD 0 0) = c)
include ready place

theorem accept_core (tag : (s.chan c).tag = (regsOf s n).id.tag) (right : hasRight s (regsOf s n).id.tag 0 3 3 = true) :
    (8 ≤ (s.chan c).cmds.length → exec (.cmdAccept (.core n i)) s = .next s) ∧
    ((s.chan c).cmds.length < 8 → marker = true ∨ (vecWord q.val).toNat % 2 ^ 12 ≠ 0xFFF →
      Completes (.cmdAccept (.core n i)) s (fun t =>
        (taskOf t n).sq = (taskOf s n).sq.eraseIdx i.toNat ∧ MemorySame s t ∧ OthersSame s t n ∧
        ∃ m : Cmd, (t.chan c).cmds = (s.chan c).cmds ++ [m] ∧ m.word = vecWord q.val ∧ m.marker = marker ∧
          m.core = some n.toNat ∧ m.owner = owner ∧ m.tmpl = none ∧ m.result = none ∧ m.tbase = (s.chan c).tbase)) := by
  have accept := acceptCore_ready ready place
  rw [if_neg (by simp [tag, right])] at accept
  refine ⟨fun full => congrArg Outcome.next (accept.trans (if_pos (by simp [chanHolds, full]))), fun room word => ?_⟩
  have free : chanHolds (s.chan c) (vecWord q.val) marker = false := by
    have notFull : ¬8 ≤ (s.chan c).cmds.length := by omega
    rcases word with mark | word
    · simp [chanHolds, notFull, mark]
    · have other : field (vecWord q.val) 0 12 ≠ 0xFFF := by simpa [field, bitsN] using word
      simp [chanHolds, notFull, other]
  rw [if_neg (by rw [free]; decide)] at accept
  exact ⟨_, congrArg Outcome.next accept, taskOf_dropStore, fun _ => rfl, fun k hk => core_dropStore_ne hk,
    acceptedCmd s n q marker owner c, congrArg Chan.cmds (chan_modChan_same _ _ _), rfl, rfl, rfl, rfl, rfl, rfl, rfl⟩

theorem refuse_core (no : (s.chan c).tag ≠ (regsOf s n).id.tag ∨ hasRight s (regsOf s n).id.tag 0 3 3 = false) :
    Completes (.cmdAccept (.core n i)) s (fun t =>
      (taskOf t n).sq = (taskOf s n).sq.eraseIdx i.toNat ∧ (t.core n.toNat).refuse = (s.core n.toNat).refuse + 1 ∧
      (t.core n.toNat).refCode = 7 ∧ MemorySame s t ∧ OthersSame s t n ∧
      ∀ k, token = some k → k < 64 → vget (regsOf s n).tok k Token.reset = ⟨.pending, owner⟩ →
        (vget (regsOf t n).tok k Token.reset).st = .failed) := by
  have accept := acceptCore_ready ready place
  rw [if_pos (by simpa using no)] at accept
  refine ⟨_, congrArg Outcome.next accept, ?_⟩
  cases token with
  | none =>
    obtain ⟨sq, count, code, mem, others⟩ := refused_dropStore (s := s) (n := n) (i := i)
    exact ⟨sq, count, code, memorySame_of_mem mem, others, nofun⟩
  | some k =>
    obtain ⟨sq, count, code, mem, others⟩ :=
      refused_settleToken (k := k) (owner := owner) (ok := false) (refused_dropStore (s := s) (n := n) (i := i))
    refine ⟨sq, count, code, memorySame_of_mem mem, others, ?_⟩
    rintro _ ⟨⟩ small own
    have kept : ((refuseAt n.toNat (dropStore n.toNat false i.toNat s)).core n.toNat).regs.tok = (regsOf s n).tok := by
      rw [refuseAt, core_modCore_same, dropStore, core_modCore_same]
      rfl
    have ended : (vget ((settleToken n.toNat k owner false (refuseAt n.toNat (dropStore n.toNat false i.toNat s))).core
        n.toNat).regs.tok k Token.reset).st = .failed := by
      rw [(sameCounts_settleToken ..).core, core_modCore_same]
      exact congrArg Token.st (endToken_owned small (kept ▸ own))
    exact ended

end

end

/-- The command of a dispatcher, as its channel takes it (R310). -/
def copyCmd (s : State) (c : Nat) (w : Word) (q k : Nat) : Cmd :=
  { newCmd s c w false none (some (q, k)) 0 (field (s.ctx (s.queue q).tag).park 0 20) 0 with
    result := if !(consumed w).isEmpty || (tokenField w 33).isSome then some 0x0B else none }

theorem accept_disp {d : DieId} {c : Nat} {w : Word} {q k : Nat} {l : List (Nat × Word × Nat × Nat)}
    (copies : (s.disp d.toNat).copies = (c, w, q, k) :: l) (room : (s.chan c).cmds.length < 8) (word : w.toNat % 2 ^ 12 ≠ 0xFFF) :
    Completes (.cmdAccept (.disp d)) s (fun t => (t.disp d.toNat).copies = l ∧ MemorySame s t ∧
      ∃ m : Cmd, (t.chan c).cmds = (s.chan c).cmds ++ [m] ∧ m.word = w ∧ m.packet = some (q, k) ∧ m.core = none ∧
        m.result = if consumed w = [] ∧ tokenField w 33 = none then none else some 0x0B) := by
  have notFull : ¬8 ≤ (s.chan c).cmds.length := by omega
  have other : field w 0 12 ≠ 0xFFF := by simpa [field, bitsN] using word
  have free : ¬chanHolds (s.chan c) w false = true := by simp [chanHolds, notFull, other]
  refine ⟨_, rfl, ?_⟩
  simp only [acceptDisp, copies, if_neg free]
  refine ⟨?_, fun _ => rfl, copyCmd s c w q k, ?_, rfl, rfl, rfl, ?_⟩
  · exact congrArg Disp.copies (fget_fset_same ..)
  · exact congrArg Chan.cmds (chan_modChan_same _ _ _)
  · rw [copyCmd, ← ite_not]
    refine if_congr ?_ rfl rfl
    simp [Classical.or_iff_not_imp_left]

/-! ## Activation (R195, R196) -/

variable {c : BitVec 9}

theorem idle_channel (h : (s.chan c.toNat).cmds = []) :
    exec (.cmdActivate c) s = .next s ∧ exec (.cmdDone c) s = .next s ∧ exec (.cmdFail c) s = .next s ∧
      exec (.engineParkLimit c) s = .next s := by
  refine ⟨?_, ?_, ?_, ?_⟩
  · show execCmdActivate c s = _
    rw [execCmdActivate, h]
  · show execCmdDone c s = _
    rw [execCmdDone, h]
  · show execCmdFail c s = _
    rw [execCmdFail, h]
  · show execEngineParkLimit c s = _
    rw [execEngineParkLimit, h]

section
variable (head : HeadOf s c m r)
include head

/-- A pending head waits for its tokens. -/
theorem activate_waits (wait : ∃ e ∈ consumed m.word, m.seen.getLsbD e.1 = false) : exec (.cmdActivate c) s = .next s := by
  have unseen : m.satisfied = false := by
    obtain ⟨e, he, no⟩ := wait
    rw [Cmd.satisfied, List.all_eq_false]
    exact ⟨e, he, by rw [no]; decide⟩
  show execCmdActivate c s = _
  rw [execCmdActivate, head]
  simp only [unseen, Bool.not_false, Bool.or_true, if_true]

variable (tmpl : m.tmpl = none) (result : m.result = none) (park : m.park = none)
include tmpl result park

/-- The head of a channel has its template, and keeps memory as it finds it (R196, R201). -/
def activated (c : BitVec 9) (x : Tmpl) (s : State) : State := modHead c.toNat (fun m => { m with tmpl := some x, old := s.mem }) s

theorem activate_ready (near : NoneFar s) (seen : ∀ e ∈ consumed m.word, m.seen.getLsbD e.1 = true)
    (look : tmplLook s c.toNat m = .ready) :
    exec (.cmdActivate c) s = .next (if m.marker || shadowCmd m then activated c (readTmpl s c.toNat m) s
      else engineEnter c.toNat 0 [(tmplAddr m, 128)] (activated c (readTmpl s c.toNat m) s)) := by
  obtain ⟨win, reqs⟩ := near
  have ready : m.satisfied = true := by
    rw [Cmd.satisfied, List.all_eq_true]
    exact seen
  have none : (if m.marker || shadowCmd m then [] else engineFar s c.toNat 0 false [(tmplAddr m, 128)]) = [] := by
    rw [engineFar_nil win, ite_self]
  have kept : (activated c (readTmpl s c.toNat m) s).podreqs = [] := reqs
  show execCmdActivate c s = _
  rw [execCmdActivate, head]
  simp only [tmpl, result, park, ready, look, none, farRefused_false reqs, Option.isSome_none, List.isEmpty_nil, Bool.not_true,
    Bool.or_self, Bool.false_eq_true, if_false]
  rw [← activated, farDone_none kept]

/-- A head whose tokens have been seen takes its template, where it can be read. -/
theorem activate_takes {x : Tmpl} (near : NoneFar s) (seen : ∀ e ∈ consumed m.word, m.seen.getLsbD e.1 = true)
    (look : tmplLook s c.toNat m = .ready) (read : readTmpl s c.toNat m = x) :
    Completes (.cmdActivate c) s (fun t => MemorySame s t ∧
      (t.chan c.toNat).cmds = { m with tmpl := some x, old := s.mem } :: r) := by
  have cmds : ((activated c x s).chan c.toNat).cmds = { m with tmpl := some x, old := s.mem } :: r :=
    congrArg Chan.cmds (cmds_modHead _ head)
  refine ⟨_, activate_ready head tmpl result park near seen look, ?_⟩
  rw [read]
  split
  · exact ⟨fun _ => rfl, cmds⟩
  · exact ⟨fun _ => rfl, cmds⟩

theorem activate_marker (near : NoneFar s) (seen : ∀ e ∈ consumed m.word, m.seen.getLsbD e.1 = true) (mark : m.marker = true) :
    Completes (.cmdActivate c) s (fun t => MemorySame s t ∧
      ∃ x, (t.chan c.toNat).cmds = { m with tmpl := some x, old := s.mem } :: r) := by
  have look : tmplLook s c.toNat m = .ready := by rw [tmplLook, mark, Bool.true_or, if_pos rfl]
  obtain ⟨t, done, mem, cmds⟩ := activate_takes head tmpl result park near seen look rfl
  exact ⟨t, done, mem, _, cmds⟩

theorem activate_shadow (near : NoneFar s) (seen : ∀ e ∈ consumed m.word, m.seen.getLsbD e.1 = true) (mark : m.marker = false)
    (word : m.word.toNat % 2 ^ 12 = 0xFFF) :
    Completes (.cmdActivate c) s (fun t => MemorySame s t ∧
      (t.chan c.toNat).cmds = { m with tmpl := some (s.chan c.toNat).shadow, old := s.mem } :: r) := by
  have shadow : shadowCmd m = true := by
    rw [shadowCmd, field, bitsN, Nat.pow_zero, Nat.div_one]
    exact decide_eq_true word
  have look : tmplLook s c.toNat m = .ready := by rw [tmplLook, shadow, Bool.or_true, if_pos rfl]
  exact activate_takes head tmpl result park near seen look (by rw [readTmpl, mark, if_neg (by decide), shadow, if_pos rfl])

theorem activate_memory {pa : Nat} (near : NoneFar s) (seen : ∀ e ∈ consumed m.word, m.seen.getLsbD e.1 = true)
    (mark : m.marker = false) (word : m.word.toNat % 2 ^ 12 ≠ 0xFFF) (base : m.tbase.toNat % 128 = 0)
    (look : engineLook s c.toNat 0 false ((m.tbase.toNat + 128 * (m.word.toNat % 2 ^ 12)) % 2 ^ 64) = .ok pa) (plain : PlainBytes s pa 128)
    (free : ∀ i < 128, reservedPa s (pa + i) = false) (clean : poisoned s pa = false) :
    Completes (.cmdActivate c) s (fun t => MemorySame s t ∧
      (t.chan c.toNat).cmds = { m with tmpl := some (BitVec.ofNat 1024 (Memory.read s.mem pa 128)), old := s.mem } :: r) := by
  have index : field m.word 0 12 = m.word.toNat % 2 ^ 12 := by rw [field, bitsN, Nat.pow_zero, Nat.div_one]
  have addr : (m.tbase.toNat + 128 * (m.word.toNat % 2 ^ 12)) % 2 ^ 64 = tmplAddr m := by rw [tmplAddr, index]
  have aligned : tmplAddr m % 128 = 0 := by rw [← addr]; omega
  have noShadow : shadowCmd m = false := by rw [shadowCmd, index]; exact decide_eq_false word
  rw [addr] at look
  refine activate_takes head tmpl result park near seen ?_ ?_
  · rw [tmplLook, mark, noShadow, Bool.or_self, if_neg (by decide)]
    exact engineRanges_line (by decide) (by omega) (by omega) look (plain 0 (by decide)).2 clean
  · rw [readTmpl, mark, noShadow, if_neg (by decide), if_neg (by decide),
      readLe_engineByte (by omega) (by decide) look plain free]

end

/-! ## The end of a command (R195, R203 to R207) -/

theorem headOf_headResult (near : NoneFar s) (head : HeadOf s c m r) (code : Nat) :
    HeadOf (headResult c.toNat code s) c { m with result := some code, park := none } r ∧
      CmdsOnly c.toNat s (headResult c.toNat code s) ∧ NoneFar (headResult c.toNat code s) := by
  obtain ⟨win, reqs⟩ := near
  have same : headResult c.toNat code s = modHead c.toNat (fun x => { x with result := some code, park := none }) s :=
    farDone_none (s := modHead c.toNat _ s) reqs c.toNat
  rw [same]
  exact ⟨congrArg Chan.cmds (cmds_modHead _ head), cmdsOnly_modHead _ s, win, reqs⟩

/-! ### Requests to other modules leave the channels, the cores and memory as they are -/

/-- The channels, the cores and memory are as they were. -/
def Quiet (s t : State) : Prop := t.chans = s.chans ∧ t.cores = s.cores ∧ t.mem = s.mem

theorem quiet_podAsk {w : PodWho} {tag kind pa : Nat} (h : podAsk w tag kind pa t = some u) : Quiet t u := by
  unfold podAsk at h
  split at h
  · split at h
    · exact Option.some.inj h ▸ ⟨rfl, rfl, rfl⟩
    · obtain ⟨v, hv, rfl⟩ := Option.map_eq_some_iff.1 h
      obtain ⟨p, -, rfl⟩ := Option.map_eq_some_iff.1 hv
      exact ⟨rfl, rfl, rfl⟩
  · exact Option.some.inj h ▸ ⟨rfl, rfl, rfl⟩

theorem quiet_farAsk (v tag : Nat) (wr : Bool) (l : List Nat) (s : State) : Quiet s (farAsk v tag wr l s) := by
  refine foldl_keeps (P := Quiet s) (fun t k h => ?_) l ⟨rfl, rfl, rfl⟩
  split
  · exact h
  · cases asked : podAsk (.unit v k wr) tag (if wr then 1 else 0) (128 * k) t with
    | none => exact h
    | some u =>
      obtain ⟨chans, cores, mem⟩ := h
      obtain ⟨chans', cores', mem'⟩ := quiet_podAsk asked
      exact ⟨chans'.trans chans, cores'.trans cores, mem'.trans mem⟩

/-- A command that meets nothing that stops it asks other modules for what it needs of them, or is performed. -/
theorem done_ready {x : Tmpl} (head : HeadOf s c m r) (mark : m.marker = false) (result : m.result = none) (park : m.park = none)
    (tmpl : m.tmpl = some x) (look : payloadLook s c.toNat x = .ready) :
    (payloadFar s c.toNat x = none → exec (.cmdDone c) s = .next (tryStamp c.toNat (headResult c.toNat 0
      (if x.empty then s else payloadWrite c.toNat x s)))) ∧
    (∀ wr l, payloadFar s c.toNat x = some (wr, l) → Completes (.cmdDone c) s (fun t =>
      t.chans = s.chans ∧ MemorySame s t ∧ ∀ n, t.core n = s.core n)) := by
  refine ⟨fun near => ?_, fun wr l far => ?_⟩
  · show execCmdDone c s = _
    rw [execCmdDone, head]
    simp only [mark, result, park, tmpl, look, near, Option.isSome_none, Bool.false_eq_true, if_false, if_true]
  · have done : exec (.cmdDone c) s = .next (engineAsk c.toNat wr l s) := by
      show execCmdDone c s = _
      rw [execCmdDone, head]
      simp only [mark, result, park, tmpl, look, far, Option.isSome_none, Bool.false_eq_true, if_false, if_true]
    obtain ⟨chans, cores, mem⟩ := quiet_farAsk c.toNat (s.chan c.toNat).tag wr l s
    exact ⟨_, done, chans, memorySame_of_mem mem, fun n => congrArg (fun x => fget Core.reset x n) cores⟩

/-! ### Stamps -/

/-- The head command, with its result, leaves its channel with its stamp. -/
theorem tryStamp_ends {code pa : Nat} (head : HeadOf s c m r) (near : NoneFar s) (result : m.result = some code) (park : m.park = none)
    (packet : m.packet = none) (stamps : StampsAt s c m pa) (wf : Memory.wf s.mem = true) :
    Leaves c.toNat m (code ≠ 0) code s (tryStamp c.toNat s) ∧ WritesBytes s (tryStamp c.toNat s) pa 8 (stampOf c m code) := by
  obtain ⟨u, stamped, ends⟩ := tryStamp_stamps head near result park stamps wf
  rw [ends]
  exact stamped_leaves stamped near.2 packet

theorem count_leaves {bad : Bool} {shown : Nat} (head : HeadOf s c m r) (h : Leaves c.toNat m bad shown s t) :
    (t.chan c.toNat).cmds.length = r.length := by
  rw [h.count, head, List.tail_cons]

theorem done_stamps {pa : Nat} (head : HeadOf s c m r) (near : NoneFar s) (result : m.result = some 0) (park : m.park = none)
    (packet : m.packet = none) (stamps : StampsAt s c m pa) (wf : Memory.wf s.mem = true) :
    Completes (.cmdDone c) s (fun t => (t.chan c.toNat).cmds.length = r.length ∧ (t.chan c.toNat).fails = (s.chan c.toNat).fails ∧
      WritesBytes s t pa 8 (stampOf c m 0) ∧
      ∀ n k, OwnsToken s n k m → (vget (t.core n).regs.tok k Token.reset).st = .ready) := by
  have done : exec (.cmdDone c) s = .next (tryStamp c.toNat s) := by
    show execCmdDone c s = _
    rw [execCmdDone, head]
    simp only [result]
  obtain ⟨leaves, bytes⟩ := tryStamp_ends head near result park packet stamps wf
  exact ⟨_, done, count_leaves head leaves, leaves.fails, bytes, leaves.token⟩

theorem fail_stamps {pa code : Nat} (head : HeadOf s c m r) (near : NoneFar s) (result : m.result = some code) (pos : 0 < code)
    (small : code < 2 ^ 8) (park : m.park = none) (packet : m.packet = none) (stamps : StampsAt s c m pa)
    (wf : Memory.wf s.mem = true) :
    Completes (.cmdFail c) s (fun t => (t.chan c.toNat).cmds.length = r.length ∧
      (t.chan c.toNat).fails = (s.chan c.toNat).fails + 1 ∧ (t.chan c.toNat).code.toNat = code ∧
      WritesBytes s t pa 8 (stampOf c m code) ∧
      ∀ n k, OwnsToken s n k m → (vget (t.core n).regs.tok k Token.reset).st = .failed) := by
  have done : exec (.cmdFail c) s = .next (tryStamp c.toNat s) := by
    show execCmdFail c s = _
    obtain ⟨k, rfl⟩ := Nat.exists_eq_succ_of_ne_zero pos.ne'
    rw [execCmdFail, head]
    simp only [result]
  obtain ⟨leaves, bytes⟩ := tryStamp_ends head near result park packet stamps wf
  have bad : decide (code ≠ 0) = true := decide_eq_true pos.ne'
  rw [bad] at leaves
  exact ⟨_, done, count_leaves head leaves, leaves.fails, by rw [leaves.code]; exact Nat.mod_eq_of_lt small, bytes, leaves.token⟩

/-! ### Templates at fault (R199 to R201, R376) -/

theorem ne_zero_of_ite {p : Prop} [Decidable p] {k : Nat} {o : Option Nat} (hk : k ≠ 0) (h : ∀ f, o = some f → f ≠ 0) :
    ∀ f, (if p then some k else o) = some f → f ≠ 0 := by
  intro f e
  split at e
  · exact Option.some.inj e ▸ hk
  · exact h f e

/-- A fault of a template has a code. -/
theorem tmplFault_ne_zero {tag f : Nat} {x : Tmpl} (h : tmplFault s tag x = some f) : f ≠ 0 := by
  unfold tmplFault at h
  have six : 6 ≠ 0 := by decide
  have five : 5 ≠ 0 := by decide
  have sound : ∀ f, (none : Option Nat) = some f → f ≠ 0 := nofun
  exact ne_zero_of_ite six (ne_zero_of_ite six (ne_zero_of_ite five (ne_zero_of_ite five (ne_zero_of_ite six
    (ne_zero_of_ite (by decide) (ne_zero_of_ite six (ne_zero_of_ite (by decide) sound))))))) f h

/-- The template's stamp place is that of the command, whatever result the command has. -/
theorem stampsAt_headResult {code pa : Nat} (near : NoneFar s) (head : HeadOf s c m r) (stamps : StampsAt s c m pa) :
    StampsAt (headResult c.toNat code s) c { m with result := some code, park := none } pa := by
  obtain ⟨-, same, -⟩ := headOf_headResult near head code
  obtain ⟨⟨a, addr, aligned, look⟩, plain, free⟩ := stamps
  refine ⟨⟨a, ?_, aligned, ?_⟩, ?_, ?_⟩
  · rw [same.stampAddr]
    exact addr
  · rw [same.engineLook]
    exact look
  · obtain ⟨k, e⟩ := same.rest
    rw [e]
    exact plain
  · obtain ⟨k, e⟩ := same.rest
    rw [e]
    exact free

theorem fail_tmplFault {x : Tmpl} {f pa : Nat} (head : HeadOf s c m r) (near : NoneFar s) (mark : m.marker = false)
    (result : m.result = none) (park : m.park = none) (packet : m.packet = none) (tmpl : m.tmpl = some x)
    (fault : tmplFault s (s.chan c.toNat).tag x = some f) (stamps : StampsAt s c m pa) (wf : Memory.wf s.mem = true) :
    Completes (.cmdFail c) s (fun t => (t.chan c.toNat).cmds.length = r.length ∧
      (t.chan c.toNat).fails = (s.chan c.toNat).fails + 1 ∧ WritesBytes s t pa 8 (stampOf c m f)) := by
  obtain ⟨head', same, near'⟩ := headOf_headResult near head f
  have nothing : payloadPart c.toNat x s = s := if_pos (by rw [fault]; rfl)
  have look : payloadLook s c.toNat x = .fail f := by rw [payloadLook, fault]
  have done : exec (.cmdFail c) s = .next (tryStamp c.toNat (headResult c.toNat f s)) := by
    show execCmdFail c s = _
    rw [execCmdFail, head]
    simp only [mark, result, park, tmpl, look, nothing, Option.isSome_none, Bool.or_self, Bool.false_eq_true, if_false]
  have mem : (headResult c.toNat f s).mem = s.mem := by
    obtain ⟨k, e⟩ := same.rest
    rw [e]
  obtain ⟨leaves, bytes⟩ := tryStamp_ends head' near' rfl rfl packet (stampsAt_headResult near head stamps) (mem ▸ wf)
  have bad : decide (f ≠ 0) = true := decide_eq_true (tmplFault_ne_zero fault)
  rw [bad] at leaves
  refine ⟨_, done, count_leaves head' leaves, ?_, ?_⟩
  · rw [leaves.fails, same.fails]
    rfl
  · rw [WritesBytes, ← mem]
    exact bytes

/-! ### Aborted commands (R206) -/

theorem chans_memWrite (tag : Nat) (xs : List (Nat × Byte)) (s : State) : (memWrite tag xs s).chans = s.chans := by
  refine foldl_keeps (P := fun u => u.chans = s.chans) (f := fun u n => noteLine tag n u) (fun u n h => ?_) _
    (foldl_keeps (P := fun u : State => u.chans = s.chans) (fun u e h => ?_) xs rfl)
  · unfold noteLine
    dsimp only
    split
    · exact h
    · exact h
  · split
    · exact h
    · split
      · unfold mailPut
        split
        · exact h
        · exact h
      · unfold writeByteAs
        split
        · exact h
        · exact h

theorem chans_payloadPart (c : Nat) (x : Tmpl) (s : State) : (payloadPart c x s).chans = s.chans := by
  unfold payloadPart
  split
  · rfl
  · exact chans_memWrite ..

/-- What an active head has written when its channel is aborted (R206). -/
def stopHead (c : Nat) (s : State) : State :=
  match (s.chan c).cmds with
  | m :: _ =>
    (match m.result, m.tmpl with
     | none, some t => if m.marker then s else payloadPart c t s
     | _, _ => s)
  | [] => s

theorem chans_stopHead (c : Nat) (s : State) : (stopHead c s).chans = s.chans := by
  unfold stopHead
  split
  · split
    · split
      · rfl
      · exact chans_payloadPart ..
    · rfl
  · rfl

/-- An aborted command that has no result yet has failed. -/
def Cmd.aborted (m : Cmd) : Cmd :=
  { m with result := some (m.result.getD 0x0C), park := if m.result = none then none else m.park }

theorem chan_failChan (c : Nat) (s : State) :
    (failChan c 0x0C s).chan c = { s.chan c with cmds := (s.chan c).cmds.map Cmd.aborted } := by
  have kept : (farDone c (stopHead c s)).chan c = s.chan c := congrArg (fun k => fget Chan.reset k c) (chans_stopHead c s)
  rw [← kept]
  refine (chan_modChan_same ..).trans (congrArg (fun l => { (farDone c (stopHead c s)).chan c with cmds := l })
    (List.map_congr_left fun m _ => ?_))
  unfold Cmd.aborted
  cases m.result with
  | none => rfl
  | some code => rfl

theorem abort_fails (s : State) (c : BitVec 9) : Completes (.cabort c) s (fun t =>
    (t.chan c.toNat).cmds = (s.chan c.toNat).cmds.map (fun m =>
      { m with result := some (m.result.getD 0x0C), park := if m.result = none then none else m.park }) ∧
    (t.chan c.toNat).tag = (s.chan c.toNat).tag ∧ (t.chan c.toNat).fails = (s.chan c.toNat).fails) := by
  have chan := chan_failChan c.toNat s
  exact ⟨_, rfl, by rw [chan]; rfl, by rw [chan], by rw [chan]⟩

/-! ### Parked commands (R201, R207, R247) -/

theorem stampAddr_unread {c : Nat} (mark : m.marker = false) (tmpl : m.tmpl = none) (unread : tmplLook s c m ≠ .ready) :
    stampAddr s c m = none := by
  simp only [stampAddr, mark, tmpl, Bool.false_eq_true, if_false, if_neg unread]

section
variable (head : HeadOf s c m r)
include head

theorem parkLimit_early (early : s.now < m.parked + m.limit * 1000000) : exec (.engineParkLimit c) s = .next s := by
  have late : ¬m.parked + m.limit * 1000000 ≤ s.now := by omega
  show execEngineParkLimit c s = _
  rw [execEngineParkLimit, head]
  simp only [decide_eq_false late, Bool.and_false, Bool.false_eq_true, if_false]

variable (park : m.park.isSome = true) (limit : m.limit ≠ 0) (due : m.parked + m.limit * 1000000 ≤ s.now)
include park limit due

/-- A parked command whose result is known ends without its stamp. -/
theorem parkLimit_result (near : NoneFar s) (packet : m.packet = none) {code : Nat} (result : m.result = some code) (pos : 0 < code)
    (small : code < 2 ^ 8) :
    Completes (.engineParkLimit c) s (fun t => (t.chan c.toNat).cmds.length = r.length ∧
      (t.chan c.toNat).fails = (s.chan c.toNat).fails + 1 ∧ (t.chan c.toNat).code.toNat = code ∧ MemorySame s t ∧
      ∀ n k, OwnsToken s n k m → (vget (t.core n).regs.tok k Token.reset).st = .failed) := by
  have done : exec (.engineParkLimit c) s = .next (endCmd c.toNat m code (some 4) s) := by
    show execEngineParkLimit c s = _
    rw [execEngineParkLimit, head]
    simp only [park, decide_eq_true due, decide_eq_true limit, Bool.and_self, if_true, result]
  obtain ⟨leaves, mem⟩ := endCmd_leaves (c := c.toNat) code (some 4) near.2 packet
  have shown : shownCode code (some 4) = code := if_pos pos.ne'
  rw [shown, Option.isSome_some, Bool.or_true] at leaves
  exact ⟨_, done, count_leaves head leaves, leaves.fails, by rw [leaves.code]; exact Nat.mod_eq_of_lt small,
    memorySame_of_mem mem, leaves.token⟩

variable (result : m.result = none) (tmpl : m.tmpl = none)
include result tmpl

theorem parkLimit_pending : exec (.engineParkLimit c) s = .next (tryStamp c.toNat (headResult c.toNat 4 s)) := by
  show execEngineParkLimit c s = _
  rw [execEngineParkLimit, head]
  simp only [park, decide_eq_true due, decide_eq_true limit, Bool.and_self, if_true, result, tmpl]

omit park limit due result in
/-- A command whose template cannot be read has no place for its stamp. -/
theorem stampAddr_headResult (near : NoneFar s) (mark : m.marker = false) (unread : tmplLook s c.toNat m ≠ .ready) :
    stampAddr (headResult c.toNat 4 s) c.toNat { m with result := some 4, park := none } = none ∧
      tmplLook (headResult c.toNat 4 s) c.toNat { m with result := some 4, park := none } = tmplLook s c.toNat m := by
  obtain ⟨-, same, -⟩ := headOf_headResult near head 4
  exact ⟨(same.stampAddr _).trans (stampAddr_unread mark tmpl unread), same.tmplLook _⟩

omit park limit due result in
theorem tryStamp_fails {f : Nat} (near : NoneFar s) (mark : m.marker = false) (look : tmplLook s c.toNat m = .fail f) :
    tryStamp c.toNat (headResult c.toNat 4 s) =
      endCmd c.toNat { m with result := some 4, park := none } 4 (some f) (headResult c.toNat 4 s) := by
  obtain ⟨head', -⟩ := headOf_headResult near head 4
  obtain ⟨addr, same⟩ := stampAddr_headResult head tmpl near mark (by rw [look]; nofun)
  rw [look] at same
  rw [tryStamp, head']
  simp only [addr, same, Option.isSome_none, Bool.false_eq_true, if_false]

omit park limit due result in
theorem tryStamp_parks {e a : Nat} (near : NoneFar s) (mark : m.marker = false) (look : tmplLook s c.toNat m = .park e a) :
    tryStamp c.toNat (headResult c.toNat 4 s) = headResult c.toNat 4 s := by
  obtain ⟨head', -⟩ := headOf_headResult near head 4
  obtain ⟨addr, same⟩ := stampAddr_headResult head tmpl near mark (by rw [look]; nofun)
  rw [look] at same
  rw [tryStamp, head']
  simp only [addr, same, Option.isSome_none, Bool.false_eq_true, if_false]

theorem parkLimit_fails (near : NoneFar s) (packet : m.packet = none) (mark : m.marker = false)
    (fails : ∃ f, tmplLook s c.toNat m = .fail f) :
    Completes (.engineParkLimit c) s (fun t =>
      (t.chan c.toNat).cmds.length = r.length ∧ (t.chan c.toNat).fails = (s.chan c.toNat).fails + 1 ∧
      (t.chan c.toNat).code = 4 ∧ MemorySame s t ∧
      ∀ n k, OwnsToken s n k m → (vget (t.core n).regs.tok k Token.reset).st = .failed) := by
  obtain ⟨f, look⟩ := fails
  have done := parkLimit_pending head park limit due result tmpl
  rw [tryStamp_fails head tmpl near mark look] at done
  obtain ⟨head', same, -, reqs⟩ := headOf_headResult near head 4
  obtain ⟨leaves, mem⟩ := endCmd_leaves (c := c.toNat) (m := { m with result := some 4, park := none }) 4 (some f) reqs packet
  have kept : (headResult c.toNat 4 s).mem = s.mem ∧ ∀ n, (headResult c.toNat 4 s).core n = s.core n := by
    obtain ⟨k, e⟩ := same.rest
    rw [e]
    exact ⟨rfl, fun _ => rfl⟩
  refine ⟨_, done, count_leaves head' leaves, leaves.fails.trans (by rw [same.fails]; rfl), leaves.code,
    memorySame_of_mem (mem.trans kept.1), fun n k own => leaves.token n k ?_⟩
  obtain ⟨core, field, small, pending⟩ := own
  exact ⟨core, field, small, by rw [kept.2]; exact pending⟩

theorem parkLimit_parks (near : NoneFar s) (mark : m.marker = false) (parks : ∃ e a, tmplLook s c.toNat m = .park e a) :
    Completes (.engineParkLimit c) s (fun t =>
      (t.chan c.toNat).cmds = { m with result := some 4, park := none } :: r ∧ MemorySame s t) := by
  obtain ⟨e, a, look⟩ := parks
  have done := parkLimit_pending head park limit due result tmpl
  rw [tryStamp_parks head tmpl near mark look] at done
  obtain ⟨head', same, -⟩ := headOf_headResult near head 4
  refine ⟨_, done, head', ?_⟩
  obtain ⟨k, rest⟩ := same.rest
  rw [rest]
  exact fun _ => rfl

end

/-! ### A copy of bytes (R198, R201) -/

/-- A template that copies one row of n bytes. -/
structure CopiesRow (x : Tmpl) (n : Nat) : Prop where
  kind : x.kind = 0
  st : x.st = 4
  dt : x.dt = 4
  kd : x.kd = 0
  cols : x.n0 = n
  rows : x.n1 = 1
  pos : 0 < n
  src : x.src + n ≤ 2 ^ 60
  dst : x.dst + n ≤ 2 ^ 60

section
variable {x : Tmpl} {n : Nat} (copies : CopiesRow x n) (rd : Nat → Byte)
include copies

theorem CopiesRow.rowAddr_src : rowAddr x.src x.ss 0 = x.src := by
  have := copies.src
  have := copies.pos
  rw [rowAddr, Nat.zero_mul, Nat.add_zero, Nat.mod_eq_of_lt (by omega)]

theorem CopiesRow.rowAddr_dst : rowAddr x.dst x.ds 0 = x.dst := by
  have := copies.dst
  have := copies.pos
  rw [rowAddr, Nat.zero_mul, Nat.add_zero, Nat.mod_eq_of_lt (by omega)]

theorem CopiesRow.rows_eq : x.rows = 1 := (if_neg (by rw [copies.kind]; decide)).trans copies.rows
theorem CopiesRow.cols_eq : x.cols = n := (if_neg (by rw [copies.kind]; decide)).trans copies.cols
theorem CopiesRow.srcWidth_eq : x.srcWidth = n := (if_neg (by rw [copies.kind]; decide)).trans copies.cols
theorem CopiesRow.empty_eq : x.empty = false := by
  have := copies.pos
  rw [Tmpl.empty, copies.cols, copies.rows, decide_eq_false (by omega)]
  rfl

theorem CopiesRow.plainRow_eq : plainRow rd x 0 = ((List.range n).map (fun i => rd (x.src + i)), []) := by
  have bytes := plainRow_bytes (rd := rd) (r := 0) copies.kind copies.st copies.dt
  rw [decByte_eq (by rw [copies.kd]), copies.cols, copies.rowAddr_src] at bytes
  refine Prod.ext bytes ?_
  have notRadd : ¬x.kind = 3 := by rw [copies.kind]; decide
  have notGath : ¬x.kind = 2 := by rw [copies.kind]; decide
  have noBlock : isBlock x.dt = false := by rw [copies.dt]; rfl
  simp only [plainRow, dstRow, if_neg notRadd, decide_eq_false notGath, Bool.false_and, Bool.false_eq_true, if_false, noBlock]

theorem CopiesRow.tmplOut_eq : tmplOut rd x = (List.range n).map (fun i => (x.dst + i, rd (x.src + i))) := by
  rw [Machine.tmplOut_eq copies.empty_eq, copies.rows_eq, List.range_one, List.map_singleton, List.map_singleton, copies.plainRow_eq,
    copies.rowAddr_dst, encRow_eq (by rw [copies.kd]; decide)]
  refine List.ext_getElem (by simp [rowBytes]) fun i hi _ => ?_
  simp [rowBytes]

theorem CopiesRow.readRanges_eq : readRanges rd x ++ listRange x = [(x.src, n)] := by
  have notRadd : ¬x.kind = 3 := by rw [copies.kind]; decide
  have pos := copies.pos
  have row : rowOfDst rd x 0 = (some 0, 0) := by simp only [rowOfDst, copies.kind]
  have seg : segOf x (some 0) 0 = [⟨0, x.src, 0, n⟩] := by
    have top : (if ((0 : Int) + n).toNat < n then ((0 : Int) + n).toNat else n) = n := if_neg (by omega)
    simp only [segOf, copies.srcWidth_eq, copies.cols_eq, copies.rowAddr_src, top]
    simp [pos]
  have segs : srcSegs rd x = [⟨0, x.src, 0, n⟩] := by
    rw [srcSegs, copies.empty_eq, if_neg (by decide), if_neg notRadd, copies.rows_eq, List.range_one, List.map_singleton]
    simp only [row, seg, List.flatten_singleton]
  have scales : (isBlock x.st || isMx x.st) = false := by rw [copies.st]; rfl
  have list : listRange x = [] := by rw [listRange, copies.kind]; rfl
  have width : tyWidth x.st = 8 := by rw [copies.st]; rfl
  have range : elemRange x.src 0 n 8 = (x.src, n) := by
    simp only [elemRange, Prod.mk.injEq]
    omega
  simp only [readRanges, segs, scales, list, width, range, List.map_singleton, Bool.false_eq_true, if_false, List.append_nil]

end

theorem sourceByte_plain {c va pa : Nat} (look : engineLook s c 0 false va = .ok pa) (plain : inMemory pa = true ∧ podOf s pa = none)
    (same : Memory.get (headOld s c) pa = Memory.get s.mem pa) : sourceByte s c va = Memory.get s.mem pa := by
  have now : unitByte s c (s.chan c).tag pa = Memory.get s.mem pa := unitByte_plain plain
  have old : unitByte { s with mem := headOld s c } c (s.chan c).tag pa = Memory.get s.mem pa :=
    (unitByte_plain (s := { s with mem := headOld s c }) plain).trans same
  rw [sourceByte, look]
  simp only [now, old, if_true]

section
variable {c n ps pd : Nat} {x : Tmpl} (copies : CopiesRow x n)
  (look : ∀ k < n, engineLook s c 0 false (x.src + k) = .ok (ps + k) ∧ engineLook s c 1 false (x.dst + k) = .ok (pd + k))
  (source : PlainBytes s ps n) (apart : ps + n ≤ pd ∨ pd + n ≤ ps)
  (same : ∀ k < n, Memory.get (headOld s c) (ps + k) = Memory.get s.mem (ps + k))
include copies look source apart same

theorem payloadOut_copy : payloadOut s c x (fun _ => true) = (List.range n).map (fun k => (pd + k, Memory.get s.mem (ps + k))) := by
  have out : payloadBytes s c (tmplOut (sourceByte s c) x) = (List.range n).map (fun k => (pd + k, Memory.get s.mem (ps + k))) := by
    rw [copies.tmplOut_eq, payloadBytes, List.filterMap_map, ← List.filterMap_eq_map]
    refine List.filterMap_congr fun k hk => ?_
    have small := List.mem_range.1 hk
    obtain ⟨read, write⟩ := look k small
    simp only [Function.comp_apply, write, sourceByte_plain read (source k small) (same k small)]
  simp only [payloadOut, out, List.filter_true, copies.readRanges_eq, List.map_singleton, List.flatten_singleton, List.map_map,
    Function.comp_def]
  refine if_neg fun overlap => ?_
  obtain ⟨a, ha, hit⟩ := List.any_eq_true.1 overlap
  obtain ⟨i, hi, rfl⟩ := List.mem_map.1 ha
  simp only [(look i (List.mem_range.1 hi)).1, List.contains_iff_mem, List.mem_map, List.mem_range] at hi hit
  obtain ⟨k, hk, e⟩ := hit
  have met : pd + k = ps + i := e
  omega

theorem payloadWrite_copy (wf : Memory.wf s.mem = true) (dest : PlainBytes s pd n) :
    (∀ k < n, Memory.get (payloadWrite c x s).mem (pd + k) = Memory.get s.mem (ps + k)) ∧
    ∀ a, a < pd ∨ pd + n ≤ a → Memory.get (payloadWrite c x s).mem a = Memory.get s.mem a := by
  obtain ⟨w, d, f, written⟩ := memWrite_plain (s.chan c).tag (allPlain_run dest fun k => Memory.get s.mem (ps + k))
  have mem : (payloadWrite c x s).mem = putAll ((List.range n).map (fun k => (pd + k, Memory.get s.mem (ps + k)))) s.mem := by
    rw [payloadWrite, payloadOut_copy copies look source apart same, written]
    dsimp only
    split
    · rfl
    · rfl
  rw [mem]
  refine ⟨fun k hk => ?_, fun a ha => ?_⟩
  · rw [get_putAll_run wf pd n (pd + k) fun k => Memory.get s.mem (ps + k), if_pos (by omega), Nat.add_sub_cancel_left]
  · rw [get_putAll_run wf pd n a fun k => Memory.get s.mem (ps + k), if_neg (by omega)]

end

/-! ## The claims together -/

/-- Commands of the copy engines (R185, R191, R194 to R207, R310). -/
theorem claim_copyCommands : Claim.CopyCommands := by
  refine ⟨?_, ?_, ?_, ?_, ?_, ?_, ?_, ?_, ?_, ?_, ?_⟩
  · intro s n i q marker token owner ready c
    exact ⟨fun tag right => accept_core ready rfl tag right, fun no => refuse_core ready rfl no⟩
  · intro s d c w q k l copies room word
    exact accept_disp copies room word
  · intro s c idle
    exact idle_channel idle
  · intro s c m r head near tmpl result park
    refine ⟨activate_waits head, fun seen => ⟨fun mark => ?_, fun mark word => ?_, fun pa mark word base look plain free clean =>
      activate_memory head tmpl result park near seen mark word base look plain free clean⟩⟩
    · exact activate_marker head tmpl result park near seen mark
    · exact activate_shadow head tmpl result park near seen mark word
  · intro s c m r x head mark result park tmpl look
    exact done_ready head mark result park tmpl look
  · intro s c m r x f pa head near mark result park packet tmpl fault stamps wf
    exact fail_tmplFault head near mark result park packet tmpl fault stamps wf
  · intro s c x n ps pd wf kind st dt kd _ cols rows pos src dst look source dest apart same
    exact payloadWrite_copy ⟨kind, st, dt, kd, cols, rows, pos, src, dst⟩ look source apart same wf dest
  · intro s c m r pa head near result park packet stamps wf
    exact done_stamps head near result park packet stamps wf
  · intro s c m r pa code head near result pos small park packet stamps wf
    exact fail_stamps head near result pos small park packet stamps wf
  · intro s c
    exact abort_fails s c
  · intro s c m r head near park limit packet
    refine ⟨fun due result tmpl mark => ⟨fun fails => ?_, fun parks => ?_⟩, fun code due result pos small => ?_, parkLimit_early head⟩
    · exact parkLimit_fails head park limit due result tmpl near packet mark fails
    · exact parkLimit_parks head park limit due result tmpl near mark parks
    · exact parkLimit_result head park limit due near packet result pos small

end Sys2Proof.Machine

namespace Sys2Proof

open Machine

/-- Settles O41: the end of a command changes its channel, its token and its stamp alone, and the bytes of a row, of a block and of an
encrypted unit are found by their place in what the template writes. -/
theorem copyEngines : Obligations.CopyEngines := ⟨claim_copyCommands, claim_copyValues⟩

end Sys2Proof
end

section
/-! PROOF. The sums, products, logic, compares and system register moves of S (O1, O3): each is one of the shapes of S, with its
value as an integer mod 2^64. -/

namespace Sys2Proof.Machine

/-! ## Values of S, as integers mod 2^64 -/

theorem imm64_eq_ofInt {n : Nat} (i : BitVec n) : imm64 i = BitVec.ofInt 64 i.toInt := rfl

theorem ofInt_toNat_add (x : Word) (y : Int) : BitVec.ofInt 64 ((x.toNat : Int) + y) = x + BitVec.ofInt 64 y := by
  rw [BitVec.ofInt_add, BitVec.ofInt_natCast, BitVec.ofNat_toNat, BitVec.setWidth_eq]

theorem sub_eq_ofInt (x y : Word) : x - y = BitVec.ofInt 64 ((x.toNat : Int) - y.toNat) := by
  rw [Int.sub_eq_add_neg, ofInt_toNat_add, BitVec.ofInt_neg, BitVec.ofInt_natCast, BitVec.ofNat_toNat, BitVec.setWidth_eq,
    BitVec.sub_eq_add_neg]

theorem mul_eq_ofNat (x y : Word) : x * y = BitVec.ofNat 64 (x.toNat * y.toNat) := by
  rw [BitVec.ofNat_mul, BitVec.ofNat_toNat, BitVec.ofNat_toNat, BitVec.setWidth_eq, BitVec.setWidth_eq]

theorem add_shiftLeft_eq_ofNat (x y : Word) (k : Nat) : x + y <<< k = BitVec.ofNat 64 (x.toNat + y.toNat * 2 ^ k) := by
  simp only [BitVec.toNat_eq, BitVec.toNat_add, BitVec.toNat_shiftLeft, BitVec.toNat_ofNat, Nat.shiftLeft_eq, Nat.add_mod_mod]

theorem add_imm_shiftLeft (x : Word) (i : BitVec 12) :
    x + imm64 i <<< 8 = BitVec.ofInt 64 ((x.toNat : Int) + i.toInt * 256) := by
  rw [ofInt_toNat_add, BitVec.ofInt_mul, imm64_eq_ofInt, BitVec.shiftLeft_eq_mul_twoPow]
  rfl

/-! ## The obligations of S -/

theorem claim_scalarSums : Claim.ScalarSums := by
  unfold Claim.ScalarSums
  refine ⟨fun _ => rfl, ?add, ?sub, ?mul, fun i => ?addi, fun k => ?lea, fun i => ?leai, fun i => ?cptr⟩
  case add => exact alu2_intro (fun _ _ _ x y => x + y) (fun _ _ _ _ _ => rfl) fun _ _ _ x y => BitVec.add_def x y
  case sub => exact alu2_intro (fun _ _ _ x y => x - y) (fun _ _ _ _ _ => rfl) fun _ _ _ => sub_eq_ofInt
  case mul => exact alu2_intro (fun _ _ _ x y => x * y) (fun _ _ _ _ _ => rfl) fun _ _ _ => mul_eq_ofNat
  case addi => exact alu1_intro (fun _ _ _ x => x + imm64 i) (fun _ _ _ _ => rfl) fun _ _ _ x => (ofInt_toNat_add x i.toInt).symm
  case lea =>
    exact alu2_intro (fun _ _ _ x y => x + y <<< k.toNat) (fun _ _ _ _ _ => rfl) fun _ _ _ x y => add_shiftLeft_eq_ofNat x y k.toNat
  case leai => exact alu1_intro (fun _ _ _ x => x + imm64 i <<< 8) (fun _ _ _ _ => rfl) fun _ _ _ x => add_imm_shiftLeft x i
  case cptr =>
    exact alu1_intro (fun _ _ _ x => BitVec.ofNat 64 (bitsN x.toNat 12 48 * 2 ^ 12 + i.toNat)) (fun _ _ _ _ => rfl)
      fun _ _ _ _ => rfl

theorem claim_scalarLogic : Claim.ScalarLogic := by
  unfold Claim.ScalarLogic
  refine ⟨?and, ?or, ?xor, ?andn, fun i => ?andi, fun i => ?ori, fun i => ?xori, fun m => ?sel⟩
  case and => exact alu2_intro (fun _ _ _ x y => x &&& y) (fun _ _ _ _ _ => rfl) fun _ _ _ _ _ => rfl
  case or => exact alu2_intro (fun _ _ _ x y => x ||| y) (fun _ _ _ _ _ => rfl) fun _ _ _ _ _ => rfl
  case xor => exact alu2_intro (fun _ _ _ x y => x ^^^ y) (fun _ _ _ _ _ => rfl) fun _ _ _ _ _ => rfl
  case andn => exact alu2_intro (fun _ _ _ x y => x &&& ~~~y) (fun _ _ _ _ _ => rfl) fun _ _ _ _ _ => rfl
  case andi => exact alu1_intro (fun _ _ _ x => x &&& imm64 i) (fun _ _ _ _ => rfl) fun _ _ _ _ => rfl
  case ori => exact alu1_intro (fun _ _ _ x => x ||| imm64 i) (fun _ _ _ _ => rfl) fun _ _ _ _ => rfl
  case xori => exact alu1_intro (fun _ _ _ x => x ^^^ imm64 i) (fun _ _ _ _ => rfl) fun _ _ _ _ => rfl
  case sel =>
    exact alu2_intro (fun s _ _ x y => if (s.mask .S m).getLsbD 0 then x else y) (fun _ _ _ _ _ => rfl) fun _ _ _ _ _ => rfl

/-! ## One result of S at one target -/

/-- A result computed from two sources of S, once their pops are taken. -/
theorem result_of_srcs {s : State} {a b : BitVec 6} (h : CanPop (isPop a + isPop b) s) (lat : Nat) (t : Tgt)
    (f : Word → Word → Vec) :
    (srcS b (srcS a s).2).2.result .S lat t (f (srcS a s).1 (srcS b (srcS a s).2).1) =
      withResults (afterReads s (isPop a + isPop b) (mailsOf a ++ mailsOf b))
        (resultsAt s .S lat [t] (f (sVal s a 0) (sVal s b (isPop a)))) := by
  have ha : CanPop (isPop a) s := h.mono (Nat.le_add_right _ _)
  have h1 := me_srcS s a ha
  have hb : CanPop (isPop b) (srcS a s).2 := canPop_reads h1 h
  have h2 := me_srcS _ b hb
  rw [h1, readsCore_readsCore] at h2
  have hg : ∀ g, (srcS b (srcS a s).2).2.modMe g =
      s.modMe (fun c => g (readsCore (isPop a + isPop b) (mailsOf a ++ mailsOf b) c)) := by
    intro g
    rw [srcS_snd _ b hb, srcS_snd _ a ha]
    simp only [readsCore_readsCore]
  rw [result_eq, withResults_reads hg]
  simp only [resultsAt, count_reads h2, bn_reads h2, srcS_fst, sVal_reads h1, Nat.add_zero]

theorem result_of_src {s : State} {a : BitVec 6} (h : CanPop (isPop a) s) (lat : Nat) (t : Tgt) (f : Word → Vec) :
    (srcS a s).2.result .S lat t (f (srcS a s).1) =
      withResults (afterReads s (isPop a) (mailsOf a)) (resultsAt s .S lat [t] (f (sVal s a 0))) := by
  rw [result_eq, withResults_reads (srcS_snd s a h)]
  simp only [resultsAt, count_reads (me_srcS s a h), bn_reads (me_srcS s a h), srcS_fst]

theorem condS_eq_scalarCond (c : Nat) (x y : Word) : condS c x y = scalarCond c x y := by
  unfold condS scalarCond
  split <;> simp [BitVec.toNat_eq, bne, beq_eq_decide]

theorem wholeMask_setWidth (b : Bool) : (wholeMask b).setWidth 2048 = if b then BitVec.ofNat 2048 (2 ^ 256 - 1) else 0 := by
  cases b <;> simp [wholeMask]

theorem claim_scalarCompares : Claim.ScalarCompares := by
  unfold Claim.ScalarCompares
  refine ⟨fun s m a b c h => ?_, fun s c m i a h => ?_⟩
  · rw [← condS_eq_scalarCond, ← wholeMask_setWidth]
    exact congrArg Host.Outcome.next ((withPops_go h _ _).trans
      (result_of_srcs h 1 _ fun x y => (wholeMask (condS c.toNat x y)).setWidth 2048))
  · rw [← condS_eq_scalarCond, ← wholeMask_setWidth]
    exact congrArg Host.Outcome.next ((withPops_go h _ _).trans
      (result_of_src h 1 _ fun x => (wholeMask (condS c.toNat x (imm64 i))).setWidth 2048))

/-! ## System registers -/

theorem sysAllowed_go {ok : Bool} {s : State} (h : s.me.outrider = true ∨ ok = true) (k : State → State) :
    sysAllowed ok s k = k s := by
  unfold sysAllowed
  rcases h with h | h <;> simp [h]

theorem sysAllowed_traps {ok : Bool} {s : State} (h : s.me.outrider = false) (hok : ok = false) (k : State → State) :
    sysAllowed ok s k = takeTrap s 0x03 0 0 s.bundleAt false false := by
  unfold sysAllowed
  rw [h, hok]
  rfl

theorem taskReads_iff {i : Nat} : taskReads i = true ↔ i < 0x100 ∨ 0x200 ≤ i := by
  unfold taskReads
  simp only [Bool.not_eq_true', Bool.and_eq_false_iff, decide_eq_false_iff_not]
  omega

theorem claim_systemRegisterMoves : Claim.SystemRegisterMoves := by
  unfold Claim.SystemRegisterMoves
  refine ⟨fun s w d i _ h => ?_, fun s i a _ h hp => ?_, fun s w d i _ h lo hi => ?_, fun s i a _ h hn => ?_,
    fun w d i h => ?_, fun i a h => ?_⟩
  · exact congrArg Host.Outcome.next ((sysAllowed_go (h.imp_right taskReads_iff.mpr) _).trans (dest_eq ..))
  · refine congrArg Host.Outcome.next ((sysAllowed_go (h.imp_right fun e => decide_eq_true e) _).trans ?_)
    exact (withPops_go hp _ _).trans (result_of_src hp 1 _ wordVec)
  · have denied : taskReads i.toNat = false := by
      rw [Bool.eq_false_iff, Ne, taskReads_iff]
      omega
    exact congrArg Host.Outcome.next (sysAllowed_traps h denied _)
  · exact congrArg Host.Outcome.next (sysAllowed_traps h (decide_eq_false hn) _)
  · unfold legality judge
    simp [h]
  · unfold legality judge
    simp [h]

end Sys2Proof.Machine

namespace Sys2Proof

open Machine

/-- Settles O1: each operation is a sum, product or logical function of its sources, by the shapes of S. -/
theorem scalarArithmetic : Obligations.ScalarArithmetic := ⟨claim_scalarSums, claim_scalarLogic⟩

/-- Settles O3: a compare is one result in flight at its mask, and a register move acts where `sysAllowed` lets it. -/
theorem scalarComparesAndMoves : Obligations.ScalarComparesAndMoves := ⟨claim_scalarCompares, claim_systemRegisterMoves⟩

end Sys2Proof
end

section
/-! PROOF. The configuration, feed registers, `wide`, `fence`, `inject` and `cscnt` of F (O22). -/

namespace Sys2Proof.Machine

open Host (Outcome)

variable {s : State}

/-! ## Configuration -/

theorem modMyArray_eq (s : State) (f : FoldArray → FoldArray) : s.modMyArray f = withArray s f := rfl

theorem idleOp_idle (held : HoldsLease s) (idle : (arrayOf s).busy = false) (k : State → State) : idleOp s k = k s := by
  rw [idleOp, arrayOp_held held]
  exact if_neg (by rw [State.array, ← arrayOf, idle]; decide)

theorem idleOp_busy (held : HoldsLease s) (busy : (arrayOf s).busy = true) (k : State → State) :
    idleOp s k = slotTraps s 0x1D 0 .F := by
  rw [idleOp, arrayOp_held held]
  exact (if_pos busy).trans (fTrap_held held _ _)

/-- R157: the units that `accsel` selects; 0 and what is past 512 stand for 512. -/
theorem units_eq (x : Nat) : (if bitsN x 0 10 = 0 ∨ 512 < bitsN x 0 10 then 512 else bitsN x 0 10) =
    if x % 1024 = 0 then 512 else min (x % 1024) 512 := by
  rw [bitsN, Nat.pow_zero, Nat.div_one]
  split <;> split <;> omega

theorem mcast_units (x : Nat) {q : Nat} (h : q < 4) :
    (vget (Vector.ofFn (n := 4) fun i => BitVec.ofNat 2 (bitsN x (2 * i.val) 2)) q 0).toNat = x / 4 ^ q % 4 := by
  have four : 2 ^ (2 * q) = 4 ^ q := Nat.pow_mul 2 2 q
  simp only [vget, h, dif_pos, Vector.getElem_ofFn, BitVec.toNat_ofNat, bitsN, four]
  omega

theorem claim_foldConfiguration : Claim.FoldConfiguration := by
  unfold Claim.FoldConfiguration
  refine ⟨fun s g a b t u n held idle => ⟨?_, ?_, ?_, ?_⟩, fun s i g a b t u n held busy mem => ?_,
    fun s a b held => ⟨⟨_, ?_, fun q hq => mcast_units _ hq⟩, ?_, ?_, ?_⟩⟩
  · exact congrArg Outcome.next (idleOp_idle held idle _)
  · exact congrArg Outcome.next (idleOp_idle held idle _)
  · exact congrArg Outcome.next (idleOp_idle held idle _)
  · rw [← units_eq]
    exact congrArg Outcome.next (idleOp_idle held idle _)
  · simp only [List.mem_cons, List.not_mem_nil, or_false] at mem
    obtain rfl | rfl | rfl | rfl := mem
    all_goals exact congrArg Outcome.next (idleOp_busy held busy _)
  · exact congrArg Outcome.next (arrayOp_held held _)
  · have low : (s.bridge b).toNat % 4 = bitsN (s.bridge b).toNat 0 2 := by
      rw [bitsN, Nat.pow_zero, Nat.div_one]
      rfl
    rw [low]
    exact congrArg Outcome.next (arrayOp_held held _)
  · exact congrArg Outcome.next (arrayOp_held held _)
  · exact congrArg Outcome.next (arrayOp_held held _)

/-! ## Feed registers -/

theorem modFeed_eq (s : State) (k : Nat) (f : Feed → Feed) : s.modFeed k f = withFeed s k (f (feedOf s k)) := by
  unfold State.modFeed withFeed State.modRegs
  exact modMe_congr rfl

theorem claim_feedRegisters : Claim.FeedRegisters := by
  unfold Claim.FeedRegisters
  intro s k a
  have high : BitVec.ofNat 20 (field (s.bridge a) 32 20) = BitVec.ofNat 20 ((s.bridge a).toNat / 2 ^ 32) := by
    rw [field, bitsN, BitVec.toNat_eq, BitVec.toNat_ofNat, BitVec.toNat_ofNat, Nat.mod_mod]
  simp only [BitVec.ofNat_toNat, ← high]
  exact ⟨congrArg Outcome.next (modFeed_eq ..), congrArg Outcome.next (modFeed_eq ..), congrArg Outcome.next (modFeed_eq ..),
    congrArg Outcome.next (modFeed_eq ..)⟩

/-! ## WIDE -/

theorem boundF_iff (s : State) (x : BitVec 6) :
    boundF s x = true ↔ 40 ≤ x.toNat ∨ vget s.regs.vec.banks (x.toNat / 10) .va = .f := by
  rw [boundF, Bool.or_eq_true, decide_eq_true_iff, decide_eq_true_iff]

/-- A second result in flight besides: starting the first has not moved the issue count. -/
theorem result_result (s : State) (slot : Pos) (lat : Nat) (t u : Tgt) (v x : Vec) :
    (s.result slot lat t v).result slot lat u x = withResults s (resultsAt s slot lat [t] v ++ resultsAt s slot lat [u] x) := by
  rw [result_eq, result_eq, ← withResults_withResults]
  simp only [resultsAt, pipe_withResults]

theorem wrapN_pow (y : Int) (n : Nat) : wrapN y n = (y % 2 ^ n).toNat := by
  rw [wrapN, Nat.cast_pow, Nat.cast_ofNat]

theorem sextN_toNat {n : Nat} (h : 0 < n) (x : BitVec n) : sextN x.toNat n = twos n x.toNat := by
  rw [sextN_eq_twos h, Nat.mod_eq_of_lt x.isLt]

theorem execFWide_held (held : HoldsLease s) {d a b : BitVec 6} (bound : ∀ x ∈ [d, d + 1, a, b], boundF s x = true)
    (c : BitVec 1) (m : BitVec 3) :
    let old := (vget s.regs.vec.v (d.toNat + 1) 0).toNat * 2 ^ 2048 + (vget s.regs.vec.v d.toNat 0).toNat
    let y := wrapN (sextN (srcF a s).toNat 2048 * sextN (srcF b s).toNat (64 * (m.toNat + 1)) +
      (if c = 1 then Int.ofNat old else 0)) 4096
    exec (.fWide d a b c m) s = .next (withResults s (resultsAt s .F 10 [.vreg d.toNat] (natVec y) ++
      resultsAt s .F 10 [.vreg (d.toNat + 1)] (natVec (y / 2 ^ 2048)))) := by
  intro old y
  have all : (boundF s d && boundF s (d + 1) && boundF s a && boundF s b) = true := by
    simpa [and_assoc] using bound
  refine congrArg Outcome.next ((arrayOp_held held _).trans ((if_neg ?_).trans (result_result ..)))
  rw [all]
  decide

/-! ## Fence -/

/-- R175: what `fence` waits for. -/
theorem foldPending_iff (s : State) : foldPending s = true ↔
    (∃ p ∈ (arrayOf s).flight, p.core = s.cur.toNat % 4) ∨ (∃ d ∈ (arrayOf s).drains, d.core = s.cur.toNat % 4) ∨
      (∃ f ∈ s.pipe.flight, f.slot = .F ∧ ∃ r, f.tgt = .vreg r) := by
  simp only [foldPending, Bool.or_eq_true, List.any_eq_true, decide_eq_true_eq, Bool.and_eq_true, or_assoc]
  refine or_congr Iff.rfl (or_congr Iff.rfl (exists_congr fun f => and_congr_right fun _ => and_congr_right fun _ => ?_))
  cases f.tgt <;> simp

theorem execFFence_clear (held : HoldsLease s) (clear : foldPending s = false) : exec .fFence s = .next s := by
  exact congrArg Outcome.next ((arrayOp_held held _).trans (if_neg (by rw [clear]; decide)))

theorem execFFence_waits (held : HoldsLease s) (pending : foldPending s = true) :
    exec .fFence s = .next (s.modPipe (fun p => { p with waits := true, empty := true })) :=
  congrArg Outcome.next ((arrayOp_held held _).trans (if_pos pending))

/-! ## Inject and cscnt -/

theorem landAll_none {a : FoldArray} {past : FoldStep → Bool} (h : ∀ p ∈ a.flight, past p = false) : a.landAll past = a := by
  have none : a.flight.filter past = [] := List.filter_eq_nil_iff.mpr fun p hp => by rw [h p hp]; decide
  have all : a.flight.filter (fun p => !past p) = a.flight := List.filter_eq_self.mpr fun p hp => by rw [h p hp]; rfl
  rw [FoldArray.landAll, none, all]
  rfl

theorem withArray_congr {f g : FoldArray → FoldArray} (h : f (arrayOf s) = g (arrayOf s)) : withArray s f = withArray s g :=
  congrArg (fun x => s.setQuad s.myQuad { s.quad s.myQuad with array := x }) h

theorem execFInject_acts (held : HoldsLease s) (inj : s.me.fold.inj = true)
    (steps : ∀ p ∈ (arrayOf s).flight, s.pipe.count < p.due) (a b : BitVec 6) :
    exec (.fInject a b) s = .next (withArray s (fun _ => (arrayOf s).inject ((s.bridge a).toNat % 2 ^ 16)
      ((s.bridge a).toNat / 2 ^ 16 % 2 ^ 16) (s.bridge b).toInt)) := by
  have landed : (arrayOf s).landAll (fun p => p.due ≤ s.pipe.count) = arrayOf s :=
    landAll_none fun p hp => decide_eq_false (Nat.not_le.mpr (steps p hp))
  refine congrArg Outcome.next ((arrayOp_held held _).trans ((if_pos inj).trans ((modMyArray_eq s _).trans (withArray_congr ?_))))
  rw [landed, bitsN, bitsN, Nat.pow_zero, Nat.div_one]

theorem execFCscnt_eq (s : State) (r : BitVec 1) (m : BitVec 2) :
    let f := s.me.fold
    let v := BitVec.ofNat 64 (f.corr.toNat + 2 ^ 32 * f.lane.toNat + 2 ^ 48 * f.fail.toNat)
    let s1 := if r = 1 then s.modMe (fun c => { c with fold := { c.fold with corr := 0, lane := 0, fail := 0 } }) else s
    exec (.fCscnt r m) s = .next (if s.fGroup then s1.result .F 1 (.mail m.toNat) (wordVec v)
      else s1.modMe (fun c => { c with olds := fset c.olds (4 + m.toNat) v })) := rfl

theorem claim_foldOther : Claim.FoldOther := by
  unfold Claim.FoldOther
  refine ⟨fun s d a b c m held hd bound => ?_, fun s held => ⟨fun steps drains wide => ?_, fun pending => ?_⟩,
    fun s a b held inj steps => ?_, fun s a b held inj => ?_, fun s r m => ?_⟩
  · intro v n old z y
    have same : wrapN (sextN (srcF a s).toNat 2048 * sextN (srcF b s).toNat (64 * (m.toNat + 1)) +
        (if c = 1 then Int.ofNat old else 0)) 4096 = y := by
      rw [wrapN_pow, sextN_toNat (by decide), sextN_eq_twos (by omega)]
      rfl
    rw [execFWide_held held (fun x hx => (boundF_iff s x).mpr (bound x hx)) c m, same]
  · refine execFFence_clear held (Bool.eq_false_iff.mpr fun pending => ?_)
    obtain ⟨p, hp, e⟩ | ⟨x, hx, e⟩ | ⟨f, hf, e, r, t⟩ := (foldPending_iff s).mp pending
    · exact steps p hp e
    · exact drains x hx e
    · exact wide f hf e r t
  · exact execFFence_waits held ((foldPending_iff s).mpr pending)
  · exact execFInject_acts held inj steps a b
  · exact congrArg Outcome.next ((arrayOp_held held _).trans ((if_neg (by rw [inj]; decide)).trans (fTrap_held held _ _)))
  · intro f v s1
    have pipe : s1.pipe = s.pipe := by
      simp only [s1]
      split
      · exact pipe_modFold s fun f => { f with corr := 0, lane := 0, fail := 0 }
      · rfl
    refine ⟨fun held => (execFCscnt_eq s r m).trans (congrArg Outcome.next ((if_pos (decide_eq_true held)).trans ?_)),
      fun free => (execFCscnt_eq s r m).trans (congrArg Outcome.next (if_neg (by simpa [State.fGroup] using free)))⟩
    rw [result_eq, resultsAt, pipe]
    rfl

end Sys2Proof.Machine

namespace Sys2Proof

open Machine

/-- Settles O22: with the lease held, each opcode is the change of the array or of the feed registers that its claim states. -/
theorem foldSettings : Obligations.FoldSettings := ⟨claim_foldConfiguration, claim_feedRegisters, claim_foldOther⟩

end Sys2Proof
end

section
/-! PROOF. The frame of issue (O55): memory, the other cores and the register files are as before every operation that a syllable
outside C calls. -/

namespace Sys2Proof.Machine

open Host (Outcome)

/-! ## What issue keeps -/

/-- The files of one set of pipelines that only landings and the fixed group's progress change. -/
def pipeFiles (p : Pipe) := (p.s, p.bridge, p.latch, p.p, p.pSync, p.pOwn, p.count, p.pc)

/-- The registers of a core that issue outside C keeps; with `all`, those that L, W or F set at issue as well. -/
def regFrame (all : Bool) (r : CoreRegs) :=
  (pipeFiles r.task, pipeFiles r.outr, r.vec, r.loop, r.region, r.scale, r.lim, r.id, r.run,
    if all then some (r.feed, r.tok, r.arr, r.wins) else none)

/-- State t differs from s0 neither in memory, nor in another core, nor in the registers of the frame. -/
structure Frames (all : Bool) (s0 t : State) : Prop where
  cur : t.cur = s0.cur
  mem : t.mem = s0.mem
  others : ∀ n, n ≠ s0.cur.toNat → t.core n = s0.core n
  regs : regFrame all t.me.regs = regFrame all s0.me.regs

variable {all : Bool} {s0 s : State}

theorem frames_refl (all : Bool) (s : State) : Frames all s s := ⟨rfl, rfl, fun _ _ => rfl, rfl⟩

theorem filesSame_of_frames {t : State} (h : Frames all s t) : FilesSame s t := by
  obtain ⟨-, mem, others, regs⟩ := h
  simp only [regFrame, pipeFiles, Prod.mk.injEq] at regs
  obtain ⟨⟨ts, tbridge, tlatch, tp, tpSync, tpOwn, -, -⟩, ⟨os, -, -, op, -, -, -, -⟩, vec, loop, region, scale, lim, id, run, -⟩ :=
    regs
  exact ⟨fun a => by rw [mem], others, ts, tbridge, tlatch, tp, tpSync, tpOwn, os, op, vec, loop, region, scale, lim, id, run⟩

theorem sameRegisters_of_frames {t : State} (h : Frames true s t) : SameRegisters s t := by
  obtain ⟨-, mem, others, regs⟩ := h
  simp only [regFrame, pipeFiles, Prod.mk.injEq, if_true, Option.some.injEq] at regs
  obtain ⟨⟨ts, tbridge, tlatch, tp, tpSync, tpOwn, count, pc⟩, ⟨os, -, -, op, -, -, -, -⟩, vec, loop, region, scale, lim, id,
    run, feed, tok, arr, wins⟩ := regs
  exact ⟨fun a => by rw [mem], others, ts, tbridge, tlatch, tp, tpSync, tpOwn, count, pc, os, op, vec, loop, region, feed, scale,
    tok, arr, wins, lim, id, run⟩

/-! ## Branches, folds and pairs -/

/-- A change of what is neither memory nor a core. -/
theorem frames_of_cores {t : State} (h : Frames all s0 s) (cur : t.cur = s.cur) (mem : t.mem = s.mem)
    (cores : t.cores = s.cores) : Frames all s0 t := by
  have core : ∀ n, t.core n = s.core n := fun n => by rw [State.core, State.core, cores]
  refine ⟨cur.trans h.cur, mem.trans h.mem, fun n hn => (core n).trans (h.others n hn), ?_⟩
  rw [State.me, core, cur]
  exact h.regs

theorem frames_ite {c : Prop} [Decidable c] {t : State} (hs : Frames all s0 s) (ht : Frames all s0 t) :
    Frames all s0 (if c then s else t) := by
  split
  · exact hs
  · exact ht

theorem frames_foldl {α : Type} {f : State → α → State} {l : List α} (g : ∀ t x, Frames all s0 t → Frames all s0 (f t x))
    (h : Frames all s0 s) : Frames all s0 (l.foldl f s) := foldl_keeps g l h

theorem frames_foldl_snd {α β : Type} {f : β × State → α → β × State} {l : List α} {p : β × State}
    (g : ∀ (p : β × State) x, Frames all s0 p.2 → Frames all s0 (f p x).2) (h : Frames all s0 p.2) :
    Frames all s0 (l.foldl f p).2 :=
  foldl_keeps (P := fun p : β × State => Frames all s0 p.2) g l h

theorem frames_snd {α : Type} {p : α × State} {a : α} (e : p = (a, s)) (h : Frames all s0 p.2) : Frames all s0 s := by
  rw [e] at h
  exact h

/-! ## The state's operations -/

theorem frames_modCore {n : Nat} {f : Core → Core} (h : Frames all s0 s) (hn : n = s0.cur.toNat)
    (hf : ∀ c, regFrame all (f c).regs = regFrame all c.regs) : Frames all s0 (s.modCore n f) := by
  refine ⟨h.cur, h.mem, fun k hk => ?_, ?_⟩
  · rw [core_modCore_ne s f (by rw [hn]; exact hk)]
    exact h.others k hk
  · have me : (s.modCore n f).me = f s.me := by
      rw [hn, ← h.cur]
      exact me_modMe s f
    rw [me, hf]
    exact h.regs

theorem frames_modMe {f : Core → Core} (h : Frames all s0 s)
    (hf : ∀ c, regFrame all (f c).regs = regFrame all c.regs) : Frames all s0 (s.modMe f) :=
  frames_modCore h (congrArg BitVec.toNat h.cur) hf

theorem frames_modRegs {f : CoreRegs → CoreRegs} (h : Frames all s0 s)
    (hf : ∀ r, regFrame all (f r) = regFrame all r) : Frames all s0 (s.modRegs f) :=
  frames_modMe h fun c => hf c.regs

theorem frames_modPipe {f : Pipe → Pipe} (h : Frames all s0 s)
    (hf : ∀ p, pipeFiles (f p) = pipeFiles p) : Frames all s0 (s.modPipe f) := by
  refine frames_modMe h fun c => ?_
  unfold Core.modPipe
  split <;> simp [Core.modRegs, regFrame, hf]

theorem frames_modQuad {q : Nat} {f : Quad → Quad} (h : Frames all s0 s) : Frames all s0 (s.modQuad q f) :=
  frames_of_cores h rfl rfl rfl

theorem frames_modDbg {d : Nat} {f : Dbg → Dbg} (h : Frames all s0 s) : Frames all s0 (s.modDbg d f) :=
  frames_of_cores h rfl rfl rfl

theorem frames_refresh (h : Frames all s0 s) : Frames all s0 s.refresh := frames_of_cores h rfl rfl rfl

theorem frames_result {slot : Pos} {lat : Nat} {t : Tgt} {v : Vec} (h : Frames all s0 s) : Frames all s0 (s.result slot lat t v) :=
  frames_modPipe h fun _ => rfl

theorem frames_dest {slot : Pos} {lat : Nat} {w : BitVec 1} {d : BitVec 6} {v : Vec} (h : Frames all s0 s) :
    Frames all s0 (s.dest slot lat w d v) := frames_ite (frames_result h) (frames_result (frames_result h))

theorem frames_traceRecord {n kind : Nat} {va arg : Word} (h : Frames all s0 s) : Frames all s0 (traceRecord s n kind va arg) :=
  frames_ite (frames_modDbg h) h

theorem frames_traceSource {d code : Nat} {ok : Trace → Word → Bool} (h : Frames all s0 s) :
    Frames all s0 (traceSource s d code ok) := frames_ite (frames_modDbg h) h

theorem frames_monRecord {d src tag core v : Nat} (h : Frames all s0 s) : Frames all s0 (monRecord s d src tag core v) :=
  frames_ite h (frames_traceSource (frames_modDbg h))

theorem frames_haltCore {n : Nat} (h : Frames all s0 s) (hn : n = s0.cur.toNat) : Frames all s0 (haltCore s n) :=
  frames_traceRecord (frames_modCore h hn fun _ => rfl)

/-! ## Traps -/

theorem pipeFiles_withdraw (p : Pipe) : pipeFiles p.withdraw = pipeFiles p := by
  unfold Pipe.withdraw
  split <;> rfl

theorem frames_outriderFault {cause : Nat} {addr : Word} (h : Frames all s0 s) : Frames all s0 (outriderFault s cause addr) :=
  frames_ite (frames_modRegs (frames_modQuad h) fun _ => rfl) (frames_modRegs (frames_modQuad h) fun _ => rfl)

theorem frames_takeTrap {cause slot : Nat} {a b : Word} {slip fetch : Bool} (h : Frames all s0 s) :
    Frames all s0 (takeTrap s cause a slot b slip fetch) := by
  refine frames_ite (frames_outriderFault h) (frames_traceRecord (frames_modRegs h fun r => ?_))
  have task : pipeFiles (if slip then r.task else r.task.withdraw) = pipeFiles r.task := by
    split
    · rfl
    · exact pipeFiles_withdraw r.task
  simp only [regFrame, task]
  rfl

theorem frames_wStoreTrap {cause : Nat} {ea : Word} {data : Vec} (h : Frames all s0 s) :
    Frames all s0 (wStoreTrap s cause ea data) := frames_ite (frames_takeTrap h) (frames_modRegs (frames_takeTrap h) fun _ => rfl)

theorem frames_fTrap {cause : Nat} {a : Word} (h : Frames all s0 s) : Frames all s0 (fTrap s cause a) :=
  frames_ite (frames_takeTrap h) (frames_takeTrap h)

/-! ## Sources and the shapes of S, VA, VB and K -/

theorem frames_holdNow (h : Frames all s0 s) : Frames all s0 s.holdNow := frames_modPipe h fun _ => rfl

theorem frames_popLdq (h : Frames all s0 s) : Frames all s0 (popLdq s).2 := by
  unfold popLdq
  split
  · exact h
  · exact frames_modPipe h fun _ => rfl

theorem frames_withPops {n : Nat} {slot : Pos} {k : State → State} (h : Frames all s0 s)
    (hk : ∀ t, Frames all s0 t → Frames all s0 (k t)) : Frames all s0 (withPops n slot s k) := by
  unfold withPops
  split
  · exact hk _ h
  · exact frames_holdNow h
  · exact frames_takeTrap h

theorem frames_readMail {m : Nat} (h : Frames all s0 s) : Frames all s0 (readMail s m).2 := by
  dsimp only [readMail]
  exact frames_modMe h fun _ => rfl

theorem frames_srcS {x : BitVec 6} (h : Frames all s0 s) : Frames all s0 (srcS x s).2 := by
  unfold srcS
  dsimp only
  split_ifs
  · exact h
  · exact h
  · exact frames_readMail h
  · exact frames_popLdq h
  · exact h

theorem frames_srcV {slot : Pos} {x : BitVec 6} (h : Frames all s0 s) : Frames all s0 (srcV slot x s).2 := by
  unfold srcV
  dsimp only
  split_ifs
  · exact h
  · exact h
  · exact h
  · exact h
  · exact frames_popLdq h
  · exact h

theorem frames_srcVE {slot : Pos} {n : Nat} {x : BitVec 6} (h : Frames all s0 s) : Frames all s0 (srcVE slot n x s).2 := by
  unfold srcVE
  split
  · exact h
  · exact frames_srcV h

theorem frames_aluS {lat : Nat} {w : BitVec 1} {d a b : BitVec 6} {f : Word → Word → Word} (h : Frames all s0 s) :
    Frames all s0 (aluS lat w d a b f s) := frames_withPops h fun _ ht => frames_dest (frames_srcS (frames_srcS ht))

theorem frames_aluS1 {lat : Nat} {w : BitVec 1} {d a : BitVec 6} {f : Word → Word} (h : Frames all s0 s) :
    Frames all s0 (aluS1 lat w d a f s) := frames_withPops h fun _ ht => frames_dest (frames_srcS ht)

theorem frames_sysAllowed {ok : Bool} {k : State → State} (h : Frames all s0 s)
    (hk : ∀ t, Frames all s0 t → Frames all s0 (k t)) : Frames all s0 (sysAllowed ok s k) := frames_ite (hk _ h) (frames_takeTrap h)

theorem frames_vec2 {vs : VSlot} {lat : Nat} {w : BitVec 1} {d a b : BitVec 6} {bc : Option Nat} {f : Vec → Vec → Vec → Vec}
    (h : Frames all s0 s) : Frames all s0 (vec2 vs lat w d a b bc f s) := by
  refine frames_withPops h fun _ ht => frames_dest ?_
  cases bc with
  | none => exact frames_srcV (frames_srcV ht)
  | some n => exact frames_srcVE (frames_srcVE ht)

theorem frames_vec1 {vs : VSlot} {lat : Nat} {w : BitVec 1} {d a : BitVec 6} {bc : Option Nat} {f : Vec → Vec → Vec}
    (h : Frames all s0 s) : Frames all s0 (vec1 vs lat w d a bc f s) := by
  refine frames_withPops h fun _ ht => frames_dest ?_
  cases bc with
  | none => exact frames_srcV ht
  | some n => exact frames_srcVE ht

theorem frames_incAfter {s' : State} {j : BitVec 3} {p : BitVec 1} {o : BitVec 11} {u : Nat} (h : Frames all s0 s') :
    Frames all s0 (incAfter s j p o u s') := frames_ite (frames_ite (frames_modPipe h fun _ => rfl) h) h

/-- A syllable that acts once a test has passed, and traps otherwise. -/
theorem frames_alignedK {ok : Bool} {ea : Word} {k : State → State} (h : Frames all s0 s)
    (hk : ∀ t, Frames all s0 t → Frames all s0 (k t)) : Frames all s0 (alignedK ok ea s k) :=
  frames_ite (hk _ h) (frames_takeTrap h)

theorem frames_scaleLoad {k : BitVec 3} {lo n : Nat} {ea : Word} (h : Frames all s0 s) : Frames all s0 (scaleLoad k lo n ea s) :=
  frames_alignedK h fun _ ht => frames_refresh (frames_result ht)

/-! ## Translation -/

theorem frames_fresh (k : Nat) (h : Frames all s0 s) : Frames all s0 { s with fresh := k } := frames_of_cores h rfl rfl rfl

theorem frames_enterLeaf {n : Nat} {fetch : Bool} {l : Leaf} (h : Frames all s0 s) (hn : n = s0.cur.toNat) :
    Frames all s0 (enterLeaf n fetch l s) := by
  refine frames_fresh _ (frames_modCore (frames_modQuad h) hn fun c => ?_)
  split <;> rfl

theorem frames_postPark {q bits : Nat} {r : PageReq} (h : Frames all s0 s) : Frames all s0 (postPark q bits r s) :=
  frames_ite h (frames_modQuad h)

theorem frames_dropLeaf {n tag va : Nat} (h : Frames all s0 s) (hn : n = s0.cur.toNat) : Frames all s0 (dropLeaf n tag va s) := by
  dsimp only [dropLeaf]
  exact frames_modCore (frames_modQuad h) hn fun _ => rfl

theorem frames_coreWalk {n va : Nat} {fetch : Bool} (h : Frames all s0 s) (hn : n = s0.cur.toNat) :
    Frames all s0 (coreWalk n fetch va s).2 := by
  unfold coreWalk
  dsimp only
  rw [apply_ite Prod.snd]
  exact frames_ite (frames_dropLeaf h hn) h

theorem frames_walkEnds {n tag va kind : Nat} {fetch : Bool} {cause : Option Nat} {out : WalkOut} (h : Frames all s0 s)
    (hn : n = s0.cur.toNat) : Frames all s0 (walkEnds n tag fetch va kind cause out s).2 := by
  unfold walkEnds
  split
  · exact frames_of_cores h rfl rfl rfl
  · have tables : Frames all s0 (enterTables (n / 4) tag out s) := frames_modQuad h
    dsimp only
    split
    · exact frames_enterLeaf tables hn
    · split
      · exact frames_postPark tables
      · exact tables
    · exact tables

theorem frames_walkNow {va kind : Nat} {cause : Option Nat} (h : Frames all s0 s) :
    Frames all s0 (walkNow s.cur.toNat va kind cause s).2 := by
  have cur : s.cur.toNat = s0.cur.toNat := congrArg BitVec.toNat h.cur
  unfold walkNow
  dsimp only
  split
  · exact h
  · exact frames_walkEnds (frames_coreWalk (frames_monRecord h) cur) cur

/-! ## One global access of L or W -/

theorem frames_askWalk {w : Bool} {va kind : Nat} (h : Frames all s0 s) : Frames all s0 (askWalk w va kind s) := by
  refine frames_modMe h fun c => ?_
  split
  · rfl
  · split <;> rfl

theorem frames_dropWalks {w : Bool} (h : Frames all s0 s) : Frames all s0 (dropWalks w s) := by
  refine frames_modMe h fun c => ?_
  split <;> rfl

theorem frames_settleAcq (h : Frames all s0 s) : Frames all s0 (settleAcq s) := frames_ite (frames_modMe h fun _ => rfl) h

theorem frames_watchReport {hits : List Nat} {bn slot : Nat} {trap : State → State} (h : Frames all s0 s)
    (htrap : ∀ t, Frames all s0 t → Frames all s0 (trap t)) : Frames all s0 (watchReport hits bn slot trap s) :=
  frames_ite (frames_haltCore (frames_traceSource (frames_modMe h fun _ => rfl)) (congrArg BitVec.toNat h.cur))
    (htrap _ (frames_traceSource (frames_modMe h fun _ => rfl)))

theorem frames_issueAccess {x : Acc} {hold : State → State} {trap : Nat → Word → State → State}
    {queue : Option Nat → State → State} (h : Frames all s0 s) (hhold : ∀ t, Frames all s0 t → Frames all s0 (hold t))
    (htrap : ∀ c a t, Frames all s0 t → Frames all s0 (trap c a t))
    (hqueue : ∀ park t, Frames all s0 t → Frames all s0 (queue park t)) : Frames all s0 (issueAccess x hold trap queue s) := by
  have dropped (c : Nat) (a : Word) : Frames all s0 (trap c a (dropWalks x.w s)) := htrap _ _ _ (frames_dropWalks h)
  unfold issueAccess
  dsimp only
  refine frames_ite (dropped _ _) ?_
  split
  · exact hhold _ (frames_askWalk h)
  · exact dropped _ _
  · exact frames_ite (hhold _ h) (frames_ite (dropped _ _) (hqueue _ _ h))
  · refine frames_ite (frames_watchReport h (htrap _ _)) (frames_ite (dropped _ _) ?_)
    split
    · exact dropped _ _
    · exact hqueue _ _ h

/-! ## Loads -/

theorem frames_withEntry {k : State → State} (h : Frames all s0 s) (hk : ∀ t, Frames all s0 t → Frames all s0 (k t)) :
    Frames all s0 (withEntry s k) := frames_ite (frames_takeTrap h) (hk _ h)

theorem frames_alignedL {ok : Bool} {ea : Word} {k : State → State} (h : Frames all s0 s)
    (hk : ∀ t, Frames all s0 t → Frames all s0 (k t)) : Frames all s0 (alignedL ok ea s k) :=
  frames_ite (hk _ h) (frames_takeTrap h)

theorem frames_reserveFixed {lat : Nat} {v : Vec} {mask : Option (Nat × Mask)} (h : Frames all s0 s) :
    Frames all s0 (reserveFixed lat v mask s) := frames_modPipe h fun _ => rfl

theorem frames_landNow {bytes : List (Nat × Byte)} (h : Frames all s0 s) : Frames all s0 (landNow bytes s) :=
  frames_modPipe h fun _ => rfl

theorem frames_padLoad {lat n al : Nat} {how : Deliver} {ea : Word} (h : Frames all s0 s) :
    Frames all s0 (padLoad lat n al how ea s) :=
  frames_withEntry h fun _ ht => frames_alignedL ht fun _ ht' => frames_refresh (frames_reserveFixed ht')

theorem frames_padLoadBase {lat n u : Nat} {how : Deliver} {j : BitVec 3} {p : BitVec 1} {o : BitVec 11} {x : BitVec 6}
    (h : Frames all s0 s) : Frames all s0 (padLoadBase lat n u how j p o x s) :=
  frames_ite (frames_incAfter (frames_padLoad h)) (frames_withEntry h fun _ ht => frames_reserveFixed ht)

theorem frames_enterLoad {r : Req LdOp} {mask : Option (Nat × Mask)} (h : Frames all s0 s) : Frames all s0 (enterLoad r mask s) :=
  frames_modPipe h fun _ => rfl

/-- A load that needs an entry of the load data queue and one of the load queue. -/
theorem frames_withQueue {t : State} (h : Frames all s0 s) (ht : Frames all s0 t) :
    Frames all s0 (if ldqCap s.me ≤ s.pipe.ldq.length then fixedTrap s cLDQ_OVERFLOW 0 .L
      else if s.pipe.lqFull then s.holdNow else t) :=
  frames_ite (frames_takeTrap h) (frames_ite (frames_holdNow h) ht)

theorem frames_globalLoad {op : LdOp} {how : Deliver} {n ulen al : Nat} {ea : Word} {own : Nat → Option Nat}
    (h : Frames all s0 s) : Frames all s0 (globalLoad op how n ulen al ea own s) :=
  frames_withQueue h (frames_issueAccess h (fun _ ht => frames_holdNow ht) (fun _ _ _ ht => frames_takeTrap ht)
    fun _ _ ht => frames_dropWalks (frames_enterLoad (frames_settleAcq ht)))

theorem frames_zeroEntry (h : Frames all s0 s) : Frames all s0 (zeroEntry s) :=
  frames_withEntry h fun _ ht => frames_modPipe ht fun _ => rfl

theorem frames_prefetch {intoL1 : Bool} {ea : Word} (h : Frames all s0 s) : Frames all s0 (prefetch intoL1 ea s) := by
  refine frames_ite h ?_
  split
  all_goals
    rename_i e
    have walked := frames_snd e (frames_walkNow h)
  · exact frames_ite (frames_enterLoad (frames_settleAcq walked)) walked
  · exact walked

theorem frames_execLLdr {m : BitVec 4} {a b : BitVec 6} {t : State} (h : Frames all s0 s) (e : exec (.lLdr m a b) s = .next t) :
    Frames all s0 t := by
  cases e
  have dropped (c : Nat) (a : Word) : Frames all s0 (trapL c a (dropWalks false s)) := frames_takeTrap (frames_dropWalks h)
  refine frames_withQueue h (frames_ite (frames_takeTrap h) ?_)
  split
  · exact frames_holdNow (frames_askWalk h)
  · exact dropped _ _
  · refine frames_ite (frames_watchReport h fun _ ht => frames_takeTrap ht) (frames_ite (dropped _ _) ?_)
    dsimp only
    split
    · exact dropped _ _
    · exact frames_dropWalks (frames_enterLoad (frames_settleAcq h))

/-! ## Windows -/

theorem frames_setWin {n : Nat} {w : Window} (h : Frames false s0 s) : Frames false s0 (s.setWin n w) :=
  frames_modRegs h fun _ => rfl

theorem frames_fillUnits {va : Nat} (h : Frames all s0 s) : Frames all s0 (fillUnits va s).2 := by
  unfold fillUnits
  split
  · exact h
  · split
    all_goals
      rename_i e
      exact frames_snd e (frames_walkNow h)

theorem frames_startFill {n j bn : Nat} {addr : Word} (h : Frames false s0 s) : Frames false s0 (startFill n j bn addr s) :=
  frames_modPipe (frames_setWin (frames_fillUnits h)) fun _ => rfl

theorem frames_dropFill {n j : Nat} (h : Frames all s0 s) : Frames all s0 (dropFill n j s) := frames_modRegs h fun _ => rfl

theorem frames_writeBack {n j bn : Nat} {addr : Word} (h : Frames false s0 s) : Frames false s0 (writeBack n j bn addr s) := by
  refine frames_ite h (frames_ite (frames_setWin h) ?_)
  split
  all_goals
    rename_i e
    have walked := frames_snd e (frames_walkNow h)
  · exact frames_ite (frames_setWin walked) (frames_modPipe (frames_setWin walked) fun _ => rfl)
  · exact frames_modPipe (frames_setWin walked) fun _ => rfl
  · exact frames_setWin walked

theorem frames_writeBackAll {n bn : Nat} {addr : Word} {js : List Nat} (h : Frames false s0 s) :
    Frames false s0 (writeBackAll n bn addr js s) := frames_foldl (fun _ _ ht => frames_writeBack ht) h

theorem frames_advance {n d : Nat} (h : Frames false s0 s) : Frames false s0 (advance n d s) := by
  unfold advance
  extract_lets _ _ back gone _ moved
  have hback : Frames false s0 back := frames_writeBackAll h
  have hgone : Frames false s0 gone := frames_foldl (fun _ _ ht => frames_dropFill (frames_setWin ht)) hback
  have hmoved : Frames false s0 moved := frames_setWin hgone
  exact frames_ite hmoved (frames_foldl (fun _ _ ht => frames_startFill ht) hmoved)

theorem frames_touchFill {o bn : Nat} {addr : Word} (h : Frames false s0 s) : Frames false s0 (touchFill o bn addr s) :=
  frames_foldl (fun _ _ ht => frames_ite (frames_startFill ht) ht) h

theorem frames_markDirty {o : Nat} (h : Frames false s0 s) : Frames false s0 (markDirty o s) :=
  frames_foldl (fun _ _ ht => frames_setWin ht) h

/-! ## W -/

theorem frames_wPop (h : Frames all s0 s) : Frames all s0 (wPop s) := frames_modPipe h fun _ => rfl

theorem frames_slotStore {ok : Bool} {ea : Word} {data : Vec} {bytes : List (Nat × Byte)} (h : Frames all s0 s) :
    Frames all s0 (slotStore ok ea data bytes s) := frames_ite (frames_modPipe (frames_wPop h) fun _ => rfl) (frames_wStoreTrap h)

theorem frames_enterStore {r : Req StOp} (h : Frames all s0 s) : Frames all s0 (enterStore r s) :=
  frames_wPop (frames_modPipe h fun _ => rfl)

theorem frames_withStoreEntry {k : State → State} (h : Frames all s0 s) (hk : ∀ t, Frames all s0 t → Frames all s0 (k t)) :
    Frames all s0 (withStoreEntry s k) := frames_ite h (hk _ h)

theorem frames_withBoth {k : State → State} (h : Frames all s0 s) (hk : ∀ t, Frames all s0 t → Frames all s0 (k t)) :
    Frames all s0 (withBoth s k) := frames_ite h (frames_withStoreEntry h hk)

theorem frames_globalStore {op : StOp} {n ulen al v : Nat} {ea : Word} {own : Nat → Option Nat} (h : Frames all s0 s) :
    Frames all s0 (globalStore op n ulen al v ea own s) :=
  frames_withStoreEntry h fun _ ht => frames_issueAccess ht (fun _ h' => h') (fun _ _ _ h' => frames_wStoreTrap h')
    fun _ _ h' => frames_dropWalks (frames_enterStore (frames_settleAcq h'))

theorem frames_addPartner (h : Frames all s0 s) : Frames all s0 (addPartner s) := frames_modPipe h fun _ => rfl

theorem frames_fenceW {op : StOp} {scope : Nat} (h : Frames all s0 s) : Frames all s0 (fenceW op scope s) :=
  frames_withBoth h fun _ ht => frames_ite (frames_enterStore (frames_addPartner (frames_settleAcq ht))) ht

theorem frames_atomicW {op : Nat} {t : BitVec 3} {n : BitVec 1} {m : BitVec 2} {cas : Bool} {acq rel : Option Nat}
    (h : Frames all s0 s) : Frames all s0 (atomicW op t n m cas acq rel s) := by
  unfold atomicW
  extract_lets _ _ go
  have hgo : ∀ u, Frames all s0 u → Frames all s0 (go u) := fun _ hu =>
    frames_issueAccess hu (fun _ h' => h') (fun _ _ _ h' => frames_takeTrap h') fun _ _ h' =>
      have acquired := frames_settleAcq h'
      frames_dropWalks (frames_enterStore (frames_ite acquired (frames_addPartner acquired)))
  exact frames_ite (frames_withStoreEntry h hgo) (frames_withBoth h hgo)

theorem frames_lineOp {op : StOp} (h : Frames all s0 s) : Frames all s0 (lineOp op s) := by
  refine frames_withStoreEntry h fun _ ht => frames_ite (frames_takeTrap ht) ?_
  have dropped := frames_dropWalks (w := true) (frames_wPop ht)
  split
  · exact frames_askWalk ht
  · exact frames_ite dropped (frames_takeTrap (frames_dropWalks ht))
  · exact dropped
  · split
    · exact frames_takeTrap (frames_dropWalks ht)
    · exact frames_dropWalks (frames_enterStore (frames_settleAcq ht))

theorem frames_plainEntryAt {va : Word} {op : StOp} {v : Nat} (h : Frames all s0 s) : Frames all s0 (plainEntryAt va op v s) :=
  frames_withStoreEntry h fun _ ht => frames_enterStore (frames_settleAcq ht)

theorem frames_withCommand {target : Nat} {k : State → State} (h : Frames all s0 s)
    (hk : ∀ t, Frames all s0 t → Frames all s0 (k t)) : Frames all s0 (withCommand target k s) :=
  frames_ite (hk _ h) (frames_fresh _ (frames_takeTrap h))

theorem frames_ringW {wake : Bool} (h : Frames all s0 s) : Frames all s0 (ringW wake s) :=
  frames_ite (frames_takeTrap h)
    (frames_withStoreEntry h fun _ ht => frames_withCommand ht fun _ ht' => frames_plainEntryAt ht')

theorem frames_engineStore {op : Nat → StOp} {own : Nat → Option Nat} {busy : Option Nat} {pre : State → State}
    (h : Frames all s0 s) (hpre : ∀ t, Frames all s0 t → Frames all s0 (pre t)) :
    Frames all s0 (engineStore op own busy pre s) := by
  refine frames_withStoreEntry h fun u hu => ?_
  have trapped (c : Nat) (a : Word) : Frames all s0 (wStoreTrap (dropWalks true u) c a u.wHead.d) :=
    frames_wStoreTrap (frames_dropWalks hu)
  have queued := fun (r : Req StOp) => frames_dropWalks (w := true) (frames_enterStore (r := r) (hpre _ (frames_settleAcq hu)))
  refine frames_ite (trapped _ _) ?_
  dsimp only
  split
  · exact frames_askWalk hu
  · exact trapped _ _
  · refine frames_ite hu (frames_ite (trapped _ _) ?_)
    cases busy with
    | some t => exact trapped _ _
    | none => exact queued _
  · refine frames_ite (frames_watchReport hu fun _ h' => frames_wStoreTrap (frames_dropWalks h')) ?_
    refine frames_ite (trapped _ _) (frames_ite (trapped _ _) ?_)
    split
    · exact trapped _ _
    · cases busy with
      | some t => exact trapped _ _
      | none => exact queued _

theorem frames_commandW {stamp : Bool} (h : Frames false s0 s) : Frames false s0 (commandW stamp s) := by
  unfold commandW
  split
  · exact frames_engineStore h fun _ ht => frames_fresh _ (frames_modRegs ht fun _ => rfl)
  · exact frames_engineStore h fun _ ht => frames_fresh _ ht

/-! ## F -/

theorem frames_modArray {q : Nat} {f : FoldArray → FoldArray} (h : Frames all s0 s) : Frames all s0 (s.modArray q f) :=
  frames_modQuad h

theorem frames_modMyArray {f : FoldArray → FoldArray} (h : Frames all s0 s) : Frames all s0 (s.modMyArray f) := frames_modArray h

theorem frames_modFold {f : FoldCore → FoldCore} (h : Frames all s0 s) : Frames all s0 (s.modFold f) := frames_modMe h fun _ => rfl

theorem frames_arrayOp {k : State → State} (h : Frames all s0 s) (hk : ∀ t, Frames all s0 t → Frames all s0 (k t)) :
    Frames all s0 (arrayOp s k) := frames_ite (hk _ h) (frames_fTrap h)

theorem frames_idleOp {k : State → State} (h : Frames all s0 s) (hk : ∀ t, Frames all s0 t → Frames all s0 (k t)) :
    Frames all s0 (idleOp s k) := frames_arrayOp h fun _ ht => frames_ite (frames_fTrap ht) (hk _ ht)

theorem frames_requestLease {wide : Bool} {a : Word} (h : Frames all s0 s) : Frames all s0 (requestLease wide a s) := by
  unfold requestLease
  split
  · exact frames_fTrap h
  · exact frames_fTrap h
  · exact frames_holdNow h
  · exact frames_ite (frames_fTrap h) (frames_modFold h)

theorem frames_modFeed {k : Nat} {f : Feed → Feed} (h : Frames false s0 s) : Frames false s0 (s.modFeed k f) :=
  frames_modRegs h fun _ => rfl

theorem frames_useFeed {k : Nat} (h : Frames false s0 s) : Frames false s0 (useFeed k s).2 := frames_modFeed h

theorem frames_stepOp {taps : Bool} {k : State → State} (h : Frames all s0 s)
    (hk : ∀ t, Frames all s0 t → Frames all s0 (k t)) : Frames all s0 (stepOp taps s k) :=
  frames_arrayOp h fun _ ht => frames_ite (frames_fTrap ht) (frames_ite (frames_fTrap ht) (hk _ ht))

theorem frames_enterStep {taps : Bool} {a : List (List Int)} {sel : List Nat} {b : List Int} (h : Frames all s0 s) :
    Frames all s0 (enterStep taps a sel b s) := frames_refresh (frames_modMyArray h)

theorem frames_countDrain (h : Frames all s0 s) : Frames all s0 (countDrain s) :=
  frames_ite (frames_modMyArray h) (frames_modFold (frames_modMyArray h))

theorem frames_drainTake {ka fs c : Nat} {vals : FMap Int} (h : Frames false s0 s) : Frames false s0 (drainTake ka fs c vals s) :=
  frames_refresh (frames_countDrain (frames_modMyArray (frames_useFeed h)))

theorem frames_execFDrain {k f : BitVec 3} {c : BitVec 2} {t : State} (h : Frames false s0 s)
    (e : exec (.fDrain k f c) s = .next t) : Frames false s0 t := by
  cases e
  refine frames_arrayOp h fun u hu => frames_ite (frames_fTrap hu) (frames_ite (frames_fTrap hu) ?_)
  split
  · exact frames_fTrap (frames_modFold hu)
  all_goals exact frames_ite (frames_fTrap hu) (frames_drainTake (frames_modFold hu))

/-! ## Every instruction outside C -/

theorem frames_exec {i : Instr} {p : Pos} {t : State} (hi : rowHome i = .slot p) (hp : p ≠ .C) (e : exec i s = .next t) :
    Frames (p ∈ [Pos.S, .VA, .VB, .K]) s t := by
  have h := frames_refl (p ∈ [Pos.S, .VA, .VB, .K]) s
  cases i with
  | sNop | vNop | lNop | fNop | kNop => cases e; exact h
  | sAdd | sSub | sMul | sMulh | sMin | sMax | sAnd | sOr | sXor | sAndn | sShl | sShr | sSar | sFsh | sBfx | sBfi |
    sSel | sLea | sAdds | sSubs => cases e; exact frames_aluS h
  | sAddi | sAndi | sOri | sXori | sShli | sShri | sSari | sFshi | sBfxi | sBfii | sPcnt | sClz | sCtz | sBrev |
    sBitrev | sLeai | sAbs | sCptr | sExt => cases e; exact frames_aluS1 h
  | sCmp => cases e; exact frames_withPops h fun _ ht => frames_result (frames_srcS (frames_srcS ht))
  | sCmpi => cases e; exact frames_withPops h fun _ ht => frames_result (frames_srcS ht)
  | sLi | sLih | vMpop | vMfirst | vMovi => cases e; exact frames_dest h
  | sSrd => cases e; exact frames_sysAllowed h fun _ ht => frames_dest ht
  | sSwr =>
    cases e
    exact frames_sysAllowed h fun _ ht => frames_withPops ht fun _ ht' => frames_result (frames_srcS ht')
  | vAdd | vSub | vMul | vMulh | vFma | vFms | vFnma | vMin | vMax | vAdds | vSubs | vAvg | vMac | vShl | vShr | vSar | vRotl |
    vFsh | vClamp | vAnd | vOr | vXor | vAndn | vBfx | vBfi | vPack | vXtr | vBcast | vLane | vPerm | vZip | vUnzip | vLrot |
    vSlide | vSel | vDot => cases e; exact frames_vec2 h
  | vAbs | vNeg | vPcnt | vClz | vFcls | vNot | vShli | vShri | vSari | vCvt | vCvtn | vCvtw | vCvth | vQblk | vBcasti | vCmpr |
    vExpd | vRadd | vRmax | vRmin | vRbor | vScan | vIota | vRcp | vRsq | vExp2 | vLog2 | vSigm => cases e; exact frames_vec1 h
  | vCmp => cases e; exact frames_withPops h fun _ ht => frames_result (frames_srcVE (frames_srcVE ht))
  | vCmpi => cases e; exact frames_withPops h fun _ ht => frames_result (frames_srcVE ht)
  | vPackw => cases e; exact frames_withPops h fun _ ht => frames_dest (frames_dest (frames_srcV ht))
  | vXtrw => cases e; exact frames_withPops h fun _ ht => frames_dest (frames_srcV ht)
  | vLut | vLuti => cases e; exact frames_refresh (frames_vec2 h)
  | vMand | vMor | vMxor | vMnot | kSet | kMov | kRot | kClr => cases e; exact frames_result h
  | kLd | kLdh => cases e; exact frames_scaleLoad h
  | kLdi => cases e; exact frames_ite (frames_incAfter (frames_scaleLoad h)) h
  | kLdmx => cases e; exact frames_refresh (frames_result h)
  | kSt => cases e; exact frames_alignedK h fun _ ht => frames_modPipe ht fun _ => rfl
  | lLd | lLdx | lLdsc => cases e; exact frames_padLoad h
  | lLdi | lLdb => cases e; exact frames_padLoadBase h
  | lLdst => cases e; exact frames_withEntry h fun _ ht => frames_alignedL ht fun _ ht' => frames_refresh (frames_reserveFixed ht')
  | lLdw =>
    cases hi
    cases e
    refine frames_withEntry h fun _ ht => frames_alignedL ht fun _ ht' => ?_
    split
    · exact frames_takeTrap ht'
    · exact frames_touchFill (frames_refresh (frames_result (frames_reserveFixed ht')))
  | lLdg | lLdgsc | lLdacq | lLdgx | lLdnt | lWait | lWaitne | lLdstamp => cases e; exact frames_globalLoad h
  | lLdgi => cases e; exact frames_ite (frames_incAfter (frames_globalLoad h)) (frames_zeroEntry h)
  | lLdr => exact frames_execLLdr h e
  | lWadv =>
    cases hi
    cases e
    refine frames_ite h ?_
    split
    · exact frames_takeTrap h
    · exact frames_advance (frames_settleAcq h)
  | lWmap => cases e; exact frames_alignedL h fun _ ht => frames_ite (frames_takeTrap ht) (frames_refresh (frames_result ht))
  | lWres =>
    cases e
    split
    · exact frames_takeTrap h
    · exact frames_result h
  | lPreq =>
    cases e
    exact frames_ite (frames_holdNow h) (frames_ite (frames_settleAcq h) (frames_enterLoad (frames_settleAcq h)))
  | lPf | lPfl2 => cases e; exact frames_prefetch h
  | lLdm => cases e; exact frames_alignedL h fun _ ht => frames_refresh (frames_result ht)
  | lLdacc => cases e; exact frames_withEntry h fun _ ht => frames_alignedL ht fun _ ht' => frames_refresh (frames_reserveFixed ht')
  | lLdaccw =>
    cases e
    exact frames_withEntry h fun _ ht =>
      frames_ite (frames_alignedL ht fun _ ht' => frames_refresh (frames_reserveFixed ht')) (frames_takeTrap ht)
  | lLdz =>
    cases e
    exact frames_withEntry h fun _ ht => frames_alignedL ht fun _ ht' => frames_refresh (frames_landNow (frames_reserveFixed ht'))
  | lLds => cases e; exact frames_withQueue h (frames_alignedL h fun _ ht => frames_enterLoad (frames_settleAcq ht))
  | lXlat => cases e; exact frames_withQueue h (frames_enterLoad (frames_settleAcq h))
  | wNop => cases e; exact frames_wPop h
  | wSt | wStx | wStsc | wStm | wStst => cases e; exact frames_slotStore h
  | wSti => cases e; exact frames_ite (frames_slotStore h) (frames_wPop h)
  | wStw =>
    cases hi
    cases e
    refine frames_ite (frames_wStoreTrap h) (frames_ite (frames_wStoreTrap h) ?_)
    split
    · exact frames_wStoreTrap h
    · exact frames_slotStore (frames_touchFill (frames_markDirty h))
  | wStg | wStgx | wStgsc | wStnt => cases e; exact frames_globalStore h
  | wStgi => cases e; exact frames_ite (frames_globalStore h) (frames_wPop h)
  | wStrel => cases e; exact frames_ite (frames_globalStore h) h
  | wStacc => cases e; exact frames_ite (frames_ite (frames_slotStore h) (frames_wStoreTrap h)) (frames_slotStore h)
  | wAmo | wAmoacq | wAmorel | wCas | wCasacq | wCasrel => cases e; exact frames_atomicW h
  | wMark | wFence => cases e; exact frames_fenceW h
  | wDiscard =>
    cases e
    exact frames_withStoreEntry h fun _ ht => frames_issueAccess ht (fun _ h' => h') (fun _ _ _ h' => frames_takeTrap h')
      fun _ _ h' => frames_dropWalks (frames_enterStore (frames_settleAcq h'))
  | wGo | wStamp => cases hi; cases e; exact frames_commandW h
  | wApw => cases e; exact frames_engineStore h fun _ ht => ht
  | wMailw => cases e; exact frames_ite (frames_takeTrap h) (frames_plainEntryAt h)
  | wArrive =>
    cases hi
    cases e
    exact frames_withStoreEntry h fun _ ht => frames_withCommand ht fun _ ht' =>
      frames_fresh _ (frames_modRegs (frames_plainEntryAt ht') fun _ => rfl)
  | wTkset => cases e; exact frames_plainEntryAt h
  | wWb | wInv => cases e; exact frames_lineOp h
  | wRingDb | wRingWk => cases e; exact frames_ringW h
  | wFlushw =>
    cases hi
    cases e
    split
    · exact frames_takeTrap h
    · exact frames_withStoreEntry h fun _ ht => frames_wPop (frames_writeBackAll (frames_settleAcq ht))
  | fLease | fLeasew => cases e; exact frames_requestLease h
  | fFree => cases e; exact frames_ite (frames_modMyArray h) h
  | fGuard | fFmt | fCsum | fAccsel => cases e; exact frames_idleOp h fun _ ht => frames_modMyArray ht
  | fRoute | fMcast | fClr => cases e; exact frames_arrayOp h fun _ ht => frames_modMyArray ht
  | fFset | fFadd | fFstr | fFwrap => cases hi; cases e; exact frames_modFeed h
  | fStage =>
    cases hi
    cases e
    exact frames_arrayOp h fun _ ht =>
      frames_refresh (frames_modMyArray (frames_foldl_snd (fun _ _ ht' => frames_useFeed ht') ht))
  | fOuter | fTaps =>
    cases hi
    cases e
    exact frames_stepOp h fun _ ht => frames_enterStep (frames_useFeed (frames_useFeed ht))
  | fSouter | fStaps => cases hi; cases e; exact frames_stepOp h fun _ ht => frames_enterStep (frames_useFeed ht)
  | fWide => cases e; exact frames_arrayOp h fun _ ht => frames_ite (frames_fTrap ht) (frames_result (frames_result ht))
  | fDrain => cases hi; exact frames_execFDrain h e
  | fDrainz => cases e; exact frames_arrayOp h fun _ ht => frames_countDrain (frames_modMyArray ht)
  | fFence => cases e; exact frames_arrayOp h fun _ ht => frames_ite (frames_modPipe ht fun _ => rfl) ht
  | fInject => cases e; exact frames_arrayOp h fun _ ht => frames_ite (frames_modMyArray ht) (frames_fTrap ht)
  | fCscnt =>
    cases e
    exact frames_ite (frames_result (frames_ite (frames_modFold h) h))
      (frames_modMe (frames_ite (frames_modFold h) h) fun _ => rfl)
  | _ => cases hi <;> exact absurd rfl hp

end Sys2Proof.Machine

namespace Sys2Proof

open Machine

/-- Settles O55: every operation that a syllable outside C calls at issue keeps the frame. -/
theorem issueFrames : Obligations.IssueFrames := by
  refine ⟨fun i p s t hi hp e => ?_, fun i p s t hi hp e => ?_⟩
  · have kept := frames_exec hi hp e
    exact ⟨kept.cur, filesSame_of_frames kept⟩
  · have outsideC : p ≠ .C := by
      rintro rfl
      exact absurd hp (by decide)
    have kept := frames_exec hi outsideC e
    rw [decide_eq_true hp] at kept
    exact sameRegisters_of_frames kept

end Sys2Proof
end

section
/-! PROOF. Taking a trap and the faults of a whole bundle (O54, R80, R263 to R266, R269). -/

namespace Sys2Proof.Machine

/-! ## A trap of the task -/

/-- The registers of a core whose task has taken a trap; the outrider starts at frt. -/
def trapEntry (frt : Word) (cause : Nat) (a : Word) (slot : Nat) (b : Word) (slip fetch : Bool) (r : CoreRegs) : CoreRegs :=
  { r with
    trap := { r.trap with
      tcause := BitVec.ofNat 8 cause
      taddr := a
      tbundle := b
      tslot := BitVec.ofNat 3 slot
      behind := if slip then some (if slot = 5 then r.task.wn else r.task.fn) else none
      syl := if syllableCause cause && !fetch then some slot else none
      parked := none
      tstatus := (if slip then 0x11 else 0x01) ||| (if fetch then 0x20 else 0) ||| (r.trap.tstatus &&& 0x40) }
    out := .running
    task := if slip then r.task else r.task.withdraw
    outr := r.outr.startAt frt }

variable {s : State} {cause slot : Nat} {a b : Word} {slip fetch : Bool}

theorem me_takeTrap (h : s.me.outrider = false) : (takeTrap s cause a slot b slip fetch).me =
    s.me.modRegs (trapEntry (s.ctx s.regs.id.tag).frt cause a slot b slip fetch) := by
  rw [takeTrap, if_neg (by rw [h]; decide), me_traceRecord, me_modRegs]
  rfl

/-- R264: the bits of TSTATUS: the task is held, neither acknowledged nor double, a slip, a fetch, and the bit that stays. -/
theorem tstatus_bits (x : BitVec 7) (slip fetch : Bool) :
    let y := (if slip then 0x11 else 0x01) ||| (if fetch then 0x20 else 0) ||| (x &&& 0x40)
    y.getLsbD 0 = true ∧ y.getLsbD 1 = false ∧ y.getLsbD 2 = false ∧ y.getLsbD 3 = false ∧ y.getLsbD 4 = slip ∧
      y.getLsbD 5 = fetch ∧ y.getLsbD 6 = x.getLsbD 6 := by
  cases slip <;> cases fetch <;> simp

/-! ## What W has issued ahead -/

theorem withdraw_of_le {p : Pipe} (h : p.wn ≤ p.bn) : p.withdraw = p := if_pos h

theorem withdraw_of_lt {p : Pipe} (h : p.bn < p.wn) : p.withdraw.wn = p.bn ∧ p.withdraw.sq = p.sq.filter (fun r => r.bn < p.bn) ∧
    p.withdraw.lq = p.lq.filter (fun r => r.bn < p.bn) ∧ p.withdraw.spst = p.spst.filter (fun x => x.bn < p.bn) := by
  rw [Pipe.withdraw, if_neg (Nat.not_le.mpr h)]
  exact ⟨rfl, rfl, rfl, rfl⟩

theorem withdraw_keeps (p : Pipe) : p.withdraw.bq = p.bq ∧ p.withdraw.fq = p.fq ∧ p.withdraw.s = p.s ∧ p.withdraw.p = p.p ∧
    p.withdraw.latch = p.latch ∧ p.withdraw.ldq = p.ldq := by
  unfold Pipe.withdraw
  split <;> exact ⟨rfl, rfl, rfl, rfl, rfl, rfl⟩

/-! ## The task's trap, whole -/

theorem memorySame_of_frames {all : Bool} {t : State} (h : Frames all s t) : MemorySame s t := fun a => by rw [h.mem]

theorem taskOf_eq (s : State) (n : CoreId) : taskOf s n = (regsOf s n).task := rfl

theorem frames_takeTrap_refl : Frames true s (takeTrap s cause a slot b slip fetch) := frames_takeTrap (frames_refl true s)

theorem regsOf_takeTrap (h : s.me.outrider = false) : regsOf (takeTrap s cause a slot b slip fetch) s.cur =
    trapEntry (s.ctx s.regs.id.tag).frt cause a slot b slip fetch s.regs := by
  have cur : (takeTrap s cause a slot b slip fetch).cur = s.cur := frames_takeTrap_refl.cur
  have me := me_takeTrap (cause := cause) (a := a) (slot := slot) (b := b) (slip := slip) (fetch := fetch) h
  rw [State.me, cur] at me
  rw [regsOf, me]
  rfl

theorem trapTaken_takeTrap (h : s.me.outrider = false) (hc : cause < 256) (hs : slot < 8) :
    TrapTaken s (takeTrap s cause a slot b slip fetch) s.cur cause a slot b := by
  obtain ⟨held, acked, -⟩ := tstatus_bits s.regs.trap.tstatus slip fetch
  obtain ⟨-, -, keptS, keptP, -⟩ := withdraw_keeps s.regs.task
  have kept := frames_takeTrap_refl (s := s) (cause := cause) (a := a) (slot := slot) (b := b) (slip := slip) (fetch := fetch)
  unfold TrapTaken
  simp only [taskOf_eq, regsOf_takeTrap h]
  refine ⟨?_, rfl, ?_, rfl, held, acked, rfl, rfl, ?_, ?_, rfl, memorySame_of_frames kept, kept.others⟩
  · exact (BitVec.toNat_ofNat ..).trans (Nat.mod_eq_of_lt hc)
  · exact (BitVec.toNat_ofNat ..).trans (Nat.mod_eq_of_lt hs)
  · cases slip
    · exact keptS
    · rfl
  · cases slip
    · exact keptP
    · rfl

/-! ## A fault of the outrider -/

/-- R269, R270: the kind of the record and the end of the outrider: OUTRIDER after `c.ack`, DOUBLE before it. -/
theorem takeTrap_outrider (h : s.me.outrider = true) : takeTrap s cause a slot b slip fetch =
    let acked := s.regs.trap.tstatus.getLsbD 1
    (s.record (trapRecord s (if acked then 3 else 2) cause a)).modRegs
      (fun r => { r with out := if acked then .fault cause a else .double cause a }) := by
  rw [takeTrap, if_pos h, outriderFault]
  cases s.regs.trap.tstatus.getLsbD 1 <;> rfl

/-! ## The faults of a whole bundle -/

theorem decodeFault_pos {o : Bool} {p : Pos} {u : BitVec 32} {c : Nat} (h : decodeFault o p u = some c) : 0 < c := by
  unfold decodeFault at h
  split at h
  · cases h; decide
  · cases h; split <;> decide
  · split at h <;> cases h
    decide

theorem sylFault_zero (s : State) (b : Bundle) (p : Pos) : sylFault s b p 0 = false := by
  unfold sylFault
  dsimp only
  split
  · next c h => exact decide_eq_false (decodeFault_pos h).ne
  · split
    · simp [cPRIVILEGE, cBANK_UNBOUND]
    · rfl

/-- What lies before an element of a list in rising order stands ahead of it. -/
theorem mem_ahead_of_lt {α : Type} {f : α → Nat} {l l₁ l₂ : List α} {x y : α} (rising : l.Pairwise (fun u v => f u ≤ f v))
    (cut : l = l₁ ++ x :: l₂) (hy : y ∈ l) (lt : f y < f x) : y ∈ l₁ := by
  subst cut
  obtain ⟨-, tail, -⟩ := List.pairwise_append.mp rising
  obtain h | h := List.mem_append.mp hy
  · exact h
  · obtain rfl | h := List.mem_cons.mp h
    · exact absurd lt (Nat.lt_irrefl _)
    · exact absurd ((List.pairwise_cons.mp tail).1 y h) (Nat.not_le.mpr lt)

/-- R80: the fault of a bundle is the first cause that a syllable has, at the lowest position that has it. -/
theorem bundleFault_eq_some {s : State} {b : Bundle} {c : Nat} {p : Pos} (h : bundleFault s b = some (c, p)) :
    sylFault s b p c = true ∧ (∀ q, sylFault s b q c = true → p.num ≤ q.num) ∧ ∀ q k, k < c → sylFault s b q k = false := by
  have every (q : Pos) : q ∈ posList := by cases q <;> decide
  obtain ⟨l₁, x, l₂, cut, found, earlier⟩ := List.findSome?_eq_some_iff.mp h
  obtain ⟨y, found, e⟩ := Option.map_eq_some_iff.mp found
  cases e
  obtain ⟨here, r₁, r₂, cut', lower⟩ := List.find?_eq_some_iff_append.mp found
  refine ⟨here, fun q hq => Nat.le_of_not_lt fun lt => ?_, fun q k lt => ?_⟩
  · have ahead : q ∈ r₁ := mem_ahead_of_lt (f := Pos.num) (by decide) cut' (every q) lt
    exact absurd hq (by simpa using lower q ahead)
  · obtain rfl | pos := Nat.eq_zero_or_pos k
    · exact sylFault_zero s b q
    · have last : c ∈ [1, 2, 3, 4] := by
        show c ∈ [cILLEGAL_OP, cILLEGAL_COMBO, cPRIVILEGE, cBANK_UNBOUND]
        rw [cut]
        simp
      have cause : k ∈ [1, 2, 3, 4] := by
        simp only [List.mem_cons, List.not_mem_nil, or_false] at last ⊢
        omega
      have none := earlier k (mem_ahead_of_lt (f := id) (by decide) cut cause lt)
      simpa using List.find?_eq_none.mp (Option.map_eq_none_iff.mp none) q (every q)

end Sys2Proof.Machine

namespace Sys2Proof

open Machine

/-- Settles O54: the registers of a task's trap are written out (`trapEntry`), and a bundle's fault is the first element that two
searches through rising lists find. -/
theorem trapsEnter : Obligations.TrapsEnter := by
  refine ⟨fun s cause a slot b slip fetch h hc hs => ?_, fun s cause a slot b slip fetch h => ?_, fun p => ?_, fun s b c p h => ?_⟩
  · intro t
    obtain ⟨-, -, double, fault, slipped, fetched, kept⟩ := tstatus_bits s.regs.trap.tstatus slip fetch
    have me : t.me = _ := me_takeTrap h
    refine ⟨trapTaken_takeTrap h hc hs, ?_⟩
    rw [State.regs, me]
    exact ⟨rfl, rfl, rfl, double, fault, slipped, fetched, kept, rfl, rfl⟩
  · intro t k
    have kept : Frames true s t := frames_takeTrap_refl
    refine ⟨?_, ?_, memorySame_of_frames kept, kept.others⟩
    · rw [show t = _ from takeTrap_outrider h, regs_modRegs]
      rfl
    · rw [show t = _ from takeTrap_outrider h, State.modRegs, quad_modMe, State.record, quad_modQuad_same]
  · intro w
    obtain ⟨bq, fq, ts, tp, latch, ldq⟩ := withdraw_keeps p
    exact ⟨withdraw_of_le, bq, fq, ts, tp, latch, ldq, withdraw_of_lt⟩
  · obtain ⟨here, lowest, first⟩ := bundleFault_eq_some h
    refine ⟨?_, here, lowest, first⟩
    rw [issueBundle, h]
    simp only [Bool.or_eq_true, decide_eq_true_eq]
    rfl

end Sys2Proof
end

section
/-! PROOF. Decoding and encoding (O51, O52). A word of `encode` is a sum of fields, and a map reads fields by quotient and
remainder: a field of a sum is found by dropping the terms above and below it, and in the other direction adjacent fields telescope
to the word. -/

namespace Sys2Proof.Machine

/-! ## The fields of a sum of fields

`encode` writes a word as a literal and operands times powers of two. A field x / p % q of such a sum is read term by term, from the
last: a term wholly above the field or wholly below it goes, and the term that stands there is the answer. -/

section fields
variable {x c p q m : Nat}

theorem field_add_above (v : Nat) (h : c % (p * q) = 0) : (x + v * c) / p % q = x / p % q := by
  obtain ⟨r, rfl⟩ := Nat.dvd_of_mod_eq_zero h
  obtain rfl | hp := Nat.eq_zero_or_pos p
  · simp
  · rw [show v * (p * q * r) = p * (q * (v * r)) by ring, Nat.add_mul_div_left _ _ hp, Nat.add_mul_mod_self_left]

theorem field_add_here (v : BitVec m) (hq : 2 ^ m = q) (hp : 0 < p) (h : x / p % q = 0) : (x + v.toNat * p) / p % q = v.toNat := by
  subst hq
  rw [Nat.add_mul_div_right _ _ hp, Nat.add_mod, h, Nat.zero_add, Nat.mod_mod, Nat.mod_eq_of_lt v.isLt]

theorem field_add_below (v : BitVec m) (hp : p % (c * 2 ^ m) = 0) (h : x / c % 2 ^ m = 0) :
    (x + v.toNat * c) / p % q = x / p % q := by
  obtain rfl | hc := Nat.eq_zero_or_pos c
  · rw [Nat.mul_zero, Nat.add_zero]
  obtain ⟨r, rfl⟩ := Nat.dvd_of_mod_eq_zero hp
  have hlow : (x + v.toNat * c) / c / 2 ^ m = x / c / 2 ^ m := by
    rw [Nat.add_mul_div_right _ _ hc]
    conv_lhs => rw [← Nat.div_add_mod (x / c) (2 ^ m), h, Nat.add_zero]
    rw [Nat.mul_add_div (Nat.two_pow_pos m), Nat.div_eq_of_lt v.isLt, Nat.add_zero]
  rw [← Nat.div_div_eq_div_mul, ← Nat.div_div_eq_div_mul, hlow, Nat.div_div_eq_div_mul, Nat.div_div_eq_div_mul,
    Nat.mul_assoc]

theorem field_add_unit_here (v : BitVec m) (hq : 2 ^ m = q) (h : x / 1 % q = 0) : (x + v.toNat) / 1 % q = v.toNat := by
  simpa using field_add_here v hq Nat.one_pos h

theorem field_add_unit_below (v : BitVec m) (hp : p % 2 ^ m = 0) (h : x / 1 % 2 ^ m = 0) : (x + v.toNat) / p % q = x / p % q := by
  simpa using field_add_below (q := q) v (by simpa using hp) h

end fields

theorem fld_word {x lo n : Nat} (h : 2 ^ 32 % (2 ^ lo * 2 ^ n) = 0) : fld (word x) lo n = x / 2 ^ lo % 2 ^ n := by
  obtain ⟨k, hk⟩ := Nat.dvd_of_mod_eq_zero h
  rw [fld, word, BitVec.toNat_ofNat, hk, Nat.mul_assoc, Nat.mod_mul_right_div_self, Nat.mod_mod_of_dvd _ (Nat.dvd_mul_right _ k)]

theorem fldB_toNat (u : BitVec 32) (lo n : Nat) : (fldB u lo n).toNat = fld u lo n := BitVec.toNat_ofNat ..

theorem fldB_word {x lo n : Nat} (h : 2 ^ 32 % (2 ^ lo * 2 ^ n) = 0) :
    fldB (word x) lo n = BitVec.ofNat n (x / 2 ^ lo % 2 ^ n) := by
  rw [← fld_word h, ← fldB_toNat, BitVec.ofNat_toNat, BitVec.setWidth_eq]

/-! ## Reading what was encoded

The word of each instruction is a sum of fields; the opcode field picks its arm of the map, whose reserved fields are then as they
must be and whose operand fields are the instruction's. The word is a variable u, so that no step evaluates it. -/

/-- A field of a word that is a sum of fields: drop what is above or below it. -/
theorem fld_of_sum :
    (∀ {x lo n : Nat}, 2 ^ 32 % (2 ^ lo * 2 ^ n) = 0 → fld (word x) lo n = x / 2 ^ lo % 2 ^ n) ∧
    (∀ {x c p q m : Nat} (v : BitVec m), c % (p * q) = 0 → (x + v.toNat * c) / p % q = x / p % q) ∧
    (∀ {x c p q m : Nat} (v : BitVec m), p % (c * 2 ^ m) = 0 → x / c % 2 ^ m = 0 → (x + v.toNat * c) / p % q = x / p % q) ∧
    (∀ {x p q m : Nat} (v : BitVec m), p % 2 ^ m = 0 → x / 1 % 2 ^ m = 0 → (x + v.toNat) / p % q = x / p % q) :=
  ⟨fld_word, fun v => field_add_above v.toNat, field_add_below, field_add_unit_below⟩

/-- The same as bits, and the term that stands in the field. -/
theorem fldB_of_sum :
    (∀ {x lo n : Nat}, 2 ^ 32 % (2 ^ lo * 2 ^ n) = 0 → fldB (word x) lo n = BitVec.ofNat n (x / 2 ^ lo % 2 ^ n)) ∧
    (∀ {x p q m : Nat} (v : BitVec m), 2 ^ m = q → 0 < p → x / p % q = 0 → (x + v.toNat * p) / p % q = v.toNat) ∧
    (∀ {x q m : Nat} (v : BitVec m), 2 ^ m = q → x / 1 % q = 0 → (x + v.toNat) / 1 % q = v.toNat) ∧
    (∀ {m : Nat} (v : BitVec m), BitVec.ofNat m v.toNat = v) :=
  ⟨fldB_word, field_add_here, field_add_unit_here, fun v => by rw [BitVec.ofNat_toNat, BitVec.setWidth_eq]⟩

theorem rawS_of_encode {u : BitVec 32} {i : Instr} (h : rowHome i = .slot .S) (hu : u = encode i) : rawS u = some i := by
  cases i <;> (try cases ‹VSlot›) <;> cases h
  all_goals
    change u = word _ at hu
    unfold rawS
    generalize hk : fld u 25 7 = k
    simp only [hu, fld_of_sum, Nat.reducePow, Nat.reduceDiv, Nat.reduceMod, Nat.reduceMul] at hk
    subst hk
    simp only [hu, fld_of_sum, fldB_of_sum, Nat.reducePow, Nat.reduceDiv, Nat.reduceMod, Nat.reduceMul, Nat.reduceLT, and_self,
      if_true]

theorem rawC_of_encode {u : BitVec 32} {i : Instr} (h : rowHome i = .slot .C) (hu : u = encode i) : rawC u = some i := by
  cases i <;> (try cases ‹VSlot›) <;> cases h
  all_goals
    change u = word _ at hu
    unfold rawC
    generalize hk : fld u 25 6 = k
    simp only [hu, fld_of_sum, Nat.reducePow, Nat.reduceDiv, Nat.reduceMod, Nat.reduceMul] at hk
    subst hk
    simp only [hu, fld_of_sum, fldB_of_sum, Nat.reducePow, Nat.reduceDiv, Nat.reduceMod, Nat.reduceMul, Nat.reduceLT, and_self,
      if_true]

theorem rawL_of_encode {u : BitVec 32} {i : Instr} (h : rowHome i = .slot .L) (hu : u = encode i) : rawL u = some i := by
  cases i <;> (try cases ‹VSlot›) <;> cases h
  all_goals
    change u = word _ at hu
    unfold rawL
    generalize hk : fld u 25 7 = k
    simp only [hu, fld_of_sum, Nat.reducePow, Nat.reduceDiv, Nat.reduceMod, Nat.reduceMul] at hk
    subst hk
    simp only [hu, fld_of_sum, fldB_of_sum, Nat.reducePow, Nat.reduceDiv, Nat.reduceMod, Nat.reduceMul, Nat.reduceLT, and_self,
      if_true]

/-- The second encoding of its opcode value: the fields are not those of the first. -/
theorem rawW_of_wRingWk {u : BitVec 32} {a b : BitVec 6} (hu : u = encode (.wRingWk a b)) : rawW u = some (.wRingWk a b) := by
  change u = word _ at hu
  unfold rawW
  generalize hk : fld u 25 7 = k
  simp only [hu, fld_of_sum, Nat.reducePow, Nat.reduceDiv, Nat.reduceMod, Nat.reduceMul] at hk
  subst hk
  refine (if_neg ?_).trans ((if_pos ?_).trans ?_)
  all_goals simp only [hu, fld_of_sum, fldB_of_sum, Nat.reducePow, Nat.reduceDiv, Nat.reduceMod, Nat.reduceMul,
    Nat.reduceLT, and_self, Nat.one_ne_zero, and_false, not_false_iff]

theorem rawW_of_encode {u : BitVec 32} {i : Instr} (h : rowHome i = .slot .W) (hu : u = encode i) : rawW u = some i := by
  cases i <;> (try cases ‹VSlot›) <;> cases h
  case wRingWk.refl => exact rawW_of_wRingWk hu
  all_goals
    change u = word _ at hu
    unfold rawW
    generalize hk : fld u 25 7 = k
    simp only [hu, fld_of_sum, Nat.reducePow, Nat.reduceDiv, Nat.reduceMod, Nat.reduceMul] at hk
    subst hk
    simp only [hu, fld_of_sum, fldB_of_sum, Nat.reducePow, Nat.reduceDiv, Nat.reduceMod, Nat.reduceMul, Nat.reduceLT, and_self,
      if_true]

theorem rawF_of_encode {u : BitVec 32} {i : Instr} (h : rowHome i = .slot .F) (hu : u = encode i) : rawF u = some i := by
  cases i <;> (try cases ‹VSlot›) <;> cases h
  all_goals
    change u = word _ at hu
    unfold rawF
    generalize hk : fld u 25 7 = k
    simp only [hu, fld_of_sum, Nat.reducePow, Nat.reduceDiv, Nat.reduceMod, Nat.reduceMul] at hk
    subst hk
    simp only [hu, fld_of_sum, fldB_of_sum, Nat.reducePow, Nat.reduceDiv, Nat.reduceMod, Nat.reduceMul, Nat.reduceLT, and_self,
      if_true]

theorem rawK_of_encode {u : BitVec 32} {i : Instr} (h : rowHome i = .slot .K) (hu : u = encode i) : rawK u = some i := by
  cases i <;> (try cases ‹VSlot›) <;> cases h
  all_goals
    change u = word _ at hu
    unfold rawK
    generalize hk : fld u 25 7 = k
    simp only [hu, fld_of_sum, Nat.reducePow, Nat.reduceDiv, Nat.reduceMod, Nat.reduceMul] at hk
    subst hk
    simp only [hu, fld_of_sum, fldB_of_sum, Nat.reducePow, Nat.reduceDiv, Nat.reduceMod, Nat.reduceMul, Nat.reduceLT, and_self,
      if_true]

/-- The second encoding of its opcode value: the fields are not those of the first. -/
theorem rawQb_of_qbWaitbWake {u : BitVec 32} {d : BitVec 3} (hu : u = encode (.qbWaitbWake d)) :
    rawQb u = some (.qbWaitbWake d) := by
  change u = word _ at hu
  unfold rawQb
  generalize hk : fld u 0 8 = k
  simp only [hu, fld_of_sum, Nat.reducePow, Nat.reduceDiv, Nat.reduceMod, Nat.reduceMul] at hk
  subst hk
  refine (if_neg ?_).trans ((if_pos ?_).trans ?_)
  all_goals simp only [hu, fld_of_sum, fldB_of_sum, Nat.reducePow, Nat.reduceDiv, Nat.reduceMod, Nat.reduceMul,
    Nat.reduceLT, OfNat.ofNat_ne_zero, and_false, not_false_iff]

theorem rawQb_of_encode {u : BitVec 32} {i : Instr} (h : rowHome i = .queue) (hu : u = encode i) : rawQb u = some i := by
  cases i <;> (try cases ‹VSlot›) <;> cases h
  case qbWaitbWake.refl => exact rawQb_of_qbWaitbWake hu
  all_goals
    change u = word _ at hu
    unfold rawQb
    generalize hk : fld u 0 8 = k
    simp only [hu, fld_of_sum, Nat.reducePow, Nat.reduceDiv, Nat.reduceMod, Nat.reduceMul] at hk
    subst hk
    simp only [hu, fld_of_sum, fldB_of_sum, Nat.reducePow, Nat.reduceDiv, Nat.reduceMod, Nat.reduceMul, Nat.reduceLT, and_self,
      if_true]

theorem vslot_of_home {a b : VSlot} (h : (match a with | .va => Home.slot .VA | .vb => Home.slot .VB) = .slot (vpos b)) :
    a = b := by
  cases a <;> cases b <;> cases h <;> rfl

/-- The home is VA or VB. -/
def homeV : Home → Bool
  | .slot .VA | .slot .VB => true
  | _ => false

theorem homeV_of_home {vs : VSlot} {i : Instr} (h : rowHome i = .slot (vpos vs)) : homeV (rowHome i) = true := by
  rw [h]
  cases vs <;> rfl

theorem rawV_of_encode {vs : VSlot} {u : BitVec 32} {i : Instr} (h : rowHome i = .slot (vpos vs)) (hu : u = encode i) :
    rawV vs u = some i := by
  have hv := homeV_of_home h
  cases i <;> (try exact Bool.noConfusion hv) <;> (try obtain rfl := vslot_of_home h)
  all_goals
    change u = word _ at hu
    unfold rawV
    generalize hk : fld u 25 7 = k
    simp only [hu, fld_of_sum, Nat.reducePow, Nat.reduceDiv, Nat.reduceMod, Nat.reduceMul] at hk
    subst hk
    try refine (if_pos ?_).trans ?_
    all_goals simp only [hu, fld_of_sum, fldB_of_sum, Nat.reducePow, Nat.reduceDiv, Nat.reduceMod, Nat.reduceMul,
      Nat.reduceLT, and_self]

theorem rawSyl_encode {i : Instr} {p : Pos} (h : rowHome i = .slot p) : rawSyl p (encode i) = some i := by
  cases p with
  | S => exact rawS_of_encode h rfl
  | C => exact rawC_of_encode h rfl
  | VA => exact rawV_of_encode (vs := .va) h rfl
  | VB => exact rawV_of_encode (vs := .vb) h rfl
  | L => exact rawL_of_encode h rfl
  | W => exact rawW_of_encode h rfl
  | F => exact rawF_of_encode h rfl
  | K => exact rawK_of_encode h rfl

/-! ## Encoding what was read -/

/-- The bits of a word from bit k up. -/
def bitsFrom (u : BitVec 32) (k : Nat) : Nat := u.toNat / 2 ^ k

/-- A field is what stands from its low end up less what stands from its high end up, so that adjacent fields telescope. -/
theorem fld_telescope (u : BitVec 32) (lo n : Nat) : (fld u lo n : Int) = bitsFrom u lo - 2 ^ n * bitsFrom u (lo + n) := by
  have h := Nat.div_add_mod (u.toNat / 2 ^ lo) (2 ^ n)
  rw [Nat.div_div_eq_div_mul, ← Nat.pow_add] at h
  unfold fld bitsFrom
  push_cast at h ⊢
  linarith

theorem fld_eq_iff {u : BitVec 32} {lo n k : Nat} : fld u lo n = k ↔ (bitsFrom u lo - 2 ^ n * bitsFrom u (lo + n) : Int) = k := by
  rw [← fld_telescope, Int.natCast_inj]

theorem fldB_telescope (u : BitVec 32) (lo n : Nat) :
    ((fldB u lo n).toNat : Int) = bitsFrom u lo - 2 ^ n * bitsFrom u (lo + n) := by
  rw [fldB_toNat, fld_telescope]

theorem word_fld_zero {u : BitVec 32} {x n : Nat} (h : (x : Int) = bitsFrom u 0 - 2 ^ n * bitsFrom u n) :
    word x = word (fld u 0 n) := by
  congr 1
  rw [← Int.natCast_inj, fld_telescope, Nat.zero_add, h]

theorem word_fld_all (u : BitVec 32) : word (fld u 0 32) = u := by
  rw [fld, Nat.pow_zero, Nat.div_one, Nat.mod_eq_of_lt u.isLt, word, BitVec.ofNat_toNat, BitVec.setWidth_eq]

/-- Whatever instruction a reading holds, it encodes to v. -/
def Reads (v : BitVec 32) (r : Option Instr) : Prop := ∀ i, r = some i → encode i = v

theorem reads_none {v : BitVec 32} : Reads v none ↔ True := iff_true_intro fun _ h => nomatch h

theorem reads_some {v : BitVec 32} {i : Instr} : Reads v (some i) ↔ encode i = v := by
  simp [Reads]

theorem reads_ite {v : BitVec 32} {c : Prop} [Decidable c] {a b : Option Instr} :
    Reads v (if c then a else b) ↔ (c → Reads v a) ∧ (¬c → Reads v b) := by
  split <;> simp_all

theorem reads_rawS (u : BitVec 32) : Reads (word (fld u 0 32)) (rawS u) := by
  unfold rawS
  split
  all_goals simp only [reads_ite, reads_some, reads_none, implies_true, and_true]
  all_goals
    intros
    refine word_fld_zero ?_
    simp only [fld_eq_iff, fldB_telescope, Nat.cast_add, Nat.cast_mul, Nat.cast_ofNat, Nat.reduceAdd, Int.reducePow] at *
    omega

theorem reads_rawC (u : BitVec 32) : Reads (word (fld u 0 31)) (rawC u) := by
  unfold rawC
  split
  all_goals simp only [reads_ite, reads_some, reads_none, implies_true, and_true]
  all_goals
    intros
    refine word_fld_zero ?_
    simp only [fld_eq_iff, fldB_telescope, Nat.cast_add, Nat.cast_mul, Nat.cast_ofNat, Nat.reduceAdd, Int.reducePow] at *
    omega

theorem reads_rawV (vs : VSlot) (u : BitVec 32) : Reads (word (fld u 0 32)) (rawV vs u) := by
  unfold rawV
  split
  all_goals simp only [reads_ite, reads_some, reads_none, implies_true, and_true]
  all_goals
    intros
    refine word_fld_zero ?_
    simp only [fld_eq_iff, fldB_telescope, Nat.cast_add, Nat.cast_mul, Nat.cast_ofNat, Nat.reduceAdd, Int.reducePow] at *
    omega

theorem reads_rawL (u : BitVec 32) : Reads (word (fld u 0 32)) (rawL u) := by
  unfold rawL
  split
  all_goals simp only [reads_ite, reads_some, reads_none, implies_true, and_true]
  all_goals
    intros
    refine word_fld_zero ?_
    simp only [fld_eq_iff, fldB_telescope, Nat.cast_add, Nat.cast_mul, Nat.cast_ofNat, Nat.reduceAdd, Int.reducePow] at *
    omega

theorem reads_rawW (u : BitVec 32) : Reads (word (fld u 0 32)) (rawW u) := by
  unfold rawW
  split
  all_goals simp only [reads_ite, reads_some, reads_none, implies_true, and_true]
  all_goals
    and_intros
    all_goals
      intros
      refine word_fld_zero ?_
      simp only [fld_eq_iff, fldB_telescope, Nat.cast_add, Nat.cast_mul, Nat.cast_ofNat, Nat.reduceAdd, Int.reducePow] at *
      omega

theorem reads_rawF (u : BitVec 32) : Reads (word (fld u 0 32)) (rawF u) := by
  unfold rawF
  split
  all_goals simp only [reads_ite, reads_some, reads_none, implies_true, and_true]
  all_goals
    intros
    refine word_fld_zero ?_
    simp only [fld_eq_iff, fldB_telescope, Nat.cast_add, Nat.cast_mul, Nat.cast_ofNat, Nat.reduceAdd, Int.reducePow] at *
    omega

theorem reads_rawK (u : BitVec 32) : Reads (word (fld u 0 32)) (rawK u) := by
  unfold rawK
  split
  all_goals simp only [reads_ite, reads_some, reads_none, implies_true, and_true]
  all_goals
    intros
    refine word_fld_zero ?_
    simp only [fld_eq_iff, fldB_telescope, Nat.cast_add, Nat.cast_mul, Nat.cast_ofNat, Nat.reduceAdd, Int.reducePow] at *
    omega

theorem reads_rawQb (u : BitVec 32) : Reads (word (fld u 0 32)) (rawQb u) := by
  unfold rawQb
  split
  all_goals simp only [reads_ite, reads_some, reads_none, implies_true, and_true]
  all_goals
    and_intros
    all_goals
      intros
      refine word_fld_zero ?_
      simp only [fld_eq_iff, fldB_telescope, Nat.cast_add, Nat.cast_mul, Nat.cast_ofNat, Nat.reduceAdd, Int.reducePow] at *
      omega

/-- The bits of a syllable that its map reads: C leaves SYNC, bit 31, aside (R54). -/
theorem reads_rawSyl (p : Pos) (u : BitVec 32) : Reads (word (fld u 0 (if p = .C then 31 else 32))) (rawSyl p u) := by
  cases p with
  | S => exact reads_rawS u
  | C => exact reads_rawC u
  | VA => exact reads_rawV .va u
  | VB => exact reads_rawV .vb u
  | L => exact reads_rawL u
  | W => exact reads_rawW u
  | F => exact reads_rawF u
  | K => exact reads_rawK u

theorem word_fld_below_sync (u : BitVec 32) : word (fld u 0 31) = u &&& 0x7FFFFFFF := by
  refine BitVec.eq_of_toNat_eq ?_
  rw [BitVec.toNat_and, show (0x7FFFFFFF : BitVec 32).toNat = 2 ^ 31 - 1 from rfl, Nat.and_two_pow_sub_one_eq_mod, fld, word,
    Nat.pow_zero, Nat.div_one, BitVec.toNat_ofNat, Nat.mod_eq_of_lt ((Nat.mod_lt _ (by decide)).trans (by decide))]

/-! ## The judge -/

theorem judged_eq_ok {r : Option Instr} {i : Instr} : judged r = .ok i ↔ r = some i ∧ i.WellFormed := by
  cases r with
  | none => simp [judged]
  | some j =>
    unfold judged Instr.WellFormed
    cases hj : legality j <;> simp [hj] <;> grind

/-! ## Opcode values that no map assigns -/

theorem fld_top (u : BitVec 32) : fld u 25 7 = u.toNat / 2 ^ 25 := Nat.mod_eq_of_lt (by have := u.isLt; omega)

theorem rawS_unassigned {u : BitVec 32} (h : 46 ≤ fld u 25 7) : rawS u = none := by
  unfold rawS
  split
  case h_47 => rfl
  all_goals omega

theorem rawC_unassigned {u : BitVec 32} (h : 34 ≤ fld u 25 6) : rawC u = none := by
  unfold rawC
  split
  case h_35 => rfl
  all_goals omega

theorem rawV_unassigned (vs : VSlot) {u : BitVec 32} (h : 78 ≤ fld u 25 7) : rawV vs u = none := by
  unfold rawV
  split
  case h_79 => rfl
  all_goals omega

theorem rawL_unassigned {u : BitVec 32} (h : 30 ≤ fld u 25 7) : rawL u = none := by
  unfold rawL
  split
  case h_31 => rfl
  all_goals omega

theorem rawW_unassigned {u : BitVec 32} (h : 34 ≤ fld u 25 7) : rawW u = none := by
  unfold rawW
  split
  case h_35 => rfl
  all_goals omega

theorem rawF_unassigned {u : BitVec 32} (h : 26 ≤ fld u 25 7) : rawF u = none := by
  unfold rawF
  split
  case h_27 => rfl
  all_goals omega

theorem rawK_unassigned {u : BitVec 32} (h : 10 ≤ fld u 25 7) : rawK u = none := by
  unfold rawK
  split
  case h_11 => rfl
  all_goals omega

theorem rawQb_unassigned {u : BitVec 32} (h : 30 ≤ fld u 0 8) : rawQb u = none := by
  unfold rawQb
  split
  case h_31 => rfl
  all_goals omega

end Sys2Proof.Machine

namespace Sys2Proof

open Machine

/-- Settles O51: the words evaluate, and an op value past the last of its map falls through to the map's end. -/
theorem decodeWords : Obligations.DecodeWords := by
  unfold Obligations.DecodeWords
  refine ⟨rfl, rfl, rfl, rfl, rfl, rfl, rfl, rfl, rfl, rfl, rfl, fun u => ?_⟩
  have low : fld u 0 8 = u.toNat % 2 ^ 8 := by rw [fld, Nat.pow_zero, Nat.div_one]
  rw [← fld_top, ← low]
  refine ⟨fun h => ?_, fun h => ?_, fun h => ⟨?_, ?_⟩, fun h => ?_, fun h => ?_, fun h => ?_, fun h => ?_, fun h => ?_⟩
  · exact congrArg judged (rawS_unassigned h)
  · exact congrArg judged (rawC_unassigned (by rwa [fld_top] at h))
  · exact congrArg judged (rawV_unassigned .va h)
  · exact congrArg judged (rawV_unassigned .vb h)
  · exact congrArg judged (rawL_unassigned h)
  · exact congrArg judged (rawW_unassigned h)
  · exact congrArg judged (rawF_unassigned h)
  · exact congrArg judged (rawK_unassigned h)
  · exact congrArg judged (rawQb_unassigned h)

/-- Settles O52: in both directions the fields of the encoding are those of the map, arm by arm. -/
theorem roundTrip : Obligations.RoundTrip := by
  unfold Obligations.RoundTrip
  refine ⟨fun i hi he => ?_, fun i hi => ?_, fun p u i h => ?_, fun u i h => ?_⟩
  · cases hh : rowHome i with
    | slot p => exact judged_eq_ok.mpr ⟨rawSyl_encode hh, hi⟩
    | queue => exact judged_eq_ok.mpr ⟨rawQb_of_encode hh rfl, hi⟩
    | event => exact absurd hh he
  · have hc : encode i = encode i &&& 0x7FFFFFFF :=
      (reads_rawSyl .C _ i (rawSyl_encode hi)).trans (word_fld_below_sync _)
    rw [hc, BitVec.getLsbD_and]
    simp
  · obtain ⟨hr, hi⟩ := judged_eq_ok.mp h
    refine ⟨(reads_rawSyl p u i hr).trans ?_, hi⟩
    by_cases hp : p = .C
    · rw [if_pos hp, if_pos hp, word_fld_below_sync]
    · rw [if_neg hp, if_neg hp, word_fld_all]
  · obtain ⟨hr, hi⟩ := judged_eq_ok.mp h
    exact ⟨(reads_rawQb u i hr).trans (word_fld_all u), hi⟩

end Sys2Proof
end
